-- ==== Sys2Proof/Word.lean ====
section
/-! DEFINITION. The machine's word types and their plainest arithmetic (R3 to R6).
A register value and a pointer are 64 bits; an instruction word is 32 bits (R82). -/

namespace Sys2Proof

/-- A 64-bit register value or generic pointer (R48, R208). -/
abbrev Word := BitVec 64

/-- One byte of memory (R5). -/
abbrev Byte := BitVec 8

/-- An instruction word (R82). -/
abbrev IWord := BitVec 32

/-- A 7-bit register field (R34). -/
abbrev RegF := BitVec 7

end Sys2Proof
end

