-- ==== Sys2Proof/Syntax.lean ====
section
/-! DEFINITION. The instruction set as syntax: one constructor per row of the opcode table (R82 to R104),
and one per indivisible step of the machine that has no word (an event: R162 to R347). -/

namespace Sys2Proof

/-- The seven element-wise floating-point types, majors 0x1D to 0x23 in this order (R86, R94, R110). -/
inductive FpType where
  | f64 | f32 | f16 | b16 | f32x2 | f16x4 | b16x4
  deriving DecidableEq, Repr

/-- The float formats of the conversions (R95, R107). -/
inductive FpFmt where
  | f64 | f32 | f16 | b16 | e4m3 | e5m2
  deriving DecidableEq, Repr

/-- The integer formats of the conversions (R95, R109). -/
inductive IntFmt where
  | i32 | n32 | i64 | n64
  deriving DecidableEq, Repr

/-- The rounding field of a conversion (R95). -/
inductive Rnd where
  | dyn | rne | rtz | rup | rdn
  deriving DecidableEq, Repr

/-- The access sizes of format M (R90). -/
inductive Size where
  | i8 | n8 | i16 | n16 | i32 | n32 | d
  deriving DecidableEq, Repr

/-- Load orderings other than `.go` (R90). -/
inductive LdOrd where
  | plain | acq
  deriving DecidableEq, Repr

/-- Store orderings (R90). -/
inductive StOrd where
  | plain | rel | posted
  deriving DecidableEq, Repr

/-- Operations of `amo` (R91). -/
inductive AmoOp where
  | add | and | or | xor | min | max | minn | maxn | swap
  deriving DecidableEq, Repr

/-- The scope bit of an atomic (R91). -/
inductive AScope where
  | sq | dev
  deriving DecidableEq, Repr

/-- The scopes of `fence` and `qfen` (R92, R234). -/
inductive Scope where
  | ctx | core | sq | part | dev | sys
  deriving DecidableEq, Repr

/-- The kinds of `fence` (R92). -/
inductive FenceKind where
  | full | acq | rel
  deriving DecidableEq, Repr

/-- The engine field of `ewr` and `erd` (R103). -/
inductive Engine where
  | copy | repeat | matrix | rope | sample
  deriving DecidableEq, Repr

/-- Where a soft error strikes (R320): what finds it. -/
inductive ErrSite where
  /-- an instruction's own access to its core's register file (`true`) or local store (`false`) by the context in `slot` -/
  | access (core slot : Nat) (regFile : Bool) (addr : Word)
  /-- a core or square translation cache, or a rope node cache -/
  | cache (core : Nat)
  /-- any other reader, of data owned by `tenant` -/
  | other (core tenant : Nat) (addr : Word)
  /-- one core of a lockstep pair: its copy of the pair's state differs from the other's (R328, R329); `again` when the
  mismatch returns at the same point, `mem` when a weight bank or accumulator differs -/
  | pair (core : Nat) (again mem : Bool)
  deriving DecidableEq, Repr

/-- What arrives over a peer link (R304, R339). -/
inductive PeerAccess where
  | write (addr : Word) (size : Nat) (value : Word)
  | read  (addr : Word) (size : Nat)
  | sample (core slot tree : Nat) (step : BitVec 32) (cls : Bool) (value : BitVec 32) (index : BitVec 24) (count : Nat)
  deriving DecidableEq, Repr

/-- A host access (R335, R337): where it goes, its requester and its size in bytes. A longer one than 8 bytes arrives as its words (DEDUCED, log 43). -/
structure HostAcc where
  /-- the offset in what the event names, or the slot -/
  off : Nat
  req : Nat := 0
  size : Nat := 8
  deriving DecidableEq, Repr

/-- What the configuration blob sets (R340, R346): ordering code, enabled links, module power limit in mW, and the SHA3-256 digests of the keys whose
checkpoint images a restore accepts. -/
structure Blob where
  code : BitVec 2
  links : BitVec 12
  limit : BitVec 32
  sources : List (BitVec 256)
  deriving DecidableEq, Repr

/-- The states of a trusted device interface (R338). -/
inductive TdispState where
  | configUnlocked | configLocked | run | error
  deriving DecidableEq, Repr

/-- One constructor per row of the opcode table. `d`, `a`, `b` are the register fields rd, ra and rb of the format;
for stores `x` is the data field (R83, R90). -/
inductive Instr where
  -- major 0x01: ALU (R87)
  | add (d a b : RegF) | sub (d a b : RegF) | mul (d a b : RegF) | mulh (d a b : RegF) | mulhn (d a b : RegF)
  | div (d a b : RegF) | divn (d a b : RegF) | rem (d a b : RegF) | remn (d a b : RegF)
  | and (d a b : RegF) | or (d a b : RegF) | xor (d a b : RegF)
  | shl (d a b : RegF) | shr (d a b : RegF) | sra (d a b : RegF)
  | min (d a b : RegF) | max (d a b : RegF) | minn (d a b : RegF) | maxn (d a b : RegF)
  | slt (d a b : RegF) | sltn (d a b : RegF) | seq (d a b : RegF) | sel (d a b : RegF)
  | clz (d a : RegF) | ctz (d a : RegF) | pop (d a : RegF) | perm (d a b : RegF)
  -- majors 0x02 to 0x0A (R84, R88)
  | addi (d a : RegF) (imm : BitVec 12) | andi (d a : RegF) (imm : BitVec 12)
  | ori (d a : RegF) (imm : BitVec 12) | xori (d a : RegF) (imm : BitVec 12)
  | shli (d a : RegF) (n : BitVec 6) | shri (d a : RegF) (n : BitVec 6) | srai (d a : RegF) (n : BitVec 6)
  | slti (d a : RegF) (imm : BitVec 11) | sltni (d a : RegF) (imm : BitVec 11)
  | lui (d : RegF) (imm : BitVec 19) | addpc (d : RegF) (imm : BitVec 19)
  /-- `wm1` is width − 1 (R88) -/
  | bfx (d a : RegF) (lo : BitVec 6) (wm1 : BitVec 5)
  | bfi (d a : RegF) (lo : BitVec 6) (wm1 : BitVec 5)
  -- majors 0x0B to 0x14: branches (R89)
  | beq (a b : RegF) (off : BitVec 12) | bne (a b : RegF) (off : BitVec 12)
  | blt (a b : RegF) (off : BitVec 12) | bge (a b : RegF) (off : BitVec 12)
  | bltn (a b : RegF) (off : BitVec 12) | bgen (a b : RegF) (off : BitVec 12)
  | bsig (a : RegF) (n : BitVec 7) (off : BitVec 12)
  | b (off : BitVec 26) | bl (off : BitVec 26)
  | jr (d a : RegF) (imm : BitVec 12)
  -- majors 0x15 to 0x18: memory (R90)
  | ld (d a : RegF) (size : Size) (ord : LdOrd) (imm : BitVec 7)
  | ldGo (d a : RegF) (size : Size) (imm : BitVec 7)
  | st (x a : RegF) (size : Size) (ord : StOrd) (imm : BitVec 7)
  | ldt (d a : RegF) (imm : BitVec 7) | stt (x a : RegF) (imm : BitVec 7)
  | ldfe (d a : RegF) (imm : BitVec 7) | ldff (d a : RegF) (imm : BitVec 7)
  | stfe (x a : RegF) (imm : BitVec 7) | sete (a : RegF) (imm : BitVec 7)
  -- majors 0x19 to 0x1C (R91 to R93)
  | amo (op : AmoOp) (scope : AScope) (d a b : RegF) | cas (scope : AScope) (d a b : RegF)
  | fence (kind : FenceKind) (scope : Scope)
  | spc (d a : RegF) | cvspLoc (d a : RegF) | cvspSq (d a : RegF) | cvspRem (d a : RegF)
  -- majors 0x1D to 0x23: element-wise floating point (R94)
  | fadd (t : FpType) (d a b : RegF) | fsub (t : FpType) (d a b : RegF) | fmul (t : FpType) (d a b : RegF)
  | fma (t : FpType) (d a b : RegF) | fnma (t : FpType) (d a b : RegF) | fdiv (t : FpType) (d a b : RegF)
  | fsqrt (t : FpType) (d a : RegF) | fmin (t : FpType) (d a b : RegF) | fmax (t : FpType) (d a b : RegF)
  | fneg (t : FpType) (d a : RegF) | fabs (t : FpType) (d a : RegF) | fcmp (t : FpType) (d a b : RegF)
  | fcls (t : FpType) (d a : RegF) | frcp (t : FpType) (d a : RegF) | fex2 (t : FpType) (d a : RegF)
  | flg2 (t : FpType) (d a : RegF)
  -- majors 0x24 to 0x26 (R95, R96)
  | fcvt (dst src : FpFmt) (rnd : Rnd) (d a : RegF) | fcvi (dst : IntFmt) (src : FpFmt) (rnd : Rnd) (d a : RegF)
  | icvf (dst : FpFmt) (src : IntFmt) (rnd : Rnd) (d a : RegF)
  | sigr (d a : RegF) | sigw (d a : RegF) (n : BitVec 7)
  | qblkI8 (d a b : RegF) | qblkI4 (d a b : RegF) | fscl (d a b : RegF)
  -- major 0x27: EXEC (R97)
  | exit | yield | pass (m : BitVec 7) | take (d : RegF) | go (a : RegF) | susp (a : RegF)
  | spawn (d a : RegF) | spawnTry (d a : RegF) | spawnW (d a : RegF)
  | ctxnew (d a : RegF) | ctxkill (a : RegF) | hold (a : RegF)
  -- majors 0x28 to 0x2B (R98, R99)
  | wait (l s c m q : BitVec 5)
  | bar (n : BitVec 3) | barw (n : BitVec 3) | semp (n : BitVec 4) | semv (n : BitVec 4)
  | one
  -- majors 0x2C and 0x2D (R100, R101)
  /-- `nm1` is n − 1, `span` is hi − lo -/
  | rep (nm1 : BitVec 4) (s : BitVec 7) (lo : BitVec 7) (span : BitVec 6)
  | sbind (d a : RegF) | sfree (d : RegF)
  | gnewZero (d a b : RegF) | gnewTrap (d a b : RegF) | gfree (a : RegF) | gchk (d a : RegF)
  -- majors 0x2E to 0x31: engine commands (R102)
  | cpy (a b : RegF) (set : BitVec 3) | cpym (a b : RegF) (set : BitVec 3) | deal (a b : RegF) (set : BitVec 3)
  | bkt (a b : RegF) (set : BitVec 3) | qfen (scope : Scope) (a : RegF)
  | mld (a b : RegF) | mmul (a b : RegF) | mgrp (a b : RegF) | mzero | mout (a b : RegF) | mxa (a b : RegF)
  | rcat (a b : RegF) | rsplit (a b : RegF) | rsplice (a b : RegF) | rfind (a b : RegF)
  | rfold (a b : RegF) | rpin (a b : RegF) | rref (a b : RegF) | rdrop (a b : RegF)
  | smp (a b : RegF) | smpw (d : RegF)
  -- majors 0x32 to 0x35 (R103, R104)
  | erd (e : Engine) (n : BitVec 8) (d : RegF) | ewr (e : Engine) (n : BitVec 8) (a : RegF)
  | nop | trap (n : BitVec 8) | eret | dbg (n : BitVec 8) | idle
  | csrr (c : BitVec 10) (d : RegF) | csrw (c : BitVec 10) (a : RegF)
  | csrs (c : BitVec 10) (a : RegF) | csrc (c : BitVec 10) (a : RegF)
  | cfgctx (d a : RegF) | tlbi (a : RegF) | gscrub
  -- EVENTS: steps of the core, its engines and the mesh
  | replayWordIssue (core slot : Nat)
  | oneResultDelivery (idx : Nat)
  | loadReply (core slot idx : Nat)
  | storeBufferCommit (core idx : Nat)
  /-- `answer` is the refusal reason of R319 that a peer, the host port or an ECC check gives (2, 3 or 5), or 0 for none -/
  | postedStoreAccept (core idx answer : Nat)
  | portWordArrival (idx : Nat)
  | translationWalkEnd (idx : Nat)
  | tlbiRemovalComplete (idx : Nat)
  | foldEnd (core : Nat)
  | gscrubEnd (core : Nat)
  | copyCommandStart (core slot : Nat)
  | copyCommandComplete (core slot : Nat)
  | qfenComplete (core slot : Nat)
  | matrixCommandStart (core : Nat)
  | matrixCommandComplete (core : Nat)
  | ropeCommandStart (sq : Nat)
  | ropeCommandComplete (sq idx : Nat)
  | limboRelease (sq idx : Nat)
  | contextDrainEnd (core slot : Nat)
  | recordArrival (idx : Nat)
  | landing (core : Nat)
  | holdRecordSend (core idx : Nat)
  | goDeliveryRetry (core slot : Nat)
  | holdDeliveryRetry (core idx : Nat)
  | landingRingRedelivery (tenant : Nat)
  | sampleInjectionArrival (idx : Nat)
  -- EVENTS: the dispatcher
  | partitionScan
  | launchSlotTake (queue : Nat)
  | launchRingReturn (tenant : Nat)
  | depWordPoll (run : Nat)
  | dispatchDecision (tenant : Nat)
  | runBlock (run : Nat)
  | gangFillEnd (gang : Nat)
  | gangRetire (gang : Nat)
  | runComplete (run : Nat)
  | doneWordRetry (run : Nat)
  | streamEntryReread (core slot : Nat)
  | allAsleepSample (tenant : Nat)
  | switchRecordPoll
  | switchOutStop (tenant : Nat)
  | switchOutDrainEnd (tenant : Nat)
  | switchOutDone (tenant : Nat)
  | switchInResume (tenant : Nat)
  | lockstepForcedCompare (core : Nat)
  | softError (site : ErrSite) (correctable : Bool)
  -- EVENTS: reset, boot, links, limits
  | deviceReset
  /-- what the boot ROM finds: image signature, blob signature, blob fields, and what the blob sets -/
  | boot (imageOk blobOk fieldsOk : Bool) (blob : Blob)
  | linkDown (link : Nat)
  | linkUp (link : Nat)
  | tdispStateChange (tenant : Nat) (new : TdispState) (pages : List Nat)
  | powerLimitHold (mW : BitVec 32)
  | temperatureHigh (die : Nat) (temp : BitVec 16)
  | temperatureHalt (die : Nat) (temp : BitVec 16)
  | peerAccessArrival (link : Nat) (tenant : Nat) (acc : PeerAccess)
  -- EVENTS: the host port and the mailbox
  | hostLocalWrite (core : Nat) (off : HostAcc) (value : Word)
  | hostFillAliasWrite (core : Nat) (off : HostAcc) (value : Word)
  | hostHbmWrite (addr : HostAcc) (value : Word)
  | hostRead (bar : Nat) (off : HostAcc)
  | launchSlotWrite (queue slot : Nat) (off : HostAcc) (value : Word)
  | launchSlotFull (queue : Nat) (slot : HostAcc)
  | registerWrite (off : HostAcc) (value : Word)
  | setDescriptorTable
  | setEventRing
  | startSupervisorGang
  | openDebugSession
  | closeDebugSession
  | debugRead
  | debugWrite
  | checkpoint
  | restore (ok : Bool)
  | resume
  | checkpointResume
  -- EVENTS: issue, and the events that end others
  | issueRefusalHolder (w : IWord)
  | takeAnswer (idx : Nat)
  | mailboxCommandEnd
  | switchInRestoreEnd (tenant : Nat) (ok : Bool)
  | powerLimitRelease
  | temperatureHoldRelease (die : Nat) (temp : BitVec 16)
  deriving DecidableEq, Repr

end Sys2Proof
end

