-- ==== Sys2Proof/WellFormed.lean ====
section
/-! DEFINITION. Which terms of Instr an encoding exists for: the reserved values of R87 to R104 (R105 step 4) as a check
on the syntax. For an event: the ranges of the objects it names (64 tenants and queues, 16 slots, 12 links, 4 dies). -/

namespace Sys2Proof

/-- The register numbers that R247, R281 and R298 assign to an engine. -/
def engineRegOk (e : Engine) (n : Nat) : Bool :=
  match e with
  | .copy => decide (n ≤ 0x81)
  | .repeat => n == 0x00 || n == 0x01 || (decide (0x10 ≤ n) && decide (n ≤ 0x1F) && n % 4 != 3)
  | .matrix => decide (n ≤ 0x06) || n == 0x08
  | .rope => decide (n ≤ 0x02) || n == 0x08 || n == 0x09 || n == 0x0A
  | .sample => decide (n ≤ 0x05)

/-- The control register numbers that R67 assigns. -/
def csrOk (c : Nat) : Bool :=
  decide (c ≤ 0x005) || c == 0x010 || c == 0x011 || c == 0x012 || c == 0x020 || c == 0x021 || c == 0x022 ||
  (decide (0x030 ≤ c) && decide (c ≤ 0x038)) || (decide (0x040 ≤ c) && decide (c ≤ 0x043)) ||
  (decide (0x050 ≤ c) && decide (c ≤ 0x060)) || c == 0x070

/-- The counts `sigw` may name: 0 to 64, or 127 (R96). -/
def sigwCountOk (n : Nat) : Bool := decide (n ≤ 64) || n == 127

/-- A store has no signedness, so `st` takes `.i8`, `.i16`, `.i32` and `.d` only (R90). -/
def storeSizeOk : Size → Bool
  | .i8 | .i16 | .i32 | .d => true
  | .n8 | .n16 | .n32 => false

/-- Whether a term of Instr is one that the spec's encodings or events can name. -/
def Instr.wf : Instr → Bool
  | .st _ _ size _ _ => storeSizeOk size
  | .fcvt dst src _ _ _ => dst != src
  | .sigw _ _ n => sigwCountOk n.toNat
  | .pass m => decide (1 ≤ m.toNat) && decide (m.toNat ≤ 15)
  | .rep _ _ lo span => decide (lo.toNat + span.toNat ≤ 127)
  | .erd e n _ => engineRegOk e n.toNat
  | .ewr e n _ => engineRegOk e n.toNat
  | .csrr c _ => csrOk c.toNat
  | .csrw c _ => csrOk c.toNat
  | .csrs c _ => csrOk c.toNat
  | .csrc c _ => csrOk c.toNat
  | .landingRingRedelivery t => decide (t < 64)
  | .launchSlotTake q => decide (q < 64)
  | .launchRingReturn t => decide (t < 64)
  | .launchSlotWrite q s h _ => decide (q < 64) && decide (s < 16) && decide (h.off < 128)
  | .launchSlotFull q h => decide (q < 64) && decide (h.off < 16)
  | .linkDown l => decide (l < 12)
  | .linkUp l => decide (l < 12)
  | .peerAccessArrival l t _ => decide (l < 12) && decide (t < 64)
  | .temperatureHigh d _ => decide (d < 4)
  | .temperatureHalt d _ => decide (d < 4)
  | .temperatureHoldRelease d _ => decide (d < 4)
  | .tdispStateChange t _ _ => decide (t < 64)
  | .hostRead k _ => k == 0 || k == 2 || k == 4
  | _ => true

end Sys2Proof
end

