-- ==== Sys2Proof/Decode.lean ====
section
/-! DEFINITION. The decoder (R82 to R106), total on every word: an instruction, or the refusal that steps 1 to 4 of R105
name. After it the encoder, written from the same tables. -/

namespace Sys2Proof

/-- Why a word is no instruction: steps 1 to 4 of R105, in their order. -/
inductive Reject where
  /-- step 1: major 0x00 or 0x36 to 0x3F -/
  | major
  /-- step 2: a reserved func, cmd, op, kind or class -/
  | selector
  /-- step 3: a reserved field is not zero -/
  | reservedField
  /-- step 4: a reserved value in a defined field -/
  | reservedValue
  deriving DecidableEq, Repr

/-- The reason number that `trapaux` [39:32] holds (R105). -/
def Reject.reason : Reject → Nat
  | .major => 1
  | .selector => 2
  | .reservedField => 3
  | .reservedValue => 4

namespace Dec

/-! Fields of a word (R83). -/
def major (w : IWord) : Nat := (w.extractLsb' 26 6).toNat
def fd (w : IWord) : RegF := w.extractLsb' 19 7
def fa (w : IWord) : RegF := w.extractLsb' 12 7
def fb (w : IWord) : RegF := w.extractLsb' 5 7
def func (w : IWord) : Nat := (w.extractLsb' 0 5).toNat
def imm12 (w : IWord) : BitVec 12 := w.extractLsb' 0 12
def imm19 (w : IWord) : BitVec 19 := w.extractLsb' 0 19
def off26 (w : IWord) : BitVec 26 := w.extractLsb' 0 26
def imm7 (w : IWord) : BitVec 7 := w.extractLsb' 0 7
def fsize (w : IWord) : Nat := (w.extractLsb' 9 3).toNat
def ford (w : IWord) : Nat := (w.extractLsb' 7 2).toNat
/-- Format B has ra at [25:19] and rb at [18:12] (R83). -/
def ba (w : IWord) : RegF := w.extractLsb' 19 7
def bb (w : IWord) : RegF := w.extractLsb' 12 7
/-- Format E (R83). -/
def eclass (w : IWord) : Nat := (w.extractLsb' 22 4).toNat
def ea (w : IWord) : RegF := w.extractLsb' 15 7
def eb (w : IWord) : RegF := w.extractLsb' 8 7
def emod (w : IWord) : BitVec 4 := w.extractLsb' 4 4
def ecmd (w : IWord) : Nat := (w.extractLsb' 0 4).toNat

/-- An instruction whose reserved fields are all zero (step 3) and whose defined fields hold defined values (step 4). -/
def mk (resZero valOk : Bool) (i : Instr) : Except Reject Instr :=
  if resZero then (if valOk then .ok i else .error .reservedValue) else .error .reservedField

/-- A word every value of which is defined. -/
def all (i : Instr) : Except Reject Instr := .ok i

def size? : Nat → Option Size
  | 0 => some .i8 | 1 => some .n8 | 2 => some .i16 | 3 => some .n16 | 4 => some .i32 | 5 => some .n32 | 6 => some .d
  | _ => none
def scope? : Nat → Option Scope
  | 0 => some .ctx | 1 => some .core | 2 => some .sq | 3 => some .part | 4 => some .dev | 5 => some .sys
  | _ => none
def kind? : Nat → Option FenceKind
  | 0 => some .full | 1 => some .acq | 2 => some .rel | _ => none
def amoOp? : Nat → Option AmoOp
  | 0 => some .add | 1 => some .and | 2 => some .or | 3 => some .xor | 4 => some .min | 5 => some .max
  | 6 => some .minn | 7 => some .maxn | 8 => some .swap | _ => none
def fpFmt? : Nat → Option FpFmt
  | 0 => some .f64 | 1 => some .f32 | 2 => some .f16 | 3 => some .b16 | 4 => some .e4m3 | 5 => some .e5m2 | _ => none
def intFmt? : Nat → Option IntFmt
  | 0 => some .i32 | 1 => some .n32 | 2 => some .i64 | 3 => some .n64 | _ => none
def rnd? : Nat → Option Rnd
  | 0 => some .dyn | 1 => some .rne | 2 => some .rtz | 3 => some .rup | 4 => some .rdn | _ => none
def engine? : Nat → Option Engine
  | 0 => some .copy | 1 => some .repeat | 2 => some .matrix | 3 => some .rope | 4 => some .sample | _ => none
def aScope (w : IWord) : AScope := if w.getLsbD 0 then .dev else .sq

/-- Major 0x01 (R87). -/
def alu (w : IWord) : Except Reject Instr :=
  let d := fd w; let a := fa w; let b := fb w
  match func w with
  | 0 => .ok (.add d a b) | 1 => .ok (.sub d a b) | 2 => .ok (.mul d a b) | 3 => .ok (.mulh d a b)
  | 4 => .ok (.mulhn d a b) | 5 => .ok (.div d a b) | 6 => .ok (.divn d a b) | 7 => .ok (.rem d a b)
  | 8 => .ok (.remn d a b) | 9 => .ok (.and d a b) | 10 => .ok (.or d a b) | 11 => .ok (.xor d a b)
  | 12 => .ok (.shl d a b) | 13 => .ok (.shr d a b) | 14 => .ok (.sra d a b) | 15 => .ok (.min d a b)
  | 16 => .ok (.max d a b) | 17 => .ok (.minn d a b) | 18 => .ok (.maxn d a b) | 19 => .ok (.slt d a b)
  | 20 => .ok (.sltn d a b) | 21 => .ok (.seq d a b) | 22 => .ok (.sel d a b)
  | 23 => mk (b == 0) true (.clz d a) | 24 => mk (b == 0) true (.ctz d a) | 25 => mk (b == 0) true (.pop d a)
  | 26 => .ok (.perm d a b)
  | _ => .error .selector

/-- Major 0x06 (R88). -/
def shifti (w : IWord) : Except Reject Instr :=
  let n := w.extractLsb' 0 6
  let z := w.extractLsb' 6 4 == 0
  match (w.extractLsb' 10 2).toNat with
  | 0 => mk z true (.shli (fd w) (fa w) n)
  | 1 => mk z true (.shri (fd w) (fa w) n)
  | 2 => mk z true (.srai (fd w) (fa w) n)
  | _ => .error .selector

/-- Major 0x07 (R88). -/
def setlessi (w : IWord) : Except Reject Instr :=
  if w.getLsbD 11 then .ok (.sltni (fd w) (fa w) (w.extractLsb' 0 11)) else .ok (.slti (fd w) (fa w) (w.extractLsb' 0 11))

/-- Major 0x0A (R88). -/
def bitfield (w : IWord) : Except Reject Instr :=
  if w.getLsbD 11 then .ok (.bfi (fd w) (fa w) (w.extractLsb' 5 6) (w.extractLsb' 0 5))
  else .ok (.bfx (fd w) (fa w) (w.extractLsb' 5 6) (w.extractLsb' 0 5))

/-- Major 0x15: `ld`, and `ld.go` with ord 2 (R90). -/
def load (w : IWord) : Except Reject Instr :=
  match size? (fsize w), ford w with
  | some z, 0 => .ok (.ld (fd w) (fa w) z .plain (imm7 w))
  | some z, 1 => .ok (.ld (fd w) (fa w) z .acq (imm7 w))
  | some z, 2 => .ok (.ldGo (fd w) (fa w) z (imm7 w))
  | _, _ => .error .reservedValue

/-- Major 0x16 (R90): sizes 1, 3, 5 and 7 are reserved. -/
def store (w : IWord) : Except Reject Instr :=
  match size? (fsize w), ford w with
  | some z, 0 => mk true (storeSizeOk z) (.st (fd w) (fa w) z .plain (imm7 w))
  | some z, 1 => mk true (storeSizeOk z) (.st (fd w) (fa w) z .rel (imm7 w))
  | some z, 2 => mk true (storeSizeOk z) (.st (fd w) (fa w) z .posted (imm7 w))
  | _, _ => .error .reservedValue

/-- Major 0x17 (R90): size 6 only. -/
def tagged (w : IWord) : Except Reject Instr :=
  match ford w with
  | 0 => mk true (fsize w == 6) (.ldt (fd w) (fa w) (imm7 w))
  | 1 => mk true (fsize w == 6) (.stt (fd w) (fa w) (imm7 w))
  | _ => .error .reservedValue

/-- Major 0x18 (R90): size 6 only; `sete` has field [25:19] reserved. -/
def fullEmpty (w : IWord) : Except Reject Instr :=
  match ford w with
  | 0 => mk true (fsize w == 6) (.ldfe (fd w) (fa w) (imm7 w))
  | 1 => mk true (fsize w == 6) (.ldff (fd w) (fa w) (imm7 w))
  | 2 => mk true (fsize w == 6) (.stfe (fd w) (fa w) (imm7 w))
  | _ => mk (fd w == 0) (fsize w == 6) (.sete (fa w) (imm7 w))

/-- Major 0x19 (R91). -/
def amo (w : IWord) : Except Reject Instr :=
  match amoOp? (w.extractLsb' 1 4).toNat with
  | some op => .ok (.amo op (aScope w) (fd w) (fa w) (fb w))
  | none => .error .selector

/-- Major 0x1A (R91, R366). -/
def cas (w : IWord) : Except Reject Instr :=
  mk (w.extractLsb' 1 4 == 0) true (.cas (aScope w) (fd w) (fa w) (fb w))

/-- Major 0x1B (R92, R236). -/
def fence (w : IWord) : Except Reject Instr :=
  if w.extractLsb' 5 21 == 0 then
    match kind? (w.extractLsb' 3 2).toNat, scope? (w.extractLsb' 0 3).toNat with
    | some k, some s => .ok (.fence k s)
    | _, _ => .error .reservedValue
  else .error .reservedField

/-- Major 0x1C (R93). -/
def pointer (w : IWord) : Except Reject Instr :=
  let z := fb w == 0
  match func w with
  | 0 => mk z true (.spc (fd w) (fa w)) | 1 => mk z true (.cvspLoc (fd w) (fa w))
  | 2 => mk z true (.cvspSq (fd w) (fa w)) | 3 => mk z true (.cvspRem (fd w) (fa w))
  | _ => .error .selector

/-- Majors 0x1D to 0x23 (R94). -/
def fp (t : FpType) (w : IWord) : Except Reject Instr :=
  let d := fd w; let a := fa w; let b := fb w
  match func w with
  | 0 => .ok (.fadd t d a b) | 1 => .ok (.fsub t d a b) | 2 => .ok (.fmul t d a b) | 3 => .ok (.fma t d a b)
  | 4 => .ok (.fnma t d a b) | 5 => .ok (.fdiv t d a b) | 6 => mk (b == 0) true (.fsqrt t d a)
  | 7 => .ok (.fmin t d a b) | 8 => .ok (.fmax t d a b) | 9 => mk (b == 0) true (.fneg t d a)
  | 10 => mk (b == 0) true (.fabs t d a) | 11 => .ok (.fcmp t d a b) | 12 => mk (b == 0) true (.fcls t d a)
  | 13 => mk (b == 0) true (.frcp t d a) | 14 => mk (b == 0) true (.fex2 t d a) | 15 => mk (b == 0) true (.flg2 t d a)
  | _ => .error .selector

/-- Major 0x24 (R95): bit 0 is reserved; `fcvt` with dst = src is reserved. -/
def conv (w : IWord) : Except Reject Instr :=
  let z := !w.getLsbD 0
  let r := rnd? (w.extractLsb' 9 3).toNat
  let dst := (w.extractLsb' 6 3).toNat
  let src := (w.extractLsb' 3 3).toNat
  match (w.extractLsb' 1 2).toNat with
  | 0 => if z then
      match r, fpFmt? dst, fpFmt? src with
      | some r, some x, some y => if x != y then .ok (.fcvt x y r (fd w) (fa w)) else .error .reservedValue
      | _, _, _ => .error .reservedValue
    else .error .reservedField
  | 1 => if z then
      match r, intFmt? dst, fpFmt? src with
      | some r, some x, some y => .ok (.fcvi x y r (fd w) (fa w))
      | _, _, _ => .error .reservedValue
    else .error .reservedField
  | 2 => if z then
      match r, fpFmt? dst, intFmt? src with
      | some r, some x, some y => .ok (.icvf x y r (fd w) (fa w))
      | _, _, _ => .error .reservedValue
    else .error .reservedField
  | _ => .error .selector

/-- Major 0x25 (R96). -/
def sig (w : IWord) : Except Reject Instr :=
  if w.getLsbD 11 then mk (w.extractLsb' 7 4 == 0) (sigwCountOk (imm7 w).toNat) (.sigw (fd w) (fa w) (imm7 w))
  else mk (w.extractLsb' 0 11 == 0) true (.sigr (fd w) (fa w))

/-- Major 0x26 (R96). -/
def quant (w : IWord) : Except Reject Instr :=
  match func w with
  | 0 => .ok (.qblkI8 (fd w) (fa w) (fb w)) | 1 => .ok (.qblkI4 (fd w) (fa w) (fb w)) | 2 => .ok (.fscl (fd w) (fa w) (fb w))
  | _ => .error .selector

/-- Major 0x27 (R97). -/
def execm (w : IWord) : Except Reject Instr :=
  let d := fd w; let a := fa w
  let dz := d == 0; let az := a == 0; let bz := fb w == 0
  match func w with
  | 0 => mk (dz && az && bz) true .exit
  | 1 => mk (dz && az && bz) true .yield
  | 2 => mk (dz && bz) (decide (1 ≤ a.toNat) && decide (a.toNat ≤ 15)) (.pass a)
  | 3 => mk (az && bz) true (.take d)
  | 4 => mk (dz && bz) true (.go a)
  | 5 => mk (dz && bz) true (.susp a)
  | 6 => mk bz true (.spawn d a)
  | 7 => mk bz true (.spawnTry d a)
  | 8 => mk bz true (.spawnW d a)
  | 9 => mk bz true (.ctxnew d a)
  | 10 => mk (dz && bz) true (.ctxkill a)
  | 11 => mk (dz && bz) true (.hold a)
  | _ => .error .selector

/-- Major 0x28 (R98). -/
def wait (w : IWord) : Except Reject Instr :=
  mk (!w.getLsbD 25) true
    (.wait (w.extractLsb' 20 5) (w.extractLsb' 15 5) (w.extractLsb' 10 5) (w.extractLsb' 5 5) (w.extractLsb' 0 5))

/-- Major 0x29 (R98). -/
def barrier (w : IWord) : Except Reject Instr :=
  mk (w.extractLsb' 12 14 == 0 && w.extractLsb' 3 8 == 0) true
    (if w.getLsbD 11 then .barw (w.extractLsb' 0 3) else .bar (w.extractLsb' 0 3))

/-- Major 0x2A (R98). -/
def semaphore (w : IWord) : Except Reject Instr :=
  mk (w.extractLsb' 12 14 == 0 && w.extractLsb' 4 7 == 0) true
    (if w.getLsbD 11 then .semv (w.extractLsb' 0 4) else .semp (w.extractLsb' 0 4))

/-- Major 0x2C (R100). -/
def repm (w : IWord) : Except Reject Instr :=
  match (w.extractLsb' 0 2).toNat with
  | 0 => let lo := w.extractLsb' 8 7; let span := w.extractLsb' 2 6
    mk true (decide (lo.toNat + span.toNat ≤ 127)) (.rep (w.extractLsb' 22 4) (w.extractLsb' 15 7) lo span)
  | 1 => mk (w.extractLsb' 2 10 == 0) true (.sbind (fd w) (fa w))
  | 2 => mk (w.extractLsb' 2 17 == 0) true (.sfree (fd w))
  | _ => .error .selector

/-- Major 0x2D (R101). -/
def gens (w : IWord) : Except Reject Instr :=
  match func w with
  | 0 => .ok (.gnewZero (fd w) (fa w) (fb w))
  | 1 => .ok (.gnewTrap (fd w) (fa w) (fb w))
  | 2 => mk (fd w == 0 && fb w == 0) true (.gfree (fa w))
  | 3 => mk (fb w == 0) true (.gchk (fd w) (fa w))
  | _ => .error .selector

/-- Major 0x2E, class 1 (R102). -/
def copym (w : IWord) : Except Reject Instr :=
  if eclass w != 1 then .error .selector else
  let a := ea w; let b := eb w; let set := w.extractLsb' 4 3; let m := !w.getLsbD 7
  match ecmd w with
  | 0 => mk true m (.cpy a b set) | 1 => mk true m (.cpym a b set) | 2 => mk true m (.deal a b set)
  | 3 => mk true m (.bkt a b set)
  | 4 => if b == 0 then
      match scope? set.toNat with
      | some s => if m then .ok (.qfen s a) else .error .reservedValue
      | none => .error .reservedValue
    else .error .reservedField
  | _ => .error .selector

/-- Major 0x2F, class 2 (R102). -/
def matrixm (w : IWord) : Except Reject Instr :=
  if eclass w != 2 then .error .selector else
  let a := ea w; let b := eb w; let m := emod w == 0
  match ecmd w with
  | 0 => mk true m (.mld a b) | 1 => mk true m (.mmul a b) | 2 => mk true m (.mgrp a b)
  | 3 => mk (a == 0 && b == 0) m .mzero
  | 4 => mk true m (.mout a b) | 5 => mk true m (.mxa a b)
  | _ => .error .selector

/-- Major 0x30, class 3 (R102, R289). -/
def ropem (w : IWord) : Except Reject Instr :=
  if eclass w != 3 then .error .selector else
  let a := ea w; let b := eb w; let m := emod w == 0
  match ecmd w with
  | 0 => mk true m (.rcat a b) | 1 => mk true m (.rsplit a b) | 2 => mk true m (.rsplice a b) | 3 => mk true m (.rfind a b)
  | 4 => mk true m (.rfold a b) | 5 => mk true m (.rpin a b) | 6 => mk true m (.rref a b) | 7 => mk true m (.rdrop a b)
  | _ => .error .selector

/-- Major 0x31, class 4 (R102, R299, R305). -/
def samplem (w : IWord) : Except Reject Instr :=
  if eclass w != 4 then .error .selector else
  let m := emod w == 0
  match ecmd w with
  | 0 => mk true m (.smp (ea w) (eb w))
  | 1 => mk (eb w == 0) m (.smpw (ea w))
  | _ => .error .selector

/-- Major 0x32 (R103). -/
def engreg (w : IWord) : Except Reject Instr :=
  let n : BitVec 8 := w.extractLsb' 0 8
  let e := engine? (w.extractLsb' 8 3).toNat
  if w.getLsbD 11 then
    if fd w == 0 then
      match e with
      | some e => if engineRegOk e n.toNat then .ok (.ewr e n (fa w)) else .error .reservedValue
      | none => .error .reservedValue
    else .error .reservedField
  else
    if fa w == 0 then
      match e with
      | some e => if engineRegOk e n.toNat then .ok (.erd e n (fd w)) else .error .reservedValue
      | none => .error .reservedValue
    else .error .reservedField

/-- Major 0x33 (R104). -/
def sys (w : IWord) : Except Reject Instr :=
  let z := w.extractLsb' 12 14 == 0
  let n : BitVec 8 := w.extractLsb' 0 8
  match (w.extractLsb' 8 4).toNat with
  | 0 => mk (z && n == 0) true .nop
  | 1 => mk z true (.trap n)
  | 2 => mk (z && n == 0) true .eret
  | 3 => mk z true (.dbg n)
  | 4 => mk (z && n == 0) true .idle
  | _ => .error .selector

/-- Major 0x34 (R104, R372). -/
def csr (w : IWord) : Except Reject Instr :=
  let c : BitVec 10 := w.extractLsb' 0 10
  let ok := csrOk c.toNat
  match (w.extractLsb' 10 2).toNat with
  | 0 => mk (fa w == 0) ok (.csrr c (fd w))
  | 1 => mk (fd w == 0) ok (.csrw c (fa w))
  | 2 => mk (fd w == 0) ok (.csrs c (fa w))
  | _ => mk (fd w == 0) ok (.csrc c (fa w))

/-- Major 0x35 (R104). -/
def priv (w : IWord) : Except Reject Instr :=
  let z := w.extractLsb' 0 10 == 0
  match (w.extractLsb' 10 2).toNat with
  | 0 => mk z true (.cfgctx (fd w) (fa w))
  | 1 => mk (z && fd w == 0) true (.tlbi (fa w))
  | 2 => mk (z && fd w == 0 && fa w == 0) true .gscrub
  | _ => .error .selector

end Dec

open Dec in
/-- The instruction a word encodes, or the first failure of steps 1 to 4 of R105. -/
def decode (w : IWord) : Except Reject Instr :=
  match major w with
  | 0x01 => alu w
  | 0x02 => .ok (.addi (fd w) (fa w) (imm12 w))
  | 0x03 => .ok (.andi (fd w) (fa w) (imm12 w))
  | 0x04 => .ok (.ori (fd w) (fa w) (imm12 w))
  | 0x05 => .ok (.xori (fd w) (fa w) (imm12 w))
  | 0x06 => shifti w
  | 0x07 => setlessi w
  | 0x08 => .ok (.lui (fd w) (imm19 w))
  | 0x09 => .ok (.addpc (fd w) (imm19 w))
  | 0x0A => bitfield w
  | 0x0B => .ok (.beq (ba w) (bb w) (imm12 w))
  | 0x0C => .ok (.bne (ba w) (bb w) (imm12 w))
  | 0x0D => .ok (.blt (ba w) (bb w) (imm12 w))
  | 0x0E => .ok (.bge (ba w) (bb w) (imm12 w))
  | 0x0F => .ok (.bltn (ba w) (bb w) (imm12 w))
  | 0x10 => .ok (.bgen (ba w) (bb w) (imm12 w))
  | 0x11 => .ok (.bsig (ba w) (bb w) (imm12 w))
  | 0x12 => .ok (.b (off26 w))
  | 0x13 => .ok (.bl (off26 w))
  | 0x14 => .ok (.jr (fd w) (fa w) (imm12 w))
  | 0x15 => load w
  | 0x16 => store w
  | 0x17 => tagged w
  | 0x18 => fullEmpty w
  | 0x19 => Dec.amo w
  | 0x1A => Dec.cas w
  | 0x1B => Dec.fence w
  | 0x1C => pointer w
  | 0x1D => fp .f64 w
  | 0x1E => fp .f32 w
  | 0x1F => fp .f16 w
  | 0x20 => fp .b16 w
  | 0x21 => fp .f32x2 w
  | 0x22 => fp .f16x4 w
  | 0x23 => fp .b16x4 w
  | 0x24 => conv w
  | 0x25 => sig w
  | 0x26 => quant w
  | 0x27 => execm w
  | 0x28 => Dec.wait w
  | 0x29 => barrier w
  | 0x2A => semaphore w
  | 0x2B => mk (w.extractLsb' 0 26 == 0) true .one
  | 0x2C => repm w
  | 0x2D => gens w
  | 0x2E => copym w
  | 0x2F => matrixm w
  | 0x30 => ropem w
  | 0x31 => samplem w
  | 0x32 => engreg w
  | 0x33 => Dec.sys w
  | 0x34 => csr w
  | 0x35 => Dec.priv w
  | _ => .error .major

/-- The word held little-endian in four bytes, the first at the lowest address (R4, R82). -/
def wordOfBytes (b0 b1 b2 b3 : Byte) : IWord := b3 ++ b2 ++ b1 ++ b0

/-- Decoding from bytes: one word is four bytes (R82); fewer are no word. -/
def decodeBytes : List Byte → Option (Except Reject Instr × List Byte)
  | b0 :: b1 :: b2 :: b3 :: rest => some (decode (wordOfBytes b0 b1 b2 b3), rest)
  | _ => none

/-- Byte k of a word as the hardware stores it (R4). -/
def byteOfWord (w : IWord) (k : Nat) : Byte := w.extractLsb' (8 * k) 8

/-- The decoder on an instruction whose bits are `w` as the opcode table numbers them: the word is laid out as the
hardware stores it and given to the decoder. Every instruction is one word; a row with no word (`nbits` = 0) is an event. -/
def decodeTableWord (nbits w : Nat) : Option Instr :=
  if nbits = 0 then none else
  let x : IWord := BitVec.ofNat 32 (w % 2 ^ nbits)
  match decodeBytes [byteOfWord x 0, byteOfWord x 1, byteOfWord x 2, byteOfWord x 3] with
  | some (.ok i, _) => some i
  | _ => none

/-! ## The encoder -/

namespace Enc

/-- Formats A, I, U, B, J, M and E as concatenations, the high field first (R83). -/
def fA (m : BitVec 6) (d a b : RegF) (f : BitVec 5) : IWord := m ++ d ++ a ++ b ++ f
def fI (m : BitVec 6) (d a : RegF) (i : BitVec 12) : IWord := m ++ d ++ a ++ i
def fU (m : BitVec 6) (d : RegF) (i : BitVec 19) : IWord := m ++ d ++ i
def fJ (m : BitVec 6) (o : BitVec 26) : IWord := m ++ o
def fM (m : BitVec 6) (d a : RegF) (z : BitVec 3) (o : BitVec 2) (i : BitVec 7) : IWord := m ++ d ++ a ++ z ++ o ++ i
def fE (m : BitVec 6) (c : BitVec 4) (a b : RegF) (md : BitVec 4) (cmd : BitVec 4) : IWord := m ++ c ++ a ++ b ++ md ++ cmd

def size : Size → BitVec 3
  | .i8 => 0 | .n8 => 1 | .i16 => 2 | .n16 => 3 | .i32 => 4 | .n32 => 5 | .d => 6
def scope : Scope → BitVec 3
  | .ctx => 0 | .core => 1 | .sq => 2 | .part => 3 | .dev => 4 | .sys => 5
def kind : FenceKind → BitVec 2
  | .full => 0 | .acq => 1 | .rel => 2
def amoOp : AmoOp → BitVec 4
  | .add => 0 | .and => 1 | .or => 2 | .xor => 3 | .min => 4 | .max => 5 | .minn => 6 | .maxn => 7 | .swap => 8
def aScope : AScope → BitVec 1
  | .sq => 0 | .dev => 1
def fpFmt : FpFmt → BitVec 3
  | .f64 => 0 | .f32 => 1 | .f16 => 2 | .b16 => 3 | .e4m3 => 4 | .e5m2 => 5
def intFmt : IntFmt → BitVec 3
  | .i32 => 0 | .n32 => 1 | .i64 => 2 | .n64 => 3
def rnd : Rnd → BitVec 3
  | .dyn => 0 | .rne => 1 | .rtz => 2 | .rup => 3 | .rdn => 4
def engine : Engine → BitVec 3
  | .copy => 0 | .repeat => 1 | .matrix => 2 | .rope => 3 | .sample => 4
def fpMajor : FpType → BitVec 6
  | .f64 => 0x1D | .f32 => 0x1E | .f16 => 0x1F | .b16 => 0x20 | .f32x2 => 0x21 | .f16x4 => 0x22 | .b16x4 => 0x23
def stOrd : StOrd → BitVec 2
  | .plain => 0 | .rel => 1 | .posted => 2
def ldOrd : LdOrd → BitVec 2
  | .plain => 0 | .acq => 1
def conv (k : BitVec 2) (r dst src : BitVec 3) (d a : RegF) : IWord := (0x24 : BitVec 6) ++ d ++ a ++ r ++ dst ++ src ++ k ++ (0 : BitVec 1)

end Enc

open Enc in
/-- The word of an instruction; an event has none. -/
def encode : Instr → Option IWord
  | .add d a b => some (fA 0x01 d a b 0) | .sub d a b => some (fA 0x01 d a b 1) | .mul d a b => some (fA 0x01 d a b 2)
  | .mulh d a b => some (fA 0x01 d a b 3) | .mulhn d a b => some (fA 0x01 d a b 4) | .div d a b => some (fA 0x01 d a b 5)
  | .divn d a b => some (fA 0x01 d a b 6) | .rem d a b => some (fA 0x01 d a b 7) | .remn d a b => some (fA 0x01 d a b 8)
  | .and d a b => some (fA 0x01 d a b 9) | .or d a b => some (fA 0x01 d a b 10) | .xor d a b => some (fA 0x01 d a b 11)
  | .shl d a b => some (fA 0x01 d a b 12) | .shr d a b => some (fA 0x01 d a b 13) | .sra d a b => some (fA 0x01 d a b 14)
  | .min d a b => some (fA 0x01 d a b 15) | .max d a b => some (fA 0x01 d a b 16) | .minn d a b => some (fA 0x01 d a b 17)
  | .maxn d a b => some (fA 0x01 d a b 18) | .slt d a b => some (fA 0x01 d a b 19) | .sltn d a b => some (fA 0x01 d a b 20)
  | .seq d a b => some (fA 0x01 d a b 21) | .sel d a b => some (fA 0x01 d a b 22)
  | .clz d a => some (fA 0x01 d a 0 23) | .ctz d a => some (fA 0x01 d a 0 24) | .pop d a => some (fA 0x01 d a 0 25)
  | .perm d a b => some (fA 0x01 d a b 26)
  | .addi d a i => some (fI 0x02 d a i) | .andi d a i => some (fI 0x03 d a i)
  | .ori d a i => some (fI 0x04 d a i) | .xori d a i => some (fI 0x05 d a i)
  | .shli d a n => some (fI 0x06 d a ((0 : BitVec 2) ++ (0 : BitVec 4) ++ n))
  | .shri d a n => some (fI 0x06 d a ((1 : BitVec 2) ++ (0 : BitVec 4) ++ n))
  | .srai d a n => some (fI 0x06 d a ((2 : BitVec 2) ++ (0 : BitVec 4) ++ n))
  | .slti d a i => some (fI 0x07 d a ((0 : BitVec 1) ++ i)) | .sltni d a i => some (fI 0x07 d a ((1 : BitVec 1) ++ i))
  | .lui d i => some (fU 0x08 d i) | .addpc d i => some (fU 0x09 d i)
  | .bfx d a lo w => some (fI 0x0A d a ((0 : BitVec 1) ++ lo ++ w)) | .bfi d a lo w => some (fI 0x0A d a ((1 : BitVec 1) ++ lo ++ w))
  | .beq a b o => some (fI 0x0B a b o) | .bne a b o => some (fI 0x0C a b o) | .blt a b o => some (fI 0x0D a b o)
  | .bge a b o => some (fI 0x0E a b o) | .bltn a b o => some (fI 0x0F a b o) | .bgen a b o => some (fI 0x10 a b o)
  | .bsig a n o => some (fI 0x11 a n o) | .b o => some (fJ 0x12 o) | .bl o => some (fJ 0x13 o)
  | .jr d a i => some (fI 0x14 d a i)
  | .ld d a z o i => some (fM 0x15 d a (size z) (ldOrd o) i) | .ldGo d a z i => some (fM 0x15 d a (size z) 2 i)
  | .st x a z o i => some (fM 0x16 x a (size z) (stOrd o) i)
  | .ldt d a i => some (fM 0x17 d a 6 0 i) | .stt x a i => some (fM 0x17 x a 6 1 i)
  | .ldfe d a i => some (fM 0x18 d a 6 0 i) | .ldff d a i => some (fM 0x18 d a 6 1 i)
  | .stfe x a i => some (fM 0x18 x a 6 2 i) | .sete a i => some (fM 0x18 0 a 6 3 i)
  | .amo op s d a b => some (fA 0x19 d a b (amoOp op ++ aScope s)) | .cas s d a b => some (fA 0x1A d a b ((0 : BitVec 4) ++ aScope s))
  | .fence k s => some (fI 0x1B 0 0 ((0 : BitVec 7) ++ kind k ++ scope s))
  | .spc d a => some (fA 0x1C d a 0 0) | .cvspLoc d a => some (fA 0x1C d a 0 1)
  | .cvspSq d a => some (fA 0x1C d a 0 2) | .cvspRem d a => some (fA 0x1C d a 0 3)
  | .fadd t d a b => some (fA (fpMajor t) d a b 0) | .fsub t d a b => some (fA (fpMajor t) d a b 1)
  | .fmul t d a b => some (fA (fpMajor t) d a b 2) | .fma t d a b => some (fA (fpMajor t) d a b 3)
  | .fnma t d a b => some (fA (fpMajor t) d a b 4) | .fdiv t d a b => some (fA (fpMajor t) d a b 5)
  | .fsqrt t d a => some (fA (fpMajor t) d a 0 6) | .fmin t d a b => some (fA (fpMajor t) d a b 7)
  | .fmax t d a b => some (fA (fpMajor t) d a b 8) | .fneg t d a => some (fA (fpMajor t) d a 0 9)
  | .fabs t d a => some (fA (fpMajor t) d a 0 10) | .fcmp t d a b => some (fA (fpMajor t) d a b 11)
  | .fcls t d a => some (fA (fpMajor t) d a 0 12) | .frcp t d a => some (fA (fpMajor t) d a 0 13)
  | .fex2 t d a => some (fA (fpMajor t) d a 0 14) | .flg2 t d a => some (fA (fpMajor t) d a 0 15)
  | .fcvt x y r d a => some (Enc.conv 0 (rnd r) (fpFmt x) (fpFmt y) d a)
  | .fcvi x y r d a => some (Enc.conv 1 (rnd r) (intFmt x) (fpFmt y) d a)
  | .icvf x y r d a => some (Enc.conv 2 (rnd r) (fpFmt x) (intFmt y) d a)
  | .sigr d a => some (fI 0x25 d a 0) | .sigw d a n => some (fI 0x25 d a ((1 : BitVec 1) ++ (0 : BitVec 4) ++ n))
  | .qblkI8 d a b => some (fA 0x26 d a b 0) | .qblkI4 d a b => some (fA 0x26 d a b 1) | .fscl d a b => some (fA 0x26 d a b 2)
  | .exit => some (fA 0x27 0 0 0 0) | .yield => some (fA 0x27 0 0 0 1) | .pass m => some (fA 0x27 0 m 0 2)
  | .take d => some (fA 0x27 d 0 0 3) | .go a => some (fA 0x27 0 a 0 4) | .susp a => some (fA 0x27 0 a 0 5)
  | .spawn d a => some (fA 0x27 d a 0 6) | .spawnTry d a => some (fA 0x27 d a 0 7) | .spawnW d a => some (fA 0x27 d a 0 8)
  | .ctxnew d a => some (fA 0x27 d a 0 9) | .ctxkill a => some (fA 0x27 0 a 0 10) | .hold a => some (fA 0x27 0 a 0 11)
  | .wait l s c m q => some ((0x28 : BitVec 6) ++ (0 : BitVec 1) ++ l ++ s ++ c ++ m ++ q)
  | .bar n => some (fI 0x29 0 0 ((0 : BitVec 1) ++ (0 : BitVec 8) ++ n)) | .barw n => some (fI 0x29 0 0 ((1 : BitVec 1) ++ (0 : BitVec 8) ++ n))
  | .semp n => some (fI 0x2A 0 0 ((0 : BitVec 1) ++ (0 : BitVec 7) ++ n)) | .semv n => some (fI 0x2A 0 0 ((1 : BitVec 1) ++ (0 : BitVec 7) ++ n))
  | .one => some (fJ 0x2B 0)
  | .rep n s lo sp => some ((0x2C : BitVec 6) ++ n ++ s ++ lo ++ sp ++ (0 : BitVec 2))
  | .sbind d a => some (fI 0x2C d a 1) | .sfree d => some (fI 0x2C d 0 2)
  | .gnewZero d a b => some (fA 0x2D d a b 0) | .gnewTrap d a b => some (fA 0x2D d a b 1)
  | .gfree a => some (fA 0x2D 0 a 0 2) | .gchk d a => some (fA 0x2D d a 0 3)
  | .cpy a b s => some (fE 0x2E 1 a b ((0 : BitVec 1) ++ s) 0) | .cpym a b s => some (fE 0x2E 1 a b ((0 : BitVec 1) ++ s) 1)
  | .deal a b s => some (fE 0x2E 1 a b ((0 : BitVec 1) ++ s) 2) | .bkt a b s => some (fE 0x2E 1 a b ((0 : BitVec 1) ++ s) 3)
  | .qfen s a => some (fE 0x2E 1 a 0 ((0 : BitVec 1) ++ scope s) 4)
  | .mld a b => some (fE 0x2F 2 a b 0 0) | .mmul a b => some (fE 0x2F 2 a b 0 1) | .mgrp a b => some (fE 0x2F 2 a b 0 2)
  | .mzero => some (fE 0x2F 2 0 0 0 3) | .mout a b => some (fE 0x2F 2 a b 0 4) | .mxa a b => some (fE 0x2F 2 a b 0 5)
  | .rcat a b => some (fE 0x30 3 a b 0 0) | .rsplit a b => some (fE 0x30 3 a b 0 1) | .rsplice a b => some (fE 0x30 3 a b 0 2)
  | .rfind a b => some (fE 0x30 3 a b 0 3) | .rfold a b => some (fE 0x30 3 a b 0 4) | .rpin a b => some (fE 0x30 3 a b 0 5)
  | .rref a b => some (fE 0x30 3 a b 0 6) | .rdrop a b => some (fE 0x30 3 a b 0 7)
  | .smp a b => some (fE 0x31 4 a b 0 0) | .smpw d => some (fE 0x31 4 d 0 0 1)
  | .erd e n d => some (fI 0x32 d 0 ((0 : BitVec 1) ++ engine e ++ n)) | .ewr e n a => some (fI 0x32 0 a ((1 : BitVec 1) ++ engine e ++ n))
  | .nop => some (fI 0x33 0 0 0) | .trap n => some (fI 0x33 0 0 ((1 : BitVec 4) ++ n)) | .eret => some (fI 0x33 0 0 0x200)
  | .dbg n => some (fI 0x33 0 0 ((3 : BitVec 4) ++ n)) | .idle => some (fI 0x33 0 0 0x400)
  | .csrr c d => some (fI 0x34 d 0 ((0 : BitVec 2) ++ c)) | .csrw c a => some (fI 0x34 0 a ((1 : BitVec 2) ++ c))
  | .csrs c a => some (fI 0x34 0 a ((2 : BitVec 2) ++ c)) | .csrc c a => some (fI 0x34 0 a ((3 : BitVec 2) ++ c))
  | .cfgctx d a => some (fI 0x35 d a 0) | .tlbi a => some (fI 0x35 0 a 0x400) | .gscrub => some (fI 0x35 0 0 0x800)
  | .replayWordIssue .. => none | .oneResultDelivery .. => none | .loadReply .. => none | .storeBufferCommit .. => none
  | .postedStoreAccept .. => none | .portWordArrival .. => none | .translationWalkEnd .. => none | .tlbiRemovalComplete .. => none
  | .foldEnd .. => none | .gscrubEnd .. => none | .copyCommandStart .. => none | .copyCommandComplete .. => none
  | .qfenComplete .. => none | .matrixCommandStart .. => none | .matrixCommandComplete .. => none | .ropeCommandStart .. => none
  | .ropeCommandComplete .. => none | .limboRelease .. => none | .contextDrainEnd .. => none | .recordArrival .. => none
  | .landing .. => none | .holdRecordSend .. => none | .goDeliveryRetry .. => none | .holdDeliveryRetry .. => none
  | .landingRingRedelivery .. => none | .sampleInjectionArrival .. => none | .partitionScan => none | .launchSlotTake .. => none
  | .launchRingReturn .. => none | .depWordPoll .. => none | .dispatchDecision .. => none | .runBlock .. => none
  | .gangFillEnd .. => none | .gangRetire .. => none | .runComplete .. => none | .doneWordRetry .. => none
  | .streamEntryReread .. => none | .allAsleepSample .. => none | .switchRecordPoll => none | .switchOutStop .. => none
  | .switchOutDrainEnd .. => none | .switchOutDone .. => none | .switchInResume .. => none | .lockstepForcedCompare .. => none
  | .softError .. => none | .deviceReset => none | .boot .. => none | .linkDown .. => none | .linkUp .. => none
  | .tdispStateChange .. => none | .powerLimitHold .. => none | .temperatureHigh .. => none | .temperatureHalt .. => none
  | .peerAccessArrival .. => none | .hostLocalWrite .. => none | .hostFillAliasWrite .. => none | .hostHbmWrite .. => none
  | .hostRead .. => none | .launchSlotWrite .. => none | .launchSlotFull .. => none | .registerWrite .. => none
  | .setDescriptorTable => none | .setEventRing => none | .startSupervisorGang => none | .openDebugSession => none
  | .closeDebugSession => none | .debugRead => none | .debugWrite => none | .checkpoint => none | .restore .. => none
  | .resume => none | .checkpointResume => none | .issueRefusalHolder .. => none | .takeAnswer .. => none
  | .mailboxCommandEnd => none | .switchInRestoreEnd .. => none | .powerLimitRelease => none | .temperatureHoldRelease .. => none

end Sys2Proof
end

