-- ==== Sys2Proof/Config.lean ====
section
/-! DEFINITION. What the spec leaves open, as constants without a body: nothing in Lean can evaluate one or prove a value
of it, so a claim holds whatever it is. State.free numbers the fresh values (notes/assumptions). -/

namespace Sys2Proof.Config

/-- Which of the moves that are possible is taken next (R452: open latencies; DESIGN CHOICE, log 1). -/
opaque freeTurn : Nat → Nat
/-- How many cycles beyond one a step takes (R452; DESIGN CHOICE, log 1). -/
opaque freeCycles : Nat → Nat
/-- A choice between two outcomes that a rule lists (R10): R231 Early or Read, R253 overlap, R280, R307 (DESIGN CHOICE, log 5). -/
opaque freeChoice : Nat → Bool
/-- Whether a read does not see a write yet (R230 lets it return an older one): the number of the read, the aligned word, the write's
commit count (DESIGN CHOICE, log 5). -/
opaque freeHide : Nat → Nat → Nat → Bool
/-- A choice among the gangs or victims a rule leaves unordered (R158, R197; DESIGN CHOICE, log 5). -/
opaque freePick : Nat → Nat
/-- A word whose bits the spec leaves to the part or to a sensor: length of an image's third section (R346), `jhead`, ageing (DESIGN CHOICE, log 6). -/
opaque freeWord : Nat → Word
/-- What the save area of R325 holds: the number of the save, and the word (DESIGN CHOICE, log 6). -/
opaque saveWord : Nat → Nat → Word
/-- What a peer's memory holds: a moment, the link's slot, the address (R213; DESIGN CHOICE, log 6). -/
opaque peerWord : Nat → Nat → Nat → Word
/-- A byte that the host's processor writes to the host's own memory: the moment, and with it the address (DESIGN CHOICE, log 50). -/
opaque hostAddr : Nat → Nat
opaque hostByte : Nat → Byte
/-- How many words the core's port send queue holds: "full" is named in R58 and R61, the depth is not stated (DESIGN CHOICE, log 9). -/
opaque sendQueueDepth : Nat
/-- The identity public key, the image digest and the blob digest of R341 as bytes (DESIGN CHOICE, log 11). -/
opaque identityKey : Nat → Byte
opaque imageDigest : Nat → Byte
opaque blobDigest : Nat → Byte
/-- Bytes of a checkpoint image that the spec leaves to the part: the third section, and word 0 of a node-cache line (R346): the image's number,
the offset (DESIGN CHOICE, log 29). -/
opaque imageByte : Nat → Nat → Byte
/-- Where a byte of a core's or a node cache's share of an image stands in the holder: R346 leaves the order to the part (DESIGN CHOICE, log 29). -/
opaque shareAt : Nat → Nat
/-- SHA3-256 of a list of bytes, byte n of it; the ML-DSA-44 signature of this device over a list of bytes, byte n of it; whether a key accepts
another signature over a list of bytes. The spec names the functions and does not define them (DESIGN CHOICE, log 29). -/
opaque sha3 : List Byte → Nat → Byte
opaque signature : List Byte → Nat → Byte
opaque verifies : List Byte → List Byte → List Byte → Bool
/-- Answer of a PCIe completer to an AtomicOp (R354: it may reject one; DESIGN CHOICE, log 6). -/
opaque hostAtomicOk : Nat → Bool

end Sys2Proof.Config
end

