-- ==== Sys2Proof/Machine/State.lean ====
section
/-! DEFINITION. The state of the DL3 as plain data (INVENTORY.md, ## State). Large arrays are sparse: a list of (index, value)
pairs with rising indexes that lists no entry equal to what an unlisted index holds. -/

namespace Sys2Proof.Machine

/-- A sparse map from naturals, in one canonical form: indexes strictly rising, no entry equal to the default. -/
abbrev SMap (α : Type) := List (Nat × α)

/-- Bytes by address; an unlisted address reads as 0 (R86, R227: the initial write is 0). -/
abbrev Memory := List Host.Cell

/-! ## Small enumerations -/

/-- The states of a context (R146), in the order of the snapshot code of R207. -/
inductive CtxState where
  | free | ready | parked | idleLanding | draining | filling
  deriving DecidableEq, Repr

/-- The pins (R56), in the order of their codes (R69). -/
inductive Pin where
  | gen | rep | mat | cpy
  deriving DecidableEq, Repr

/-- The counter classes of R186. -/
inductive Class where
  | L | S | C | M | Q
  deriving DecidableEq, Repr

/-- How a context ended (R169). -/
inductive EndKind where
  | exited | killed | terminated
  deriving DecidableEq, Repr

/-- One byte run at its home (R225): a core's local store, HBM by its row-major address (R219), host memory, a peer. -/
inductive Place where
  | ls (core off : Nat)
  | hbm (m : Nat)
  | host (a : Nat)
  | peer (slot : Nat) (a : Nat)
  deriving DecidableEq, Repr

/-- What a trap reports (R314). `done` marks the causes whose instruction counts as done (0x0E, 0x0F). -/
structure TrapInfo where
  cause : Nat
  addr : Word := 0
  aux : Word := 0
  done : Bool := false
  /-- its access missed the core's translation cache, which counts (R321) -/
  missed : Bool := false
  deriving DecidableEq, Repr

/-- What a parked context waits for: the wake condition of its list (R185). -/
inductive WaitCond where
  /-- list 1: no outstanding request targets this register field -/
  | reg (r : Nat)
  /-- list 1: every replay of the captured bodies has completed (R261, R373) -/
  | replays
  /-- list 1: the fill has written this register (R64) -/
  | fill (r : Nat)
  /-- list 1: the oldest election round of the domain has been delivered (R412) -/
  | electRoom
  /-- list 1: every earlier access of the context has performed, those of remaining replays among them -/
  | performed
  /-- list 1: the context's acquires with a lower order number have performed (R233) -/
  | acquires (n : Nat)
  /-- list 1: none of its own accesses to these bytes, but for buffered stores, has still to perform (R233) -/
  | clear (pl : Place) (n : Nat)
  /-- list 1: every earlier access to this range of the own local store has performed (R390) -/
  | range (off len : Nat)
  /-- list 1: no remaining replay may access these bytes (R423) -/
  | clearOfReplays (pl : Place) (n : Nat)
  /-- list 2: the word's state is as wanted -/
  | fe (core off : Nat) (full : Bool)
  /-- list 3 -/
  | portRx (n : Nat)
  /-- list 4 -/
  | portTx
  /-- list 5: each counter is at most the value (31 ignores the class) -/
  | counters (l s c m q : Nat)
  /-- list 5: the class counter is below 63 -/
  | room (k : Class)
  /-- list 5: the journal has a free entry -/
  | journal (n : Nat)
  /-- list 5: L, C, M and Q are 0 (R148, R392) -/
  | drained
  /-- list 5: the context's `smpw` into this field has completed (R305) -/
  | sampled (r : Nat)
  /-- list 5: never (`idle`, R315) -/
  | never
  /-- list 6 -/
  | bar (n : Nat)
  | barw (n : Nat)
  /-- list 7 -/
  | sem (n : Nat)
  /-- list 8 -/
  | walk (page : Nat)
  | tlbi (op : Nat)
  /-- list 9: slot `slot` of item `item` of run `run` is published, or the item is aborted -/
  | carry (run item slot : Nat)
  /-- list 9: the stream entry is re-read (R179) -/
  | stream (run : Nat)
  /-- list 10: the pending-launch store or queue has room (R201) -/
  | launch
  /-- list 10: the shipment has been taken (R162) -/
  | delivery
  /-- list 11: the hold table of `core` has a free entry -/
  | hold (core : Nat)
  /-- list 11: no hold entry's block lies in the range (R390) -/
  | holdRegion (lo hi : Nat)
  /-- list 12: no scoreboard entry conflicts with an access to [lo, hi] -/
  | board (lo hi : Nat) (write : Bool)
  /-- list 12: so many scoreboard entries are free -/
  | boardFree (n : Nat)
  /-- list 13: no fold is in progress -/
  | fold
  /-- list 13: the context's scrub pass has ended -/
  | scrub
  deriving DecidableEq, Repr

/-- The wait of a parked context: list code, snapshot object (R207), condition, and its place in the order of parking. -/
structure Wait where
  list : Nat
  object : BitVec 48 := 0
  cond : WaitCond
  seq : Nat := 0
  deriving DecidableEq, Repr

/-! ## Memory ordering (R227 to R245) -/

/-- A set of writers: the parties of a scope (R234), the commands of one context in one queue (R241), or one requester at the host port (R337). -/
inductive Parties where
  | ctx (uid : Nat)
  | cores (l : List Nat)
  /-- a rectangle of squares: first column and row, width and height -/
  | part (col row w h : Nat)
  | device
  | system
  | queue (uid q : Nat)
  | port (req : Nat)
  deriving DecidableEq, Repr

/-- Who committed a write: a context itself (queue 0, with the order number of its access) or its command in an engine queue
(1 copy, 2 matrix, 3 rope; R229), the dispatcher, a requester at the host port, or a peer link. -/
inductive Writer where
  | ctx (uid core tenant queue seq : Nat)
  | disp
  | port (req : Nat)
  | link
  deriving DecidableEq, Repr

/-- What an agent has seen (R227): for each set of writers a commit count up to which all is seen, single writes by byte and
commit count, and buffered stores read by an Early step, by writer and order number. -/
structure Front where
  marks : List (Parties × Nat) := []
  seen : List (Place × Nat) := []
  early : List (Nat × Nat) := []
  deriving DecidableEq, Repr

/-- A write of one byte: its commit count (0 for the initial write) and cycle, the value, the generation it was written under, the
writer, the writes of the byte it is ordered after (R229), and the snapshots it carries as a release (R235, R236). -/
structure Wr where
  n : Nat
  time : Nat
  val : Byte
  gen : BitVec 16
  by_ : Writer
  after : List Nat
  /-- buffered stores, by writer and order number, that an Early step had shown to the writer: it is ordered after them (R229, R231) -/
  afterB : List (Nat × Nat) := []
  rel : List (Parties × Front)
  deriving DecidableEq, Repr

/-- Where a snapshot waits for those who acquire it, other than a location: a run's spawn (R200), a launch queue slot (R194), a carry
slot (R243), a phase of a barrier of a gang (R191), what a run's contexts
released at `exit` (R158), a semaphore of a core (R190), a command at Enqueue (R240), and what the completed commands of a
context's queue have written (R241). -/
inductive Chan where
  | run (uid : Nat)
  | slot (q i : Nat)
  | carry (run item slot : Nat)
  | bar (gang n phase : Nat)
  | ended (run : Nat)
  | sem (core n : Nat)
  | cmd (id : Nat)
  | done (uid q : Nat)
  deriving DecidableEq, Repr

/-- The write sets, frontiers and commit count of R227. A byte with no write set has the one write that memory holds. -/
structure Order where
  commits : Nat
  /-- newest first -/
  wsets : List (Place × List Wr)
  /-- by context uid -/
  fronts : SMap Front
  /-- what each later store of a context carries since its fences (R236) -/
  rels : SMap (List (Parties × Front))
  chans : List (Chan × Front)
  /-- by context uid: the commit count that its last completed system-scope fence covers (R337) -/
  sysDone : SMap Nat
  deriving DecidableEq, Repr

/-! ## Register file and contexts -/

/-- One register file entry (R48). -/
structure RegEntry where
  val : Word
  cnt : BitVec 7
  inx : Bool
  gen : BitVec 16
  deriving DecidableEq, Repr

/-- A value with its tags, as instructions, ports, carries and records move it (R48). -/
structure TVal where
  val : Word
  cnt : BitVec 7
  inx : Bool
  deriving DecidableEq, Repr

/-- The five trap registers of one level (R309). -/
structure TrapRegs where
  vec : Word
  cause : Word
  pc : Word
  addr : Word
  aux : Word
  deriving DecidableEq, Repr

/-- Where a result that arrives later is appended: the element that the generator named when the instruction issued (R264). -/
structure Append where
  place : Place
  ptr : Word
  size : Nat
  /-- it goes by the journal -/
  rem : Bool
  seq : Nat
  deriving DecidableEq, Repr

/-- A `qblk` under way (R126, R419): whether it is a body word, Q, the source words still to be read, with their pointers, those that have been, and the
byte stores that it will make. -/
structure Block where
  body : Bool
  q : Nat
  srcs : List (Place × Word)
  vals : List Nat
  outs : List Append
  deriving DecidableEq, Repr

/-- What an outstanding request will do when it is answered (R186, R353, R401, R402, R391, R412, R447, R305). -/
inductive LoadKind where
  | ld (size : Nat) (signed acq : Bool)
  /-- a full/empty load whose Atomic step has taken place: the value is on its way -/
  | taken (v : Word)
  | amo (op : AmoOp) (b : Word) (scope : Parties)
  | cas (exp new : Word) (scope : Parties)
  | ldt (tag : Place)
  | gchk (core off : Nat)
  /-- a result delivered by election: round k, and the word after this context's own prefix (R412, R413) -/
  | one (k : BitVec 32) (word : IWord)
  | take (run : Nat)
  | smpw (id tree : Nat) (step : BitVec 32) (cnt : Nat)
  | qblk (b : Block)
  deriving DecidableEq, Repr

/-- What an instruction that waits for its reply has taken from its sources, for a fault that the reply brings: port words popped,
oldest first, and the generator registers as they stood (R14, R354). -/
structure Taken where
  pops : List (Nat × List TVal) := []
  gens : List (Nat × Word) := []
  deriving DecidableEq, Repr

/-- An outstanding request of a context: its order number, the instruction, the destination field and the location. -/
structure LoadReq where
  seq : Nat
  pc : Word
  /-- where the context goes on, for an access that parks its context until the reply (R353); 0 when it did not park for it (R413) -/
  next : Word
  rd : Nat
  kind : LoadKind
  place : Place
  ptr : Word
  /-- level of the leaf that translated the pointer (R354) -/
  lv : Nat
  /-- the election round that the result is also delivered to (R412) -/
  elect : Option (BitVec 32)
  /-- the context stays parked for the reply -/
  waits : Bool := false
  /-- a stream-bound destination: the element to append, or none where the generator was at its end (R264) -/
  app : Option (Option Append) := none
  taken : Taken := {}
  deriving DecidableEq, Repr

/-- A captured `rep` body and its progress (R258, R423). -/
structure Body where
  base : Word
  words : List IWord
  s : Nat
  lo : Nat
  span : Nat
  count : Nat
  replay : Nat
  word : Nat
  /-- a trap in a replay stopped the body (R317), and where the main stream goes on when it resumes -/
  stopped : Bool
  main : Word
  /-- an `eret` has resumed it, and the main stream waits for its end (R317) -/
  resumed : Bool := false
  /-- order number of the context's accesses at capture -/
  seq : Nat
  deriving DecidableEq, Repr

/-- How a page walk ends (R217, R221): a leaf and whether it maps 32 MiB, or a fault. -/
inductive WalkEnd where
  | leaf (big : Bool) (entry : Word)
  | fault (cause aux : Nat)
  deriving DecidableEq, Repr

/-- The walks of an engine command (R221): the page it waits for, and the ends of those that its next access waited for. -/
structure CmdWalks where
  page : Option Nat := none
  ends : List (Nat × WalkEnd) := []
  deriving DecidableEq, Repr

/-- A copy command or `qfen` in a context's copy queue, with the registers it copied at issue (R248) and its progress. -/
structure CopyCmd where
  id : Nat
  /-- 0 `cpy`, 1 `cpym`, 2 `deal`, 3 `bkt`, 4 `qfen` -/
  cmd : Nat
  set : Nat
  src : Word
  dst : Word
  hdr : Word
  dims : List Word
  aux : Word
  priv : Nat
  /-- `pvbase` at issue: a later write of it is for later instructions (R373) -/
  pv : Word
  /-- seq of the issuer at issue: the command waits for every earlier store (R240) -/
  seq : Nat
  started : Bool
  /-- units begun in linear order; at a failure those completed -/
  done : Nat
  /-- `qfen`: the commands joined (R242) -/
  join : List Nat
  /-- `qfen`: the parties of its scope (R242) -/
  scope : Option Parties := none
  /-- the governing generation of the destination on the issuing core as recorded at issue (R79), and for `bkt` that of the permutation -/
  dstGen : BitVec 16
  auxGen : BitVec 16
  /-- units that have been read and not yet committed: number, destinations, value (R371) -/
  held : List (Nat × List (Word × Place) × Nat) := []
  /-- the failure found, with its pointer (R251) -/
  fail : Option (Nat × Word)
  /-- the units as they stood at Start, where source and destination overlap (R253) -/
  orig : List Nat
  /-- `bkt`: the ids read -/
  ids : List Nat
  walks : CmdWalks := {}
  deriving DecidableEq, Repr

/-- A matrix command in a context's matrix queue with the registers it copied at issue (R248). -/
structure MatCmd where
  id : Nat
  /-- 0 `mld`, 1 `mmul`, 2 `mgrp`, 3 `mzero`, 4 `mout`, 5 `mxa` -/
  cmd : Nat
  /-- local offsets of xa and xb, and xb itself (a bank, or 0 for none) -/
  aoff : Nat
  boff : Nat
  b : Word
  geo : Word
  astr : Word
  ggeo : Word
  epi : Word
  epiv : Word
  wsc : Word
  ostr : Word
  seq : Nat
  started : Bool
  /-- `mgrp`: (count, descriptor word 0, descriptor word 1) of each group, read at Start (R269) -/
  groups : List (Nat × Word × Word)
  deriving DecidableEq, Repr

/-- The copies of identity that an inline child replaces (R202). -/
structure Inline where
  run : Nat
  index : Nat
  /-- the pc of the `spawn.w` -/
  pc : Word
  oldRun : Nat
  oldIndex : Nat
  oldRunId : Nat
  /-- the child's eight barriers: completed phases (arr = obs = done, R359) -/
  bars : SMap (BitVec 32)
  deriving DecidableEq, Repr

/-- A context slot (R146, R69). -/
structure Ctx where
  uid : Nat
  state : CtxState
  wait : Option Wait
  /-- the wait of a body word that could not proceed; the main stream stops with it (R261) -/
  bwait : Option Wait
  /-- the cycle of its last issue (R182) -/
  lastIssue : Option Nat
  pc : Word
  chain : Bool
  port : Bool
  landing : Bool
  hasRec : Bool
  pin : Pin
  wbase : Nat
  wcount : Nat
  gen : BitVec 16
  tenant : Nat
  gang : Option Nat
  rank : Nat
  col : Nat
  row : Nat
  index : Nat
  /-- run uid (the model's), and the identifier `runid.run` reports -/
  run : Nat
  runId : Nat
  prio : Nat
  ordered : Bool
  lock : Bool
  strm : Bool
  stream : Nat
  status : Word
  ut : TrapRegs
  st : TrapRegs
  sigmin : Word
  fflags : Word
  fround : Word
  tagbase : Word
  pvbase : Word
  qdst : SMap Word
  rxq : SMap (List TVal)
  nL : Nat
  nS : Nat
  nC : Nat
  nM : Nat
  nQ : Nat
  binds : List (Nat × Nat)
  ereg : SMap Word
  carry : Option (List Nat)
  body : Option Body
  loads : List LoadReq
  copyQ : List CopyCmd
  matQ : List MatCmd
  recC : Bool
  recQ : Bool
  elect : BitVec 32
  arr : SMap (BitVec 32)
  obs : SMap (BitVec 32)
  /-- the inline children, the one that runs first (a `spawn.w` in an inline gang may run its child inline too) -/
  inl : List Inline
  fill : List (Nat × TVal)
  /-- `spawn.w` whose runs have ended inline: the value of xd, still to be written, and the instruction's address, the newest first -/
  results : List (Word × Word)
  ship : Option (Nat × List Word)
  /-- what the instruction that the context is parked in has taken from its sources (R14, R185) -/
  taken : Taken
  /-- the packet that a parked `spawn` has read (R438) -/
  packet : Option (List Word)
  held : List TrapInfo
  skip : List Nat
  xfault : Option (Nat × Nat × Nat)
  ended : Option EndKind
  seq : Nat
  /-- the landing number: stores of an ended landing report to no context (R392) -/
  land : Nat
  /-- a trap of the main stream held until the replays complete, with its address (R317) -/
  mtrap : Option (Word × TrapInfo)
  /-- the result of the elected instruction in its issue slot, for delivery (R412) -/
  eout : Option TVal
  /-- it is in the handler of an 0x14 and has not returned from it (R206) -/
  in14 : Bool := false
  deriving DecidableEq, Repr

/-! ## Core -/

/-- A live local store region (R71, R389). -/
structure Region where
  off : Nat
  len : Nat
  trap : Bool
  gen : BitVec 16
  gang : Nat
  tenant : Nat
  /-- its gang has retired; it stays while a hold block lies in it (R394) -/
  retired : Bool
  deriving DecidableEq, Repr

/-- A buffered plain store (R231). -/
structure SbEntry where
  slot : Nat
  uid : Nat
  tenant : Nat
  seq : Nat
  /-- the two halves of one `stt` share a number other than 0; S counts them once (R444) -/
  pair : Nat
  place : Place
  size : Nat
  value : Word
  gen : BitVec 16
  deriving DecidableEq, Repr

/-- A journalled store (R244, R319). -/
structure JEntry where
  ent : Nat
  slot : Nat
  uid : Nat
  land : Nat
  tenant : Nat
  seq : Nat
  /-- as in SbEntry -/
  pair : Nat
  place : Place
  ptr : Word
  size : Nat
  value : Word
  rel : Bool
  /-- the storing context's own generation -/
  gen : BitVec 16
  /-- it is one of the eight stores of a `susp` (R446) -/
  susp : Bool := false
  deriving DecidableEq, Repr

/-- The refusal record of `jhead` (R319): entry, reason, slot, uid and landing of the issuer, further refusals, pointer, size code. -/
structure JRec where
  ent : Nat
  rsn : Nat
  slot : Nat
  uid : Nat
  land : Nat
  more : Nat
  ptr : Word
  sizeCode : Nat
  raised : Bool
  deriving DecidableEq, Repr

/-- A range scoreboard entry (R223). -/
structure Board where
  cmd : Nat
  lo : Nat
  hi : Nat
  dest : Bool
  deriving DecidableEq, Repr

/-- A continuation in flight or waiting: its eight words (R160), destination core, ring source code (R196), sender. -/
structure Shipment where
  words : List Word
  dest : Nat
  src : Nat
  tenant : Nat
  sender : Nat
  /-- what its landing acquires (R163) -/
  front : Front := {}
  deriving DecidableEq, Repr

/-- A hold table entry: offset of the block, the record as `hold` wrote it, its tenant, and whether it has been sent (R167). -/
structure HoldEntry where
  off : Nat
  tenant : Nat
  words : List Word
  /-- what `hold` released (R166) -/
  front : Front := {}
  /-- the mailbox was found full and the record could not be delivered: it is tried again every 1,024 cycles (R162) -/
  tried : Bool := false
  deriving DecidableEq, Repr

/-- An injection or the best of several (R301, R302). -/
structure Inject where
  cls : Bool
  value : BitVec 32
  index : BitVec 24
  deriving DecidableEq, Repr

/-- A collector round (R302). -/
structure Round where
  slot : Nat
  uid : Nat
  tree : Nat
  step : BitVec 32
  got : Nat
  best : Option Inject
  deriving DecidableEq, Repr

/-- A fold or scrub pass in progress (R78, R395): the scrub's issuer, if it is one. -/
inductive Pass where
  | fold
  | scrub (slot uid : Nat)
  deriving DecidableEq, Repr

/-- Who waits to allocate on a core (R78): an instruction of a context, a landing, a run's gang that is being placed, the kerb contexts of a tenant, or a
switch in. -/
inductive Stall where
  | ctx (slot uid : Nat) (pc : Word)
  | landing
  | place (run : Nat)
  | kerb (tenant : Nat)
  | switch (tenant : Nat)
  deriving DecidableEq, Repr

/-- A lockstep pair on its primary core (R327 to R329): the twin, the log of overwritten register entries since the last
passed point, and the lockstep contexts as they stood there. -/
structure LockPair where
  twin : Nat
  log : List (Nat × RegEntry)
  point : SMap Ctx
  /-- a mismatch was rolled back since the last passed point -/
  rolled : Bool
  /-- the event counters and `lockckpt.lim` as they stood there; what the core itself did not count is kept up -/
  events : SMap (BitVec 32) := []
  lim : Nat := 64
  deriving DecidableEq, Repr

/-- A translation cache entry (R220), most recently used first in its list. -/
structure TlbEntry where
  tenant : Nat
  /-- VA[50:16] of the page's first byte -/
  page : Nat
  big : Bool
  /-- the leaf entry -/
  leaf : Word
  deriving DecidableEq, Repr

/-- A port word on its way (R58, R60). -/
structure PortMsg where
  srcCore : Nat
  tenant : Nat
  core : Nat
  slot : Nat
  queue : Nat
  v : TVal
  deriving DecidableEq, Repr

/-- An array or kerb core (R16, R18, R21). -/
structure Core where
  ctxs : SMap Ctx
  slots : Nat
  regs : SMap RegEntry
  ls : Memory
  fe : SMap Bool
  lsGen : SMap (BitVec 16)
  acc : SMap (BitVec 32 × Nat)
  banks : Memory
  genLast : Nat
  /-- the value above which the next one is looked for: genLast, or 0 after a fold (R78) -/
  genFrom : Nat
  fold : List Pass
  /-- the next entry or granule that the pass visits -/
  foldAt : Nat
  /-- allocations that wait, in the order of arrival -/
  stalled : List Stall
  regions : List Region
  storeBuf : List SbEntry
  journal : List JEntry
  /-- where a free entry is looked for: 0, or one past the entry last taken -/
  jnext : Nat
  jrec : Option JRec
  board : List Board
  events : SMap (BitVec 32)
  sems : SMap (BitVec 16)
  copySets : SMap Word
  landq : List Shipment
  hold : List HoldEntry
  rot : List Nat
  /-- cycle and slot of the last issue, and who joined the rotation in which cycle (R182) -/
  issued : Option (Nat × Nat)
  joined : Nat × List Nat
  /-- the slot that the repetition engine looks at first, and the copy engine (R261, R249) -/
  repTurn : Nat
  cpyTurn : Nat
  tlb : List TlbEntry
  rounds : List Round
  lim : Nat
  lock : Option LockPair
  twinOf : Option Nat
  matCur : Option Nat
  matTurn : Nat
  deriving DecidableEq, Repr

/-! ## Square -/

/-- What a rope command has still to do once its effect has taken place (R287, R293, R424): the nodes that limbo has still to take, and the commands
that had Started before their counts reached 0. -/
structure RopeFin where
  status : Nat
  value : Nat
  word1 : Word
  ptr : Word
  left : List Word
  waits : List Nat
  deriving DecidableEq, Repr

/-- A rope command (R289 to R295): issuer, argument block, copied registers, and what Start read. -/
structure RopeCmd where
  id : Nat
  core : Nat
  slot : Nat
  uid : Nat
  tenant : Nat
  priv : Nat
  cmd : Nat
  args : List Word
  argPtr : Word
  res : Nat
  pool : Word
  list : Word
  cap : Word
  seq : Nat
  started : Bool
  /-- roots read at Start: handle A, then B or C; and the class word that both name -/
  rootA : Word
  classA : Word
  rootB : Word
  /-- a failure found at Start: status and failing pointer -/
  fail : Option (Nat × Word)
  /-- the effect has taken place: status, result words and failing pointer, and the nodes that limbo has still to take -/
  fin : Option RopeFin
  walks : CmdWalks := {}
  deriving DecidableEq, Repr

/-- A node in limbo (R287): its pointer, the command that reclaimed it, under a number of the release's own, and the commands that had Started before. -/
structure Limbo where
  node : Word
  cmd : RopeCmd
  waits : List Nat
  deriving DecidableEq, Repr

/-- An open election round (R411 to R413): domain (gang, rank), number, elected core, the result with flags once the elected
member has written it, and where a fault stopped the elected member: its prefix, and whether a supervisor handler runs. -/
structure Election where
  gang : Nat
  rank : Nat
  k : BitVec 32
  elected : Nat
  result : Option (TVal × Word)
  mark : Option (Word × Bool)
  /-- what the result's delivery releases (R414) -/
  front : Front := {}
  deriving DecidableEq, Repr

structure Square where
  tlb : List TlbEntry
  ropeQ : List RopeCmd
  /-- pointers of the nodes in the node cache, most recently used first: tenant, pointer, words 1 to 7 (R288) -/
  nodes : List (Nat × Word × List Word)
  limbo : List Limbo
  elections : List Election
  /-- the highest round opened in each domain: (gang, rank, k) -/
  opened : List (Nat × Nat × BitVec 32)
  deriving DecidableEq, Repr

/-! ## Dispatcher -/

/-- A partition descriptor in force: the tenant and the eight words as the last scan read them (R193). -/
structure Part where
  tenant : Nat
  words : List Word
  deriving DecidableEq, Repr

/-- A phase barrier (R191). -/
structure Barrier where
  done : BitVec 32
  s0 : BitVec 32
  s1 : BitVec 32
  deriving DecidableEq, Repr

/-- A gang (R152, R153). -/
structure Gang where
  uid : Nat
  run : Nat
  index : Nat
  tenant : Nat
  origin : Nat
  w : Nat
  h : Nat
  lock : Bool
  chain : Bool
  sup : Bool
  filling : Bool
  bars : SMap Barrier
  /-- how the last context not in landing role, and the last chain-mode context, ended -/
  lastEnd : Option EndKind
  lastChain : Option EndKind
  aborted : Bool
  deriving DecidableEq, Repr

/-- A run (R156 to R159, R195, R203). -/
structure Run where
  uid : Nat
  runId : Nat
  tenant : Nat
  packet : List Word
  queue : Nat
  age : Nat
  sup : Bool
  /-- the image header as the check read it (R66) -/
  header : Word
  ready : Bool
  /-- it occupies an entry of the pending-launch store (R195) -/
  inStore : Bool
  /-- index of the first gang of this run not yet placed, and how many gangs have ended, been aborted -/
  next : Nat
  count : Nat
  ended : Nat
  aborts : Nat
  tiles : Nat
  pools : List (Nat × Nat × Nat)
  /-- published carry slots: (item, slot, value) (R170, R174) -/
  carry : List (Nat × Nat × TVal)
  abortedItems : List Nat
  /-- the stream snapshot of the run: sixteen entries, once read (R179) -/
  snap : Option (List TVal)
  /-- the writes that the read of the snapshot returned: each reader acquires them (R179, R243) -/
  snapWrs : List (Place × Wr) := []
  fails : Nat
  blocked : Bool
  /-- outcome waiting for its completion word (R159) -/
  outcome : Option Nat
  deriving DecidableEq, Repr

/-- A gang switch in progress (R323 to R326). -/
structure Switch where
  tenant : Nat
  /-- the descriptor in force at acceptance -/
  part : Part
  out : Bool
  t : Nat
  area : Nat
  core : Nat
  slot : Nat
  phase : Nat
  /-- a checkpoint's switch: no save area, no 0x15 (R345) -/
  ckpt : Bool
  deriving DecidableEq, Repr

/-- A sampling packet in the mesh (R302): round, injection, count, injector (core, slot, uid). -/
structure SmpMsg where
  core : Nat
  slot : Nat
  tree : Nat
  step : BitVec 32
  tenant : Nat
  peer : Option Nat
  inj : Inject
  count : Nat
  /-- the injector; none for a packet that came over a peer link -/
  from_ : Option (Nat × Nat × Nat)
  /-- the command it stands for (R242) -/
  id : Nat
  /-- seq of the injector at issue: the command waits for every earlier store (R240) -/
  seq : Nat
  deriving DecidableEq, Repr

/-- A switched-out partition (R325): its cores, its squares' share, its laid-by flits. -/
structure Saved where
  tenant : Nat
  area : Nat
  check : Word
  ckpt : Bool
  cores : SMap Core
  squares : SMap Square
  ports : List PortMsg
  smps : List SmpMsg
  ships : List Shipment
  deriving DecidableEq, Repr

/-- A result on its way to a receiver of an election (R412). -/
structure Delivery where
  core : Nat
  slot : Nat
  uid : Nat
  rd : Nat
  k : BitVec 32
  v : TVal
  flags : Word
  front : Front := {}
  deriving DecidableEq, Repr

/-- Who misses a page (R221): a context, a core's copy engine for the command at the head of a context's queue, or a square's rope engine
for a command. -/
inductive Asker where
  | ctx (core slot : Nat)
  | copy (core slot id : Nat)
  | rope (sq id : Nat)
  deriving DecidableEq, Repr

/-- A page walk (R221): tenant, page, die, the squares it will fill, and who waits. -/
structure Walk where
  tenant : Nat
  page : Nat
  die : Nat
  squares : List Nat
  reqs : List Asker
  deriving DecidableEq, Repr

/-- A launch queue slot (R194): packet, full word, and the packet words that the writes of other requesters than the one that filled it have replaced and
that the dispatcher may still read, the newest first: word, value, requester (R337). A ninth word names the run that a packet continues (R202). -/
structure LaunchSlot where
  words : List Word
  full : Bool
  old : List (Nat × Word × Nat) := []
  deriving DecidableEq, Repr

structure Disp where
  parts : List Part
  slots : SMap LaunchSlot
  qnext : SMap Nat
  gangs : List Gang
  runs : List Run
  nextRun : SMap Nat
  /-- decisions made for each partition (R197) -/
  decisions : SMap Nat
  /-- a decision whose placement stalls for a fold (R78): tenant, run, origin -/
  placing : List (Nat × Nat × Nat)
  lastQueue : SMap Nat
  /-- the first of two all-asleep samples found the partition asleep; contexts may not have issued since (R206) -/
  asleep : List Nat
  /-- 0x14 raised and not yet armed again -/
  slept : List Nat
  /-- 0x17 raised and the store has had no room since (R195) -/
  full : List Nat
  /-- the landing contexts that descriptors in force have given kerb cores, by tenant and uid, and those that end once they are idle (R165) -/
  kerbs : List (Nat × Nat)
  kerbEnds : List Nat
  /-- tenants in force whose kerb contexts have still to be created, as a kerb core folds (R78, R165) -/
  kerbWait : List Nat := []
  /-- records in a tenant's landing ring: tenant, number of the entry, sender, destination (R162) -/
  ringed : List (Nat × Nat × Nat × Nat)
  /-- packets in a tenant's launch ring that continue a run begun inline: tenant, number of the entry, run (R195, R202) -/
  rests : List (Nat × Nat × Nat) := []
  switches : List Switch
  saved : List Saved
  deriving DecidableEq, Repr

/-! ## Host side -/

/-- The supervisor mailbox (R342). -/
structure Mailbox where
  cmd : Word
  args : List Word
  res0 : Word
  res1 : Word
  busy : Bool
  status : Nat
  count : Nat
  /-- the command started; its status and results, once its effect has taken place -/
  cur : Option Nat
  result : Option (Nat × Word × Word)
  /-- the number of the run that command 3 places, and that run once its packet has been read and has passed -/
  run : Nat
  sup : Option Run := none
  deriving DecidableEq, Repr

/-- Telemetry and limits (R341, R347). -/
structure Telemetry where
  temp : SMap (BitVec 16)
  power : BitVec 32
  /-- the ageing shift of each die and the predicted end of life, as last sampled (DESIGN CHOICE, log 11) -/
  age : SMap (BitVec 16)
  eol : BitVec 32
  powerHold : Bool
  haltSeen : Bool
  deriving DecidableEq, Repr

/-- A die at 95 °C or above holds placement (R347). -/
def Telemetry.tempHold (t : Telemetry) : Bool := t.temp.any (fun e => decide (380 ≤ e.2.toNat))

/-- An event for the host ring (R343). -/
structure Event where
  time : Nat
  kind : Nat
  tenant : Nat
  core : Nat
  slot : Nat
  detail : Word
  deriving DecidableEq, Repr

/-- A checkpoint image written to the safe tier (R345, R346). -/
structure Image where
  peer : Option Nat
  base : Word
  /-- the number of its free bytes, and the length of its third section -/
  num : Nat
  len3 : Nat
  code : BitVec 2
  t : Nat
  hbm : Memory
  cores : SMap Core
  squares : SMap Square
  disp : Disp
  deriving DecidableEq, Repr

/-- A checkpoint or restore in progress (R345). -/
structure Ckpt where
  t : Nat
  stayOut : Bool
  /-- the partitions it switched out -/
  tenants : List Nat
  headerDone : Bool
  /-- when they resume, once that is fixed -/
  resumeAt : Option Nat
  deriving DecidableEq, Repr

structure HostSide where
  phase : BitVec 3
  why : BitVec 3
  code : BitVec 2
  /-- the links, the power limit and the restore sources of the configuration blob (R340, R346) -/
  links : BitVec 12
  limit : BitVec 32
  sources : List (BitVec 256)
  table : Option Nat
  mbox : Mailbox
  /-- base, capacity, and the number of the event at entry 0 -/
  ring : Option (Nat × Nat × Nat)
  evSeq : Nat
  evQ : List Event
  sessions : SMap (Nat × Bool)
  linkUp : SMap Bool
  tdisp : SMap Nat
  bound : List (Nat × Nat)
  /-- HBM pages whose key is destroyed: they read 0 (R338) -/
  dead : List Nat
  tele : Telemetry
  ckpt : Option Ckpt
  images : List Image
  /-- what the board management controller read last (R347) -/
  i3c : List Byte
  lastRead : Word
  /-- the last host access completed as Unsupported Request (R335) -/
  ur : Bool
  peerReply : Word
  deriving DecidableEq, Repr

/-- One move of the machine: an issue slot of a core, one unit of a copy command, or an event of the table. -/
inductive Turn where
  | issue (core : Nat)
  | copyUnit (core slot : Nat)
  | fillReg (core slot : Nat)
  /-- the member to which a round has passed executes its pair (R413) -/
  | elected (sq idx : Nat)
  /-- the host's processor writes a byte of the host's memory -/
  | hostOwn
  /-- the board management controller reads a register over I3C (R341, R347) -/
  | i3c
  | event (i : Instr)
  deriving DecidableEq, Repr

/-- The whole machine. -/
structure State where
  cycle : Nat
  tsZero : Option Nat
  cores : SMap Core
  squares : SMap Square
  hbm : Memory
  hostMem : Memory
  disp : Disp
  host : HostSide
  walks : List Walk
  missWait : List (Asker × Nat × Nat)
  tlbiOps : List (Nat × Nat × Nat × Word)
  ships : List Shipment
  ports : List PortMsg
  smps : List SmpMsg
  gives : List Delivery
  takes : List (Nat × Nat × Nat × Nat × Nat)
  nextId : Nat
  free : Nat
  cur : Nat × Nat
  turn : Option Turn
  due : List Instr
  inputs : List Instr
  ord : Order
  deriving DecidableEq, Repr

/-- Why a step stops: no rule of the spec stops the DL3 (R11), so this type has no constructor. -/
inductive Fault
  deriving DecidableEq, Repr

/-- Why a meaning is refused. -/
inductive Refusal where
  /-- Raised by an arm of exec whose instruction has no meaning yet. Safe. -/
  | notModelled (mnemonic : String)
  deriving DecidableEq, Repr

/-! ## Reset -/

def TrapRegs.zero : TrapRegs := { vec := 0, cause := 0, pc := 0, addr := 0, aux := 0 }

/-- A free slot (R146). Its fields hold what creation sets, or 0 (DESIGN CHOICE, log 3). -/
def Ctx.reset : Ctx :=
  { uid := 0, state := .free, wait := none, bwait := none, lastIssue := none, pc := 0, chain := false, port := false, landing := false, hasRec := false,
    pin := .gen, wbase := 0, wcount := 0, gen := 0, tenant := 0, gang := none, rank := 0, col := 0, row := 0, index := 0,
    run := 0, runId := 0, prio := 0, ordered := false, lock := false, strm := false, stream := 0, status := 0,
    ut := TrapRegs.zero, st := TrapRegs.zero, sigmin := 0, fflags := 0, fround := 0, tagbase := 0, pvbase := 0,
    qdst := [], rxq := [], nL := 0, nS := 0, nC := 0, nM := 0, nQ := 0, binds := [], ereg := [], carry := none,
    body := none, loads := [], copyQ := [], matQ := [], recC := false, recQ := false, elect := 0, arr := [], obs := [],
    inl := [], fill := [], results := [], ship := none, taken := {}, packet := none, held := [], skip := [], xfault := none,
    ended := none, seq := 0, land := 0, mtrap := none, eout := none }

/-- Every entry after device reset (R49). -/
def RegEntry.reset : RegEntry := { val := 0, cnt := 127, inx := false, gen := 0 }

/-- A core after device reset: 64 slots (R54), every entry scrubbed and every accumulator +0 with count 24 (R49). Granule stamps and
full/empty bits are 0 (DESIGN CHOICE, log 2), queues and caches empty (DESIGN CHOICE, log 48). -/
def Core.reset : Core :=
  { ctxs := [], slots := 64, regs := [], ls := [], fe := [], lsGen := [], acc := [], banks := [], genLast := 0, genFrom := 0, fold := [], foldAt := 0, stalled := [],
    regions := [], storeBuf := [], journal := [], jnext := 0, jrec := none, board := [], events := [], sems := [],
    copySets := [], landq := [], hold := [], rot := [], issued := none, joined := (0, []), repTurn := 0, cpyTurn := 0, tlb := [], rounds := [], lim := 64, lock := none,
    twinOf := none, matCur := none, matTurn := 0 }

/-- A square after device reset: nothing held (DESIGN CHOICE, log 48). -/
def Square.reset : Square := { tlb := [], ropeQ := [], nodes := [], limbo := [], elections := [], opened := [] }

/-- The dispatcher after device reset: nothing in force, placed or counted (DESIGN CHOICE, log 10). -/
def Disp.reset : Disp :=
  { parts := [], slots := [], qnext := [], gangs := [], runs := [], nextRun := [], decisions := [], placing := [],
    lastQueue := [], asleep := [], slept := [], full := [], kerbs := [], kerbEnds := [], ringed := [], switches := [], saved := [] }

def Mailbox.reset : Mailbox :=
  { cmd := 0, args := [0, 0, 0, 0], res0 := 0, res1 := 0, busy := false, status := 0, count := 0, cur := none, result := none, run := 0 }

def Telemetry.reset : Telemetry :=
  { temp := [], power := 0, age := [], eol := 0xFFFFFFFF, powerHold := false, haltSeen := false }

/-- The host side after device reset (DESIGN CHOICE, log 11; trusted interfaces: PRESUMED, log 47). -/
def HostSide.reset : HostSide :=
  { phase := 0, why := 0, code := 0, links := 0, limit := 0, sources := [], table := none, mbox := Mailbox.reset, ring := none, evSeq := 0, evQ := [],
    sessions := [], linkUp := [], tdisp := [], bound := [], dead := [], tele := Telemetry.reset, ckpt := none, images := [], i3c := [],
    lastRead := 0, ur := false, peerReply := 0 }

/-- No write is recorded: every byte has its initial write, 0 (R227), and nobody has seen another. -/
def Order.reset : Order := { commits := 0, wsets := [], fronts := [], rels := [], chans := [], sysDone := [] }

/-- The machine right after device reset: nothing is placed and no context lives (R49, R54, R146). The model's own fields
start as log 30 says (DESIGN CHOICE). -/
def State.reset : State :=
  { cycle := 0, tsZero := none, cores := [], squares := [], hbm := [], hostMem := [], disp := Disp.reset,
    host := HostSide.reset, walks := [], missWait := [], tlbiOps := [], ships := [], ports := [], smps := [], gives := [],
    takes := [], nextId := 1, free := 0, cur := (0, 0), turn := none, due := [], inputs := [], ord := Order.reset }

end Sys2Proof.Machine
end

