-- ==== Sys2Proof/Machine/Ops.lean ====
section
/-! DEFINITION. Named operations over the state: sparse maps, geometry, local store with generations, traps, parking, ending
a context, and the frame in which every instruction issues. -/

namespace Sys2Proof.Machine

/-! ## Sparse maps -/

def SMap.get (m : SMap α) (k : Nat) (d : α) : α :=
  match m with
  | [] => d
  | (j, x) :: t => if j = k then x else SMap.get t k d

def SMap.erase (m : SMap α) (k : Nat) : SMap α := m.filter (fun e => e.1 != k)

/-- Before the first entry with a larger index. -/
def SMap.insert (m : SMap α) (k : Nat) (v : α) : SMap α :=
  match m with
  | [] => [(k, v)]
  | (j, x) :: t => if k < j then (k, v) :: (j, x) :: t else (j, x) :: SMap.insert t k v

/-- Index k holds v; the default d is never listed. -/
def SMap.put [DecidableEq α] (m : SMap α) (d : α) (k : Nat) (v : α) : SMap α :=
  if v = d then SMap.erase m k else SMap.insert (SMap.erase m k) k v

/-- Indexes strictly rising and no entry equal to what an unlisted index holds. -/
def SMap.wf [DecidableEq α] (m : SMap α) (d : α) : Bool :=
  match m with
  | [] => true
  | [(_, x)] => decide (x ≠ d)
  | (j, x) :: (k, y) :: t => decide (x ≠ d) && decide (j < k) && SMap.wf ((k, y) :: t) d

/-! ## Bytes -/

def Memory.byte (m : Memory) (a : Nat) : Byte := SMap.get m a 0
def Memory.put (m : Memory) (a : Nat) (b : Byte) : Memory := SMap.put m 0 a b
/-- The canonical form of memory: addresses rising, no listed 0 (R227: the initial write is 0). -/
def Memory.wf (m : Memory) : Bool := SMap.wf m 0

/-- n bytes, the lowest address in the low bits (R4). -/
def Memory.read (m : Memory) (a : Nat) : Nat → Nat
  | 0 => 0
  | n + 1 => (Memory.byte m a).toNat + 256 * Memory.read m (a + 1) n

def Memory.write (m : Memory) (a : Nat) (v : Nat) : Nat → Memory
  | 0 => m
  | n + 1 => Memory.write (Memory.put m a (BitVec.ofNat 8 v)) (a + 1) (v / 256) n

/-- The memories, the register map and the context map of a core in canonical form. -/
def Core.canonical (k : Core) : Bool :=
  SMap.wf k.ctxs Ctx.reset && SMap.wf k.regs RegEntry.reset && Memory.wf k.ls && SMap.wf k.fe false && SMap.wf k.lsGen 0 && Memory.wf k.banks

/-- Those of the partitions that are switched out. -/
def Disp.canonical (d : Disp) : Bool := d.saved.all (fun v => v.cores.all (fun e => e.2.canonical))

/-- Those of a checkpoint image. -/
def Image.canonical (m : Image) : Bool :=
  Memory.wf m.hbm && SMap.wf m.cores Core.reset && SMap.wf m.squares Square.reset && m.cores.all (fun e => e.2.canonical) && m.disp.canonical

/-- 8-byte words from a rising address. -/
def Memory.readWords (m : Memory) (a : Nat) : Nat → List Word
  | 0 => []
  | n + 1 => BitVec.ofNat 64 (Memory.read m a 8) :: Memory.readWords m (a + 8) n

/-! ## Bit fields -/

/-- w[hi:lo] as a number (R3). -/
def bits (w : Word) (hi lo : Nat) : Nat := (w.toNat >>> lo) % 2 ^ (hi - lo + 1)
def sxImm (n : Nat) (v : BitVec n) : Word := v.signExtend 64
/-- The field [hi:lo] of w replaced by v. -/
def setBits (w : Word) (hi lo : Nat) (v : Nat) : Word :=
  let m : Word := BitVec.ofNat 64 ((2 ^ (hi - lo + 1) - 1) <<< lo)
  (w &&& ~~~m) ||| (BitVec.ofNat 64 ((v % 2 ^ (hi - lo + 1)) <<< lo))
def w64 (n : Nat) : Word := BitVec.ofNat 64 n

/-! ## Geometry (R15 to R18) -/

def arrayCores : Nat := 12288
def isArray (c : Nat) : Bool := decide (c < 12288)
def isKerb (c : Nat) : Bool := decide (12288 ≤ c) && decide (c < 12544)
def coreUsed (c : Nat) : Bool := decide (c < 12544)
def coreCol (c : Nat) : Nat := c % 96
def coreRow (c : Nat) : Nat := c / 96
def coreAt (col row : Nat) : Nat := 96 * row + col
/-- The square of an array core (R17). -/
def squareOf (c : Nat) : Nat := 24 * (coreRow c / 4) + coreCol c / 4
def squareCore (q p : Nat) : Nat := coreAt (4 * (q % 24) + p % 4) (4 * (q / 24) + p / 4)
/-- The square whose rope engine and miss buffer serve a core; a kerb core uses the square number beyond the array's (one of
its own, since it lies in none: DESIGN CHOICE, log 8). -/
def serveSquare (c : Nat) : Nat := if isArray c then squareOf c else 768 + (c - 12288)
def lsSize (c : Nat) : Nat := if isArray c then 262144 else 786432
/-- The die whose walkers serve a core (R221): array rows 32d to 32d + 31, or the die of the kerb core's stack. -/
def dieOf (c : Nat) : Nat := if isArray c then coreRow c / 32 else (c - 12288) / 32 / 2

/-! ## Access to the parts of the state -/

def State.core (s : State) (c : Nat) : Core := SMap.get s.cores c Core.reset
def State.setCore (s : State) (c : Nat) (k : Core) : State := { s with cores := SMap.put s.cores Core.reset c k }
def State.modCore (s : State) (c : Nat) (f : Core → Core) : State := s.setCore c (f (s.core c))
def Core.ctx (k : Core) (i : Nat) : Ctx := SMap.get k.ctxs i Ctx.reset
def Core.setCtx (k : Core) (i : Nat) (x : Ctx) : Core := { k with ctxs := SMap.put k.ctxs Ctx.reset i x }
def State.ctx (s : State) (c i : Nat) : Ctx := (s.core c).ctx i
def State.setCtx (s : State) (c i : Nat) (x : Ctx) : State := s.modCore c (fun k => k.setCtx i x)
def State.modCtx (s : State) (c i : Nat) (f : Ctx → Ctx) : State := s.setCtx c i (f (s.ctx c i))
def State.square (s : State) (q : Nat) : Square := SMap.get s.squares q Square.reset
def State.setSquare (s : State) (q : Nat) (x : Square) : State := { s with squares := SMap.put s.squares Square.reset q x }
def State.modSquare (s : State) (q : Nat) (f : Square → Square) : State := s.setSquare q (f (s.square q))
def State.modDisp (s : State) (f : Disp → Disp) : State := { s with disp := f s.disp }
def State.modHost (s : State) (f : HostSide → HostSide) : State := { s with host := f s.host }

/-- Every context that is not free, with its core and slot, in rising order. -/
def State.allCtxs (s : State) : List (Nat × Nat × Ctx) :=
  s.cores.flatMap (fun (c, k) => k.ctxs.filterMap (fun (i, x) => if x.state = .free then none else some (c, i, x)))

/-- The core that holds what a core's pair holds: the primary of a twin, which does all that its primary does (R327; DEDUCED, log 44). -/
def State.lead (s : State) (c : Nat) : Nat := (s.core c).twinOf.getD c

def State.gang? (s : State) (g : Nat) : Option Gang := s.disp.gangs.find? (fun x => x.uid == g)
def State.run? (s : State) (r : Nat) : Option Run := s.disp.runs.find? (fun x => x.uid == r)
def State.modGang (s : State) (g : Nat) (f : Gang → Gang) : State :=
  s.modDisp (fun d => { d with gangs := d.gangs.map (fun x => if x.uid == g then f x else x) })
def State.modRun (s : State) (r : Nat) (f : Run → Run) : State :=
  s.modDisp (fun d => { d with runs := d.runs.map (fun x => if x.uid == r then f x else x) })

/-- A fresh order number. -/
def State.fresh (s : State) : Nat × State := (s.nextId, { s with nextId := s.nextId + 1 })

/-- The next free value's number (notes/assumptions). -/
def State.draw (s : State) : Nat × State := (s.free, { s with free := s.free + 1 })

/-- `tstamp`: 1 GHz ticks since `bstat.phase` left 0, at 3.3 cycles a tick (R7, R68). -/
def State.tstamp (s : State) : Nat :=
  match s.tsZero with
  | none => 0
  | some z => (s.cycle - z) * 10 / 33

/-! ## Partitions (R193, R165) -/

def State.part? (s : State) (t : Nat) : Option Part := s.disp.parts.find? (fun p => p.tenant == t)
def Part.word (p : Part) (n : Nat) : Word := p.words.getD n 0
def Part.sqc (p : Part) : Nat := bits (p.word 0) 4 0
def Part.sqr (p : Part) : Nat := bits (p.word 0) 9 5
def Part.w (p : Part) : Nat := bits (p.word 0) 14 10 + 1
def Part.h (p : Part) : Nat := bits (p.word 0) 19 15 + 1
def Part.hasSquare (p : Part) (q : Nat) : Bool :=
  decide (p.sqc ≤ q % 24) && decide (q % 24 < p.sqc + p.w) && decide (p.sqr ≤ q / 24) && decide (q / 24 < p.sqr + p.h)
def Part.has (p : Part) (c : Nat) : Bool := isArray c && p.hasSquare (squareOf c)
def Part.squares (p : Part) : List Nat := (List.range 768).filter p.hasSquare
def Part.cores (p : Part) : List Nat :=
  (List.range (4 * p.h)).flatMap (fun r => (List.range (4 * p.w)).map (fun c => coreAt (4 * p.sqc + c) (4 * p.sqr + r)))

/-- A kerb core holds a context of the tenant (R165). -/
def State.kerbHolds (s : State) (c t : Nat) : Bool :=
  (s.core c).ctxs.any (fun (_, x) => x.state != .free && x.tenant == t)

/-- Cores of a gang (R154, R327). -/
def Gang.cores (g : Gang) : List Nat :=
  (List.range g.h).flatMap (fun r => (List.range g.w).map (fun c => g.origin + 96 * r + (if g.lock then 2 * c else c)))

/-- The tenant an array core belongs to (R193): its partition in force, or else the supervisor gang placed there (R342). -/
def State.coreTenant (s : State) (c : Nat) : Option Nat :=
  match s.disp.parts.find? (fun p => p.has c) with
  | some p => some p.tenant
  | none => (s.disp.gangs.find? (fun g => g.sup && g.cores.contains c)).map (fun g => g.tenant)

/-- Core c counts as inside the partition of tenant t (R60, R165, R166). -/
def State.inPart (s : State) (t c : Nat) : Bool :=
  if isArray c then (match s.part? t with | some p => p.has c | none => false)
  else isKerb c && s.kerbHolds c t

/-- A tenant whose partition a switch has stopped or saved (R324). -/
def stopped (s : State) (t : Nat) : Bool :=
  s.disp.switches.any (fun w => w.tenant == t && decide (1 ≤ w.phase)) || s.disp.saved.any (fun v => v.tenant == t)

/-- No core issues for the tenant: its partition is out, or a switch out has come to its tick (R324). -/
def halted (s : State) (t : Nat) : Bool :=
  stopped s t || s.disp.switches.any (fun w => w.tenant == t && w.out && decide (w.t ≤ s.tstamp))

/-- Records of the tenant do not land: on no core once its partition has stopped, on kerb cores from the acceptance of a switch out
(R323, R324). -/
def landClosed (s : State) (c t : Nat) : Bool :=
  stopped s t || (isKerb c && s.disp.switches.any (fun w => w.tenant == t && w.out))

/-! ## Generations (R70 to R78) -/

def Core.liveGens (k : Core) : List Nat :=
  (k.ctxs.filter (fun (_, x) => x.state != .free)).map (fun (_, x) => x.gen.toNat) ++ k.regions.map (fun r => r.gen.toNat)

/-- The core that holds byte off of core c's local store: of a twin, its own core where a region of a gang of its own holds the byte. -/
def State.leadAt (s : State) (c off : Nat) : Nat :=
  if (s.core c).regions.any (fun r => decide (r.off ≤ off) && decide (off < r.off + r.len)) then c else s.lead c

/-- The core that holds slot i of core c: of a twin, its own core where a context of a gang of its own has the slot. -/
def State.leadSlot (s : State) (c i : Nat) : Nat := if (s.ctx c i).state = .free then s.lead c else c

/-- Live allocations (R77). -/
def Core.liveCount (k : Core) : Nat :=
  (k.ctxs.filter (fun (_, x) => x.state != .free)).length + k.regions.length

/-- The smallest value from n that no live allocation holds; at most as many steps as there are live allocations. -/
def nextFreeGen (live : List Nat) (n : Nat) : Nat → Nat
  | 0 => n
  | f + 1 => if live.contains n then nextFreeGen live (n + 1) f else n

/-- The next generation (R70), or none when it would pass 65,535 and the core must fold (R78). -/
def Core.nextGen (k : Core) : Option Nat :=
  let g := nextFreeGen k.liveGens (k.genFrom + 1) (k.liveGens.length + 1)
  if g ≤ 65535 then some g else none

/-- The core has no n generations left: a fold comes first. -/
def Core.lacksGens (k : Core) : Nat → Bool
  | 0 => false
  | n + 1 => match k.nextGen with
    | none => true
    | some g => Core.lacksGens { k with genFrom := g } n

def Core.regionAt (k : Core) (off : Nat) : Option Region :=
  k.regions.find? (fun r => decide (r.off ≤ off) && decide (off < r.off + r.len))

/-- The governing generation of a granule for a context of generation `own`, and whether it is a trap-mode region's (R73). -/
def Core.gov (k : Core) (own : BitVec 16) (off : Nat) : BitVec 16 × Bool :=
  match k.regionAt off with
  | some r => (r.gen, r.trap)
  | none => (own, false)

def Core.stamp (k : Core) (off : Nat) : BitVec 16 := SMap.get k.lsGen (off / 32) 0
def Core.genOk (k : Core) (own : BitVec 16) (off : Nat) : Bool := k.stamp off == (k.gov own off).1
def Core.full (k : Core) (off : Nat) : Bool := SMap.get k.fe (off / 8) false

/-- n ≤ 32 bytes of one granule under generation g: 0 when stale (R74). -/
def Core.lsRead (k : Core) (g : BitVec 16) (off n : Nat) : Nat :=
  if k.stamp off == g then Memory.read k.ls off n else 0

/-- R76 step 1: every byte 0 and every word empty. -/
def Core.zeroGranule (k : Core) (q : Nat) : Core :=
  { k with
    ls := Memory.write k.ls (32 * q) 0 32
    fe := SMap.put (SMap.put (SMap.put (SMap.put k.fe false (4 * q) false) false (4 * q + 1) false) false (4 * q + 2) false)
      false (4 * q + 3) false }

/-- A write of n bytes inside one granule under generation g: zero-fill when stale, the bytes, the stamp (R76). -/
def Core.lsWrite (k : Core) (g : BitVec 16) (off n v : Nat) : Core :=
  let k1 := if k.stamp off == g then k else k.zeroGranule (off / 32)
  { k1 with ls := Memory.write k1.ls off v n, lsGen := SMap.put k1.lsGen 0 (off / 32) g }

/-- The same, setting the word's full/empty state after the write (R238). -/
def Core.lsWriteFe (k : Core) (g : BitVec 16) (off v : Nat) (full : Bool) : Core :=
  let k1 := k.lsWrite g off 8 v
  { k1 with fe := SMap.put k1.fe false (off / 8) full }

/-- The state of a word alone (`ldfe`, `sete`): the granule is zero-filled when stale, and stamped. -/
def Core.setFe (k : Core) (g : BitVec 16) (off : Nat) (full : Bool) : Core :=
  let k1 := if k.stamp off == g then k else k.zeroGranule (off / 32)
  { k1 with fe := SMap.put k1.fe false (off / 8) full, lsGen := SMap.put k1.lsGen 0 (off / 32) g }

/-- A word is seen full only when its granule is current (R74). -/
def Core.seenFull (k : Core) (g : BitVec 16) (off : Nat) : Bool := k.stamp off == g && k.full off

/-! ## Register file (R48 to R53, R72, R74) -/

def Core.reg (k : Core) (i : Nat) : RegEntry := SMap.get k.regs i RegEntry.reset

/-- A general register as its context reads it: stale entries and x0 read 0, 127, 0 (R50, R74). -/
def Core.readReg (k : Core) (x : Ctx) (f : Nat) : TVal :=
  let e := k.reg (x.wbase + f)
  if f = 0 ∨ e.gen ≠ x.gen then { val := 0, cnt := 127, inx := false } else { val := e.val, cnt := e.cnt, inx := e.inx }

/-- A write stamps the entry with the context's generation; x0 ignores writes (R50, R72). A lockstep pair logs the entry it
overwrites (R328). -/
def Core.writeReg (k : Core) (x : Ctx) (f : Nat) (v : TVal) : Core :=
  if f = 0 then k
  else
    let n := x.wbase + f
    { k with
      regs := SMap.put k.regs RegEntry.reset n { val := v.val, cnt := v.cnt, inx := v.inx, gen := x.gen }
      lock := k.lock.map (fun p => { p with log := p.log ++ [(n, k.reg n)] }) }

/-- An integer result: count 127 and I 0 (R348). -/
def TVal.int (w : Word) : TVal := { val := w, cnt := 127, inx := false }

/-! ## Event counters (R321) -/

def Core.bump (k : Core) (n : Nat) : Core :=
  let c := SMap.get k.events n (0 : BitVec 32)
  { k with events := SMap.put k.events 0 n (if c == 0xFFFFFFFF then c else c + 1) }
def State.bump (s : State) (c n : Nat) : State := s.modCore c (fun k => k.bump n)

/-! ## Rotation and wait lists (R182, R185) -/

def Core.leaveRot (k : Core) (i : Nat) : Core := { k with rot := k.rot.filter (fun j => j != i) }
def Core.joinRot (k : Core) (i : Nat) : Core := { k with rot := k.rot.filter (fun j => j != i) ++ [i] }

/-- Ascending order without repeats. -/
def insertNat (n : Nat) : List Nat → List Nat
  | [] => [n]
  | m :: t => if n < m then n :: m :: t else if n = m then m :: t else m :: insertNat n t

/-- The rotation at the end of a move in a cycle: those that have joined in this cycle in slot order, and behind them the context that
issued in it (R182). `old` is the rotation before the move. -/
def Core.orderRot (k : Core) (cycle : Nat) (old : List Nat) (issuer : Option Nat) : Core :=
  let issued := match issuer with | some i => some (cycle, i) | none => k.issued
  let last := match issued with | some (t, i) => if t = cycle then some i else none | none => none
  let before := if k.joined.1 = cycle then k.joined.2 else []
  let joined := (k.rot.foldl (fun l i => if old.contains i then l else insertNat i l) before).filter (fun i => last != some i && k.rot.contains i)
  let rest := k.rot.filter (fun i => !joined.contains i && last != some i)
  { k with rot := rest ++ joined ++ (k.rot.filter (fun i => last == some i)), joined := (cycle, joined), issued := issued }

/-- A context becomes ready and joins the tail. -/
def State.ready (s : State) (c i : Nat) : State :=
  (s.modCtx c i (fun x => { x with state := .ready, wait := none, bwait := none, taken := {} })).modCore c (fun k => k.joinRot i)

/-- A woken context rejoins the rotation; on list 2 it keeps its claim to the word until it issues (R185). -/
def State.wake (s : State) (c i : Nat) : State :=
  let x := s.ctx c i
  match x.wait with
  | some w => if w.list = 2 then (s.modCtx c i (fun y => { y with state := .ready })).modCore c (fun k => k.joinRot i)
    else s.ready c i
  | none => s.ready c i

def State.parkOn (s : State) (c i : Nat) (w : Wait) : State :=
  let (n, s) := s.fresh
  (s.modCtx c i (fun x => { x with state := .parked, wait := some { w with seq := n } })).modCore c (fun k => k.leaveRot i)

/-- A body word that cannot proceed parks its context: the main stream stops with it, and a wait of its own stays (R261). -/
def State.parkBody (s : State) (c i : Nat) (w : Wait) : State :=
  let (n, s) := s.fresh
  (s.modCtx c i (fun x => { x with state := .parked, bwait := some { w with seq := n } })).modCore c (fun k => k.leaveRot i)

/-- The body word's wait is over: the main stream goes on with it, or stays at its own wait. -/
def State.wakeBody (s : State) (c i : Nat) : State :=
  match (s.ctx c i).wait with
  | some _ => s.modCtx c i (fun x => { x with bwait := none })
  | none => s.ready c i

/-- A parked context of whose waits one satisfies p. -/
def Ctx.parkedOn (x : Ctx) (p : WaitCond → Bool) : Bool :=
  x.state == .parked && ((match x.wait with | some w => p w.cond | none => false) || (match x.bwait with | some w => p w.cond | none => false))

/-- The wait of the main stream is over; a body word may still hold the context (R261). -/
def State.endWait (s : State) (c i : Nat) : State :=
  match (s.ctx c i).bwait with
  | some _ => s.modCtx c i (fun x => { x with wait := none, taken := {} })
  | none => s.ready c i

/-- The waits that satisfy p are over. -/
def State.wakeFor (s : State) (c i : Nat) (p : WaitCond → Bool) : State :=
  match (s.ctx c i).bwait with
  | some w =>
    if p w.cond then
      (let s1 := s.wakeBody c i
      if (s.ctx c i).wait.any (fun v => p v.cond) then s1.ready c i else s1)
    else s.endWait c i
  | none => s.ready c i

/-- The context holds a body whose replays go on: one that a trap stopped makes no later instruction wait (DEDUCED, log 23). -/
def Ctx.replaying (x : Ctx) : Bool := match x.body with | some b => !b.stopped | none => false

/-! ## `status` (R310) -/

def Ctx.level (x : Ctx) : Nat := bits x.status 1 0
def Ctx.ppriv (x : Ctx) : Nat := bits x.status 3 2
def Ctx.uin (x : Ctx) : Bool := x.status.getLsbD 4
def Ctx.sin (x : Ctx) : Bool := x.status.getLsbD 5
def Ctx.urep (x : Ctx) : Bool := x.status.getLsbD 6
def Ctx.srep (x : Ctx) : Bool := x.status.getLsbD 7
/-- The delegation bit of a cause, if the cause is delegable (R310, R314). -/
def delegBit? : Nat → Option Nat
  | 0x04 => some 8 | 0x0B => some 9 | 0x0C => some 10 | 0x0D => some 11 | 0x0E => some 12 | 0x16 => some 13 | _ => none
def Ctx.delegated (x : Ctx) (cause : Nat) : Bool :=
  match delegBit? cause with
  | some b => x.status.getLsbD b
  | none => false

/-! ## Phase barriers (R191, R192, R358, R359) -/

def Gang.bar (g : Gang) (n : Nat) : Barrier := SMap.get g.bars n { done := 0, s0 := 0, s1 := 0 }
def Gang.setBar (g : Gang) (n : Nat) (b : Barrier) : Gang := { g with bars := SMap.put g.bars { done := 0, s0 := 0, s1 := 0 } n b }
def Barrier.slot (b : Barrier) (q : BitVec 32) : BitVec 32 := if q.getLsbD 0 then b.s1 else b.s0
def Barrier.setSlot (b : Barrier) (q v : BitVec 32) : Barrier := if q.getLsbD 0 then { b with s1 := v } else { b with s0 := v }
/-- a < b by the sign of the difference modulo 2^32 (R358). -/
def before (a b : BitVec 32) : Bool := (a - b).getLsbD 31
def minCnt (a b : BitVec 32) : BitVec 32 := if before a b then a else b

/-- A live member of its gang's barriers: not in landing role and not ended (R191, R192). -/
def Ctx.member (x : Ctx) (g : Nat) : Bool :=
  x.gang == some g && !x.landing && x.state != .free && x.state != .draining
def State.members (s : State) (g : Nat) : List (Nat × Nat × Ctx) := s.allCtxs.filter (fun (_, _, x) => x.member g)

/-- The members parked in `bar` observe what is complete (R191). -/
def observeParked (s : State) (n : Nat) (done : BitVec 32) : List (Nat × Nat × Ctx) → State
  | [] => s
  | (c, i, x) :: t =>
    let s' := if x.parkedOn (fun w => w == .bar n) then
        s.modCtx c i (fun y => { y with obs := SMap.put y.obs 0 n (minCnt done (SMap.get y.arr n 0)) }) else s
    observeParked s' n done t

/-- The completion loop of R191: a phase completes while its slot holds as many arrivals as there are members. Each of the
two slots completes at most once, so two rounds suffice. -/
def completeBar (g n : Nat) : Nat → State → State
  | 0, s => s
  | f + 1, s =>
    match s.gang? g with
    | none => s
    | some x =>
      let b := x.bar n
      let m := (s.members g).length
      if m = 0 ∨ (b.slot b.done).toNat < m then s
      else
        let b' : Barrier := { b.setSlot b.done 0 with done := b.done + 1 }
        let s1 := s.modGang g (fun y => y.setBar n b')
        completeBar g n f (observeParked s1 n b'.done (s1.members g))

/-- The completion test of every barrier of the gang, after a member has left it (R192). -/
def recheckBars (s : State) (g : Nat) : State := (List.range 8).foldl (fun s n => completeBar g n 2 s) s

/-! ## Elections (R411 to R413) -/

/-- The live members of an election domain: neither free, draining nor idle landing, on cores of one square, in core order. -/
def State.domain (s : State) (sq g rank : Nat) : List (Nat × Nat) :=
  (s.allCtxs.filter (fun (c, _, x) => isArray c && squareOf c == sq && x.gang == some g && x.rank == rank &&
    x.state != .draining && x.state != .idleLanding)).map (fun (c, i, _) => (c, i))

def Ctx.pendingOne (x : Ctx) (k : BitVec 32) : Bool := x.loads.any (fun l => match l.kind with | .one j _ => j == k | _ => false)

/-- A round passes to the live member on the next lowest core; with none left it closes (R413). -/
def passRound (live : List (Nat × Nat)) (el : Election) : Option Election :=
  (live.find? (fun (d, _) => decide (el.elected < d))).map (fun (d, _) => { el with elected := d, mark := none })

/-- Every member has received the round: none has still to issue its pair or to be given the result. -/
def roundDone (s : State) (sq : Nat) (el : Election) : Bool :=
  el.result.isSome && (s.domain sq el.gang el.rank).all (fun (d, j) =>
    let y := s.ctx d j
    !before y.elect el.k && !y.pendingOne el.k)

def closeRounds (s : State) (sq : Nat) : State :=
  if (s.square sq).elections.isEmpty then s
  else s.modSquare sq (fun y => { y with elections := y.elections.filter (fun el => !roundDone s sq el) })

/-- A member that ends leaves its domain: rounds it was elected for pass on, and it receives nothing (R413). -/
def leaveElections (s : State) (c i : Nat) : State :=
  let x := s.ctx c i
  match x.gang with
  | none => s
  | some g =>
    let q := serveSquare c
    let live := (s.domain q g x.rank).filter (fun (d, j) => !(d == c && j == i))
    s.modSquare q (fun y => { y with
      elections := y.elections.filterMap (fun el =>
        if el.gang == g && el.rank == x.rank && el.elected == c && el.result.isNone then passRound live el else some el) })

/-! ## Ending a context (R148, R151, R169, R192, R303, R318) -/

def Core.dropJrec (k : Core) (uid : Nat) : Core :=
  match k.jrec with
  | some r => if r.uid == uid && !r.raised then { k with jrec := none } else k
  | none => k

/-- Scoreboard entries of the commands removed from a queue are freed with them. -/
def Core.dropBoards (k : Core) (ids : List Nat) : Core := { k with board := k.board.filter (fun b => !ids.contains b.cmd) }

/-- The engine commands of a killed context that have not started are discarded (R151), and its counters fall with them. -/
def dropUnstarted (s : State) (c i : Nat) : State :=
  let x := s.ctx c i
  let dead := (x.copyQ.filter (fun q => !q.started)).map (fun q => q.id)
  let dm := (x.matQ.filter (fun q => !q.started)).length
  let sq := serveSquare c
  let mine := fun (r : RopeCmd) => r.core == c && r.uid == x.uid && !r.started
  let dq := ((s.square sq).ropeQ.filter mine).length
  let s := s.modSquare sq (fun y => { y with ropeQ := y.ropeQ.filter (fun r => !mine r) })
  (s.modCtx c i (fun y => { y with
    copyQ := y.copyQ.filter (fun q => q.started), matQ := y.matQ.filter (fun q => q.started),
    nC := y.nC - dead.length, nM := y.nM - dm, nQ := y.nQ - dq })).modCore c (fun k => k.dropBoards dead)

/-- Outcome of an inline run whose issuer is killed: 4 (R202). Its completion word is tried at once, as an act of the same cycle (R7). -/
def endInline (s : State) (x : Ctx) : State :=
  x.inl.foldl (fun s n => { s.modRun n.run (fun r => { r with outcome := some 4, ended := r.ended + 1, pools := [] }) with
    due := s.due ++ [.doneWordRetry n.run] }) s

/-- The stores that the request's result will bring: its own append to a stream (R264), and those of a `qblk` (R419). -/
def LoadReq.stores (l : LoadReq) : List Append :=
  (match l.app with | some (some a) => [a] | _ => []) ++ (match l.kind with | .qblk b => b.outs | _ => [])

/-- The number of stores that these requests will bring. -/
def storesOf (l : List LoadReq) : Nat := (l.map (fun m => m.stores.length)).sum

/-- The context stops issuing, leaves every wait list and its gang's barriers and elections, and drains. -/
def endCtx (kind : EndKind) (s : State) (c i : Nat) : State :=
  let x := s.ctx c i
  if x.state = .free ∨ x.state = .draining then s
  else
    let s := leaveElections s c i
    let s := if kind = .exited then s else endInline (dropUnstarted s c i) x
    -- a record that the context has taken and not yet handed on is not lost (R162)
    let s : State := match x.ship with
      | some (d, ws) => if !x.landing && ws.length == 9 then { s with ships := s.ships ++
          [({ words := ws.take 8, dest := d, src := 0, tenant := x.tenant, sender := c, front := SMap.get s.ord.fronts x.uid {} } : Shipment)] } else s
      | none => s
    let s := (s.modCtx c i (fun y => { y with
        state := .draining, wait := none, body := none, mtrap := none, bwait := none, taken := {}, packet := none, fill := [], results := [], ship := none,
        held := [], recC := false, recQ := false, inl := [], ended := some kind,
        loads := y.loads.filter (fun l => match l.kind with | .one _ _ => false | .amo _ _ _ => false | .cas _ _ _ => false | .smpw _ _ _ _ => false | _ => true),
        nQ := y.nQ - (y.loads.filter (fun l => match l.kind with | .smpw _ _ _ _ => true | _ => false)).length,
        nL := y.nL - (y.loads.filter (fun l => match l.kind with | .amo _ _ _ => true | .cas _ _ _ => true | _ => false)).length
        nS := y.nS - storesOf (y.loads.filter (fun l => match l.kind with
          | .one _ _ => true | .amo _ _ _ => true | .cas _ _ _ => true | _ => false)) }))
    let s := s.modCore c (fun k => { (k.leaveRot i).dropJrec x.uid with rounds := k.rounds.filter (fun r => r.uid != x.uid) })
    match x.gang with
    | none => s
    | some g =>
      let s := s.modGang g (fun y => { y with
        lastEnd := if x.landing then y.lastEnd else some kind
        lastChain := if x.chain then some kind else y.lastChain })
      recheckBars s g

/-! ## Taking a trap and returning from one (R311 to R313, R317) -/

/-- Handler entry at a level, as one step (R312). -/
def enter (x : Ctx) (sup : Bool) (pc : Word) (replay : Option Nat) (t : TrapInfo) : Ctx :=
  let aux := match replay with
    | some r => setBits t.aux 31 16 r
    | none => t.aux
  let rec_ : TrapRegs → TrapRegs := fun r => { r with cause := w64 t.cause, pc := if t.done then pc + 4 else pc, addr := t.addr, aux := aux }
  let st := if sup then setBits (setBits (setBits x.status 3 2 x.level) 1 0 1) 5 5 1 else setBits (setBits x.status 1 0 0) 4 4 1
  let st := match replay with
    | some _ => if sup then setBits st 7 7 1 else setBits st 6 6 1
    | none => st
  { x with
    ut := if sup then x.ut else rec_ x.ut
    st := if sup then rec_ x.st else x.st
    status := st
    in14 := x.in14 || (sup && t.cause == 0x14)
    wait := none
    bwait := none
    packet := none
    xfault := none
    body := match replay with
      | some _ => x.body.map (fun b => { b with stopped := true, main := x.pc })
      | none => x.body
    pc := if sup then x.st.vec else x.ut.vec }

/-- The target level of a cause (R311): none is a double trap. -/
def trapTarget (x : Ctx) (t : TrapInfo) : Option Bool :=
  let user := x.level == 0 && x.delegated t.cause && !x.uin && x.ut.vec != 0
  if user then some false
  else if !x.sin && x.st.vec != 0 then some true
  else none

/-- A failure record is raised once (R318): a trap of cause 0x11, 0x12 or 0x13 marks it. -/
def markRaised (c i cause : Nat) (s : State) : State :=
  if cause = 0x11 then s.modCtx c i (fun x => { x with recC := false })
  else if cause = 0x12 then s.modCtx c i (fun x => { x with recQ := false })
  else if cause = 0x13 then s.modCore c (fun k => { k with jrec := k.jrec.map (fun r => { r with raised := true }) })
  else s

/-- A trap of context i of core c at `pc`: handler entry, or for a double trap the end of the context as by a supervisor
`ctxkill` with event counter 3. A carry fault counts in event counter 13. -/
def takeTrap (c i : Nat) (pc : Word) (replay : Option Nat) (t : TrapInfo) (s : State) : State :=
  let s := if t.missed then s.bump c 0 else s
  let s := markRaised c i t.cause (if t.cause = 0x0C then s.bump c 13 else s)
  let x := s.ctx c i
  match trapTarget x t with
  | some sup => s.modCtx c i (fun x => enter x sup pc replay t)
  | none => endCtx .terminated (s.bump c 3) c i

/-! ## The frame of an instruction -/

/-- Why an instruction does not complete in this issue slot. -/
inductive Stop where
  /-- a trap: nothing of the instruction stays (R14) -/
  | trap (t : TrapInfo)
  /-- the context parks; `keep` makes, from the state before the instruction, the state that the park leaves -/
  | park (w : Wait) (keep : State → State)
  /-- the context keeps its place and issues the instruction again (R236) -/
  | stall

/-- Who executes: core, slot, the address of the word, the address a trap reports (a `one.` prefix, R99), the replay of a
body word (R317), and the word. -/
structure Env where
  core : Nat
  slot : Nat
  pc : Word
  tpc : Word
  replay : Option Nat
  word : IWord
  /-- the instruction is the elected one of a `one.` pair (R412) -/
  elect : Bool := false
  /-- the element that the destination was promised when the pair was issued (R413): none inside where its generator was at the end -/
  dest : Option (Option Append) := none
  /-- the context before the instruction: what a late fault gives back (R14) -/
  was : Ctx := Ctx.reset

/-- A meaning: a function of who executes and the state, that ends in a value and a state, or stops. -/
abbrev M := ReaderT Env (StateT State (Except Stop))

def M.stop (e : Stop) : M α := fun _ _ => .error e
def M.env : M Env := fun e s => .ok (e, s)
def M.state : M State := fun _ s => .ok (s, s)
def M.modify (f : State → State) : M Unit := fun _ s => .ok ((), f s)
def M.trap (cause : Nat) (addr aux : Word) : M α := M.stop (.trap { cause := cause, addr := addr, aux := aux })
/-- 0x01 with a reason of R105 other than 0. -/
def M.illegal (reason : Nat) : M α := fun e _ => .error (.trap { cause := 0x01, aux := w64 (reason * 2 ^ 32 + e.word.toNat) })
def M.park (list : Nat) (object : Nat) (cond : WaitCond) : M α :=
  M.stop (.park { list := list, object := BitVec.ofNat 48 object, cond := cond } id)
/-- What an instruction has taken from its sources between two states of its context: port words and generator registers. -/
def takenOf (old x : Ctx) : Taken :=
  { pops := (List.range 8).filterMap (fun n =>
      let l := SMap.get old.rxq n []
      match l.take (l.length - (SMap.get x.rxq n []).length) with
      | [] => none
      | ws => some (n, ws))
    gens := ((List.range 32).map (fun n => 256 + n)).filterMap (fun n =>
      let v := SMap.get old.ereg n 0
      if SMap.get x.ereg n 0 = v then none else some (n, v)) }

/-- The sources as they stood before the instruction. -/
def Ctx.giveBack (x : Ctx) (t : Taken) : Ctx :=
  { x with
    rxq := t.pops.foldl (fun m (n, ws) => SMap.put m [] n (ws ++ SMap.get m n [])) x.rxq
    ereg := t.gens.foldl (fun m (n, v) => SMap.put m 0 n v) x.ereg }

/-- Port words that queue n may get back. -/
def Ctx.lent (x : Ctx) (n : Nat) : Nat :=
  ((x.taken :: x.loads.map (fun l => l.taken)).map (fun t => (t.pops.map (fun p => if p.1 = n then p.2.length else 0)).sum)).sum

/-- What the instruction took is noted with the request that it waits for, or with the context. -/
def Ctx.noteTaken (x old : Ctx) : Ctx :=
  let t := takenOf old x
  if x.loads.all (fun l => decide (l.seq < old.seq)) then { x with taken := t }
  else { x with loads := x.loads.map (fun l => if old.seq ≤ l.seq then { l with taken := t } else l) }

/-- A park after which the instruction is not executed again: `s` stays, but for the PC. -/
def M.parkKeep (list : Nat) (object : Nat) (cond : WaitCond) : M α := fun e s =>
  .error (.park { list := list, object := BitVec.ofNat 48 object, cond := cond }
    (fun s0 => if e.replay.isNone then s.modCtx e.core e.slot (fun x => { x.noteTaken (s0.ctx e.core e.slot) with pc := e.tpc }) else s))
def M.me : M Ctx := fun e s => .ok (s.ctx e.core e.slot, s)
def M.myCore : M Core := fun e s => .ok (s.core e.core, s)
def M.modMe (f : Ctx → Ctx) : M Unit := fun e s => .ok ((), s.modCtx e.core e.slot f)
def M.modMyCore (f : Core → Core) : M Unit := fun e s => .ok ((), s.modCore e.core f)
/-- The number of a fresh free value. -/
def M.draw : M Nat := fun _ s => .ok s.draw

/-- Which checks of R105 after decoding an instruction meets: pin, level, the fields checked against the window in order, and
the destination field. -/
structure Form where
  pin : Option Pin := none
  sup : Bool := false
  src : List RegF := []
  dst : Option RegF := none

/-- A field that the context's mode reads as something other than a general register (R53). -/
def Ctx.exempt (x : Ctx) (f : Nat) : Bool :=
  (x.port && decide (104 ≤ f) && decide (f ≤ 111)) || (x.chain && decide (112 ≤ f))

/-- Step 8 of R105: the first field at or above wcount. -/
def Ctx.badField (x : Ctx) : List RegF → Option RegF
  | [] => none
  | f :: t => if decide (x.wcount ≤ f.toNat) && !x.exempt f.toNat then some f else x.badField t

/-- R57: the pin, with its one exception for landing role, and no matrix command on a kerb core (R18). -/
def pinOk (c : Nat) (x : Ctx) : Option Pin → Bool
  | none => true
  | some p => if p = .mat ∧ isArray c = false then false else x.landing || x.pin == p

/-- Steps 6 to 9 of R105 in order. -/
def precheck (c : Nat) (x : Ctx) (fm : Form) (word : IWord) : Option TrapInfo :=
  if fm.sup && x.level == 0 then some { cause := 0x02, aux := w64 word.toNat }
  else if !pinOk c x fm.pin then some { cause := 0x03, aux := w64 word.toNat }
  else match x.badField (fm.src ++ fm.dst.toList) with
    | some f => some { cause := 0x01, aux := w64 f.toNat }
    | none =>
      match fm.dst with
      | some f => if x.chain && decide (112 ≤ f.toNat) then some { cause := 0x01, aux := w64 (5 * 2 ^ 32 + word.toNat) } else none
      | none => none

/-- After its issue slot a ready context moves to the tail (R182); one that has left stays out. -/
def rotate (c i : Nat) (s : State) : State :=
  if (s.ctx c i).state = .ready then s.modCore c (fun k => k.joinRot i) else s.modCore c (fun k => k.leaveRot i)

/-- A context whose body still replays holds a trap of its main stream until the replays complete (R317). -/
def raise (e : Env) (t : TrapInfo) (s : State) : State :=
  if (s.ctx e.core e.slot).replaying then s.modCtx e.core e.slot (fun x => { x with mtrap := some (e.tpc, t) })
  else takeTrap e.core e.slot e.tpc none t s

/-- The fault that a walk found is of no more use once the instruction has completed. -/
def clearFault (c i : Nat) (s : State) : State :=
  if (s.ctx c i).xfault.isSome then s.modCtx c i (fun x => { x with xfault := none }) else s

/-- How an issue slot ends. -/
def finish (e : Env) (s : State) : Except Stop (Unit × State) → Host.Outcome State Fault Refusal
  | .ok (_, s') => .next (rotate e.core e.slot (clearFault e.core e.slot s'))
  | .error (.trap t) => .next (rotate e.core e.slot (raise e t s))
  | .error (.park w keep) => .next ((keep s).parkOn e.core e.slot w)
  | .error .stall => .next (rotate e.core e.slot s)

/-- The state in which the body runs: the PC at the next word, the wait of an earlier park cleared. -/
def advance (c i : Nat) (n : Nat) (s : State) : State :=
  s.modCtx c i (fun x => { x with pc := x.pc + w64 n, wait := none })

def envOf (s : State) (word : IWord) : Env :=
  let x := s.ctx s.cur.1 s.cur.2
  { core := s.cur.1, slot := s.cur.2, pc := x.pc, tpc := x.pc, replay := none, word := word, was := x }

/-- One instruction in the issue slot of context `s.cur`: the checks of R105, then its body. -/
def issue (fm : Form) (word : IWord) (body : M Unit) (s : State) : Host.Outcome State Fault Refusal :=
  let e := envOf s word
  match precheck e.core (s.ctx e.core e.slot) fm word with
  | some t => .next (rotate e.core e.slot (raise e t s))
  | none => finish e s (body e (advance e.core e.slot 4 s))

end Sys2Proof.Machine
end

