-- ==== Sys2Proof/Machine/Order.lean ====
section
/-! DEFINITION. Memory ordering: locations, write sets, frontiers, Reads, Commits and Merges (R225, R227 to R232, R234 to R237). -/

namespace Sys2Proof.Machine

/-! ## One location: its bytes as memory holds them (R225, R74, R76) -/

/-- n ≤ 8 bytes at a place, local store under the accessor's own generation `own` where no region governs: the newest committed
write. A peer's bytes are free values, others at another moment (DESIGN CHOICE, log 6). -/
def State.readAt (s : State) (pl : Place) (n : Nat) (own : BitVec 16) : Nat :=
  match pl with
  | .ls c off => let k := s.core c; k.lsRead (k.gov own off).1 off n
  | .hbm m => Memory.read s.hbm m n
  | .host a => Memory.read s.hostMem a n
  | .peer k a => (Config.peerWord s.free k a).toNat % 256 ^ n

/-- n ≤ 8 bytes written at a place. A write to a peer leaves the device; one to a page whose key is destroyed is lost (R338). -/
def State.writeAt (s : State) (pl : Place) (n v : Nat) (own : BitVec 16) : State :=
  match pl with
  | .ls c off => s.modCore c (fun k => k.lsWrite (k.gov own off).1 off n v)
  | .hbm m => if s.host.dead.contains (m / 65536) then s else { s with hbm := Memory.write s.hbm m v n }
  | .host a => { s with hostMem := Memory.write s.hostMem a v n }
  | .peer _ _ => s

def Place.plus (pl : Place) (n : Nat) : Place :=
  match pl with
  | .ls c off => .ls c (off + n)
  | .hbm m => .hbm (m + n)
  | .host a => .host (a + n)
  | .peer k a => .peer k (a + n)

/-- The aligned 8-byte word of a byte, as a number: the reads of its bytes look back alike (R226). -/
def Place.wordKey : Place → Nat
  | .ls c off => 4 * (c * 2 ^ 20 + off / 8)
  | .hbm m => 4 * (m / 8) + 1
  | .host a => 4 * (a / 8) + 2
  | .peer k a => 4 * (16 * (a / 8) + k) + 3

/-- Two byte runs meet. -/
def Place.overlaps (p : Place) (n : Nat) (q : Place) (m : Nat) : Bool :=
  match p, q with
  | .ls c a, .ls d b => c == d && decide (a < b + m) && decide (b < a + n)
  | .hbm a, .hbm b => decide (a < b + m) && decide (b < a + n)
  | .host a, .host b => decide (a < b + m) && decide (b < a + n)
  | .peer j a, .peer k b => j == k && decide (a < b + m) && decide (b < a + n)
  | _, _ => false

/-! ## Sets of writers (R234) -/

def Parties.has (p : Parties) (w : Writer) : Bool :=
  match p, w with
  | .ctx u, .ctx v _ _ q _ => u == v && q == 0
  | .cores l, .ctx _ c _ _ _ => l.contains c
  | .part x y w h, .ctx _ c _ _ _ =>
    isArray c && decide (x ≤ squareOf c % 24) && decide (squareOf c % 24 < x + w) && decide (y ≤ squareOf c / 24) && decide (squareOf c / 24 < y + h)
  | .device, .ctx _ _ _ _ _ => true
  | .device, .disp => true
  | .system, _ => true
  | .queue u q, .ctx v _ _ r _ => u == v && q == r
  | .port a, .port b => a == b
  | _, _ => false

/-- The cores of a core's square; a kerb core lies in none. -/
def squareCores (c : Nat) : List Nat := if isArray c then (List.range 16).map (squareCore (squareOf c)) else [c]

/-- The parties of a scope for a context of a core and a tenant. Where no partition of the tenant is in force, partition scope is the
issuing core alone (DESIGN CHOICE, log 4). -/
def scopeSet (s : State) (sc : Scope) (x : Ctx) (core : Nat) : Parties :=
  match sc with
  | .ctx => .ctx x.uid
  | .core => .cores [core]
  | .sq => .cores (squareCores core)
  | .part => match s.part? x.tenant with
    | some p => .part p.sqc p.sqr p.w p.h
    | none => .cores [core]
  | .dev => .device
  | .sys => .system

/-- The scope of an atomic's suffix (R91). -/
def atomSet (sc : AScope) (core : Nat) : Parties :=
  match sc with
  | .sq => .cores (squareCores core)
  | .dev => .device

/-- The writes of one context, its commands' among them, are ordered at each location (R229), and those of one requester at the host
port (R337); so are those of the dispatcher and of the links, each taken as one writer (DEDUCED, log 4). -/
def Writer.same (a b : Writer) : Bool :=
  match a, b with
  | .ctx u _ _ _ _, .ctx v _ _ _ _ => u == v
  | .disp, .disp => true
  | .port a, .port b => a == b
  | .link, .link => true
  | _, _ => false

/-! ## Frontiers (R227) -/

/-- All writes of p up to commit count n. -/
def Front.mark (f : Front) (p : Parties) (n : Nat) : Front :=
  { f with marks := if f.marks.any (fun m => m.1 == p) then f.marks.map (fun m => if m.1 == p then (p, max m.2 n) else m)
      else f.marks ++ [(p, n)] }

def joinNew [BEq α] (a b : List α) : List α := a ++ b.filter (fun x => !a.contains x)

def Front.join (f g : Front) : Front :=
  { marks := (g.marks.foldl (fun (h : Front) m => h.mark m.1 m.2) f).marks, seen := joinNew f.seen g.seen,
    early := joinNew f.early g.early }

/-- w is in the frontier for the byte at pl. -/
def Front.has (f : Front) (pl : Place) (w : Wr) : Bool :=
  f.marks.any (fun m => m.1.has w.by_ && decide (w.n ≤ m.2)) || f.seen.contains (pl, w.n) ||
  (match w.by_ with | .ctx u _ _ 0 q => f.early.contains (u, q) | _ => false)

/-- Who reads, or writes: a context, whose own stores (for a command, those before it) are in its frontier (R229, R240), or none. -/
structure Reader where
  uid : Option Nat := none
  before : Option Nat := none
  front : Front := {}
  deriving DecidableEq, Repr

def Reader.knows (r : Reader) (pl : Place) (w : Wr) : Bool :=
  (match w.by_ with
  | .ctx u _ _ 0 q => r.uid == some u && (match r.before with | some b => decide (q < b) | none => true)
  | _ => false) || r.front.has pl w

def State.modOrd (s : State) (f : Order → Order) : State := { s with ord := f s.ord }
def State.front (s : State) (u : Nat) : Front := SMap.get s.ord.fronts u {}
def State.rels (s : State) (u : Nat) : List (Parties × Front) := SMap.get s.ord.rels u []

/-- A context's frontiers gain f. -/
def State.gain (s : State) (u : Nat) (f : Front) : State :=
  if f = {} then s else s.modOrd (fun o => { o with fronts := SMap.put o.fronts {} u ((SMap.get o.fronts u {}).join f) })

def State.reader (s : State) (u : Nat) : Reader := { uid := some u, front := s.front u }

def State.chan (s : State) (c : Chan) : Front :=
  match s.ord.chans.find? (fun e => e.1 == c) with
  | some e => e.2
  | none => {}
def State.setChan (s : State) (c : Chan) (f : Front) : State :=
  s.modOrd (fun o => { o with chans := (o.chans.filter (fun e => e.1 != c)) ++ [(c, f)] })
def State.joinChan (s : State) (c : Chan) (f : Front) : State := s.setChan c ((s.chan c).join f)

/-- What a release of context u at the scope of p hands to the acquire that reads it, where it is no write to memory: its snapshot, and all that
p's writers have committed so far (R235). -/
def State.released (s : State) (u : Nat) (p : Parties) : Front := (s.front u).mark p s.ord.commits

/-- A member that observes the phases below o of a barrier acquires what all arrivals at them have released: a phase's channel holds also what the phase two
before it had (R191). -/
def State.observed (s : State) (g n : Nat) (o : BitVec 32) : Front :=
  (s.chan (.bar g n (o - 1).toNat)).join (s.chan (.bar g n (o - 2).toNat))

/-! ## Write sets, and the writes a Read may return (R229, R230) -/

def Order.wset (o : Order) (pl : Place) : List Wr :=
  match o.wsets.find? (fun e => e.1 == pl) with
  | some e => e.2
  | none => []
def State.wset (s : State) (pl : Place) : List Wr := s.ord.wset pl

/-- The visibility bound has passed for w: 2,048 cycles, or in host and peer memory a system-scope fence of its writer (R230, R337). -/
def State.overdue (s : State) (pl : Place) (w : Wr) : Bool :=
  match pl with
  | .ls _ _ => decide (w.time + 2048 ≤ s.cycle)
  | .hbm _ => decide (w.time + 2048 ≤ s.cycle)
  | _ => match w.by_ with
    | .ctx u _ _ _ _ => decide (w.n ≤ SMap.get s.ord.sysDone u 0)
    | _ => false

/-- The name of a write while it was buffered: writer and order number. -/
def Writer.key : Writer → Option (Nat × Nat)
  | .ctx u _ _ 0 q => some (u, q)
  | _ => none

/-- Write v is ordered after what had this name while it was buffered (R231). -/
def Wr.afterKey (v : Wr) : Option (Nat × Nat) → Bool
  | some b => v.afterB.contains b
  | none => false

/-- Write v of a byte is ordered after write w of it (R229). -/
def Wr.isAfter (v w : Wr) : Bool := v.after.contains w.n || v.afterKey w.by_.key

/-- Write v once w has committed: what w is ordered after comes before v too, where v is ordered after w (R229). -/
def Wr.follow (w v : Wr) : Wr :=
  if v.afterKey w.by_.key then { v with after := (v.after ++ w.n :: w.after).eraseDups, afterB := (v.afterB ++ w.afterB).eraseDups } else v

/-- The place of write w in a write set, newest first: above all but the writes that are ordered after it already. -/
def insertWr (w : Wr) : List Wr → List Wr
  | [] => [w]
  | v :: t => if (v :: t).any (fun u => u.isAfter w) then v :: insertWr w t else w :: v :: t

/-- Write w of the byte at pl may be returned to r: it is ordered before no write that r has seen or whose bound has passed (R230). -/
def State.mayReturn (s : State) (r : Reader) (pl : Place) (w : Wr) : Bool :=
  (s.wset pl).all (fun v => !(v.isAfter w && (r.knows pl v || s.overdue pl v)))

/-- In local store, w was written under the generation that governs the byte for the accessor (R74). -/
def State.current (s : State) (own : BitVec 16) (pl : Place) (w : Wr) : Bool :=
  match pl with
  | .ls c off => w.gen == ((s.core c).gov own off).1
  | _ => true

/-- A granule of local store that is stale for the accessor: its bytes read as 0 (R74). -/
def State.stale (s : State) (own : BitVec 16) (pl : Place) : Bool :=
  match pl with
  | .ls c off => (s.core c).stamp off != ((s.core c).gov own off).1
  | _ => false

/-- A Read of r may return w, under a further condition of an atomic (R237). -/
def State.canReturn (s : State) (r : Reader) (own : BitVec 16) (also : Place → Wr → Bool) (pl : Place) (w : Wr) : Bool :=
  s.current own pl w && s.mayReturn r pl w && also pl w

/-- The writes of a byte, other than the newest, that r may read. -/
def State.older (s : State) (r : Reader) (own : BitVec 16) (also : Place → Wr → Bool) (pl : Place) : List Wr :=
  if s.stale own pl then [] else ((s.wset pl).drop 1).filter (s.canReturn r own also pl)

/-- How a read sees memory: the reader, its generation, a further condition, and the buffered stores of a byte that it may read, oldest first, as writes
with numbers above every commit count (R231). -/
structure View where
  r : Reader
  own : BitVec 16
  also : Place → Wr → Bool := fun _ _ => true
  bufs : Place → List Wr := fun _ => []

/-- The writes of a byte among which a read chooses, newest first. -/
def View.cands (v : View) (s : State) (pl : Place) : List Wr :=
  (v.bufs pl).foldl (fun l b => insertWr b l) (if s.stale v.own pl then [] else s.wset pl)

/-- The newest of the reader's own buffered stores to a byte. -/
def View.mine (v : View) (pl : Place) : Option Wr :=
  ((v.bufs pl).filter (fun b => match b.by_ with | .ctx u _ _ _ _ => v.r.uid == some u | _ => false)).getLast?

/-- A read may return this for a byte (R230, R231): a write, or memory as it is where no write is recorded. Own buffered stores give way only to a
write that is ordered after the newest of them. -/
def View.allows (v : View) (s : State) (pl : Place) : Option Wr → Bool
  | some w => (decide (s.ord.commits < w.n) || s.current v.own pl w) && v.also pl w &&
      (v.cands s pl).all (fun u => !(u.isAfter w && (v.r.knows pl u || s.overdue pl u))) &&
      (match v.mine pl with | some b => w.n == b.n || w.isAfter b | none => true)
  | none => (s.stale v.own pl || (s.wset pl).isEmpty) && (v.mine pl).isNone

/-- The newest write of a byte that a free value does not hide from read number d. One choice hides all bytes of a write that lie in one
aligned word (R226). -/
def View.glimpse (v : View) (s : State) (d : Nat) (pl : Place) : Option Wr :=
  (v.cands s pl).find? (fun w => !Config.freeHide d pl.wordKey w.n)

/-- The newest that a byte may be read from. -/
def View.top (v : View) (s : State) (pl : Place) : Option Wr := (v.cands s pl).find? (fun w => v.allows s pl (some w))

/-- Write w's byte, where w is among the byte's writes, and else the newest. -/
def View.prefer (v : View) (s : State) (w : Wr) (pl : Place) : Option Wr :=
  match (v.cands s pl).find? (fun u => u.n == w.n) with
  | some u => some u
  | none => v.top s pl

/-- What a read of n bytes in one aligned word takes for each byte (R226): all that it glimpses, if that may be returned; else the newest write of
some byte as a whole, if it may be; else the newest of every byte. -/
def View.pick (v : View) (s : State) (d : Nat) (pl : Place) (n : Nat) : Place → Option Wr :=
  let fits := fun (f : Place → Option Wr) => (List.range n).all (fun j => v.allows s (pl.plus j) (f (pl.plus j)))
  if fits (v.glimpse s d) then v.glimpse s d
  else
    match ((List.range n).filterMap (fun j => v.top s (pl.plus j))).find? (fun w => fits (v.prefer s w)) with
    | some w => v.prefer s w
    | none => v.top s

/-- One byte of a read: memory itself where the newest write is taken. -/
def State.byteOf (s : State) (own : BitVec 16) (pl : Place) (o : Option Wr) : Nat :=
  match o, s.wset pl with
  | some w, v :: _ => if w.n = v.n then s.readAt pl 1 own else w.val.toNat
  | some w, [] => w.val.toNat
  | none, _ => s.readAt pl 1 own

def State.bytesOf (s : State) (own : BitVec 16) (f : Place → Option Wr) (pl : Place) : Nat → Nat
  | 0 => 0
  | n + 1 => s.byteOf own pl (f pl) + 256 * s.bytesOf own f (pl.plus 1) n

/-- The writes that a read has taken for n bytes. -/
def wrsOf (f : Place → Option Wr) (pl : Place) (n : Nat) : List (Place × Wr) :=
  (List.range n).filterMap (fun j => (f (pl.plus j)).map (fun w => (pl.plus j, w)))

/-- Some byte has a write other than the newest that r may read. -/
def State.hasOlder (s : State) (r : Reader) (own : BitVec 16) (also : Place → Wr → Bool) (pl : Place) (n : Nat) : Bool :=
  (List.range n).any (fun j => !(s.older r own also (pl.plus j)).isEmpty)

/-- A Read or Early step of n bytes that lie in one aligned word (R226, R228, R230, R231): the value, the writes it returns, and the state. The newest
write of each byte is returned where no other may be; else which one is a free value. -/
def State.viewRead (s : State) (v : View) (pl : Place) (n : Nat) : Nat × List (Place × Wr) × State :=
  let d := s.draw
  if s.hasOlder v.r v.own v.also pl n || (List.range n).any (fun j => !(v.bufs (pl.plus j)).isEmpty) then
    let f := v.pick s d.1 pl n
    (s.bytesOf v.own f pl n, wrsOf f pl n, d.2)
  else (s.readAt pl n v.own, wrsOf (fun q => if s.stale v.own q then none else (s.wset q).head?) pl n, s)

/-- A Read that no buffered store serves. -/
def State.weakRead (s : State) (r : Reader) (own : BitVec 16) (also : Place → Wr → Bool) (pl : Place) (n : Nat) :
    Nat × List (Place × Wr) × State := s.viewRead { r := r, own := own, also := also } pl n

/-- The newest write of each of n bytes of a local store word read under generation g (R238). -/
def State.newest (s : State) (g : BitVec 16) (pl : Place) (n : Nat) : List (Place × Wr) :=
  (List.range n).filterMap (fun j => match (s.wset (pl.plus j)).head? with
    | some w => if w.gen = g then some (pl.plus j, w) else none
    | none => none)

def anyWr (_ : Place) (_ : Wr) : Bool := true

/-- The frontiers of a context gain the writes that it read (R230). -/
def State.see (s : State) (u : Nat) (l : List (Place × Wr)) : State :=
  s.gain u { seen := (l.filter (fun e => e.2.n != 0 && !(s.reader u).knows e.1 e.2)).map (fun e => (e.1, e.2.n)) }

/-- The first byte of the aligned word of a byte. -/
def Place.wordBase : Place → Place
  | .ls c off => .ls c (off / 8 * 8)
  | .hbm m => .hbm (m / 8 * 8)
  | .host a => .host (a / 8 * 8)
  | .peer k a => .peer k (a / 8 * 8)

/-- The bytes of a core's local store for which read number d takes a write other than the newest: each aligned word is one Read. -/
def State.weakBytes (s : State) (r : Reader) (own : BitVec 16) (d c : Nat) : List (Nat × Byte) :=
  s.ord.wsets.filterMap (fun e => match e.1, e.2 with
    | .ls c' off, v :: _ =>
      if c' = c then
        (match ({ r := r, own := own } : View).pick s d e.1.wordBase 8 e.1 with
        | some w => if w.n = v.n then none else some (off, w.val)
        | none => none)
      else none
    | _, _ => none)

/-! ## Merges (R235) -/

/-- The snapshot of w for the reader `me`: none where w is a release and no scope of it includes the reader's core. -/
def Wr.snapshot (w : Wr) (me : Writer) : Option Front :=
  if w.rel.isEmpty then some {}
  else
    match w.rel.filter (fun e => e.1.has me) with
    | [] => none
    | l => some (l.foldl (fun (f : Front) e => f.join e.2) {})

/-- What an acquire at the scope of p gains from reading w, `now` being the commit count: by an Early step of a buffered store, every write
committed so far beside the snapshot. -/
def Wr.acquired (w : Wr) (me : Writer) (p : Parties) (now : Nat) : Front :=
  if w.n ≠ 0 ∧ p.has w.by_ then
    (match w.snapshot me with
    | some f => if w.n ≤ now then f.mark p w.n else f.mark .system now
    | none => {})
  else {}

def State.acquired (s : State) (me : Writer) (p : Parties) (l : List (Place × Wr)) : Front :=
  l.foldl (fun (f : Front) e => f.join (e.2.acquired me p s.ord.commits)) {}

/-- The newest write of each of n bytes. -/
def State.latest (s : State) (pl : Place) (n : Nat) : List (Place × Wr) :=
  (List.range n).filterMap (fun j => ((s.wset (pl.plus j)).head?).map (fun w => (pl.plus j, w)))

/-- What a device-scope acquire by `me` of the newest write of n bytes at pl gains (R163, R234). -/
def State.acquiredAt (s : State) (me : Writer) (pl : Place) (n : Nat) : Front := s.acquired me .device (s.latest pl n)

/-- What a landing that empties a word gains: a device-scope acquire, and what a host's write covers that set the word full (R163, R337). -/
def State.emptiedAt (s : State) (me : Writer) (pl : Place) (n : Nat) : Front :=
  (s.latest pl n).foldl (fun f e => match e.2.by_ with
    | .port _ => f.join ((e.2.snapshot me).getD {})
    | _ => f) (s.acquiredAt me pl n)

/-- The write sets of these bytes are dropped: only what memory holds now can be read. -/
def State.forget (s : State) (p : Place → Bool) : State :=
  s.modOrd (fun o => { o with wsets := o.wsets.filter (fun e => !p e.1) })

def Place.onCore (c : Nat) : Place → Bool
  | .ls d _ => d == c
  | _ => false

def Place.inHbm (lo n : Nat) : Place → Bool
  | .hbm m => decide (lo ≤ m) && decide (m < lo + n)
  | _ => false

/-! ## Commits (R229, R232) -/

/-- Who commits, what that writer has seen, and what the write carries as a release. -/
structure Commit where
  by_ : Writer
  r : Reader := {}
  rel : List (Parties × Front) := []
  deriving DecidableEq, Repr

/-- A store of a context itself (order number q): it carries the snapshots of the context's fences (R236). -/
def State.byCtx (s : State) (core uid tenant q : Nat) : Commit :=
  { by_ := .ctx uid core tenant 0 q, r := s.reader uid, rel := s.rels uid }

/-- The same as a release at the scope of p (R235). -/
def State.byRelease (s : State) (core uid tenant q : Nat) (p : Parties) : Commit :=
  { s.byCtx core uid tenant q with rel := (p, s.front uid) :: s.rels uid }

/-- What memory holds before the first recorded write of a byte. -/
def State.initial (s : State) (pl : Place) : Wr :=
  let v := match pl with
    | .ls c off => Memory.byte (s.core c).ls off
    | .hbm m => Memory.byte s.hbm m
    | .host a => Memory.byte s.hostMem a
    | .peer _ _ => 0
  let g := match pl with
    | .ls c off => (s.core c).stamp off
    | _ => 0
  { n := 0, time := 0, val := v, gen := g, by_ := .disp, after := [], rel := [] }

/-- The write of one byte joins its write set: it is ordered after the initial write, what the writer has seen there, buffered stores
among it, and its own earlier writes there, and after whatever those are ordered after. A write that is ordered after this one already stays so, and is
then ordered after all of these too. -/
def State.addWr (s : State) (k : Commit) (g : BitVec 16) (o : Order) (b : Place × Byte) : Order :=
  let ws := match o.wset b.1 with
    | [] => [s.initial b.1]
    | l => l
  let prior := ws.filter (fun v => (v.n == 0 || k.r.knows b.1 v || v.by_.same k.by_) && !v.afterKey k.by_.key)
  let w : Wr := {
    n := o.commits, time := s.cycle, val := b.2, gen := g, by_ := k.by_, rel := k.rel
    after := (prior.flatMap (fun v => v.n :: v.after)).eraseDups
    afterB := (k.r.front.early ++ prior.flatMap (fun v => v.afterB)).eraseDups }
  { o with wsets := (o.wsets.filter (fun e => e.1 != b.1)) ++ [(b.1, insertWr w (ws.map w.follow))] }

/-- The bytes that a store of v writes; with a stale granule all of it, the others as 0 (R76). -/
def State.storedBytes (s : State) (pl : Place) (n v : Nat) (g : BitVec 16) : List (Place × Byte) :=
  let own := (List.range n).map (fun j => (pl.plus j, BitVec.ofNat 8 (v / 256 ^ j)))
  match pl with
  | .ls c off =>
    if (s.core c).stamp off == g then own
    else ((List.range 32).map (fun j => off / 32 * 32 + j)).map (fun a =>
      (Place.ls c a, if off ≤ a ∧ a < off + n then BitVec.ofNat 8 (v / 256 ^ (a - off)) else 0))
  | _ => own

/-- A write takes the next commit count and joins the write sets of its bytes, under generation g. -/
def State.record (s : State) (k : Commit) (pl : Place) (n v : Nat) (g : BitVec 16) : State :=
  { s with ord := (s.storedBytes pl n v g).foldl (s.addWr k g) { s.ord with commits := s.ord.commits + 1 } }

/-- A committed write of the byte is ordered after this one already: its writer had read this one while it was buffered (R229, R231). -/
def State.overtaken (s : State) (k : Commit) (pl : Place) : Bool := (s.wset pl).any (fun v => v.afterKey k.by_.key)

/-- The n bytes that memory holds after a commit of v: v's, but for those that a later-ordered write has taken. -/
def State.settled (s : State) (k : Commit) (pl : Place) (v : Nat) (own : BitVec 16) : Nat → Nat
  | 0 => 0
  | n + 1 => (if s.overtaken k pl then s.readAt pl 1 own else v % 256) + 256 * s.settled k (pl.plus 1) (v / 256) own n

/-- The Commit step of n bytes that lie in one granule (R232). -/
def State.commit (s : State) (k : Commit) (pl : Place) (n v : Nat) (own : BitVec 16) : State :=
  let kept := s.settled k pl v own n
  match pl with
  | .peer _ _ => s
  | .ls c off => (s.record k pl n v ((s.core c).gov own off).1).writeAt pl n kept own
  | .host _ => (s.record k pl n v 0).writeAt pl n kept own
  | .hbm m => if s.host.dead.contains (m / 65536) then s else (s.record k pl n v 0).writeAt pl n kept own

end Sys2Proof.Machine
end

