-- ==== Sys2Proof/Machine/Mem.lean ====
section
/-! DEFINITION. Pointers, windows, translation and apertures (R208 to R222), and reads and writes of one location (R225). -/

namespace Sys2Proof.Machine

/-! ## Windows (R208 to R210) -/

inductive Win where
  | priv | loc | sq | rem | glob | peer
  deriving DecidableEq, Repr

/-- What an access asks of its window (step 5, R209) and of its page (R217). -/
inductive Op where
  | ld | st | posted | fe | feStore | atom | fetch | gchk | eread | ewrite
  deriving DecidableEq, Repr

/-- Where a pointer leads when it passes steps 1 to 4. -/
inductive Target where
  | ls (core off : Nat)
  | snap (core slot : Nat)
  | va (v : Nat)
  | peer (slot v : Nat)
  deriving DecidableEq, Repr

def wfault (p : Word) (code : Nat) : TrapInfo := { cause := 0x05, addr := p, aux := w64 code }
def fault9 (p : Word) (aux : Nat) : TrapInfo := { cause := 0x09, addr := p, aux := w64 aux }

def snapBase : Nat := 0xF0000

/-- The near part of a pointer (R208): an offset in core t's local store, or a snapshot word. -/
def checkNear (s : State) (p : Word) (w : Win) (t : Nat) : Except TrapInfo (Win × Target) :=
  let off := bits p 19 0
  if bits p 41 20 ≠ 0 then .error (wfault p 2)
  else if off < lsSize t then .ok (w, .ls t off)
  else if snapBase ≤ off ∧ off < snapBase + 8 * (s.core t).slots then .ok (w, .snap t ((off - snapBase) / 8))
  else .error (wfault p 3)

/-- The core whose store a pointer that names core t leads to: of a pair, the one that holds the byte (R327). -/
def nearCore (s : State) (core t : Nat) (p : Word) : Nat := if t = core then t else s.leadAt t (bits p 19 0)

/-- Steps 1 to 4 of R208 for an access of `size` bytes by a context of `core` whose `pvbase` is given. -/
def checkPtr (s : State) (core : Nat) (pv p : Word) (size : Nat) : Except TrapInfo (Win × Target) :=
  let t := bits p 55 42
  match bits p 63 56 with
  | 0x00 =>
    if p.getLsbD 51 then
      (if bits p 55 52 ≤ 11 then .ok (.peer, .peer (bits p 55 52) (bits p 50 0)) else .error (wfault p 5))
    else if bits p 55 52 ≠ 0 then .error (wfault p 2)
    else .ok (.glob, .va (bits p 50 0))
  | 0xF1 =>
    if bits p 55 24 ≠ 0 then .error (wfault p 2)
    else
      let o := bits p 23 0
      let base := bits pv 19 0
      if o + size ≤ bits pv 39 20 ∧ base + o + size ≤ lsSize core then .ok (.priv, .ls core (base + o)) else .error (wfault p 3)
  | 0xF2 => if t = core ∨ t = s.lead core then checkNear s p .loc core else .error { cause := 0x06, addr := p }
  | 0xF3 =>
    if isArray core ∧ isArray t ∧ squareOf t = squareOf core then checkNear s p .sq (nearCore s core t p) else .error { cause := 0x07, addr := p }
  | 0xF4 => if coreUsed t then checkNear s p .rem (nearCore s core t p) else .error (wfault p 5)
  | _ => .error (wfault p 1)

/-- Step 5: the operations R209 allows in each window. -/
def opAllowed (op : Op) : Win → Bool
  | .priv | .loc | .sq => op != .fetch
  | .rem => op != .fetch && op != .gchk
  | .glob => op != .fe && op != .feStore && op != .gchk
  | .peer => op == .posted || op == .eread || op == .ewrite

/-! ## HBM apertures (R218, R219) -/

/-- Channel and channel offset of M under an aperture: 0 row-major, 1 tile-swizzled, 2 bank-private. -/
def aperture (ap m : Nat) : Nat × Nat :=
  let g := m / 2 ^ 24
  let o := m % 2 ^ 24
  let (c, y) :=
    if ap = 0 then ((o >>> 8) % 256, (o >>> 16) * 256 + o % 256)
    else if ap = 1 then (((o >>> 6) % 256) ^^^ ((o >>> 14) % 256), (o >>> 14) * 64 + o % 64)
    else ((o >>> 16) % 256, o % 65536)
  (c, g * 65536 + y)

/-- The row-major address of a byte at (channel, channel offset): the name of the location (R219). -/
def rowMajor (c y : Nat) : Nat := (y / 65536) * 2 ^ 24 + ((y % 65536) / 256) * 65536 + c * 256 + y % 256

def hbmKey (ap m : Nat) : Nat := let (c, y) := aperture ap m; rowMajor c y
/-- The kerb core beside the channel that holds a byte (R218), from its row-major name. -/
def kerbOf (key : Nat) : Nat := 12288 + (key / 256) % 256

def hbmTop : Nat := 0x006000000000

/-! ## Translation (R213 to R217) -/

def Memory.word (m : Memory) (a : Nat) : Word := w64 (Memory.read m a 8)

/-- A physical 8-byte read through the row-major aperture, or of host memory (R214, R216). -/
def State.pread (s : State) (pa : Nat) : Option Word :=
  if pa < hbmTop then some (Memory.word s.hbm pa)
  else if 2 ^ 47 ≤ pa then some (Memory.word s.hostMem (pa - 2 ^ 47))
  else none

def pteLeaf (e : Word) : Bool := e.getLsbD 1
/-- The page frame or next table at [47:12]. -/
def ptePa (e : Word) : Nat := bits e 47 12 * 4096

/-- The failure of an entry at a level: (cause, trapaux), from the rules of R215. -/
def pteFault (level : Nat) (e : Word) : Option (Nat × Nat) :=
  if !e.getLsbD 0 then some (0x08, 0x10 + level)
  else
    let leaf := pteLeaf e
    let shape := if level = 1 then leaf else if level = 3 then !leaf else false
    let align := if level = 2 ∧ leaf then bits e 24 12 else if level = 2 then 0 else bits e 15 12
    let align := if level = 2 ∧ leaf = false then 0 else align
    if shape || bits e 11 8 != 0 || bits e 63 48 != 0 || align != 0 then some (0x09, 0x60 + level) else none

/-- A walk of the tenant's tables as they stand (R214, R215): a leaf, whether it maps 32 MiB, or the failure. Reason 7 is reported at the level of
the entry that cannot be read (DEDUCED, log 57). -/
def walkTables (s : State) (tenant va : Nat) : Except (Nat × Nat) (Bool × Word) :=
  match s.host.table with
  | none => .error (0x08, 0x10)
  | some tab =>
    match s.pread (tab + 4096 + 8 * tenant) with
    | none => .error (0x09, 0x70)
    | some r =>
      if !r.getLsbD 0 then .error (0x08, 0x10)
      else if bits r 15 1 ≠ 0 ∨ bits r 63 48 ≠ 0 then .error (0x09, 0x60)
      else
        match s.pread (bits r 47 16 * 65536 + 8 * ((va >>> 38) % 8192)) with
        | none => .error (0x09, 0x71)
        | some e1 =>
          match pteFault 1 e1 with
          | some f => .error f
          | none =>
            match s.pread (ptePa e1 + 8 * ((va >>> 25) % 8192)) with
            | none => .error (0x09, 0x72)
            | some e2 =>
              match pteFault 2 e2 with
              | some f => .error f
              | none =>
                if pteLeaf e2 then .ok (true, e2)
                else
                  match s.pread (ptePa e2 + 8 * ((va >>> 16) % 512)) with
                  | none => .error (0x09, 0x73)
                  | some e3 =>
                    match pteFault 3 e3 with
                    | some f => .error f
                    | none => .ok (false, e3)

/-- The leaf bits an access needs, in the order of reasons 2, 3, 4 (R217, R354). -/
def needBits : Op → List Nat
  | .ld | .eread => [2]
  | .st | .posted | .ewrite => [3]
  | .atom => [2, 3]
  | .fetch => [4]
  | _ => []

/-- The level at which a leaf stands (R214). -/
def leafLevel (big : Bool) : Nat := if big then 2 else 3

/-- Permission, U, and the physical address at the leaf (R215 to R217). Where several reasons hold, they are tried in that order, and at the
physical address ap of a host page, then reason 7, then ap = 3 (DESIGN CHOICE, log 57). -/
def grant (leaf : Word) (big : Bool) (p : Word) (op : Op) (level : Nat) : Except TrapInfo Place :=
  let lv := leafLevel big
  match (needBits op).find? (fun b => !leaf.getLsbD b) with
  | some b => .error (fault9 p (b * 16 + lv))
  | none =>
    if level = 0 ∧ leaf.getLsbD 5 = false then .error (fault9 p (0x50 + lv))
    else
      let ap := bits leaf 7 6
      let sh := if big then 25 else 16
      let pa := ptePa leaf / 2 ^ sh * 2 ^ sh + bits p 50 0 % 2 ^ sh
      if pa ≥ 2 ^ 47 then (if ap ≠ 0 then .error (fault9 p (0x60 + lv)) else .ok (.host (pa - 2 ^ 47)))
      else if pa ≥ hbmTop then .error (fault9 p (0x70 + lv))
      else if ap = 3 then .error (fault9 p (0x60 + lv))
      else .ok (.hbm (hbmKey ap pa))

def TlbEntry.hits (e : TlbEntry) (tenant page : Nat) : Bool :=
  e.tenant == tenant && (if e.big then e.page / 512 == page / 512 else e.page == page)

/-- A hit moves to the front; the last entry past the capacity is replaced (R220). -/
def tlbTouch (l : List TlbEntry) (e : TlbEntry) (cap : Nat) : List TlbEntry := (e :: l.filter (fun x => x != e)).take cap

/-- What an access of a context found. -/
structure Loc where
  place : Place
  ptr : Word
  win : Win
  size : Nat
  /-- the leaf's level, 0 for a pointer that is not translated -/
  lv : Nat := 0
  deriving DecidableEq, Repr

/-- A lookup in the core's cache, then the square's; misses count in event counters 0 and 1 (R220, R321). -/
def tlbLookup (s : State) (core tenant page : Nat) : Option TlbEntry × State :=
  match (s.core core).tlb.find? (fun e => e.hits tenant page) with
  | some e => (some e, s.modCore core (fun k => { k with tlb := tlbTouch k.tlb e 32 }))
  | none =>
    let s := s.bump core 0
    if isArray core then
      match (s.square (squareOf core)).tlb.find? (fun e => e.hits tenant page) with
      | some e => (some e, (s.modSquare (squareOf core) (fun q => { q with tlb := tlbTouch q.tlb e 1024 })).modCore core
          (fun k => { k with tlb := tlbTouch k.tlb e 32 }))
      | none => (none, s.bump core 1)
    else (none, s)

/-- Pages that hold an entry of a square's miss buffer. -/
def missCount (s : State) (q : Nat) : Nat := (s.walks.filter (fun w => w.squares.contains q)).length

/-- The square whose miss buffer a request enters, and the die whose walkers serve it. -/
def Asker.square : Asker → Nat
  | .ctx c _ => serveSquare c
  | .copy c _ _ => serveSquare c
  | .rope q _ => q
def Asker.die : Asker → Nat
  | .ctx c _ => dieOf c
  | .copy c _ _ => dieOf c
  | .rope q _ => if q < 768 then q / 24 / 8 else dieOf (12288 + (q - 768))

/-- The walkers of a die: 256. -/
def walkersPerDie : Nat := 256

/-- Walk number n is in the hands of a walker: the walkers of a die take its requests in arrival order (R221). -/
def State.walking (s : State) (n : Nat) (die : Nat) : Bool :=
  decide (((s.walks.take n).filter (fun w => w.die == die)).length < walkersPerDie)

/-- Where a request joins: its page's entry in its square's miss buffer, or else a walk of the page on its die that a walker has begun. Misses are on one
page where their 64 KiB pages are the same, whatever page size the walk will find (DESIGN CHOICE, log 65). -/
def joinAt (s : State) (a : Asker) (tenant page : Nat) : Option Nat :=
  let at_ := fun (ok : Nat → Walk → Bool) => (List.range s.walks.length).find? (fun n =>
    s.walks[n]?.any (fun w => w.tenant == tenant && w.page == page && w.die == a.die && ok n w))
  (at_ (fun _ w => w.squares.contains a.square)).or (at_ (fun n _ => s.walking n a.die))

/-- A request to the walkers of its die joins a walk, or waits behind the others (R221). -/
def addWalk (s : State) (a : Asker) (tenant page : Nat) : State :=
  match joinAt s a tenant page with
  | some n => { s with walks := s.walks.modify n (fun w =>
      { w with reqs := w.reqs ++ [a], squares := if w.squares.contains a.square then w.squares else w.squares ++ [a.square] }) }
  | none => { s with walks := s.walks ++ [{ tenant := tenant, page := page, die := a.die, squares := [a.square], reqs := [a] }] }

/-- A miss enters its square's miss buffer, or waits for an entry when 64 other pages fill it (R221). -/
def requestWalk (s : State) (a : Asker) (tenant page : Nat) : State :=
  let held := s.walks.any (fun w => w.tenant == tenant && w.page == page && w.squares.contains a.square)
  if decide (a.square < 768) && !held && decide (64 ≤ missCount s a.square) then { s with missWait := s.missWait ++ [(a, tenant, page)] }
  else addWalk s a tenant page

/-- Translation for a context (R217, R221): a hit is checked at the leaf, a fault that a walk found is taken, and a miss in
both caches parks the context on list 8. -/
def translate (p : Word) (op : Op) : M (Place × Nat) := fun e s =>
  let x := s.ctx e.core e.slot
  let page := bits p 50 16
  match x.xfault with
  | some (pg, cause, aux) =>
    if pg = page then .error (.trap { cause := cause, addr := p, aux := w64 aux })
    else go x page e s
  | none => go x page e s
where
  go (x : Ctx) (page : Nat) (e : Env) (s : State) : Except Stop ((Place × Nat) × State) :=
    match tlbLookup s e.core x.tenant page with
    | (some t, s') =>
      match grant t.leaf t.big p op x.level with
      | .ok pl => .ok ((pl, leafLevel t.big), s')
      | .error f => .error (.trap { f with missed := ((s.core e.core).tlb.find? (fun e => e.hits x.tenant page)).isNone })
    | (none, _) =>
      .error (.park { list := 8, object := BitVec.ofNat 48 (bits p 51 4), cond := .walk page }
        (fun s0 => requestWalk (tlbLookup s0 e.core x.tenant page).2 (.ctx e.core e.slot) x.tenant page))

/-- R207: the snapshot word of a slot may be read by contexts of the tenant the core belongs to. -/
def snapAllowed (s : State) (tenant core : Nat) : Bool :=
  if isArray core then s.coreTenant core == some tenant else s.kerbHolds core tenant

/-- Every check of R208 to R217 on one data access of a context; `plainD` says it is `ld.d.plain`, the one access a snapshot
word allows (R207, R398). A snapshot word comes back as none. -/
def resolve (p : Word) (size : Nat) (op : Op) (plainD : Bool) : M (Loc × Option (Nat × Nat)) := fun e s =>
  let x := s.ctx e.core e.slot
  match checkPtr s e.core x.pvbase p size with
  | .error f => .error (.trap f)
  | .ok (w, t) =>
    if !opAllowed op w then .error (.trap (wfault p 4))
    else if p.toNat % size ≠ 0 then .error (.trap { cause := 0x04, addr := p })
    else
      match t with
      | .ls c off => .ok (({ place := .ls c off, ptr := p, win := w, size := size }, none), s)
      | .snap c i =>
        if op == .ld && plainD && snapAllowed s x.tenant c then
          .ok (({ place := .ls c (snapBase + 8 * i), ptr := p, win := w, size := size }, some (c, i)), s)
        else .error (.trap (fault9 p 4))
      | .peer n v => .ok (({ place := .peer n v, ptr := p, win := w, size := size }, none), s)
      | .va _ =>
        match translate p op e s with
        | .ok ((pl, lv), s') => .ok (({ place := pl, ptr := p, win := w, size := size, lv := lv }, none), s')
        | .error f => .error f

/-! ## Accesses of engines and of the dispatcher (R217, R220, R221). The dispatcher reads the tables at the access (DESIGN CHOICE, log 8) -/

/-- A peer slot whose link is up and whose byte in the descriptor table is valid (R339). -/
def peerOk (s : State) (tenant slot : Nat) : Bool :=
  SMap.get s.host.linkUp slot false &&
  (match s.host.table with | some b => (Memory.byte s.hbm (b + 12288 + 16 * tenant + slot)).getLsbD 6 | none => false)

/-- The caches that an agent's translations use (R220): a core's and its square's, a square's alone, or none. -/
inductive Via where
  | none
  | core
  | square (q : Nat)
  deriving DecidableEq, Repr

structure Agent where
  core : Nat
  tenant : Nat
  level : Nat
  pv : Word
  via : Via := .none
  /-- the ends of the walks that the access has waited for -/
  ends : List (Nat × WalkEnd) := []

/-- Where the pointer leads once it has passed the checks of its window and its alignment. -/
def engTarget (s : State) (a : Agent) (p : Word) (size : Nat) (op : Op) : Except TrapInfo Target :=
  match checkPtr s a.core a.pv p size with
  | .error f => .error f
  | .ok (w, t) =>
    if !opAllowed op w then .error (wfault p 4)
    else if p.toNat % size ≠ 0 then .error { cause := 0x04, addr := p }
    else .ok t

/-- The cached entry of a page, in the caches that the agent uses. -/
def engCached (s : State) (a : Agent) (page : Nat) : Option TlbEntry :=
  let hit := fun (e : TlbEntry) => e.hits a.tenant page
  match a.via with
  | .none => none
  | .core =>
    match (s.core a.core).tlb.find? hit with
    | some e => some e
    | none => if isArray a.core then (s.square (squareOf a.core)).tlb.find? hit else none
  | .square q => (s.square q).tlb.find? hit

def Agent.walked (a : Agent) (page : Nat) : Option WalkEnd := (a.ends.find? (fun e => e.1 == page)).map (fun e => e.2)

/-- The leaf of a page: what the access has waited for, the cached one, or what the tables hold now. -/
def engLeaf (s : State) (a : Agent) (v : Nat) : Except (Nat × Nat) (Bool × Word) :=
  match a.walked (v / 65536), engCached s a (v / 65536) with
  | some (.leaf big leaf), _ => .ok (big, leaf)
  | some (.fault cause aux), _ => .error (cause, aux)
  | none, some e => .ok (e.big, e.leaf)
  | none, none => walkTables s a.tenant v

def engResolve (s : State) (a : Agent) (p : Word) (size : Nat) (op : Op) : Except TrapInfo Place :=
  match engTarget s a p size op with
  | .error f => .error f
  | .ok (.ls c off) => .ok (.ls c off)
  | .ok (.snap _ _) => .error (fault9 p 4)
  | .ok (.peer n v) => if peerOk s a.tenant n then .ok (.peer n v) else .error (fault9 p 2)
  | .ok (.va v) =>
    match engLeaf s a v with
    | .error (cause, aux) => .error { cause := cause, addr := p, aux := w64 aux }
    | .ok (big, leaf) => grant leaf big p op a.level

/-- The page that an engine's access misses in both caches and must wait for (R221). -/
def engMiss (s : State) (a : Agent) (p : Word) (size : Nat) (op : Op) : Option Nat :=
  match a.via, engTarget s a p size op with
  | .none, _ => none
  | _, .ok (.va v) => if (a.walked (v / 65536)).isSome || (engCached s a (v / 65536)).isSome then none else some (v / 65536)
  | _, _ => none

/-- The first page that a list of accesses in order misses; none once one of them fails. -/
def firstMiss (s : State) (a : Agent) : List (Word × Nat × Op) → Option Nat
  | [] => none
  | (p, n, op) :: t =>
    match engMiss s a p n op with
    | some page => some page
    | none =>
      match engResolve s a p n op with
      | .error _ => none
      | .ok _ => firstMiss s a t

/-- A hit is the most recently used entry of the caches that the agent uses (R220); one in the square's cache alone counts a miss at the core. -/
def engTouch (s : State) (a : Agent) (p : Word) (size : Nat) (op : Op) : State :=
  match engTarget s a p size op with
  | .ok (.va v) =>
    let page := v / 65536
    match a.via, engCached s a page with
    | .core, some _ => (tlbLookup s a.core a.tenant page).2
    | .square q, some e => s.modSquare q (fun y => { y with tlb := tlbTouch y.tlb e 1024 })
    | _, _ => s
  | _ => s

/-- An engine's miss counts as a context's does, at the core (R321), and asks for a walk. -/
def askWalk (s : State) (a : Agent) (by_ : Asker) (page : Nat) : State :=
  let s1 := match a.via with
    | .core => (tlbLookup s a.core a.tenant page).2
    | _ => if isArray a.core then s.bump a.core 1 else s
  requestWalk s1 by_ a.tenant page

/-- The dispatcher's access to the global window: the tenant's tables at supervisor level (R217). -/
def sysPlace (s : State) (tenant : Nat) (p : Word) (op : Op) : Except TrapInfo Place :=
  if bits p 63 52 ≠ 0 ∨ p.getLsbD 51 then .error (wfault p 4)
  else engResolve s { core := 0, tenant := tenant, level := 1, pv := 0 } p 8 op

/-! ## Stale granules and byte runs -/

/-- The granule is stale and a trap-mode region governs it (R74). -/
def State.staleTrap (s : State) (pl : Place) (own : BitVec 16) : Bool :=
  match pl with
  | .ls c off => let k := s.core c; let (g, trap) := k.gov own off; trap && k.stamp off != g
  | _ => false

/-! ## Store buffer (R231) -/

/-- Byte j of a read at `pl` overlaid by one buffered store. -/
def overlayByte (pl : Place) (old : Nat) (e : SbEntry) : Nat :=
  if e.place.overlaps e.size pl 1 then
    let d := match pl, e.place with
      | .ls _ a, .ls _ b => a - b
      | .hbm a, .hbm b => a - b
      | .host a, .host b => a - b
      | .peer _ a, .peer _ b => a - b
      | _, _ => 0
    (e.value.toNat / 256 ^ d) % 256
  else old

/-- n bytes at `pl` whose committed value is v, overlaid by the buffered stores of `es` in order. -/
def overlay (es : List SbEntry) (pl : Place) (v : Nat) : Nat → Nat
  | 0 => 0
  | n + 1 => es.foldl (overlayByte pl) (v % 256) + 256 * overlay es (pl.plus 1) (v / 256) n

/-- Some buffered store reaches the granule of the place: R74 and R231 leave open whether it initialises the granule before a load of another of its
words is performed, and the model takes it so (DESIGN CHOICE, log 59). -/
def granuleBuffered (es : List SbEntry) (pl : Place) : Bool :=
  match pl with
  | .ls c off => es.any (fun e => e.place.overlaps e.size (.ls c (off / 32 * 32)) 32)
  | _ => false

/-- Commit of a buffered store: it becomes the newest write (R232). The allocation that governs it is a live region, or the
storing context's own (R73). -/
def commitEntry (s : State) (core : Nat) (e : SbEntry) : State :=
  s.commit (s.byCtx core e.uid e.tenant e.seq) e.place e.size e.value.toNat e.gen

/-- Class S of the issuing context falls (R186), if that context and landing still live. -/
def lowerS (s : State) (core slot uid : Nat) : State :=
  if (s.ctx core slot).uid = uid ∧ (s.ctx core slot).state ≠ .free then
    s.modCtx core slot (fun x => { x with nS := x.nS - 1 }) else s

/-- A store leaves the buffer. The stores of one `stt` count as one S operation until both have (R444). -/
def dropBuffered (s : State) (core : Nat) (e : SbEntry) : State :=
  let s := s.modCore core (fun k => { k with storeBuf := k.storeBuf.filter (fun b => b != e) })
  if (s.core core).storeBuf.any (fun b => b.uid == e.uid && b.pair == e.pair && e.pair != 0) then s
  else lowerS s core e.slot e.uid

def commitAt (s : State) (core : Nat) (e : SbEntry) : State := commitEntry (dropBuffered s core e) core e

/-! ## Outstanding accesses (R233) -/

/-- The kinds of outstanding request that are accesses to memory still to perform. -/
def LoadKind.access : LoadKind → Bool
  | .ld _ _ _ => true
  | .amo _ _ _ => true
  | .cas _ _ _ => true
  | .ldt _ => true
  | .gchk _ _ => true
  | .qblk _ => true
  | _ => false

def LoadKind.acquire : LoadKind → Bool
  | .ld _ _ a => a
  | .amo _ _ _ => true
  | .cas _ _ _ => true
  | _ => false

def LoadKind.size : LoadKind → Nat
  | .ld n _ _ => n
  | _ => 8

/-- The request has an access to memory still to perform: its own, or a store that its result brings (R264). -/
def LoadReq.open_ (l : LoadReq) : Bool := l.kind.access || !l.stores.isEmpty

/-- One of those accesses meets n bytes at a place. -/
def LoadReq.meets (l : LoadReq) (pl : Place) (n : Nat) : Bool :=
  (match l.kind with
    | .qblk b => b.srcs.any (fun p => p.1.overlaps 4 pl n)
    | .ldt t => l.place.overlaps 8 pl n || t.overlaps 1 pl n
    | k => k.access && l.place.overlaps k.size pl n) ||
  l.stores.any (fun a => a.place.overlaps a.size pl n)

/-- A request of the context with an order number below b meets these bytes. -/
def Ctx.earlierMeets (x : Ctx) (b : Nat) (pl : Place) (n : Nat) : Bool := x.loads.any (fun l => decide (l.seq < b) && l.meets pl n)

/-- Every access of the context with an order number below n has performed. -/
def performedBefore (k : Core) (x : Ctx) (n : Nat) : Bool :=
  x.loads.all (fun l => !l.open_ || decide (n ≤ l.seq)) &&
  k.storeBuf.all (fun e => e.uid != x.uid || decide (n ≤ e.seq)) &&
  k.journal.all (fun e => e.uid != x.uid || decide (n ≤ e.seq))

/-- Every earlier access has performed, those of the replays of a captured body included (R258). -/
def allPerformed (k : Core) (x : Ctx) (n : Nat) : Bool := performedBefore k x n && !x.replaying

/-- Earlier acquires have performed (R233). -/
def acquiresDone (x : Ctx) (n : Nat) : Bool := x.loads.all (fun l => !l.kind.acquire || decide (n ≤ l.seq))

/-- The command number of a `smpw`. -/
def LoadReq.smpwId (l : LoadReq) : Option Nat := match l.kind with | .smpw id _ _ _ => some id | _ => none

/-- A result that context x waits for brings a store with a number below seq (R264, R419). -/
def Ctx.promisedBefore (x : Ctx) (seq : Nat) : Bool := x.loads.any (fun l => l.stores.any (fun a => decide (a.seq < seq)))

/-- Every store that a context issued before number seq, those that wait for a result among them, has committed or been accepted (R240). -/
def storesDone (k : Core) (uid seq : Nat) : Bool :=
  k.storeBuf.all (fun e => e.uid != uid || decide (seq ≤ e.seq)) && k.journal.all (fun e => e.uid != uid || decide (seq ≤ e.seq)) &&
  k.ctxs.all (fun (_, x) => x.uid != uid || !x.promisedBefore seq)

end Sys2Proof.Machine
end

