-- ==== Sys2Proof/Machine/Fields.lean ====
section
/-! DEFINITION. The register fields of an instruction (R57, R83 to R105), what the replays of a captured body still use (R260, R261, R423), and the
address generators (R262, R264). -/

namespace Sys2Proof.Machine

/-! ## The fields of an instruction (R57, R83 to R105) -/

def formABD (d a b : RegF) (p : Option Pin) : Form := { pin := p, src := [a, b], dst := some d }
def formAD (d a : RegF) (p : Option Pin) : Form := { pin := p, src := [a], dst := some d }
def formSrc (l : List RegF) (p : Option Pin) : Form := { pin := p, src := l }

/-- Pin, level and register fields of each instruction, in the order in which step 8 of R105 checks the fields. -/
def form : Instr → Form
  | .add d a b | .sub d a b | .mul d a b | .mulh d a b | .mulhn d a b | .div d a b | .divn d a b | .rem d a b | .remn d a b
  | .and d a b | .or d a b | .xor d a b | .shl d a b | .shr d a b | .sra d a b | .min d a b | .max d a b | .minn d a b
  | .maxn d a b | .slt d a b | .sltn d a b | .seq d a b | .sel d a b | .perm d a b => formABD d a b none
  | .clz d a | .ctz d a | .pop d a => formAD d a none
  | .addi d a _ | .andi d a _ | .ori d a _ | .xori d a _ => formAD d a none
  | .shli d a _ | .shri d a _ | .srai d a _ => formAD d a none
  | .slti d a _ | .sltni d a _ => formAD d a none
  | .lui d _ | .addpc d _ => { dst := some d }
  | .bfx d a _ _ | .bfi d a _ _ => formAD d a none
  | .beq a b _ | .bne a b _ | .blt a b _ | .bge a b _ | .bltn a b _ | .bgen a b _ => formSrc [a, b] none
  | .bsig a _ _ => formSrc [a] none
  | .b _ | .bl _ => {}
  | .jr d a _ => formAD d a none
  | .ld d a _ _ _ | .ldGo d a _ _ | .ldt d a _ | .ldfe d a _ | .ldff d a _ => formAD d a none
  | .st x a _ _ _ | .stt x a _ | .stfe x a _ => formSrc [a, x] none
  | .sete a _ => formSrc [a] none
  | .amo _ _ d a b | .cas _ d a b => formABD d a b none
  | .fence _ _ => {}
  | .spc d a | .cvspLoc d a | .cvspSq d a | .cvspRem d a => formAD d a none
  | .fadd _ d a b | .fsub _ d a b | .fmul _ d a b | .fma _ d a b | .fnma _ d a b | .fdiv _ d a b | .fmin _ d a b
  | .fmax _ d a b | .fcmp _ d a b => formABD d a b (some .rep)
  | .fsqrt _ d a | .fneg _ d a | .fabs _ d a | .fcls _ d a | .frcp _ d a | .fex2 _ d a | .flg2 _ d a => formAD d a (some .rep)
  | .fcvt _ _ _ d a | .fcvi _ _ _ d a | .icvf _ _ _ d a => formAD d a (some .rep)
  | .sigr d a | .sigw d a _ => formAD d a none
  | .qblkI8 d a b | .qblkI4 d a b | .fscl d a b => formABD d a b (some .rep)
  | .exit | .yield | .pass _ => {}
  | .take d => { dst := some d }
  | .go a | .susp a | .hold a | .ctxkill a => formSrc [a] none
  | .spawn d a | .spawnTry d a | .spawnW d a | .ctxnew d a => formAD d a none
  | .wait _ _ _ _ _ | .bar _ | .barw _ | .semp _ | .semv _ | .one => {}
  | .rep _ _ _ _ => { pin := some .rep }
  | .sbind d a => formAD d a (some .rep)
  | .sfree d => formSrc [d] (some .rep)
  | .gnewZero d a b | .gnewTrap d a b => formABD d a b none
  | .gfree a => formSrc [a] none
  | .gchk d a => formAD d a none
  | .cpy a b _ | .cpym a b _ | .deal a b _ | .bkt a b _ => formSrc [a, b] (some .cpy)
  | .qfen _ a => formSrc [a] (some .cpy)
  | .mld a b | .mmul a b | .mgrp a b | .mout a b | .mxa a b => formSrc [a, b] (some .mat)
  | .mzero => { pin := some .mat }
  | .rcat a b | .rsplit a b | .rsplice a b | .rfind a b | .rfold a b | .rpin a b | .rref a b | .rdrop a b => formSrc [a, b] none
  | .smp a b => formSrc [a, b] none
  | .smpw d => { dst := some d }
  | .erd _ _ d => { dst := some d }
  | .ewr _ _ a => formSrc [a] none
  | .nop | .trap _ | .eret | .dbg _ => {}
  | .idle => { sup := true }
  | .csrr c d => { sup := c == 0x070, dst := some d }
  | .csrw c a | .csrs c a | .csrc c a => { sup := c == 0x070, src := [a] }
  | .cfgctx d a => { sup := true, src := [a], dst := some d }
  | .tlbi a => { sup := true, src := [a] }
  | .gscrub => { sup := true }
  | _ => {}

/-- The register fields of a body word replaced (R260). -/
def mapRegs (g : RegF → RegF) : Instr → Instr
  | .add d a b => .add (g d) (g a) (g b) | .sub d a b => .sub (g d) (g a) (g b) | .mul d a b => .mul (g d) (g a) (g b)
  | .mulh d a b => .mulh (g d) (g a) (g b) | .mulhn d a b => .mulhn (g d) (g a) (g b) | .div d a b => .div (g d) (g a) (g b)
  | .divn d a b => .divn (g d) (g a) (g b) | .rem d a b => .rem (g d) (g a) (g b) | .remn d a b => .remn (g d) (g a) (g b)
  | .and d a b => .and (g d) (g a) (g b) | .or d a b => .or (g d) (g a) (g b) | .xor d a b => .xor (g d) (g a) (g b)
  | .shl d a b => .shl (g d) (g a) (g b) | .shr d a b => .shr (g d) (g a) (g b) | .sra d a b => .sra (g d) (g a) (g b)
  | .min d a b => .min (g d) (g a) (g b) | .max d a b => .max (g d) (g a) (g b) | .minn d a b => .minn (g d) (g a) (g b)
  | .maxn d a b => .maxn (g d) (g a) (g b) | .slt d a b => .slt (g d) (g a) (g b) | .sltn d a b => .sltn (g d) (g a) (g b)
  | .seq d a b => .seq (g d) (g a) (g b) | .sel d a b => .sel (g d) (g a) (g b) | .clz d a => .clz (g d) (g a)
  | .ctz d a => .ctz (g d) (g a) | .pop d a => .pop (g d) (g a) | .perm d a b => .perm (g d) (g a) (g b)
  | .addi d a i => .addi (g d) (g a) i | .andi d a i => .andi (g d) (g a) i | .ori d a i => .ori (g d) (g a) i
  | .xori d a i => .xori (g d) (g a) i | .shli d a n => .shli (g d) (g a) n | .shri d a n => .shri (g d) (g a) n
  | .srai d a n => .srai (g d) (g a) n | .slti d a i => .slti (g d) (g a) i | .sltni d a i => .sltni (g d) (g a) i
  | .lui d i => .lui (g d) i | .addpc d i => .addpc (g d) i
  | .bfx d a l w => .bfx (g d) (g a) l w | .bfi d a l w => .bfi (g d) (g a) l w
  | .fadd t d a b => .fadd t (g d) (g a) (g b) | .fsub t d a b => .fsub t (g d) (g a) (g b)
  | .fmul t d a b => .fmul t (g d) (g a) (g b) | .fma t d a b => .fma t (g d) (g a) (g b)
  | .fnma t d a b => .fnma t (g d) (g a) (g b) | .fdiv t d a b => .fdiv t (g d) (g a) (g b)
  | .fsqrt t d a => .fsqrt t (g d) (g a) | .fmin t d a b => .fmin t (g d) (g a) (g b)
  | .fmax t d a b => .fmax t (g d) (g a) (g b) | .fneg t d a => .fneg t (g d) (g a) | .fabs t d a => .fabs t (g d) (g a)
  | .fcmp t d a b => .fcmp t (g d) (g a) (g b) | .fcls t d a => .fcls t (g d) (g a) | .frcp t d a => .frcp t (g d) (g a)
  | .fex2 t d a => .fex2 t (g d) (g a) | .flg2 t d a => .flg2 t (g d) (g a)
  | .fcvt x y r d a => .fcvt x y r (g d) (g a) | .fcvi x y r d a => .fcvi x y r (g d) (g a)
  | .icvf x y r d a => .icvf x y r (g d) (g a)
  | .sigr d a => .sigr (g d) (g a) | .sigw d a n => .sigw (g d) (g a) n
  | .qblkI8 d a b => .qblkI8 (g d) (g a) (g b) | .qblkI4 d a b => .qblkI4 (g d) (g a) (g b)
  | .fscl d a b => .fscl (g d) (g a) (g b)
  | i => i

/-- Majors 0x01 to 0x0A and 0x1D to 0x26: what a body may hold (R259), by the word. -/
def bodyMajor (w : IWord) : Bool :=
  let m := Dec.major w
  (decide (0x01 ≤ m) && decide (m ≤ 0x0A)) || (decide (0x1D ≤ m) && decide (m ≤ 0x26))

/-- f' of R260 in replay r. -/
def stagger (lo span s r : Nat) (f : RegF) : RegF :=
  if lo ≤ f.toNat ∧ f.toNat ≤ lo + span then BitVec.ofNat 7 (lo + (f.toNat - lo + r * s) % (span + 1)) else f

def Body.stag (b : Body) (r : Nat) (f : RegF) : RegF := stagger b.lo b.span b.s r f

/-- The general register fields that a word names. -/
def wordFields (w : IWord) : List RegF :=
  match decode w with
  | .ok i => let f := form i; f.src ++ f.dst.toList
  | .error _ => []

/-- A remaining replay reads or writes field f (R261). The staggered fields repeat with a period of at most the span. -/
def Body.touches (b : Body) (f : Nat) : Bool :=
  ((b.words.drop b.word).any (fun w => (wordFields w).any (fun g => (b.stag b.replay g).toNat == f))) ||
  ((List.range (min (b.count - b.replay - 1) (b.span + 1))).any (fun j =>
    b.words.any (fun w => (wordFields w).any (fun g => (b.stag (b.replay + 1 + j) g).toNat == f))))

/-! ## Registers that are not ready (R64, R182, R261) -/

def Ctx.bound? (x : Ctx) (f : Nat) : Option Nat := (x.binds.find? (fun b => b.1 == f)).map (fun b => b.2)
def Ctx.isPort (x : Ctx) (f : Nat) : Bool := x.port && decide (104 ≤ f) && decide (f ≤ 111)
def Ctx.isCarry (x : Ctx) (f : Nat) : Bool := x.chain && decide (112 ≤ f)

/-! ## Address generators (R262 to R264) -/

def Ctx.er (x : Ctx) (e n : Nat) : Word := SMap.get x.ereg (256 * e + n) 0
def Ctx.setEr (x : Ctx) (e n : Nat) (v : Word) : Ctx := { x with ereg := SMap.put x.ereg 0 (256 * e + n) v }

def sgPtr (x : Ctx) (g : Nat) : Word := x.er 1 (0x10 + 4 * g)
def sgStep (x : Ctx) (g : Nat) : Word := x.er 1 (0x11 + 4 * g)
def sgLen (x : Ctx) (g : Nat) : Nat := bits (x.er 1 (0x12 + 4 * g)) 31 0
def sgSize (x : Ctx) (g : Nat) : Nat := 2 ^ bits (sgStep x g) 33 32

/-- The generator moves to the next element. -/
def sgNext (x : Ctx) (g : Nat) : Ctx :=
  (x.setEr 1 (0x10 + 4 * g) (sgPtr x g + ((sgStep x g).extractLsb' 0 32).signExtend 64)).setEr 1 (0x12 + 4 * g) (w64 (sgLen x g - 1))

/-- `sgend` records that generator g was used with len = 0. -/
def sgEnd (x : Ctx) (g : Nat) : Ctx := x.setEr 1 1 (x.er 1 1 ||| w64 (2 ^ g))

/-- v of n bytes extended to 64 bits. -/
def extend (v n : Nat) (signed : Bool) : Word :=
  if signed ∧ n < 8 ∧ v ≥ 2 ^ (8 * n - 1) then BitVec.ofInt 64 ((v : Int) - 2 ^ (8 * n)) else w64 v

/-! ## The memory that remaining replays may access (R261, R423) -/

/-- The bytes that a run of n elements may meet, from a pointer of context x by signed steps: those of its local store exactly, all translated memory
where it is global. -/
def runMeets (s : State) (core : Nat) (x : Ctx) (p : Word) (step : Int) (n size : Nat) (pl : Place) (m : Nat) : Bool :=
  let d : Int := step * ((n - 1 : Nat) : Int)
  match checkPtr s core x.pvbase p 1 with
  | .ok (_, .ls c off) =>
    let lo : Int := off + min 0 d
    let hi : Int := off + max 0 d + size
    (match pl with
    | .ls b a => if 0 ≤ lo ∧ hi ≤ snapBase then b == c && decide ((a : Int) < hi) && decide (lo < (a + m : Nat)) else true
    | _ => false)
  | .ok (_, .va _) => (match pl with | .hbm _ | .host _ => true | _ => false)
  | _ => false

/-- Generator g may still be used for an element at the place. -/
def genMeets (s : State) (core : Nat) (x : Ctx) (g : Nat) (pl : Place) (m : Nat) : Bool :=
  sgLen x g != 0 && runMeets s core x (sgPtr x g) ((sgStep x g).extractLsb' 0 32).toInt (sgLen x g) (sgSize x g) pl m

/-- The fields that stand for f in the remaining replays. -/
def Body.later (b : Body) (f : RegF) : List RegF :=
  (List.range (min (max 1 (b.count - b.replay)) (b.span + 1))).map (fun j => b.stag (b.replay + j) f)

/-- A word of the body writes field f in some remaining replay. -/
def Body.writes (b : Body) (f : RegF) : Bool :=
  b.words.any (fun w => match decode w with
    | .ok i => (form i).dst.any (fun d => (b.later d).contains f)
    | .error _ => false)

/-- n bytes at the pointer in a register that the body does not change; any bytes where it may change. -/
def pointerMeets (s : State) (core : Nat) (x : Ctx) (b : Body) (f : RegF) (n : Nat) (pl : Place) (m : Nat) : Bool :=
  if b.writes f || (x.bound? f.toNat).isSome || x.isPort f.toNat || x.isCarry f.toNat || x.loads.any (fun l => l.rd == f.toNat) then true
  else runMeets s core x ((s.core core).readReg x f.toNat).val 0 1 n pl m

/-- What a `qblk` of the body reads and writes (R126, R127). -/
def qblkMeets (s : State) (core : Nat) (x : Ctx) (b : Body) (w : IWord) (pl : Place) (m : Nat) : Bool :=
  match decode w with
  | .ok (.qblkI8 _ p o) => (b.later p).any (fun f => pointerMeets s core x b f 128 pl m) || (b.later o).any (fun f => pointerMeets s core x b f 32 pl m)
  | .ok (.qblkI4 _ p o) => (b.later p).any (fun f => pointerMeets s core x b f 128 pl m) || (b.later o).any (fun f => pointerMeets s core x b f 16 pl m)
  | _ => false

/-- A remaining replay may access one of m bytes at a place. -/
def replayMeets (s : State) (core : Nat) (x : Ctx) (pl : Place) (m : Nat) : Bool :=
  x.replaying && (x.binds.any (fun p => genMeets s core x p.2 pl m) ||
    (match x.body with | some b => b.words.any (fun w => qblkMeets s core x b w pl m) | none => false))

/-- A body whose replays go on may access memory: it holds a `qblk`, or the context has bound registers. -/
def Ctx.replayMem (x : Ctx) : Bool :=
  x.replaying && (!x.binds.isEmpty || (match x.body with | some b => b.words.any (fun w => Dec.major w == 0x26) | none => false))

end Sys2Proof.Machine
end

