-- ==== Sys2Proof/Machine/Access.lean ====
section
/-! DEFINITION. What a context's own accesses do at issue: counters, the range scoreboard, reads that perform in the issue slot,
the store buffer and the journal (R186, R224, R231, R244). -/

namespace Sys2Proof.Machine

/-! ## Counters (R186) -/

def Ctx.cnt (x : Ctx) : Class → Nat
  | .L => x.nL | .S => x.nS | .C => x.nC | .M => x.nM | .Q => x.nQ

def Ctx.setCnt (x : Ctx) (k : Class) (n : Nat) : Ctx :=
  match k with
  | .L => { x with nL := n } | .S => { x with nS := n } | .C => { x with nC := n } | .M => { x with nM := n }
  | .Q => { x with nQ := n }

/-- The snapshot object of a `wait` with these fields, in the positions of format W (R187, R207). -/
def waitObject (l s c m q : Nat) : Nat := l * 2 ^ 20 ||| s * 2 ^ 15 ||| c * 2 ^ 10 ||| m * 2 ^ 5 ||| q

/-- The object of a park at a full class counter: 62 in that class and 31 in the others (R207). 62 does not fit five bits; its
bits are joined at the class's place (DEDUCED, log 12). -/
def fullObject : Class → Nat
  | .L => waitObject 62 31 31 31 31 | .S => waitObject 31 62 31 31 31 | .C => waitObject 31 31 62 31 31
  | .M => waitObject 31 31 31 62 31 | .Q => waitObject 31 31 31 31 62

/-- An operation of the class issues: its counter rises, or at 63 the context parks on list 5. -/
def raiseCnt (k : Class) : M Unit := do
  let x ← M.me
  if x.cnt k ≥ 63 then M.park 5 (fullObject k) (.room k)
  else M.modMe (fun x => x.setCnt k (x.cnt k + 1))

/-- An operation of the class that is done within its issue slot waits like any other while the counter is full (R186). -/
def classRoom (k : Class) : M Unit := do
  raiseCnt k
  M.modMe (fun x => x.setCnt k (x.cnt k - 1))

def lowerCnt (s : State) (c i : Nat) (k : Class) : State := s.modCtx c i (fun x => x.setCnt k (x.cnt k - 1))

/-- An access that performs in its issue slot has the context's next order number. -/
def countAccess : M Unit := M.modMe (fun x => { x with seq := x.seq + 1 })

/-- The order number of the context's next access. -/
def nextSeq : M Nat := do
  let x ← M.me
  M.modMe (fun x => { x with seq := x.seq + 1 })
  return x.seq

/-! ## The range scoreboard (R223, R224) -/

def boardMeets (k : Core) (lo hi : Nat) (write : Bool) : Bool :=
  k.board.any (fun b => (write || b.dest) && decide (b.lo ≤ hi) && decide (lo ≤ b.hi))

/-- An access to the issuing core's own local store that overlaps a copy in flight parks on list 12. One to bytes that remaining replays may
access waits for them on list 1: they stand before it in program order (R233, R423; DEDUCED, log 24). -/
def boardCheck (l : Loc) (write : Bool) : M Unit := do
  let e ← M.env
  let x ← M.me
  let s ← M.state
  if e.replay.isNone && replayMeets s e.core x l.place l.size then M.park 1 0 (.clearOfReplays l.place l.size)
  else match l.place with
  | .ls c off =>
    if c = e.core ∧ boardMeets (s.core c) off (off + l.size - 1) write then
      M.park 12 (bits l.ptr 47 0) (.board off (off + l.size - 1) write)
    else pure ()
  | _ => pure ()

def Loc.ownLs (l : Loc) (core : Nat) : Bool := match l.place with | .ls c _ => c == core | _ => false

/-! ## Ordering of an access that would perform now (R233) -/

/-- The order number before which the acquires of the context come first: for a body word, those issued before its capture (R423). -/
def Env.base (e : Env) (x : Ctx) : Nat :=
  match e.replay, x.body with
  | some _, some b => b.seq
  | _, _ => x.seq

/-- An access of the context to the same bytes, other than a buffered store, that has not performed. -/
def sameOpen (k : Core) (x : Ctx) (pl : Place) (n : Nat) : Bool :=
  x.earlierMeets x.seq pl n || k.journal.any (fun j => j.uid == x.uid && j.place.overlaps j.size pl n)

/-- The access waits on list 1 for earlier acquires and for accesses to the same location (R233; the list: DEDUCED, log 13). -/
def mustFollow (l : Loc) : M Unit := do
  let e ← M.env
  let x ← M.me
  let k ← M.myCore
  if !acquiresDone x (e.base x) then M.park 1 0 (.acquires (e.base x))
  else if sameOpen k x l.place l.size then M.park 1 0 (.clear l.place l.size)
  else pure ()

/-- Park until every earlier access of the context has performed (R440); the wait is on list 1 (DEDUCED, log 13). -/
def waitPerformed : M Unit := do
  let x ← M.me
  let k ← M.myCore
  if !allPerformed k x x.seq then M.park 1 0 .performed else pure ()

/-! ## Reads that perform in the issue slot -/

/-- Byte pl of buffered store number i of a core as a write; its number stands above every commit count (R231). -/
def SbEntry.asWrite (b : SbEntry) (s : State) (core i : Nat) (pl : Place) : Wr :=
  { n := s.ord.commits + 1 + i, time := s.cycle, val := BitVec.ofNat 8 (overlayByte pl 0 b), gen := 0,
    by_ := .ctx b.uid core b.tenant 0 b.seq, after := [], rel := s.rels b.uid }

/-- The buffered stores of a byte that context x may read: its own with an order number below `before`, and its siblings' (R231). -/
def State.overOf (s : State) (core : Nat) (x : Ctx) (before : Nat) (pl : Place) : List Wr :=
  ((s.core core).storeBuf.mapIdx (fun i b => (i, b))).filterMap (fun (i, b) =>
    if b.place.overlaps b.size pl 1 && (b.uid != x.uid || decide (b.seq < before)) then some (b.asWrite s core i pl) else none)

/-- How context x reads: a sibling's buffered store is taken by an Early step or ignored by a Read, by free choice each time; one that the context knows
a write ordered after is not read again (R230, R231). -/
def State.ctxView (s : State) (core : Nat) (x : Ctx) (before : Nat) : View :=
  { r := s.reader x.uid, own := x.gen, bufs := s.overOf core x before }

/-- A buffered store that a read took, by its name. -/
def State.early (s : State) (e : Place × Wr) : Option (Nat × Nat) := if s.ord.commits < e.2.n then e.2.by_.key else none

/-- What a read by context x of n ≤ 8 bytes at pl returns, and what it leaves (R230, R231, R235). The context has then seen what it read; an acquire at the
scope of p merges. -/
def State.ctxRead (s : State) (core : Nat) (x : Ctx) (before : Nat) (acq : Option Parties) (pl : Place) (n : Nat) : Nat × State :=
  let r := s.viewRead (s.ctxView core x before) pl n
  let other := r.2.1.filter (fun e => match s.early e with | some b => b.1 != x.uid | none => true)
  let soon := (other.filterMap s.early).eraseDups
  let t := (r.2.2.see x.uid (other.filter (fun e => (s.early e).isNone))).gain x.uid { early := soon }
  (r.1, match acq with
    | none => t
    | some p => t.gain x.uid (s.acquired (.ctx x.uid core x.tenant 0 0) p other))

/-- One Read of at most 8 bytes in the issue slot: a stale granule reads 0 or raises 0x0A (R74). One that a buffered store of the context's own will
initialise counts as current for its other words too (DESIGN CHOICE, log 59). -/
def readAs (acq : Option Parties) (l : Loc) : M Nat := do
  mustFollow l
  let e ← M.env
  let s ← M.state
  let x ← M.me
  if s.staleTrap l.place x.gen && !granuleBuffered ((s.core e.core).storeBuf.filter (fun b => b.uid == x.uid)) l.place then
    M.trap 0x0A l.ptr 0
  else
    let r := s.ctxRead e.core x x.seq acq l.place l.size
    M.modify (fun _ => r.2)
    return r.1

def readNow (l : Loc) : M Nat := readAs none l

/-- A load of at most 8 bytes that performs in the issue slot, with every check. -/
def loadAs (acq : Option Parties) (p : Word) (size : Nat) : M Nat := do
  let (l, _) ← resolve p size .ld false
  boardCheck l false
  readAs acq l

def loadNow (p : Word) (size : Nat) : M Nat := loadAs none p size

/-- A plain load of words from a rising pointer: register images (R226). -/
def loadWords (p : Word) : Nat → M (List Word)
  | 0 => return []
  | n + 1 => do
    let v ← loadNow p 8
    let t ← loadWords (p + 8) n
    return w64 v :: t

/-- n words from one place, each a separate access (R226). -/
def readWordsAt (l : Loc) : Nat → M (List Word)
  | 0 => pure []
  | n + 1 => do
    let v ← readNow { l with size := 8 }
    let t ← readWordsAt { l with place := l.place.plus 8, ptr := l.ptr + 8 } n
    pure (w64 v :: t)

/-- A plain load of a block of n words aligned to its own size: a descriptor or a launch packet (R149, R200). -/
def loadBlock (p : Word) (n : Nat) : M (List Word) := do
  let (l, _) ← resolve p (8 * n) .ld false
  boardCheck l false
  readWordsAt l n

/-! ## Stores -/

/-- The Buffer step of a plain store (R228). -/
def bufferStore (l : Loc) (v : Word) (pair : Nat) : M Unit := do
  let e ← M.env
  let x ← M.me
  let n ← nextSeq
  let ent : SbEntry :=
    { slot := e.slot, uid := x.uid, tenant := x.tenant, seq := n, pair := pair, place := l.place, size := l.size, value := v,
      gen := x.gen }
  M.modMyCore (fun k => { k with storeBuf := k.storeBuf ++ [ent] })

/-- The first entry from n that is not in use; fewer than 64 are (the numbering of entries: DEDUCED, log 49). -/
def freeEnt (j : List JEntry) (n : Nat) : Nat → Nat
  | 0 => n % 64
  | f + 1 => if j.any (fun e => e.ent == n % 64) then freeEnt j (n + 1) f else n % 64

/-- Journal entries that results on their way will need (R264, R419). -/
def Core.promised (k : Core) : Nat := (k.ctxs.map (fun (_, x) => ((x.loads.flatMap LoadReq.stores).filter (fun a => a.rem)).length)).sum

/-- The Journal step of a posted or remote store (R244). -/
def journalStore (l : Loc) (v : Word) (rel : Bool) (pair : Nat) (susp : Bool := false) : M Unit := do
  let e ← M.env
  let x ← M.me
  let k ← M.myCore
  if k.journal.length + k.promised ≥ 64 then M.park 5 (2 ^ 25 + waitObject 31 31 31 31 31) (.journal 1)
  else
    let n ← nextSeq
    let ent : JEntry :=
      { ent := freeEnt k.journal k.jnext 64, slot := e.slot, uid := x.uid, land := x.land, tenant := x.tenant, seq := n, pair := pair,
        place := l.place, ptr := l.ptr, size := l.size, value := v, rel := rel, gen := x.gen, susp := susp }
    M.modMyCore (fun k => { k with jnext := freeEnt k.journal k.jnext 64 + 1, journal := k.journal ++ [ent] })

/-- A plain store after its checks: the journal for the remote window, else the store buffer (R209, R440). -/
def storePlain (l : Loc) (v : Word) (pair : Nat) : M Unit :=
  if l.win = .rem then journalStore l v false pair else bufferStore l v pair

/-- A result that arrives late is stored to the element that its instruction was promised (R264): it stands in the store buffer or the journal
before the context's later stores. -/
def lateStore (s : State) (c i : Nat) (a : Append) (v : Word) : State :=
  let x := s.ctx c i
  s.modCore c (fun k =>
    if a.rem then
      let ent := freeEnt k.journal k.jnext 64
      let e : JEntry :=
        { ent := ent, slot := i, uid := x.uid, land := x.land, tenant := x.tenant, seq := a.seq, pair := 0, place := a.place, ptr := a.ptr,
          size := a.size, value := v, rel := false, gen := x.gen }
      let (l, r) := k.journal.span (fun j => j.uid != x.uid || decide (j.seq < a.seq))
      { k with jnext := ent + 1, journal := l ++ e :: r }
    else
      let e : SbEntry :=
        { slot := i, uid := x.uid, tenant := x.tenant, seq := a.seq, pair := 0, place := a.place, size := a.size, value := v, gen := x.gen }
      let (l, r) := k.storeBuf.span (fun b => b.uid != x.uid || decide (b.seq < a.seq))
      { k with storeBuf := l ++ e :: r })

/-- A release store at device scope: it commits in the issue slot, once every earlier access has performed (R233, R235). -/
def storeNow (l : Loc) (v : Word) : M Unit := do
  let e ← M.env
  let x ← M.me
  M.modify (fun s => s.commit (s.byRelease e.core x.uid x.tenant x.seq .device) l.place l.size v.toNat x.gen)
  countAccess

end Sys2Proof.Machine
end

