-- ==== Sys2Proof/Machine/Operands.lean ====
section
/-! DEFINITION. Register fields as operands (R58 to R63, R170 to R179, R261 to R264): what each instruction's fields are, reads
in the order ra, rb, third source, and writes. -/

namespace Sys2Proof.Machine

/-! ## Registers that are not ready (R64, R182, R261) -/

/-- No remaining replay has still to read or write field f (R261). -/
def waitReplay (f : Nat) : M Unit := do
  let e ← M.env
  let x ← M.me
  if e.replay.isNone ∧ (match x.body with | some b => !b.stopped && b.touches f | none => false) = true then M.park 1 f .replays
  else pure ()

/-- The general register f can be read or written: no load, fill or remaining replay has still to write or use it. -/
def waitReg (f : Nat) : M Unit := do
  let x ← M.me
  if f ≠ 0 ∧ x.loads.any (fun l => l.rd == f && (match l.kind with | .smpw _ _ _ _ => true | _ => false)) then
    M.park 5 (31 * (2 ^ 20 + 2 ^ 15 + 2 ^ 10 + 2 ^ 5)) (.sampled f)
  else if f ≠ 0 ∧ x.loads.any (fun l => l.rd == f) then M.park 1 f (.reg f)
  else if x.fill.any (fun p => p.1 == f) then M.park 1 f (.fill f)
  else waitReplay f

/-! ## Port registers (R58 to R60) -/

def popPort (n : Nat) : M TVal := do
  waitReplay (104 + n)
  let x ← M.me
  match SMap.get x.rxq n [] with
  | [] => M.park 3 n (.portRx n)
  | v :: t =>
    M.modMe (fun x => { x with rxq := SMap.put x.rxq [] n t })
    return v

/-- The destination of `qdst`n may be written to now (R60). -/
def portOk (s : State) (tenant : Nat) (q : Word) : Bool :=
  let c := bits q 22 9
  q.getLsbD 23 && coreUsed c && s.inPart tenant c

/-- Words of a core that have not arrived; the depth of its send queue is a free value (R58, R61; DESIGN CHOICE, log 9). -/
def sendFull (s : State) (core : Nat) : Bool :=
  decide (Config.sendQueueDepth + 1 ≤ (s.ports.filter (fun m => m.srcCore == core)).length)

def portMsg (core tenant : Nat) (q : Word) (v : TVal) : PortMsg :=
  { srcCore := core, tenant := tenant, core := bits q 22 9, slot := bits q 5 0, queue := bits q 8 6, v := v }

def sendPort (n : Nat) (v : TVal) : M Unit := do
  waitReplay (104 + n)
  let e ← M.env
  let x ← M.me
  let s ← M.state
  let q := SMap.get x.qdst n 0
  if !portOk s x.tenant q then M.trap 0x05 0 (w64 n)
  else if sendFull s e.core then M.park 4 n .portTx
  else M.modify (fun s => { s with ports := s.ports ++ [portMsg e.core x.tenant q v] })

/-! ## Stream-bound registers (R262 to R264) -/

/-- A pop counts in L until its element is in the operand (R429). -/
def popStream (g : Nat) : M TVal := do
  let x ← M.me
  if sgLen x g = 0 then
    M.modMe (fun x => sgEnd x g)
    return TVal.int 0
  else
    let v ← loadNow (sgPtr x g) (sgSize x g)
    classRoom .L
    M.modMe (fun x => sgNext x g)
    return TVal.int (extend v (sgSize x g) ((sgStep x g).getLsbD 34))

/-- The append of an element to come: its place is checked and kept, and the generator moves on (R264); none inside where the generator is at its
end and the value will be discarded. -/
def promise (g : Nat) : M (Option Append) := do
  let x ← M.me
  if sgLen x g = 0 then
    M.modMe (fun x => sgEnd x g)
    return none
  else
    let (l, _) ← resolve (sgPtr x g) (sgSize x g) .st false
    boardCheck l true
    let k ← M.myCore
    if l.win = .rem ∧ k.journal.length + k.promised ≥ 64 then M.park 5 (2 ^ 25 + waitObject 31 31 31 31 31) (.journal 1)
    else
      raiseCnt .S
      let n ← nextSeq
      M.modMe (fun x => sgNext x g)
      return some { place := l.place, ptr := l.ptr, size := l.size, rem := l.win == .rem, seq := n }

def appendStream (g : Nat) (v : Word) : M Unit := do
  let a ← promise g
  let e ← M.env
  match a with
  | some a => M.modify (fun s => lateStore s e.core e.slot a v)
  | none => pure ()

/-! ## Carry operands (R170 to R179) -/

/-- A tag byte as it is read: counts 65 to 126 are count 0 with I (R143, R176). -/
def tagOf (b : Nat) : BitVec 7 × Bool :=
  let c := b % 128
  if 65 ≤ c ∧ c ≤ 126 then (0, true) else (BitVec.ofNat 7 c, decide (128 ≤ b))

def tval (v : Nat) (tag : Nat) : TVal := let (c, i) := tagOf tag; { val := w64 v, cnt := c, inx := i }

/-- The published slot of an item. -/
def Run.slot? (r : Run) (item slot : Nat) : Option TVal :=
  (r.carry.find? (fun (i, j, _) => i == item && j == slot)).map (fun (_, _, v) => v)

/-- The sixteen entries of a 256-byte block in the layout of R176, read by the dispatcher as supervisor accesses. -/
def readBlock (s : State) (tenant : Nat) (base : Word) : Option (List TVal) :=
  (List.range 16).mapM (fun n =>
    match sysPlace s tenant (base + w64 (8 * n)) .eread, sysPlace s tenant (base + w64 (128 + n - n % 8)) .eread with
    | .ok p, .ok q => some (tval (s.readAt p 8 0) (s.readAt (q.plus (n % 8)) 1 0))
    | _, _ => none)

/-- The writes that such a read of a block returns. -/
def blockWrs (s : State) (tenant : Nat) (base : Word) : List (Place × Wr) :=
  (List.range 16).flatMap (fun n =>
    match sysPlace s tenant (base + w64 (8 * n)) .eread, sysPlace s tenant (base + w64 (128 + n - n % 8)) .eread with
    | .ok p, .ok q => s.latest p 8 ++ s.latest (q.plus (n % 8)) 1
    | _, _ => [])

/-- The stream table entry of a run (R178): its address. -/
def streamEntry (s : State) (r : Run) : Word :=
  match s.part? r.tenant with
  | some p => p.word 1 + w64 (32 * bits (r.packet.getD 3 0) 49 34)
  | none => 0

/-- The frontiers after a read that returns these writes. -/
def seenFront (l : List (Place × Wr)) : Front := { seen := l.map (fun e => (e.1, e.2.n)) }

/-- The dispatcher's write that follows a read of the same bytes, as a release at device scope of f: it is ordered after the write that was read (R237). -/
def State.byDisp (s : State) (pl : Place) (n : Nat) (f : Front) : Commit :=
  { by_ := .disp, r := { front := seenFront (s.latest pl n) }, rel := [(.device, f)] }

/-- R179: the run's snapshot of the stream state, read once, with the writes that the read returned; none while the entry is busy or not resident, and where
the entry, its reset or the record cannot be accessed: the reader stays parked (DESIGN CHOICE, log 55). A set reset is cleared by one Atomic step on
word 1. -/
def streamRead (s : State) (r : Run) : Option (List TVal × List (Place × Wr) × State) :=
  match r.snap with
  | some l => some (l, r.snapWrs, s)
  | none =>
    let a := streamEntry s r
    match sysPlace s r.tenant a .eread with
    | .error _ => none
    | .ok p =>
      let w0 := s.readAt p 8 0
      let w1 := s.readAt (p.plus 8) 8 0
      let busy := s.readAt (p.plus 16) 8 0
      let ws := s.latest p 24
      if busy ≠ 0 ∨ w1 / 2 % 2 = 0 then none
      else if w1 % 2 = 1 then
        let l := List.replicate 16 (TVal.int 0)
        match sysPlace s r.tenant (a + 8) .atom with
        | .error _ => none
        | .ok q => some (l, ws, (s.commit (s.byDisp q 8 (s.acquiredAt .disp p 24)) q 8 (w1 - 1) 0).modRun r.uid
            (fun y => { y with snap := some l, snapWrs := ws }))
      else
        match readBlock s r.tenant (w64 w0) with
        | some l =>
          let ws := ws ++ blockWrs s r.tenant (w64 w0)
          some (l, ws, s.modRun r.uid (fun y => { y with snap := some l, snapWrs := ws }))
        | none => none

/-- Entry m (1 to 4) of slot j of the default block, read by the context as an acquire (R172, R176, R243). -/
def defaultEntry (base : Word) (m j : Nat) : M TVal := do
  if base = 0 then return TVal.int 0
  else
    let v ← loadAs (some .device) (base + w64 (8 * (4 * (m - 1) + j))) 8
    let t ← loadAs (some .device) (base + w64 (128 + 4 * (m - 1) + j)) 1
    return tval v t

/-- The read of cj^k by a context of item i, an acquire (R172, R243). Field 112 + 4(k − 1) + j names cj^k (02, register names). -/
def readCarry (f : Nat) : M TVal := do
  waitReplay f
  let x ← M.me
  let s ← M.state
  let j := (f - 112) % 4
  let k := (f - 112) / 4 + 1
  let object := j + 4 * (k - 1)
  match s.run? x.run with
  | none => return TVal.int 0
  | some r =>
    if k ≤ x.index then
      let item := x.index - k
      match r.slot? item j with
      | some v =>
        M.modify (fun s => s.gain x.uid (s.chan (.carry r.uid item j)))
        return v
      | none =>
        if r.abortedItems.contains item then M.trap 0x0C 0 (w64 (2 + 16 * j + 64 * k))
        else M.park 9 object (.carry x.run item j)
    else
      let m := k - x.index
      if !x.strm then defaultEntry (r.packet.getD 4 0) m j
      else
        match streamRead s r with
        | some (l, ws, s') =>
          let e ← M.env
          M.modify (fun _ => (s'.see x.uid ws).gain x.uid (s'.acquired (.ctx x.uid e.core x.tenant 0 0) .device ws))
          return l.getD (4 * (m - 1) + j) (TVal.int 0)
        | none => M.park 9 object (.stream x.run)

/-! ## Operands by R63 -/

/-- A stream-bound register waits for the replays, whatever it is used for (R261). -/
def waitBound (f : Nat) : M Unit := do
  let x ← M.me
  let e ← M.env
  if e.replay.isNone && x.replaying then M.park 1 f .replays else pure ()

/-- One read of a source field. -/
def readReg (f : RegF) : M TVal := do
  let x ← M.me
  if x.isPort f.toNat then popPort (f.toNat - 104)
  else if x.isCarry f.toNat then readCarry f.toNat
  else
    match x.bound? f.toNat with
    | some g => do
      waitBound f.toNat
      popStream g
    | none => do
      waitReg f.toNat
      let k ← M.myCore
      return k.readReg x f.toNat

def readVal (f : RegF) : M Word := do
  let v ← readReg f
  return v.val

/-- One write of a destination field. -/
def writeReg (f : RegF) (v : TVal) : M Unit := do
  let x ← M.me
  let e ← M.env
  if e.elect then M.modMe (fun x => { x with eout := some v }) else pure ()
  match e.dest with
  | some (some a) => M.modify (fun s => lateStore s e.core e.slot a v.val)
  | some none => pure ()
  | none =>
    if x.isPort f.toNat then sendPort (f.toNat - 104) v
    else
      match x.bound? f.toNat with
      | some g => do
        waitBound f.toNat
        appendStream g v.val
      | none => do
        waitReg f.toNat
        M.modMyCore (fun k => k.writeReg x f.toNat v)

def writeInt (f : RegF) (w : Word) : M Unit := writeReg f (TVal.int w)

/-- The destination of a result that arrives later: it is ready to become pending, a port may be written to, and a stream-bound register is promised
its element, which is what comes back. -/
def readyDest (f : RegF) : M (Option (Option Append)) := do
  let x ← M.me
  let e ← M.env
  if e.dest.isSome then return e.dest
  else if x.isPort f.toNat then
    waitReplay f.toNat
    let s ← M.state
    let n := f.toNat - 104
    if !portOk s x.tenant (SMap.get x.qdst n 0) then M.trap 0x05 0 (w64 n) else return none
  else
    match x.bound? f.toNat with
    | some g => do
      waitBound f.toNat
      let a ← promise g
      return some a
    | none => do
      waitReg f.toNat
      return none

/-- The port that a late result is to be written to refuses it (R60). -/
def portShut (s : State) (x : Ctx) (rd : Nat) (app : Option (Option Append)) : Bool :=
  app.isNone && x.isPort rd && !portOk s x.tenant (SMap.get x.qdst (rd - 104) 0)

/-- A result that arrives from outside the issue slot is written to field rd under R63, or to the element that was promised; none while a port destination
finds the send queue full. -/
def deliver (s : State) (c i rd : Nat) (app : Option (Option Append)) (v : TVal) : Option State :=
  let x := s.ctx c i
  match app with
  | some (some a) => some (lateStore s c i a v.val)
  | some none => some s
  | none =>
    if x.isPort rd then
      if sendFull s c then none
      else some { s with ports := s.ports ++ [portMsg c x.tenant (SMap.get x.qdst (rd - 104) 0) v] }
    else some (s.modCore c (fun k => k.writeReg x rd v))

end Sys2Proof.Machine
end

