-- ==== Sys2Proof/Machine/Alu.lean ====
section
/-! DEFINITION. Integer instructions (R349, R350, R351, R362, R369, R377, R403, R404, R409, R415, R417, R418, R421, R430,
R431, R433, R434, R445), pointer conversion (R211, R212) and tag access (R141). -/

namespace Sys2Proof.Machine

/-- One instruction in its issue slot, with the checks its own encoding meets. -/
def run (i : Instr) (body : M Unit) (s : State) : Host.Outcome State Fault Refusal :=
  issue (form i) ((encode i).getD 0) body s

/-! ## What each operation computes -/

/-- Signed division towards zero (R377). -/
def divS (a b : Word) : Word :=
  if b = 0 then -1 else if a = 0x8000000000000000 ∧ b = -1 then a else BitVec.ofInt 64 (a.toInt.tdiv b.toInt)
def divU (a b : Word) : Word := if b = 0 then -1 else BitVec.ofNat 64 (a.toNat / b.toNat)
def remS (a b : Word) : Word :=
  if b = 0 then a else if a = 0x8000000000000000 ∧ b = -1 then 0 else BitVec.ofInt 64 (a.toInt.tmod b.toInt)
def remU (a b : Word) : Word := if b = 0 then a else BitVec.ofNat 64 (a.toNat % b.toNat)
/-- Bits 127:64 of the exact products (R409). -/
def mulHi (a b : Word) : Word := BitVec.ofInt 64 ((a.toInt * b.toInt) >>> 64)
def mulHiU (a b : Word) : Word := BitVec.ofNat 64 ((a.toNat * b.toNat) >>> 64)
def minS (a b : Word) : Word := if a.slt b then a else b
def maxS (a b : Word) : Word := if a.slt b then b else a
def minU (a b : Word) : Word := if a.ult b then a else b
def maxU (a b : Word) : Word := if a.ult b then b else a
def ofBool (c : Bool) : Word := if c then 1 else 0
def sltW (a b : Word) : Word := ofBool (a.slt b)
def sltuW (a b : Word) : Word := ofBool (a.ult b)
def seqW (a b : Word) : Word := ofBool (a == b)
/-- The amount is the low six bits (R433). -/
def shlW (a b : Word) : Word := a <<< (b.toNat % 64)
def shrW (a b : Word) : Word := a >>> (b.toNat % 64)
def sraW (a b : Word) : Word := a.sshiftRight (b.toNat % 64)

/-- Zero bits above the highest 1 among the low n bits of a (R369). -/
def clzN (a : Word) : Nat → Nat
  | 0 => 0
  | n + 1 => if a.getLsbD n then 0 else 1 + clzN a n
/-- Zero bits from bit 64 − n up to the lowest 1. -/
def ctzN (a : Word) : Nat → Nat
  | 0 => 0
  | n + 1 => if a.getLsbD (63 - n) then 0 else 1 + ctzN a n
def popN (a : Word) : Nat → Nat
  | 0 => 0
  | n + 1 => (if a.getLsbD n then 1 else 0) + popN a n
def clzW (a : Word) : Word := w64 (clzN a 64)
def ctzW (a : Word) : Word := w64 (ctzN a 64)
def popW (a : Word) : Word := w64 (popN a 64)

/-- Byte j of `perm` (R417). -/
def permByte (a b : Word) (j : Nat) : Nat :=
  let s := bits b (8 * j + 7) (8 * j)
  if s ≥ 128 then 0 else bits a (8 * (s % 8) + 7) (8 * (s % 8))
def permW (a b : Word) : Word := w64 ((List.range 8).foldl (fun acc j => acc + permByte a b j * 256 ^ j) 0)

/-- `bfx`: bits above 63 read as 0; `bfi`: bits at or above 64 dropped (R362). -/
def bfxW (a : Word) (lo : BitVec 6) (wm1 : BitVec 5) : Word := (a >>> lo.toNat) &&& w64 (2 ^ (wm1.toNat + 1) - 1)
def bfiW (old a : Word) (lo : BitVec 6) (wm1 : BitVec 5) : Word :=
  let mask := w64 ((2 ^ (wm1.toNat + 1) - 1) * 2 ^ lo.toNat)
  (old &&& ~~~mask) ||| ((a <<< lo.toNat) &&& mask)

/-! ## Shared bodies: sources in the order ra, rb, then the destination (R13, R348) -/

def alu3 (d a b : RegF) (f : Word → Word → Word) : M Unit := do
  let x ← readVal a
  let y ← readVal b
  writeInt d (f x y)

def alu2 (d a : RegF) (f : Word → Word) : M Unit := do
  let x ← readVal a
  writeInt d (f x)

/-- With the old xd as a third source. -/
def alu4 (d a b : RegF) (f : Word → Word → Word → Word) : M Unit := do
  let x ← readVal a
  let y ← readVal b
  let z ← readVal d
  writeInt d (f x y z)

/-! ## Register forms (R87) -/

/-- R349. -/
def bodyAdd (d a b : RegF) : M Unit := alu3 d a b (fun x y => x + y)
def execAdd (d a b : RegF) (s : State) : Host.Outcome State Fault Refusal := run (.add d a b) (bodyAdd d a b) s

/-- R445. -/
def bodySub (d a b : RegF) : M Unit := alu3 d a b (fun x y => x - y)
def execSub (d a b : RegF) (s : State) : Host.Outcome State Fault Refusal := run (.sub d a b) (bodySub d a b) s

/-- R409. -/
def bodyMul (d a b : RegF) : M Unit := alu3 d a b (fun x y => x * y)
def execMul (d a b : RegF) (s : State) : Host.Outcome State Fault Refusal := run (.mul d a b) (bodyMul d a b) s

/-- R409. -/
def bodyMulh (d a b : RegF) : M Unit := alu3 d a b mulHi
def execMulh (d a b : RegF) (s : State) : Host.Outcome State Fault Refusal := run (.mulh d a b) (bodyMulh d a b) s

/-- R409. -/
def bodyMulhn (d a b : RegF) : M Unit := alu3 d a b mulHiU
def execMulhn (d a b : RegF) (s : State) : Host.Outcome State Fault Refusal := run (.mulhn d a b) (bodyMulhn d a b) s

/-- R377. -/
def bodyDiv (d a b : RegF) : M Unit := alu3 d a b divS
def execDiv (d a b : RegF) (s : State) : Host.Outcome State Fault Refusal := run (.div d a b) (bodyDiv d a b) s

/-- R377. -/
def bodyDivn (d a b : RegF) : M Unit := alu3 d a b divU
def execDivn (d a b : RegF) (s : State) : Host.Outcome State Fault Refusal := run (.divn d a b) (bodyDivn d a b) s

/-- R421. -/
def bodyRem (d a b : RegF) : M Unit := alu3 d a b remS
def execRem (d a b : RegF) (s : State) : Host.Outcome State Fault Refusal := run (.rem d a b) (bodyRem d a b) s

/-- R421. -/
def bodyRemn (d a b : RegF) : M Unit := alu3 d a b remU
def execRemn (d a b : RegF) (s : State) : Host.Outcome State Fault Refusal := run (.remn d a b) (bodyRemn d a b) s

/-- R349. -/
def bodyAnd (d a b : RegF) : M Unit := alu3 d a b (fun x y => x &&& y)
def execAnd (d a b : RegF) (s : State) : Host.Outcome State Fault Refusal := run (.and d a b) (bodyAnd d a b) s

/-- R415. -/
def bodyOr (d a b : RegF) : M Unit := alu3 d a b (fun x y => x ||| y)
def execOr (d a b : RegF) (s : State) : Host.Outcome State Fault Refusal := run (.or d a b) (bodyOr d a b) s

/-- R445. -/
def bodyXor (d a b : RegF) : M Unit := alu3 d a b (fun x y => x ^^^ y)
def execXor (d a b : RegF) (s : State) : Host.Outcome State Fault Refusal := run (.xor d a b) (bodyXor d a b) s

/-- R433. -/
def bodyShl (d a b : RegF) : M Unit := alu3 d a b shlW
def execShl (d a b : RegF) (s : State) : Host.Outcome State Fault Refusal := run (.shl d a b) (bodyShl d a b) s

/-- R433. -/
def bodyShr (d a b : RegF) : M Unit := alu3 d a b shrW
def execShr (d a b : RegF) (s : State) : Host.Outcome State Fault Refusal := run (.shr d a b) (bodyShr d a b) s

/-- R433. -/
def bodySra (d a b : RegF) : M Unit := alu3 d a b sraW
def execSra (d a b : RegF) (s : State) : Host.Outcome State Fault Refusal := run (.sra d a b) (bodySra d a b) s

/-- R404. -/
def bodyMin (d a b : RegF) : M Unit := alu3 d a b minS
def execMin (d a b : RegF) (s : State) : Host.Outcome State Fault Refusal := run (.min d a b) (bodyMin d a b) s

/-- R404. -/
def bodyMax (d a b : RegF) : M Unit := alu3 d a b maxS
def execMax (d a b : RegF) (s : State) : Host.Outcome State Fault Refusal := run (.max d a b) (bodyMax d a b) s

/-- R404. -/
def bodyMinn (d a b : RegF) : M Unit := alu3 d a b minU
def execMinn (d a b : RegF) (s : State) : Host.Outcome State Fault Refusal := run (.minn d a b) (bodyMinn d a b) s

/-- R404. -/
def bodyMaxn (d a b : RegF) : M Unit := alu3 d a b maxU
def execMaxn (d a b : RegF) (s : State) : Host.Outcome State Fault Refusal := run (.maxn d a b) (bodyMaxn d a b) s

/-- R430. -/
def bodySlt (d a b : RegF) : M Unit := alu3 d a b sltW
def execSlt (d a b : RegF) (s : State) : Host.Outcome State Fault Refusal := run (.slt d a b) (bodySlt d a b) s

/-- R430. -/
def bodySltn (d a b : RegF) : M Unit := alu3 d a b sltuW
def execSltn (d a b : RegF) (s : State) : Host.Outcome State Fault Refusal := run (.sltn d a b) (bodySltn d a b) s

/-- R430. -/
def bodySeq (d a b : RegF) : M Unit := alu3 d a b seqW
def execSeq (d a b : RegF) (s : State) : Host.Outcome State Fault Refusal := run (.seq d a b) (bodySeq d a b) s

/-- R417. -/
def bodyPerm (d a b : RegF) : M Unit := alu3 d a b permW
def execPerm (d a b : RegF) (s : State) : Host.Outcome State Fault Refusal := run (.perm d a b) (bodyPerm d a b) s

/-- R430: all three fields are read whichever operand is kept. -/
def bodySel (d a b : RegF) : M Unit := alu4 d a b (fun x y z => if x != 0 then y else z)
def execSel (d a b : RegF) (s : State) : Host.Outcome State Fault Refusal := run (.sel d a b) (bodySel d a b) s

/-- R369. -/
def bodyClz (d a : RegF) : M Unit := alu2 d a clzW
def execClz (d a : RegF) (s : State) : Host.Outcome State Fault Refusal := run (.clz d a) (bodyClz d a) s

/-- R369. -/
def bodyCtz (d a : RegF) : M Unit := alu2 d a ctzW
def execCtz (d a : RegF) (s : State) : Host.Outcome State Fault Refusal := run (.ctz d a) (bodyCtz d a) s

/-- R418. -/
def bodyPop (d a : RegF) : M Unit := alu2 d a popW
def execPop (d a : RegF) (s : State) : Host.Outcome State Fault Refusal := run (.pop d a) (bodyPop d a) s

/-! ## Immediate forms (R84, R88) -/

/-- R350. -/
def bodyAddi (d a : RegF) (imm : BitVec 12) : M Unit := alu2 d a (fun x => x + sxImm 12 imm)
def execAddi (d a : RegF) (imm : BitVec 12) (s : State) : Host.Outcome State Fault Refusal :=
  run (.addi d a imm) (bodyAddi d a imm) s

/-- R350. -/
def bodyAndi (d a : RegF) (imm : BitVec 12) : M Unit := alu2 d a (fun x => x &&& sxImm 12 imm)
def execAndi (d a : RegF) (imm : BitVec 12) (s : State) : Host.Outcome State Fault Refusal :=
  run (.andi d a imm) (bodyAndi d a imm) s

/-- R415. -/
def bodyOri (d a : RegF) (imm : BitVec 12) : M Unit := alu2 d a (fun x => x ||| sxImm 12 imm)
def execOri (d a : RegF) (imm : BitVec 12) (s : State) : Host.Outcome State Fault Refusal :=
  run (.ori d a imm) (bodyOri d a imm) s

/-- R445. -/
def bodyXori (d a : RegF) (imm : BitVec 12) : M Unit := alu2 d a (fun x => x ^^^ sxImm 12 imm)
def execXori (d a : RegF) (imm : BitVec 12) (s : State) : Host.Outcome State Fault Refusal :=
  run (.xori d a imm) (bodyXori d a imm) s

/-- R434. -/
def bodyShli (d a : RegF) (imm : BitVec 6) : M Unit := alu2 d a (fun x => x <<< imm.toNat)
def execShli (d a : RegF) (imm : BitVec 6) (s : State) : Host.Outcome State Fault Refusal :=
  run (.shli d a imm) (bodyShli d a imm) s

/-- R434. -/
def bodyShri (d a : RegF) (imm : BitVec 6) : M Unit := alu2 d a (fun x => x >>> imm.toNat)
def execShri (d a : RegF) (imm : BitVec 6) (s : State) : Host.Outcome State Fault Refusal :=
  run (.shri d a imm) (bodyShri d a imm) s

/-- R434. -/
def bodySrai (d a : RegF) (imm : BitVec 6) : M Unit := alu2 d a (fun x => x.sshiftRight imm.toNat)
def execSrai (d a : RegF) (imm : BitVec 6) (s : State) : Host.Outcome State Fault Refusal :=
  run (.srai d a imm) (bodySrai d a imm) s

/-- R431. -/
def bodySlti (d a : RegF) (imm : BitVec 11) : M Unit := alu2 d a (fun x => sltW x (sxImm 11 imm))
def execSlti (d a : RegF) (imm : BitVec 11) (s : State) : Host.Outcome State Fault Refusal :=
  run (.slti d a imm) (bodySlti d a imm) s

/-- R431. -/
def bodySltni (d a : RegF) (imm : BitVec 11) : M Unit := alu2 d a (fun x => sltuW x (sxImm 11 imm))
def execSltni (d a : RegF) (imm : BitVec 11) (s : State) : Host.Outcome State Fault Refusal :=
  run (.sltni d a imm) (bodySltni d a imm) s

/-- R403. -/
def bodyLui (d : RegF) (imm : BitVec 19) : M Unit := writeInt d (sxImm 19 imm <<< 12)
def execLui (d : RegF) (imm : BitVec 19) (s : State) : Host.Outcome State Fault Refusal := run (.lui d imm) (bodyLui d imm) s

/-- R351: PC is the address of the word itself, under a prefix and in a body too. -/
def bodyAddpc (d : RegF) (imm : BitVec 19) : M Unit := do
  let e ← M.env
  writeInt d (e.pc + sxImm 19 imm * 4)
def execAddpc (d : RegF) (imm : BitVec 19) (s : State) : Host.Outcome State Fault Refusal :=
  run (.addpc d imm) (bodyAddpc d imm) s

/-- R362. -/
def bodyBfx (d a : RegF) (lo : BitVec 6) (wm1 : BitVec 5) : M Unit := alu2 d a (fun x => bfxW x lo wm1)
def execBfx (d a : RegF) (lo : BitVec 6) (wm1 : BitVec 5) (s : State) : Host.Outcome State Fault Refusal :=
  run (.bfx d a lo wm1) (bodyBfx d a lo wm1) s

/-- R362: the old xd is read after xa. -/
def bodyBfi (d a : RegF) (lo : BitVec 6) (wm1 : BitVec 5) : M Unit := do
  let x ← readVal a
  let old ← readVal d
  writeInt d (bfiW old x lo wm1)
def execBfi (d a : RegF) (lo : BitVec 6) (wm1 : BitVec 5) (s : State) : Host.Outcome State Fault Refusal :=
  run (.bfi d a lo wm1) (bodyBfi d a lo wm1) s

/-! ## Tags (R96, R141, R435) -/

def bodySigr (d a : RegF) : M Unit := do
  let v ← readReg a
  writeInt d (w64 (v.cnt.toNat + (if v.inx then 128 else 0)))
def execSigr (d a : RegF) (s : State) : Host.Outcome State Fault Refusal := run (.sigr d a) (bodySigr d a) s

def bodySigw (d a : RegF) (n : BitVec 7) : M Unit := do
  let v ← readReg a
  writeReg d { val := v.val, cnt := n, inx := false }
def execSigw (d a : RegF) (n : BitVec 7) (s : State) : Host.Outcome State Fault Refusal := run (.sigw d a n) (bodySigw d a n) s

/-! ## Pointers (R211, R212, R375, R439) -/

/-- xa passes steps 1 to 4 of R208 for a 1-byte access by the context. -/
def ptrValid (s : State) (core : Nat) (pv p : Word) : Bool := match checkPtr s core pv p 1 with | .ok _ => true | .error _ => false

def isPeer (p : Word) : Bool := bits p 63 56 == 0 && p.getLsbD 51

def execSpc (d a : RegF) (s : State) : Host.Outcome State Fault Refusal :=
  run (.spc d a) (do
    let p ← readVal a
    let e ← M.env
    let x ← M.me
    let s ← M.state
    writeInt d (w64 (bits p 63 56 + (if ptrValid s e.core x.pvbase p then 256 else 0) + (if isPeer p then 512 else 0)))) s

/-- The source must lie in one of the accepted windows, or in the target window, and the result must be valid; else 0. -/
def convert (d a : RegF) (target : Nat) (src : List Nat) (f : Nat → Ctx → Word → Word) : M Unit := do
  let p ← readVal a
  let e ← M.env
  let x ← M.me
  let s ← M.state
  let w := bits p 63 56
  let r := if w = target then p else f e.core x p
  if (w = target ∨ src.contains w) ∧ ptrValid s e.core x.pvbase r then writeInt d r else writeInt d 0

/-- Where pvbase.base + xa[23:0] does not fit [19:0], its upper bits stand in [41:20], so that the result is not valid (DESIGN CHOICE, log 56). -/
def execCvspLoc (d a : RegF) (s : State) : Host.Outcome State Fault Refusal :=
  run (.cvspLoc d a) (convert d a 0xF2 [0xF1] (fun core x p =>
    w64 (0xF2 * 2 ^ 56 + core * 2 ^ 42 + bits x.pvbase 19 0 + bits p 23 0))) s
def execCvspSq (d a : RegF) (s : State) : Host.Outcome State Fault Refusal :=
  run (.cvspSq d a) (convert d a 0xF3 [0xF2, 0xF4] (fun _ _ p => setBits p 63 56 0xF3)) s
def execCvspRem (d a : RegF) (s : State) : Host.Outcome State Fault Refusal :=
  run (.cvspRem d a) (convert d a 0xF4 [0xF2, 0xF3] (fun _ _ p => setBits p 63 56 0xF4)) s

end Sys2Proof.Machine
end

