-- ==== Sys2Proof/Machine/Float.lean ====
section
/-! DEFINITION. Floating-point formats and exact arithmetic rounded once (R107 to R117). -/

namespace Sys2Proof.Machine

/-- A format: fraction bits, exponent bits, bias, and whether the top exponent is reserved (R107). p = mant + 1. -/
structure Fmt where
  mant : Nat
  ebits : Nat
  bias : Nat
  ieee : Bool
  deriving DecidableEq, Repr

def Fmt.p (f : Fmt) : Nat := f.mant + 1
def Fmt.width (f : Fmt) : Nat := 1 + f.ebits + f.mant
def f64 : Fmt := { mant := 52, ebits := 11, bias := 1023, ieee := true }
def f32 : Fmt := { mant := 23, ebits := 8, bias := 127, ieee := true }
def f16 : Fmt := { mant := 10, ebits := 5, bias := 15, ieee := true }
def b16 : Fmt := { mant := 7, ebits := 8, bias := 127, ieee := true }
def e4m3 : Fmt := { mant := 3, ebits := 4, bias := 7, ieee := false }
def e5m2 : Fmt := { mant := 2, ebits := 5, bias := 15, ieee := true }

def fmtOf : FpFmt → Fmt
  | .f64 => f64 | .f32 => f32 | .f16 => f16 | .b16 => b16 | .e4m3 => e4m3 | .e5m2 => e5m2
/-- Format and lanes of an arithmetic type (R110). -/
def typeFmt : FpType → Fmt
  | .f64 => f64 | .f32 | .f32x2 => f32 | .f16 | .f16x4 => f16 | .b16 | .b16x4 => b16
def typeLanes : FpType → Nat
  | .f32x2 => 2 | .f16x4 | .b16x4 => 4 | _ => 1

/-- The exponent of the smallest subnormal, Emin_sub. -/
def Fmt.eminSub (f : Fmt) : Int := 1 - (f.bias : Int) - f.mant
/-- The exponent of the smallest normal value. -/
def Fmt.emin (f : Fmt) : Int := 1 - (f.bias : Int)
def Fmt.topE (f : Fmt) : Nat := 2 ^ f.ebits - 1
def Fmt.signBit (f : Fmt) (neg : Bool) : Nat := if neg then 2 ^ (f.ebits + f.mant) else 0
/-- DefaultNaN(F). -/
def Fmt.nan (f : Fmt) : Nat := if f.ieee then f.topE * 2 ^ f.mant + 2 ^ (f.mant - 1) else f.topE * 2 ^ f.mant + (2 ^ f.mant - 1)
/-- ±∞; E4M3 has none. -/
def Fmt.inf (f : Fmt) (neg : Bool) : Nat := f.signBit neg + f.topE * 2 ^ f.mant
/-- The largest finite value's encoding. -/
def Fmt.maxFin (f : Fmt) (neg : Bool) : Nat :=
  f.signBit neg + (if f.ieee then f.topE * 2 ^ f.mant - 1 else f.topE * 2 ^ f.mant + (2 ^ f.mant - 2))

/-- What a bit pattern encodes: NaN, ±∞, or (−1)^neg × m × 2^e (m = 0 for a zero). -/
inductive FVal where
  | nan (signalling : Bool)
  | inf (neg : Bool)
  | fin (neg : Bool) (m : Nat) (e : Int)
  deriving DecidableEq, Repr

/-- Val(F, b). -/
def Fmt.dec (f : Fmt) (b : Nat) : FVal :=
  let fr := b % 2 ^ f.mant
  let ex := b / 2 ^ f.mant % 2 ^ f.ebits
  let neg := b / 2 ^ (f.mant + f.ebits) % 2 == 1
  if f.ieee && ex == f.topE then
    -- every NaN of E5M2 counts as quiet (R108)
    (if fr = 0 then .inf neg else .nan (f.mant != 2 && fr / 2 ^ (f.mant - 1) == 0))
  else if !f.ieee && ex == f.topE && fr == 2 ^ f.mant - 1 then .nan false
  else if ex = 0 then .fin neg fr f.eminSub
  else .fin neg (2 ^ f.mant + fr) ((ex : Int) - f.bias - f.mant)

def FVal.isNan : FVal → Bool | .nan _ => true | _ => false
def FVal.isSnan : FVal → Bool | .nan s => s | _ => false
def FVal.isInf : FVal → Bool | .inf _ => true | _ => false
def FVal.isZero : FVal → Bool | .fin _ m _ => m == 0 | _ => false
def FVal.neg : FVal → Bool | .inf n => n | .fin n _ _ => n | .nan _ => false
/-- Exp(x) = ⌊log2 |x|⌋ of a finite non-zero value. -/
def FVal.exp : FVal → Int | .fin _ m e => (Nat.log2 m : Int) + e | _ => 0

/-- Flags of R112. -/
def NX : Nat := 1
def UF : Nat := 2
def OF : Nat := 4
def DZ : Nat := 8
def NV : Nat := 16

/-- fround.mode and the rounding field (R95, R111). -/
inductive Mode where
  | rne | rtz | rup | rdn
  deriving DecidableEq, Repr

def modeOf (n : Nat) : Mode := match n % 4 with | 0 => .rne | 1 => .rtz | 2 => .rup | _ => .rdn

/-- An exact non-zero magnitude num / den × 2^e. -/
structure Mag where
  num : Nat
  den : Nat
  e : Int
  deriving DecidableEq, Repr

/-- (num, den) of the magnitude divided by 2^q. -/
def Mag.scaled (x : Mag) (q : Int) : Nat × Nat :=
  let k := x.e - q
  if k ≥ 0 then (x.num <<< k.toNat, x.den) else (x.num, x.den <<< (-k).toNat)

/-- Exp of the exact magnitude. -/
def Mag.exp (x : Mag) : Int :=
  let k : Int := (Nat.log2 x.num : Int) - Nat.log2 x.den
  let (n, d) := ({ x with e := 0 } : Mag).scaled k
  if n ≥ d then k + x.e else k - 1 + x.e

/-- n / d to an integer by the mode, for a value of sign `neg`; and whether it was exact (RoundInt). -/
def roundQuot (mode : Mode) (neg : Bool) (n d : Nat) : Nat × Bool :=
  let q := n / d
  let r := n % d
  if r = 0 then (q, true)
  else
    let up := match mode with
      | .rne => decide (2 * r > d) || (2 * r == d && q % 2 == 1)
      | .rtz => false
      | .rup => !neg
      | .rdn => neg
    (if up then q + 1 else q, false)

/-- A rounded result: encoding, flags, whether the rounding was inexact. -/
structure Rounded where
  bits : Nat
  flags : Nat
  inexact : Bool
  deriving DecidableEq, Repr

/-- The overflowed result of a mode (R113). -/
def overflow (f : Fmt) (mode : Mode) (neg : Bool) : Nat :=
  let toInf := match mode with
    | .rne => true | .rtz => false | .rup => !neg | .rdn => neg
  if f.ieee && toInf then f.inf neg else f.maxFin neg

/-- The encoding of n × 2^q with n at most p bits and q at least Emin_sub. -/
def encodeFin (f : Fmt) (neg : Bool) (n : Nat) (q : Int) : Nat :=
  if n < 2 ^ f.mant then f.signBit neg + n
  else f.signBit neg + ((q + f.mant + f.bias).toNat) * 2 ^ f.mant + (n - 2 ^ f.mant)

/-- Round(x, F, mode) of a non-zero magnitude (R113, R115, R117). `sticky` says the exact value is not the magnitude given but
one that rounds as it does and is inexact. -/
def roundMag (f : Fmt) (mode : Mode) (neg : Bool) (x : Mag) (sticky : Bool) : Rounded :=
  let ex := x.exp
  -- with an unbounded exponent: tininess and overflow
  let q0 := ex - f.mant
  let (n0, d0) := x.scaled q0
  let (m0, _) := roundQuot mode neg n0 d0
  let e0 := if m0 = 2 ^ f.p then ex + 1 else ex
  let maxE : Int := if f.ieee then f.topE - 1 - f.bias else f.topE - f.bias
  let tooBig := decide (e0 > maxE) || (!f.ieee && decide (e0 = maxE) && decide (m0 > 2 ^ f.p - 2) && m0 != 2 ^ f.p)
  if tooBig then { bits := overflow f mode neg, flags := OF ||| NX, inexact := true }
  else
    let q := max q0 f.eminSub
    let (n, d) := x.scaled q
    let (m, exact1) := roundQuot mode neg n d
    let inexact := !exact1 || sticky
    let (m, q) := if m = 2 ^ f.p then (2 ^ f.mant, q + 1) else (m, q)
    let tiny := decide (e0 < f.emin)
    { bits := encodeFin f neg m q
      flags := (if inexact then NX else 0) ||| (if tiny && inexact then UF else 0)
      inexact := inexact }

/-- Round of an integer times a power of two, with the sign of an exact zero given. -/
def roundInt (f : Fmt) (mode : Mode) (v : Int) (e : Int) (zeroNeg : Bool) : Rounded :=
  if v = 0 then { bits := f.signBit zeroNeg, flags := 0, inexact := false }
  else roundMag f mode (decide (v < 0)) { num := v.natAbs, den := 1, e := e } false

/-- ⌊√n⌋ bit by bit from bit b down. -/
def isqrtAux (n r : Nat) : Nat → Nat
  | 0 => r
  | b + 1 => let t := r + 2 ^ b; isqrtAux n (if t * t ≤ n then t else r) b

def isqrt (n : Nat) : Nat := isqrtAux n 0 (Nat.log2 n / 2 + 1)

/-- A magnitude that rounds as √(m × 2^e) does in every format and mode: 70 or more bits and a sticky bit below them. -/
def sqrtMag (m : Nat) (e : Int) : Mag × Bool :=
  let (m, e) := if e % 2 = 0 then (m, e) else (2 * m, e - 1)
  let k := 160
  let n := m <<< (2 * k)
  let s := isqrt n
  if s * s = n then ({ num := s, den := 1, e := e / 2 - k }, false)
  else ({ num := 2 * s + 1, den := 1, e := e / 2 - k - 1 }, true)

/-- (−1)^neg × m. -/
def signed (neg : Bool) (m : Nat) : Int := if neg then -(m : Int) else m

/-- a × 2^(e − q) for e ≥ q. -/
def alignTo (v : Int) (e q : Int) : Int := v * 2 ^ (e - q).toNat

end Sys2Proof.Machine
end

