-- ==== Sys2Proof/Machine/Transc.lean ====
section
/-! DEFINITION. Correctly rounded 2^x, log2 x, ln x and e^x (R113, R271, R300): rational bounds at growing precision until
both round alike. The functions of an argument where the exact value is no rational are never exact, so the loop ends; its
fuel bounds the precision at 4,096 bits (DESIGN CHOICE, log 16). -/

namespace Sys2Proof.Machine

/-- Bounds (lo, hi) of a real, scaled by 2^n. -/
abbrev Bounds := Int × Int

def cdiv (a b : Int) : Int := -((-a) / b)

/-- Σ_{k ≥ 1} 1/(k 2^k) = ln 2, scaled by 2^n: the lower sum of n + 8 terms; the upper adds one unit a term and the tail. -/
def ln2Sum (n : Nat) : Nat → Nat
  | 0 => 0
  | k + 1 => ln2Sum n k + 2 ^ n / ((k + 1) * 2 ^ (k + 1))

def ln2B (n : Nat) : Bounds :=
  let s := ln2Sum n (n + 8)
  (s, s + n + 10)

/-- Terms of e^y for 0 ≤ y < 1: (sum, last term), rounding down or up. -/
def expDown (n : Nat) (y : Nat) : Nat → Nat × Nat
  | 0 => (2 ^ n, 2 ^ n)
  | k + 1 => let (s, t) := expDown n y k; let t' := t * y / ((k + 1) * 2 ^ n); (s + t', t')
def expUp (n : Nat) (y : Nat) : Nat → Nat × Nat
  | 0 => (2 ^ n, 2 ^ n)
  | k + 1 => let (s, t) := expUp n y k; let t' := t * y / ((k + 1) * 2 ^ n) + 1; (s + t', t')

/-- e^y for bounds 0 ≤ y < 1. -/
def expB (n : Nat) (y : Bounds) : Bounds :=
  let k := n / 2 + 12
  let (lo, _) := expDown n y.1.toNat k
  let (hi, t) := expUp n y.2.toNat k
  (lo, hi + 2 * t + 2)

/-- Odd powers of z: Σ z^(2k+1)/(2k+1), rounding down or up; the state is (sum, power). -/
def atanhDown (n z2 z : Nat) : Nat → Nat × Nat
  | 0 => (0, z)
  | k + 1 => let (s, p) := atanhDown n z2 z k; (s + p / (2 * k + 1), p * z2 / 2 ^ n)
def atanhUp (n z2 z : Nat) : Nat → Nat × Nat
  | 0 => (0, z)
  | k + 1 => let (s, p) := atanhUp n z2 z k; (s + p / (2 * k + 1) + 1, p * z2 / 2 ^ n + 1)

/-- ln(num/den) for 1 ≤ num/den ≤ 2: twice the series of z = (num − den)/(num + den) ≤ 1/3. -/
def lnUnitB (n num den : Nat) : Bounds :=
  let zl := ((num - den) <<< n) / (num + den)
  let zh := zl + 1
  let k := n / 3 + 10
  let (lo, _) := atanhDown n (zl * zl / 2 ^ n) zl k
  let (hi, p) := atanhUp n (zh * zh / 2 ^ n + 1) zh k
  (2 * lo, 2 * (hi + 2 * p + 2))

/-- Rounds a non-zero real given by its bounds: none while the bounds do not decide. -/
def roundB (f : Fmt) (mode : Mode) (n : Nat) (b : Bounds) : Option Rounded :=
  let one := fun (v : Int) => roundMag f mode (decide (v < 0)) { num := v.natAbs, den := 1, e := -(n : Int) } true
  if b.1 > 0 ∨ b.2 < 0 then
    let lo := one b.1
    let hi := one b.2
    if lo = hi then some lo else none
  else none

/-- Doubles the precision until the bounds decide. -/
def zivLoop (f : Fmt) (mode : Mode) (approx : Nat → Bounds) (n : Nat) : Nat → Rounded
  | 0 => (roundB f mode n ((approx n).1, (approx n).1)).getD { bits := 0, flags := NX, inexact := true }
  | k + 1 =>
    match roundB f mode n (approx n) with
    | some r => r
    | none => zivLoop f mode approx (2 * n) k

def ziv (f : Fmt) (mode : Mode) (approx : Nat → Bounds) : Rounded := zivLoop f mode approx 128 5

/-- Exp of a real given by bounds that decide its first bits: from the lower magnitude at 512 bits. -/
def expOfB (n : Nat) (b : Bounds) : Int :=
  let v := if b.1 > 0 then b.1.toNat else (-b.2).toNat
  (Nat.log2 v : Int) - n

/-- 2^x of x = v × 2^e with 2^−70 ≤ |x| < 2^20 and x no integer: bounds scaled by 2^n before the factor 2^i, and i = ⌊x⌋. -/
def exp2Frac (v e : Int) (n : Nat) : Bounds :=
  -- e < 0 here: x = v / 2^k
  let k := (-e).toNat
  let fr := (v % 2 ^ k).toNat
  let l := ln2B n
  expB n (((fr : Int) * l.1) / 2 ^ k, cdiv ((fr : Int) * l.2) (2 ^ k))

/-- 2^x rounded (R380): exact for an integer x; far outside every format's range a stand-in of the same rounding. -/
def exp2Round (f : Fmt) (mode : Mode) (neg : Bool) (m : Nat) (e : Int) : Rounded :=
  let v := signed neg m
  let ex : Int := (Nat.log2 m : Int) + e
  if ex ≥ 20 then roundMag f mode false { num := 1, den := 1, e := if neg then -1048576 else 1048576 } true
  else if ex < -70 then
    roundMag f mode false { num := if neg then 2 ^ 80 - 1 else 2 ^ 80 + 1, den := 1, e := -80 } true
  else if e ≥ 0 then roundMag f mode false { num := 1, den := 1, e := v * 2 ^ e.toNat } false
  else
    let k := (-e).toNat
    let i := v / 2 ^ k
    if v % 2 ^ k = 0 then roundMag f mode false { num := 1, den := 1, e := i } false
    else
      -- the factor 2^i enters as an exponent
      let one := fun (n : Nat) (w : Int) => roundMag f mode false { num := w.natAbs, den := 1, e := i - n } true
      let rec go (n : Nat) : Nat → Rounded
        | 0 => one n (exp2Frac v e n).1
        | t + 1 =>
          let b := exp2Frac v e n
          let lo := one n b.1
          if lo = one n b.2 then lo else go (2 * n) t
      go 128 5

/-- x = m × 2^e as mantissa in [1, 2) and exponent: (num, den, exponent). -/
def mantissa (m : Nat) (e : Int) : Nat × Nat × Int :=
  let k := Nat.log2 m
  (m, 2 ^ k, (k : Int) + e)

/-- log2 of m × 2^e, m no power of two: bounds scaled by 2^n. -/
def log2B (m : Nat) (e : Int) (n : Nat) : Bounds :=
  let (num, den, i) := mantissa m e
  let a := lnUnitB n num den
  let l := ln2B n
  (i * 2 ^ n + (a.1 * 2 ^ n) / l.2, i * 2 ^ n + cdiv (a.2 * 2 ^ n) l.1)

def isPow2 (m : Nat) : Bool := 2 ^ Nat.log2 m == m

/-- log2 rounded, of a positive finite value, and Exp of the exact result (none for 0). -/
def log2Round (f : Fmt) (mode : Mode) (m : Nat) (e : Int) : Rounded × Option Int :=
  if isPow2 m then
    let i : Int := (Nat.log2 m : Int) + e
    (roundInt f mode i 0 false, if i = 0 then none else some (Nat.log2 i.natAbs))
  else (ziv f mode (log2B m e), some (expOfB 512 (log2B m e 512)))

/-- ln of a positive rational num/den × 2^e: bounds scaled by 2^n. -/
def lnB (num den : Nat) (e : Int) (n : Nat) : Bounds :=
  let x : Mag := { num := num, den := den, e := 0 }
  let k := x.exp
  let (a, b) := x.scaled k
  let u := lnUnitB n a b
  let l := ln2B n
  let i := k + e
  if i ≥ 0 then (u.1 + i * l.1, u.2 + i * l.2) else (u.1 + i * l.2, u.2 + i * l.1)

/-- e^y for a dyadic y = v × 2^e of any sign, |y| < 2^12: y = j ln 2 + r with 0 ≤ r < 1 (r may pass ln 2 by the slack of j).
Bounds (scaled by 2^n) and the power of two j. -/
def expDyadic (v e : Int) (n : Nat) : Bounds × Int :=
  let y : Int := if e ≥ 0 then v * 2 ^ (e.toNat + n) else (v * 2 ^ n) / 2 ^ (-e).toNat
  let yh : Int := if e ≥ 0 then y else cdiv (v * 2 ^ n) (2 ^ (-e).toNat)
  let l := ln2B n
  let j := y / l.2
  let (jl, jh) := if j ≥ 0 then (j * l.1, j * l.2) else (j * l.2, j * l.1)
  (expB n (max 0 (y - jh), yh - jl), j)

end Sys2Proof.Machine
end

