-- ==== Sys2Proof/Machine/Flags.lean ====
section
/-! DEFINITION. Flags, special operands and significance counts of the floating-point operations (R112 to R114, R131 to R139). -/

namespace Sys2Proof.Machine

/-! ## Effective counts (R131) -/

def effCount (c p : Nat) : Nat := if c = 127 then p else min c p

/-- One lane of an operand: its value, its bits, its effective count. -/
structure Opd where
  v : FVal
  b : Nat
  s : Nat
  deriving DecidableEq, Repr

/-- w = Exp(x) − s + 1. -/
def Opd.w (o : Opd) : Int := o.v.exp - o.s + 1

/-! ## Count rules (R132) -/

def capNat (i : Int) (p : Nat) : Nat := min p i.toNat

/-- The rule of `fadd`: terms are (exponent, count), none for a zero term; er is none for an exact zero. -/
def addCount (p : Nat) (terms : List (Option Int × Nat)) (er : Option Int) : Nat :=
  let cap := terms.foldl (fun c (t, s) => if t.isNone then min c s else c) p
  let ws := terms.filterMap (fun (t, s) => t.map (fun e => e - (s : Int) + 1))
  match ws, er with
  | w :: ws, some er => min cap (capNat (er - ws.foldl max w + 1) p)
  | _, _ => cap

/-- The last steps of R132: the cap at p, and at Exp(result) − Emin_sub + 1 for a subnormal result. -/
def subCap (f : Fmt) (res : Nat) (n : Nat) : Nat :=
  match f.dec res with
  | .fin _ m e => if m ≠ 0 ∧ m < 2 ^ f.mant then min n (((Nat.log2 m : Int) + e) - f.eminSub + 1).toNat else n
  | _ => n

/-- A lane's result with its flags, count, and whether it was inexact. -/
structure Lane where
  bits : Nat
  flags : Nat
  cnt : Nat
  inexact : Bool
  deriving DecidableEq, Repr

/-- Count(class, operands, result): `rule` is the class rule of a finite non-zero exact result. -/
def countOf (f : Fmt) (ops : List Opd) (res : Nat) (rule : Nat) : Nat :=
  match f.dec res with
  | .nan _ => 0
  | .fin _ 0 _ => if ops.all (fun o => o.s == f.p) then f.p else 0
  | .inf _ =>
    match (ops.filter (fun o => o.v.isInf)).map (fun o => o.s) with
    | [] => min f.p rule
    | c :: t => t.foldl min c
  | _ => subCap f res (min f.p rule)

def lane (f : Fmt) (ops : List Opd) (r : Rounded) (rule : Nat) : Lane :=
  { bits := r.bits, flags := r.flags, cnt := countOf f ops r.bits rule, inexact := r.inexact }

def exactBits (b flags : Nat) : Rounded := { bits := b, flags := flags, inexact := false }

/-- A NaN result: the default NaN, count 0, NV when the case is invalid or an operand signals (R108, R114). -/
def nanLane (f : Fmt) (ops : List Opd) (invalid : Bool) : Lane :=
  { bits := f.nan, flags := if invalid || ops.any (fun o => o.v.isSnan) then NV else 0, cnt := 0, inexact := false }

/-! ## Addition, product and fused product (R113, R114) -/

/-- The exact sum of two dyadics, rounded; a zero sum of opposite signs is −0 in RDN only. -/
def sumRound (f : Fmt) (mode : Mode) (n1 : Bool) (m1 : Nat) (e1 : Int) (n2 : Bool) (m2 : Nat) (e2 : Int) :
    Rounded × Option Int :=
  let q := min e1 e2
  let v := alignTo (signed n1 m1) e1 q + alignTo (signed n2 m2) e2 q
  let zeroNeg := if n1 == n2 then n1 else mode == .rdn
  (roundInt f mode v q zeroNeg, if v = 0 then none else some ((Nat.log2 v.natAbs : Int) + q))

def opt (m : Nat) (e : Int) : Option Int := if m = 0 then none else some ((Nat.log2 m : Int) + e)

def addLane (f : Fmt) (mode : Mode) (flip : Bool) (a b : Opd) : Lane :=
  let ops := [a, b]
  match a.v, b.v with
  | .nan _, _ | _, .nan _ => nanLane f ops false
  | .inf n, .inf m => if n = (m != flip) then lane f ops (exactBits (f.inf n) 0) 0 else nanLane f ops true
  | .inf n, _ => lane f ops (exactBits (f.inf n) 0) 0
  | _, .inf m => lane f ops (exactBits (f.inf (m != flip)) 0) 0
  | .fin n1 m1 e1, .fin n2 m2 e2 =>
    let (r, er) := sumRound f mode n1 m1 e1 (n2 != flip) m2 e2
    lane f ops r (addCount f.p [(opt m1 e1, a.s), (opt m2 e2, b.s)] er)

def mulLane (f : Fmt) (mode : Mode) (a b : Opd) : Lane :=
  let ops := [a, b]
  match a.v, b.v with
  | .nan _, _ | _, .nan _ => nanLane f ops false
  | .inf n, y => if y.isZero then nanLane f ops true else lane f ops (exactBits (f.inf (n != y.neg)) 0) 0
  | x, .inf m => if x.isZero then nanLane f ops true else lane f ops (exactBits (f.inf (m != x.neg)) 0) 0
  | .fin n1 m1 e1, .fin n2 m2 e2 =>
    lane f ops (roundInt f mode (signed (n1 != n2) (m1 * m2)) (e1 + e2) (n1 != n2)) (min a.s b.s)

/-- ±(a × b) + d: the product is exact; 0 × ∞ is invalid whatever d is. -/
def fmaLane (f : Fmt) (mode : Mode) (negate : Bool) (a b d : Opd) : Lane :=
  let ops := [a, b, d]
  let pneg := (a.v.neg != b.v.neg) != negate
  let zeroInf := (a.v.isZero && b.v.isInf) || (a.v.isInf && b.v.isZero)
  if zeroInf then nanLane f ops true
  else if a.v.isNan || b.v.isNan || d.v.isNan then nanLane f ops false
  else if a.v.isInf || b.v.isInf then
    (match d.v with
    | .inf m => if m = pneg then lane f ops (exactBits (f.inf pneg) 0) 0 else nanLane f ops true
    | _ => lane f ops (exactBits (f.inf pneg) 0) 0)
  else
    match a.v, b.v, d.v with
    | .fin _ m1 e1, .fin _ m2 e2, .fin n3 m3 e3 =>
      let (r, er) := sumRound f mode pneg (m1 * m2) (e1 + e2) n3 m3 e3
      lane f ops r (addCount f.p [(opt (m1 * m2) (e1 + e2), min a.s b.s), (opt m3 e3, d.s)] er)
    | _, _, .inf m => lane f ops (exactBits (f.inf m) 0) 0
    | _, _, _ => nanLane f ops true

def divLane (f : Fmt) (mode : Mode) (a b : Opd) : Lane :=
  let ops := [a, b]
  let neg := a.v.neg != b.v.neg
  match a.v, b.v with
  | .nan _, _ | _, .nan _ => nanLane f ops false
  | .inf _, .inf _ => nanLane f ops true
  | .inf _, _ => lane f ops (exactBits (f.inf neg) 0) 0
  | _, .inf _ => lane f ops (exactBits (f.signBit neg) 0) 0
  | .fin _ m1 e1, .fin _ m2 e2 =>
    if m2 = 0 then
      (if m1 = 0 then nanLane f ops true else lane f ops (exactBits (f.inf neg) DZ) (min a.s b.s))
    else if m1 = 0 then lane f ops (exactBits (f.signBit neg) 0) 0
    else lane f ops (roundMag f mode neg { num := m1, den := m2, e := e1 - e2 } false) (min a.s b.s)

/-- 1 / a: only xa's count enters (R132). -/
def rcpLane (f : Fmt) (mode : Mode) (a : Opd) : Lane :=
  let ops := [a]
  match a.v with
  | .nan _ => nanLane f ops false
  | .inf n => lane f ops (exactBits (f.signBit n) 0) 0
  | .fin n m e =>
    if m = 0 then lane f ops (exactBits (f.inf n) DZ) a.s
    else lane f ops (roundMag f mode n { num := 1, den := m, e := -e } false) a.s

def sqrtLane (f : Fmt) (mode : Mode) (a : Opd) : Lane :=
  let ops := [a]
  match a.v with
  | .nan _ => nanLane f ops false
  | .inf n => if n then nanLane f ops true else lane f ops (exactBits (f.inf false) 0) 0
  | .fin n m e =>
    if m = 0 then lane f ops (exactBits (f.signBit n) 0) 0
    else if n then nanLane f ops true
    else let (x, st) := sqrtMag m e; lane f ops (roundMag f mode false x st) (a.s + 1)

def ex2Lane (f : Fmt) (mode : Mode) (a : Opd) : Lane :=
  let ops := [a]
  match a.v with
  | .nan _ => nanLane f ops false
  | .inf n => if n then lane f ops (exactBits 0 0) 0 else lane f ops (exactBits (f.inf false) 0) 0
  | .fin n m e =>
    if m = 0 then lane f ops (exactBits (roundInt f mode 1 0 false).bits 0) a.s
    else lane f ops (exp2Round f mode n m e) (-a.w).toNat

def lg2Lane (f : Fmt) (mode : Mode) (a : Opd) : Lane :=
  let ops := [a]
  match a.v with
  | .nan _ => nanLane f ops false
  | .inf n => if n then nanLane f ops true else lane f ops (exactBits (f.inf false) 0) 0
  | .fin n m e =>
    if m = 0 then lane f ops (exactBits (f.inf true) DZ) a.s
    else if n then nanLane f ops true
    else
      let (r, er) := log2Round f mode m e
      lane f ops r (match er with | some er => (er + a.s).toNat | none => f.p)

/-! ## Selection, sign, comparison and class (R382 to R384) -/

/-- a < b of two numbers, −0 below +0 when `zeros`. -/
def fltLt (zeros : Bool) (a b : FVal) : Bool :=
  match a, b with
  | .inf n, .inf m => n && !m
  | .inf n, _ => n
  | _, .inf m => !m
  | .fin n1 m1 e1, .fin n2 m2 e2 =>
    if m1 = 0 ∧ m2 = 0 then zeros && n1 && !n2
    else let q := min e1 e2; decide (alignTo (signed n1 m1) e1 q < alignTo (signed n2 m2) e2 q)
  | _, _ => false

def minmaxLane (f : Fmt) (big : Bool) (a b : Opd) : Lane :=
  let fl := if a.v.isSnan || b.v.isSnan then NV else 0
  let pick := fun (o : Opd) => ({ bits := o.b, flags := fl, cnt := o.s, inexact := false } : Lane)
  if a.v.isNan && b.v.isNan then { bits := f.nan, flags := fl, cnt := 0, inexact := false }
  else if a.v.isNan then pick b
  else if b.v.isNan then pick a
  else if (if big then fltLt true a.v b.v else fltLt true b.v a.v) then pick b else pick a

def cmpNibble (a b : Opd) : Nat × Nat :=
  let fl := if a.v.isSnan || b.v.isSnan then NV else 0
  if a.v.isNan || b.v.isNan then (8, fl)
  else if fltLt false a.v b.v then (1, fl) else if fltLt false b.v a.v then (4, fl) else (2, fl)

def clsBits (f : Fmt) (a : Opd) : Nat :=
  match a.v with
  | .nan s => if s then 256 else 512
  | .inf n => if n then 1 else 128
  | .fin n m _ =>
    if m = 0 then (if n then 8 else 16)
    else if m < 2 ^ f.mant then (if n then 4 else 32)
    else if n then 2 else 64

/-! ## Writing a floating-point result (R134, R139, R381) -/

/-- The threshold test of R139 on the count that would be written. -/
def threshold (sigmin cnt : Nat) (ops : List Nat) : Bool :=
  decide (sigmin > 0) && cnt != 127 && decide (cnt < sigmin) && ops.all (fun s => decide (sigmin ≤ s))

def orFlags (x : Ctx) (fl : Nat) : Ctx := { x with fflags := x.fflags ||| w64 fl }

/-- R381: the threshold trap, the flags, then the destination. -/
def writeFp (d : RegF) (value : Nat) (cnt : Nat) (inx : Bool) (flags : Nat) (opCounts : List Nat) : M Unit := do
  let x ← M.me
  if threshold (bits x.sigmin 6 0) cnt opCounts then
    M.trap 0x0B 0 (w64 (cnt + (opCounts.foldl min 127) * 256))
  else
    M.modMe (fun x => orFlags x flags)
    writeReg d { val := w64 value, cnt := BitVec.ofNat 7 cnt, inx := inx }

/-- A comparison or class result: an integer mask with flags and no threshold test. -/
def writeMask (d : RegF) (value : Nat) (flags : Nat) : M Unit := do
  M.modMe (fun x => orFlags x flags)
  writeInt d (w64 value)

end Sys2Proof.Machine
end

