-- ==== Sys2Proof/Machine/Branch.lean ====
section
/-! DEFINITION. Branches and jumps (R89, R356, R357, R360, R365, R397). -/

namespace Sys2Proof.Machine

/-- PC := the address of this word + offset × 4. -/
def branchTo (off : Word) : M Unit := do
  let e ← M.env
  M.modMe (fun x => { x with pc := e.pc + off * 4 })

/-- R360: ra, then rb; tags are not read. -/
def condBranch (a b : RegF) (off : BitVec 12) (f : Word → Word → Bool) : M Unit := do
  let x ← readVal a
  let y ← readVal b
  if f x y then branchTo (sxImm 12 off) else pure ()

def execBeq (a b : RegF) (off : BitVec 12) (s : State) : Host.Outcome State Fault Refusal :=
  run (.beq a b off) (condBranch a b off (fun x y => x == y)) s

def execBne (a b : RegF) (off : BitVec 12) (s : State) : Host.Outcome State Fault Refusal :=
  run (.bne a b off) (condBranch a b off (fun x y => x != y)) s

def execBlt (a b : RegF) (off : BitVec 12) (s : State) : Host.Outcome State Fault Refusal :=
  run (.blt a b off) (condBranch a b off (fun x y => x.slt y)) s

def execBge (a b : RegF) (off : BitVec 12) (s : State) : Host.Outcome State Fault Refusal :=
  run (.bge a b off) (condBranch a b off (fun x y => !x.slt y)) s

def execBltn (a b : RegF) (off : BitVec 12) (s : State) : Host.Outcome State Fault Refusal :=
  run (.bltn a b off) (condBranch a b off (fun x y => x.ult y)) s

def execBgen (a b : RegF) (off : BitVec 12) (s : State) : Host.Outcome State Fault Refusal :=
  run (.bgen a b off) (condBranch a b off (fun x y => !x.ult y)) s

/-- R365: taken when the stored count is neither 127 nor at least n. -/
def execBsig (a : RegF) (n : BitVec 7) (off : BitVec 12) (s : State) : Host.Outcome State Fault Refusal :=
  run (.bsig a n off) (do
    let v ← readReg a
    if v.cnt ≠ 127 ∧ v.cnt.toNat < n.toNat then branchTo (sxImm 12 off) else pure ()) s

def execB (off : BitVec 26) (s : State) : Host.Outcome State Fault Refusal := run (.b off) (branchTo (sxImm 26 off)) s

/-- R356: x1 under R63, without the check of R53. -/
def execBl (off : BitVec 26) (s : State) : Host.Outcome State Fault Refusal :=
  run (.bl off) (do
    let e ← M.env
    writeInt 1 (e.pc + 4)
    branchTo (sxImm 26 off)) s

/-- The checks of a `jr` target (R89): a multiple of 4 in window 0x00. -/
def checkTarget (t : Word) : M Unit :=
  if t.extractLsb' 0 2 ≠ 0 then M.trap 0x04 t 0
  else if bits t 63 56 ≠ 0 then M.trap 0x05 t 1
  else pure ()

/-- R397: the link is written after xa is read, and not written when the target traps. -/
def execJr (d a : RegF) (imm : BitVec 12) (s : State) : Host.Outcome State Fault Refusal :=
  run (.jr d a imm) (do
    let base ← readVal a
    let e ← M.env
    let t := base + sxImm 12 imm * 4
    checkTarget t
    writeInt d (e.pc + 4)
    M.modMe (fun x => { x with pc := t })) s

end Sys2Proof.Machine
end

