-- ==== Sys2Proof/Machine/Quant.lean ====
section
/-! DEFINITION. XS9 codes and the quantisation of a block (R122, R125 to R127). -/

namespace Sys2Proof.Machine

/-- Val(XS9, c) = (2 + m) × 2^(e − 128), for c below 510. -/
def xs9 (c : Nat) : Nat × Int := (2 + c % 2, ((c / 2 : Nat) : Int) - 128)

/-- A finite value as an integer over 2^149, the FP32 subnormal unit. -/
def unit149 : FVal → Int
  | .fin n m e => signed n m * 2 ^ (e + 149).toNat
  | _ => 0

/-- Val(XS9, c) × 2^149 × Q ≥ mx × 2^149, that is Val(c) ≥ mx / Q. -/
def scaleCovers (mx q c : Nat) : Bool := let (m, e) := xs9 c; decide (mx ≤ m * q * 2 ^ (e + 149).toNat)

def firstCover (mx q c : Nat) : Nat → Nat
  | 0 => c
  | f + 1 => if scaleCovers mx q c then c else firstCover mx q (c + 1) f

/-- q[i] and whether it differs from v[i] / Val(c). -/
def quantOne (q c : Nat) (v : Int) : Int × Bool :=
  let (m, e) := xs9 c
  let (r, ex) := roundQuot .rne (decide (v < 0)) v.natAbs (m * 2 ^ (e + 149).toNat)
  (signed (decide (v < 0)) (min r q), ex)

structure Quant where
  code : Nat
  q : List Int
  flags : Nat
  underflow : Bool

/-- R126. A t above code 509 takes code 509 (DEDUCED, log 17). -/
def quantize (q : Nat) (vs : List FVal) : Quant :=
  if vs.any (fun v => v.isNan || v.isInf) then { code := 510, q := vs.map (fun _ => 0), flags := NV, underflow := false }
  else
    let us := vs.map unit149
    let mx := us.foldl (fun m u => max m u.natAbs) 0
    if mx = 0 then { code := 0, q := vs.map (fun _ => 0), flags := 0, underflow := false }
    else
      let c := firstCover mx q 0 509
      let rs := us.map (quantOne q c)
      { code := c, q := rs.map (fun r => r.1), flags := if rs.all (fun r => r.2) then 0 else NX
        -- t < 2^-127
        underflow := decide (mx < q * 2 ^ 22) }

def nib (i : Int) : Nat := (i % 16).toNat

/-- The bytes of R127. -/
def pack8 (q : List Int) : List Nat := q.map (fun i => (i % 256).toNat)
def pack4 : List Int → List Nat
  | a :: b :: t => (nib a + 16 * nib b) :: pack4 t
  | _ => []

/-- The bytes that a `qblk` of bound q writes. -/
def packOf (q : Nat) (l : List Int) : List Nat := if q = 7 then pack4 l else pack8 l

end Sys2Proof.Machine
end

