-- ==== Sys2Proof/Machine/LoadStore.lean ====
section
/-! DEFINITION. Loads, stores, tag shadows, full/empty words, atomics and fences (R142 to R144, R236 to R238, R352 to R355, R366,
R398 to R402, R440 to R444), and the events that perform them: LOAD_REPLY, STORE_BUFFER_COMMIT, POSTED_STORE_ACCEPT. -/

namespace Sys2Proof.Machine

def sizeBytes : Size → Nat
  | .i8 | .n8 => 1 | .i16 | .n16 => 2 | .i32 | .n32 => 4 | .d => 8
def sizeSigned : Size → Bool
  | .i8 | .i16 | .i32 => true | _ => false
/-- The size code of R90 of an access of n bytes. -/
def sizeCode (n : Nat) : Nat := if n = 1 then 0 else if n = 2 then 2 else if n = 4 then 4 else 6

/-! ## The wait-for snapshot (R207) -/

def stateCode : CtxState → Nat
  | .free => 0 | .ready => 1 | .parked => 2 | .idleLanding => 3 | .draining => 4 | .filling => 5

/-- A body word that holds its context is what the word reports (R261). -/
def snapWord (x : Ctx) : Word :=
  if x.state = .free then 0
  else
    let (l, o) := match x.state, x.bwait.or x.wait with
      | .parked, some w => (w.list, w.object.toNat)
      | _, _ => (0, 0)
    w64 (stateCode x.state + l * 8 + o * 256 + x.tenant % 64 * 2 ^ 56)

/-- On a kerb core the word of a slot of another tenant reads as 0. -/
def snapRead (s : State) (tenant c i : Nat) : Word :=
  let x := s.ctx c i
  if isKerb c && x.tenant != tenant then 0 else snapWord x

/-! ## Pending requests -/

/-- An operation whose result arrives later: its destination becomes pending. Its context goes on, or stays parked on list 1 until the reply: for an
atomic (R353), and where the result is for a port, which is tested at the write (R60; DEDUCED, log 14). -/
def request (d : RegF) (kind : LoadKind) (l : Loc) (waits : Bool) : M Unit := do
  let e ← M.env
  let app ← readyDest d
  let n ← nextSeq
  let x ← M.me
  let stay := waits || (app.isNone && x.isPort d.toNat)
  let r : LoadReq :=
    { seq := n, pc := e.tpc, next := e.pc + 4, rd := d.toNat, kind := kind, place := l.place, ptr := l.ptr, lv := l.lv
      elect := if e.elect then some x.elect else none, waits := stay, app := app, taken := takenOf e.was x }
  M.modMe (fun x => { x with loads := x.loads ++ [r] })
  match kind with
  | .take run => M.modify (fun s => { s with takes := s.takes ++ [(e.core, e.slot, x.uid, run, n)] })
  | _ => pure ()
  if stay then M.parkKeep 1 d.toNat (.reg d.toNat) else pure ()

/-! ## ld -/

def loadFrom (d : RegF) (p : Word) (size : Size) (acq plain : Bool) : M Unit := do
  let n := (sizeBytes size)
  let (l, snap) ← resolve p n .ld (plain && size == .d)
  boardCheck l false
  let e ← M.env
  match snap with
  | some (c, i) =>
    if c = e.core then
      let s ← M.state
      let x ← M.me
      writeInt d (snapRead s x.tenant c i)
    else
      raiseCnt .L
      request d (.ld n (sizeSigned size) acq) l false
  | none =>
    if l.ownLs e.core then
      let v ← readAs (if acq then some .device else none) l
      writeInt d (extend v n (sizeSigned size))
    else
      raiseCnt .L
      request d (.ld n (sizeSigned size) acq) l false

/-- The pointer of a load: base + imm × size (R90). -/
def loadPtr (a : RegF) (size : Size) (imm : BitVec 7) : M Word := do
  let base ← readVal a
  return base + sxImm 7 imm * w64 (sizeBytes size)

def bodyLd (d a : RegF) (size : Size) (ord : LdOrd) (imm : BitVec 7) : M Unit := do
  let p ← loadPtr a size imm
  loadFrom d p size (ord == .acq) (ord == .plain)

def execLd (d a : RegF) (size : Size) (ord : LdOrd) (imm : BitVec 7) (s : State) : Host.Outcome State Fault Refusal :=
  run (.ld d a size ord imm) (bodyLd d a size ord imm) s

/-! ## Refused stores (R319) -/

/-- A refusal is recorded in `jhead`, or counted in `more` while one is (R319); one of a landing that has ended is dropped (R392). -/
def recordRefusal (s : State) (core : Nat) (e : JEntry) (rsn : Nat) : State :=
  let s := s.bump core 8
  let x := s.ctx core e.slot
  s.modCore core (fun k =>
    match k.jrec with
    | some r => { k with jrec := some { r with more := min 65535 (r.more + 1) } }
    | none =>
      if x.uid = e.uid ∧ x.land = e.land ∧ x.state ≠ .free ∧ x.state ≠ .draining then
        { k with jrec := some { ent := e.ent, rsn := rsn, slot := e.slot, uid := e.uid, land := e.land, more := 0, ptr := e.ptr,
                                sizeCode := sizeCode e.size, raised := false } }
      else k)

/-- A stale granule of a trap-mode region on another core, which no store from here initialises (R441). -/
def otherStale (s : State) (core : Nat) (pl : Place) (gen : BitVec 16) : Bool :=
  match pl with
  | .ls c _ => c != core && s.staleTrap pl gen
  | _ => false

/-- A store that its destination refuses in the issue slot (R319, R441, R443). It stands in no journal entry; the number that its record names is a free
value (DESIGN CHOICE, log 61). -/
def refuseStore (l : Loc) (v : Word) (rsn : Nat) : M Unit := do
  let e ← M.env
  let x ← M.me
  let n ← M.draw
  M.modify (fun s => recordRefusal s e.core
    { ent := Config.freePick n % 64, slot := e.slot, uid := x.uid, land := x.land, tenant := x.tenant, seq := x.seq, pair := 0, place := l.place,
      ptr := l.ptr, size := l.size, value := v, rel := false, gen := x.gen } rsn)

/-! ## st -/

def storeBody (x a : RegF) (size : Size) (ord : StOrd) (imm : BitVec 7) : M Unit := do
  let base ← readVal a
  let v ← readVal x
  let n := (sizeBytes size)
  let p := base + sxImm 7 imm * w64 n
  let (l, _) ← resolve p n (if ord = .posted then .posted else .st) false
  boardCheck l true
  raiseCnt .S
  let me ← M.me
  let e ← M.env
  -- the release performs after the accesses of the replays (R233)
  if ord = .rel ∧ me.replayMem = true then M.park 1 0 .replays
  else if l.win = .rem then journalStore l v (ord == .rel) 0
  else if ord = .posted ∧ (l.win = .glob ∨ l.win = .peer) then journalStore l v false 0
  else if ord = .rel then
    waitPerformed
    let s ← M.state
    let me ← M.me
    if otherStale s e.core l.place me.gen then refuseStore l v 4 else storeNow l v
    M.modMe (fun x => { x with nS := x.nS - 1 })
  else bufferStore l v 0

def execSt (x a : RegF) (size : Size) (ord : StOrd) (imm : BitVec 7) (s : State) : Host.Outcome State Fault Refusal :=
  run (.st x a size ord imm) (storeBody x a size ord imm) s

/-! ## ldt, stt (R142 to R144) -/

/-- off(A) of R142. -/
def tagOff (a : Word) : Nat :=
  match bits a 63 56 with
  | 0x00 => bits a 50 0
  | 0xF1 => bits a 23 0
  | _ => bits a 19 0

/-- T, checked after A; its window code must equal A's (0x05, code 6). -/
def resolveTag (a : Word) (op : Op) : M Loc := do
  let x ← M.me
  let t := x.tagbase + w64 (tagOff a / 8)
  let (l, _) ← resolve t 1 op false
  if bits t 63 56 ≠ bits a 63 56 then M.trap 0x05 t 6 else return l

def execLdt (d a : RegF) (imm : BitVec 7) (s : State) : Host.Outcome State Fault Refusal :=
  run (.ldt d a imm) (do
    let base ← readVal a
    let p := base + sxImm 7 imm * 8
    let (l, _) ← resolve p 8 .ld false
    let t ← resolveTag p .ld
    boardCheck l false
    boardCheck t false
    let e ← M.env
    if l.ownLs e.core && t.ownLs e.core then
      classRoom .L
      let v ← readNow l
      let g ← readNow t
      writeReg d (tval v g)
    else
      raiseCnt .L
      request d (.ldt t.place) l false) s

def execStt (x a : RegF) (imm : BitVec 7) (s : State) : Host.Outcome State Fault Refusal :=
  run (.stt x a imm) (do
    let base ← readVal a
    let v ← readReg x
    let p := base + sxImm 7 imm * 8
    let (l, _) ← resolve p 8 .st false
    let t ← resolveTag p .st
    boardCheck l true
    boardCheck t true
    raiseCnt .S
    let k ← M.myCore
    if l.win = .rem ∧ k.journal.length + k.promised ≥ 63 then M.park 5 (2 ^ 25 + waitObject 31 31 31 31 31) (.journal 2)
    else
      let n ← nextSeq
      storePlain l v.val (n + 1)
      storePlain t (w64 (v.cnt.toNat + (if v.inx then 128 else 0))) (n + 1)) s

/-! ## Full/empty words (R238, R401, R443) -/

/-- A context woken on list 2 has its claim to the word until it issues: the one parked longest goes first (R185). -/
def claimed (s : State) (core slot c off : Nat) (full : Bool) : Bool :=
  s.allCtxs.any (fun (d, i, x) => !(d == core && i == slot) && x.state == .ready &&
    (match x.wait with | some w => w.cond == .fe c off full | none => false))

inductive FeOp where
  | ldfe | ldff | stfe | sete
  deriving DecidableEq, Repr

/-- The Atomic step of R238 at the word's home, or the park on list 2: a load takes the word's latest value as an acquire, a store
is a release, ordered after the word's latest value. -/
def feStep (op : FeOp) (l : Loc) (c off : Nat) (v : Word) : M Word := do
  let e ← M.env
  let x ← M.me
  let s ← M.state
  let k := s.core c
  let (g, trap) := k.gov x.gen off
  if trap && k.stamp off != g && op != .sete then M.trap 0x0A l.ptr 0
  else
    let full := k.seenFull g off
    let wants := op == .ldfe || op == .ldff
    let other := op != .sete && claimed s e.core e.slot c off wants
    if op != .sete && (full != wants || other) then M.park 2 (bits l.ptr 47 0) (.fe c off wants)
    else
      let old := w64 (k.lsRead g off 8)
      let got := s.acquired (.ctx x.uid e.core x.tenant 0 0) .device (s.newest g (.ls c off) 8)
      let s1 := s.see x.uid (s.newest g (.ls c off) 8)
      M.modify (fun s => match op with
        | .ldfe => ((s1.record (s1.byCtx e.core x.uid x.tenant x.seq) (.ls c off) 0 0 g).gain x.uid got).modCore c
            (fun k => k.setFe g off false)
        | .ldff => s1.gain x.uid got
        | .stfe => (s1.record (s1.byRelease e.core x.uid x.tenant x.seq .device) (.ls c off) 8 v.toNat g).modCore c
            (fun k => k.lsWriteFe g off v.toNat true)
        | .sete => (s.record (s.byCtx e.core x.uid x.tenant x.seq) (.ls c off) 0 0 g).modCore c (fun k => k.setFe g off false))
      if op = .ldff then pure () else countAccess
      return old

/-- The earlier accesses this one follows have performed, the context's own buffered stores to the word included (R233). -/
def waitSame (l : Loc) : M Unit := do
  mustFollow l
  let x ← M.me
  let k ← M.myCore
  if k.storeBuf.any (fun b => b.uid == x.uid && b.place.overlaps b.size l.place l.size) then M.park 1 0 .performed else pure ()

def feBody (op : FeOp) (d a : RegF) (imm : BitVec 7) : M Unit := do
  let base ← readVal a
  let v ← if op = .stfe then readVal d else pure 0
  let p := base + sxImm 7 imm * 8
  let (l, _) ← resolve p 8 .fe false
  boardCheck l (op != .ldff)
  if op = .stfe then waitPerformed else waitSame l
  match l.place with
  | .ls c off =>
    let e ← M.env
    match op with
    | .ldfe | .ldff =>
      let x ← M.me
      if c = e.core ∨ x.isPort d.toNat = true ∨ (x.bound? d.toNat).isSome then
        -- a port or a stream takes the value in the slot, so that its fault leaves the word as it was
        classRoom .L
        let r ← feStep op l c off v
        writeInt d r
      else
        raiseCnt .L
        waitReg d.toNat
        let r ← feStep op l c off v
        request d (.taken r) l false
    | .stfe | .sete =>
      raiseCnt .S
      let s ← M.state
      let x ← M.me
      if l.win = .rem ∧ (!s.inPart x.tenant c || ((s.core c).regionAt off).isNone) = true then refuseStore l v 1
      else
        let _ ← feStep op l c off v
        pure ()
      M.modMe (fun x => { x with nS := x.nS - 1 })
  | _ => pure ()

def execLdfe (d a : RegF) (imm : BitVec 7) (s : State) : Host.Outcome State Fault Refusal :=
  run (.ldfe d a imm) (feBody .ldfe d a imm) s
def execLdff (d a : RegF) (imm : BitVec 7) (s : State) : Host.Outcome State Fault Refusal :=
  run (.ldff d a imm) (feBody .ldff d a imm) s
def execStfe (x a : RegF) (imm : BitVec 7) (s : State) : Host.Outcome State Fault Refusal :=
  run (.stfe x a imm) (feBody .stfe x a imm) s
def execSete (a : RegF) (imm : BitVec 7) (s : State) : Host.Outcome State Fault Refusal :=
  run (.sete a imm) (feBody .sete 0 a imm) s

/-! ## amo, cas (R237, R352 to R354, R366, R367) -/

/-- The new value of an `amo` (R352). -/
def amoNew (op : AmoOp) (old b : Word) : Word :=
  match op with
  | .add => old + b | .and => old &&& b | .or => old ||| b | .xor => old ^^^ b | .min => minS old b | .max => maxS old b
  | .minn => minU old b | .maxn => maxU old b | .swap => b

/-- What an atomic writes, or none where a comparison fails. -/
def atomNew (kind : LoadKind) (old : Word) : Option Word :=
  match kind with
  | .amo op b _ => some (amoNew op old b)
  | .cas exp new _ => if old = exp then some new else none
  | _ => none

/-- Faults that the home finds (R354): a word of another core in no live region, a stale granule of a trap-mode region, a host
page with an operation PCIe does not carry or a completer that rejects it. -/
def homeFault (s : State) (core : Nat) (kind : LoadKind) (pl : Place) (ptr : Word) (lv : Nat) (gen : BitVec 16) : Option TrapInfo :=
  match pl with
  | .ls c off =>
    if c ≠ core ∧ ((s.core c).regionAt off).isNone then some (fault9 ptr 6)
    else if s.staleTrap pl gen then some { cause := 0x0A, addr := ptr }
    else none
  | .host _ =>
    let carried := match kind with
      | .amo op _ _ => op == .add || op == .swap
      | _ => true
    if carried && Config.hostAtomicOk s.free then none else some (fault9 ptr (0x80 + lv))
  | _ => none

/-- The scope of an atomic. -/
def atomScope : LoadKind → Parties
  | .amo _ _ p => p
  | .cas _ _ p => p
  | _ => .device

/-- The Atomic step by context x (R237): a Read that returns a write with no later one by a party of the scope, and the new value
committed as a release, ordered after what was read; the Merge of the acquire follows. -/
def atomStep (s : State) (core : Nat) (x : Ctx) (kind : LoadKind) (seq : Nat) (pl : Place) : Word × State :=
  let p := atomScope kind
  let last := fun (q : Place) (w : Wr) => (s.wset q).all (fun v => !(v.isAfter w && p.has v.by_))
  let r := s.weakRead (s.reader x.uid) x.gen last pl 8
  let old := w64 r.1
  let s1 := r.2.2.see x.uid r.2.1
  let s2 := match atomNew kind old with
    | some v => s1.commit (s1.byRelease core x.uid x.tenant seq p) pl 8 v.toNat x.gen
    | none => s1
  (old, s2.gain x.uid (s.acquired (.ctx x.uid core x.tenant 0 0) p r.2.1))

def atomBody (d : RegF) (p : Word) (kind : LoadKind) : M Unit := do
  let (l, _) ← resolve p 8 .atom false
  boardCheck l true
  let e ← M.env
  if l.ownLs e.core then
    classRoom .L
    waitPerformed
    let s ← M.state
    let x ← M.me
    match homeFault s e.core kind l.place p l.lv x.gen with
    | some t => M.stop (.trap t)
    | none =>
      let (old, s') := atomStep s e.core x kind x.seq l.place
      M.modify (fun _ => s')
      countAccess
      writeInt d old
  else
    raiseCnt .L
    request d kind l true

def bodyAmo (op : AmoOp) (scope : AScope) (d a b : RegF) : M Unit := do
  let p ← readVal a
  let v ← readVal b
  let e ← M.env
  atomBody d p (.amo op v (atomSet scope e.core))

def bodyCas (scope : AScope) (d a b : RegF) : M Unit := do
  let p ← readVal a
  let new ← readVal b
  let exp ← readVal d
  let e ← M.env
  atomBody d p (.cas exp new (atomSet scope e.core))

def execAmo (op : AmoOp) (scope : AScope) (d a b : RegF) (s : State) : Host.Outcome State Fault Refusal :=
  run (.amo op scope d a b) (bodyAmo op scope d a b) s
def execCas (scope : AScope) (d a b : RegF) (s : State) : Host.Outcome State Fault Refusal :=
  run (.cas scope d a b) (bodyCas scope d a b) s

/-! ## fence (R236, R386) -/

/-- What a completed fence leaves (R236): full and acq see all that the scope's writers have committed; full and rel make later stores carry
the snapshot; one of system scope ends the bound of R337 for the context's earlier writes. -/
def fenced (kind : FenceKind) (p : Parties) (u : Nat) (s : State) : State :=
  let s1 := if kind = .rel then s else s.gain u (({} : Front).mark p s.ord.commits)
  let s2 := if kind = .acq then s1 else s1.modOrd (fun o => { o with
    rels := SMap.put o.rels [] u ((s1.rels u).filter (fun e => e.1 != p) ++ [(p, s1.front u)]) })
  if p = .system then s2.modOrd (fun o => { o with sysDone := SMap.put o.sysDone 0 u o.commits }) else s2

/-- The context stalls in its issue slot until every earlier access has performed; then the fence completes. -/
def execFence (kind : FenceKind) (scope : Scope) (s : State) : Host.Outcome State Fault Refusal :=
  run (.fence kind scope) (do
    let e ← M.env
    let x ← M.me
    let k ← M.myCore
    if allPerformed k x x.seq then M.modify (fun s => fenced kind (scopeSet s scope x e.core) x.uid s) else M.stop .stall) s

/-! ## STORE_BUFFER_COMMIT (R231 to R233) -/

/-- Buffered store e of a core may commit: earlier stores of its context to its bytes, earlier reads of them and earlier acquires
have performed. -/
def commitReady (s : State) (core : Nat) (e : SbEntry) : Bool :=
  let k := s.core core
  let x := k.ctx e.slot
  k.storeBuf.all (fun b => b.uid != e.uid || decide (e.seq ≤ b.seq) || !b.place.overlaps b.size e.place e.size) &&
  k.journal.all (fun j => j.uid != e.uid || decide (e.seq < j.seq) || !j.place.overlaps j.size e.place e.size) &&
  (x.uid != e.uid || (acquiresDone x e.seq && !x.earlierMeets e.seq e.place e.size))

/-- A square-window store to a stale granule of a trap-mode region of another core: no other core can initialise it (R441), so that it is refused for that
reason, as a remote store is (DEDUCED, log 61). -/
def refuseBuffered (s : State) (core : Nat) (e : SbEntry) : State :=
  let d := s.draw
  let ptr := w64 (match e.place with | .ls c off => 0xF3 * 2 ^ 56 + c * 2 ^ 42 + off | _ => 0)
  recordRefusal (dropBuffered d.2 core e) core
    { ent := Config.freePick d.1 % 64, slot := e.slot, uid := e.uid, land := (s.ctx core e.slot).land, tenant := e.tenant, seq := e.seq, pair := e.pair,
      place := e.place, ptr := ptr, size := e.size, value := e.value, rel := false, gen := e.gen } 4

def execStoreBufferCommit (core idx : Nat) (s : State) : Host.Outcome State Fault Refusal :=
  match (s.core core).storeBuf[idx]? with
  | none => .next s
  | some e =>
    if !commitReady s core e then .next s
    else if otherStale s core e.place e.gen then .next (refuseBuffered s core e)
    else .next (commitAt s core e)

/-! ## POSTED_STORE_ACCEPT (R244, R319) -/

/-- The destinations of R244: a core, a channel, the host, a peer. -/
def sameDest : Place → Place → Bool
  | .ls c _, .ls d _ => c == d
  | .hbm m, .hbm n => kerbOf m == kerbOf n
  | .host _, .host _ => true
  | .peer j _, .peer k _ => j == k
  | _, _ => false

/-- A journalled store may be accepted: those before it to its destination have been, earlier accesses to its bytes and earlier acquires have performed,
and for a release every earlier access (R233, R244). -/
def acceptReady (s : State) (core : Nat) (e : JEntry) : Bool :=
  let k := s.core core
  let x := k.ctx e.slot
  (k.journal.takeWhile (fun j => j.ent != e.ent)).all (fun j => !sameDest j.place e.place) &&
  k.storeBuf.all (fun b => b.uid != e.uid || decide (e.seq < b.seq) || !b.place.overlaps b.size e.place e.size) &&
  (!e.rel || (k.storeBuf.all (fun b => b.uid != e.uid || decide (e.seq ≤ b.seq)) && k.journal.all (fun j => j.uid != e.uid || decide (e.seq ≤ j.seq)))) &&
  (x.uid != e.uid || (acquiresDone x e.seq && !x.earlierMeets e.seq e.place e.size && (!e.rel || performedBefore k x e.seq)))

/-- The refusal reason of R319, or 0: `answer` is what a peer, an ECC check or the host port gives. -/
def refusal (s : State) (e : JEntry) (answer : Nat) : Nat :=
  match e.place with
  | .ls c off =>
    if !s.inPart e.tenant c || ((s.core c).regionAt off).isNone then 1
    else if s.staleTrap e.place e.gen then 4
    else if answer = 3 then 3 else 0
  | .hbm _ => if answer = 3 then 3 else 0
  | .host _ => if answer = 5 then 5 else if answer = 3 then 3 else 0
  | .peer k _ => if answer = 2 ∨ peerOk s e.tenant k = false then 2 else if answer = 3 then 3 else 0

/-! ## LOAD_REPLY (R186, R398) -/

/-- The elected result goes to the other members of the round (R412): to those that wait for it now by a delivery, to the others
when they issue their pair. It is a release at square scope of what the elected member has seen by then (R414; the delivery does not wait for its earlier
stores: DEDUCED, log 20). -/
def electResult (s : State) (c i : Nat) (k : BitVec 32) (v : TVal) (flags : Word) : State :=
  let x := s.ctx c i
  match x.gang with
  | none => s
  | some g =>
    let q := serveSquare c
    let mine := fun (el : Election) => el.gang == g && el.rank == x.rank && el.k == k && el.elected == c && el.result.isNone
    if !(s.square q).elections.any mine then s
    else
      let front := s.released x.uid (.cores (squareCores c))
      let wait := ((s.domain q g x.rank).filter (fun (d, j) => (s.ctx d j).pendingOne k)).flatMap (fun (d, j) =>
        let y := s.ctx d j
        (y.loads.filter (fun l => match l.kind with | .one n _ => n == k | _ => false)).map (fun l =>
          ({ core := d, slot := j, uid := y.uid, rd := l.rd, k := k, v := v, flags := flags, front := front } : Delivery)))
      let s1 := s.modSquare q (fun y => { y with elections := y.elections.map (fun el =>
        if mine el then { el with result := some (v, flags), front := front } else el) })
      closeRounds { s1 with gives := s1.gives ++ wait } q

/-- A fault stops the elected instruction of a request: the round waits for its member to come back (R413). -/
def markRound (s : State) (c i : Nat) (k : BitVec 32) (pc : Word) (sup : Bool) : State :=
  let x := s.ctx c i
  (s.modSquare (serveSquare c) (fun y => { y with elections := y.elections.map (fun el =>
    if x.gang == some el.gang && el.rank == x.rank && el.k == k && el.elected == c then { el with mark := some (pc, sup) } else el) })).modCtx
    c i (fun x => { x with elect := k - 1 })

/-- A request without the context that asked: its counters fall, and the sources that its instruction took are as they were (R14). -/
def withdraw (x : Ctx) (p : LoadReq → Bool) : Ctx :=
  let l := x.loads.filter p
  let y := l.foldl (fun (y : Ctx) m => y.giveBack m.taken) x
  { y with
    loads := x.loads.filter (fun m => !p m)
    nL := x.nL - (l.filter (fun m => match m.kind with | .take _ | .one _ _ => false | _ => true)).length
    nS := x.nS - storesOf l }

/-- A round whose pair the context will issue again: the elected member's waits for it (R413), a receiver takes it again. -/
def retakeRound (s : State) (c i : Nat) (l : LoadReq) : State :=
  match l.elect, l.kind with
  | some k, _ => markRound s c i k l.pc true
  | none, .one k _ => s.modCtx c i (fun x => { x with elect := if x.elect = k then k - 1 else x.elect })
  | none, _ => s

/-- The stores of a remote `susp` that have not been accepted are taken back (R446). -/
def dropSusp (s : State) (c i : Nat) : State :=
  let x := s.ctx c i
  let mine := fun (j : JEntry) => j.susp && j.uid == x.uid
  let n := ((s.core c).journal.filter mine).length
  if n = 0 then s
  else (s.modCore c (fun k => { k with journal := k.journal.filter (fun j => !mine j) })).modCtx c i (fun y => { y with nS := y.nS - n })

/-- A context that leaves a `bar` has acquired the phases that it observed there (R191). -/
def leaveBar (s : State) (x : Ctx) : State :=
  match x.wait.map Wait.cond, x.gang with
  | some (WaitCond.bar n), some g => s.gain x.uid (s.observed g n (SMap.get x.obs n 0))
  | _, _ => s

/-- A parked context leaves its wait list; what its instruction had under way is given up, since it executes again (R185). A request that it waits for
is withdrawn (DEDUCED, log 21). -/
def unpark (s0 : State) (c i : Nat) : State :=
  let s := dropSusp (leaveBar s0 (s0.ctx c i)) c i
  let x := s.ctx c i
  let gone := (x.loads.filter (fun l => l.waits)).map (fun l => l.seq)
  let s1 := (x.loads.filter (fun l => l.waits)).foldl (fun s l => retakeRound s c i l)
    (s.modCtx c i (fun x => (withdraw { x.giveBack x.taken with ship := (if x.landing then none else x.ship), packet := none } (fun l => l.waits))))
  ({ s1 with takes := s1.takes.filter (fun (d, j, u, _, q) => !(d == c && j == i && u == x.uid && gone.contains q)) }).ready c i

/-- The request leaves the context's list, class L falls and the value is written; a context that waits for it goes on. None while the value cannot be
written. -/
def complete (s : State) (c i : Nat) (l : LoadReq) (v : TVal) (counted : Bool) : Option State :=
  let s1 := s.modCtx c i (fun x => { x with
    loads := x.loads.filter (fun m => m.seq != l.seq), nL := if counted then x.nL - 1 else x.nL })
  (deliver s1 c i l.rd l.app v).map (fun s2 =>
    let s3 := if l.waits then (s2.modCtx c i (fun x => { x with pc := l.next })).endWait c i else s2
    match l.elect with
    | some k => electResult s3 c i k v 0
    | none => s3)

/-- A fault that comes with the reply: nothing of the instruction stays (R14), and it is taken at the instruction (R354), whatever the context has issued
since (DEDUCED, log 15). A context that has ended takes none. -/
def failReply (s : State) (c i : Nat) (l : LoadReq) (t : TrapInfo) : State :=
  let x := s.ctx c i
  let s1 := s.modCtx c i (fun x => withdraw x (fun m => m.seq == l.seq))
  if x.state = .draining then s1 else
  let s2 := match l.elect with
    | some k => markRound s1 c i k l.pc ((trapTarget x t).getD true)
    | none => s1
  let s3 := if l.waits then s2.ready c i else if x.state = .parked then unpark s2 c i else s2
  if x.replaying then s3.modCtx c i (fun x => { x with mtrap := some (l.pc, t) }) else takeTrap c i l.pc none t s3

/-! ## The end of a body word (R261, R317) -/

/-- The next word, the next replay, or the end of the body, at which a held trap of the main stream is taken. -/
def advanceBody (s : State) (c i : Nat) : State :=
  let x := s.ctx c i
  match x.body with
  | none => s
  | some b =>
    if b.word + 1 < b.words.length then s.modCtx c i (fun x => { x with body := some { b with word := b.word + 1 } })
    else if b.replay + 1 < b.count then s.modCtx c i (fun x => { x with body := some { b with word := 0, replay := b.replay + 1 } })
    else
      let s1 := s.modCtx c i (fun x => { x with body := none, mtrap := none })
      match x.mtrap with
      | some (p, t) => takeTrap c i p none t (if x.state = .parked then unpark s1 c i else s1)
      | none => s1

/-- A trap in a replay: the body stops at that word, and a held trap of the main stream is given up (R317). -/
def replayTrap (s : State) (c i : Nat) (p : Word) (r : Nat) (t : TrapInfo) : State :=
  let x := s.ctx c i
  let s1 := if x.state = .parked then unpark s c i else s
  takeTrap c i p (some r) t (s1.modCtx c i (fun x => { x with mtrap := none }))

/-! ## Replies -/

/-- The request may perform now (R233). -/
def replyReady (k : Core) (x : Ctx) (l : LoadReq) : Bool :=
  let clear := fun (pl : Place) (n : Nat) =>
    !x.earlierMeets l.seq pl n && k.journal.all (fun j => j.uid != x.uid || decide (l.seq < j.seq) || !j.place.overlaps j.size pl n)
  match l.kind with
  | .amo _ _ _ | .cas _ _ _ => performedBefore k x l.seq && !x.replaying
  | .ld _ _ _ | .gchk _ _ => acquiresDone x l.seq && clear l.place l.kind.size
  | .ldt t => acquiresDone x l.seq && clear l.place 8 && clear t 1
  | .taken _ => true
  | .qblk b => b.srcs.isEmpty || (acquiresDone x l.seq && b.srcs.all (fun p => clear p.1 4))
  | _ => false

/-- A Read at pl meets a stale granule of a trap-mode region (R74), which none of the context's own earlier buffered stores will initialise (log 59). -/
def readsStale (s : State) (c : Nat) (x : Ctx) (l : LoadReq) (pl : Place) : Bool :=
  s.staleTrap pl x.gen && !granuleBuffered ((s.core c).storeBuf.filter (fun b => b.uid == x.uid && decide (b.seq < l.seq))) pl

/-- The fault of the reply: a port that may no longer be written to (R60), what the home finds (R354), or a stale granule of a region that is in trap mode
at the Read (R74, R75, R398). -/
def replyFault (s : State) (c : Nat) (x : Ctx) (l : LoadReq) : Option TrapInfo :=
  if portShut s x l.rd l.app then some { cause := 0x05, aux := w64 (l.rd - 104) }
  else
    match l.kind with
    | .amo _ _ _ | .cas _ _ _ => homeFault s c l.kind l.place l.ptr l.lv x.gen
    | .ld _ _ _ => if readsStale s c x l l.place then some { cause := 0x0A, addr := l.ptr } else none
    | .ldt t =>
      if readsStale s c x l l.place then some { cause := 0x0A, addr := l.ptr }
      else if readsStale s c x l t then some { cause := 0x0A, addr := x.tagbase + w64 (tagOff l.ptr / 8) }
      else none
    | .qblk b => (b.srcs.find? (fun p => readsStale s c x l p.1)).map (fun p => { cause := 0x0A, addr := p.2 })
    | _ => none

/-- What an outstanding load of the context reads (R230, R231). -/
def replyRead (s : State) (c : Nat) (x : Ctx) (l : LoadReq) (pl : Place) (n : Nat) : Nat × State :=
  s.ctxRead c x l.seq (if l.kind.acquire then some .device else none) pl n

/-- R391; the context's own buffered stores to the granule are seen (R231). -/
def gchkWord (k : Core) (gen : BitVec 16) (off : Nat) (buffered : Bool) : Word :=
  let (g, trap) := k.gov gen off
  w64 ((if k.stamp off == g || buffered then 1 else 0) + (if (k.regionAt off).isSome then 2 else 0) + (if trap then 4 else 0) + g.toNat * 65536)

/-- The value of a reply and the state after its Read or Atomic step. -/
def replyValue (s : State) (core : Nat) (x : Ctx) (l : LoadReq) : TVal × State :=
  match l.kind with
  | .ld n sg _ =>
    let far := match l.place with
      | .ls c off => if snapBase ≤ off then some (c, (off - snapBase) / 8) else none
      | _ => none
    (match far with
    | some (c, i) => (TVal.int (snapRead s x.tenant c i), s)
    | none =>
      let (v, s1) := replyRead s core x l l.place n
      (TVal.int (extend v n sg), s1))
  | .ldt t =>
    let (v, s1) := replyRead s core x l l.place 8
    let (g, s2) := replyRead s1 core x l t 1
    (tval v g, s2)
  | .gchk c off =>
    let mine := (s.core core).storeBuf.filter (fun b => b.uid == x.uid && decide (b.seq < l.seq))
    (TVal.int (gchkWord (s.core c) x.gen off (granuleBuffered mine (.ls c off))), s)
  | .taken v => (TVal.int v, s)
  | .amo _ _ _ | .cas _ _ _ =>
    let (old, s1) := atomStep s core x l.kind l.seq l.place
    -- whether a completer takes the next atomic is open (R354)
    (TVal.int old, s1.draw.2)
  | _ => (TVal.int 0, s)

/-- The words that a `qblk` has still to read, each a Read of its own (R128). -/
def readWordsOf (core : Nat) (x : Ctx) (l : LoadReq) : List (Place × Word) → State → List Nat × State
  | [], s => ([], s)
  | p :: t, s =>
    let v := replyRead s core x l p.1 4
    let r := readWordsOf core x l t v.2
    (v.1 :: r.1, r.2)

/-- A `qblk` completes: its reads, flags and counter, xd, and then its byte stores in address order (R126 to R128, R419). In a body the engine goes on
behind it. -/
def blockDone (s : State) (core slot : Nat) (x : Ctx) (l : LoadReq) (b : Block) : Option State :=
  let v := readWordsOf core x l b.srcs s
  let r := quantize b.q ((b.vals ++ v.1).map f32.dec)
  let s1 := v.2.modCtx core slot (fun x => orFlags x r.flags)
  let s2 := if r.underflow then s1.bump core 4 else s1
  (complete s2 core slot l (TVal.int (w64 r.code)) true).map (fun s3 =>
    let s4 := (b.outs.zip (packOf b.q r.q)).foldl (fun s e => lateStore s core slot e.1 (w64 e.2)) s3
    if b.body then advanceBody s4 core slot else s4)

/-- A fault that the reply of a `qblk` in a body brings is a trap of its replay (R317). -/
def blockFault (s : State) (core slot : Nat) (x : Ctx) (l : LoadReq) (t : TrapInfo) : State :=
  match l.kind, x.body with
  | .qblk { body := true, .. }, some b =>
    replayTrap (s.modCtx core slot (fun x => withdraw x (fun m => m.seq == l.seq))) core slot (b.base + w64 (4 * b.word)) b.replay t
  | _, _ => failReply s core slot l t

def execLoadReply (core slot idx : Nat) (s : State) : Host.Outcome State Fault Refusal :=
  let x := s.ctx core slot
  match x.loads[idx]? with
  | none => .next s
  | some l =>
    if !replyReady (s.core core) x l then .next s
    else
      match replyFault s core x l with
      | some t => .next (blockFault s core slot x l t).draw.2
      | none =>
        match l.kind with
        | .qblk b => .next ((blockDone s core slot x l b).getD s)
        | _ =>
          let (v, s1) := replyValue s core x l
          .next ((complete s1 core slot l v true).getD s)

end Sys2Proof.Machine
end

