-- ==== Sys2Proof/Machine/Fp.lean ====
section
/-! DEFINITION. The element-wise floating-point instructions, conversions, `fscl` and `qblk` (R116 to R128, R379 to R387, R396,
R419). -/

namespace Sys2Proof.Machine

/-! ## Lanes (R110, R134) -/

def laneBits (f : Fmt) (w : Word) (l : Nat) : Nat := bits w (f.width * (l + 1) - 1) (f.width * l)

def opdOf (f : Fmt) (v : TVal) (l : Nat) : Opd :=
  let b := laneBits f v.val l
  { v := f.dec b, b := b, s := effCount v.cnt.toNat f.p }

/-- The lanes joined: value, least count, OR of the I bits, OR of the flags. -/
def joinLanes (width : Nat) (ls : List Lane) : Nat × Nat × Bool × Nat :=
  ((ls.zipIdx).foldl (fun acc (x, i) => acc + x.bits * 2 ^ (width * i)) 0,
   ls.foldl (fun c x => min c x.cnt) 127, ls.any (fun x => x.inexact), ls.foldl (fun c x => c ||| x.flags) 0)

def curMode (x : Ctx) : Mode := modeOf (bits x.fround 1 0)

/-- The lanes of a result, written as R381 gives. -/
def fpResult (t : FpType) (d : RegF) (ops : List TVal) (f : Mode → Nat → Lane) : M Unit := do
  let x ← M.me
  let fm := typeFmt t
  let (v, c, i, fl) := joinLanes fm.width ((List.range (typeLanes t)).map (f (curMode x)))
  writeFp d v c (i || ops.any (fun o => o.inx)) fl (ops.map (fun o => effCount o.cnt.toNat fm.p))

def fp2 (t : FpType) (d a b : RegF) (f : Fmt → Mode → Opd → Opd → Lane) : M Unit := do
  let x ← readReg a
  let y ← readReg b
  let fm := typeFmt t
  fpResult t d [x, y] (fun m l => f fm m (opdOf fm x l) (opdOf fm y l))

def fp1 (t : FpType) (d a : RegF) (f : Fmt → Mode → Opd → Lane) : M Unit := do
  let x ← readReg a
  let fm := typeFmt t
  fpResult t d [x] (fun m l => f fm m (opdOf fm x l))

def fp3 (t : FpType) (d a b : RegF) (f : Fmt → Mode → Opd → Opd → Opd → Lane) : M Unit := do
  let x ← readReg a
  let y ← readReg b
  let z ← readReg d
  let fm := typeFmt t
  fpResult t d [x, y, z] (fun m l => f fm m (opdOf fm x l) (opdOf fm y l) (opdOf fm z l))

def bodyFadd (t : FpType) (d a b : RegF) : M Unit := fp2 t d a b (fun f m => addLane f m false)
def bodyFsub (t : FpType) (d a b : RegF) : M Unit := fp2 t d a b (fun f m => addLane f m true)
def bodyFmul (t : FpType) (d a b : RegF) : M Unit := fp2 t d a b mulLane
def bodyFma (t : FpType) (d a b : RegF) : M Unit := fp3 t d a b (fun f m => fmaLane f m false)
def bodyFnma (t : FpType) (d a b : RegF) : M Unit := fp3 t d a b (fun f m => fmaLane f m true)
def bodyFdiv (t : FpType) (d a b : RegF) : M Unit := fp2 t d a b divLane
def bodyFsqrt (t : FpType) (d a : RegF) : M Unit := fp1 t d a sqrtLane
def bodyFmin (t : FpType) (d a b : RegF) : M Unit := fp2 t d a b (fun f _ => minmaxLane f false)
def bodyFmax (t : FpType) (d a b : RegF) : M Unit := fp2 t d a b (fun f _ => minmaxLane f true)
def bodyFrcp (t : FpType) (d a : RegF) : M Unit := fp1 t d a rcpLane
def bodyFex2 (t : FpType) (d a : RegF) : M Unit := fp1 t d a ex2Lane
def bodyFlg2 (t : FpType) (d a : RegF) : M Unit := fp1 t d a lg2Lane

/-- Only the sign bit of each lane changes; count and I are xa's (R382). -/
def signOp (t : FpType) (d a : RegF) (g : Nat → Nat → Nat) : M Unit :=
  fp1 t d a (fun f _ o => { bits := g (2 ^ (f.width - 1)) o.b, flags := 0, cnt := o.s, inexact := false })
def bodyFneg (t : FpType) (d a : RegF) : M Unit := signOp t d a (fun s b => if b ≥ s then b - s else b + s)
def bodyFabs (t : FpType) (d a : RegF) : M Unit := signOp t d a (fun s b => b % s)

def bodyFcmp (t : FpType) (d a b : RegF) : M Unit := do
  let x ← readReg a
  let y ← readReg b
  let fm := typeFmt t
  let rs := (List.range (typeLanes t)).map (fun l => cmpNibble (opdOf fm x l) (opdOf fm y l))
  writeMask d ((rs.zipIdx).foldl (fun acc (r, i) => acc + r.1 * 16 ^ i) 0) (rs.foldl (fun c r => c ||| r.2) 0)

def bodyFcls (t : FpType) (d a : RegF) : M Unit := do
  let x ← readReg a
  let fm := typeFmt t
  writeMask d ((List.range (typeLanes t)).foldl (fun acc l => acc + clsBits fm (opdOf fm x l) * 65536 ^ l) 0) 0

def execFadd (t : FpType) (d a b : RegF) (s : State) : Host.Outcome State Fault Refusal := run (.fadd t d a b) (bodyFadd t d a b) s
def execFsub (t : FpType) (d a b : RegF) (s : State) : Host.Outcome State Fault Refusal := run (.fsub t d a b) (bodyFsub t d a b) s
def execFmul (t : FpType) (d a b : RegF) (s : State) : Host.Outcome State Fault Refusal := run (.fmul t d a b) (bodyFmul t d a b) s
def execFma (t : FpType) (d a b : RegF) (s : State) : Host.Outcome State Fault Refusal := run (.fma t d a b) (bodyFma t d a b) s
def execFnma (t : FpType) (d a b : RegF) (s : State) : Host.Outcome State Fault Refusal := run (.fnma t d a b) (bodyFnma t d a b) s
def execFdiv (t : FpType) (d a b : RegF) (s : State) : Host.Outcome State Fault Refusal := run (.fdiv t d a b) (bodyFdiv t d a b) s
def execFsqrt (t : FpType) (d a : RegF) (s : State) : Host.Outcome State Fault Refusal := run (.fsqrt t d a) (bodyFsqrt t d a) s
def execFmin (t : FpType) (d a b : RegF) (s : State) : Host.Outcome State Fault Refusal := run (.fmin t d a b) (bodyFmin t d a b) s
def execFmax (t : FpType) (d a b : RegF) (s : State) : Host.Outcome State Fault Refusal := run (.fmax t d a b) (bodyFmax t d a b) s
def execFneg (t : FpType) (d a : RegF) (s : State) : Host.Outcome State Fault Refusal := run (.fneg t d a) (bodyFneg t d a) s
def execFabs (t : FpType) (d a : RegF) (s : State) : Host.Outcome State Fault Refusal := run (.fabs t d a) (bodyFabs t d a) s
def execFcmp (t : FpType) (d a b : RegF) (s : State) : Host.Outcome State Fault Refusal := run (.fcmp t d a b) (bodyFcmp t d a b) s
def execFcls (t : FpType) (d a : RegF) (s : State) : Host.Outcome State Fault Refusal := run (.fcls t d a) (bodyFcls t d a) s
def execFrcp (t : FpType) (d a : RegF) (s : State) : Host.Outcome State Fault Refusal := run (.frcp t d a) (bodyFrcp t d a) s
def execFex2 (t : FpType) (d a : RegF) (s : State) : Host.Outcome State Fault Refusal := run (.fex2 t d a) (bodyFex2 t d a) s
def execFlg2 (t : FpType) (d a : RegF) (s : State) : Host.Outcome State Fault Refusal := run (.flg2 t d a) (bodyFlg2 t d a) s

/-! ## Conversions (R95, R116 to R119, R135) -/

def convMode (r : Rnd) (x : Ctx) : Mode :=
  match r with
  | .dyn => curMode x | .rne => .rne | .rtz => .rtz | .rup => .rup | .rdn => .rdn

/-- `fcvt`: exact values and rounded ones; ∞ into E4M3 gives the NaN with NV (R117). The count takes R132's cap at p and its cap for a subnormal result
(DESIGN CHOICE, log 53). -/
def cvtLane (dst : Fmt) (mode : Mode) (a : Opd) : Lane :=
  match a.v with
  | .nan s => { bits := dst.nan, flags := if s then NV else 0, cnt := 0, inexact := false }
  | .inf n => if dst.ieee then { bits := dst.inf n, flags := 0, cnt := min a.s dst.p, inexact := false }
    else { bits := dst.nan, flags := NV, cnt := 0, inexact := false }
  | .fin n m e =>
    let r := roundInt dst mode (signed n m) e n
    { bits := r.bits, flags := r.flags, cnt := subCap dst r.bits (min a.s dst.p), inexact := r.inexact }

def bodyFcvt (dst src : FpFmt) (rnd : Rnd) (d a : RegF) : M Unit := do
  let v ← readReg a
  let x ← M.me
  let r := cvtLane (fmtOf dst) (convMode rnd x) (opdOf (fmtOf src) v 0)
  writeFp d r.bits r.cnt (r.inexact || v.inx) r.flags [effCount v.cnt.toNat (fmtOf src).p]

def intMin : IntFmt → Int | .i32 => -2 ^ 31 | .i64 => -2 ^ 63 | _ => 0
def intMax : IntFmt → Int | .i32 => 2 ^ 31 - 1 | .n32 => 2 ^ 32 - 1 | .i64 => 2 ^ 63 - 1 | .n64 => 2 ^ 64 - 1

/-- RoundInt(m × 2^e): the integer and whether it was exact. -/
def roundToInt (mode : Mode) (neg : Bool) (m : Nat) (e : Int) : Int × Bool :=
  let (n, d) := ({ num := m, den := 1, e := e } : Mag).scaled 0
  let (q, ex) := roundQuot mode neg n d
  (signed neg q, ex)

/-- `fcvi` (R118): the integer and its flags. -/
def fcviOf (dst : IntFmt) (mode : Mode) (v : FVal) : Int × Nat :=
  match v with
  | .nan _ => (0, NV)
  | .inf n => (if n then intMin dst else intMax dst, NV)
  | .fin n m e =>
    if (Nat.log2 m : Int) + e > 70 ∧ m ≠ 0 then (if n then intMin dst else intMax dst, NV)
    else
      let (i, ex) := roundToInt mode n m e
      if i > intMax dst then (intMax dst, NV) else if i < intMin dst then (intMin dst, NV) else (i, if ex then 0 else NX)

def bodyFcvi (dst : IntFmt) (src : FpFmt) (rnd : Rnd) (d a : RegF) : M Unit := do
  let v ← readReg a
  let x ← M.me
  let (i, fl) := fcviOf dst (convMode rnd x) (opdOf (fmtOf src) v 0).v
  M.modMe (fun x => orFlags x fl)
  writeInt d (BitVec.ofInt 64 i)

/-- The integer that `icvf` reads (R119). -/
def intOf (src : IntFmt) (w : Word) : Int :=
  match src with
  | .i32 => (w.extractLsb' 0 32).toInt | .n32 => (w.extractLsb' 0 32).toNat | .i64 => w.toInt | .n64 => w.toNat

def bodyIcvf (dst : FpFmt) (src : IntFmt) (rnd : Rnd) (d a : RegF) : M Unit := do
  let v ← readReg a
  let x ← M.me
  let f := fmtOf dst
  let r := roundInt f (convMode rnd x) (intOf src v.val) 0 false
  M.modMe (fun x => orFlags x r.flags)
  writeReg d { val := w64 r.bits, cnt := BitVec.ofNat 7 f.p, inx := r.inexact }

def execFcvt (dst src : FpFmt) (rnd : Rnd) (d a : RegF) (s : State) : Host.Outcome State Fault Refusal :=
  run (.fcvt dst src rnd d a) (bodyFcvt dst src rnd d a) s
def execFcvi (dst : IntFmt) (src : FpFmt) (rnd : Rnd) (d a : RegF) (s : State) : Host.Outcome State Fault Refusal :=
  run (.fcvi dst src rnd d a) (bodyFcvi dst src rnd d a) s
def execIcvf (dst : FpFmt) (src : IntFmt) (rnd : Rnd) (d a : RegF) (s : State) : Host.Outcome State Fault Refusal :=
  run (.icvf dst src rnd d a) (bodyIcvf dst src rnd d a) s

/-! ## XS9 scales (R122, R125) -/

def fsclLane (mode : Mode) (a : Opd) (c : Nat) : Lane :=
  if c ≥ 510 then { bits := f32.nan, flags := NV, cnt := 0, inexact := false }
  else
    let (sm, se) := xs9 c
    match a.v with
    | .nan _ => nanLane f32 [a] false
    | .inf n => lane f32 [a] (exactBits (f32.inf n) 0) 0
    | .fin n m e => lane f32 [a] (roundInt f32 mode (signed n (m * sm)) (e + se) n) a.s

def bodyFscl (d a b : RegF) : M Unit := do
  let v ← readReg a
  let y ← readReg b
  let x ← M.me
  let o := opdOf f32 v 0
  let r := fsclLane (curMode x) o (bits y.val 8 0)
  writeFp d r.bits r.cnt (r.inexact || v.inx) r.flags [o.s]

def execFscl (d a b : RegF) (s : State) : Host.Outcome State Fault Refusal := run (.fscl d a b) (bodyFscl d a b) s

/-! ## qblk (R126 to R128, R419) -/

/-- The source words: each checked as a plain load of 4 bytes. -/
def checkWords (p : Word) : Nat → M (List Loc)
  | 0 => return []
  | n + 1 => do
    let (l, _) ← resolve p 4 .ld false
    boardCheck l false
    let t ← checkWords (p + 4) n
    return l :: t

/-- The address checks of n byte stores; nothing is written. -/
def checkBytes (p : Word) : Nat → M (List Loc)
  | 0 => return []
  | n + 1 => do
    let (l, _) ← resolve p 1 .st false
    boardCheck l true
    let t ← checkBytes (p + 1) n
    return l :: t

def readLocs : List Loc → M (List Nat)
  | [] => return []
  | l :: t => do
    let v ← readNow l
    let r ← readLocs t
    return v :: r

/-- The byte stores count in S from here on, and have their places in the journal (R419; DEDUCED, log 66). -/
def blockRoom (outs : List Loc) : M Unit := do
  let x ← M.me
  let k ← M.myCore
  let far := (outs.filter (fun l => l.win == .rem)).length
  if 63 < x.nS + outs.length then M.park 5 (fullObject .S) (.counters 31 (63 - outs.length) 31 31 31)
  else if 64 < k.journal.length + k.promised + far then M.park 5 (2 ^ 25 + waitObject 31 31 31 31 31) (.journal far)
  else M.modMe (fun x => { x with nS := x.nS + outs.length })

/-- The request of a `qblk`: xd becomes pending, and the stores have the order numbers behind it. A port as xd keeps the context parked, as for a load; in a
body the engine waits instead. -/
def blockRequest (d : RegF) (q : Nat) (srcs outs : List Loc) (vals : List Nat) : M Unit := do
  let e ← M.env
  let app ← readyDest d
  let n ← nextSeq
  let x ← M.me
  let stay := e.replay.isNone && app.isNone && x.isPort d.toNat
  let b : Block :=
    { body := e.replay.isSome, q := q, srcs := if vals.isEmpty then srcs.map (fun l => (l.place, l.ptr)) else [], vals := vals
      outs := outs.mapIdx (fun j l => { place := l.place, ptr := l.ptr, size := 1, rem := l.win == .rem, seq := n + 1 + j }) }
  let r : LoadReq :=
    { seq := n, pc := e.tpc, next := e.pc + 4, rd := d.toNat, kind := .qblk b, place := .ls e.core 0, ptr := 0, lv := 0, elect := none, waits := stay, app := app
      taken := takenOf e.was x }
  M.modMe (fun x => { x with loads := x.loads ++ [r], seq := x.seq + outs.length })
  if stay then M.parkKeep 1 d.toNat (.reg d.toNat) else pure ()

/-- Words of the core's own local store are read in the issue slot, all others when their replies come. The instruction counts in L, and xd is pending,
until it is written; the stores follow (R419). -/
def qblk (d a b : RegF) (q n : Nat) : M Unit := do
  let p ← readVal a
  let o ← readVal b
  let srcs ← checkWords p 32
  let outs ← checkBytes o n
  raiseCnt .L
  blockRoom outs
  let e ← M.env
  let vals ← if srcs.all (fun l => l.ownLs e.core) then readLocs srcs else pure []
  blockRequest d q srcs outs vals

def bodyQblkI8 (d a b : RegF) : M Unit := qblk d a b 127 32
def bodyQblkI4 (d a b : RegF) : M Unit := qblk d a b 7 16
def execQblkI8 (d a b : RegF) (s : State) : Host.Outcome State Fault Refusal := run (.qblkI8 d a b) (bodyQblkI8 d a b) s
def execQblkI4 (d a b : RegF) (s : State) : Host.Outcome State Fault Refusal := run (.qblkI4 d a b) (bodyQblkI4 d a b) s

end Sys2Proof.Machine
end

