-- ==== Sys2Proof/Machine/Ctx.lean ====
section
/-! DEFINITION. Contexts: creation, image, ending (R52, R64 to R66, R146 to R151, R173, R374), and `ctxnew`, `ctxkill`,
CONTEXT_DRAIN_END. -/

namespace Sys2Proof.Machine

/-! ## Slots and windows (R52, R54) -/

def Core.windowFree (k : Core) (w n : Nat) : Bool :=
  k.ctxs.all (fun (_, x) => x.state == .free || decide (w + n ≤ x.wbase) || decide (x.wbase + x.wcount ≤ w))

/-- The lowest multiple of 8 that starts a free run of n entries. -/
def Core.freeWindow (k : Core) (n : Nat) : Option Nat :=
  ((List.range 256).map (fun j => 8 * j)).find? (fun w => decide (w + n ≤ 2048) && k.windowFree w n)

def Core.freeSlot (k : Core) : Option Nat := (List.range k.slots).find? (fun i => (k.ctx i).state == .free)

/-! ## Allocation (R70, R78) -/

def Core.folding (k : Core) : Bool := !k.fold.isEmpty

/-- An allocation that would take a value above 65,535 starts a fold. -/
def startFold (s : State) (c : Nat) : State :=
  s.modCore c (fun k => if k.fold.contains .fold then k else { k with fold := k.fold ++ [.fold] })

/-- The request still waits: its instruction has not been left, its record can land, its gang is being placed (by the dispatcher or by command 3 of R342), its descriptor is valid, or its switch goes
on. -/
def Stall.waits (s : State) (c : Nat) : Stall → Bool
  | .ctx i u pc =>
    let x := s.ctx c i
    x.uid == u && (x.parkedOn (fun w => w == .fold) || (x.state == .ready && x.pc == pc))
  | .landing => (s.core c).landq.any (fun r => !landClosed s c r.tenant &&
      (s.core c).ctxs.any (fun (_, x) => x.state == .idleLanding && x.tenant == r.tenant))
  | .place r => s.disp.placing.any (fun p => p.2.1 == r) || (s.host.mbox.cur == some 3 && s.host.mbox.run == r)
  | .kerb t => s.disp.kerbWait.contains t
  | .switch t => s.disp.switches.any (fun w => w.tenant == t)

/-- A request may be served: no pass goes on, and none that came before it still waits (R78). -/
def mayTake (s : State) (c : Nat) (who : Stall) : Bool :=
  !(s.core c).folding && (match (s.core c).stalled.find? (Stall.waits s c) with | some w => w == who | none => true)

/-- The core's next generation, unless the request stalls. -/
def takeGen (s : State) (c : Nat) (who : Stall) : Option (BitVec 16 × State) :=
  if !mayTake s c who then none
  else ((s.core c).nextGen).map (fun g => (BitVec.ofNat 16 g, s.modCore c (fun k =>
    { k with genLast := g, genFrom := g, stalled := k.stalled.filter (fun w => w != who) })))

/-- A request for n generations takes its place among those that wait, and where they would pass 65,535 the core folds. -/
def stall (s : State) (c n : Nat) (who : Stall) : State :=
  let s1 := s.modCore c (fun k => { k with
    stalled := k.stalled.filter (fun w => w == who || w.waits s c) ++ (if k.stalled.contains who then [] else [who]) })
  if mayTake s1 c who && (s1.core c).lacksGens n then startFold s1 c else s1

/-- An allocation by an instruction: it parks on list 13 during a pass (R78). -/
def allocGen : M (BitVec 16) := fun e s =>
  let who := Stall.ctx e.slot (s.ctx e.core e.slot).uid e.tpc
  match takeGen s e.core who with
  | some r => .ok r
  | none => .error (.park { list := 13, cond := .fold } (fun s0 => stall s0 e.core 1 who))

/-! ## The register image (R64 to R66) -/

structure Img where
  first : Nat
  n : Nat
  tags : Bool
  carry : Option (List Nat)
  deriving DecidableEq, Repr

/-- A register that slots may be bound to: 1 to wcount − 1, general in the mode. -/
def bindable (wcount : Nat) (chain port : Bool) (r : Nat) : Bool :=
  decide (1 ≤ r) && decide (r < wcount) && !(port && decide (104 ≤ r) && decide (r ≤ 111)) && !(chain && decide (112 ≤ r))

def distinct : List Nat → Bool
  | [] => true
  | a :: t => !t.contains a && distinct t

/-- The header, when it meets R66. -/
def imgOf (w : Word) (wcount : Nat) (chain port : Bool) : Option Img :=
  let first := bits w 6 0
  let n := bits w 14 7
  let cs := [bits w 22 16, bits w 29 23, bits w 36 30, bits w 43 37]
  let bind := w.getLsbD 44
  if bits w 63 45 ≠ 0 ∨ first = 0 ∨ 127 < n ∨ wcount < first + n then none
  else if bind && !(chain && distinct cs && cs.all (bindable wcount chain port)) then none
  else some { first := first, n := n, tags := w.getLsbD 15, carry := if bind then some cs else none }

/-- Words that the header's own fields name after it, whether or not it meets R66. -/
def headerLen (w : Word) : Nat := bits w 14 7 + (if w.getLsbD 15 then (bits w 14 7 + 7) / 8 else 0)

/-- Words that follow the header: values, then eight tag bytes a word. -/
def Img.len (m : Img) : Nat := m.n + (if m.tags then (m.n + 7) / 8 else 0)
def Img.tagByte (m : Img) (ws : List Word) (j : Nat) : Nat := bits (ws.getD (m.n + j / 8) 0) (8 * (j % 8) + 7) (8 * (j % 8))

/-- No tag byte holds a count from 65 to 126. -/
def Img.tagsOk (m : Img) (ws : List Word) : Bool :=
  !m.tags || (List.range m.n).all (fun j => let c := m.tagByte ws j % 128; !(decide (65 ≤ c) && decide (c ≤ 126)))

def Img.fill (m : Img) (ws : List Word) : List (Nat × TVal) :=
  (List.range m.n).map (fun j =>
    (m.first + j, if m.tags then tval (ws.getD j 0).toNat (m.tagByte ws j) else TVal.int (ws.getD j 0)))

/-! ## A new context (R150, R309, R358) -/

/-- The context that a creation makes, but for what the creator gives it. -/
def newCtx (uid : Nat) (gen : BitVec 16) (pin : Pin) (chain port landing : Bool) (wbase wcount : Nat) (pc : Word) : Ctx :=
  { Ctx.reset with
    uid := uid, gen := gen, pin := pin, chain := chain, port := port, landing := landing, wbase := wbase, wcount := wcount, pc := pc,
    state := if landing then .idleLanding else .ready }

/-- The lowest rank that no context of the gang holds on the core. A tenant's contexts in no gang count as one gang (DESIGN CHOICE, log 54). -/
def freeRank (k : Core) (gang : Option Nat) (tenant : Nat) : Nat :=
  ((List.range 65).find? (fun r =>
    k.ctxs.all (fun (_, x) => x.state == .free || x.gang != gang || x.tenant != tenant || x.rank != r))).getD 0

/-- A context enters slot i: its window's entries keep their old generations, so they read 0 (R74). -/
def placeCtx (s : State) (c i : Nat) (x : Ctx) : State :=
  let s := s.setCtx c i x
  if x.state = .ready then s.modCore c (fun k => k.joinRot i) else s

/-- A global code address (R149). -/
def codeOk (pc : Word) : Bool := bits pc 1 0 == 0 && bits pc 63 52 == 0

def pinOf : Nat → Pin
  | 0 => .gen | 1 => .rep | 2 => .mat | _ => .cpy

/-- The highest round already opened in a domain (R411). -/
def lastRound (s : State) (sq : Nat) (gang : Option Nat) (rank : Nat) : BitVec 32 :=
  match gang with
  | none => 0
  | some g => ((s.square sq).opened.find? (fun (h, r, _) => h == g && r == rank)).elim 0 (fun (_, _, k) => k)

/-- R149, R150. The whole image is read before the conditions are looked at (R66); one whose header breaks R66 is read as far as the header's fields n
and tags say, and its reads may fault before −2 is returned (DESIGN CHOICE, log 64). -/
def ctxnewBody (d a : RegF) : M Unit := do
  let p ← readVal a
  let e ← M.env
  let me ← M.me
  if bits p 63 56 ≠ 0xF2 then M.trap 0x05 p 4
  else if bits p 55 42 ≠ e.core then M.trap 0x06 p 0
  else
    let ws ← loadBlock p 4
    let pc := ws.getD 0 0
    let image := ws.getD 1 0
    let w2 := ws.getD 2 0
    let chain := w2.getLsbD 2
    let port := w2.getLsbD 3
    let landing := w2.getLsbD 4
    let wc := bits w2 9 5
    let creatorChain := me.chain && me.ordered
    let bad := bits w2 63 10 != 0 || ws.getD 3 0 != 0 || wc == 0 || decide (16 < wc) || (landing && chain) || (!landing && !codeOk pc) ||
      (chain && !creatorChain)
    let header ← if image = 0 then pure 0 else loadNow image 8
    let vs ← loadWords (image + 8) (if image = 0 then 0 else headerLen (w64 header))
    let s ← M.state
    match if image = 0 then some ({ first := 1, n := 0, tags := false, carry := none } : Img)
        else imgOf (w64 header) (8 * wc) chain port with
      | none => writeInt d (-2)
      | some m =>
        if bad || !m.tagsOk vs then writeInt d (-2)
        else if bits w2 1 0 = 2 ∧ isArray e.core = false then writeInt d (-3)
        else
          let k := s.core e.core
          match k.freeSlot, k.freeWindow (8 * wc) with
          | some i, some w =>
            let g ← allocGen
            let s1 ← M.state
            let (uid, s2) := s1.fresh
            let bars := match me.gang.bind s.gang? with
              | some y => y.bars.map (fun ((n, b) : Nat × Barrier) => (n, b.done))
              | none => []
            let bars := bars.filter (fun (_, v) => v != 0)
            let x : Ctx := { newCtx uid g (pinOf (bits w2 1 0)) chain port landing w (8 * wc) pc with
              tenant := me.tenant, gang := me.gang, rank := freeRank k me.gang me.tenant, col := me.col, row := me.row,
              index := me.index, run := me.run, runId := me.runId, prio := me.prio, ordered := me.ordered, lock := me.lock,
              strm := me.strm, stream := me.stream, status := if me.level ≠ 0 ∧ landing = false then 1 else 0,
              st := { TrapRegs.zero with vec := me.st.vec }, carry := m.carry, fill := m.fill vs, arr := bars, obs := bars,
              elect := lastRound s (serveSquare e.core) me.gang (freeRank k me.gang me.tenant) }
            M.modify (fun _ => placeCtx s2 e.core i x)
            writeInt d (w64 i)
          | _, _ => writeInt d (-1)

def execCtxnew (d a : RegF) (s : State) : Host.Outcome State Fault Refusal := run (.ctxnew d a) (ctxnewBody d a) s

/-! ## Failure records raised at an instruction (R318, R319) -/

/-- The refusal in `jhead` that context x of slot i is to raise: pointer and `trapaux`. -/
def Core.myRefusal (k : Core) (i : Nat) (x : Ctx) : Option (Word × Word) :=
  match k.jrec with
  | some r =>
    if r.uid = x.uid ∧ r.slot = i ∧ r.land = x.land ∧ r.raised = false then
      some (r.ptr, w64 (r.ent + r.rsn * 64 + r.sizeCode * 1024))
    else none
  | none => none

/-- The lowest cause among the records of the named classes is raised: 0x11 copy, 0x12 rope, 0x13 posted store. -/
def raisePending (c q st : Bool) : M Unit := do
  let x ← M.me
  let k ← M.myCore
  let e ← M.env
  if c && x.recC then M.trap 0x11 (x.er 0 0x81) (x.er 0 0x80)
  else if q && x.recQ then M.trap 0x12 (x.er 3 9) (x.er 3 8)
  else
    match if st then k.myRefusal e.slot x else none with
    | some (p, aux) => M.trap 0x13 p aux
    | none => pure ()

/-- L, C, M and Q are 0 (R148, R392). -/
def Ctx.drained (x : Ctx) : Bool := x.nL == 0 && x.nC == 0 && x.nM == 0 && x.nQ == 0

def waitDrained : M Unit := do
  let x ← M.me
  if x.drained then pure () else M.park 5 (waitObject 0 31 0 0 0) .drained

/-! ## The end of a landing (R148, R163, R166) -/

/-- A context as it was before the gangs that it runs inline. -/
def Ctx.leaveInline (x : Ctx) : Ctx :=
  match x.inl.getLast? with
  | none => x
  | some n => { x with run := n.oldRun, index := n.oldIndex, runId := n.oldRunId, inl := [] }

/-- The context becomes idle landing, at user level and in no handler (R161, R374); unraised failure records of the landing are dropped (R318). A run that
it ran inline ends as where its issuer is killed (DEDUCED, log 18). -/
def endLanding (s : State) (c i : Nat) : State :=
  let s := endInline (leaveElections s c i) (s.ctx c i)
  let uid := (s.ctx c i).uid
  (s.modCtx c i (fun x => { x.leaveInline with
      state := .idleLanding, wait := none, bwait := none, hasRec := false, body := none, mtrap := none, recC := false, recQ := false, ship := none,
      packet := none, taken := {}, status := setBits x.status 7 0 0, in14 := false, results := [], held := [], fill := [], loads := []
      nS := x.nS - storesOf x.loads })).modCore c
    (fun k => { (k.leaveRot i).dropJrec uid with rounds := k.rounds.filter (fun r => r.uid != uid) })

/-! ## Publication (R171, R173, R243) -/

/-- No other live chain-mode context of the gang: this one is the last of its item to reach `exit`. -/
def lastOfItem (s : State) (c i : Nat) : Bool :=
  let x := s.ctx c i
  s.allCtxs.all (fun (d, j, y) => (d == c && j == i) || y.gang != x.gang || !y.chain || y.state == .draining)

/-- Publish step of slots (R171, R243). -/
def publish (s : State) (run item : Nat) (vs : List (Nat × TVal)) : State :=
  s.modRun run (fun r => { r with carry := r.carry ++ vs.map (fun (j, v) => (item, j, v)) })

/-- The same by context uid: the channels receive a snapshot, as a release at device scope, and every write committed so far (R243). -/
def publishBy (s : State) (uid run item : Nat) (vs : List (Nat × TVal)) : State :=
  (publish s run item vs).modOrd (fun o => { o with
    chans := o.chans ++ vs.map (fun (j, _) => (Chan.carry run item j, s.released uid .system)) })

/-- The slots of the item of x that are unpublished. -/
def openSlots (s : State) (x : Ctx) : List Nat :=
  match s.run? x.run with
  | some r => (List.range 4).filter (fun j => (r.slot? x.index j).isNone)
  | none => []

/-- The value that slot j takes from its bound register, or 0 where the slot has none. -/
def slotValue (x : Ctx) (j : Nat) : M TVal :=
  match x.carry with
  | some cs => readReg (BitVec.ofNat 7 (cs.getD j 0))
  | none => return TVal.int 0

def slotValues (x : Ctx) : List Nat → M (List (Nat × TVal))
  | [] => return []
  | j :: t => do
    let v ← slotValue x j
    let vs ← slotValues x t
    return (j, v) :: vs

/-! ## ctxkill (R151) -/

/-- R151. A tenant's contexts in no gang count as one gang (DESIGN CHOICE, log 54). -/
def ctxkillBody (a : RegF) : M Unit := do
  let v ← readVal a
  let e ← M.env
  let x ← M.me
  let k ← M.myCore
  let i := bits v 5 0
  let y := k.ctx i
  if k.slots ≤ i ∨ y.state = .free then pure ()
  else if x.level = 0 ∧ (y.gang ≠ x.gang ∨ y.tenant ≠ x.tenant) then M.trap 0x09 0 1
  else M.modify (fun s => endCtx .killed s e.core i)

def execCtxkill (a : RegF) (s : State) : Host.Outcome State Fault Refusal := run (.ctxkill a) (ctxkillBody a) s

/-! ## CONTEXT_DRAIN_END (R148, R189) -/

/-- Semaphore and copy-set indexes on a kerb core belong to one tenant (R165). -/
def shareKey (c tenant : Nat) : Nat := if isArray c then 0 else tenant

/-- When the last context that shares them becomes free, the semaphores are 0. -/
def clearSems (s : State) (c tenant : Nat) : State :=
  let k := s.core c
  if k.ctxs.any (fun (_, x) => x.state != .free && (isArray c || x.tenant == tenant)) then s
  else (s.modCore c (fun k => { k with
    sems := k.sems.filter (fun (n, _) => n / 16 != shareKey c tenant) })).modOrd (fun o => { o with
    chans := o.chans.filter (fun e => match e.1 with
      | .sem d n => !(d == c && n / 16 == shareKey c tenant)
      | _ => true) })

def freeCtx (s : State) (c i : Nat) : State :=
  let t := (s.ctx c i).tenant
  clearSems (s.setCtx c i Ctx.reset) c t

/-- Its own outstanding L, M and Q operations and its copy queue are done. -/
def Ctx.drainDone (x : Ctx) : Bool :=
  x.state == .draining && x.nL == 0 && x.nM == 0 && x.nQ == 0 && x.copyQ.isEmpty

def execContextDrainEnd (core slot : Nat) (s : State) : Host.Outcome State Fault Refusal :=
  .next (if (s.ctx core slot).drainDone then freeCtx s core slot else s)

end Sys2Proof.Machine
end

