-- ==== Sys2Proof/Machine/Landing.lean ====
section
/-! DEFINITION. Continuations (R145, R160 to R168, R196, R307, R392 to R394, R400, R446): records, shipping, landing, the hold
table, the landing overflow ring, and `go`, `susp`, `hold`, `ld.go`. -/

namespace Sys2Proof.Machine

/-! ## Records (R160) -/

def ibit (v : TVal) : Nat := if v.inx then 1 else 0

/-- The record of a context: `pc` of its next instruction, and x1 to x6 with their tags as they stand. -/
def buildRecord (k : Core) (x : Ctx) (pc : Word) (state : Nat) : List Word :=
  let r := fun n => k.readReg x n
  let t := fun (n : Nat) (p : Nat) => (r n).cnt.toNat * 2 ^ p
  let w0 := bits pc 47 2 + state * 2 ^ 46 + t 1 48 + t 2 55 + ibit (r 1) * 2 ^ 62 + ibit (r 2) * 2 ^ 63
  let w1 := x.runId % 2 ^ 24 + x.tenant % 64 * 2 ^ 24 + t 3 30 + t 4 37 + t 5 44 + t 6 51 +
    ibit (r 3) * 2 ^ 58 + ibit (r 4) * 2 ^ 59 + ibit (r 5) * 2 ^ 60 + ibit (r 6) * 2 ^ 61
  [w64 w0, w64 w1, (r 1).val, (r 2).val, (r 3).val, (r 4).val, (r 5).val, (r 6).val]

def recState (w : List Word) : Nat := bits (w.getD 0 0) 47 46
def recTenant (w : List Word) : Nat := bits (w.getD 1 0) 29 24
def recRun (w : List Word) : Nat := bits (w.getD 1 0) 23 0
def recPc (w : List Word) : Word := w64 (4 * bits (w.getD 0 0) 45 0)

/-- x1 to x6 of a record. -/
def recRegs (w : List Word) : List TVal :=
  let w0 := w.getD 0 0
  let w1 := w.getD 1 0
  let tag := fun (n : Nat) => match n with
    | 1 => (bits w0 54 48, w0.getLsbD 62)
    | 2 => (bits w0 61 55, w0.getLsbD 63)
    | 3 => (bits w1 36 30, w1.getLsbD 58)
    | 4 => (bits w1 43 37, w1.getLsbD 59)
    | 5 => (bits w1 50 44, w1.getLsbD 60)
    | _ => (bits w1 57 51, w1.getLsbD 61)
  [1, 2, 3, 4, 5, 6].map (fun n => { val := w.getD (n + 1) 0, cnt := BitVec.ofNat 7 (tag n).1, inx := (tag n).2 })

/-! ## The overflow rings (R196): dispatcher accesses under the tenant's tables (R217) -/

def sysRead (s : State) (tenant : Nat) (p : Word) : Option Word :=
  match sysPlace s tenant p .eread with
  | .ok pl => some (w64 (s.readAt pl 8 0))
  | .error _ => none

def sysWrite (s : State) (tenant : Nat) (p v : Word) : Option State :=
  match sysPlace s tenant p .ewrite with
  | .ok pl => some (s.commit { by_ := .disp } pl 8 v.toNat 0)
  | .error _ => none

def sysWrites (tenant : Nat) (p : Word) : List Word → State → Option State
  | [], s => some s
  | v :: t, s => (sysWrite s tenant p v).bind (sysWrites tenant (p + 8) t)

/-- Entries appended and taken. -/
def ringCounts (s : State) (tenant : Nat) (base : Word) : Option (Word × Word) :=
  match sysRead s tenant base, sysRead s tenant (base + 8) with
  | some t, some h => some (t, h)
  | _, _ => none

/-- `extra` more entries would still fit. -/
def ringHasRoom (s : State) (tenant : Nat) (base cap : Word) (extra : Nat) : Bool :=
  match ringCounts s tenant base with
  | some (t, h) => decide ((t - h).toNat + extra < cap.toNat)
  | none => false

/-- tail + 1, stored with a device-scope release of what the entry hands on. -/
def ringTail (s : State) (tenant : Nat) (base t : Word) (f : Front) : Option State :=
  match sysPlace s tenant base .ewrite with
  | .ok pl => some (s.commit { by_ := .disp, rel := [(.device, f)] } pl 8 (t + 1).toNat 0)
  | .error _ => none

/-- Append: the entry (sixteen words), then tail + 1. -/
def ringAppend (s : State) (tenant : Nat) (base cap : Word) (words : List Word) (word8 : Word) (f : Front) : Option State :=
  match ringCounts s tenant base with
  | none => none
  | some (t, h) =>
    if cap.toNat ≤ (t - h).toNat then none
    else
      let p := base + 64 + w64 (128 * (t.toNat % cap.toNat))
      (sysWrites tenant p (words ++ word8 :: List.replicate 7 0) s).bind (fun s => ringTail s tenant base t f)

/-- What the taker of an entry acquires through tail. -/
def ringFront (s : State) (tenant : Nat) (base : Word) : Front :=
  match sysPlace s tenant base .eread with
  | .ok pl => s.acquiredAt .disp pl 8
  | .error _ => {}

/-- The entry at head: its eight words and word 8. -/
def ringHead (s : State) (tenant : Nat) (base cap : Word) : Option (List Word × Word) :=
  match ringCounts s tenant base with
  | none => none
  | some (t, h) =>
    if t = h ∨ cap = 0 then none
    else
      let p := base + 64 + w64 (128 * (h.toNat % cap.toNat))
      match (List.range 8).mapM (fun j => sysRead s tenant (p + w64 (8 * j))), sysRead s tenant (p + 64) with
      | some ws, some x => some (ws, x)
      | _, _ => none

/-- head + 1, stored with a release. -/
def ringTake (s : State) (tenant : Nat) (base : Word) : Option State :=
  match ringCounts s tenant base, sysPlace s tenant (base + 8) .ewrite with
  | some (_, h), .ok pl => some (s.commit { by_ := .disp, rel := [(.device, ringFront s tenant base)] } pl 8 (h + 1).toNat 0)
  | _, _ => none

/-! ## Delivery (R162) -/

/-- A core has a landing context of the tenant, other than one that is to end (R165). -/
def hasLanding (s : State) (c t : Nat) : Bool :=
  (s.core c).ctxs.any (fun (_, x) => x.landing && x.tenant == t && x.state != .free && x.state != .draining && !s.disp.kerbEnds.contains x.uid)

/-- The queue of core c takes a record of tenant t, `extra` others being on their way to it. -/
def queueTakes (s : State) (c t extra : Nat) : Bool := decide ((s.core c).landq.length + extra < 16) && hasLanding s c t && !(isKerb c && stopped s t)

def ringTakes (s : State) (t extra : Nat) : Bool :=
  match s.part? t with
  | some p => ringHasRoom s t (p.word 2) (p.word 3) extra
  | none => false

def enqueueRecord (s : State) (sh : Shipment) : State := s.modCore sh.dest (fun k => { k with landq := k.landq ++ [sh] })

/-- The tenant's ring holds a record of this sender to the core: a later one of the sender does not overtake it (R162). -/
def ringHolds (s : State) (t sender dest : Nat) : Bool :=
  s.disp.ringed.any (fun (u, n, f, d) => u == t && f == sender && d == dest &&
    (match (s.part? t).bind (fun p => ringCounts s t (p.word 2)) with
    | some (tail, head) => decide ((w64 n - head).toNat < (tail - head).toNat)
    | none => false))

/-- A record of the shipment's sender may enter its destination's queue, `extra` others being on their way there. -/
def mayQueue (s : State) (sh : Shipment) (extra : Nat) : Bool :=
  queueTakes s sh.dest sh.tenant extra && !ringHolds s sh.tenant sh.sender sh.dest

/-- Where a record has gone: its destination's queue, or an entry of the tenant's ring by its number. -/
inductive Delivered where
  | queue
  | ring (entry : Nat)
  deriving DecidableEq, Repr

/-- A record reaches its destination: its landing queue, or the tenant's ring; none when neither can take it. -/
def deliverRecord (s : State) (sh : Shipment) : Option (Delivered × State) :=
  if mayQueue s sh 0 then some (.queue, enqueueRecord s sh)
  else
    match s.part? sh.tenant with
    | none => none
    | some p =>
      match ringCounts s sh.tenant (p.word 2) with
      | none => none
      | some (tail, _) =>
        (ringAppend s sh.tenant (p.word 2) (p.word 3) sh.words (w64 (sh.dest + sh.src * 2 ^ 14)) sh.front).map (fun s =>
          (.ring tail.toNat, s.modDisp (fun d => { d with
            ringed := d.ringed.filter (fun (t, n, _, _) => !(t == sh.tenant && n == tail.toNat)) ++ [(sh.tenant, tail.toNat, sh.sender, sh.dest)] })))

/-- A record may leave its sender: the destination or the ring has a place for it beside those on their way (DEDUCED, log 19). -/
def canShip (s : State) (sh : Shipment) : Bool :=
  mayQueue s sh (s.ships.filter (fun x => x.dest == sh.dest)).length ||
  ringTakes s sh.tenant (s.ships.filter (fun x => x.tenant == sh.tenant)).length

/-- RECORD_ARRIVAL: records of one sender to one destination arrive in the order sent; those of a stopped partition are laid by (R324). -/
def execRecordArrival (idx : Nat) (s : State) : Host.Outcome State Fault Refusal :=
  match s.ships[idx]? with
  | none => .next s
  | some sh =>
    if stopped s sh.tenant || (s.ships.take idx).any (fun x => x.sender == sh.sender && x.dest == sh.dest) then .next s
    else .next (((deliverRecord { s with ships := s.ships.take idx ++ s.ships.drop (idx + 1) } sh).map (fun d => d.2)).getD s)

/-! ## Landing (R163, R164, R307) -/

/-- The idle landing context of the tenant with the lowest slot. -/
def idleFor (s : State) (c t : Nat) : Option Nat :=
  ((s.core c).ctxs.find? (fun (_, x) => x.state == .idleLanding && x.tenant == t && !s.disp.kerbEnds.contains x.uid)).map (fun (i, _) => i)

/-- The place in the queue of the record that lands next. -/
def nextLanding (s : State) (c : Nat) : Option (Nat × Shipment × Nat) :=
  let k := s.core c
  (List.range k.landq.length).findSome? (fun n =>
    match k.landq[n]? with
    | some sh => if landClosed s c sh.tenant then none else (idleFor s c sh.tenant).map (fun i => (n, sh, i))
    | none => none)

/-- The state a landing sets (R163 and the table of R164), at user level (R161). -/
def landedCtx (x : Ctx) (gen : BitVec 16) (land run : Nat) (w : List Word) : Ctx :=
  { x with
    gen := gen, land := land, hasRec := true, runId := recRun w, run := run, pc := recPc w, state := .ready, wait := none,
    fround := 0, fflags := 0, sigmin := 0, tagbase := 0, qdst := [], rxq := [], ut := TrapRegs.zero,
    status := setBits x.status 7 0 0, binds := [], ereg := [], fill := [], body := none, loads := [], packet := none,
    xfault := none, eout := none, in14 := false, skip := [] }

def writeRegs (x : Ctx) : List TVal → Nat → Core → Core
  | [], _, k => k
  | v :: t, n, k => writeRegs x t (n + 1) (k.writeReg x n v)

/-- The run of a tenant with this identifier. -/
def runNamed (s : State) (t id : Nat) : Nat :=
  match s.disp.runs.find? (fun r => r.tenant == t && r.runId == id) with
  | some r => r.uid
  | none => 0

def land (s : State) (core n : Nat) (sh : Shipment) (i : Nat) : State :=
  match takeGen s core .landing with
  | none => stall s core 1 .landing
  | some (g, s1) =>
    let (id, s2) := s1.fresh
    let x := landedCtx (s.ctx core i) g id (runNamed s sh.tenant (recRun sh.words)) sh.words
    let s3 := (s2.gain x.uid sh.front).modCore core (fun k => { k with landq := k.landq.take n ++ k.landq.drop (n + 1) })
    (s3.setCtx core i x).modCore core (fun k => (writeRegs x (recRegs sh.words) 1 k).joinRot i)

def execLanding (core : Nat) (s : State) : Host.Outcome State Fault Refusal :=
  match nextLanding s core with
  | some (n, sh, i) => .next (land s core n sh i)
  | none => .next s

/-! ## go (R166, R393) -/

/-- Drain and raise unraised failures (R392 items 1 and 2), then wait as a release does (R233). -/
def landingEnd : M Unit := do
  waitDrained
  raisePending true true true
  waitPerformed

/-- The core a core-naming pointer leads to, with offset 0. A private pointer names none, whatever its range (R393). -/
def goCore (s : State) (core : Nat) (x : Ctx) (p : Word) : Except TrapInfo Nat :=
  match checkPtr s core x.pvbase p 1 with
  | .error t => .error (if bits p 63 24 = 0xF100000000 then wfault p 4 else t)
  | .ok (.loc, .ls c 0) | .ok (.sq, .ls c 0) | .ok (.rem, .ls c 0) =>
    if isArray c && !s.inPart x.tenant c then .error { cause := 0x09, aux := 1 } else .ok c
  | .ok (.loc, _) | .ok (.sq, _) | .ok (.rem, _) => .error (wfault p 3)
  | .ok _ => .error (wfault p 4)

/-- The kerb core beside the channel of a global address. A host page has no channel: which core is then a free value (DESIGN CHOICE, log 5). -/
def goGlobal (p : Word) (op : Op) : M Nat := do
  let (pl, _) ← translate p op
  match pl with
  | .hbm m => return kerbOf m
  | _ => do
    let n ← M.draw
    return 12288 + Config.freePick n % 256

/-- The landing ends and its record leaves for `dest`, or the context keeps both and parks on list 10 (R162). One sender is a core: its records to one
destination keep their order, whichever context sent them, and one that a hold table sends is of the core that owns the block (DESIGN CHOICE, log 60). -/
def shipAndEnd (dest : Nat) (pc : Word) : M Unit := do
  let e ← M.env
  let x ← M.me
  let k ← M.myCore
  let s ← M.state
  let w := buildRecord k x pc 1
  let sh : Shipment :=
    { words := w, dest := dest, src := 0, tenant := x.tenant, sender := e.core, front := s.released x.uid .device }
  if canShip s sh then M.modify (fun s => endLanding { s with ships := s.ships ++ [sh] } e.core e.slot)
  else
    M.modMe (fun x => { x with ship := some (dest, w) })
    M.parkKeep 10 0 .delivery

def goLanding (p : Word) : M Unit := do
  let e ← M.env
  let s ← M.state
  let x ← M.me
  landingEnd
  if bits p 63 56 = 0 ∧ p.getLsbD 51 = false then
    match checkPtr s e.core x.pvbase p 1 with
    | .error t => M.stop (.trap t)
    | .ok _ =>
      let d ← goGlobal p .gchk
      shipAndEnd d (e.pc + 4)
  else
    match goCore s e.core x p with
    | .error t => M.stop (.trap t)
    | .ok d => shipAndEnd d (e.pc + 4)

/-- The place of a ring entry in Ctx.ship: no core. -/
def ringMark : Nat := 65534

/-- A record that the context has taken is handed on: it goes on once the record is in the queue, and parks on list 10 while it is in the ring or can
enter neither (R162, R393). -/
def handOn (w : List Word) (front : Front) : M Unit := do
  let e ← M.env
  let x ← M.me
  let s ← M.state
  let sh : Shipment := { words := w, dest := e.core, src := 0, tenant := x.tenant, sender := e.core, front := front }
  match deliverRecord s sh with
  | some (.queue, s') => M.modify (fun _ => s'.modCtx e.core e.slot (fun x => { x with ship := none }))
  | some (.ring n, s') =>
    M.modify (fun _ => s'.modCtx e.core e.slot (fun x => { x with ship := some (ringMark, [w64 n, e.tpc]) }))
    M.parkKeep 10 0 .delivery
  | none =>
    M.modMe (fun x => { x with ship := some (e.core, w ++ [e.tpc]) })
    M.parkKeep 10 0 .delivery

/-- R166, second row: the record at xa is taken in one Atomic step and handed to the issuing core's own queue. -/
def takeRecord (p : Word) : M Unit := do
  let (l, _) ← resolve p 64 .atom false
  boardCheck l true
  waitPerformed
  let e ← M.env
  let x ← M.me
  let s ← M.state
  match homeFault s e.core (.cas 0 0 .device) l.place p l.lv x.gen with
  | some t => M.stop (.trap t)
  | none =>
    let w := (List.range 8).map (fun j => w64 (s.readAt (l.place.plus (8 * j)) 8 x.gen))
    if recTenant w ≠ x.tenant then M.trap 0x09 0 1
    else if recState w ≠ 1 then M.trap 0x09 0 2
    else if bits (w.getD 1 0) 63 62 ≠ 0 then M.trap 0x09 0 3
    else if s.staleTrap (l.place.plus 32) x.gen then M.trap 0x0A p 0
    else
      let s1 := s.see x.uid (s.latest l.place 64)
      let got := s.acquiredAt (.ctx x.uid e.core x.tenant 0 0) l.place 64
      M.modify (fun _ => (s1.commit (s1.byRelease e.core x.uid x.tenant x.seq .device) l.place 8 (setBits (w.getD 0 0) 47 46 0).toNat x.gen).gain x.uid got)
      countAccess
      handOn w ((s.released x.uid .device).join got)

/-- `go` outside landing role. One that a handler has interrupted goes on with the record that it has taken; a record of another such `go` goes on its way
by itself (DESIGN CHOICE, log 19). -/
def goTake (p : Word) : M Unit := do
  let e ← M.env
  let x ← M.me
  let s ← M.state
  match x.ship with
  | some (65534, [n, pc]) =>
    if pc ≠ e.tpc then takeRecord p
    else if s.disp.ringed.any (fun (t, m, _, _) => t == x.tenant && m == n.toNat) then M.parkKeep 10 0 .delivery
    else M.modMe (fun x => { x with ship := none })
  | some (d, ws) =>
    if ws.getD 8 0 = e.tpc then handOn (ws.take 8) (s.released x.uid .device)
    else
      M.modify (fun s => { s with ships := s.ships ++
        [{ words := ws.take 8, dest := d, src := 0, tenant := x.tenant, sender := e.core, front := s.released x.uid .device }] })
      takeRecord p
  | none => takeRecord p

def execGo (a : RegF) (s : State) : Host.Outcome State Fault Refusal :=
  run (.go a) (do
    let p ← readVal a
    let x ← M.me
    if x.landing then goLanding p else goTake p) s

/-! ## ld.go (R168, R400) -/

def execLdGo (d a : RegF) (size : Size) (imm : BitVec 7) (s : State) : Host.Outcome State Fault Refusal :=
  run (.ldGo d a size imm) (do
    let p ← loadPtr a size imm
    let x ← M.me
    let e ← M.env
    if !x.landing || bits p 63 56 != 0 || p.getLsbD 51 then loadFrom d p size false true
    else
      let (l, _) ← resolve p (sizeBytes size) .ld false
      -- a host page has no channel: any kerb core performs the load (DEDUCED, log 5)
      let own := match l.place with
        | .hbm m => isKerb e.core && kerbOf m == e.core
        | _ => isKerb e.core
      if own then loadFrom d p size false true
      else
        landingEnd
        let c ← goGlobal p .ld
        shipAndEnd c e.pc) s

/-! ## susp (R446) -/

def needLanding : M Unit := do
  let x ← M.me
  if x.landing then pure () else M.illegal 4

/-- The target of `susp` and `hold`: an array core outside the partition, or a place in no live region (R166, R394, R446). -/
def recordTarget (l : Loc) : M Unit := do
  let s ← M.state
  let x ← M.me
  match l.place with
  | .ls c off =>
    if l.win = .rem ∧ isArray c ∧ s.inPart x.tenant c = false then M.trap 0x09 0 1
    else if ((s.core c).regionAt off).isNone then M.trap 0x09 l.ptr 6
    else pure ()
  | _ => pure ()

/-- A record written by context x at a place as 8-byte stores, word 0 last, as a release. -/
def writeRecord (s : State) (core : Nat) (x : Ctx) (pl : Place) (w : List Word) : State :=
  [1, 2, 3, 4, 5, 6, 7, 0].foldl (fun (s : State) j =>
    s.commit (if j = 0 then s.byRelease core x.uid x.tenant x.seq .device else s.byCtx core x.uid x.tenant x.seq) (pl.plus (8 * j)) 8
      (w.getD j 0).toNat x.gen) s

/-- The eight stores of a record to the remote window, journalled in order. -/
def journalRecord (l : Loc) (w : List Word) : List Nat → M Unit
  | [] => pure ()
  | j :: t => do
    raiseCnt .S
    journalStore { l with place := l.place.plus (8 * j), ptr := l.ptr + w64 (8 * j), size := 8 } (w.getD j 0) (j == 0) 0 true
    journalRecord l w t

/-- The number of a remote `susp` whose stores are journalled, in Ctx.ship: no core. The landing ends as word 0 is accepted. -/
def suspMark : Nat := 65535

def execSusp (a : RegF) (s : State) : Host.Outcome State Fault Refusal :=
  run (.susp a) (do
    needLanding
    let e ← M.env
    let p ← readVal a
    landingEnd
    let (l, _) ← resolve p 64 .st false
    recordTarget l
    boardCheck l true
    let k ← M.myCore
    let x ← M.me
    let w := buildRecord k x (e.pc + 4) 1
    if l.win = .rem then
      if k.journal.length + k.promised > 56 then M.park 5 (2 ^ 25 + waitObject 31 31 31 31 31) (.journal 8)
      else
        journalRecord l w [1, 2, 3, 4, 5, 6, 7, 0]
        M.modMe (fun x => { x with ship := some (suspMark, []) })
        M.parkKeep 1 0 .performed
    else
      M.modify (fun s => writeRecord s e.core x l.place w)
      countAccess
      M.modify (fun s => endLanding s e.core e.slot)) s

/-! ## POSTED_STORE_ACCEPT (R244, R319, R446) -/

/-- A context waits for its remote `susp`. -/
def Ctx.suspends (x : Ctx) (e : JEntry) : Bool := e.susp && x.uid == e.uid && (match x.ship with | some (65535, _) => true | _ => false)

/-- The landing ends in the step that commits word 0 of its record. -/
def suspEnds (s : State) (core : Nat) (e : JEntry) : State :=
  if e.rel && (s.ctx core e.slot).suspends e then endLanding s core e.slot else s

/-- A refused store leaves the landing as it was: the stores that are left are taken back, and the context is at its `susp` again, which raises the
refusal. -/
def suspFails (s : State) (core : Nat) (e : JEntry) : State :=
  if (s.ctx core e.slot).suspends e then (dropSusp s core e.slot).modCtx core e.slot (fun x => { x with ship := none }) else s

def execPostedStoreAccept (core idx answer : Nat) (s : State) : Host.Outcome State Fault Refusal :=
  match (s.core core).journal[idx]? with
  | none => .next s
  | some e =>
    if !acceptReady s core e then .next s
    else
      let s1 := s.modCore core (fun k => { k with journal := k.journal.filter (fun j => j.ent != e.ent) })
      let s2 := if e.pair ≠ 0 ∧ (s1.core core).journal.any (fun j => j.uid == e.uid && j.pair == e.pair) then s1
        else lowerS s1 core e.slot e.uid
      match refusal s e answer with
      | 0 => .next (suspEnds (s2.commit (if e.rel then s.byRelease core e.uid e.tenant e.seq .device else s.byCtx core e.uid e.tenant e.seq)
          e.place e.size e.value.toNat e.gen) core e)
      | r => .next (recordRefusal (suspFails s2 core e) core e r)

/-! ## hold (R166, R167, R394) -/

def execHold (a : RegF) (s : State) : Host.Outcome State Fault Refusal :=
  run (.hold a) (do
    needLanding
    let p ← readVal a
    let e ← M.env
    let x ← M.me
    landingEnd
    let s ← M.state
    match checkPtr s e.core x.pvbase p 128 with
    | .error t => M.stop (.trap t)
    | .ok (.glob, _) | .ok (.peer, _) | .ok (.priv, _) => M.trap 0x05 p 4
    | .ok _ =>
      let (l, _) ← resolve p 128 .st false
      recordTarget l
      boardCheck l true
      match l.place with
      | .ls c off =>
        let s ← M.state
        let t := s.core c
        if (match t.regionAt off with | some r => decide (r.off + r.len < off + 128) | none => true) then M.trap 0x09 p 6
        else if t.hold.any (fun h => h.off == off) then M.trap 0x09 p 7
        else if t.hold.length ≥ 32 then M.park 11 0 (.hold c)
        else
          let k ← M.myCore
          let w := buildRecord k x (e.pc + 4) 2
          M.modify (fun s => (writeRecord s e.core x l.place w).modCore c (fun k => { k with
            hold := k.hold ++ [{ off := off, tenant := x.tenant, words := w, front := s.released x.uid .device }] }))
          countAccess
          M.modify (fun s => endLanding s e.core e.slot)
      | _ => pure ()) s

/-- A retired gang's region is freed with its last hold entry (R394). -/
def dropRetired (k : Core) : Core :=
  { k with regions := k.regions.filter (fun r => !r.retired ||
      k.hold.any (fun h => decide (r.off ≤ h.off) && decide (h.off < r.off + r.len))) }

/-- The record of a hold entry with the mailbox value in x6; software's bytes or the record as written (R307: free). -/
def holdRecord (s : State) (core : Nat) (h : HoldEntry) (stored : Bool) : List Word :=
  let w := if stored then (List.range 8).map (fun j => w64 (s.readAt (.ls core (h.off + 8 * j)) 8 0)) else h.words
  let m := w64 (s.readAt (.ls core (h.off + 64)) 8 0)
  [setBits (w.getD 0 0) 47 46 1, setBits (setBits (w.getD 1 0) 57 51 127) 61 61 0] ++ (w.drop 2).take 5 ++ [m]

/-- A full mailbox sends the record on; once it has entered a queue or the ring, the word is emptied and the entry removed. One that cannot be
delivered is noted, and tried again every 1,024 cycles. -/
def holdSend (s : State) (core idx : Nat) : State :=
  let note := fun (b : Bool) (s : State) => s.modCore core (fun k => { k with hold := k.hold.modify idx (fun h => { h with tried := b }) })
  match (s.core core).hold[idx]? with
  | none => s
  | some h =>
    let g := ((s.core core).gov 0 h.off).1
    if !(s.core core).seenFull g (h.off + 64) then note false s
    else
      let (n, s1) := s.draw
      let sh : Shipment :=
        { words := holdRecord s core h (Config.freeChoice n), dest := core, src := 1, tenant := h.tenant, sender := core,
          front := h.front.join (s.emptiedAt (.ctx 0 core h.tenant 0 0) (.ls core (h.off + 64)) 8) }
      match deliverRecord s1 sh with
      | none => note true s
      | some (_, s2) => s2.modCore core (fun k => dropRetired { k.setFe g (h.off + 64) false with
          hold := k.hold.filter (fun x => x.off != h.off) })

def heldBefore (s : State) (core idx : Nat) : Bool := (s.core core).hold[idx]?.any (fun h => h.tried)

/-- The first try, when the word is or becomes full; the retries fall every 1,024 cycles (R162). -/
def execHoldRecordSend (core idx : Nat) (s : State) : Host.Outcome State Fault Refusal :=
  .next (if heldBefore s core idx then s else holdSend s core idx)
def execHoldDeliveryRetry (core idx : Nat) (s : State) : Host.Outcome State Fault Refusal :=
  .next (if heldBefore s core idx then holdSend s core idx else s)

/-! ## Retries (R162) -/

/-- A `go` outside landing role has its record in the queue: it goes on. -/
def goDone (s : State) (c i : Nat) : State := (s.modCtx c i (fun x => { x with ship := none, pc := x.pc + 4 })).endWait c i

/-- Every 1,024 cycles a parked sender's record is offered again, first to the queue and then to the ring. -/
def execGoDeliveryRetry (core slot : Nat) (s : State) : Host.Outcome State Fault Refusal :=
  let x := s.ctx core slot
  match if x.parkedOn (fun w => w == .delivery) then x.ship else none with
  | some (65534, _) | none => .next s
  | some (dest, w) =>
    let sh : Shipment :=
      { words := w.take 8, dest := dest, src := 0, tenant := x.tenant, sender := core, front := s.released x.uid .device }
    if x.landing then .next (if canShip s sh then endLanding { s with ships := s.ships ++ [sh] } core slot else s)
    else
      match deliverRecord s sh with
      | some (.queue, s1) => .next (goDone s1 core slot)
      | some (.ring n, s1) => .next (s1.modCtx core slot (fun x => { x with ship := some (ringMark, [w64 n, w.getD 8 0]) }))
      | none => .next s

/-- The contexts whose record was this entry of the ring go on. -/
def ringLeft (s : State) (tenant n : Nat) : State :=
  let s1 := s.modDisp (fun d => { d with ringed := d.ringed.filter (fun (t, m, _, _) => !(t == tenant && m == n)) })
  (s1.allCtxs.filter (fun (_, _, x) => x.tenant == tenant && x.parkedOn (fun w => w == .delivery) &&
    (match x.ship with | some (65534, v :: _) => v.toNat == n | _ => false))).foldl (fun s (c, i, _) => goDone s c i) s1

/-- The dispatcher re-delivers the record at the head of a tenant's ring. -/
def execLandingRingRedelivery (tenant : Nat) (s : State) : Host.Outcome State Fault Refusal :=
  match s.part? tenant with
  | none => .next s
  | some p =>
    match ringHead s tenant (p.word 2) (p.word 3) with
    | none => .next s
    | some (w, x) =>
      let dest := bits x 13 0
      if !queueTakes s dest tenant 0 then .next s
      else
        match ringTake s tenant (p.word 2) with
        | none => .next s
        | some s' =>
          let sh : Shipment :=
            { words := w, dest := dest, src := bits x 15 14, tenant := tenant, sender := dest, front := ringFront s tenant (p.word 2) }
          .next (ringLeft (enqueueRecord s' sh) tenant (((ringCounts s tenant (p.word 2)).map (fun c => c.2.toNat)).getD 0))

end Sys2Proof.Machine
end

