-- ==== Sys2Proof/Machine/Sync.lean ====
section
/-! DEFINITION. `wait`, phase barriers, semaphores, `yield`, `pass`, `take` and the tile dispenser (R171, R184 to R192, R203, R204,
R358, R359, R416, R432, R447, R450, R451). -/

namespace Sys2Proof.Machine

/-! ## wait (R187, R450) -/

/-- Every field other than 31 is at least the count of its class. -/
def Ctx.atMost (x : Ctx) (l s c m q : Nat) : Bool :=
  (l == 31 || decide (x.nL ≤ l)) && (s == 31 || decide (x.nS ≤ s)) && (c == 31 || decide (x.nC ≤ c)) &&
  (m == 31 || decide (x.nM ≤ m)) && (q == 31 || decide (x.nQ ≤ q))

/-- The frontiers gain what the completed commands of the named classes have written (R241). -/
def waited (u : Nat) (c m q : Bool) (s : State) : State :=
  let f := fun (b : Bool) (n : Nat) => if b then s.chan (.done u n) else {}
  s.gain u (((f c 1).join (f m 2)).join (f q 3))

/-- The snapshot object of a parked `wait`: its fields, or those of R305 while an `smpw` of the context holds it (DEDUCED, log 40). -/
def heldObject (x : Ctx) (l s c m q : Nat) : Nat :=
  if q < x.nQ ∧ q ≠ 31 ∧ x.loads.any (fun r => match r.kind with | .smpw _ _ _ _ => true | _ => false) then waitObject 31 31 31 31 0
  else waitObject l s c m q

/-- A pending failure of a named class is raised before the counters are tested. -/
def waitBody (l s c m q : BitVec 5) : M Unit := do
  raisePending (c != 31) (q != 31) (s != 31)
  let x ← M.me
  if x.atMost l.toNat s.toNat c.toNat m.toNat q.toNat then M.modify (waited x.uid (c != 31) (m != 31) (q != 31))
  else M.park 5 (heldObject x l.toNat s.toNat c.toNat m.toNat q.toNat) (.counters l.toNat s.toNat c.toNat m.toNat q.toNat)

def execWait (l s c m q : BitVec 5) (st : State) : Host.Outcome State Fault Refusal := run (.wait l s c m q) (waitBody l s c m q) st

/-! ## bar, barw (R191, R358, R359) -/

/-- The condition on which `bar` parks: it would count into a slot whose phase is not complete and observed by all. -/
def barBlocked (s : State) (x : Ctx) (g n : Nat) : Bool :=
  let q := SMap.get x.arr n 0
  match s.gang? g with
  | none => false
  | some y => !before q 2 && (before (y.bar n).done (q - 1) || (s.members g).any (fun (_, _, z) => before (SMap.get z.obs n 0) (q - 1)))

/-- An arrival (R191): it observes what is complete, counts, and completes phases. What completes phase q is a release by its
arrivals, at the scope of the gang's cores; what completed phase q − 2 goes on with it, since all that observe q have observed that. -/
def arrive (s : State) (c i g n : Nat) : State :=
  let x := s.ctx c i
  let q := SMap.get x.arr n 0
  match s.gang? g with
  | none => s
  | some y =>
    let b := y.bar n
    let s := s.gain x.uid (s.observed g n (minCnt b.done q))
    let s := s.joinChan (.bar g n q.toNat) ((s.released x.uid (.cores y.cores)).join (s.chan (.bar g n (q - 2).toNat)))
    let s := s.modCtx c i (fun x => { x with obs := SMap.put x.obs 0 n (minCnt b.done q), arr := SMap.put x.arr 0 n (q + 1) })
    completeBar g n 2 (s.modGang g (fun y => y.setBar n (b.setSlot q (b.slot q + 1))))

def barObject (x : Ctx) (n : Nat) : Nat := n + 8 * (SMap.get x.arr n (0 : BitVec 32)).toNat

/-- A context in landing role has no barrier. In a gang run inline the issuer is the only member of a fresh set: its arrival
completes at once. A kerb context outside any gang is taken alike (DEDUCED, log 20). An arrival is a release: it follows every earlier access, and until then the
context is on list 6 as well (R358). -/
def barBody (n : Nat) : M Unit := do
  let x ← M.me
  let e ← M.env
  if x.landing then M.trap 0x09 0 5
  else
    match x.inl, x.gang with
    | c :: t, _ => M.modMe (fun x => { x with inl := { c with bars := SMap.put c.bars 0 n (SMap.get c.bars n 0 + 1) } :: t })
    | [], none => pure ()
    | [], some g =>
      let s ← M.state
      if barBlocked s x g n || !allPerformed (s.core e.core) x x.seq then M.park 6 (barObject x n) (.bar n)
      else M.modify (fun s => arrive s e.core e.slot g n)

def barwBody (n : Nat) : M Unit := do
  let x ← M.me
  if x.landing then M.trap 0x09 0 5
  else
    match x.inl, x.gang with
    | [], some g =>
      let s ← M.state
      let done := match s.gang? g with
        | some y => (y.bar n).done
        | none => SMap.get x.arr n 0
      if before done (SMap.get x.arr n 0) then M.park 6 (barObject x n) (.barw n)
      else
        M.modify (fun s => s.gain x.uid (s.observed g n (SMap.get x.arr n 0)))
        M.modMe (fun x => { x with obs := SMap.put x.obs 0 n (SMap.get x.arr n 0) })
    | _, _ => pure ()

def execBar (n : BitVec 3) (s : State) : Host.Outcome State Fault Refusal := run (.bar n) (barBody n.toNat) s
def execBarw (n : BitVec 3) (s : State) : Host.Outcome State Fault Refusal := run (.barw n) (barwBody n.toNat) s

/-! ## semp, semv (R189, R190, R432) -/

def semKey (c tenant n : Nat) : Nat := 16 * shareKey c tenant + n

/-- The context that has been parked longest on semaphore n and shares it with tenant t. -/
def longestParked (k : Core) (p : Ctx → Bool) : Option Nat :=
  (k.ctxs.foldl (fun (best : Option (Nat × Nat)) (i, x) =>
    match x.wait with
    | some w =>
      if p x then
        (match best with
          | some (_, n) => if w.seq < n then some (i, w.seq) else best
          | none => some (i, w.seq))
      else best
    | none => best) none).map (fun (i, _) => i)

/-- An acquire of what the `semv` of the semaphore have released. -/
def semGain (core key uid : Nat) (s : State) : State := s.gain uid (s.chan (.sem core key))

def sempBody (n : Nat) : M Unit := do
  let e ← M.env
  let x ← M.me
  let key := semKey e.core x.tenant n
  let k ← M.myCore
  let v := SMap.get k.sems key 0
  if v = 0 then M.park 7 n (.sem n)
  else
    M.modify (semGain e.core key x.uid)
    M.modMyCore (fun k => { k with sems := SMap.put k.sems 0 key (v - 1) })

/-- A parked `semp` is given the count and completes: its context goes on behind it. -/
def grantSem (s : State) (c i key : Nat) : State :=
  (semGain c key (s.ctx c i).uid (s.modCtx c i (fun x => { x with pc := x.pc + 4 }))).endWait c i

def semvBody (n : Nat) : M Unit := do
  waitPerformed
  let e ← M.env
  let x ← M.me
  let k ← M.myCore
  let key := semKey e.core x.tenant n
  M.modify (fun s => s.joinChan (.sem e.core key) (s.released x.uid (.cores [e.core])))
  match longestParked k (fun y => y.tenant == x.tenant && y.parkedOn (fun w => w == .sem n)) with
  | some i => M.modify (fun s => grantSem s e.core i key)
  | none =>
    let v := SMap.get k.sems key (0 : BitVec 16)
    M.modMyCore (fun k => { k with sems := SMap.put k.sems 0 key (if v = 0xFFFF then v else v + 1) })

def execSemp (n : BitVec 4) (s : State) : Host.Outcome State Fault Refusal := run (.semp n) (sempBody n.toNat) s
def execSemv (n : BitVec 4) (s : State) : Host.Outcome State Fault Refusal := run (.semv n) (semvBody n.toNat) s

/-! ## yield (R184) -/

/-- The context is skipped until every other context that is ready now has issued or parked. -/
def execYield (s : State) : Host.Outcome State Fault Refusal :=
  run .yield (do
    let e ← M.env
    let k ← M.myCore
    M.modMe (fun x => { x with skip := (k.ctxs.filter (fun (i, y) => i != e.slot && y.state == .ready)).map (fun (i, _) => i) })) s

/-! ## pass (R171, R416) -/

def passBody (m : Nat) : M Unit := do
  let x ← M.me
  let e ← M.env
  if x.chain = false ∨ x.carry = none ∨ x.inl ≠ [] then M.trap 0x0C 0 1
  else
    let want := (List.range 4).filter (fun j => m / 2 ^ j % 2 == 1)
    let vs ← slotValues x want
    let s ← M.state
    let done := want.filter (fun j => !(openSlots s x).contains j)
    if !done.isEmpty then M.trap 0x0D 0 (w64 ((done.map (fun j => 2 ^ j)).foldl (· + ·) 0))
    else
      waitPerformed
      M.modify (fun s => publishBy s x.uid x.run (s.ctx e.core e.slot).index vs)

def execPass (m : BitVec 7) (s : State) : Host.Outcome State Fault Refusal := run (.pass m) (passBody m.toNat) s

/-! ## take, TAKE_ANSWER (R203, R204, R447) -/

/-- The request goes to the square's dispenser; it counts in no class. -/
def bodyTake (d : RegF) : M Unit := do
  let e ← M.env
  let x ← M.me
  request d (.take x.run) { place := .ls e.core 0, ptr := 0, win := .loc, size := 8 } false

def execTake (d : RegF) (s : State) : Host.Outcome State Fault Refusal := run (.take d) (bodyTake d) s

/-- The fullest of the given squares' pools that is not empty; ties go to the lowest square. -/
def fullest (pools : List (Nat × Nat × Nat)) (ok : Nat → Bool) : Option (Nat × Nat × Nat) :=
  pools.foldl (fun (best : Option (Nat × Nat × Nat)) (q, a, b) =>
    if ok q && decide (a < b) then
      (match best with
        | some (p, c, d) => if d - c < b - a ∨ (d - c = b - a ∧ q < p) then some (q, a, b) else best
        | none => some (q, a, b))
    else best) none

/-- Edge-adjacent squares of the array. -/
def adjacent (q p : Nat) : Bool :=
  decide (q < 768) && decide (p < 768) && ((decide (q / 24 = p / 24) && (decide (q + 1 = p) || decide (p + 1 = q))) || decide (q + 24 = p) || decide (p + 24 = q))

def setPool (pools : List (Nat × Nat × Nat)) (q a b : Nat) : List (Nat × Nat × Nat) :=
  pools.map (fun (p, c, d) => if p = q then (q, a, b) else (p, c, d))

/-- What the dispenser of square q answers for a pool list, and the pools after. -/
def takeTile (pools : List (Nat × Nat × Nat)) (q : Nat) : Option Nat × List (Nat × Nat × Nat) :=
  match pools.find? (fun (p, _, _) => p == q) with
  | none =>
    match fullest pools (fun _ => true) with
    | some (p, a, b) => (some (b - 1), setPool pools p a (b - 1))
    | none => (none, pools)
  | some (_, a, b) =>
    if a < b then (some a, setPool pools q (a + 1) b)
    else
      match (match fullest pools (adjacent q) with | some v => some v | none => fullest pools (fun _ => true)) with
      | some (p, c, d) =>
        let h := (d - c + 1) / 2
        (some (d - h), setPool (setPool pools p c (d - h)) q (d - h + 1) d)
      | none => (none, pools)

/-- Takes in one square are answered in order. One whose port may no longer be written to faults, and takes no tile (R60). -/
def execTakeAnswer (idx : Nat) (s : State) : Host.Outcome State Fault Refusal :=
  match s.takes[idx]? with
  | none => .next s
  | some (c, i, uid, r, seq) =>
    if (s.takes.take idx).any (fun (d, _) => serveSquare d == serveSquare c) then .next s
    else
      let s1 := { s with takes := s.takes.take idx ++ s.takes.drop (idx + 1) }
      let pools := match s.run? r with
        | some y => y.pools
        | none => []
      let (t, pools') := takeTile pools (serveSquare c)
      let s2 := s1.modRun r (fun y => { y with pools := pools' })
      let x := s.ctx c i
      match if x.uid = uid then x.loads.find? (fun l => l.seq == seq) else none with
      | none => .next s2
      | some l =>
        if portShut s x l.rd l.app then .next (failReply s1 c i l { cause := 0x05, aux := w64 (l.rd - 104) })
        else match complete s2 c i l (TVal.int (match t with | some v => w64 v | none => -1)) false with
        | some s3 => .next s3
        | none => .next s

end Sys2Proof.Machine
end

