-- ==== Sys2Proof/Machine/Async.lean ====
section
/-! DEFINITION. Causes delivered to a named context (R322), events for the host ring (R343), and gangs ended by firmware (R169). -/

namespace Sys2Proof.Machine

/-- An event waits for the ring (R343). -/
def logEvent (s : State) (kind tenant core slot : Nat) (detail : Word) : State :=
  let ev : Event := { time := s.tstamp, kind := kind, tenant := tenant, core := core, slot := slot, detail := detail }
  s.modHost (fun h => { h with evQ := h.evQ ++ [ev] })

def hold (x : Ctx) (t : TrapInfo) : Ctx :=
  if x.held.any (fun h => h.cause == t.cause) then x else { x with held := x.held ++ [t] }

/-- A context enters the handler of a cause that was delivered to it (R322). A trap of its main stream that is held for its replays is given up: its
instruction issues again (DEDUCED, log 63). A parked context leaves its wait list; where a body word has parked it, that word is the instruction
that did, and the body stops at it as at a trap of its own (R261, R317; DEDUCED, log 63). -/
def interrupt (s : State) (c i : Nat) (t : TrapInfo) : State :=
  let x := s.ctx c i
  let s1 := match x.mtrap with
    | some (p, _) => s.modCtx c i (fun x => { x with pc := p, mtrap := none })
    | none => s
  let s2 := if x.state = .parked then unpark s1 c i else s1
  match if x.state = .parked ∧ x.bwait.isSome then x.body else none with
  | some b => takeTrap c i (b.base + w64 (4 * b.word)) (some b.replay) t s2
  | none => takeTrap c i (s2.ctx c i).pc none t s2

/-- 0x14, 0x15 and 0x17 for the context a descriptor or a switch record names. -/
def deliverCause (s : State) (c i tenant : Nat) (t : TrapInfo) : State :=
  let x := s.ctx c i
  if x.tenant ≠ tenant then s
  else
    match x.state with
    | .free | .idleLanding | .draining => s
    | .filling => s.modCtx c i (fun x => hold x t)
    | .ready | .parked => if x.sin then s.modCtx c i (fun x => hold x t) else interrupt s c i t

/-- The held causes of a context that may now enter a handler: the first is taken, the others stay held. -/
def deliverHeld (s : State) (c i : Nat) : State :=
  let x := s.ctx c i
  match x.held with
  | [] => s
  | t :: r => if x.sin then s else takeTrap c i x.pc none t (s.modCtx c i (fun y => { y with held := r }))

/-- The supervisor context of a partition (R193): core and slot. -/
def Part.supervisor (p : Part) : Nat × Nat := (bits (p.word 6) 13 0, bits (p.word 6) 19 14)

def toSupervisor (s : State) (tenant : Nat) (t : TrapInfo) : State :=
  match s.part? tenant with
  | some p => deliverCause s p.supervisor.1 p.supervisor.2 tenant t
  | none => s

/-- Every context of a gang ends, and the gang counts as aborted (R169, R320, R329, R338, R347). A filling context is free at once. -/
def abortGang (s : State) (g : Nat) : State :=
  let s := (s.modGang g (fun y => { y with aborted := true })).modDisp (fun d => { d with saved := d.saved.map (fun v => { v with
    cores := v.cores.map (fun (c, k) => (c, { k with ctxs := k.ctxs.filter (fun (_, x) => x.gang != some g) })) }) })
  (s.allCtxs.filter (fun (_, _, x) => x.gang == some g)).foldl (fun s (c, i, x) =>
    if x.state = .filling then freeCtx s c i else endCtx .terminated s c i) s

def abortTenant (s : State) (tenant : Nat) : State :=
  (s.disp.gangs.filter (fun g => g.tenant == tenant)).foldl (fun s g => abortGang s g.uid) s

end Sys2Proof.Machine
end

