-- ==== Sys2Proof/Machine/Runs.lean ====
section
/-! DEFINITION. Launch packets and runs (R156 to R159, R180, R194, R195, R203): the check of R157, the pending-launch store, the
dependence and completion words, and the end of a run. -/

namespace Sys2Proof.Machine

/-! ## Packet fields (R156) -/

def pkCode (p : List Word) : Word := p.getD 0 0
def pkImage (p : List Word) : Word := p.getD 1 0
def pkW (p : List Word) : Nat := bits (p.getD 2 0) 5 0 + 1
def pkH (p : List Word) : Nat := bits (p.getD 2 0) 11 6 + 1
def pkCtxs (p : List Word) : Nat := bits (p.getD 2 0) 18 12
def pkGen (p : List Word) : Nat := bits (p.getD 2 0) 25 19
def pkRep (p : List Word) : Nat := bits (p.getD 2 0) 32 26
def pkMat (p : List Word) : Nat := bits (p.getD 2 0) 39 33
def pkCpy (p : List Word) : Nat := bits (p.getD 2 0) 46 40
def pkLand (p : List Word) : Nat := bits (p.getD 2 0) 53 47
def pkWc (p : List Word) : Nat := bits (p.getD 2 0) 58 54
def pkChain (p : List Word) : Bool := (p.getD 2 0).getLsbD 59
def pkPort (p : List Word) : Bool := (p.getD 2 0).getLsbD 60
def pkCount (p : List Word) : Nat := bits (p.getD 3 0) 31 0
def pkOrdered (p : List Word) : Bool := (p.getD 3 0).getLsbD 32
def pkStrm (p : List Word) : Bool := (p.getD 3 0).getLsbD 33
def pkStream (p : List Word) : Nat := bits (p.getD 3 0) 49 34
def pkTenant (p : List Word) : Nat := bits (p.getD 3 0) 55 50
def pkPrio (p : List Word) : Nat := bits (p.getD 3 0) 57 56
def pkLock (p : List Word) : Bool := (p.getD 3 0).getLsbD 58
def pkTrap (p : List Word) : Bool := (p.getD 3 0).getLsbD 59
def pkDflt (p : List Word) : Word := p.getD 4 0
def pkDep (p : List Word) : Word := p.getD 5 0
def pkDone (p : List Word) : Word := p.getD 6 0
def pkRoff (p : List Word) : Nat := bits (p.getD 7 0) 19 0
def pkRlen (p : List Word) : Nat := bits (p.getD 7 0) 39 20

/-- Columns of cores a gang takes: twice its width in lockstep pairs (R327). -/
def pkCols (p : List Word) : Nat := if pkLock p then 2 * pkW p else pkW p

/-- (pin, landing role) of each rank (R152). -/
def pkRanks (p : List Word) : List (Pin × Bool) :=
  (List.range (pkGen p)).map (fun j => (Pin.gen, decide (j < pkLand p))) ++ List.replicate (pkRep p) (Pin.rep, false) ++
    List.replicate (pkMat p) (Pin.mat, false) ++ List.replicate (pkCpy p) (Pin.cpy, false)

/-! ## The check of R157 -/

def globalPtr (p : Word) (align : Nat) : Bool := bits p 63 51 == 0 && p.toNat % align == 0

/-- A local store word named by a local- or remote-window pointer: core and offset (R158). -/
def wordPtr (p : Word) : Option (Nat × Nat) :=
  let c := bits p 55 42
  if (bits p 63 56 = 0xF2 ∨ bits p 63 56 = 0xF4) ∧ bits p 41 20 = 0 ∧ bits p 2 0 = 0 ∧ coreUsed c ∧ bits p 19 0 + 8 ≤ lsSize c then
    some (c, bits p 19 0) else none

/-- A dep or done word lies on a core inside the tenant's partition, or inside the rectangle that stands for it. -/
def wordOk (inside : Nat → Bool) (p : Word) : Bool :=
  match wordPtr p with
  | some (c, _) => inside c
  | none => false

/-- The conditions on the fields alone. -/
def packetFields (p : List Word) : Bool :=
  bits (p.getD 2 0) 63 61 == 0 && bits (p.getD 3 0) 63 60 == 0 && bits (p.getD 7 0) 63 40 == 0 &&
  pkCount p != 0 && pkGen p + pkRep p + pkMat p + pkCpy p == pkCtxs p && decide (pkLand p ≤ pkGen p) && pkLand p != pkCtxs p &&
  pkWc p != 0 && decide (pkWc p ≤ 16) && decide (pkCtxs p * pkWc p * 8 ≤ 2048) &&
  !(pkChain p && !pkOrdered p) && !(pkStrm p && !pkOrdered p) &&
  pkRoff p % 32 == 0 && pkRlen p % 32 == 0 && decide (pkRoff p + pkRlen p ≤ 262144) &&
  globalPtr (pkCode p) 4 && globalPtr (pkImage p) 8 && globalPtr (pkDflt p) 256

/-- The conditions on the pointers, given which cores count as inside. -/
def packetWords (inside : Nat → Bool) (p : List Word) : Bool :=
  (pkDep p == 0 || wordOk inside (pkDep p)) &&
  (pkDone p == 0 || (if bits (pkDone p) 63 56 = 0 then globalPtr (pkDone p) 8 else wordOk inside (pkDone p)))

/-- The image header as the check reads it: none when R66 refuses it or its read fails. -/
def packetHeader (s : State) (p : List Word) : Option Word :=
  if pkImage p = 0 then some 0
  else
    match sysRead s (pkTenant p) (pkImage p) with
    | none => none
    | some h => if (imgOf h (8 * pkWc p) (pkChain p) (pkPort p)).isSome then some h else none

/-- R157 for a packet against a width, a height and the cores of a partition: the image header, or none for a refusal. -/
def packetCheck (s : State) (p : List Word) (inside : Nat → Bool) (w h : Nat) (cores : List Nat) : Option Word :=
  if packetFields p && packetWords inside p && decide (pkCols p ≤ w) && decide (pkH p ≤ h) &&
      cores.all (fun c => decide (pkCtxs p ≤ (s.core c).slots)) then packetHeader s p
  else none

/-- The tenant of a launch queue: the lowest one in force that claims it (R193). -/
def queueTenant (s : State) (q : Nat) : Option Nat :=
  (List.range 64).find? (fun t => match s.part? t with | some p => (p.word 7).getLsbD q | none => false)

/-- The whole check for a packet that came through queue q. -/
def queueCheck (s : State) (q : Nat) (p : List Word) : Option Word :=
  match queueTenant s q with
  | none => none
  | some t =>
    if t ≠ pkTenant p then none
    else
      match s.part? t with
      | none => none
      | some d => packetCheck s p (s.inPart t) (4 * d.w) (4 * d.h) d.cores

/-! ## Dependence and completion words (R158) -/

/-- The live region of the word's core that holds the word, if it is of the run's tenant. -/
def wordRegion (s : State) (tenant c off : Nat) : Option Region :=
  match (s.core c).regionAt off with
  | some r => if r.tenant = tenant then some r else none
  | none => none

/-- The dep word, when it is full: a word in no region of the tenant reads as empty. -/
def depFull (s : State) (p : List Word) : Option Word :=
  match wordPtr (pkDep p) with
  | none => none
  | some (c0, off) =>
    let c := s.leadAt c0 off
    match wordRegion s (pkTenant p) c off with
    | none => none
    | some r => if (s.core c).seenFull r.gen off then some (w64 ((s.core c).lsRead r.gen off 8)) else none

/-- The completion status (R159). -/
def doneStatus (r : Run) (o : Nat) : Word := w64 (r.ended % 2 ^ 32 + o * 2 ^ 32)

/-- The completion word is a device-scope release of what the run's contexts released at `exit` (R158, R245). -/
def doneBy (s : State) (r : Run) : Commit := { by_ := .disp, rel := [(.device, s.chan (.ended r.uid))] }

/-- The completion word's write: done or dropped (with an event), or none while a local store word is full. -/
def writeDone (s : State) (r : Run) (o : Nat) : Option State :=
  let p := r.packet
  let drop := logEvent s 11 r.tenant 0 0 (pkDone p)
  if pkDone p = 0 then some s
  else if bits (pkDone p) 63 56 = 0 then some (match sysPlace s r.tenant (pkDone p) .ewrite with
      | .ok pl => s.commit (doneBy s r) pl 8 (doneStatus r o).toNat 0
      | .error _ => drop)
  else
    match wordPtr (pkDone p) with
    | none => some drop
    | some (c0, off) =>
      let c := s.leadAt c0 off
      match wordRegion s r.tenant c off with
      | none => some drop
      | some g =>
        if (s.core c).seenFull g.gen off then none
        else some ((s.record (doneBy s r) (.ls c off) 8 (doneStatus r o).toNat g.gen).modCore c
          (fun k => k.lsWriteFe g.gen off (doneStatus r o).toNat true))

/-- A run with its outcome leaves once its completion word is written; until then it is tried again every 1,024 cycles. -/
def finishRun (s : State) (r : Run) (o : Nat) : State :=
  match writeDone s r o with
  | some s' => s'.modDisp (fun d => { d with runs := d.runs.filter (fun x => x.uid != r.uid) })
  | none => s.modRun r.uid (fun x => { x with outcome := some o, pools := [] })

def execDoneWordRetry (run : Nat) (s : State) : Host.Outcome State Fault Refusal :=
  match s.run? run with
  | some r =>
    match r.outcome with
    | some o => .next (finishRun s r o)
    | none => .next s
  | none => .next s

/-! ## Stream write-back (R180) -/

/-- Entry m of slot j after a run of N items: 0 where the item published nothing in the slot (DESIGN CHOICE, log 55). -/
def backEntry (r : Run) (old : List TVal) (m j : Nat) : TVal :=
  if m ≤ r.count then (r.slot? (r.count - m) j).getD (TVal.int 0) else old.getD (4 * (m - r.count - 1) + j) (TVal.int 0)

/-- The writes of the state record, an address and a value of 1 or 8 bytes each. -/
def backWrites (r : Run) (old : List TVal) (base : Word) : List (Word × Nat × Nat) :=
  [1, 2, 3, 4].flatMap (fun m => [0, 1, 2, 3].flatMap (fun j =>
    let v := backEntry r old m j
    let n := 4 * (m - 1) + j
    [(base + w64 (8 * n), 8, v.val.toNat), (base + w64 (128 + n), 1, v.cnt.toNat + 128 * ibit v)]))

/-- Supervisor writes in order: the state, and the address that failed, if any. -/
def sysStores (tenant : Nat) : List (Word × Nat × Nat) → State → State × Option Word
  | [], s => (s, none)
  | (a, n, v) :: t, s =>
    match sysPlace s tenant (a - w64 (a.toNat % 8)) .ewrite with
    | .error _ => (s, some a)
    | .ok pl => sysStores tenant t (s.commit { by_ := .disp } (pl.plus (a.toNat % 8)) n v 0)

/-- The write-back of a stream-bound run, the count of items last, by a device-scope release: the state, and whether every write was made. A run that no item read the state of needs its old entries where it
has fewer than four items; an entry or a record that cannot be read ends the write-back like a failing write (DESIGN CHOICE, log 55). -/
def writeBack (s : State) (r : Run) : State × Bool :=
  let a := streamEntry s r
  let fail := fun (s : State) (p : Word) => (logEvent s 11 r.tenant 0 0 p, false)
  match sysRead s r.tenant a, sysRead s r.tenant (a + 8) with
  | some base, some w1 =>
    match (match r.snap with | some l => some l | none => if 4 ≤ r.count then some [] else readBlock s r.tenant base) with
    | none => fail s base
    | some old =>
      match sysStores r.tenant (backWrites r old base) s with
      | (s1, some p) => fail s1 p
      | (s1, none) =>
        match sysPlace s1 r.tenant (a + 8) .ewrite with
        | .ok pl => (s1.commit (s1.byDisp pl 8 (s1.chan (.ended r.uid))) pl 8 (setBits w1 63 32 ((bits w1 63 32 + r.count) % 2 ^ 32)).toNat 0, true)
        | .error _ => fail s1 (a + 8)
  | none, _ => fail s a
  | _, none => fail s (a + 8)

/-- Every gang of the run has retired or been aborted. -/
def runEnded (s : State) (r : Run) : Bool :=
  r.outcome.isNone && !r.inStore && decide (r.count ≤ r.next) && decide (r.count ≤ r.ended) &&
  s.disp.gangs.all (fun g => g.run != r.uid)

/-- RUN_COMPLETE: the write-back of a stream-bound run, then the completion word (R158, R159, R180). -/
def execRunComplete (run : Nat) (s : State) : Host.Outcome State Fault Refusal :=
  match s.run? run with
  | none => .next s
  | some r =>
    if !runEnded s r then .next s
    else if r.aborts ≠ 0 then .next (finishRun s r 4)
    else if pkStrm r.packet then
      let (s1, ok) := writeBack s r
      .next (finishRun s1 r (if ok then 1 else 8))
    else .next (finishRun s r 1)

/-! ## Launch queues and the pending-launch store (R194, R195) -/

/-- Entries in use. -/
def State.storeCount (s : State) : Nat := (s.disp.runs.filter (fun r => r.inStore)).length

def LaunchSlot.reset : LaunchSlot := { words := [], full := false }
/-- One launch queue slot (R194). -/
def State.slot (s : State) (q i : Nat) : LaunchSlot := SMap.get s.disp.slots (16 * q + i) LaunchSlot.reset
def State.setSlot (s : State) (q i : Nat) (v : LaunchSlot) : State :=
  s.modDisp (fun d => { d with slots := SMap.put d.slots LaunchSlot.reset (16 * q + i) v })
/-- Its packet and its full word. -/
def State.launchSlot (s : State) (q i : Nat) : List Word × Bool := ((s.slot q i).words, (s.slot q i).full)
def State.setLaunchSlot (s : State) (q i : Nat) (v : List Word × Bool) : State := s.setSlot q i { words := v.1, full := v.2 }

/-- The packet as the dispatcher reads it: of a word that another requester than the filler has written, any value that it may still see (R337;
DESIGN CHOICE, log 5); it reads none older later. -/
def State.readSlot (s : State) (l : LaunchSlot) : List Word × List (Nat × Word × Nat) × State :=
  let r := (List.range 8).foldl (fun ((ws, old, s) : List Word × List (Nat × Word × Nat) × State) j =>
    let c := l.old.filter (fun e => e.1 == j)
    if c.isEmpty then (ws ++ [l.words.getD j 0], old, s)
    else
      let (n, s) := s.draw
      match Config.freePick n % (c.length + 1) with
      | 0 => (ws ++ [l.words.getD j 0], old, s)
      | k + 1 => (ws ++ [(c.getD k (0, 0, 0)).2.1], old ++ c.take (k + 1), s)) ([], [], s)
  (r.1 ++ l.words.drop 8, r.2)

/-- The slot that a spawned packet enters: slots are taken in order from `qnext`, so the first free one after the full ones. -/
def freeLaunchSlot (s : State) (q : Nat) : Option Nat :=
  let n := SMap.get s.disp.qnext q 0
  ((List.range 16).map (fun j => (n + j) % 16)).find? (fun i => !(s.launchSlot q i).2)

def queueEmpty (s : State) (q : Nat) : Bool := (List.range 16).all (fun i => !(s.launchSlot q i).2)

/-- The tenant's launch overflow ring holds packets: they go before any newer one (R195). -/
def launchRingUsed (s : State) (tenant : Nat) : Bool :=
  match s.part? tenant with
  | some p => decide (p.word 5 ≠ 0) && (match ringCounts s tenant (p.word 4) with | some (t, h) => t != h | none => false)
  | none => false

/-- Room of R201 in the store for a packet of queue q, and room in the store or the queue. -/
def storeRoom (s : State) (tenant q : Nat) : Bool :=
  decide (s.storeCount < 4096) && queueEmpty s q && !launchRingUsed s tenant
def launchRoom (s : State) (tenant q : Nat) : Bool := storeRoom s tenant q || (freeLaunchSlot s q).isSome

/-- Queue spq of a tenant (R193). -/
def spq (s : State) (tenant : Nat) : Option Nat := (s.part? tenant).map (fun p => bits (p.word 6) 25 20)

/-- A run made from a packet. -/
def mkRun (uid runId q age : Nat) (p : List Word) (header : Word) : Run :=
  { uid := uid, runId := runId, tenant := pkTenant p, packet := p, queue := q, age := age, sup := false, header := header,
    ready := pkDep p == 0, inStore := true, next := 0, count := pkCount p, ended := 0, aborts := 0, tiles := 0, pools := [],
    carry := [], abortedItems := [], snap := none, fails := 0, blocked := false, outcome := none }

/-- The next run identifier of a tenant, modulo 2^24, in launch order (R155). -/
def nextRunId (s : State) (t : Nat) : Nat × State :=
  let n := SMap.get s.disp.nextRun t 0
  (n, s.modDisp (fun d => { d with nextRun := SMap.put d.nextRun 0 t ((n + 1) % 2 ^ 24) }))

/-- A refused packet starts no gang: its completion word gets outcome 2 (R159). -/
def refuseRun (s : State) (q : Nat) (p : List Word) : State :=
  let (uid, s1) := s.fresh
  let r := { mkRun uid 0 q uid p 0 with inStore := false, ready := false }
  finishRun (s1.modDisp (fun d => { d with runs := d.runs ++ [r] })) r 2

/-- A packet enters the pending-launch store through queue q, where R157 checks it; the contexts of its gangs will acquire f (R200). -/
def enterStore (s : State) (q : Nat) (p : List Word) (f : Front) : State :=
  match queueCheck s q p with
  | none => refuseRun s q p
  | some h =>
    let (uid, s1) := s.fresh
    let (id, s2) := nextRunId s1 (pkTenant p)
    (s2.setChan (.run uid) f).modDisp (fun d => { d with runs := d.runs ++ [mkRun uid id q uid p h] })

/-- The rest of a run begun inline enters the store: its age is the time of this entry (R197, R202). -/
def enterRest (s : State) (run : Nat) : State :=
  let (n, s1) := s.fresh
  s1.modRun run (fun r => { r with inStore := true, age := n })

/-- A packet, or the rest of the run that it continues, enters the store. -/
def enterFrom (s : State) (q : Nat) (p : List Word) (f : Front) : State :=
  match p[8]? with
  | some u => enterRest s u.toNat
  | none => enterStore s q p f

/-- The run that entry n of the tenant's launch ring continues (DEDUCED, log 18). -/
def restAt (s : State) (tenant n : Nat) : Option Nat :=
  (s.disp.rests.find? (fun (t, m, _) => t == tenant && m == n)).map (fun (_, _, u) => u)

/-- Entry n of the tenant's launch ring continues run u, or none. -/
def setRest (s : State) (tenant n : Nat) (u : Option Word) : State :=
  s.modDisp (fun d => { d with
    rests := d.rests.filter (fun (t, m, _) => !(t == tenant && m == n)) ++ (u.map (fun v => (tenant, n, v.toNat))).toList })

/-- The dispatcher takes the queue's next full slot (R194, R195): into the store, into the ring when the store is full or the ring
already holds packets, or not at all; then the supervisor is told once (0x17). -/
def execLaunchSlotTake (queue : Nat) (s : State) : Host.Outcome State Fault Refusal :=
  let i := SMap.get s.disp.qnext queue 0
  let l := s.slot queue i
  match queueTenant s queue with
  | none => .next s
  | some t =>
    if !l.full then .next s
    else
      let (p, old, s) := s.readSlot l
      let taken := fun (s : State) => (s.setSlot queue i { words := l.words.take 8, full := false, old := old }).modDisp
        (fun d => { d with qnext := SMap.put d.qnext 0 queue ((i + 1) % 16) })
      if s.storeCount < 4096 && !launchRingUsed s t then .next (taken (enterFrom s queue p (s.chan (.slot queue i))))
      else
        let d := (s.part? t).getD { tenant := t, words := [] }
        match ringAppend s t (d.word 4) (d.word 5) (p.take 8) (w64 queue) (s.chan (.slot queue i)) with
        | some s1 => .next (taken (setRest s1 t ((ringCounts s t (d.word 4)).getD (0, 0)).1.toNat p[8]?))
        | none =>
          if s.storeCount < 4096 || s.disp.full.contains t then .next s
          else .next ((toSupervisor s t { cause := 0x17, aux := w64 t }).modDisp (fun d => { d with full := d.full ++ [t] }))

/-- Packets come back from the launch overflow ring in ring order when the store has room. -/
def execLaunchRingReturn (tenant : Nat) (s : State) : Host.Outcome State Fault Refusal :=
  match s.part? tenant with
  | none => .next s
  | some d =>
    if 4096 ≤ s.storeCount then .next s
    else
      match ringHead s tenant (d.word 4) (d.word 5) with
      | none => .next s
      | some (p, x) =>
        let n := ((ringCounts s tenant (d.word 4)).getD (0, 0)).2.toNat
        let s1 := enterFrom (setRest s tenant n none) (bits x 5 0) (p ++ ((restAt s tenant n).map w64).toList) (ringFront s tenant (d.word 4))
        match ringTake s1 tenant (d.word 4) with
        | some s1 => .next s1
        | none => .next s

/-- The run with its dep word read: ready, with its tile count, once the word is full (R158, R203). -/
def Run.polled (s : State) (r : Run) : Run :=
  match depFull s r.packet with
  | some v => { r with ready := true, tiles := bits v 31 0 }
  | none => r

/-- DEP_WORD_POLL: a full dep word makes the run ready. The run of a command 3 that waits for its word is not in the list of runs yet. -/
def execDepWordPoll (run : Nat) (s : State) : Host.Outcome State Fault Refusal :=
  match s.run? run with
  | none => .next (s.modHost (fun h => { h with mbox := { h.mbox with
      sup := h.mbox.sup.map (fun r => if r.uid = run ∧ r.ready = false then r.polled s else r) } }))
  | some r =>
    if r.ready ∨ r.outcome.isSome then .next s
    else
      .next (s.modRun run (Run.polled s))

/-! ## spawn, spawn.try, spawn.w (R200 to R202, R438) -/

inductive SpawnKind where
  | plain | try_ | wait
  deriving DecidableEq, Repr

/-- The conditions of R202 for running the child in the issuer's own context, the check of R157 apart. -/
def inlineOk (s : State) (c i : Nat) (p : List Word) : Bool :=
  let x := s.ctx c i
  pkW p == 1 && pkH p == 1 && pkCtxs p == 1 && pkLand p == 0 &&
  (pkRanks p).all (fun r => r.1 == x.pin) && pkPort p == x.port && !pkChain p && !x.chain &&
  decide (pkWc p * 8 ≤ x.wcount) && !pkOrdered p && !pkStrm p && !pkLock p && pkImage p == 0 && pkRlen p == 0 &&
  (pkDep p == 0 || (depFull s p).isSome)

/-- Pools of a run that begins inline: all of it in the issuer's square, and the partition's other squares hold none yet. A core that lies in no
square of the partition keeps the pool of its gang all the same, and its takes are answered from the front (R204, R447; DESIGN CHOICE, log 62). -/
def inlinePools (s : State) (c tenant t : Nat) : List (Nat × Nat × Nat) :=
  let q := serveSquare c
  (q, 0, t) :: (((s.part? tenant).map Part.squares).getD []).filterMap (fun p => if p = q then none else some (p, 0, 0))

/-- The child's first gang starts in the issuer's context; its whole tile pool lies in the issuer's square (R447). -/
def startInline (s : State) (c i q : Nat) (pc : Word) (p : List Word) : State :=
  let (uid, s1) := s.fresh
  let (id, s2) := nextRunId s1 (pkTenant p)
  let t := if pkDep p = 0 then 0 else bits ((depFull s p).getD 0) 31 0
  let r : Run := { mkRun uid id q uid p 0 with
    inStore := false, ready := true, next := 1, tiles := t, pools := inlinePools s c (pkTenant p) t }
  (s2.modDisp (fun d => { d with runs := d.runs ++ [r] })).modCtx c i (fun x => { x with
    inl := { run := uid, index := 0, pc := pc, oldRun := x.run, oldIndex := x.index, oldRunId := x.runId, bars := [] } :: x.inl,
    run := uid, runId := id, index := 0, pc := pkCode p })

/-- The context has run this `spawn.w` inline and has still to write its xd. -/
def Ctx.result? (x : Ctx) (pc : Word) : Option Word :=
  match x.results with
  | (v, q) :: _ => if q = pc then some v else none
  | [] => none

/-- The packet at a pointer: it is read once, and a `spawn` that parks keeps what it has read (R438). -/
def packetAt (p : Word) : M (List Word) := do
  let x ← M.me
  match x.packet with
  | some ws =>
    M.modMe (fun x => { x with packet := none })
    return ws
  | none => loadBlock p 8

/-- What the park of a `spawn` leaves, from the states before the instruction and after its read of the packet. -/
def keepPacket (c i : Nat) (ws : List Word) (s t : State) : State :=
  { s.modCtx c i (fun x => { x with packet := some ws }) with ord := t.ord }

def parkSpawn (list : Nat) (cond : WaitCond) (ws : List Word) : M Unit := fun e s =>
  .error (.park { list := list, object := 0, cond := cond } (fun s0 => keepPacket e.core e.slot ws s0 s))

def launchPacket (kind : SpawnKind) (d : RegF) (ws : List Word) : M Unit := do
  let x ← M.me
  let e ← M.env
  let s ← M.state
  match spq s x.tenant with
  | none =>
    M.modify (fun s => refuseRun s 0 ws)
    writeInt d (if kind = .wait then 2 else 1)
  | some q =>
    if storeRoom s x.tenant q then
      M.modify (fun s => enterStore s q ws (s.released x.uid .device))
      writeInt d 1
    else
      match freeLaunchSlot s q, kind with
      | some n, _ =>
        M.modify (fun s => (s.setLaunchSlot q n (ws, true)).setChan (.slot q n) (s.released x.uid .device))
        writeInt d 1
      | none, .plain => parkSpawn 10 .launch ws
      | none, .try_ => writeInt d 0
      | none, .wait =>
        match queueCheck s q ws with
        | none =>
          M.modify (fun s => refuseRun s q ws)
          writeInt d 2
        | some _ =>
          if inlineOk s e.core e.slot ws then M.modify (fun s => startInline s e.core e.slot q e.pc ws)
          else parkSpawn 10 .launch ws

/-- A parked `spawn` executes again at its wake (R185), with the packet that it has read (R438). -/
def spawnBody (kind : SpawnKind) (d a : RegF) : M Unit := do
  let x ← M.me
  let e ← M.env
  match (if kind = .wait then x.result? e.tpc else none) with
  | some v =>
    writeInt d v
    M.modMe (fun x => { x with results := x.results.tail })
  | none =>
    let p ← readVal a
    let ws ← packetAt p
    let k ← M.myCore
    let y ← M.me
    if !allPerformed k y y.seq then parkSpawn 1 .performed ws
    else launchPacket kind d ws

def execSpawn (d a : RegF) (s : State) : Host.Outcome State Fault Refusal := run (.spawn d a) (spawnBody .plain d a) s
def execSpawnTry (d a : RegF) (s : State) : Host.Outcome State Fault Refusal := run (.spawnTry d a) (spawnBody .try_ d a) s
def execSpawnW (d a : RegF) (s : State) : Host.Outcome State Fault Refusal := run (.spawnW d a) (spawnBody .wait d a) s

/-! ## exit (R148, R173, R202, R374) -/

/-- The issuer's own identity comes back, and `spawn.w` completes: it writes its xd in its next issue slot. -/
def inlineReturn (s : State) (c i : Nat) (n : Inline) (v : Nat) : State :=
  s.modCtx c i (fun x => { x with
    run := n.oldRun, runId := n.oldRunId, index := n.oldIndex, inl := x.inl.tail, pc := n.pc, results := (w64 v, n.pc) :: x.results })

/-- What is left of a run goes to the pending-launch store, or through a free slot of the queue, where there is room as R201 has it; none where there is
none. In the slot, and in the launch ring, the packet stands with the run that it continues (DEDUCED, log 18). -/
def restToStore (s : State) (r : Run) : Option State :=
  match spq s r.tenant with
  | none => none
  | some q =>
    if storeRoom s r.tenant q then some (enterRest s r.uid)
    else (freeLaunchSlot s q).map (fun j => s.setLaunchSlot q j (r.packet ++ [w64 r.uid], true))

/-- `exit` in a gang run inline (R202): the next gang, the rest to the store, or the return. -/
def exitInline (s : State) (c i : Nat) (n : Inline) : State :=
  match s.run? n.run with
  | none => inlineReturn s c i n 2
  | some r =>
    let s := s.modRun r.uid (fun y => { y with ended := y.ended + 1, next := n.index + 1 })
    if n.index + 1 ≥ r.count then
      inlineReturn (finishRun s { r with ended := r.ended + 1 } 1) c i n 2
    else
      match restToStore s r with
      | some s1 => inlineReturn s1 c i n 1
      | none =>
        s.modCtx c i (fun x => { x with
          index := n.index + 1, inl := { n with index := n.index + 1, bars := [] } :: x.inl.tail, pc := r.packet.getD 0 0 })

def exitBody : M Unit := do
  let x ← M.me
  let e ← M.env
  if x.replaying then M.park 1 0 .replays
  else
    match x.inl with
    | n :: _ =>
      waitDrained
      M.modify (fun s => exitInline s e.core e.slot n)
    | [] =>
      if x.landing && x.hasRec then
        waitDrained
        raisePending true true true
        M.modify (fun s => endLanding s e.core e.slot)
      else
        let s ← M.state
        if x.chain && lastOfItem s e.core e.slot then
          let vs ← slotValues x (openSlots s x)
          if vs.isEmpty then pure () else waitPerformed
          M.modify (fun s => publishBy s x.uid x.run x.index vs)
        else pure ()
        M.modify (fun s => s.joinChan (.ended x.run) (s.front x.uid))
        M.modify (fun s => endCtx .exited s e.core e.slot)

def execExit (s : State) : Host.Outcome State Fault Refusal := run .exit exitBody s

end Sys2Proof.Machine
end

