-- ==== Sys2Proof/Machine/Place.lean ====
section
/-! DEFINITION. The dispatcher (R64, R152 to R154, R158, R165, R169, R193, R197 to R199, R203, R205, R206, R210, R327): partitions,
selection and placement of gangs, fill, retirement, and the all-asleep trap. -/

namespace Sys2Proof.Machine

/-! ## Partition descriptors (R193, R165) -/

/-- The eight words of a tenant's descriptor in the table. -/
def descriptor (s : State) (t : Nat) : Option (List Word) :=
  s.host.table.map (fun b => Memory.readWords s.hbm (b + 64 * t) 8)

def Part.valid (p : Part) : Bool := (p.word 0).getLsbD 20
def Part.inMesh (p : Part) : Bool := decide (p.sqc + p.w ≤ 24) && decide (p.sqr + p.h ≤ 32)
def Part.meets (p q : Part) : Bool :=
  decide (p.sqc < q.sqc + q.w) && decide (q.sqc < p.sqc + p.w) && decide (p.sqr < q.sqr + q.h) && decide (q.sqr < p.sqr + p.h)

/-- Supervisor `trapvec` of a tenant's launched contexts: its runtime vector word (R309). -/
def vectorWord (s : State) (t : Nat) : Word :=
  match s.host.table with
  | some b => setBits (Memory.word s.hbm (b + 4608 + 8 * t)) 1 0 0
  | none => 0

def Part.klan (p : Part) : Nat := bits (p.word 6) 29 26
def Part.kregs (p : Part) : Nat := 8 * (bits (p.word 6) 33 30 + 1)
def kerbCores : List Nat := (List.range 256).map (fun j => 12288 + j)

/-- n slots and windows of w registers, lowest first: slot, window base. -/
def allocSlots (k : Core) (w : Nat) : Nat → Option (List (Nat × Nat))
  | 0 => some []
  | n + 1 =>
    match k.freeSlot, k.freeWindow w with
    | some i, some b =>
      (allocSlots (k.setCtx i { Ctx.reset with state := .filling, wbase := b, wcount := w }) w n).map (fun l => (i, b) :: l)
    | _, _ => none

/-- One landing context of the tenant on a kerb core. -/
def addKerbCtx (t : Nat) (p : Part) (c : Nat) (s : State) (at_ : Nat × Nat) : Option State :=
  match takeGen s c (.kerb t) with
  | none => none
  | some (g, s1) =>
    let (uid, s2) := s1.fresh
    let x : Ctx := { newCtx uid g .gen false false true at_.2 p.kregs 0 with
      tenant := t, st := { TrapRegs.zero with vec := vectorWord s t } }
    some ((placeCtx s2 c at_.1 x).modDisp (fun d => { d with kerbs := d.kerbs ++ [(t, uid)] }))

/-- The kerb contexts of a descriptor that comes into force: on every kerb core, or on none and kerr is written with a release (R165). None while a kerb
core folds, or must fold first. -/
def addKerb (t : Nat) (p : Part) (s : State) : Option State :=
  let plans := kerbCores.map (fun c => (c, allocSlots (s.core c) p.kregs p.klan))
  if p.klan > 8 ∨ plans.any (fun (_, a) => a.isNone) then
    some (match s.host.table with
      | some b => s.commit { by_ := .disp, rel := [(.device, {})] } (.hbm (b + 64 * t + 48)) 8 (setBits (p.word 6) 34 34 1).toNat 0
      | none => s)
  else
    plans.foldl (fun (o : Option State) (c, a) => o.bind (fun s => (a.getD []).foldl (fun o ib =>
      o.bind (fun s => addKerbCtx t p c s ib)) (some s))) (some s)

/-- A request for n generations on core c waits, unless it could be served (R78). -/
def stallFor (n : Nat) (who : Stall) (s : State) (c : Nat) : State :=
  if n ≠ 0 ∧ (!mayTake s c who || (s.core c).lacksGens n) = true then stall s c n who else s

/-- The kerb contexts of a descriptor in force are created, or wait while a kerb core folds (R78, R165). -/
def createKerb (t : Nat) (p : Part) (s : State) : State :=
  let still := s.disp.kerbWait.filter (fun u => u != t)
  match addKerb t p s with
  | some s' => s'.modDisp (fun d => { d with kerbWait := still })
  | none => kerbCores.foldl (stallFor p.klan (.kerb t)) (s.modDisp (fun d => { d with kerbWait := still ++ [t] }))

/-- Kerb contexts that waited are created once no kerb core holds them up. -/
def settleKerb (s : State) : State :=
  s.disp.kerbWait.foldl (fun s t =>
    match s.part? t with
    | some p => if kerbCores.all (fun c => mayTake s c (.kerb t)) then createKerb t p s else s
    | none => s) s

/-- A valid descriptor comes into force when it lies in the mesh and meets none in force. -/
def bringIn (s : State) (t : Nat) : State :=
  match descriptor s t with
  | none => s
  | some ws =>
    let p : Part := { tenant := t, words := ws }
    if (s.part? t).isSome || !p.valid || !p.inMesh || s.disp.parts.any (fun q => q.meets p) then s
    else createKerb t p (s.modDisp (fun d => { d with parts := d.parts ++ [p] }))

/-- The descriptors in force as they read now. One that is no longer valid leaves force, and so does one whose rectangle has changed and runs past the
mesh or meets another in force. -/
def readAgain (s : State) : List Part :=
  let now := s.disp.parts.filterMap (fun p => (descriptor s p.tenant).map (fun ws => (p, ({ tenant := p.tenant, words := ws } : Part))))
  let same := fun (e : Part × Part) => bits (e.1.word 0) 19 0 == bits (e.2.word 0) 19 0
  let ok := now.filter (fun e => e.2.valid)
  (ok.filter (fun e => !same e)).foldl (fun l e => if e.2.inMesh && l.all (fun q => !q.meets e.2) then l ++ [e.2] else l)
    ((ok.filter same).map (fun e => e.2))

/-- A scan of the descriptors in force. The kerb contexts of one that leaves force are to end (R165). -/
def reread (s : State) : State :=
  let l := readAgain s
  let gone := fun (t : Nat) => l.all (fun p => p.tenant != t)
  s.modDisp (fun d => { d with
    parts := l, kerbWait := d.kerbWait.filter (fun t => !gone t), kerbs := d.kerbs.filter (fun e => !gone e.1)
    kerbEnds := d.kerbEnds ++ (d.kerbs.filter (fun e => gone e.1)).map (fun e => e.2) })

/-- The kerb contexts whose descriptor has left force end, once they are idle landing, as by a supervisor `ctxkill` (R165). -/
def endKerb (s : State) : State :=
  let ours := s.allCtxs.filter (fun (_, _, x) => s.disp.kerbEnds.contains x.uid)
  let idle := ours.filter (fun (_, _, x) => x.state == .idleLanding)
  (idle.foldl (fun s (c, i, _) => endCtx .killed s c i) s).modDisp (fun d => { d with
    kerbEnds := d.kerbEnds.filter (fun u => ours.any (fun (_, _, x) => x.uid == u) && idle.all (fun (_, _, x) => x.uid != u)) })

def execPartitionScan (s : State) : Host.Outcome State Fault Refusal :=
  .next (endKerb ((List.range 64).foldl bringIn (reread s)))

/-! ## Where a gang fits (R198) -/

/-- Distinct gangs with a chain-mode context on the core: items resident there (R174). -/
def chainItems (k : Core) : Nat :=
  let gs := (k.ctxs.filter (fun (_, x) => x.state != .free && x.chain)).map (fun (_, x) => x.gang)
  (gs.foldl (fun (acc : List (Option Nat)) g => if acc.contains g then acc else g :: acc) []).length

def regionFits (k : Core) (p : List Word) : Bool :=
  pkRlen p == 0 || (decide (k.regions.length < 64) &&
    k.regions.all (fun r => decide (r.off + r.len ≤ pkRoff p) || decide (pkRoff p + pkRlen p ≤ r.off)))

/-- A core that has taken these contexts as well, in its lowest free slots and windows. -/
def seat : List Ctx → Core → Option Core
  | [], k => some k
  | x :: t, k =>
    match k.freeSlot, k.freeWindow x.wcount with
    | some i, some b => seat t (k.setCtx i { x with wbase := b })
    | _, _ => none

/-- A core as the dispatcher counts it: a twin holds what its primary's lockstep gangs hold, beside what is its own (R327). -/
def seatCore (s : State) (c : Nat) : Option Core :=
  let k := s.core c
  match k.twinOf with
  | none => some k
  | some d =>
    let p := s.core d
    (seat ((p.ctxs.filter (fun (_, x) => x.state != .free && x.lock)).map (fun (_, x) => x)) k).map (fun k =>
      { k with regions := k.regions ++ p.regions.filter (fun r => (s.gang? r.gang).any (fun g => g.lock)) })

/-- A supervisor gang of another tenant holds the core (R193, R342). -/
def otherSup (s : State) (c tenant : Nat) : Bool := s.disp.gangs.any (fun g => g.sup && g.tenant != tenant && g.cores.contains c)

def coreFits (s : State) (p : List Word) (c : Nat) : Bool :=
  (match seatCore s c with
    | some k => (allocSlots k (8 * pkWc p) (pkCtxs p)).isSome && regionFits k p && (!pkChain p || decide (chainItems k < 16))
    | none => false) && !otherSup s c (pkTenant p)

/-- The cores a gang's contexts run on, with their column and row in the gang; in lockstep the primaries (R327). -/
def gangCores (origin : Nat) (p : List Word) : List (Nat × Nat × Nat) :=
  (List.range (pkH p)).flatMap (fun r => (List.range (pkW p)).map (fun c =>
    (origin + 96 * r + (if pkLock p then 2 * c else c), c, r)))

def rectFits (s : State) (p : List Word) (inside : Nat → Bool) (origin : Nat) : Bool :=
  decide (coreCol origin + pkCols p ≤ 96) && (!pkLock p || coreCol origin % 2 == 0) &&
  (gangCores origin p).all (fun (c, _, _) => inside c && coreFits s p c && (!pkLock p || (inside (c + 1) && coreFits s p (c + 1))))

/-- The rectangle whose origin has the smallest core id. -/
def findOrigin (s : State) (r : Run) : Option Nat :=
  match s.part? r.tenant with
  | none => none
  | some d => d.cores.find? (rectFits s r.packet d.has)

/-! ## Placement (R158 step 3, R64, R152, R210) -/

/-- The private area of a context of rank k (R210). -/
def pvOf (p : List Word) (rank : Nat) (landing : Bool) : Word :=
  let share := pkRlen p / (32 * (pkCtxs p - pkLand p)) * 32
  if landing then 0 else w64 ((pkRoff p + (rank - pkLand p) * share) + share * 2 ^ 20)

/-- The context of one rank of gang g on a core. -/
def gangCtx (s : State) (r : Run) (g index col row rank : Nat) (pin : Pin) (landing : Bool) (uid : Nat) (gen : BitVec 16) (wbase : Nat) :
    Ctx :=
  let p := r.packet
  let x := newCtx uid gen pin (pkChain p && !landing) (pkPort p) landing wbase (8 * pkWc p) (pkCode p)
  { x with
    state := if pkImage p = 0 then x.state else .filling, tenant := r.tenant, gang := some g, rank := rank, col := col, row := row,
    index := index, run := r.uid, runId := r.runId, prio := pkPrio p, ordered := pkOrdered p, lock := pkLock p, strm := pkStrm p,
    stream := pkStream p, status := if r.sup ∧ landing = false then 1 else 0, st := { TrapRegs.zero with vec := vectorWord s r.tenant },
    pvbase := pvOf p rank landing }

/-- The region of a gang on a core: its generation is taken before the contexts' (R158). -/
def addRegion (s : State) (c off len : Nat) (trap : Bool) (gang tenant run : Nat) : Option State :=
  match takeGen s c (.place run) with
  | none => none
  | some (g, s1) =>
    let r : Region := { off := off, len := len, trap := trap, gen := g, gang := gang, tenant := tenant, retired := false }
    some (s1.modCore c (fun k => { k with regions := k.regions ++ [r] }))

def addCtxs (r : Run) (g index c col row : Nat) : List ((Nat × Pin × Bool) × (Nat × Nat)) → State → Option State
  | [], s => some s
  | ((rank, pin, landing), (i, w)) :: t, s =>
    match takeGen s c (.place r.uid) with
    | none => none
    | some (gen, s1) =>
      let (uid, s2) := s1.fresh
      addCtxs r g index c col row t
        ((placeCtx s2 c i (gangCtx s2 r g index col row rank pin landing uid gen w)).gain uid (s.chan (.run r.uid)))

/-- All of a gang's contexts on one core. -/
def placeCore (r : Run) (g index : Nat) (s : State) (at_ : Nat × Nat × Nat) : Option State :=
  let (c, col, row) := at_
  let p := r.packet
  let ranks := (pkRanks p).mapIdx (fun n x => (n, x.1, x.2))
  match allocSlots (s.core c) (8 * pkWc p) (pkCtxs p) with
  | none => none
  | some ws =>
    let s1 := if pkRlen p = 0 then some s else addRegion s c (pkRoff p) (pkRlen p) (pkTrap p) g r.tenant r.uid
    (s1.bind (addCtxs r g index c col row (ranks.zip ws))).map (fun s2 =>
      if pkLock p then
        (s2.modCore c (fun k => { k with lock := match k.lock with
          | some l => some l
          | none => some { twin := c + 1, log := [], point := [], rolled := false, events := k.events, lim := k.lim } })).modCore (c + 1)
          (fun k => { k with twinOf := some c })
      else s2)

/-- The split of T tiles over the squares of the partition at the first placement (R203). -/
def splitPool (squares : List Nat) (t : Nat) : List (Nat × Nat × Nat) :=
  squares.mapIdx (fun k q => (q, k * t / squares.length, (k + 1) * t / squares.length))

/-- Gang `r.next` of a run at an origin, whole or not at all. -/
def placeGang (s : State) (r : Run) (origin : Nat) : Option State :=
  let (g, s1) := s.fresh
  let p := r.packet
  let gang : Gang := { uid := g, run := r.uid, index := r.next, tenant := r.tenant, origin := origin, w := pkW p, h := pkH p,
                       lock := pkLock p, chain := pkChain p, sup := r.sup, filling := pkImage p != 0, bars := [],
                       lastEnd := none, lastChain := none, aborted := false }
  let s2 := s1.modDisp (fun d => { d with gangs := d.gangs ++ [gang] })
  ((gangCores origin p).foldl (fun o at_ => o.bind (fun s => placeCore r g r.next s at_)) (some s2)).map (fun s3 =>
    let sq := match s.part? r.tenant with
      | some d => d.squares
      | none => []
    s3.modRun r.uid (fun y => { y with
      next := y.next + 1, inStore := y.inStore && decide (y.next + 1 < y.count), fails := 0, blocked := false,
      pools := if y.next = 0 then splitPool sq y.tiles else y.pools }))

/-- Generations that a gang takes on each of its cores: its contexts' and its region's. -/
def pkGens (p : List Word) : Nat := pkCtxs p + (if pkRlen p = 0 then 0 else 1)

/-- A placement stalls while a core of its rectangle folds, or must fold first (R78); it is tried again at the partition's next decisions. -/
def stallPlace (s : State) (r : Run) (origin : Nat) : State :=
  (gangCores origin r.packet).foldl (fun s (c, _, _) => stallFor (pkGens r.packet) (.place r.uid) s c)
    (s.modDisp (fun d => { d with placing := d.placing.filter (fun p => p.1 != r.tenant) ++ [(r.tenant, r.uid, origin)] }))

/-! ## One dispatch decision (R197, R199) -/

/-- Runs of a partition that are ready and have an unplaced gang. -/
def waiting (s : State) (t : Nat) : List Run :=
  s.disp.runs.filter (fun r => r.tenant == t && r.ready && r.inStore && decide (r.next < r.count))

def Run.isBlocked (r : Run) : Bool := r.blocked || decide (4096 ≤ r.fails)

/-- A blocked run holds back every gang of equal or lower priority but its own. -/
def heldBack (rs : List Run) (r : Run) : Bool :=
  rs.any (fun b => b.isBlocked && b.uid != r.uid && decide (pkPrio r.packet ≤ pkPrio b.packet) &&
    !(r.isBlocked && decide (pkPrio b.packet ≤ pkPrio r.packet) && decide (r.age < b.age)))

def older (a b : Run) : Bool := decide (a.age < b.age)
def best (f : Run → Run → Bool) : List Run → Option Run
  | [] => none
  | r :: t => match best f t with
    | some b => if f b r then some b else some r
    | none => some r

/-- Distance of a run's queue after the queue last taken at its level. -/
def turnOf (s : State) (t : Nat) (r : Run) : Nat :=
  (r.queue + 63 - SMap.get s.disp.lastQueue (4 * t + pkPrio r.packet) 63) % 64

def nextPick (s : State) (t : Nat) (ok : List Run) : Option Run :=
  let top := ok.foldl (fun m r => max m (pkPrio r.packet)) 0
  best (fun a b => decide (turnOf s t a < turnOf s t b) || (turnOf s t a == turnOf s t b && older a b))
    (ok.filter (fun r => pkPrio r.packet == top))

/-- The run a decision takes: the round-robin pick, or on every 256th decision the oldest below its level if it is placeable. -/
def pick (s : State) (t n : Nat) : Option Run :=
  let rs := waiting s t
  let free := rs.filter (fun r => !heldBack rs r)
  let ok := free.filter (fun r => (findOrigin s r).isSome)
  match nextPick s t ok with
  | none => none
  | some r =>
    if n % 256 = 0 then
      match best older (free.filter (fun x => decide (pkPrio x.packet < pkPrio r.packet))) with
      | some o => if (findOrigin s o).isSome then some o else some r
      | none => some r
    else some r

/-- Every waiting run but the one placed counts a decision. -/
def countFails (s : State) (t : Nat) (placed : Option Nat) : State :=
  let rs := (waiting s t).map (fun r => r.uid)
  s.modDisp (fun d => { d with runs := d.runs.map (fun r =>
    if rs.contains r.uid && placed != some r.uid then { r with fails := r.fails + 1 } else r) })

/-- The gang of a decision is placed, or its placement stalls. Every other run's next gang has failed to be placed in this decision, and so has this one
if it stalls (R199). -/
def placeOrStall (s : State) (t : Nat) (r : Run) (origin : Nat) : State :=
  match placeGang (countFails s t (some r.uid)) r origin with
  | some s' => s'.modDisp (fun d => { d with
      lastQueue := SMap.put d.lastQueue 63 (4 * t + pkPrio r.packet) r.queue, placing := d.placing.filter (fun p => p.1 != t) })
  | none => stallPlace (countFails s t none) r origin

/-- A placement of the partition that stalls, while its rectangle fits the gang. -/
def stalledPlace (s : State) (t : Nat) : Option (Run × Nat) :=
  match s.disp.placing.find? (fun p => p.1 == t) with
  | none => none
  | some (_, u, o) =>
    match (waiting s t).find? (fun r => r.uid == u), s.part? t with
    | some r, some d => if rectFits s r.packet d.has o then some (r, o) else none
    | _, _ => none

/-- One decision. While a placement stalls, the partition's decisions try it again (DEDUCED, log 35). -/
def decide1 (s : State) (t : Nat) : State :=
  let n := SMap.get s.disp.decisions t 0 + 1
  let s := s.modDisp (fun d => { d with decisions := SMap.put d.decisions 0 t n })
  match stalledPlace s t with
  | some (r, o) => placeOrStall s t r o
  | none =>
    let s := s.modDisp (fun d => { d with placing := d.placing.filter (fun p => p.1 != t) })
    match pick s t n with
    | none => countFails s t none
    | some r =>
      match findOrigin s r with
      | none => countFails s t none
      | some o => placeOrStall s t r o

def execDispatchDecision (tenant : Nat) (s : State) : Host.Outcome State Fault Refusal :=
  .next (if stopped s tenant || s.host.tele.powerHold || s.host.tele.tempHold || (s.part? tenant).isNone || (waiting s tenant).isEmpty then s else decide1 s tenant)

/-- RUN_BLOCK (R199): 4,096 decisions have not placed the run's next gang. -/
def execRunBlock (run : Nat) (s : State) : Host.Outcome State Fault Refusal :=
  .next (match s.run? run with
    | some r => if 4096 ≤ r.fails then s.modRun run (fun r => { r with blocked := true }) else s
    | none => s)

/-! ## The end of a fill (R64, R66) -/

/-- The image of a run as the dispatcher reads it now: the registers it fills. -/
def readFill (s : State) (r : Run) : Option (Img × List (Nat × TVal)) :=
  let p := r.packet
  match imgOf r.header (8 * pkWc p) (pkChain p) (pkPort p) with
  | none => none
  | some m =>
    match (List.range m.len).mapM (fun j => sysRead s r.tenant (pkImage p + w64 (8 + 8 * j))) with
    | none => none
    | some ws => if m.tagsOk ws then some (m, m.fill ws) else none

/-- Every context becomes ready, or idle landing, together; its registers are then filled one a cycle. -/
def endFill (m : Img) (fill : List (Nat × TVal)) (s : State) (at_ : Nat × Nat × Ctx) : State :=
  let (c, i, x) := at_
  let s := s.modCtx c i (fun y => { y with fill := fill, carry := if y.chain then m.carry else none })
  if x.landing then s.modCtx c i (fun y => { y with state := .idleLanding })
  else deliverHeld (s.ready c i) c i

def execGangFillEnd (gang : Nat) (s : State) : Host.Outcome State Fault Refusal :=
  match s.gang? gang with
  | none => .next s
  | some g =>
    if !g.filling || stopped s g.tenant then .next s
    else
      let s1 := s.modGang gang (fun y => { y with filling := false })
      let ours := s.allCtxs.filter (fun (_, _, x) => x.gang == some gang && x.state == .filling)
      match (s.run? g.run).bind (readFill s) with
      | some (m, l) => .next (ours.foldl (endFill m l) s1)
      | none => .next (abortGang s1 gang)

/-! ## Retirement (R153, R169, R394) -/

/-- The gang's regions may end as by `gfree` (R390): no scoreboard entry meets one, and no store to one is still buffered. -/
def regionsDone (k : Core) (g : Nat) : Bool :=
  (k.regions.filter (fun r => r.gang == g)).all (fun r => !boardMeets k r.off (r.off + r.len - 1) true &&
    k.storeBuf.all (fun b => match b.place with | .ls _ o => decide (o + b.size ≤ r.off) || decide (r.off + r.len ≤ o) | _ => true))

/-- R153: contexts not in landing role free, landing contexts idle (or ended), no record of the tenant waiting on the cores, and the regions done with. -/
def canRetire (s : State) (g : Gang) : Bool :=
  !g.filling && !s.disp.saved.any (fun v => v.cores.any (fun (_, k) => k.ctxs.any (fun (_, x) => x.gang == some g.uid))) &&
  s.allCtxs.all (fun (_, _, x) => x.gang != some g.uid || (x.landing && x.state == .idleLanding)) &&
  g.cores.all (fun c => (s.core c).landq.all (fun r => r.tenant != g.tenant) && regionsDone (s.core c) g.uid)

/-- R169: aborted by firmware or a fill, or by how its last chain-mode context, or else its last context, ended. -/
def gangAborted (g : Gang) : Bool :=
  g.aborted || (if g.chain then g.lastChain != some .exited else g.lastEnd != some .exited)

/-- The gang's regions end as by `gfree`; one that holds a registered block stays until its last entry leaves (R394). -/
def dropRegions (s : State) (c g : Nat) : State :=
  s.modCore c (fun k => dropRetired { k with regions := k.regions.map (fun r => if r.gang == g then { r with retired := true } else r) })

/-- A pair whose last lockstep context has gone is a pair no more (R327). -/
def dropPair (s : State) (c : Nat) : State :=
  let k := s.core c
  match k.lock with
  | none => s
  | some l =>
    if k.ctxs.any (fun (_, x) => x.state != .free && x.lock) then s
    else (s.modCore c (fun k => { k with lock := none })).modCore l.twin (fun k => { k with twinOf := none })

def execGangRetire (gang : Nat) (s : State) : Host.Outcome State Fault Refusal :=
  match s.gang? gang with
  | none => .next s
  | some g =>
    if !canRetire s g then .next s
    else
      let ab := gangAborted g
      let s1 := (s.allCtxs.filter (fun (_, _, x) => x.gang == some gang)).foldl (fun s (c, i, _) => freeCtx s c i) s
      let s2 := g.cores.foldl (fun s c => dropPair (dropRegions s c gang) c) s1
      let s3 := s2.modRun g.run (fun r => { r with
        ended := r.ended + 1, aborts := if ab then r.aborts + 1 else r.aborts,
        abortedItems := if ab && g.chain then r.abortedItems ++ [g.index] else r.abortedItems })
      let s4 := s3.modDisp (fun d => { d with gangs := d.gangs.filter (fun x => x.uid != gang) })
      .next { s4 with squares := s4.squares.filterMap (fun (q, y) =>
        let y' := { y with elections := y.elections.filter (fun e => e.gang != gang), opened := y.opened.filter (fun e => e.1 != gang) }
        if y' = Square.reset then none else some (q, y')) }

/-- A parked reader's stream entry is read again (R179). -/
def execStreamEntryReread (core slot : Nat) (s : State) : Host.Outcome State Fault Refusal :=
  let x := s.ctx core slot
  match x.parkedOn (fun w => match w with | .stream _ => true | _ => false), s.run? x.run with
  | true, some r => .next (if (streamRead s r).isSome then s.ready core slot else s)
  | _, _ => .next s

/-! ## The all-asleep trap (R205, R206) -/

def sleepList (n : Nat) : Bool := [2, 3, 5, 6, 7, 9, 10, 11].contains n

def ctxAsleep (x : Ctx) : Bool :=
  match x.state, x.bwait.or x.wait with
  | .idleLanding, _ => true
  | .parked, some w => sleepList w.list
  | _, _ => false

/-- An outstanding request has no flit in the mesh while it waits for a sampling round or an elected result (R205). -/
def LoadKind.flit : LoadKind → Bool
  | .smpw _ _ _ _ | .one _ _ => false
  | _ => true

/-- No engine queue of the core holds work of the tenant, a body whose replays go on included, and none of its accesses is on its way. -/
def coreQuiet (c : Nat) (k : Core) (t : Nat) : Bool :=
  let away := fun (pl : Place) => match pl with | .ls d _ => d != c | _ => true
  k.ctxs.all (fun (_, x) => x.state == .free || x.tenant != t ||
    (ctxAsleep x && x.copyQ.isEmpty && x.matQ.isEmpty && x.loads.all (fun l => !l.kind.flit) && (!x.replaying || x.bwait.isSome) && x.fill.isEmpty)) &&
  k.storeBuf.all (fun e => e.tenant != t || !away e.place) && k.journal.all (fun e => e.tenant != t)

/-- A record that a context of the tenant has kept, or one whose mailbox is full, can go. -/
def canDeliver (s : State) (t : Nat) : Bool :=
  s.allCtxs.any (fun (c, _, x) => x.tenant == t && (match x.ship with
    | some (d, w) => decide (d < 12544) && canShip s { words := w.take 8, dest := d, src := 0, tenant := t, sender := c }
    | none => false)) ||
  s.cores.any (fun (c, k) => k.hold.any (fun h => h.tenant == t && k.seenFull (k.gov 0 h.off).1 (h.off + 64) &&
    canShip s { words := h.words, dest := c, src := 1, tenant := t, sender := c })) ||
  s.cores.any (fun (c, k) => k.landq.any (fun r => r.tenant == t && (idleFor s c t).isSome)) ||
  (match s.part? t with
    | some p => (match ringHead s t (p.word 2) (p.word 3) with | some (_, x) => queueTakes s (bits x 13 0) t 0 | none => false)
    | none => false)

def partAsleep (s : State) (t : Nat) : Bool :=
  let ours := fun (c i u : Nat) => let x := s.ctx c i; x.uid == u && x.tenant == t
  s.cores.all (fun (c, k) => coreQuiet c k t) &&
  s.squares.all (fun (_, q) => q.ropeQ.all (fun r => r.tenant != t)) &&
  s.ships.all (fun x => x.tenant != t) && s.ports.all (fun x => x.tenant != t) && s.smps.all (fun x => x.tenant != t) &&
  s.gives.all (fun g => !ours g.core g.slot g.uid) && s.takes.all (fun (c, i, u, _) => !ours c i u) &&
  (waiting s t).all (fun r => (findOrigin s r).isNone) && !canDeliver s t

/-- Two samples in a row find the partition asleep: 0x14 in its supervisor context, counted there in event counter 11, and not
again until a context of the partition has issued since the handler's `eret`, or since the cause was dropped. State.disp.slept
holds t while the handler has not returned, and 64 + t from then on (DEDUCED, log 22). -/
def execAllAsleepSample (tenant : Nat) (s : State) : Host.Outcome State Fault Refusal :=
  match s.part? tenant with
  | none => .next s
  | some p =>
    if stopped s tenant || !partAsleep s tenant then
      .next (s.modDisp (fun d => { d with asleep := d.asleep.filter (fun t => t != tenant) }))
    else if !s.disp.asleep.contains tenant then .next (s.modDisp (fun d => { d with asleep := d.asleep ++ [tenant] }))
    else if s.disp.slept.contains tenant || s.disp.slept.contains (64 + tenant) then .next s
    else
      let s1 := toSupervisor (s.bump p.supervisor.1 11) tenant { cause := 0x14 }
      let x := s1.ctx p.supervisor.1 p.supervisor.2
      let taken := x.tenant == tenant && (x.in14 || x.held.any (fun h => h.cause == 0x14))
      .next (s1.modDisp (fun d => { d with
        slept := d.slept ++ [if taken then tenant else 64 + tenant], asleep := d.asleep.filter (fun t => t != tenant) }))

end Sys2Proof.Machine
end

