-- ==== Sys2Proof/Machine/Gens.lean ====
section
/-! DEFINITION. Local store regions and generations: `gnew`, `gfree`, `gchk`, `gscrub`, `cfgctx`, FOLD_END, GSCRUB_END (R55, R70,
R71, R78, R368, R388 to R391, R395). -/

namespace Sys2Proof.Machine

/-- The gang that owns a region: 0 for a context outside any gang (R389). -/
def Ctx.owner (x : Ctx) : Nat := x.gang.getD 0

def Region.meets (r : Region) (off len : Nat) : Bool := decide (off < r.off + r.len) && decide (r.off < off + len)

/-! ## gnew (R389) -/

def gnewBody (trap : Bool) (d a b : RegF) : M Unit := do
  let va ← readVal a
  let vb ← readVal b
  let e ← M.env
  let x ← M.me
  let k ← M.myCore
  let off := bits va 19 0
  let len := vb.toNat
  if off % 32 ≠ 0 ∨ len = 0 ∨ len % 32 ≠ 0 ∨ lsSize e.core < off + len then writeInt d (-3)
  else if k.regions.any (fun r => r.meets off len) then writeInt d (-2)
  else if 64 ≤ k.regions.length then writeInt d (-1)
  else
    let g ← allocGen
    let r : Region := { off := off, len := len, trap := trap, gen := g, gang := x.owner, tenant := x.tenant, retired := false }
    M.modMyCore (fun k => { k with regions := k.regions ++ [r] })
    writeInt d (w64 g.toNat)

def execGnewZero (d a b : RegF) (s : State) : Host.Outcome State Fault Refusal := run (.gnewZero d a b) (gnewBody false d a b) s
def execGnewTrap (d a b : RegF) (s : State) : Host.Outcome State Fault Refusal := run (.gnewTrap d a b) (gnewBody true d a b) s

/-! ## gfree (R390) -/

/-- An earlier access of the context to the range has not performed, one of its remaining replays among them (R258). -/
def rangeBusy (s : State) (core : Nat) (x : Ctx) (off len : Nat) : Bool :=
  x.earlierMeets x.seq (.ls core off) len ||
  (s.core core).journal.any (fun j => j.uid == x.uid && j.place.overlaps j.size (.ls core off) len) ||
  (s.core core).storeBuf.any (fun b => b.uid == x.uid && b.place.overlaps b.size (.ls core off) len) ||
  replayMeets s core x (.ls core off) len

def gfreeBody (a : RegF) : M Unit := do
  let v ← readVal a
  let e ← M.env
  let x ← M.me
  let s ← M.state
  let k := s.core e.core
  let off := bits v 19 0
  match k.regions.find? (fun r => r.off == off && (x.level != 0 || (r.gang == x.owner && r.tenant == x.tenant))) with
  | none => pure ()
  | some r =>
    if boardMeets k r.off (r.off + r.len - 1) true then M.park 12 (bits v 47 0) (.board r.off (r.off + r.len - 1) true)
    else if k.hold.any (fun h => decide (r.off ≤ h.off) && decide (h.off < r.off + r.len)) then
      M.park 11 0 (.holdRegion r.off (r.off + r.len - 1))
    else if rangeBusy s e.core x r.off r.len then M.park 1 0 (.range r.off r.len)
    else M.modMyCore (fun k => { k with regions := k.regions.filter (fun q => q.off != r.off) })

def execGfree (a : RegF) (s : State) : Host.Outcome State Fault Refusal := run (.gfree a) (gfreeBody a) s

/-! ## gchk (R391) -/

def gchkBody (d a : RegF) : M Unit := do
  let p ← readVal a
  let (l, _) ← resolve p 1 .gchk false
  boardCheck l false
  let e ← M.env
  match l.place with
  | .ls c off =>
    if c = e.core then
      mustFollow { l with place := .ls c (off / 32 * 32), size := 32 }
      let k ← M.myCore
      let x ← M.me
      writeInt d (gchkWord k x.gen off (granuleBuffered (k.storeBuf.filter (fun b => b.uid == x.uid)) l.place))
    else
      raiseCnt .L
      request d (.gchk c off) l false
  | _ => pure ()

def execGchk (d a : RegF) (s : State) : Host.Outcome State Fault Refusal := run (.gchk d a) (gchkBody d a) s

/-! ## The scrub pass (R78): one register entry or granule each cycle -/

/-- Visits of a pass: the register entries, then the granules. -/
def passLen (c : Nat) : Nat := 2048 + lsSize c / 32

/-- The granule is visited by a pass between its visits lo and hi, and holds a generation that is not live. -/
def Core.cleans (k : Core) (lo hi q : Nat) : Bool :=
  decide (lo ≤ 2048 + q) && decide (2048 + q < hi) && !k.liveGens.contains (SMap.get k.lsGen q 0).toNat

/-- Visits lo to hi − 1: what no live generation owns holds data 0, generation 0 and empty words. -/
def scrubVisits (k : Core) (lo hi : Nat) : Core :=
  let gone := k.cleans lo hi
  { k with
    regs := k.regs.filter (fun (n, r) => !(decide (lo ≤ n) && decide (n < hi) && !k.liveGens.contains r.gen.toNat))
    ls := k.ls.filter (fun (a, _) => !gone (a / 32))
    fe := k.fe.filter (fun (n, _) => !gone (n / 4))
    lsGen := k.lsGen.filter (fun (q, _) => !gone q)
    foldAt := hi }

/-- A pass that goes on makes n visits; what was written to the granules that it cleans is not read again. -/
def passVisits (n : Nat) (s : State) (c : Nat) : State :=
  let k := s.core c
  if k.folding then
    let hi := min (passLen c) (k.foldAt + n)
    (s.forget (fun pl => match pl with
      | .ls d off => d == c && k.cleans k.foldAt hi (off / 32)
      | _ => false)).modCore c (fun k => scrubVisits k k.foldAt hi)
  else s

/-- The pass has visited all. -/
def passDone (s : State) (c : Nat) : Bool := decide (passLen c ≤ (s.core c).foldAt)

/-- FOLD_END: numbering restarts at the smallest value of 1 or above that is not live; event counter 10. The value most recently taken stays. -/
def execFoldEnd (core : Nat) (s : State) : Host.Outcome State Fault Refusal :=
  match (s.core core).fold with
  | .fold :: t => .next (if passDone s core then (s.modCore core (fun k => { k with fold := t, foldAt := 0, genFrom := 0 })).bump core 10 else s)
  | _ => .next s

/-- `gscrub` parks on list 13 while its pass goes on (R395). -/
def execGscrub (s : State) : Host.Outcome State Fault Refusal :=
  run .gscrub (do
    let e ← M.env
    let x ← M.me
    M.modMyCore (fun k => { k with fold := k.fold ++ [.scrub e.slot x.uid] })
    M.parkKeep 13 0 .scrub) s

def execGscrubEnd (core : Nat) (s : State) : Host.Outcome State Fault Refusal :=
  match (s.core core).fold with
  | .scrub slot uid :: t =>
    if !passDone s core then .next s
    else
      let s1 := (s.modCore core (fun k => { k with fold := t, foldAt := 0 })).bump core 10
      let x := s1.ctx core slot
      if x.uid = uid ∧ x.parkedOn (fun w => w == .scrub) = true then
        .next ((s1.modCtx core slot (fun x => { x with pc := x.pc + 4 })).endWait core slot)
      else .next s1
  | _ => .next s

/-! ## cfgctx (R55, R368) -/

/-- The core is quiescent for the context that issues `cfgctx`. -/
def quiescent (s : State) (c i : Nat) : Bool :=
  let k := s.core c
  let x := k.ctx i
  k.ctxs.all (fun (j, y) => j == i || y.state == .free) && x.copyQ.isEmpty && x.matQ.isEmpty && !x.replaying &&
  x.loads.all (fun l => l.smpwId.isNone) &&
  (s.square (serveSquare c)).ropeQ.all (fun r => r.core != c) && s.smps.all (fun m => m.from_.all (fun f => f.1 != c)) &&
  k.journal.isEmpty && k.board.isEmpty && !k.folding

def cfgctxBody (d a : RegF) : M Unit := do
  let v ← readVal a
  let e ← M.env
  let s ← M.state
  if bits v 63 2 ≠ 0 ∨ bits v 1 0 = 3 then M.illegal 4
  else
    let n := 16 * 2 ^ bits v 1 0
    if !quiescent s e.core e.slot then writeInt d (-1)
    else if n ≤ e.slot then writeInt d (-2)
    else
      M.modMyCore (fun k => { k with slots := n })
      writeInt d 0

def execCfgctx (d a : RegF) (s : State) : Host.Outcome State Fault Refusal := run (.cfgctx d a) (cfgctxBody d a) s

end Sys2Proof.Machine
end

