-- ==== Sys2Proof/Machine/Copy.lean ====
section
/-! DEFINITION. The copy engine (R79, R223, R239 to R242, R248 to R257, R363, R364, R370, R420): issue, one unit at a time, failure
records, `qfen`. -/

namespace Sys2Proof.Machine

/-! ## Descriptor sets (R247, R252) -/

/-- Register n of the copy engine, for a context of a tenant: on a kerb core each tenant has its own sets. -/
def setReg (k : Core) (c tenant n : Nat) : Word := SMap.get k.copySets (128 * shareKey c tenant + n) 0
def putSetReg (k : Core) (c tenant n : Nat) (v : Word) : Core :=
  { k with copySets := SMap.put k.copySets 0 (128 * shareKey c tenant + n) v }

structure Dim where
  ext : Nat
  ss : Int
  ds : Int
  deriving DecidableEq, Repr

def dimOf (w : Word) : Dim :=
  { ext := bits w 15 0 + 1, ss := (w.extractLsb' 16 24).toInt, ds := (w.extractLsb' 40 24).toInt }

def CopyCmd.ndims (q : CopyCmd) : Nat := bits q.hdr 3 0 + 1
def CopyCmd.unit (q : CopyCmd) : Nat := 2 ^ bits q.hdr 6 4
def CopyCmd.shape (q : CopyCmd) : List Dim := (q.dims.take q.ndims).map dimOf
def CopyCmd.total (q : CopyCmd) : Nat := q.shape.foldl (fun n d => n * d.ext) 1
/-- `bkt`: ids and buckets. -/
def CopyCmd.nids (q : CopyCmd) : Nat := bits (q.dims.getD 0 0) 15 0 + 1
def CopyCmd.nbuckets (q : CopyCmd) : Nat := bits q.hdr 17 8 + 1

/-- The offset, in units, of linear index i: dimension 0 is the innermost. -/
def indexOff (f : Dim → Int) : List Dim → Nat → Int
  | [], _ => 0
  | d :: t, i => ((i % d.ext : Nat) : Int) * f d + indexOff f t (i / d.ext)

/-- Lowest and highest offset, in units, that a dimension list reaches. -/
def reach (f : Dim → Int) (l : List Dim) : Int × Int :=
  l.foldl (fun (lo, hi) d => let e := ((d.ext - 1 : Nat) : Int) * f d; (lo + min 0 e, hi + max 0 e)) (0, 0)

/-- Code 1 of R251: a reserved value or bit, or more than 2^32 units. -/
def CopyCmd.badSet (q : CopyCmd) : Bool :=
  q.hdr.getLsbD 7 || bits q.hdr 63 18 != 0 ||
  (q.cmd != 3 && (decide (14 ≤ bits q.hdr 3 0) || bits q.hdr 6 4 == 7 || decide (2 ^ 32 < q.total) ||
    (q.cmd == 1 && bits q.aux 63 16 != 0) || (q.cmd == 2 && bits q.aux 63 32 != 0)))

/-! ## Targets of `cpym` and `deal` (R255, R256) -/

def CopyCmd.positions (q : CopyCmd) : List Nat := (List.range 16).filter (fun p => q.aux.getLsbD p)
def CopyCmd.square (q : CopyCmd) : Nat := squareOf (bits q.dst 55 42)

/-- Code 8: the target is no array core of the partition, or the mask is 0. -/
def badTarget (s : State) (tenant : Nat) (q : CopyCmd) : Bool :=
  let w := bits q.dst 63 56
  let c := bits q.dst 55 42
  !(w == 0xF2 || w == 0xF3 || w == 0xF4) || !isArray c || !s.inPart tenant c || q.positions.isEmpty

/-- {0xF4, core id, offset}. -/
def remotePtr (core : Nat) (off : Int) : Word := w64 (0xF4 * 2 ^ 56 + core * 2 ^ 42 + (off % 2 ^ 42).toNat)

/-- The destination pointers of unit i. -/
def destPtrs (q : CopyCmd) (i : Nat) : List Word :=
  let off : Int := bits q.dst 19 0
  match q.cmd with
  | 0 => [q.dst + BitVec.ofInt 64 (indexOff Dim.ds q.shape i * q.unit)]
  | 1 => q.positions.map (fun p => remotePtr (squareCore q.square p) (off + indexOff Dim.ds q.shape i * q.unit))
  | _ =>
    let b := bits q.aux 31 16 + 1
    let ps := q.positions
    let n := i / b
    [remotePtr (squareCore q.square (ps.getD (n % ps.length) 0)) (off + ((n / ps.length * b + i % b) * q.unit : Nat))]

def srcPtr (q : CopyCmd) (i : Nat) : Word := q.src + BitVec.ofInt 64 (indexOff Dim.ss q.shape i * q.unit)

/-! ## Units -/

/-- The failure code of a refused access (R251). -/
def failCode (t : TrapInfo) : Nat :=
  match t.cause with
  | 0x04 => 2 | 0x05 | 0x06 | 0x07 => 3 | 0x08 => 4 | _ => 5

def copyAgent (x : Ctx) (core : Nat) (q : CopyCmd) : Agent :=
  { core := core, tenant := x.tenant, level := q.priv, pv := q.pv, via := .core, ends := q.walks.ends }

/-- A place as aligned pieces of at most 8 bytes: offset and size. -/
def pieces (u : Nat) : List (Nat × Nat) := if u ≤ 8 then [(0, u)] else (List.range (u / 8)).map (fun j => (8 * j, 8))

/-- What a command of context x reads with (R240): the frontiers at its Enqueue, the stores before it, and what the commands that it waited
behind in its queue (1 copy, 2 matrix, 3 rope) have written. -/
def State.cmdReader (s : State) (uid seq id queue : Nat) : Reader :=
  { uid := some uid, before := some seq, front := (s.chan (.cmd id)).join (s.chan (.done uid queue)) }

/-- The write of a command, under the same frontiers (R229). -/
def State.byCmd (s : State) (core uid tenant seq id queue : Nat) : Commit :=
  { by_ := .ctx uid core tenant queue 0, r := s.cmdReader uid seq id queue }

/-- The frontiers of a command at Enqueue. -/
def enqueueFront (uid id : Nat) (s : State) : State := s.setChan (.cmd id) (s.front uid)

/-- What a completed command leaves for the `wait` and the commands behind it (R240, R241), with `more` that a `qfen` brings. -/
def completeFront (uid id queue : Nat) (more : Front) (s : State) : State :=
  let f := ((s.chan (.cmd id)).join more).mark (.queue uid queue) s.ord.commits
  (s.setChan (.cmd id) f).joinChan (.done uid queue) f

/-- A Read of n bytes in one word by a command: its frontiers gain what it returns (R230). -/
def State.cmdRead (s : State) (uid seq id queue : Nat) (own : BitVec 16) (pl : Place) (n : Nat) : Nat × State :=
  let r := s.cmdReader uid seq id queue
  let v := s.weakRead r own anyWr pl n
  let new := v.2.1.filter (fun e => e.2.n != 0 && !r.knows e.1 e.2)
  (v.1, if new.isEmpty then v.2.2 else v.2.2.joinChan (.cmd id) { seen := new.map (fun e => (e.1, e.2.n)) })

/-- The pieces of a unit, each a Read of its own (R226). -/
def readPieces (x : Ctx) (q : CopyCmd) (pl : Place) : List (Nat × Nat) → State → Nat × State
  | [], s => (0, s)
  | (o, n) :: t, s =>
    let v := s.cmdRead x.uid q.seq q.id 1 x.gen (pl.plus o) n
    let w := readPieces x q pl t v.2
    (v.1 * 256 ^ o + w.1, w.2)

def readUnit (s : State) (x : Ctx) (q : CopyCmd) (pl : Place) (u : Nat) : Nat × State := readPieces x q pl (pieces u) s

/-- A source granule that is not current (code 6). -/
def staleUnit (s : State) (pl : Place) (u : Nat) (own : BitVec 16) : Bool :=
  match pl with
  | .ls c off => (pieces u).any (fun (o, _) => !(s.core c).genOk own (off + o))
  | _ => false

/-- A granule of another core in no live region (code 7). -/
def outsideRegion (s : State) (core : Nat) (pl : Place) (u : Nat) : Bool :=
  match pl with
  | .ls c off => c != core && (pieces u).any (fun (o, _) => ((s.core c).regionAt (off + o)).isNone)
  | _ => false

/-- One unit written: a granule of the issuing core is stamped with the recorded generation, one of another core with that of its
region (R79, R253). -/
def writeUnit (s : State) (core : Nat) (by_ : Commit) (pl : Place) (u v : Nat) (dstGen : BitVec 16) : State :=
  (pieces u).foldl (fun (s : State) (o, n) =>
    let b := v / 256 ^ o % 256 ^ n
    match pl.plus o with
    | .ls c off =>
      let g := if c = core then dstGen else ((s.core c).gov 0 off).1
      (s.record by_ (.ls c off) n b g).modCore c (fun k => k.lsWrite g off n b)
    | p => s.commit by_ p n b 0) s

/-- A peer may refuse an access under its own tables (R339; DESIGN CHOICE, log 6). -/
def peerRefuses (s : State) : Place → Bool × State
  | .peer _ _ => (Config.freeChoice s.free, s.draw.2)
  | _ => (false, s)

/-- Where one access of a unit leads, or its failure, and the caches as it leaves them. `bad` is what its place may be refused for. -/
def unitPlace (a : Agent) (u : Nat) (op : Op) (bad : State → Place → Option Nat) (p : Word) (s : State) : Except (Nat × Word) Place × State :=
  let s1 := engTouch s a p u op
  match engResolve s a p u op with
  | .error f => (.error (failCode f, p), s1)
  | .ok pl =>
    let (no, s2) := peerRefuses s1 pl
    (match bad s pl, no with
      | some c, _ => .error (c, p)
      | none, true => .error (5, p)
      | none, false => .ok pl, s2)

/-- A source unit's place: its granules are current. -/
def fetchUnit (a : Agent) (own : BitVec 16) (p : Word) (u : Nat) (s : State) : Except (Nat × Word) Place × State :=
  unitPlace a u .eread (fun s pl => if staleUnit s pl u own then some 6 else none) p s

/-- The destinations of a unit, or the first failure. -/
def destPlaces (a : Agent) (u : Nat) (ps : List Word) (s : State) : Except (Nat × Word) (List (Word × Place)) × State :=
  ps.foldl (fun (r : Except (Nat × Word) (List (Word × Place)) × State) p =>
    match r with
    | (.ok l, s) =>
      let (d, s1) := unitPlace a u .ewrite (fun s pl => if outsideRegion s a.core pl u then some 7 else none) p s
      (d.map (fun pl => l ++ [(p, pl)]), s1)
    | r => r) (.ok [], s)

/-- Bytes of v where the mask has a 1 bit, of w elsewhere. -/
def mixBytes (mask v w : Nat) : Nat → Nat
  | 0 => 0
  | n + 1 => (if mask % 2 = 1 then v % 256 else w % 256) + 256 * mixBytes (mask / 2) (v / 256) (w / 256) n

/-- The `bkt` output words: the count table, then the permutation (R257). -/
def bktWords (ids : List Nat) (e : Nat) : List Nat :=
  (List.range e).map (fun b => (ids.filter (fun i => i == b)).length) ++ [(ids.filter (fun i => decide (e ≤ i))).length] ++
  (List.range e).flatMap (fun b => (List.range ids.length).filter (fun i => ids.getD i 0 == b))

/-- The pointer of the output word that a `bkt` writes next. -/
def bktPtr (q : CopyCmd) : Word :=
  if q.done ≤ q.nbuckets then q.dst + w64 (4 * q.done) else q.aux + w64 (4 * (q.done - q.nbuckets - 1))

/-- A failure at unit n: no unit after it is written (R250). -/
def failUnit (q : CopyCmd) (n : Nat) (f : Nat × Word) : CopyCmd :=
  { q with fail := some f, done := n, held := q.held.filter (fun h => decide (h.1 < n)) }

/-- The writes of one unit (R253). -/
def writeDests (s : State) (core : Nat) (x : Ctx) (q : CopyCmd) (l : List (Word × Place)) (v u : Nat) (gen : BitVec 16) : State :=
  l.foldl (fun s d => writeUnit s core (s.byCmd core x.uid x.tenant q.seq q.id 1) d.2 u v gen) s

/-- The next unit in linear order of a `cpy`, `cpym` or `deal`: its checks and its read. Its writes follow, in any order among the units (R371). -/
def beginUnit (s : State) (core : Nat) (x : Ctx) (q : CopyCmd) : State × CopyCmd :=
  let a := copyAgent x core q
  match fetchUnit a x.gen (srcPtr q q.done) q.unit s with
  | (.error f, s1) => (s1, failUnit q q.done f)
  | (.ok pl, s1) =>
    let (v, s2) := readUnit s1 x q pl q.unit
    match destPlaces a q.unit (destPtrs q q.done) s2 with
    | (.error f, s3) => (s3, failUnit q q.done f)
    | (.ok l, s3) =>
      let v := match q.orig[q.done]? with
        | some o => mixBytes (Config.freeWord s3.free).toNat o v q.unit
        | none => v
      (s3.draw.2, { q with done := q.done + 1, held := q.held ++ [(q.done, l, v)] })

/-- The writes of a unit that has been read; a region that has ended since refuses them (R390). -/
def endUnit (s : State) (core : Nat) (x : Ctx) (q : CopyCmd) (n : Nat) : State × CopyCmd :=
  match q.held[n]? with
  | none => (s, q)
  | some (i, l, v) =>
    let q1 := { q with held := q.held.filter (fun h => h.1 != i) }
    match l.find? (fun d => outsideRegion s core d.2 q.unit) with
    | some d => (s, failUnit q1 i (7, d.1))
    | none => (writeDests s core x q l v q.unit q.dstGen, q1)

/-- One move of a `cpy`, `cpym` or `deal`: a unit begins, or one that has begun commits; which one is a free value. -/
def stepUnit (s : State) (core : Nat) (x : Ctx) (q : CopyCmd) : State × CopyCmd :=
  let n := Config.freePick s.free
  if q.fail.isNone ∧ q.done < q.total ∧ (q.held = [] ∨ n % 2 = 0) then beginUnit s.draw.2 core x q
  else endUnit s.draw.2 core x q (n / 2 % q.held.length)

/-- One id read, or one output word written, of a `bkt` (R364). -/
def stepBkt (s : State) (core : Nat) (x : Ctx) (q : CopyCmd) : State × CopyCmd :=
  let a := copyAgent x core q
  if q.ids.length < q.nids then
    match fetchUnit a x.gen (q.src + w64 (4 * q.ids.length)) 4 s with
    | (.error f, s1) => (s1, failUnit q q.ids.length f)
    | (.ok pl, s1) =>
      let (v, s2) := readUnit s1 x q pl 4
      (s2, { q with ids := q.ids ++ [v] })
  else
    match destPlaces a 4 [bktPtr q] s with
    | (.error f, s1) => (s1, failUnit q q.done f)
    | (.ok l, s1) =>
      (writeDests s1 core x q l ((bktWords q.ids q.nbuckets).getD q.done 0) 4 (if q.done ≤ q.nbuckets then q.dstGen else q.auxGen),
        { q with done := q.done + 1 })

/-- The accesses of the command's next move, in order. -/
def nextAccesses (q : CopyCmd) : List (Word × Nat × Op) :=
  if q.cmd = 3 then (if q.ids.length < q.nids then [(q.src + w64 (4 * q.ids.length), 4, .eread)] else [(bktPtr q, 4, .ewrite)])
  else if q.fail.isSome ∨ q.total ≤ q.done then []
  else (srcPtr q q.done, q.unit, Op.eread) :: (destPtrs q q.done).map (fun p => (p, q.unit, Op.ewrite))

def CopyCmd.finished (q : CopyCmd) : Bool :=
  q.started && q.held.isEmpty && (q.fail.isSome || (if q.cmd = 3 then q.ids.length == q.nids && q.done == (bktWords q.ids q.nbuckets).length
    else q.done == q.total))

def setCopyHead (s : State) (c i : Nat) (q : CopyCmd) : State :=
  s.modCtx c i (fun x => { x with copyQ := q :: x.copyQ.tail })

/-- The command at the head of a context's copy queue has a unit to move. -/
def copyBusy (x : Ctx) : Bool :=
  match x.copyQ with
  | q :: _ => q.cmd != 4 && q.started && !q.finished && q.walks.page.isNone
  | [] => false

/-- The command at the head has units that have begun and are not written. -/
def copyHolds (x : Ctx) : Bool :=
  match x.copyQ with
  | q :: _ => !q.held.isEmpty
  | [] => false

/-- A command on an array core begins no unit after the tick of a switch out; those that have begun are written, so that it stops at a unit
boundary (R324). -/
def mayBegin (s : State) (core : Nat) (x : Ctx) : Bool := !halted s x.tenant || isKerb core

/-- One unit of the command at the head of a context's copy queue; where an access of it misses both caches, it waits for the walk (R221). The queues of
the core are served round-robin (R249). -/
def copyUnit (s : State) (core slot : Nat) : State :=
  let x := s.ctx core slot
  match x.copyQ with
  | [] => s
  | q :: _ =>
    if !copyBusy x then s
    else
      let s := s.modCore core (fun k => { k with cpyTurn := slot + 1 })
      let a := copyAgent x core q
      if !mayBegin s core x then
        let (s1, q1) := endUnit s.draw.2 core x q (Config.freePick s.free % q.held.length)
        if q.held.isEmpty then s else setCopyHead s1 core slot q1
      else match firstMiss s a (nextAccesses q) with
      | some page => askWalk (setCopyHead s core slot { q with walks := { q.walks with page := some page } }) a (.copy core slot q.id) page
      | none =>
        let (s1, q1) := if q.cmd = 3 then stepBkt s core x q else stepUnit s core x q
        setCopyHead s1 core slot { q1 with walks := {} }

/-! ## Start and Complete (R239 to R241, R250, R251) -/

/-- Source and destination bytes of a `cpy` meet: then every unit's value at Start is kept. -/
def keepOrig (s : State) (core : Nat) (x : Ctx) (q : CopyCmd) : List Nat :=
  let a := copyAgent x core q
  let src := (List.range q.total).map (fun i => (engResolve s a (srcPtr q i) q.unit .eread).toOption)
  let dst := (List.range q.total).flatMap (fun i => (destPtrs q i).map (fun p => (engResolve s a p q.unit .ewrite).toOption))
  let meet := src.any (fun p => match p with
    | some pl => dst.any (fun d => match d with | some e => pl.overlaps q.unit e q.unit | none => false)
    | none => false)
  if meet then src.map (fun p => match p with | some pl => (readUnit s x q pl q.unit).1 | none => 0) else []

/-- The checks made when a command Starts: code 1, then the targets, then the pointers of `bkt`. -/
def startFail (s : State) (x : Ctx) (q : CopyCmd) : Option (Nat × Word) :=
  if q.badSet then some (1, 0)
  else if (q.cmd == 1 || q.cmd == 2) && badTarget s x.tenant q then some (8, q.dst)
  else if q.cmd = 3 then
    (if bits q.src 1 0 ≠ 0 then some (2, q.src) else if bits q.dst 1 0 ≠ 0 then some (2, q.dst)
      else if bits q.aux 1 0 ≠ 0 then some (2, q.aux) else none)
  else none

def execCopyCommandStart (core slot : Nat) (s : State) : Host.Outcome State Fault Refusal :=
  let x := s.ctx core slot
  match x.copyQ with
  | [] => .next s
  | q :: _ =>
    if q.started || !storesDone (s.core core) x.uid q.seq then .next s
    else
      let f := if q.cmd = 4 then none else startFail s x q
      .next (setCopyHead s core slot { q with
        started := true, fail := f, orig := if f.isSome ∨ q.cmd ≥ 3 then [] else keepOrig s core x q })

/-- What a `qfen` brings at Complete: the writes of the commands it joined with their frontiers, and as a release of its scope, which the `wait` and the
commands behind it acquire, all that the scope's writers have committed (R235, R242, R245). -/
def joinedFront (s : State) (q : CopyCmd) : Front :=
  let f := q.join.foldl (fun f id => f.join (s.chan (.cmd id))) {}
  match q.scope with
  | some p => f.mark p s.ord.commits
  | none => f

/-- A command leaves its queue; a failure is recorded (R250, R251). -/
def completeCopy (s : State) (core slot : Nat) (q : CopyCmd) : State :=
  let s := completeFront (s.ctx core slot).uid q.id 1 (joinedFront s q) s
  let s := s.modCore core (fun k => k.dropBoards [q.id])
  let s := s.modCtx core slot (fun x => { x with copyQ := x.copyQ.tail, nC := x.nC - 1 })
  match q.fail with
  | none => s
  | some (code, p) =>
    let stat := w64 (code + q.cmd * 256 + q.set * 2 ^ 12 + 2 ^ 15 + q.done % 2 ^ 32 * 2 ^ 16)
    (s.modCtx core slot (fun x => { (x.setEr 0 0x80 stat).setEr 0 0x81 p with recC := x.state != .draining })).bump core 14

def execCopyCommandComplete (core slot : Nat) (s : State) : Host.Outcome State Fault Refusal :=
  match (s.ctx core slot).copyQ with
  | q :: _ => if q.finished && q.cmd != 4 then .next (completeCopy s core slot q) else .next s
  | [] => .next s

/-- A command is still queued or in progress. -/
def cmdLive (s : State) (id : Nat) : Bool :=
  s.allCtxs.any (fun (_, _, x) => x.copyQ.any (fun q => q.id == id) || x.matQ.any (fun q => q.id == id)) ||
  s.squares.any (fun (_, q) => q.ropeQ.any (fun r => r.id == id)) || s.smps.any (fun m => m.id == id) ||
  s.allCtxs.any (fun (_, _, x) => x.loads.any (fun l => l.smpwId == some id))

/-- QFEN_COMPLETE: every command it joined has completed (R242). -/
def execQfenComplete (core slot : Nat) (s : State) : Host.Outcome State Fault Refusal :=
  match (s.ctx core slot).copyQ with
  | q :: _ =>
    if q.cmd == 4 && q.started && q.join.all (fun id => !cmdLive s id) then .next (completeCopy s core slot q) else .next s
  | [] => .next s

/-! ## Issue (R248, R254, R370) -/

/-- The bytes of the issuing core's local store from a pointer's place plus [lo, hi], cut to the store. -/
def localRange (s : State) (core : Nat) (x : Ctx) (p : Word) (lo hi : Int) : Option (Nat × Nat) :=
  match checkPtr s core x.pvbase p 1 with
  | .ok (_, .ls c off) =>
    if c = core then
      let a := max 0 ((off : Int) + lo)
      let b := min ((lsSize core : Int) - 1) ((off : Int) + hi)
      if a ≤ b then some (a.toNat, b.toNat) else none
    else none
  | _ => none

def mkRange (r : Option (Nat × Nat)) (d : Bool) : List (Nat × Nat × Bool) := (r.map (fun (a, b) => (a, b, d))).toList

/-- Bytes that a `deal` writes to the issuing core's store, from the offset of xb: what its position is dealt (R256). -/
def dealBytes (q : CopyCmd) (core : Nat) : Option Nat :=
  let b := bits q.aux 31 16 + 1
  let ps := q.positions
  let blocks := (q.total + b - 1) / b
  match ps.findIdx? (fun p => squareCore q.square p == core) with
  | none => none
  | some n =>
    if blocks ≤ n then none
    else
      let m := (blocks - 1 - n) / ps.length
      let last := n + m * ps.length
      some ((m * b + (if last + 1 = blocks then q.total - last * b else b)) * q.unit)

/-- Scoreboard ranges of a command in its core's local store: (lo, hi, is a destination) (R223). -/
def cmdRanges (s : State) (core : Nat) (x : Ctx) (q : CopyCmd) : List (Nat × Nat × Bool) :=
  if q.badSet then []
  else if q.cmd = 3 then
    mkRange (localRange s core x q.src 0 (4 * q.nids - 1)) false ++ mkRange (localRange s core x q.dst 0 (4 * (q.nbuckets + 1) - 1)) true ++
      mkRange (localRange s core x q.aux 0 (4 * q.nids - 1)) true
  else
    let u : Int := q.unit
    let (slo, shi) := reach Dim.ss q.shape
    let (dlo, dhi) := reach Dim.ds q.shape
    let own := (isArray core && squareOf core == q.square) && q.positions.any (fun p => squareCore q.square p == core)
    let base := remotePtr core (bits q.dst 19 0)
    let dst :=
      if q.cmd = 0 then localRange s core x q.dst (dlo * u) (dhi * u + u - 1)
      else if !own then none
      else if q.cmd = 1 then localRange s core x base (dlo * u) (dhi * u + u - 1)
      else
        (dealBytes q core).bind (fun n => localRange s core x base 0 (n - 1 : Nat))
    mkRange (localRange s core x q.src (slo * u) (shi * u + u - 1)) false ++ mkRange dst true

/-- The governing generation at a destination pointer, when it leads to the core's own local store (R79). -/
def recordGen (s : State) (core : Nat) (x : Ctx) (p : Word) : BitVec 16 :=
  match checkPtr s core x.pvbase p 1 with
  | .ok (_, .ls c off) => if c = core then ((s.core core).gov x.gen off).1 else x.gen
  | _ => x.gen

/-- The pointer by which a command's destination on its own core is reached (R255, R256). -/
def ownDest (core cmd : Nat) (dst : Word) : Word := if cmd = 1 ∨ cmd = 2 then remotePtr core (bits dst 19 0) else dst

def mkCopy (k : Core) (core : Nat) (x : Ctx) (id cmd set : Nat) (src dst : Word) (gen : Word → BitVec 16) : CopyCmd :=
  { id := id, cmd := cmd, set := set, src := src, dst := dst, hdr := setReg k core x.tenant (16 * set),
    dims := (List.range 14).map (fun j => setReg k core x.tenant (16 * set + 1 + j)), aux := setReg k core x.tenant (16 * set + 15),
    priv := x.level, pv := x.pvbase, seq := x.seq, started := false, done := 0, join := [], dstGen := gen (ownDest core cmd dst), auxGen := gen (setReg k core x.tenant (16 * set + 15)), fail := none, orig := [], ids := [] }

def enqueueCopy (q : CopyCmd) (rs : List (Nat × Nat × Bool)) : M Unit := do
  let x ← M.me
  M.modify (enqueueFront x.uid q.id)
  M.modMe (fun x => { x with copyQ := x.copyQ ++ [q] })
  M.modMyCore (fun k => { k with
    board := k.board ++ rs.map (fun (a, b, d) => { cmd := q.id, lo := a, hi := b, dest := d }) })

/-- The issue of a copy command, in the steps of R370. A park for too few scoreboard entries names no address, so its snapshot object is 0 (R207;
DESIGN CHOICE, log 67). -/
def copyBody (cmd : Nat) (a b : RegF) (set : Nat) : M Unit := do
  let src ← readVal a
  let dst ← readVal b
  raiseCnt .C
  let e ← M.env
  let x ← M.me
  let k ← M.myCore
  let s ← M.state
  let (id, s1) := s.fresh
  let q := mkCopy k e.core x id cmd set src dst (recordGen s e.core x)
  let rs := cmdRanges s e.core x q
  if 16 < k.board.length + rs.length then M.park 12 0 (.boardFree rs.length)
  else
    M.modify (fun _ => s1)
    enqueueCopy q rs

def execCpy (a b : RegF) (set : BitVec 3) (s : State) : Host.Outcome State Fault Refusal := run (.cpy a b set) (copyBody 0 a b set.toNat) s
def execCpym (a b : RegF) (set : BitVec 3) (s : State) : Host.Outcome State Fault Refusal := run (.cpym a b set) (copyBody 1 a b set.toNat) s
def execDeal (a b : RegF) (set : BitVec 3) (s : State) : Host.Outcome State Fault Refusal := run (.deal a b set) (copyBody 2 a b set.toNat) s
def execBkt (a b : RegF) (set : BitVec 3) (s : State) : Host.Outcome State Fault Refusal := run (.bkt a b set) (copyBody 3 a b set.toNat) s

/-- The commands in the queues that xa selects: of the issuer, or of every context of its gang on the core (R242). -/
def joined (s : State) (core slot : Nat) (v : Word) : List Nat :=
  let x := s.ctx core slot
  let mine := fun (y : Ctx) => y.uid == x.uid || (v.getLsbD 4 && y.gang == x.gang && y.tenant == x.tenant)
  let ys := ((s.core core).ctxs.filter (fun (_, y) => y.state != .free && mine y)).map (fun (_, y) => y)
  let uids := ys.map (fun y => y.uid)
  (if v.getLsbD 0 then ys.flatMap (fun y => y.copyQ.map (fun q => q.id)) else []) ++
  (if v.getLsbD 1 then ys.flatMap (fun y => y.matQ.map (fun q => q.id)) else []) ++
  (if v.getLsbD 2 then ((s.square (serveSquare core)).ropeQ.filter (fun r => r.core == core && uids.contains r.uid)).map (fun r => r.id)
    else []) ++
  (if v.getLsbD 3 then (s.smps.filter (fun m => m.from_.any (fun f => f.1 == core && uids.contains f.2.2))).map (fun m => m.id) ++
      ys.flatMap (fun y => y.loads.filterMap (fun l => l.smpwId))
    else [])

def qfenBody (scope : Scope) (a : RegF) : M Unit := do
  let v ← readVal a
  raiseCnt .C
  let e ← M.env
  let x ← M.me
  let k ← M.myCore
  let s ← M.state
  let (id, s1) := s.fresh
  let q := { mkCopy k e.core x id 4 0 v 0 (fun _ => x.gen) with join := joined s e.core e.slot v, scope := some (scopeSet s scope x e.core) }
  M.modify (fun _ => s1)
  enqueueCopy q []

def execQfen (scope : Scope) (a : RegF) (s : State) : Host.Outcome State Fault Refusal := run (.qfen scope a) (qfenBody scope a) s

end Sys2Proof.Machine
end

