-- ==== Sys2Proof/Machine/System.lean ====
section
/-! DEFINITION. System instructions: control registers, `erd` and `ewr`, `sbind` and `sfree`, `trap`, `eret`, `dbg`, `idle`, `nop`,
`tlbi`, and the arrival of port words and the end of walks (R59 to R69, R77, R154, R155, R221, R222, R246, R247, R262, R263,
R309 to R317, R372, R373, R376, R378, R410, R428, R429, R448, R449). -/

namespace Sys2Proof.Machine

/-! ## Reading control registers (R67) -/

/-- `ctxinfo` (R69). -/
def ctxinfo (core slot : Nat) (x : Ctx) : Word :=
  let pin : Nat := match x.pin with | .gen => 0 | .rep => 1 | .mat => 2 | .cpy => 3
  let b := fun (v : Bool) (n : Nat) => if v then 2 ^ n else 0
  w64 (slot + pin * 2 ^ 6 + b x.chain 8 + b x.port 9 + b x.landing 10 + x.wbase * 2 ^ 14 + x.wcount * 2 ^ 25 + core * 2 ^ 33 +
    x.gen.toNat * 2 ^ 48)

/-- `itemidx` (R154). A gang run inline has one context: rank, column and row 0 (R202). -/
def itemidx (x : Ctx) : Word :=
  if x.inl.isEmpty then w64 (x.index % 2 ^ 32 + x.rank * 2 ^ 32 + x.col * 2 ^ 38 + x.row * 2 ^ 44) else w64 (x.index % 2 ^ 32)

/-- `runid` (R155): inline, the child's run (R202). -/
def runid (s : State) (x : Ctx) : Word :=
  let b := fun (v : Bool) (n : Nat) => if v then 2 ^ n else 0
  let w := fun (prio : Nat) (o l t : Bool) (st : Nat) =>
    w64 (x.runId % 2 ^ 24 + x.tenant % 64 * 2 ^ 24 + prio * 2 ^ 30 + b o 32 + b l 33 + b t 34 + st * 2 ^ 35)
  match x.inl, s.run? x.run with
  | _ :: _, some r =>
    w (bits (r.packet.getD 3 0) 57 56) false false false (bits (r.packet.getD 3 0) 49 34)
  | _, _ => w x.prio x.ordered x.lock x.strm x.stream

/-- `genmode` (R77). -/
def genmode (k : Core) : Word := w64 (k.genLast % 65536 + (if k.fold.isEmpty then 0 else 2 ^ 16) + k.liveCount % 256 * 2 ^ 24)

/-- `qstat` (R61). -/
def qstat (s : State) (core : Nat) (x : Ctx) : Word :=
  w64 ((List.range 8).foldl (fun v n => v + (SMap.get x.rxq n []).length * 16 ^ n) 0 + (if sendFull s core then 2 ^ 32 else 0))

/-- `jhead` (R319). The head of a journal that has never been used is 0, its reset value; that of one that is empty again is not
stated: a free value (DESIGN CHOICE, log 6). -/
def jhead (k : Core) (free : Nat) : Word :=
  let head := match k.journal with
    | e :: _ => e.ent
    | [] => if k.jnext = 0 then 0 else (Config.freeWord free).toNat % 64
  let r := match k.jrec with
    | some r => 2 ^ 13 + r.ent % 64 * 2 ^ 14 + r.rsn % 16 * 2 ^ 20 + r.slot % 64 * 2 ^ 24 + r.more % 65536 * 2 ^ 30
    | none => 0
  w64 (head + k.journal.length * 2 ^ 6 + r)

/-- The copy of the trap registers that a level reaches (R309). -/
def Ctx.trapRegs (x : Ctx) : TrapRegs := if x.level = 0 then x.ut else x.st
def Ctx.setTrapRegs (x : Ctx) (r : TrapRegs) : Ctx := if x.level = 0 then { x with ut := r } else { x with st := r }

def csrRead (s : State) (core slot c free : Nat) : Word :=
  let k := s.core core
  let x := k.ctx slot
  let r := x.trapRegs
  if 0x030 ≤ c ∧ c ≤ 0x037 then SMap.get x.qdst (c - 0x030) 0
  else if 0x050 ≤ c ∧ c ≤ 0x05F then w64 (SMap.get k.events (c - 0x050) (0 : BitVec 32)).toNat
  else
    match c with
    | 0x000 => x.status
    | 0x001 => r.vec
    | 0x002 => r.cause
    | 0x003 => r.pc
    | 0x004 => r.addr
    | 0x005 => r.aux
    | 0x010 => x.sigmin
    | 0x011 => x.fflags
    | 0x012 => x.fround
    | 0x020 => x.tagbase
    | 0x021 => genmode k
    | 0x022 => x.pvbase
    | 0x038 => qstat s core x
    | 0x040 => ctxinfo (s.lead core) slot x
    | 0x041 => itemidx x
    | 0x042 => runid s x
    | 0x043 => w64 s.tstamp
    | 0x060 => jhead k free
    | 0x070 => w64 k.lim
    | _ => 0

/-! ## Writing control registers (R67, R373) -/

inductive CsrOp where
  | w | s | c
  deriving DecidableEq, Repr

/-- What the form makes of a field's old value. -/
def csrVal (op : CsrOp) (old v : Word) : Word :=
  match op with
  | .w => v | .s => old ||| v | .c => old &&& ~~~v

/-- `status` after a supervisor's write: ppriv 2 and 3 store 1, and the RO bits stay (R310). -/
def statusRule (old v : Word) : Word :=
  let p := bits v 3 2
  let m : Word := 0x3FF0
  setBits ((old &&& ~~~m) ||| (v &&& m)) 3 2 (if p ≤ 1 then p else 1)

def sigminRule (v : Word) : Word := w64 (min 64 (bits v 6 0))
/-- `pvbase`: base and len are multiples of 32 (R210). -/
def pvbaseRule (v : Word) : Word := v &&& 0xFFFE0FFFE0
/-- `lockckpt.lim` (R328). -/
def limRule (v : Word) : Nat := max 1 (min 64 (bits v 6 0))

/-- A write form at the context's level; a register or field that the level may only read does not change. -/
def csrWrite (core slot c : Nat) (op : CsrOp) (v : Word) (s : State) : State :=
  let k := s.core core
  let x := k.ctx slot
  let sup := x.level != 0
  let r := x.trapRegs
  let setR := fun (r : TrapRegs) => s.modCtx core slot (fun x => x.setTrapRegs r)
  if 0x030 ≤ c ∧ c ≤ 0x037 then
    s.modCtx core slot (fun x => { x with
      qdst := SMap.put x.qdst 0 (c - 0x030) (csrVal op (SMap.get x.qdst (c - 0x030) 0) v &&& 0xFFFFFF) })
  else if 0x050 ≤ c ∧ c ≤ 0x05F then
    (if sup then s.modCore core (fun k =>
      let n := c - 0x050
      { k with events := SMap.put k.events 0 n (BitVec.ofNat 32 (csrVal op (w64 (SMap.get k.events n (0 : BitVec 32)).toNat) v).toNat) }) else s)
  else
    match c with
    | 0x000 => if sup then s.modCtx core slot (fun x => { x with status := statusRule x.status (csrVal op x.status v) }) else s
    | 0x001 => setR { r with vec := csrVal op r.vec v &&& ~~~3 }
    | 0x002 => setR { r with cause := csrVal op r.cause v &&& 0xFF }
    | 0x003 => setR { r with pc := csrVal op r.pc v }
    | 0x004 => setR { r with addr := csrVal op r.addr v }
    | 0x005 => setR { r with aux := csrVal op r.aux v }
    | 0x010 => s.modCtx core slot (fun x => { x with sigmin := sigminRule (csrVal op x.sigmin v) })
    | 0x011 => s.modCtx core slot (fun x => { x with fflags := csrVal op x.fflags v &&& 0x1F })
    | 0x012 => s.modCtx core slot (fun x => { x with fround := csrVal op x.fround v &&& 3 })
    | 0x020 => s.modCtx core slot (fun x => { x with tagbase := csrVal op x.tagbase v })
    | 0x022 => if sup then s.modCtx core slot (fun x => { x with pvbase := pvbaseRule (csrVal op x.pvbase v) }) else s
    | 0x060 => if sup ∧ op ≠ .c ∧ v.getLsbD 13 = true then s.modCore core (fun k => { k with jrec := none }) else s
    | 0x070 => if sup then s.modCore core (fun k => { k with lim := limRule (csrVal op (w64 k.lim) v) }) else s
    | _ => s

/-- The four registers coupled to a captured body wait for its replays (R112, R140, R373). -/
def waitReplays (p : Bool) (object : Nat) : M Unit := do
  let x ← M.me
  if p && x.replaying then M.park 1 object .replays else pure ()

/-- The flags of a `one.` pair or of a `qblk` that waits for its result come first (R112, R412, R419). -/
def waitFlags (c : Nat) : M Unit := do
  let x ← M.me
  match if c = 0x011 then x.loads.find? (fun l => match l.kind with | .one _ _ | .qblk _ => true | _ => false) else none with
  | some l => M.park 1 l.rd (.reg l.rd)
  | none => pure ()

/-- A register that the remaining replays use keeps its value for them: they stand before the write in program order (R258, R373). -/
def waitUsed (c : Nat) : M Unit := do
  let x ← M.me
  let port := decide (0x030 ≤ c) && decide (c ≤ 0x037) && (match x.body with | some b => b.touches (104 + (c - 0x030)) | none => false)
  waitReplays (port || (c == 0x022 && x.replayMem)) 0

def csrrBody (c : Nat) (d : RegF) : M Unit := do
  waitReplays (c == 0x011) 0
  waitFlags c
  let e ← M.env
  let n ← if c = 0x060 then M.draw else pure 0
  let s ← M.state
  writeInt d (csrRead s e.core e.slot c n)

def csrwBody (op : CsrOp) (c : Nat) (a : RegF) : M Unit := do
  waitReplays (c == 0x010 || c == 0x011 || c == 0x012) 0
  waitFlags c
  waitUsed c
  let v ← readVal a
  let e ← M.env
  M.modify (csrWrite e.core e.slot c op v)

def execCsrr (c : BitVec 10) (d : RegF) (s : State) : Host.Outcome State Fault Refusal := run (.csrr c d) (csrrBody c.toNat d) s
def execCsrw (c : BitVec 10) (a : RegF) (s : State) : Host.Outcome State Fault Refusal := run (.csrw c a) (csrwBody .w c.toNat a) s
def execCsrs (c : BitVec 10) (a : RegF) (s : State) : Host.Outcome State Fault Refusal := run (.csrs c a) (csrwBody .s c.toNat a) s
def execCsrc (c : BitVec 10) (a : RegF) (s : State) : Host.Outcome State Fault Refusal := run (.csrc c a) (csrwBody .c c.toNat a) s

/-! ## Engine registers (R247, R252, R262, R266, R271, R273, R281, R298) -/

def engNum : Engine → Nat
  | .copy => 0 | .repeat => 1 | .matrix => 2 | .rope => 3 | .sample => 4

def engRead (s : State) (core slot : Nat) (e : Engine) (n : Nat) : Word :=
  let k := s.core core
  let x := k.ctx slot
  if e = .copy ∧ n < 0x80 then setReg k core x.tenant n else x.er (engNum e) n

/-- The RW bits of a register that `ewr` writes as a whole; RO and reserved bits are 0. -/
def engMask (e : Engine) (n : Nat) : Word :=
  match e with
  | .copy => if n < 0x80 then (if n % 16 = 0 then 0x3FF7F else 0xFFFFFFFFFFFFFFFF) else 0
  | .repeat =>
    if n = 0 then 0xFFFF
    else if n = 1 then 0
    else match n % 4 with
      | 0 => 0xFFFFFFFFFFFFFFFF
      | 1 => 0x7FFFFFFFF
      | _ => 0xFFFFFFFF
  | .matrix =>
    match n with
    | 0 => 0x3FFFFFF
    | 2 => 0x3FF
    | 3 => 0x1FF
    | 8 => 0
    | _ => 0xFFFFF
  | .rope =>
    match n with
    | 0 => 0xFFFFFFFFFFFFFFFF
    | 1 => 0xFFFE0
    | 2 => 0xFFFFFFFF
    | _ => 0
  | .sample =>
    match n with
    | 0 => 0xFFFFFFF
    | 1 => 0xFFFFFFFFFFFFFFFF
    | _ => 0xFFFFFFFF

/-- `mstat` after a write (R273). -/
def mstatWrite (old v : Word) : Word :=
  let w := old &&& ~~~(v &&& 0x1F)
  if v.getLsbD 16 then setBits (setBits (setBits w 15 8 0) 16 16 0) 47 32 0 else w

/-- W1C fields of the engine registers: a failure record is cleared whole. -/
def engWrite (core slot : Nat) (e : Engine) (n : Nat) (v : Word) (s : State) : State :=
  let x := s.ctx core slot
  let m := engMask e n
  match e with
  | .copy =>
    if n < 0x80 then s.modCore core (fun k => putSetReg k core x.tenant n (v &&& m))
    else if n = 0x80 ∧ v.getLsbD 15 = true then
      s.modCtx core slot (fun x => { (x.setEr 0 0x80 0).setEr 0 0x81 0 with recC := false })
    else s
  | .repeat =>
    if n = 1 then s.modCtx core slot (fun x => x.setEr 1 1 (x.er 1 1 &&& ~~~(v &&& 0xF)))
    else s.modCtx core slot (fun x => x.setEr 1 n (v &&& m))
  | .matrix =>
    if n = 8 then s.modCtx core slot (fun x => x.setEr 2 8 (mstatWrite (x.er 2 8) v))
    else s.modCtx core slot (fun x => x.setEr 2 n (v &&& m))
  | .rope =>
    if n = 8 then
      (if v.getLsbD 15 then s.modCtx core slot (fun x => { ((x.setEr 3 8 0).setEr 3 9 0).setEr 3 0xA 0 with recQ := false }) else s)
    else if n = 9 ∨ n = 0xA then s
    else s.modCtx core slot (fun x => x.setEr 3 n (v &&& m))
  | .sample => s.modCtx core slot (fun x => x.setEr 4 n (v &&& m))

/-- The generators' registers wait for the replays that use them: those stand first in program order (R258, R264; DEDUCED, log 24). -/
def waitGens (e : Engine) (n : Nat) : M Unit := do
  let x ← M.me
  waitReplays (e == .repeat && n != 0 && !x.binds.isEmpty) 0

def bodyErd (e : Engine) (n : BitVec 8) (d : RegF) : M Unit := do
  waitGens e n.toNat
  let v ← M.env
  let s ← M.state
  writeInt d (engRead s v.core v.slot e n.toNat)

def execErd (e : Engine) (n : BitVec 8) (d : RegF) (s : State) : Host.Outcome State Fault Refusal := run (.erd e n d) (bodyErd e n d) s

def execEwr (e : Engine) (n : BitVec 8) (a : RegF) (s : State) : Host.Outcome State Fault Refusal :=
  run (.ewr e n a) (do
    waitGens e n.toNat
    let v ← readVal a
    let v' ← M.env
    M.modify (engWrite v'.core v'.slot e n.toNat v)) s

/-! ## sbind, sfree (R62, R63, R263, R428, R429) -/

/-- Replays and a pending load into the register come first. -/
def bindWait (d : RegF) : M Unit := do
  waitReplays true d.toNat
  waitReg d.toNat

def execSbind (d a : RegF) (s : State) : Host.Outcome State Fault Refusal :=
  run (.sbind d a) (do
    let v ← readVal a
    let x ← M.me
    let others := x.binds.filter (fun b => b.1 != d.toNat)
    if d = 0 ∨ (x.carry.getD []).contains d.toNat = true ∨ x.isPort d.toNat = true ∨ 4 ≤ others.length then M.illegal 4
    else
      bindWait d
      M.modMe (fun x => { x with binds := others ++ [(d.toNat, bits v 1 0)] })) s

def execSfree (d : RegF) (s : State) : Host.Outcome State Fault Refusal :=
  run (.sfree d) (do
    bindWait d
    M.modMe (fun x => { x with binds := x.binds.filter (fun b => b.1 != d.toNat) })) s

/-! ## nop, trap, dbg, idle (R315, R376, R410, R449) -/

def execNop (s : State) : Host.Outcome State Fault Refusal := run .nop (pure ()) s

def execTrap (n : BitVec 8) (s : State) : Host.Outcome State Fault Refusal :=
  run (.trap n) (M.stop (.trap { cause := 0x0E, aux := w64 n.toNat, done := true })) s

/-- The firmware records a debug-break event (R344). -/
def noteDbg (core slot n : Nat) : Host.Outcome State Fault Refusal → Host.Outcome State Fault Refusal
  | .next s => .next (logEvent s 9 (s.ctx core slot).tenant core slot (w64 n))
  | o => o

def execDbg (n : BitVec 8) (s : State) : Host.Outcome State Fault Refusal :=
  noteDbg s.cur.1 s.cur.2 n.toNat (run (.dbg n) (M.stop (.trap { cause := 0x0F, aux := w64 n.toNat, done := true })) s)

/-- An unending wait; the PC is past it (R315). -/
def execIdle (s : State) : Host.Outcome State Fault Refusal :=
  run .idle (fun _ s1 => .error (.park { list := 5, object := 0x1FFFFFF, cond := .never } (fun _ => s1))) s

/-! ## eret (R313, R317, R322, R413) -/

/-- The check of a `trappc` (R89). -/
def targetFault (t : Word) : Option TrapInfo :=
  if bits t 1 0 ≠ 0 then some { cause := 0x04, addr := t }
  else if bits t 63 56 ≠ 0 then some (wfault t 1)
  else none

/-- The stopped body at `trappc`: it resumes at that word, and the main stream goes on where it stopped once the remaining replays have followed, or the
body is abandoned (R317). -/
def resumeBody (x : Ctx) (pc aux : Word) : Ctx :=
  match x.body with
  | none => { x with pc := pc }
  | some b =>
    let off := (pc - b.base).toNat
    if off < 4 * b.words.length ∧ off % 4 = 0 then
      { x with pc := b.main, body := some { b with stopped := false, resumed := true, word := off / 4, replay := bits aux 31 16 } }
    else { x with pc := pc, body := none }

/-- The context after `eret` at its level. -/
def leaveHandler (x : Ctx) : Ctx :=
  let sup := x.level != 0
  let r := x.trapRegs
  let rep := if sup then x.srep else x.urep
  let st := if sup then setBits (setBits (setBits x.status 5 5 0) 7 7 0) 1 0 x.ppriv else setBits (setBits x.status 4 4 0) 6 6 0
  let y := { x with status := st }
  if rep then resumeBody y r.pc r.aux else { y with pc := r.pc }

/-- An elected member that resumes elsewhere than at its prefix passes its round on (R413). -/
def passMarked (s : State) (c i : Nat) (sup : Bool) : State :=
  let x := s.ctx c i
  let q := serveSquare c
  let mine := fun (el : Election) => x.gang == some el.gang && el.rank == x.rank && el.elected == c && el.result.isNone &&
    (match el.mark with | some (a, l) => l == sup && a != x.pc | none => false)
  match (s.square q).elections.find? mine with
  | none => s
  | some el =>
    let live := s.domain q el.gang el.rank
    (s.modSquare q (fun y => { y with elections := y.elections.filterMap (fun e => if mine e then passRound live e else some e) })).modCtx
      c i (fun x => { x with elect := el.k })

/-- After the return of an 0x14 handler the cause may be raised again once a context has issued (R206; DEDUCED, log 22). -/
def rearm (s : State) (x : Ctx) (c i : Nat) : State :=
  if x.level ≠ 0 ∧ x.in14 = true then
    (s.modCtx c i (fun x => { x with in14 := false })).modDisp (fun d => { d with slept := d.slept.map (fun t => if t == x.tenant then 64 + t else t) })
  else s

/-- `eret` with its handler active: a bad `trappc` traps at the new level, and a held cause is delivered unless a supervisor handler has begun. -/
def doEret (s : State) (c i : Nat) : State :=
  let x := s.ctx c i
  let s1 := rearm (s.modCtx c i leaveHandler) x c i
  let s2 := passMarked s1 c i (x.level != 0)
  let y := s2.ctx c i
  let s3 := match targetFault y.pc with
    | some t => takeTrap c i y.pc none t s2
    | none => s2
  if x.level ≠ 0 then deliverHeld s3 c i else s3

def execEret (s : State) : Host.Outcome State Fault Refusal :=
  run .eret (do
    let x ← M.me
    let e ← M.env
    if !(if x.level = 0 then x.uin else x.sin) then M.illegal 8
    else M.modify (fun s => doEret s e.core e.slot)) s

/-! ## tlbi (R222, R448) -/

def tlbiMatches (v : Word) (e : TlbEntry) : Bool :=
  e.tenant == bits v 5 0 && (v.getLsbD 6 || e.hits e.tenant (bits v 51 16))

/-- A page of a tenant that a `tlbi` names. -/
def tlbiNames (v : Word) (tenant page : Nat) : Bool := tenant == bits v 5 0 && (v.getLsbD 6 || page == bits v 51 16)

def execTlbi (a : RegF) (s : State) : Host.Outcome State Fault Refusal :=
  run (.tlbi a) (do
    let v ← readVal a
    let e ← M.env
    if bits v 15 7 ≠ 0 then M.illegal 4
    else
      let s ← M.state
      let (id, s1) := s.fresh
      M.modify (fun _ => { s1 with tlbiOps := s1.tlbiOps ++ [(id, e.core, e.slot, v)] })
      M.parkKeep 8 (bits v 51 4) (.tlbi id)) s

/-- The ends of walks that a `tlbi` names are not used: those walks start again (R222). -/
def CmdWalks.drop (w : CmdWalks) (v : Word) (tenant : Nat) : CmdWalks := { w with ends := w.ends.filter (fun e => !tlbiNames v tenant e.1) }

def dropCtxWalks (v : Word) (x : Ctx) : Ctx :=
  { x with
    xfault := match x.xfault with | some f => if tlbiNames v x.tenant f.1 then none else some f | none => none
    copyQ := x.copyQ.map (fun q => { q with walks := q.walks.drop v x.tenant }) }

/-- Cores and squares without the entries that a `tlbi` names. -/
def dropTlb (v : Word) (s : State) : State :=
  let f := fun (l : List TlbEntry) => l.filter (fun e => !tlbiMatches v e)
  { s with
    cores := s.cores.filterMap (fun (c, k) =>
      let k' := { k with tlb := f k.tlb, ctxs := k.ctxs.filterMap (fun (i, x) =>
        let x' := dropCtxWalks v x
        if x' = Ctx.reset then none else some (i, x')) }
      if k' = Core.reset then none else some (c, k'))
    squares := s.squares.filterMap (fun (q, y) =>
      let y' : Square := { y with
        tlb := f y.tlb
        ropeQ := y.ropeQ.map (fun r => { r with walks := r.walks.drop v r.tenant })
        limbo := y.limbo.map (fun l => { l with cmd := { l.cmd with walks := l.cmd.walks.drop v l.cmd.tenant } }) }
      if y' = Square.reset then none else some (q, y')) }

def execTlbiRemovalComplete (idx : Nat) (s : State) : Host.Outcome State Fault Refusal :=
  match s.tlbiOps[idx]? with
  | none => .next s
  | some (id, c, i, v) =>
    let s1 := dropTlb v { s with tlbiOps := s.tlbiOps.take idx ++ s.tlbiOps.drop (idx + 1) }
    let x := s1.ctx c i
    .next (if x.parkedOn (fun w => w == .tlbi id) then (s1.modCtx c i (fun x => { x with pc := x.pc + 4 })).endWait c i else s1)

/-! ## The end of a walk (R220, R221) -/

/-- The entry that a walk fills a cache with. It has the 64 KiB page that was walked, in a 32 MiB page too, so that a walk of another part of that page
adds an entry of its own (DESIGN CHOICE, log 65). -/
def Walk.entry (w : Walk) : WalkEnd → Option TlbEntry
  | .leaf big leaf => some { tenant := w.tenant, page := w.page, big := big, leaf := leaf }
  | .fault _ _ => none

/-- A command that waits for the page goes on with the end of its walk. -/
def CmdWalks.end_ (k : CmdWalks) (page : Nat) (r : WalkEnd) : CmdWalks :=
  if k.page = some page then { page := none, ends := k.ends ++ [(page, r)] } else k

def fillCore (w : Walk) (r : WalkEnd) (s : State) (c : Nat) : State :=
  match w.entry r with
  | some e => s.modCore c (fun k => { k with tlb := tlbTouch k.tlb e 32 })
  | none => s

/-- The walk fills the cache of a requester's core. A context is woken, with the fault that it will take; a command takes the end of the walk. -/
def endWalk (w : Walk) (r : WalkEnd) (s : State) (req : Asker) : State :=
  match req with
  | .ctx c i =>
    let s1 := fillCore w r s c
    let x := s1.ctx c i
    if x.tenant == w.tenant && x.parkedOn (fun k => k == .walk w.page) then
      (s1.modCtx c i (fun x => { x with xfault := match r with
        | .fault cause aux => some (w.page, cause, aux)
        | .leaf _ _ => x.xfault })).wakeFor c i (fun k => k == .walk w.page)
    else s1
  | .copy c i id => (fillCore w r s c).modCtx c i (fun x => { x with
      copyQ := x.copyQ.map (fun q => if q.id == id then { q with walks := q.walks.end_ w.page r } else q) })
  | .rope sq id => s.modSquare sq (fun y => { y with
      ropeQ := y.ropeQ.map (fun q => if q.id == id then { q with walks := q.walks.end_ w.page r } else q)
      limbo := y.limbo.map (fun l => if l.cmd.id == id then { l with cmd := { l.cmd with walks := l.cmd.walks.end_ w.page r } } else l) })

def fillSquares (w : Walk) (r : WalkEnd) (s : State) : State :=
  match w.entry r with
  | some e => (w.squares.filter (fun q => decide (q < 768))).foldl (fun s q => s.modSquare q (fun y => { y with tlb := tlbTouch y.tlb e 1024 })) s
  | none => s

/-- Requests that wait for a place in a miss buffer enter it in the order in which they parked. -/
def admitMisses (s : State) : List (Asker × Nat × Nat) → State
  | [] => s
  | (a, t, p) :: l => admitMisses (requestWalk s a t p) l

def walkEndOf : Except (Nat × Nat) (Bool × Word) → WalkEnd
  | .ok (big, leaf) => .leaf big leaf
  | .error (cause, aux) => .fault cause aux

/-- The tables are read as they stand when the walk ends. -/
def execTranslationWalkEnd (idx : Nat) (s : State) : Host.Outcome State Fault Refusal :=
  match s.walks[idx]? with
  | none => .next s
  | some w =>
    if !s.walking idx w.die then .next s
    else
      let r := walkEndOf (walkTables s w.tenant (w.page * 65536))
      let s1 := fillSquares w r { s with walks := s.walks.take idx ++ s.walks.drop (idx + 1) }
      let s2 := w.reqs.foldl (endWalk w r) s1
      .next (admitMisses { s2 with missWait := [] } s2.missWait)

/-! ## Port words arrive (R58, R60) -/

/-- A word enters its receive queue, or is discarded and counted at the destination (R60). One that finds the queue full, words that an instruction may give
back counted, waits in the mesh until there is room, and words of one core to one queue arrive in the order sent (DESIGN CHOICE, log 51). -/
def execPortWordArrival (idx : Nat) (s : State) : Host.Outcome State Fault Refusal :=
  match s.ports[idx]? with
  | none => .next s
  | some m =>
    if stopped s m.tenant || (s.ports.take idx).any (fun n => n.srcCore == m.srcCore && n.core == m.core && n.slot == m.slot && n.queue == m.queue) then .next s
    else
      let core := s.leadSlot m.core m.slot
      let x := s.ctx core m.slot
      let s1 := { s with ports := s.ports.take idx ++ s.ports.drop (idx + 1) }
      let q := SMap.get x.rxq m.queue []
      if (s.core core).slots ≤ m.slot ∨ x.state = .free ∨ x.tenant ≠ m.tenant then .next (s1.bump core 2)
      else if 8 ≤ q.length + x.lent m.queue then .next s
      else .next (s1.modCtx core m.slot (fun x => { x with rxq := SMap.put x.rxq [] m.queue (q ++ [m.v]) }))

end Sys2Proof.Machine
end

