-- ==== Sys2Proof/Machine/Body.lean ====
section
/-! DEFINITION. Words that execute elsewhere than in an issue slot of their own: `one.` pairs and their elections (R99, R411 to
R414), `rep` bodies and their replays (R258 to R261, R317, R423), and the fetch of a word (R357, R105). -/

namespace Sys2Proof.Machine

/-! ## Fetch (R357, R209, R217) -/

/-- The word at an instruction address, under the checks of a fetch: a Read of the context (R230). -/
def fetchWord (p : Word) : M IWord :=
  if bits p 63 52 ≠ 0 then M.trap 0x05 p 2
  else if p.getLsbD 51 then M.trap 0x05 p 4
  else do
    let (pl, _) ← translate p .fetch
    let s ← M.state
    let x ← M.me
    let (w, l, s1) := s.weakRead (s.reader x.uid) x.gen anyWr pl 4
    M.modify (fun _ => s1.see x.uid l)
    pure (BitVec.ofNat 32 w)

/-! ## The meanings that a pair or a body may hold -/

def bodyOf : Instr → Option (M Unit)
  | .add d a b => some (bodyAdd d a b)
  | .sub d a b => some (bodySub d a b)
  | .mul d a b => some (bodyMul d a b)
  | .mulh d a b => some (bodyMulh d a b)
  | .mulhn d a b => some (bodyMulhn d a b)
  | .div d a b => some (bodyDiv d a b)
  | .divn d a b => some (bodyDivn d a b)
  | .rem d a b => some (bodyRem d a b)
  | .remn d a b => some (bodyRemn d a b)
  | .and d a b => some (bodyAnd d a b)
  | .or d a b => some (bodyOr d a b)
  | .xor d a b => some (bodyXor d a b)
  | .shl d a b => some (bodyShl d a b)
  | .shr d a b => some (bodyShr d a b)
  | .sra d a b => some (bodySra d a b)
  | .min d a b => some (bodyMin d a b)
  | .max d a b => some (bodyMax d a b)
  | .minn d a b => some (bodyMinn d a b)
  | .maxn d a b => some (bodyMaxn d a b)
  | .slt d a b => some (bodySlt d a b)
  | .sltn d a b => some (bodySltn d a b)
  | .seq d a b => some (bodySeq d a b)
  | .sel d a b => some (bodySel d a b)
  | .clz d a => some (bodyClz d a)
  | .ctz d a => some (bodyCtz d a)
  | .pop d a => some (bodyPop d a)
  | .perm d a b => some (bodyPerm d a b)
  | .addi d a imm => some (bodyAddi d a imm)
  | .andi d a imm => some (bodyAndi d a imm)
  | .ori d a imm => some (bodyOri d a imm)
  | .xori d a imm => some (bodyXori d a imm)
  | .shli d a n => some (bodyShli d a n)
  | .shri d a n => some (bodyShri d a n)
  | .srai d a n => some (bodySrai d a n)
  | .slti d a imm => some (bodySlti d a imm)
  | .sltni d a imm => some (bodySltni d a imm)
  | .lui d imm => some (bodyLui d imm)
  | .addpc d imm => some (bodyAddpc d imm)
  | .bfx d a lo wm1 => some (bodyBfx d a lo wm1)
  | .bfi d a lo wm1 => some (bodyBfi d a lo wm1)
  | .ld d a size ord imm => some (bodyLd d a size ord imm)
  | .amo op scope d a b => some (bodyAmo op scope d a b)
  | .cas scope d a b => some (bodyCas scope d a b)
  | .fadd t d a b => some (bodyFadd t d a b)
  | .fsub t d a b => some (bodyFsub t d a b)
  | .fmul t d a b => some (bodyFmul t d a b)
  | .fma t d a b => some (bodyFma t d a b)
  | .fnma t d a b => some (bodyFnma t d a b)
  | .fdiv t d a b => some (bodyFdiv t d a b)
  | .fsqrt t d a => some (bodyFsqrt t d a)
  | .fmin t d a b => some (bodyFmin t d a b)
  | .fmax t d a b => some (bodyFmax t d a b)
  | .fneg t d a => some (bodyFneg t d a)
  | .fabs t d a => some (bodyFabs t d a)
  | .fcmp t d a b => some (bodyFcmp t d a b)
  | .fcls t d a => some (bodyFcls t d a)
  | .frcp t d a => some (bodyFrcp t d a)
  | .fex2 t d a => some (bodyFex2 t d a)
  | .flg2 t d a => some (bodyFlg2 t d a)
  | .fcvt dst src rnd d a => some (bodyFcvt dst src rnd d a)
  | .fcvi dst src rnd d a => some (bodyFcvi dst src rnd d a)
  | .icvf dst src rnd d a => some (bodyIcvf dst src rnd d a)
  | .sigr d a => some (bodySigr d a)
  | .sigw d a n => some (bodySigw d a n)
  | .qblkI8 d a b => some (bodyQblkI8 d a b)
  | .qblkI4 d a b => some (bodyQblkI4 d a b)
  | .fscl d a b => some (bodyFscl d a b)
  | .take d => some (bodyTake d)
  | .erd e n d => some (bodyErd e n d)
  | _ => none


def reasonInfo (r : Nat) (w : IWord) : TrapInfo := { cause := 0x01, aux := w64 (r * 2 ^ 32 + w.toNat) }

/-! ## Steps of R105 on a word at issue -/

/-- The refusal of a word at issue by the checks of R105, or none for a word that may execute. -/
def wordRefusal (core : Nat) (x : Ctx) (w : IWord) : Option TrapInfo :=
  match decode w with
  | .error r => some (reasonInfo r.reason w)
  | .ok i => precheck core x (form i) w

/-- An instruction word is checked at issue before it executes: a refused one raises its trap, any other is left to its own meaning. -/
def execIssueRefusalHolder (w : IWord) (s : State) : Host.Outcome State Fault Refusal :=
  let e := envOf s w
  match wordRefusal e.core (s.ctx e.core e.slot) w with
  | some t => .next (rotate e.core e.slot (raise e t s))
  | none => .next s

/-! ## one. (R99, R411 to R414) -/

/-- The instructions that may follow the prefix. -/
def onePair (i : Instr) (w : IWord) : Bool :=
  let m := Dec.major w
  (decide (0x01 ≤ m) && decide (m ≤ 0x0A)) || (decide (0x1D ≤ m) && decide (m ≤ 0x25)) ||
  (match i with
  | .ld _ _ _ _ _ | .amo _ _ _ _ _ | .cas _ _ _ _ | .take _ | .erd _ _ _ => true
  | _ => false)

/-- The second word of a pair, fetched and checked (R99, R105). -/
def pairOf : M (IWord × Instr) := do
  let e ← M.env
  let w ← fetchWord (e.pc + 4)
  match decode w with
  | .error r => M.stop (.trap (reasonInfo r.reason w))
  | .ok i =>
    if !onePair i w then M.stop (.trap (reasonInfo 6 w))
    else
      let x ← M.me
      match precheck e.core x (form i) w with
      | some t => M.stop (.trap t)
      | none => return (w, i)

def Election.inDomain (el : Election) (g rank : Nat) (k : BitVec 32) : Bool := el.gang == g && el.rank == rank && el.k == k

def State.round? (s : State) (q g rank : Nat) (k : BitVec 32) : Option Election :=
  (s.square q).elections.find? (fun el => el.inDomain g rank k)

/-- A round opens with its elected member, the live member on the lowest core. -/
def openRound (s : State) (q g rank : Nat) (k : BitVec 32) (elected : Nat) : State :=
  s.modSquare q (fun y => { y with
    elections := y.elections ++ [{ gang := g, rank := rank, k := k, elected := elected, result := none, mark := none }]
    opened := y.opened.filter (fun (h, r, _) => !(h == g && r == rank)) ++ [(g, rank, k)] })

/-- The elected instruction with its own operands; its flags are kept apart for the delivery, and join those of the context, which keeps its own while an
access goes on (R112). -/
def electedBody (w : IWord) (i : Instr) : M Unit := fun e s =>
  let old := (s.ctx e.core e.slot).fflags
  let k := (s.ctx e.core e.slot).elect
  let s1 := s.modCtx e.core e.slot (fun x => { x with fflags := 0, eout := none })
  let joined := fun (t : State) => t.modCtx e.core e.slot (fun x => { x with fflags := old ||| x.fflags, eout := none })
  match ((bodyOf i).getD (pure ())) { e with pc := e.tpc + 4, word := w, elect := true } s1 with
  | .error (.park n keep) => .error (.park n (fun t => joined (keep t)))
  | .error r => .error r
  | .ok (_, s2) =>
    let y := s2.ctx e.core e.slot
    .ok ((), match y.eout with
      | some v => electResult (joined s2) e.core e.slot k v y.fflags
      | none => joined s2)

/-- A receiver's destination becomes pending, or takes the result that the square already holds, as an acquire (R414). -/
def receiverBody (w : IWord) (i : Instr) (k : BitVec 32) (result : Option (TVal × Word)) (front : Front) : M Unit := do
  let d := (form i).dst.getD 0
  let e ← M.env
  let x ← M.me
  match result with
  | some (v, fl) =>
    M.modify (fun s => s.gain x.uid front)
    M.modMe (fun x => orFlags x fl.toNat)
    writeReg d v
  | none => request d (.one k w) { place := .ls e.core 0, ptr := 0, win := .loc, size := 8 } false

/-- `one.`: a context outside any gang, or alone in its domain, executes its own instruction. A fault of the elected member leaves
the round open, to be executed again at its prefix. -/
def execOne (s : State) : Host.Outcome State Fault Refusal :=
  let e := envOf s ((encode .one).getD 0)
  match pairOf e (advance e.core e.slot 8 s) with
  | .error r => finish e s (.error r)
  | .ok ((w, i), s1) =>
    let x := s1.ctx e.core e.slot
    match x.gang with
    | none => finish e s (electedBody w i e s1)
    | some g =>
      let q := serveSquare e.core
      let k := x.elect + 1
      let live := s1.domain q g x.rank
      let known := s1.round? q g x.rank k
      if known.isNone && decide (4 ≤ ((s1.square q).elections.filter (fun el => el.gang == g && el.rank == x.rank)).length) then
        finish e s (.error (.park { list := 1, cond := .electRoom } id))
      else
        let elected := match known with
          | some el => el.elected
          | none => (live.head?.map (fun m => m.1)).getD e.core
        let opening := fun (s : State) => if known.isSome then s else openRound s q g x.rank k elected
        let s2 := (opening s1).modCtx e.core e.slot (fun x => { x with elect := k })
        if elected = e.core ∧ (known.elim true (fun el => el.result.isNone)) = true then
          match electedBody w i e s2 with
          | .error (.trap t) =>
            let s3 := markRound (opening s) e.core e.slot k e.tpc ((trapTarget x t).getD true)
            .next (rotate e.core e.slot (raise e t s3))
          | r => finish e s r
        else finish e s (receiverBody w i k (known.bind (fun el => el.result)) (known.elim {} (fun el => el.front)) { e with pc := e.tpc + 4 } s2)

def LoadReq.isOne (l : LoadReq) (k : BitVec 32) : Bool := match l.kind with | .one j _ => j == k | _ => false

/-- The receiver's port may no longer be written to (R60): it faults at its prefix, and has not issued the pair (DEDUCED, log 14). -/
def refuseResult (s : State) (c i : Nat) (l : LoadReq) (k : BitVec 32) : State :=
  failReply (s.modCtx c i (fun x => { x with elect := if x.elect = k then k - 1 else x.elect })) c i l { cause := 0x05, aux := w64 (l.rd - 104) }

/-- ONE_RESULT_DELIVERY: the receiver's register is written, under its own generation, and the receiver acquires (R414); none while its send queue is
full. -/
def execOneResultDelivery (idx : Nat) (s : State) : Host.Outcome State Fault Refusal :=
  match s.gives[idx]? with
  | none => .next s
  | some d =>
    let s1 := { s with gives := s.gives.take idx ++ s.gives.drop (idx + 1) }
    let x := s.ctx d.core d.slot
    match if x.uid = d.uid then x.loads.find? (fun l => l.isOne d.k) else none with
    | none => .next s1
    | some l =>
      if portShut s x l.rd l.app then .next (refuseResult s1 d.core d.slot l d.k)
      else
        match complete ((s1.gain d.uid d.front).modCtx d.core d.slot (fun x => orFlags x d.flags.toNat)) d.core d.slot l d.v false with
        | none => .next s
        | some s2 => .next (closeRounds s2 (serveSquare d.core))

/-- The pair of request l executes now, for round el: the state, or none where it cannot proceed yet. An access that would park its context completes while
the context goes on, unless its port keeps it parked. -/
def passedPair (s : State) (c j : Nat) (el : Election) (l : LoadReq) (w : IWord) (i : Instr) : Option State :=
  let x := s.ctx c j
  let e : Env := { core := c, slot := j, pc := l.pc, tpc := l.pc, replay := none, word := w, dest := l.app, was := x }
  let s1 := s.modCtx c j (fun y => { y with loads := y.loads.filter (fun m => m.seq != l.seq), elect := el.k })
  let back := fun (s : State) => s.modCtx c j (fun y => { y with elect := x.elect })
  match electedBody w i e s1 with
  | .ok (_, s2) => some (back (if l.waits then (s2.modCtx c j (fun y => { y with pc := l.next })).endWait c j else s2))
  | .error (.trap t) => some (failReply s c j { l with elect := some el.k } t)
  | .error (.park _ keep) =>
    let s2 := keep s
    let late := fun (m : LoadReq) => decide (x.seq ≤ m.seq)
    if (s2.ctx c j).loads.any late then some (back (s2.modCtx c j (fun y => { y with
      pc := x.pc, loads := y.loads.map (fun m => if late m then { m with waits := l.waits, next := l.next } else m) })))
    else none
  | .error .stall => none

/-- The member to which a round has passed after it issued its pair executes the instruction at once (R413). -/
def runPassed (s : State) (sq idx : Nat) : State :=
  match (s.square sq).elections[idx]? with
  | none => s
  | some el =>
    match (s.domain sq el.gang el.rank).find? (fun (c, _) => c == el.elected) with
    | none => s
    | some (c, j) =>
      match if el.result.isSome then none else (s.ctx c j).loads.find? (fun l => l.isOne el.k) with
      | none => s
      | some l =>
        let w := match l.kind with | .one _ w => w | _ => 0
        match decode w with
        | .error _ => s
        | .ok i => (passedPair s c j el l w i).getD s

/-! ## rep (R258, R259, R423) -/

/-- Steps 1 to 7 of R105 on a body word at p, and the majors a body may hold. After a prefix the word that follows is refused, for its own reason where it is
illegal (R99). -/
def bodyWord (p : Word) (w : IWord) : M Unit := do
  let e ← M.env
  let x ← M.me
  match decode w with
  | .error r => M.stop (.trap (reasonInfo r.reason w))
  | .ok .one => do
    let n ← fetchWord (p + 4)
    M.stop (.trap (match decode n with | .error r => reasonInfo r.reason n | .ok _ => reasonInfo 6 n))
  | .ok i =>
    let f := form i
    match precheck e.core x { pin := f.pin, sup := f.sup } w with
    | some t => M.stop (.trap t)
    | none => if bodyMajor w then pure () else M.stop (.trap (reasonInfo 7 w))

/-- The n words at p; a word that fails stops the capture with its own address. -/
def captureWords (e : Env) (p : Word) : Nat → State → Except (Word × Stop) (List IWord × State)
  | 0, s => .ok ([], s)
  | n + 1, s =>
    match (do let w ← fetchWord p; bodyWord p w; pure w : M IWord) e s with
    | .error r => .error (p, r)
    | .ok (w, s1) =>
      match captureWords e (p + 4) n s1 with
      | .error r => .error r
      | .ok (ws, s2) => .ok (w :: ws, s2)

/-- The captured body: `repcnt` is copied, and the main stream goes on after it. -/
def capture (x : Ctx) (n s lo span : Nat) (ws : List IWord) : Ctx :=
  let cnt := bits (x.er 1 0) 15 0
  { x with
    pc := x.pc + w64 (4 * n)
    body := if cnt = 0 then none
      else some { base := x.pc, words := ws, s := s, lo := lo, span := span, count := cnt, replay := 0, word := 0, stopped := false, main := 0, seq := x.seq } }

def execRep (nm1 : BitVec 4) (st : BitVec 7) (lo : BitVec 7) (span : BitVec 6) (s : State) : Host.Outcome State Fault Refusal :=
  let e := envOf s ((encode (.rep nm1 st lo span)).getD 0)
  let x := s.ctx e.core e.slot
  let n := nm1.toNat + 1
  match precheck e.core x (form (.rep nm1 st lo span)) e.word with
  | some t => .next (rotate e.core e.slot (raise e t s))
  | none =>
    if x.replaying then finish e s (.error (.park { list := 1, cond := .replays } id))
    else
      match captureWords e (e.pc + 4) n (advance e.core e.slot 4 s) with
      | .error (p, r) => finish { e with tpc := p } s (.error r)
      | .ok (ws, s1) => finish e s (.ok ((), s1.modCtx e.core e.slot (fun x => capture x n st.toNat lo.toNat span.toNat ws)))

/-! ## Replays (R260, R261, R317) -/

/-- A `qblk` of the body has not completed: the engine issues no later word of the body (R419). -/
def Ctx.blockPending (x : Ctx) : Bool := x.loads.any (fun l => match l.kind with | .qblk b => b.body | _ => false)

/-- A body word waits to issue: its context is not held by an earlier one, and is not stopped (R261). -/
def bodyBusy (x : Ctx) : Bool := x.replaying && x.bwait.isNone && !x.blockPending && (x.state == .ready || x.state == .parked)

/-- The engine issues a body word and serves the next context of the core (R261). A word that cannot proceed parks its context, and the body waits at it. -/
def execReplayWordIssue (core slot : Nat) (s : State) : Host.Outcome State Fault Refusal :=
  let x := s.ctx core slot
  match x.body with
  | none => .next s
  | some b =>
    if !bodyBusy x then .next s
    else
      let s := s.modCore core (fun k => { k with repTurn := slot + 1 })
      let w := b.words.getD b.word 0
      match decode w with
      | .error _ => .next s
      | .ok i =>
        let j := mapRegs (b.stag b.replay) i
        let p := b.base + w64 (4 * b.word)
        let e : Env := { core := core, slot := slot, pc := p, tpc := p, replay := some b.replay, word := w, was := x }
        match precheck core x (form j) w with
        | some t => .next (replayTrap s core slot p b.replay t)
        | none =>
          match ((bodyOf j).getD (pure ())) e s with
          | .ok (_, s1) =>
            let s2 := clearFault core slot s1
            .next (if (s2.ctx core slot).blockPending then s2 else advanceBody s2 core slot)
          | .error (.trap t) => .next (replayTrap s core slot p b.replay t)
          | .error (.park n keep) => .next ((keep s).parkBody core slot n)
          | .error .stall => .next s

end Sys2Proof.Machine
end

