-- ==== Sys2Proof/Machine/Matrix.lean ====
section
/-! DEFINITION. The matrix engine (R124, R129, R130, R136, R137, R249, R265 to R273, R405 to R408): issue with its checks, one
command at a time for the core, and its effect at completion. -/

namespace Sys2Proof.Machine

/-! ## Registers (R266, R271) -/

def mgW4 (g : Word) : Bool := bits g 1 0 == 1
def mgAfmt (g : Word) : Nat := bits g 3 2
def mgGrp (g : Word) : Nat := bits g 5 4
def mgSfmt (g : Word) : Nat := bits g 7 6
def mgZp (g : Word) : Bool := g.getLsbD 8
def mgRows (g : Word) : Nat := bits g 14 9 + 1
def mgBank (g : Word) : Nat := bits g 18 15
def mgRow0 (g : Word) : Nat := bits g 24 19
def mgXin (g : Word) : Bool := g.getLsbD 25
/-- Kb of R265. -/
def mgKb (g : Word) : Nat := if mgW4 g then 256 else 128
/-- Bytes of an activation row (R268). -/
def rowBytes (g : Word) : Nat := match mgAfmt g with | 0 => mgKb g | 1 => mgKb g / 2 | _ => 2 * mgKb g
/-- Weight groups in a bank's K values. -/
def mgGw (g : Word) : Nat := mgKb g / (32 * 2 ^ mgGrp g)
/-- Bytes of a weight scale block with its zero points. -/
def scaleBytes (g : Word) : Nat := 64 * mgGw g * (if mgZp g then 3 else 2)

def meOfmt (e : Word) : Nat := bits e 1 0
def meScl (e : Word) : Bool := e.getLsbD 2
def meBias (e : Word) : Bool := e.getLsbD 3
def meAct (e : Word) : Nat := bits e 6 4
def meGlu (e : Word) : Bool := e.getLsbD 7
def meClr (e : Word) : Bool := e.getLsbD 8
def outBytes (e : Word) : Nat := match meOfmt e with | 0 => 4 | 1 => 2 | 2 => 2 | _ => 1
def outCols (e : Word) : Nat := if meGlu e then 32 else 64

/-! ## Issue (R267, R405) -/

/-- Step 2: reserved values of the registers a command uses, arow0 + M > 64, A4 without W4, a bank from 12 to 15. -/
def matReserved (cmd : Nat) (b geo epi : Word) : Bool :=
  let rows := decide (64 < mgRow0 geo + mgRows geo)
  let fmts := decide (2 ≤ bits geo 1 0) || mgAfmt geo == 3 || mgGrp geo == 3 || mgSfmt geo == 3 || (mgAfmt geo == 1 && !mgW4 geo)
  match cmd with
  | 0 => decide (12 ≤ bits b 3 0)
  | 1 => rows || fmts || decide (12 ≤ mgBank geo)
  | 2 => fmts
  | 4 => rows || decide (5 ≤ meAct epi)
  | _ => rows

/-- A local-window pointer to an offset of the core. -/
def localPtr (core off : Nat) : Word := w64 (0xF2 * 2 ^ 56 + core * 2 ^ 42 + off)

/-- The ranges a command reads or writes, with the alignment step 4 asks of each: pointer, bytes, alignment. `mepiv` is aligned even where neither of its
vectors is read. -/
def matRanges (core cmd : Nat) (a b geo astr ggeo epi epiv wsc ostr : Word) : List (Word × Nat × Nat) :=
  let m := mgRows geo
  let rows := fun (stride : Word) (n : Nat) => (List.range m).map (fun j => (a + w64 j * stride, n, 32))
  match cmd with
  | 0 => [(a, 8192, 32)]
  | 1 => rows astr (rowBytes geo) ++ [(b, m * (mgKb geo / 32) * 2, 2), (localPtr core wsc.toNat, scaleBytes geo, 2)]
  | 2 => let n := bits ggeo 9 0 + 1; [(a, 4 * n, 4), (b, 16 * n, 16)]
  | 4 =>
    let c := outCols epi * outBytes epi
    rows ostr c ++ (if b = 0 then [] else [(b, ((m - 1) * ostr.toNat + c - 1) / 8 + 1, 1)]) ++
      [(localPtr core epiv.toNat, if meScl epi then 256 else 0, 4)] ++
      (if meBias epi then [(localPtr core (epiv.toNat + 256), 256, 4)] else [])
  | 5 => [(a, 256 * m, 32)] ++ (if b = 0 then [] else [(b, 64 * m, 1)])
  | _ => []

/-- Step 3 of one range, for every byte of it: its local offset. -/
def matOff (s : State) (core : Nat) (x : Ctx) (p : Word) (n : Nat) : Except TrapInfo Nat :=
  match checkPtr s core x.pvbase p n with
  | .error t => .error t
  | .ok (.priv, .ls _ off) | .ok (.loc, .ls _ off) => if off + n ≤ lsSize core then .ok off else .error (wfault p 3)
  | .ok (.priv, _) | .ok (.loc, _) => .error (fault9 0 4)
  | .ok _ => .error (wfault p 4)

def matOffs (s : State) (core : Nat) (x : Ctx) : List (Word × Nat × Nat) → Except TrapInfo Unit
  | [] => .ok ()
  | (_, 0, _) :: t => matOffs s core x t
  | (p, n + 1, _) :: t => do
    let _ ← matOff s core x p (n + 1)
    matOffs s core x t

/-- Step 4: the first misaligned address. -/
def matMisaligned (l : List (Word × Nat × Nat)) : Option Word := (l.find? (fun (p, _, k) => p.toNat % k != 0)).map (fun (p, _) => p)

def matOffOf (s : State) (core : Nat) (x : Ctx) (p : Word) : Nat := match matOff s core x p 1 with | .ok o => o | .error _ => 0

/-- The issue of a matrix command, in the steps of R405. -/
def matBody (cmd : Nat) (srcs : Option (RegF × RegF)) : M Unit := do
  let a ← match srcs with | some (a, _) => readVal a | none => pure 0
  let b ← match srcs with | some (_, b) => readVal b | none => pure 0
  let e ← M.env
  let x ← M.me
  let s ← M.state
  let r := x.er 2
  if matReserved cmd b (r 0) (r 3) then M.illegal 4
  else
    let l := matRanges e.core cmd a b (r 0) (r 1) (r 2) (r 3) (r 4) (r 5) (r 6)
    match matOffs s e.core x l with
    | .error t => M.stop (.trap t)
    | .ok _ =>
      match matMisaligned l with
      | some p => M.trap 0x04 p 0
      | none =>
        raiseCnt .M
        let (id, s1) := s.fresh
        M.modify (fun s => { s with nextId := s1.nextId })
        let q : MatCmd :=
          { id := id, cmd := cmd, aoff := matOffOf s e.core x a, boff := matOffOf s e.core x b, b := b, geo := r 0, astr := r 1,
            ggeo := r 2, epi := r 3, epiv := r 4, wsc := r 5, ostr := r 6, seq := x.seq, started := false, groups := [] }
        M.modify (enqueueFront x.uid id)
        M.modMe (fun x => { x with matQ := x.matQ ++ [q] })

def execMld (a b : RegF) (s : State) : Host.Outcome State Fault Refusal := run (.mld a b) (matBody 0 (some (a, b))) s
def execMmul (a b : RegF) (s : State) : Host.Outcome State Fault Refusal := run (.mmul a b) (matBody 1 (some (a, b))) s
def execMgrp (a b : RegF) (s : State) : Host.Outcome State Fault Refusal := run (.mgrp a b) (matBody 2 (some (a, b))) s
def execMzero (s : State) : Host.Outcome State Fault Refusal := run .mzero (matBody 3 none) s
def execMout (a b : RegF) (s : State) : Host.Outcome State Fault Refusal := run (.mout a b) (matBody 4 (some (a, b))) s
def execMxa (a b : RegF) (s : State) : Host.Outcome State Fault Refusal := run (.mxa a b) (matBody 5 (some (a, b))) s

/-! ## Local store as the engine reads and writes it (R267) -/

/-- One byte under the issuer's generation where no region governs; a stale granule reads 0. -/
def matByte (k : Core) (own : BitVec 16) (off : Nat) : Nat := k.lsRead (k.gov own off).1 off 1
def matNum (k : Core) (own : BitVec 16) (off : Nat) : Nat → Nat
  | 0 => 0
  | n + 1 => matByte k own off + 256 * matNum k own (off + 1) n

def matWriteByte (own : BitVec 16) (off v : Nat) (k : Core) : Core := k.lsWrite (k.gov own off).1 off 1 v
def matWriteNum (own : BitVec 16) (off v : Nat) : Nat → Core → Core
  | 0, k => k
  | n + 1, k => matWriteNum own (off + 1) (v / 256) n (matWriteByte own off (v % 256) k)

/-! ## Operands of the block products (R124, R265, R267, R268) -/

def sxNat (v n : Nat) : Int := if v ≥ 2 ^ (n - 1) then (v : Int) - 2 ^ n else v

/-- Weight K = k of column n of a bank. -/
def weight (banks : Memory) (w4 : Bool) (bank n k : Nat) : Int :=
  let col := 8192 * bank + 128 * n
  if w4 then
    let b := (Memory.byte banks (col + 16 * (k / 32) + k % 16)).toNat
    sxNat (if k % 32 < 16 then b % 16 else b / 16) 4
  else sxNat (Memory.byte banks (col + k)).toNat 8

/-- Activation K = k of the row at an offset. -/
def activation (k : Core) (own : BitVec 16) (afmt off i : Nat) : Int :=
  match afmt with
  | 0 => sxNat (matByte k own (off + i)) 8
  | 1 => let b := matByte k own (off + i / 2); sxNat (if i % 2 = 0 then b % 16 else b / 16) 4
  | _ => sxNat (matNum k own (off + 2 * i) 2) 16

/-- A weight scale, in the format of sfmt. Bits [15:9] of one in XS9 are ignored, as R267 has it for activation scales (DESIGN CHOICE, log 52). -/
def scaleVal (sfmt hw : Nat) : FVal :=
  match sfmt with
  | 0 => f16.dec hw
  | 1 => b16.dec hw
  | _ => let c := hw % 512; if 510 ≤ c then .nan false else let (m, e) := xs9 c; .fin false m e

/-! ## R129, R130 -/

/-- The scale product, rounded to FP32. None stands for NaN. -/
def scaleProduct (ca : Nat) (ws : FVal) : Option Rounded :=
  if 510 ≤ ca then none
  else
    match ws with
    | .nan _ => none
    | .inf n => some (exactBits (f32.inf n) 0)
    | .fin n m e => let (am, ae) := xs9 ca; some (roundInt f32 .rne (signed n (am * m)) (ae + e) n)

/-- The contribution of a block: bits and flags. -/
def contrib (sb : Int) (sp : Option Rounded) : Nat × Nat :=
  if sb = 0 then (0, 0)
  else
    match sp with
    | none => (f32.nan, 0)
    | some r =>
      match f32.dec r.bits with
      | .nan _ => (f32.nan, 0)
      | .inf n => (f32.inf (n != decide (sb < 0)), r.flags)
      | .fin n m e =>
        let c := roundInt f32 .rne (sb * signed n m) e (n != decide (sb < 0))
        (c.bits, r.flags ||| c.flags)

def fopd (b s : Nat) : Opd := { v := f32.dec b, b := b, s := s }

/-- One accumulator while a command folds blocks into it: bits, flags, Exp of the largest contribution, whether every one was the
+0 of Sb = 0. -/
structure Fold where
  acc : Nat
  flags : Nat
  big : Option Int
  zeros : Bool
  deriving DecidableEq, Repr

def maxOpt (a b : Option Int) : Option Int :=
  match a, b with
  | some x, some y => some (max x y)
  | some x, none => some x
  | none, y => y

def finExp (b : Nat) : Option Int :=
  match f32.dec b with
  | .fin _ m e => if m = 0 then none else some ((Nat.log2 m : Int) + e)
  | _ => none

def foldBlock (x : Fold) (sb : Int) (sp : Option Rounded) : Fold :=
  let (c, fl) := contrib sb sp
  let r := addLane f32 .rne false (fopd x.acc 24) (fopd c 24)
  { acc := r.bits, flags := x.flags ||| fl ||| r.flags, big := maxOpt x.big (finExp c), zeros := x.zeros && sb == 0 }

/-- The count after a command (R136). -/
def accCount (before cntBefore : Nat) (x : Fold) : Nat :=
  match f32.dec x.acc with
  | .nan _ => 0
  | .inf _ => 24
  | .fin _ m e =>
    if m = 0 then (if x.zeros && (f32.dec before).isZero && cntBefore == 24 then 24 else 0)
    else
      match maxOpt x.big ((finExp before).map (fun e => e + 24 - cntBefore)) with
      | none => 24
      | some b => 24 - min 24 (max 0 (b - ((Nat.log2 m : Int) + e))).toNat

/-! ## mmul, mgrp (R268, R269, R406, R407) -/

/-- Sb of block j of a row against a column. -/
def blockSum (k : Core) (own : BitVec 16) (geo : Word) (bank act n j : Nat) (z : Int) : Int :=
  (List.range 32).foldl (fun t i =>
    let a := activation k own (mgAfmt geo) act (32 * j + i)
    t + a * (weight k.banks (mgW4 geo) bank n (32 * j + i) - z)) 0

/-- One accumulator folded. -/
def foldOne (k : Core) (own : BitVec 16) (geo : Word) (bank act ascl wscl m n acc : Nat) : Fold :=
  let nb := mgKb geo / 32
  (List.range nb).foldl (fun x j =>
    let g := j / 2 ^ mgGrp geo
    let z := if mgZp geo then sxNat (matByte k own (wscl + 128 * mgGw geo + 64 * g + n)) 8 else 0
    let ca := matNum k own (ascl + 2 * (m * nb + j)) 2 % 512
    let ws := scaleVal (mgSfmt geo) (matNum k own (wscl + 2 * (64 * g + n)) 2)
    foldBlock x (blockSum k own geo bank act n j z) (scaleProduct ca ws)) { acc := acc, flags := 0, big := none, zeros := true }

def accGet (k : Core) (i : Nat) : BitVec 32 × Nat := SMap.get k.acc i (0, 24)
def accPut (k : Core) (i : Nat) (v : BitVec 32 × Nat) : Core := { k with acc := SMap.put k.acc (0, 24) i v }

/-- `rows` rows from accumulator row `row0`; the core and the flags raised. -/
def mmulRows (own : BitVec 16) (geo : Word) (bank act astr ascl wscl row0 rows : Nat) (k : Core) : Core × Nat :=
  (List.range rows).foldl (fun (k, fl) m =>
    (List.range 64).foldl (fun (acc : Core × Nat) n =>
      let i := 64 * (row0 + m) + n
      let (v, c) := accGet k i
      let x := foldOne k own geo bank (act + m * astr) ascl wscl m n v.toNat
      (accPut acc.1 i (BitVec.ofNat 32 x.acc, accCount v.toNat c x), acc.2 ||| x.flags)) (k, fl)) (k, 0)

/-- The failure code of a descriptor (R407), the lowest that applies, or 0. -/
def groupCode (core : Nat) (geo astr w0 w1 : Word) (rows : Nat) : Nat :=
  let act := bits w0 19 0
  let ascl := bits w0 39 20
  let wscl := bits w0 59 40
  let top := lsSize core
  if w1 ≠ 0 then 1
  else if 12 ≤ bits w0 63 60 then 2
  else if act % 32 ≠ 0 ∨ ascl % 2 ≠ 0 ∨ wscl % 2 ≠ 0 ∨ top < wscl + scaleBytes geo ∨
      (0 < rows ∧ (top < act + (rows - 1) * astr.toNat + rowBytes geo ∨ top < ascl + rows * (mgKb geo / 32) * 2)) then 3
  else 0

/-- What a `mgrp` has found: the core, flags, last code, rows not computed, the next row. -/
structure GroupRun where
  core : Core
  flags : Nat
  code : Nat
  skip : Nat
  row : Nat

/-- One group (R269). Its ranges are checked over the rows that are computed, those below row 64; a group that is skipped for its descriptor adds none of
its rows to `mstat.skip` (DESIGN CHOICE, log 68). -/
def runGroup (core : Nat) (own : BitVec 16) (q : MatCmd) (r : GroupRun) (g : Nat × Word × Word) : GroupRun :=
  let (c, w0, w1) := g
  if c = 0 then r
  else
    let n := min c (64 - r.row)
    match groupCode core q.geo q.astr w0 w1 n with
    | 0 =>
      let (k, fl) := mmulRows own q.geo (bits w0 63 60) (bits w0 19 0) q.astr.toNat (bits w0 39 20) (bits w0 59 40) r.row n r.core
      { core := k, flags := r.flags ||| fl, code := r.code, skip := r.skip + (c - n), row := r.row + c }
    | e => { r with code := e, row := r.row + c }

/-! ## mout (R270, R271, R408) -/

/-- An element in the epilogue: FP32 bits, count, I. -/
structure Elem where
  b : Nat
  s : Nat
  i : Bool
  deriving DecidableEq, Repr

def Elem.opd (x : Elem) : Opd := fopd x.b x.s
def Elem.of (r : Lane) (i : Bool) : Elem := { b := r.bits, s := r.cnt, i := i || r.inexact }

/-- e^(−a) for a dyadic a = m × 2^e > 0 below 2^12, scaled by 2^n. -/
def expNegB (m : Nat) (e : Int) (n : Nat) : Int × Int :=
  let (b, j) := expDyadic (-(m : Int)) e n
  (b.1 / 2 ^ (-j).toNat, cdiv b.2 (2 ^ (-j).toNat))

/-- 1/(1 + t) and t/(1 + t) for bounds of t, scaled by 2^n. -/
def recip1 (n : Nat) (t : Int × Int) : Bounds := ((2 ^ (2 * n)) / (2 ^ n + t.2), cdiv (2 ^ (2 * n)) (2 ^ n + t.1))
def share1 (n : Nat) (t : Int × Int) : Bounds := (t.1 * 2 ^ n / (2 ^ n + t.1), cdiv (t.2 * 2 ^ n) (2 ^ n + t.2))

def sigmoidB (neg : Bool) (m : Nat) (e : Int) (n : Nat) : Bounds :=
  let t := expNegB m e n
  if neg then share1 n t else recip1 n t

def mulDyadic (b : Bounds) (v e : Int) : Bounds :=
  let lo := min (v * b.1) (v * b.2)
  let hi := max (v * b.1) (v * b.2)
  if e ≥ 0 then (lo * 2 ^ e.toNat, hi * 2 ^ e.toNat) else (lo / 2 ^ (-e).toNat, cdiv hi (2 ^ (-e).toNat))

def tanhB (neg : Bool) (m : Nat) (e : Int) (n : Nat) : Bounds :=
  let t := expNegB m (e + 1) n
  let lo := (2 ^ n - t.2) * 2 ^ n / (2 ^ n + t.2)
  let hi := cdiv ((2 ^ n - t.1) * 2 ^ n) (2 ^ n + t.1)
  if neg then (-hi, -lo) else (lo, hi)

/-- A value that lies just below v × 2^e in magnitude. -/
def justBelow (neg : Bool) (m : Nat) (e : Int) : Rounded :=
  roundMag f32 .rne neg { num := m * 2 ^ 80 - 1, den := 1, e := e - 80 } true
def tiny (neg : Bool) : Rounded := roundMag f32 .rne neg { num := 1, den := 1, e := -1000 } true

/-- The activation of a finite non-zero value: exact, rounded once. Beyond 2^10 a stand-in of the same rounding. -/
def actRound (act : Nat) (neg : Bool) (m : Nat) (e : Int) : Rounded :=
  let far := decide ((Nat.log2 m : Int) + e ≥ 10)
  match act with
  | 2 => if far then (if neg then tiny false else justBelow false 1 0) else ziv f32 .rne (sigmoidB neg m e)
  | 3 => if far then (if neg then tiny true else justBelow false m e)
    else ziv f32 .rne (fun n => mulDyadic (sigmoidB neg m e n) (signed neg m) e)
  | _ => if far then justBelow neg 1 0 else ziv f32 .rne (tanhB neg m e)

/-- An activation on special operands (R114; e^(−y) of ±∞ as `fex2`). -/
def actSpecial (act : Nat) (x : Elem) : Rounded :=
  match f32.dec x.b with
  | .nan sg => exactBits f32.nan (if sg then NV else 0)
  | .inf n =>
    match act with
    | 2 => exactBits (if n then 0 else 0x3F800000) 0
    | 3 => if n then exactBits f32.nan NV else exactBits (f32.inf false) 0
    | _ => exactBits (f32.signBit n + 0x3F800000) 0
  | .fin _ 0 _ => exactBits (if act = 2 then 0x3F000000 else x.b) 0
  | .fin n m e => actRound act n m e

/-- The activation stage: the element and its flags. -/
def activate (act : Nat) (x : Elem) : Elem × Nat :=
  match act with
  | 0 => (x, 0)
  | 1 =>
    let r := minmaxLane f32 true x.opd (fopd 0 24)
    ({ b := r.bits, s := r.cnt, i := x.i }, r.flags)
  | a => let r := actSpecial a x; ({ b := r.bits, s := x.s, i := x.i || r.inexact }, r.flags)

/-- The scale and bias stages of column n. -/
def scaleBias (k : Core) (own : BitVec 16) (q : MatCmd) (n : Nat) (x : Elem) : Elem × Nat :=
  let (x, f1) := if meScl q.epi then
      let r := mulLane f32 .rne x.opd (fopd (matNum k own (q.epiv.toNat + 4 * n) 4) 24); (Elem.of r x.i, r.flags)
    else (x, 0)
  let (x, f2) := if meBias q.epi then
      let r := addLane f32 .rne false x.opd (fopd (matNum k own (q.epiv.toNat + 256 + 4 * n) 4) 24); (Elem.of r x.i, r.flags)
    else (x, 0)
  (x, f1 ||| f2)

/-- The accumulator as it enters the epilogue: I is 1 below count 24 (R137). -/
def accElem (k : Core) (row n : Nat) : Elem :=
  let (v, c) := accGet k (64 * row + n)
  { b := v.toNat, s := c, i := decide (c < 24) }

/-- Column n of a row after every stage but the conversion. -/
def epilogue (k : Core) (own : BitVec 16) (q : MatCmd) (row n : Nat) : Elem × Nat :=
  let (x, f1) := scaleBias k own q n (accElem k row n)
  let (y, f2) := activate (meAct q.epi) x
  if meGlu q.epi then
    let (g, f3) := scaleBias k own q (n + 32) (accElem k row (n + 32))
    let r := mulLane f32 .rne y.opd g.opd
    (Elem.of r (y.i || g.i), f1 ||| f2 ||| f3 ||| r.flags)
  else (y, f1 ||| f2)

def outFmt : Nat → Fmt | 0 => f32 | 1 => f16 | 2 => b16 | _ => e4m3

/-- The element as it is written: bits, count, I, flags. -/
def outElem (k : Core) (own : BitVec 16) (q : MatCmd) (row n : Nat) : Nat × Nat × Bool × Nat :=
  let (x, fl) := epilogue k own q row n
  let f := outFmt (meOfmt q.epi)
  let r := cvtLane f .rne x.opd
  (r.bits, r.cnt, x.i || r.inexact, if meOfmt q.epi = 0 then fl else fl ||| r.flags)

/-- Row m's elements with their byte offsets from xa. -/
def outRow (k : Core) (own : BitVec 16) (q : MatCmd) (m : Nat) : List (Nat × Nat × Nat × Bool × Nat) :=
  (List.range (outCols q.epi)).map (fun n => (m * q.ostr.toNat + n * outBytes q.epi, outElem k own q (mgRow0 q.geo + m) n))

/-- The tag byte of output word w: the least count and the OR of the I bits of the elements in it, a later row's over an earlier
one's. -/
def tagWord (rows : List (List (Nat × Nat × Nat × Bool × Nat))) (e w : Nat) : Option Nat :=
  let at_ := fun (o : Nat) => rows.foldl (fun (r : Option (Nat × Bool)) row =>
    match row.find? (fun (p, _) => decide (p ≤ o) && decide (o < p + e)) with
    | some (_, _, c, i, _) => some (c, i)
    | none => r) none
  match (List.range 8).filterMap (fun j => at_ (8 * w + j)) with
  | [] => none
  | l => some (l.foldl (fun c x => min c x.1) 127 + (if l.any (fun x => x.2) then 128 else 0))

def clearRows (row0 rows : Nat) (k : Core) : Core :=
  { k with acc := k.acc.filter (fun (i, _) => decide (i < 64 * row0) || decide (64 * (row0 + rows) ≤ i)) }

def moutCore (own : BitVec 16) (q : MatCmd) (k : Core) : Core × Nat :=
  let m := mgRows q.geo
  let e := outBytes q.epi
  let rows := (List.range m).map (outRow k own q)
  let fl := rows.foldl (fun f r => r.foldl (fun f (_, _, _, _, g) => f ||| g) f) 0
  let k1 := rows.foldl (fun k r => r.foldl (fun k (o, b, _) => matWriteNum own (q.aoff + o) b e k) k) k
  let words := ((m - 1) * q.ostr.toNat + outCols q.epi * e - 1) / 8 + 1
  let k2 := if q.b = 0 then k1 else (List.range words).foldl (fun k w =>
    match tagWord rows e w with
    | some t => matWriteByte own (q.boff + w) t k
    | none => k) k1
  (if meClr q.epi then clearRows (mgRow0 q.geo) m k2 else k2, fl)

/-! ## mxa, mld (R272, R268) -/

def mxaCore (own : BitVec 16) (q : MatCmd) (k : Core) : Core :=
  (List.range (64 * mgRows q.geo)).foldl (fun k j =>
    let i := 64 * mgRow0 q.geo + j
    if mgXin q.geo then
      let c := if q.b = 0 then 24 else matByte k own (q.boff + j) % 64
      accPut k i (BitVec.ofNat 32 (matNum k own (q.aoff + 4 * j) 4), if 24 < c then 0 else c)
    else
      let (v, c) := accGet k i
      let k := matWriteNum own (q.aoff + 4 * j) v.toNat 4 k
      if q.b = 0 then k else matWriteByte own (q.boff + j) c k) k

def mldCore (own : BitVec 16) (q : MatCmd) (k : Core) : Core :=
  { k with banks := (List.range 8192).foldl (fun m j =>
      Memory.put m (8192 * bits q.b 3 0 + j) (BitVec.ofNat 8 (matByte k own (q.aoff + j)))) k.banks }

/-! ## Start and Complete (R239 to R241, R249) -/

/-- The bytes of the core's local store that the engine reads older writes of (R230, R240): none where no such write may be read. Each
aligned word is read once in a command. -/
def matOld (s : State) (core : Nat) (x : Ctx) (q : MatCmd) : List (Nat × Byte) × State :=
  let r := s.cmdReader x.uid q.seq q.id 2
  if s.ord.wsets.any (fun e => e.1.onCore core && !(s.older r x.gen anyWr e.1).isEmpty) then
    (s.weakBytes r x.gen s.draw.1 core, s.draw.2)
  else ([], s)

/-- The core as the engine reads it. -/
def matSeen (k : Core) (old : List (Nat × Byte)) : Core :=
  if old.isEmpty then k else { k with ls := old.foldl (fun m b => Memory.put m b.1 b.2) k.ls }

/-- The groups of a `mgrp`, read at Start. -/
def readGroups (k : Core) (own : BitVec 16) (q : MatCmd) : List (Nat × Word × Word) :=
  (List.range (bits q.ggeo 9 0 + 1)).map (fun g =>
    (matNum k own (q.aoff + 4 * g) 4, w64 (matNum k own (q.boff + 16 * g) 8), w64 (matNum k own (q.boff + 16 * g + 8) 8)))

/-- The head of a context's queue may Start. -/
def matReady (k : Core) (x : Ctx) : Bool :=
  match x.matQ with
  | q :: _ => !q.started && storesDone k x.uid q.seq
  | [] => false

/-- The next queue after the one served last, round-robin. -/
def nextMat (k : Core) : Option Nat :=
  let l := (k.ctxs.filter (fun (_, x) => matReady k x)).map (fun (i, _) => i)
  match l.find? (fun i => decide (k.matTurn ≤ i)) with
  | some i => some i
  | none => l.head?

def execMatrixCommandStart (core : Nat) (s : State) : Host.Outcome State Fault Refusal :=
  let k := s.core core
  if k.matCur.isSome then .next s
  else
    match nextMat k with
    | none => .next s
    | some i =>
      let x := k.ctx i
      let old := match x.matQ with
        | q :: _ => if q.cmd = 2 then matOld s core x q else ([], s)
        | [] => ([], s)
      let s1 := old.2.modCtx core i (fun x => { x with matQ := match x.matQ with
        | q :: t => { q with started := true, groups := if q.cmd = 2 then readGroups (matSeen k old.1) x.gen q else [] } :: t
        | [] => [] })
      .next (s1.modCore core (fun k => { k with matCur := some i, matTurn := i + 1 }))

/-- The core after a command's effect, with flags, code and rows not computed. -/
def matEffect (core : Nat) (own : BitVec 16) (q : MatCmd) (k : Core) : Core × Nat × Nat × Nat :=
  match q.cmd with
  | 0 => (mldCore own q k, 0, 0, 0)
  | 1 =>
    let (k', fl) := mmulRows own q.geo (mgBank q.geo) q.aoff q.astr.toNat q.boff q.wsc.toNat (mgRow0 q.geo) (mgRows q.geo) k
    (k', fl, 0, 0)
  | 2 =>
    let r := q.groups.foldl (runGroup core own q) { core := k, flags := 0, code := 0, skip := 0, row := mgRow0 q.geo }
    (r.core, r.flags, r.code, r.skip)
  | 3 => (clearRows (mgRow0 q.geo) (mgRows q.geo) k, 0, 0, 0)
  | 4 => let (k', fl) := moutCore own q k; (k', fl, 0, 0)
  | _ => (mxaCore own q k, 0, 0, 0)

/-- Some row of a `mout` puts an element into output word w (R408). -/
def hasElement (q : MatCmd) (w : Nat) : Bool :=
  (List.range (mgRows q.geo)).any (fun m =>
    decide (m * q.ostr.toNat < 8 * w + 8) && decide (8 * w < m * q.ostr.toNat + outCols q.epi * outBytes q.epi))

/-- Where a command stores in local store, in order: offset and bytes. -/
def matStores (q : MatCmd) : List (Nat × Nat) :=
  match q.cmd with
  | 4 =>
    let e := outBytes q.epi
    let words := ((mgRows q.geo - 1) * q.ostr.toNat + outCols q.epi * e - 1) / 8 + 1
    (List.range (mgRows q.geo)).flatMap (fun m => (List.range (outCols q.epi)).map (fun n => (q.aoff + m * q.ostr.toNat + n * e, e))) ++
      (if q.b = 0 then [] else ((List.range words).filter (hasElement q)).map (fun w => (q.boff + w, 1)))
  | 5 =>
    if mgXin q.geo then []
    else (List.range (64 * mgRows q.geo)).flatMap (fun j => (q.aoff + 4 * j, 4) :: (if q.b = 0 then [] else [(q.boff + j, 1)]))
  | _ => []

/-- The stores commit: each joins the write sets with the value that the core k' ends with. -/
def matCommits (core : Nat) (x : Ctx) (q : MatCmd) (k' : Core) (s : State) : State :=
  (matStores q).foldl (fun (s : State) (st : Nat × Nat) =>
    s.commit (s.byCmd core x.uid x.tenant q.seq q.id 2) (.ls core st.1) st.2 (Memory.read k'.ls st.1 st.2) x.gen) s

/-- The local store after the effect: what was read as older and not stored to holds its newest write. -/
def matKeep (k k' : Core) (q : MatCmd) (old : List (Nat × Byte)) : Core :=
  if old.isEmpty then k'
  else
    let back := old.filter (fun b => (matStores q).all (fun st => !(decide (st.1 ≤ b.1) && decide (b.1 < st.1 + st.2))))
    { k' with ls := back.foldl (fun m b => Memory.put m b.1 (Memory.byte k.ls b.1)) k'.ls }

/-- `mstat` after a command (R273). -/
def matStat (old : Word) (fl code skip : Nat) : Word :=
  let w := old ||| w64 (fl % 32)
  let w := if code = 0 then w else setBits (setBits w 15 8 code) 16 16 1
  if skip = 0 then w else setBits (setBits w 47 32 (min 65535 (bits w 47 32 + skip))) 16 16 1

def execMatrixCommandComplete (core : Nat) (s : State) : Host.Outcome State Fault Refusal :=
  let k := s.core core
  match k.matCur with
  | none => .next s
  | some i =>
    let x := k.ctx i
    match x.matQ with
    | [] => .next (s.modCore core (fun k => { k with matCur := none }))
    | q :: t =>
      let old := matOld s core x q
      let (k', fl, code, skip) := matEffect core x.gen q (matSeen k old.1)
      let kept := matKeep k k' q old.1
      let s1 := (completeFront x.uid q.id 2 {} (matCommits core x q k' old.2)).setCore core { kept with matCur := none }
      .next (s1.modCtx core i (fun x => { (x.setEr 2 8 (matStat (x.er 2 8) fl code skip)) with matQ := t, nM := x.nM - 1 }))

end Sys2Proof.Machine
end

