-- ==== Sys2Proof/Machine/Rope.lean ====
section
/-! DEFINITION. Ropes (R276 to R283, R286, R287, R425): class words, summary operators, nodes and the node cache, Join, Split and
Balance over planned nodes, counts and the node pool. -/

namespace Sys2Proof.Machine

/-! ## Class words (R277) -/

structure Slot where
  op : Nat
  ty : Nat
  idx : Nat
  deriving DecidableEq, Repr

structure RClass where
  elog : Nat
  slots : List Slot
  deriving DecidableEq, Repr

/-- Bytes of a field type: i16, i32, i64, f16, b16, f32, f64, i8. -/
def fieldSize : Nat → Nat | 0 => 2 | 1 => 4 | 2 => 8 | 3 => 2 | 4 => 2 | 5 => 4 | 6 => 8 | _ => 1
def fieldFloat (t : Nat) : Bool := decide (3 ≤ t) && decide (t ≤ 6)

def Slot.ok (elog : Nat) (x : Slot) : Bool :=
  if x.op = 0 then x.ty == 0 && x.idx == 0
  else decide (x.op ≤ 8) && decide ((x.idx + 1) * fieldSize x.ty ≤ 2 ^ elog) && (decide (5 ≤ x.op) == fieldFloat x.ty)

/-- The class a word denotes, or none when it is invalid. -/
def parseClass (w : Word) : Option RClass :=
  let elog := bits w 3 0
  let slots := (List.range 4).map (fun n =>
    ({ op := bits w (15 * n + 7) (15 * n + 4), ty := bits w (15 * n + 10) (15 * n + 8), idx := bits w (15 * n + 18) (15 * n + 11) } : Slot))
  if 1 ≤ elog ∧ elog ≤ 12 ∧ slots.all (Slot.ok elog) = true then some { elog := elog, slots := slots } else none

def RClass.argmax (c : RClass) : Bool := c.slots.any (fun x => x.op == 7)

/-! ## Summary operators (R278): values are 8-byte words as numbers -/

def fmaxBits (a b : Nat) : Nat := (minmaxLane f32 true (fopd a 24) (fopd b 24)).bits
def faddBits (a b : Nat) : Nat := (addLane f32 .rne false (fopd a 24) (fopd b 24)).bits
def fmulBits (a b : Nat) : Nat := (mulLane f32 .rne (fopd a 24) (fopd b 24)).bits
def daddBits (a b : Nat) : Nat :=
  (addLane f64 .rne false { v := f64.dec a, b := a, s := 53 } { v := f64.dec b, b := b, s := 53 }).bits
def isNanB (b : Nat) : Bool := (f32.dec b).isNan
def negInfB : Nat := 0xFF800000

/-- a < b where comparisons follow `fmax`: −0 below +0, a NaN below every number (R114). -/
def fbelow (a b : Nat) : Bool :=
  if isNanB b then false else if isNanB a then true else fltLt true (f32.dec a) (f32.dec b)

/-- RoundRNE(e^(x − m)) in FP32, for x ≤ m and neither a NaN. -/
def expDiff (x m : Nat) : Nat :=
  match f32.dec x, f32.dec m with
  | .fin n1 m1 e1, .fin n2 m2 e2 =>
    let q := min e1 e2
    let d := alignTo (signed n2 m2) e2 q - alignTo (signed n1 m1) e1 q
    if d ≤ 0 then 0x3F800000
    else if (Nat.log2 d.toNat : Int) + q ≥ 10 then (tiny false).bits
    else (ziv f32 .rne (fun n => expNegB d.toNat q n)).bits
  | .inf a, .inf b => if a == b then 0x3F800000 else 0
  | _, _ => 0

def sxpTerm (h m : Nat) : Nat :=
  if isNanB (h % 2 ^ 32) then 0 else fmulBits (h / 2 ^ 32) (expDiff (h % 2 ^ 32) m)

def sxpCombine (l r : Nat) : Nat :=
  let m := fmaxBits (l % 2 ^ 32) (r % 2 ^ 32)
  if isNanB m then m + f32.nan * 2 ^ 32
  else if m = negInfB then m
  else m + faddBits (sxpTerm l m) (sxpTerm r m) * 2 ^ 32

def wrap64 (n : Nat) : Nat := n % 2 ^ 64
def signed64 (n : Nat) : Int := (w64 n).toInt

/-- The value of an empty rope. -/
def ropeIdentity : Nat → Nat
  | 2 => 2 ^ 63 | 3 => 2 ^ 63 - 1 | 5 => negInfB | 7 => negInfB | 8 => negInfB | _ => 0

/-- Left and right slot values of a node whose left part has `len` elements. -/
def ropeCombine (op l r len : Nat) : Nat :=
  match op with
  | 1 => wrap64 (l + r)
  | 2 => if signed64 l < signed64 r then r else l
  | 3 => if signed64 r < signed64 l then r else l
  | 4 => Nat.xor l r
  | 5 => fmaxBits (l % 2 ^ 32) (r % 2 ^ 32)
  | 6 => daddBits l r
  | 7 =>
    let rm := r % 2 ^ 32
    if !isNanB rm && fbelow (l % 2 ^ 32) rm then rm + (r / 2 ^ 32 + len) % 2 ^ 32 * 2 ^ 32 else l
  | 8 => sxpCombine l r
  | _ => 0

/-- The fold of a leaf over its element values. -/
def leafFold (op : Nat) (vs : List Nat) : Nat :=
  match vs with
  | [] => ropeIdentity op
  | v :: t =>
    match op with
    | 6 => vs.foldl daddBits 0
    | 8 =>
      let m := t.foldl fmaxBits v
      if isNanB m then m + f32.nan * 2 ^ 32
      else if m = negInfB then m
      else m + (vs.foldl (fun a x => if isNanB x then a else faddBits a (expDiff x m)) 0) * 2 ^ 32
    | 7 =>
      let r := (t.foldl (fun (acc : Nat × Nat) x => (ropeCombine op acc.1 x acc.2, acc.2 + 1)) (v, 1)).1
      if !t.isEmpty && isNanB (r % 2 ^ 32) then f32.nan else r
    | _ => (t.foldl (fun (acc : Nat × Nat) x => (ropeCombine op acc.1 x acc.2, acc.2 + 1)) (v, 1)).1

/-- A field of a slot as its operator takes it. -/
def fieldValue (x : Slot) (v : Nat) : Nat :=
  let f := match x.ty with | 3 => f16 | 4 => b16 | 5 => f32 | _ => f64
  let o : Opd := { v := f.dec v, b := v, s := 53 }
  if x.op ≤ 3 then (extend v (fieldSize x.ty) true).toNat
  else if x.op = 4 then v
  else if x.op = 6 then (if x.ty = 6 then v else (cvtLane f64 .rne o).bits)
  else if x.ty = 5 then v else (cvtLane f32 .rne o).bits

/-! ## What an engine command does, with everything it has to give back if it fails (R292, R293) -/

/-- How an action fails: with a status, or (`miss`) at a page whose walk it has to wait for, and then it runs again. -/
structure RFail where
  status : Nat
  ptr : Word := 0
  word1 : Word := 0
  miss : Option Nat := none
  deriving DecidableEq, Repr

/-- The machine, the number of the next planned node, the nodes taken from the pool, the counts changed, and the nodes reclaimed. -/
structure RopeSt where
  s : State
  num : Nat
  taken : List Word
  counts : List (Word × Int)
  dead : List Word

abbrev RM := ExceptT RFail (StateM RopeSt)

def RM.fail (status : Nat) (p : Word) : RM α := throw { status := status, ptr := p }
def RM.setS (s : State) : RM Unit := modify (fun x => { x with s := s })

def ropeAgent (c : RopeCmd) : Agent :=
  { core := c.core, tenant := c.tenant, level := c.priv, pv := 0, via := .square (serveSquare c.core), ends := c.walks.ends }

/-- The status of a refused access (R293). -/
def ropeStatus (t : TrapInfo) : Nat := match t.cause with | 0x08 => 17 | 0x09 => 18 | 0x0A => 19 | _ => 16

/-- The place of an access; one that misses the square's cache waits for the walk (R221). -/
def ropePlace (c : RopeCmd) (p : Word) (size : Nat) (op : Op) : RM Place := do
  let x ← get
  match engMiss x.s (ropeAgent c) p size op with
  | some page => throw { status := 0, miss := some page }
  | none =>
    RM.setS (engTouch x.s (ropeAgent c) p size op)
    match engResolve x.s (ropeAgent c) p size op with
    | .ok pl => pure pl
    | .error t => RM.fail (ropeStatus t) p

/-- The outcome of an action that leaves nothing behind. -/
def RM.probe (m : RM Unit) : RM Unit := ExceptT.mk (fun x => ((m.run x).1, x))

/-- A node or piece lies in the global window with bit 51 = 0 (R276). -/
def ropeGlobal (c : RopeCmd) (p : Word) (size : Nat) (op : Op) : RM Place :=
  if bits p 63 51 ≠ 0 then RM.fail 16 p else ropePlace c p size op

/-- A Read by the command (R240). -/
def RM.read (c : RopeCmd) (own : BitVec 16) (pl : Place) (n : Nat) : RM Nat := do
  let x ← get
  let v := x.s.cmdRead c.uid c.seq c.id 3 own pl n
  RM.setS v.2
  pure v.1

/-- A Read that is an acquire at device scope, of a handle (R292) or in an Atomic step (R237): the command's frontiers gain what it merges. -/
def RM.acquire (c : RopeCmd) (atom : Bool) (own : BitVec 16) (pl : Place) (n : Nat) : RM Nat := do
  let x ← get
  let last := fun (q : Place) (w : Wr) => !atom || (x.s.wset q).all (fun v => !(v.isAfter w && Parties.device.has v.by_))
  let v := x.s.weakRead (x.s.cmdReader c.uid c.seq c.id 3) own last pl n
  let new := v.2.1.filter (fun e => e.2.n != 0)
  RM.setS (if new.isEmpty then v.2.2
    else v.2.2.joinChan (.cmd c.id) ((x.s.acquired (.ctx c.uid c.core c.tenant 0 0) .device new).join { seen := new.map (fun e => (e.1, e.2.n)) }))
  pure v.1

/-- The command's write, and its write as a release at device scope. -/
def RopeCmd.by (c : RopeCmd) (s : State) : Commit := s.byCmd c.core c.uid c.tenant c.seq c.id 3
def RopeCmd.byRel (c : RopeCmd) (s : State) : Commit := { c.by s with rel := [(.device, (c.by s).r.front)] }

def readWords (c : RopeCmd) (pl : Place) : Nat → RM (List Word)
  | 0 => pure []
  | n + 1 => do
    let v ← RM.read c 0 pl 8
    let t ← readWords c (pl.plus 8) n
    pure (w64 v :: t)

def putWords (k : Commit) (pl : Place) (ws : List Word) (own : BitVec 16) (s : State) : State :=
  (ws.zipIdx).foldl (fun (s : State) ((w, j) : Word × Nat) => s.commit k (pl.plus (8 * j)) 8 w.toNat own) s

/-! ## The node cache (R280, R288) -/

/-- Words 1 to 7 of a node: from the cache or its home, and where the two differ either (R280). A line is found by tenant and node pointer, so another
address of the same node has a line of its own (R288; DESIGN CHOICE, log 69). -/
def cachedWords (s : State) (sq tenant : Nat) (p : Word) (home : List Word) : List Word × State :=
  let hit := fun (e : Nat × Word × List Word) => e.1 == tenant && e.2.1 == p
  let put := fun (ws : List Word) (s : State) => s.modSquare sq (fun q => { q with
    nodes := ((tenant, p, ws) :: q.nodes.filter (fun e => !hit e)).take 1024 })
  match (s.square sq).nodes.find? hit with
  | none => (home, put home s)
  | some (_, _, ws) =>
    if ws = home then (ws, put ws s)
    else
      let (n, s) := s.draw
      (if Config.freeChoice n then ws else home, put ws s)

/-- The node's line leaves every node cache. -/
def dropLine (tenant : Nat) (p : Word) (s : State) : State :=
  { s with squares := s.squares.filterMap (fun ((q, x) : Nat × Square) =>
      let x : Square := { x with nodes := x.nodes.filter (fun e => !(e.1 == tenant && e.2.1 == p)) }
      if x = Square.reset then none else some (q, x)) }

/-- The eight words of a node. -/
def nodeWords (c : RopeCmd) (p : Word) : RM (List Word) := do
  let pl ← ropeGlobal c p 64 .eread
  let ws ← readWords c pl 8
  let x ← get
  let (l, s) := cachedWords x.s (serveSquare c.core) c.tenant p ws.tail
  RM.setS s
  pure (ws.headD 0 :: l)

/-! ## Planned and existing nodes (R279, R280, R283) -/

/-- A node with its length, height and slots: an existing one by its pointer and words 2 and 3, a planned leaf or interior node by
its number in the order of creation. -/
inductive Rope where
  | old (p : Word) (kind : Nat) (h len : Nat) (w2 w3 : Word) (slots : List Nat)
  | leaf (n : Nat) (data : Word) (off len : Nat) (slots : List Nat)
  | node (n : Nat) (l r : Rope) (h len : Nat) (slots : List Nat)

def Rope.h : Rope → Nat | .old _ _ h _ _ _ _ => h | .leaf _ _ _ _ _ => 1 | .node _ _ _ h _ _ => h
def Rope.len : Rope → Nat | .old _ _ _ n _ _ _ => n | .leaf _ _ _ n _ => n | .node _ _ _ _ n _ => n
def Rope.slots : Rope → List Nat | .old _ _ _ _ _ _ s => s | .leaf _ _ _ _ s => s | .node _ _ _ _ _ s => s
/-- Data pointer and offset of a leaf. -/
def Rope.data? : Rope → Option (Word × Nat)
  | .old _ k _ _ w2 w3 _ => if k = 2 then some (w2, bits w3 47 0) else none
  | .leaf _ d o _ _ => some (d, o)
  | .node _ _ _ _ _ _ => none

/-- The length limits of R278 and R283. -/
def lenLimit (cl : RClass) (n : Nat) : RM Unit :=
  if 2 ^ 48 ≤ n ∨ (cl.argmax = true ∧ 2 ^ 32 ≤ n) then RM.fail 5 0 else pure ()

/-- R280 on one node: its kind and its reserved bits. -/
def nodeBad (ws : List Word) : Bool :=
  let w0 := ws.getD 0 0
  let k := bits w0 1 0
  bits w0 63 40 != 0 || bits (ws.getD 1 0) 63 48 != 0 || !(k == 1 || (k == 2 && bits (ws.getD 3 0) 63 48 == 0))

/-- R280 on a node whose children are read: heights as R279 has them. -/
def heightBad (h l r : Nat) : Bool := decide (h < 2) || h != 1 + max l r || decide (l + 1 < r) || decide (r + 1 < l)

/-- An existing node, read and checked. -/
def readNode (c : RopeCmd) (cl : RClass) (p : Word) : RM Rope := do
  let ws ← nodeWords c p
  if nodeBad ws then RM.fail 20 p
  else
    let n := bits (ws.getD 1 0) 47 0
    lenLimit cl n
    pure (.old p (bits (ws.getD 0 0) 1 0) (bits (ws.getD 0 0) 7 2) n (ws.getD 2 0) (ws.getD 3 0) ((ws.drop 4).map (fun w => w.toNat)))

/-- The rope of a root: none for 0. -/
def readRoot (c : RopeCmd) (cl : RClass) (p : Word) : RM (Option Rope) :=
  if p = 0 then pure none else do let x ← readNode c cl p; pure (some x)

/-- The children of an interior node; the heights agree (R279). -/
def kids (c : RopeCmd) (cl : RClass) : Rope → RM (Rope × Rope)
  | .node _ l r _ _ _ => pure (l, r)
  | .leaf _ _ _ _ _ => RM.fail 20 0
  | .old p k h _ w2 w3 _ =>
    if k ≠ 1 then RM.fail 20 p
    else do
      let l ← readNode c cl w2
      let r ← readNode c cl w3
      if heightBad h l.h r.h then RM.fail 20 p else pure (l, r)

/-- Values i to i + n − 1 of a slot's field, from element `off` of a piece. -/
def fieldValues (c : RopeCmd) (cl : RClass) (x : Slot) (data : Word) (off : Nat) : Nat → RM (List Nat)
  | 0 => pure []
  | n + 1 => do
    let p := data + w64 (off * 2 ^ cl.elog + x.idx * fieldSize x.ty)
    let pl ← ropeGlobal c p (fieldSize x.ty) .eread
    let v ← RM.read c 0 pl (fieldSize x.ty)
    let t ← fieldValues c cl x data (off + 1) n
    pure (fieldValue x v :: t)

def slotFold (c : RopeCmd) (cl : RClass) (x : Slot) (data : Word) (off n : Nat) : RM Nat :=
  if x.op = 0 then pure 0 else do let vs ← fieldValues c cl x data off n; pure (leafFold x.op vs)

def nextMk : RM Nat := do
  let x ← get
  set { x with num := x.num + 1 }
  pure x.num

/-- Leaf(data, off, n) of R283. -/
def newLeaf (c : RopeCmd) (cl : RClass) (data : Word) (off n : Nat) : RM Rope := do
  lenLimit cl n
  let slots ← cl.slots.mapM (fun x => slotFold c cl x data off n)
  let k ← nextMk
  pure (.leaf k data off n slots)

/-- New(l, r) of R283. -/
def newNode (cl : RClass) (l r : Rope) : RM Rope := do
  lenLimit cl (l.len + r.len)
  let k ← nextMk
  let slots := (cl.slots.zipIdx).map (fun ((x, j) : Slot × Nat) => ropeCombine x.op (l.slots.getD j 0) (r.slots.getD j 0) l.len)
  pure (.node k l r (1 + max l.h r.h) (l.len + r.len) slots)

def balance (c : RopeCmd) (cl : RClass) (l r : Rope) : RM Rope := do
  if r.h = l.h + 2 then
    let (rl, rr) ← kids c cl r
    if rl.h ≤ rr.h then
      let a ← newNode cl l rl
      newNode cl a rr
    else
      let (cl1, cr1) ← kids c cl rl
      let a ← newNode cl l cl1
      let b ← newNode cl cr1 rr
      newNode cl a b
  else if l.h = r.h + 2 then
    let (ll, lr) ← kids c cl l
    if lr.h ≤ ll.h then
      let b ← newNode cl lr r
      newNode cl ll b
    else
      let (cl1, cr1) ← kids c cl lr
      let a ← newNode cl ll cl1
      let b ← newNode cl cr1 r
      newNode cl a b
  else newNode cl l r

/-- Heights fall along a spine, so the fuel is never used up on nodes that pass R280. -/
def joinRight (c : RopeCmd) (cl : RClass) (a b : Rope) : Nat → RM Rope
  | 0 => RM.fail 20 0
  | f + 1 =>
    if a.h ≤ b.h + 1 then newNode cl a b
    else do
      let (l, r) ← kids c cl a
      let x ← joinRight c cl r b f
      balance c cl l x

def joinLeft (c : RopeCmd) (cl : RClass) (a b : Rope) : Nat → RM Rope
  | 0 => RM.fail 20 0
  | f + 1 =>
    if b.h ≤ a.h + 1 then newNode cl a b
    else do
      let (l, r) ← kids c cl b
      let x ← joinLeft c cl a l f
      balance c cl x r

def ropeFuel : Nat := 130

def join (c : RopeCmd) (cl : RClass) : Option Rope → Option Rope → RM (Option Rope)
  | none, b => pure b
  | a, none => pure a
  | some a, some b => do
    let x ← if b.h + 1 < a.h then joinRight c cl a b ropeFuel
      else if a.h + 1 < b.h then joinLeft c cl a b ropeFuel
      else newNode cl a b
    pure (some x)

def splitNode (c : RopeCmd) (cl : RClass) (n : Rope) (p : Nat) : Nat → RM (Option Rope × Option Rope)
  | 0 => RM.fail 20 0
  | f + 1 =>
    if p = 0 then pure (none, some n)
    else if p = n.len then pure (some n, none)
    else
      match n.data? with
      | some (d, o) => do
        let a ← newLeaf c cl d o p
        let b ← newLeaf c cl d (o + p) (n.len - p)
        pure (some a, some b)
      | none => do
        let (l, r) ← kids c cl n
        if p ≤ l.len then
          let (a, b) ← splitNode c cl l p f
          let j ← join c cl b (some r)
          pure (a, j)
        else
          let (a, b) ← splitNode c cl r (p - l.len) f
          let j ← join c cl (some l) a
          pure (j, b)

def split (c : RopeCmd) (cl : RClass) (n : Option Rope) (p : Nat) : RM (Option Rope × Option Rope) :=
  match n with
  | none => pure (none, none)
  | some x => splitNode c cl x p ropeFuel

def ropeLen (x : Option Rope) : Nat := match x with | some r => r.len | none => 0
/-- A result above height 63 (R283). -/
def heightLimit (x : Option Rope) : RM Unit := match x with | some r => if 63 < r.h then RM.fail 5 0 else pure () | none => pure ()

/-! ## Counts (R285 to R287) -/

def countOf0 (w : Word) : Nat := bits w 39 8

/-- Word 0 of a node, by a device-scope `cas`. -/
def nodeWord0 (c : RopeCmd) (p : Word) : RM (Place × Word) := do
  let pl ← ropeGlobal c p 64 .atom
  let v ← RM.acquire c true 0 pl 8
  let w := w64 v
  if bits w 1 0 = 0 ∨ bits w 1 0 = 3 ∨ bits w 63 40 ≠ 0 then RM.fail 20 p else pure (pl, w)

def setCount (c : RopeCmd) (p : Word) (pl : Place) (w : Word) (n : Nat) : RM Unit :=
  modify (fun x => { x with
    s := x.s.commit (c.byRel x.s) pl 8 (setBits w 39 8 n).toNat 0, counts := x.counts ++ [(p, (n : Int) - countOf0 w)] })

def raiseCount (c : RopeCmd) (p : Word) (n : Nat) : RM Unit := do
  let (pl, w) ← nodeWord0 c p
  if countOf0 w = 0 then RM.fail 1 p
  else if 2 ^ 32 ≤ countOf0 w + n then RM.fail 5 p
  else setCount c p pl w (countOf0 w + n)

/-- A count falls; a node whose count reaches 0 is reclaimed, depth first and left before right. -/
def lowerCount (c : RopeCmd) (p : Word) (n : Nat) : Nat → RM Unit
  | 0 => RM.fail 20 p
  | f + 1 => do
    let (pl, w) ← nodeWord0 c p
    if countOf0 w < n then RM.fail 5 p
    else
      setCount c p pl w (countOf0 w - n)
      if countOf0 w = n then
        modify (fun x => { x with dead := x.dead ++ [p] })
        if bits w 1 0 = 1 then
          let ws ← nodeWords c p
          if nodeBad ws then RM.fail 20 p
          else
            let (_, l) ← nodeWord0 c (ws.getD 2 0)
            let (_, r) ← nodeWord0 c (ws.getD 3 0)
            if heightBad (bits w 7 2) (bits l 7 2) (bits r 7 2) then RM.fail 20 p
            else
              lowerCount c (ws.getD 2 0) 1 f
              lowerCount c (ws.getD 3 0) 1 f
        else pure ()
      else pure ()

/-! ## The node pool (R282) -/

def poolHead (w : Word) : Word := w64 (bits w 51 6 * 64)

/-- A node is popped from the free list, or taken from the bump range. -/
def takeNode (c : RopeCmd) : RM Word := do
  let pl ← ropeGlobal c c.pool 32 .atom
  let v ← RM.acquire c true 0 pl 8
  let w0 := w64 v
  let h := poolHead w0
  let node ← if h ≠ 0 then do
      let np ← ropeGlobal c h 64 .atom
      let link ← RM.read c 0 (np.plus 16) 8
      let link := poolHead (w64 link)
      modify (fun y => { y with s := y.s.commit (c.byRel y.s) pl 8 (link.toNat + (bits w0 63 52 + 1) % 4096 * 2 ^ 52) 0 })
      pure h
    else do
      let nxt ← RM.acquire c true 0 (pl.plus 8) 8
      let top ← RM.read c 0 (pl.plus 16) 8
      if top < nxt + 64 then RM.fail 3 c.pool
      else
        let _ ← ropeGlobal c (w64 nxt) 64 .atom
        modify (fun y => { y with s := y.s.commit (c.byRel y.s) (pl.plus 8) 8 (nxt + 64) 0 })
        pure (w64 nxt)
  modify (fun x => { x with taken := x.taken ++ [node] })
  pure node

/-- A node goes back to its pool: kind 0, the link in word 2, then the head by a device-scope `cas` (R282, R297); its line is in no node cache. -/
def pushNode (c : RopeCmd) (node : Word) : RM Unit := do
  let pl ← ropeGlobal c c.pool 32 .atom
  let np ← ropeGlobal c node 64 .atom
  let v ← RM.acquire c true 0 pl 8
  modify (fun x => { x with s :=
    let s := (x.s.commit (c.by x.s) np 8 0 0).commit (c.by x.s) (np.plus 16) 8 (poolHead (w64 v)).toNat 0
    (dropLine c.tenant node s).commit (c.byRel s) pl 8 (setBits (w64 v) 51 6 (bits node 51 6)).toNat 0 })

def runRM (m : RM α) (s : State) : Except RFail α × RopeSt := m.run { s := s, num := 0, taken := [], counts := [], dead := [] }

/-- What the failed command changed is given back (R292, R293): the counts, then every node taken, in an order left open (DESIGN CHOICE, log 5). -/
def giveBack (c : RopeCmd) (x : RopeSt) : State :=
  let a := ropeAgent c
  let s := x.counts.foldl (fun s ((p, d) : Word × Int) =>
    match engResolve s a p 64 .atom with
    | .ok pl =>
      let w := w64 (s.readAt pl 8 0)
      (engTouch s a p 64 .atom).commit (c.byRel s) pl 8 (setBits w 39 8 ((countOf0 w : Int) - d).toNat).toNat 0
    | .error _ => s) x.s
  pushAll s x.taken x.taken.length
where
  pushAll (s : State) (l : List Word) : Nat → State
    | 0 => s
    | f + 1 =>
      match l with
      | [] => s
      | _ =>
        let (n, s) := s.draw
        let j := Config.freePick n % l.length
        pushAll (runRM (pushNode c (l.getD j 0)) s).2.s (l.eraseIdx j) f

end Sys2Proof.Machine
end

