-- ==== Sys2Proof/Machine/RopeCmds.lean ====
section
/-! DEFINITION. The rope commands (R276, R284, R285, R289 to R295, R424 to R427) and limbo (R287): issue, Start with the handle
reads, and the effect with publication at Complete. -/

namespace Sys2Proof.Machine

/-! ## Issue (R289) -/

/-- The issue of a rope command. The range scoreboard stands before its read of the argument block as before a load of the context (R224; DESIGN CHOICE,
log 70). -/
def ropeBody (cmd : Nat) (a b : RegF) : M Unit := do
  let pa ← readVal a
  let pb ← readVal b
  let e ← M.env
  let x ← M.me
  let s ← M.state
  match matOff s e.core x pa 32, matOff s e.core x pb 16 with
  | .error t, _ => M.stop (.trap t)
  | .ok _, .error t => M.stop (.trap t)
  | .ok oa, .ok ob =>
    if pa.toNat % 32 ≠ 0 then M.trap 0x04 pa 0
    else if pb.toNat % 16 ≠ 0 then M.trap 0x04 pb 0
    else
      let l : Loc := { place := .ls e.core oa, ptr := pa, win := .loc, size := 32 }
      boardCheck l false
      let args ← readWordsAt l 4
      raiseCnt .Q
      let x ← M.me
      let (id, s1) := s.fresh
      M.modify (fun s => { s with nextId := s1.nextId })
      let q : RopeCmd :=
        { id := id, core := e.core, slot := e.slot, uid := x.uid, tenant := x.tenant, priv := x.level, cmd := cmd, args := args,
          argPtr := pa, res := ob, pool := x.er 3 0, list := x.er 3 1, cap := x.er 3 2, seq := x.seq, started := false,
          rootA := 0, classA := 0, rootB := 0, fail := none, fin := none }
      M.modify (enqueueFront x.uid id)
      M.modify (fun s => s.modSquare (serveSquare e.core) (fun y => { y with ropeQ := y.ropeQ ++ [q] }))

def execRcat (a b : RegF) (s : State) : Host.Outcome State Fault Refusal := run (.rcat a b) (ropeBody 0 a b) s
def execRsplit (a b : RegF) (s : State) : Host.Outcome State Fault Refusal := run (.rsplit a b) (ropeBody 1 a b) s
def execRsplice (a b : RegF) (s : State) : Host.Outcome State Fault Refusal := run (.rsplice a b) (ropeBody 2 a b) s
def execRfind (a b : RegF) (s : State) : Host.Outcome State Fault Refusal := run (.rfind a b) (ropeBody 3 a b) s
def execRfold (a b : RegF) (s : State) : Host.Outcome State Fault Refusal := run (.rfold a b) (ropeBody 4 a b) s
def execRpin (a b : RegF) (s : State) : Host.Outcome State Fault Refusal := run (.rpin a b) (ropeBody 5 a b) s
def execRref (a b : RegF) (s : State) : Host.Outcome State Fault Refusal := run (.rref a b) (ropeBody 6 a b) s
def execRdrop (a b : RegF) (s : State) : Host.Outcome State Fault Refusal := run (.rdrop a b) (ropeBody 7 a b) s

/-! ## Arguments and handles (R276, R290, R292, R293) -/

def RopeCmd.arg (c : RopeCmd) (n : Nat) : Word := c.args.getD n 0

/-- The bits that may be 1 in words 1 to 3 of the argument block. -/
def argMask (cmd n : Nat) : Word :=
  let m (k : Nat) : Word := w64 (2 ^ k - 1)
  match cmd, n with
  | 0, 1 => m 64 | 0, 2 => m 49
  | 1, 1 => m 49 | 1, 2 => m 64
  | 2, 1 => m 48 | 2, 2 => m 49 | 2, 3 => m 64
  | 3, 1 => m 48
  | 4, 1 => m 48 | 4, 2 => setBits (m 52) 48 48 0 | 4, 3 => m 64
  | 6, 1 => m 32 | 7, 1 => m 32
  | _, _ => 0

def RopeCmd.badArgs (c : RopeCmd) : Bool :=
  [1, 2, 3].any (fun n => c.arg n &&& ~~~(argMask c.cmd n) != 0) || (decide (6 ≤ c.cmd) && c.arg 1 == 0)

def RopeCmd.pub (c : RopeCmd) : Bool := (c.arg (if c.cmd = 1 then 1 else 2)).getLsbD 48
/-- The generation under which the command writes local store outside every region: its issuer's. -/
def RopeCmd.own (c : RopeCmd) (s : State) : BitVec 16 := (s.ctx c.core c.slot).gen

/-- A handle in the local, remote or global window. -/
def handlePlace (c : RopeCmd) (p : Word) (op : Op) : RM Place := do
  let x ← get
  if p = 0 then RM.fail 16 0
  else
    match checkPtr x.s c.core 0 p 16 with
    | .error t => RM.fail (ropeStatus t) p
    | .ok (w, _) => if w = .loc ∨ w = .rem ∨ w = .glob then ropePlace c p 16 op else RM.fail 16 p

/-- Root and class word of a handle, read as an acquire (R292). -/
def readHandle (c : RopeCmd) (p : Word) : RM (Word × Word) := do
  let pl ← handlePlace c p .eread
  let x ← get
  if x.s.staleTrap pl (c.own x.s) then RM.fail 19 p
  else do
    let r ← RM.acquire c false (c.own x.s) pl 8
    let k ← RM.acquire c false (c.own x.s) (pl.plus 8) 8
    pure (w64 r, w64 k)

/-- The second handle a command names: B of `rcat`, C of `rsplice`. -/
def RopeCmd.second (c : RopeCmd) : Option Word :=
  match c.cmd with
  | 0 => if bits (c.arg 2) 47 0 = 0 then some (c.arg 1) else none
  | 2 => if c.arg 3 = 0 then none else some (c.arg 3)
  | _ => none

def startReads (c : RopeCmd) : RM RopeCmd := do
  if c.badArgs then RM.fail 4 0
  else if 6 ≤ c.cmd then pure c
  else
    let (ra, ca) ← readHandle c (c.arg 0)
    if (parseClass ca).isNone then RM.fail 4 0
    else
      let c1 : RopeCmd := { c with rootA := ra, classA := ca }
      match c.second with
      | none => pure c1
      | some p =>
        let (rb, cb) ← readHandle c p
        if cb ≠ ca then RM.fail 4 0 else pure { c1 with rootB := rb }

/-! ## Start (R239, R240, R295) -/

/-- The command waits for the walk of a page; then it runs the same step again (R221). -/
def ropeMiss (c : RopeCmd) (page : Nat) : RopeCmd := { c with walks := { c.walks with page := some page } }

def setRope (s : State) (sq : Nat) (c : RopeCmd) : State :=
  s.modSquare sq (fun y => { y with ropeQ := y.ropeQ.map (fun r => if r.id == c.id then c else r) })

/-- The first command that has not Started may: fewer than four are in progress, none of its context, and its context's earlier
stores are done. -/
def ropeReady (s : State) (q : Square) : Option RopeCmd :=
  let act := q.ropeQ.filter (fun r => r.started)
  match q.ropeQ.find? (fun r => !r.started) with
  | none => none
  | some c => if c.walks.page.isNone ∧ act.length < 4 ∧ act.all (fun r => r.uid != c.uid) = true ∧ storesDone (s.core c.core) c.uid c.seq = true then some c else none

def execRopeCommandStart (sq : Nat) (s : State) : Host.Outcome State Fault Refusal :=
  match ropeReady s (s.square sq) with
  | none => .next s
  | some c =>
    match runRM (startReads c) s with
    | (.ok c1, st) => .next (setRope st.s sq { c1 with started := true, walks := {} })
    | (.error f, st) =>
      match f.miss with
      | some page => .next (askWalk (setRope s sq (ropeMiss c page)) (ropeAgent c) (.rope sq c.id) page)
      | none => .next (setRope st.s sq { c with started := true, fail := some (f.status, f.ptr), walks := {} })

/-! ## Kept nodes (R283, R285, R292) -/

/-- The planned nodes of a result with their numbers. -/
def planned : Rope → List (Nat × Rope)
  | .old _ _ _ _ _ _ _ => []
  | .leaf n d o l s => [(n, .leaf n d o l s)]
  | .node n l r h k s => planned l ++ planned r ++ [(n, .node n l r h k s)]

def insertNum (e : Nat × Rope) : List (Nat × Rope) → List (Nat × Rope)
  | [] => [e]
  | f :: t => if e.1 < f.1 then e :: f :: t else f :: insertNum e t

/-- The pointer of a rope, given those of the planned nodes written so far. -/
def ropeAddr (m : List (Nat × Word)) : Rope → Word
  | .old p _ _ _ _ _ _ => p
  | .leaf n _ _ _ _ => (m.find? (fun e => e.1 == n)).elim 0 (fun e => e.2)
  | .node n _ _ _ _ _ => (m.find? (fun e => e.1 == n)).elim 0 (fun e => e.2)

def rootAddr (m : List (Nat × Word)) (x : Option Rope) : Word := match x with | some r => ropeAddr m r | none => 0

def raiseOld (c : RopeCmd) : Rope → RM Unit
  | .old p _ _ _ _ _ _ => raiseCount c p 1
  | _ => pure ()

/-- One kept node, written with count 1. -/
def writeNode (c : RopeCmd) (m : List (Nat × Word)) (x : Rope) : RM Word := do
  let p ← takeNode c
  let pl ← ropeGlobal c p 64 .atom
  let word0 (kind : Nat) : Word := w64 (kind + 4 * x.h + 256)
  let ws : List Word := match x with
    | .leaf _ d o l _ => [word0 2, w64 l, d, w64 o]
    | .node _ l r _ k _ => [word0 1, w64 k, ropeAddr m l, ropeAddr m r]
    | .old _ _ _ _ _ _ _ => []
  modify (fun st => { st with s := dropLine c.tenant p (putWords (c.by st.s) pl (ws ++ x.slots.map w64) 0 st.s) })
  match x with
  | .node _ l r _ _ _ => do raiseOld c l; raiseOld c r
  | _ => pure ()
  pure p

def writeAll (c : RopeCmd) (m : List (Nat × Word)) : List (Nat × Rope) → RM (List (Nat × Word))
  | [] => pure m
  | (n, x) :: t => do
    let p ← writeNode c m x
    writeAll c ((n, p) :: m) t

/-- The results are built: every kept node written and every count raised, an existing root for its new holder too. -/
def buildRopes (c : RopeCmd) (l : List (Option Rope)) : RM (List (Nat × Word)) := do
  let ps := l.flatMap (fun x => match x with | some r => planned r | none => [])
  let m ← writeAll c [] (ps.foldl (fun t e => insertNum e t) [])
  for x in l do
    match x with
    | some r => raiseOld c r
    | none => pure ()
  pure m

/-- The publication `cas` of R292; the old root falls. Whatever could fail in that is found before the handle changes (R293). -/
def publishRoot (c : RopeCmd) (root : Word) : RM Unit := do
  let pl ← handlePlace c (c.arg 0) .atom
  let x ← get
  let own := c.own x.s
  if x.s.staleTrap pl own then RM.fail 19 (c.arg 0)
  else do
    let v ← RM.acquire c true own pl 8
    let cur := w64 v
    let fall := if c.rootA = 0 then pure () else lowerCount c c.rootA 1 ropeFuel
    if cur ≠ c.rootA then throw { status := 1, word1 := cur }
    else
      RM.probe fall
      modify (fun y => { y with s := y.s.commit (c.byRel y.s) pl 8 root.toNat own })
      fall

/-- An edit whose result goes into handle A, or is handed out. -/
def ropeEdit (c : RopeCmd) (cl : RClass) (x : Option Rope) : RM (Nat × Word) := do
  let _ ← heightLimit x
  let _ ← lenLimit cl (ropeLen x)
  let m ← buildRopes c [x]
  let root := rootAddr m x
  if c.pub then publishRoot c root else pure ()
  pure (0, root)

/-! ## The commands (R290, R291, R425, R426) -/

def rcatEffect (c : RopeCmd) (cl : RClass) : RM (Nat × Word) := do
  let a ← readRoot c cl c.rootA
  let n := bits (c.arg 2) 47 0
  let b ← if n = 0 then readRoot c cl c.rootB
    else if bits (c.arg 1) 63 51 ≠ 0 ∨ (c.arg 1).toNat % 2 ^ min cl.elog 6 ≠ 0 then RM.fail 16 (c.arg 1)
    else do let x ← newLeaf c cl (c.arg 1) 0 n; pure (some x)
  let x ← join c cl a b
  ropeEdit c cl x

def rsplitEffect (c : RopeCmd) (cl : RClass) : RM (Nat × Word) := do
  let a ← readRoot c cl c.rootA
  let p := bits (c.arg 1) 47 0
  if ropeLen a < p then RM.fail 2 0
  else
    let dst ← if c.arg 2 = 0 then pure none else do let pl ← handlePlace c (c.arg 2) .ewrite; pure (some pl)
    let (l, r) ← split c cl a p
    let _ ← heightLimit l
    let _ ← heightLimit r
    let m ← buildRopes c (if dst.isSome then [l, r] else [l])
    if c.pub then publishRoot c (rootAddr m l) else pure ()
    match dst with
    | some pl => modify (fun st => { st with s := st.s.commit (c.byRel st.s) pl 16 ((rootAddr m r).toNat + c.classA.toNat * 2 ^ 64) (c.own st.s) })
    | none => pure ()
    pure (0, rootAddr m l)

def rspliceEffect (c : RopeCmd) (cl : RClass) : RM (Nat × Word) := do
  let a ← readRoot c cl c.rootA
  let i := bits (c.arg 1) 47 0
  let n := bits (c.arg 2) 47 0
  if ropeLen a < i + n then RM.fail 2 0
  else
    let x ← readRoot c cl c.rootB
    let (l, m) ← split c cl a i
    let (_, r) ← split c cl m n
    let j ← join c cl l x
    let y ← join c cl j r
    ropeEdit c cl y

/-- The leaf at a position: its node, and the position of its first element. -/
def findLeaf (c : RopeCmd) (cl : RClass) (x : Rope) (start pos : Nat) : Nat → RM (Rope × Nat)
  | 0 => RM.fail 20 0
  | f + 1 =>
    match x.data? with
    | some _ => pure (x, start)
    | none => do
      let (l, r) ← kids c cl x
      if pos < start + l.len then findLeaf c cl l start pos f else findLeaf c cl r (start + l.len) pos f

/-- Element n of a leaf's data. -/
def elemAddr (cl : RClass) (x : Rope) (n : Nat) : Word :=
  match x.data? with
  | some (d, o) => d + w64 ((o + n) * 2 ^ cl.elog)
  | none => 0

def rfindEffect (c : RopeCmd) (cl : RClass) : RM (Nat × Word) := do
  let a ← readRoot c cl c.rootA
  let pos := bits (c.arg 1) 47 0
  match a with
  | none => RM.fail 2 0
  | some x =>
    if x.len ≤ pos then RM.fail 2 0
    else
      let (y, start) ← findLeaf c cl x 0 pos ropeFuel
      pure (start, elemAddr cl y (pos - start))

/-- A piece-list entry: position, address, count, contribution. -/
abbrev Piece := List Word

structure FoldArgs where
  k : Nat
  op : Nat
  s : Nat
  n : Nat
  skip : Bool
  thr : Word

def belowThr (a : FoldArgs) (v : Nat) : Bool :=
  a.skip && (if a.op = 2 then decide (signed64 v < a.thr.toInt) else fbelow (v % 2 ^ 32) (bits a.thr 31 0))

/-- Two values with the positions that their indexes count from. -/
def combineAt (op : Nat) (l r : Option (Nat × Nat)) : Option (Nat × Nat) :=
  match l, r with
  | none, r => r
  | l, none => l
  | some (u, p), some (v, q) => some (ropeCombine op u v (q - p), p)

/-- Visit of R426: the value with its first position, and the leaves that contributed. -/
def visit (c : RopeCmd) (cl : RClass) (a : FoldArgs) (x : Rope) (start : Nat) : Nat → RM (Option (Nat × Nat) × List Piece)
  | 0 => RM.fail 20 0
  | f + 1 =>
    let lo := max a.s start
    let hi := min (a.s + a.n) (start + x.len)
    if hi ≤ lo then pure (none, [])
    else do
      let b ← match x.data? with
        | some (d, o) =>
          if hi - lo < x.len then slotFold c cl (cl.slots.getD a.k { op := 0, ty := 0, idx := 0 }) d (o + (lo - start)) (hi - lo)
          else pure (x.slots.getD a.k 0)
        | none => pure (x.slots.getD a.k 0)
      if belowThr a b then pure (none, [])
      else if x.data?.isSome then
        pure (some (b, lo), [[w64 lo, elemAddr cl x (lo - start), w64 (hi - lo), w64 b]])
      else
        let (l, r) ← kids c cl x
        let (u, p) ← visit c cl a l start f
        let (v, q) ← visit c cl a r (start + l.len) f
        pure (combineAt a.op u v, p ++ q)

def writePieces (c : RopeCmd) : Nat → List Piece → RM Unit
  | _, [] => pure ()
  | o, p :: t => do
    if lsSize c.core < o + 32 then RM.fail 16 (localPtr c.core o)
    else
      let pl ← ropePlace c (localPtr c.core o) 32 .ewrite
      modify (fun st => { st with s := putWords (c.by st.s) pl p (c.own st.s) st.s })
      writePieces c (o + 32) t

def rfoldEffect (c : RopeCmd) (cl : RClass) : RM (Nat × Word) := do
  let a ← readRoot c cl c.rootA
  let k := bits (c.arg 2) 50 49
  let f : FoldArgs :=
    { k := k, op := (cl.slots.getD k { op := 0, ty := 0, idx := 0 }).op, s := bits (c.arg 1) 47 0, n := bits (c.arg 2) 47 0,
      skip := (c.arg 2).getLsbD 51, thr := c.arg 3 }
  if ropeLen a < f.s + f.n then RM.fail 2 0
  else if f.skip && !(f.op == 2 || f.op == 5 || f.op == 7 || f.op == 8) then RM.fail 4 0
  else
    let (v, ps) ← match a with
      | none => pure (none, [])
      | some x => visit c cl f x 0 ropeFuel
    writePieces c (bits c.list 19 5 * 32) (ps.take (bits c.cap 31 0))
    let w := match v with
      | none => ropeIdentity f.op
      | some (u, p) => if f.op = 7 then u % 2 ^ 32 + (u / 2 ^ 32 + (p - f.s)) % 2 ^ 32 * 2 ^ 32 else u
    pure (min ps.length (2 ^ 48 - 1), w64 w)

/-- The mapped page of a byte: whether it is a 32 MiB page, and its number. -/
def ropePage (c : RopeCmd) (p : Word) : RM (Bool × Nat) := do
  let _ ← ropeGlobal c p 1 .eread
  let x ← get
  match engLeaf x.s (ropeAgent c) (bits p 50 0) with
  | .ok (big, _) => pure (big, if big then bits p 50 25 else bits p 50 16)
  | .error _ => RM.fail 17 p

def addPage (l : List (Bool × Nat)) (p : Bool × Nat) : List (Bool × Nat) := if l.contains p then l else p :: l

/-- The pages of the bytes from p up to hi. -/
def dataPages (c : RopeCmd) (hi : Nat) : Nat → Nat → List (Bool × Nat) → RM (List (Bool × Nat))
  | 0, _, l => pure l
  | f + 1, p, l =>
    if hi ≤ p then pure l
    else do
      let g ← ropePage c (w64 p)
      let step := if g.1 then 2 ^ 25 else 65536
      dataPages c hi f ((p / step + 1) * step) (addPage l g)

def pinNode (c : RopeCmd) (cl : RClass) (x : Rope) (l : List (Bool × Nat)) : Nat → RM (List (Bool × Nat))
  | 0 => RM.fail 20 0
  | f + 1 => do
    let g ← match x with
      | .old p _ _ _ _ _ _ => do let g ← ropePage c p; pure (addPage l g)
      | _ => pure l
    match x.data? with
    | some (d, o) =>
      let lo := d.toNat + o * 2 ^ cl.elog
      let n := x.len * 2 ^ cl.elog
      dataPages c (lo + n) (n / 65536 + 2) lo g
    | none =>
      let (a, b) ← kids c cl x
      let g1 ← pinNode c cl a g f
      pinNode c cl b g1 f

def rpinEffect (c : RopeCmd) (cl : RClass) : RM (Nat × Word) := do
  if c.rootA = 0 then pure (0, 0)
  else
    raiseCount c c.rootA 1
    let x ← readNode c cl c.rootA
    let l ← pinNode c cl x [] ropeFuel
    pure (l.length, c.rootA)

def ropeEffect (c : RopeCmd) : RM (Nat × Word) :=
  match c.fail with
  | some (st, p) => RM.fail st p
  | none =>
    match c.cmd with
    | 6 => do raiseCount c (c.arg 0) (bits (c.arg 1) 31 0); pure (0, c.arg 0)
    | 7 => do lowerCount c (c.arg 0) (bits (c.arg 1) 31 0) ropeFuel; pure (0, 0)
    | n =>
      match parseClass c.classA with
      | none => RM.fail 4 0
      | some cl =>
        match n with
        | 0 => rcatEffect c cl
        | 1 => rsplitEffect c cl
        | 2 => rspliceEffect c cl
        | 3 => rfindEffect c cl
        | 4 => rfoldEffect c cl
        | _ => rpinEffect c cl

/-! ## Complete (R287, R293, R294, R424) -/

/-- The rope commands of the device that have Started and not Completed. -/
def ropesInProgress (s : State) : List Nat := s.squares.flatMap (fun ((_, q) : Nat × Square) => (q.ropeQ.filter (fun r => r.started)).map (fun r => r.id))

/-- The effect, with everything given back when the command fails; or the page whose walk it has to wait for. -/
def ropeRun (c : RopeCmd) (s : State) : Except Nat (State × RopeFin) :=
  match runRM (ropeEffect c) s with
  | (.ok (v, w), st) =>
    .ok (st.s, { status := 0, value := v, word1 := w, ptr := 0, left := st.dead, waits := ropesInProgress st.s })
  | (.error f, st) =>
    match f.miss with
    | some page => .error page
    | none => .ok (giveBack c st, { status := f.status, value := 0, word1 := f.word1, ptr := f.ptr, left := [], waits := [] })

/-- The commands that wait behind this one in the square's queue read what it has written (R240). -/
def ropePass (sq : Nat) (c : RopeCmd) (s : State) : State :=
  ((s.square sq).ropeQ.filter (fun r => !r.started)).foldl
    (fun s r => s.joinChan (.cmd r.id) (({} : Front).mark (.queue c.uid 3) s.ord.commits)) s

/-- The result record, the failure record, and the counter. -/
def ropeFinish (s : State) (sq : Nat) (c : RopeCmd) (f : RopeFin) : State :=
  let own := c.own s
  let s := ropePass sq c <| completeFront c.uid c.id 3 {} (putWords (c.by s) (.ls c.core c.res) [w64 (f.status + f.value % 2 ^ 48 * 256), f.word1] own s)
  let s := s.modSquare sq (fun y => { y with ropeQ := y.ropeQ.filter (fun r => r.id != c.id) })
  let s := lowerCnt s c.core c.slot .Q
  if f.status < 16 then s
  else
    (s.modCtx c.core c.slot (fun x =>
      { (((x.setEr 3 8 (w64 (f.status + c.cmd * 256 + 2 ^ 15))).setEr 3 9 c.argPtr).setEr 3 10 f.ptr) with
        recQ := x.state != .draining })).bump c.core 15

/-- Reclaimed nodes enter limbo while it has room; the command Completes once all have. -/
def ropeSettle (s : State) (sq : Nat) (c : RopeCmd) (f : RopeFin) : State :=
  let room := 256 - (s.square sq).limbo.length
  let s := (f.left.take room).foldl (enterLimbo sq c f) s
  match f.left.drop room with
  | [] => ropeFinish s sq c f
  | l => setRope s sq { c with fin := some { f with left := l } }
where
  enterLimbo (sq : Nat) (c : RopeCmd) (f : RopeFin) (s : State) (p : Word) : State :=
    let (id, s1) := s.fresh
    s1.modSquare sq (fun y => { y with limbo := y.limbo ++ [{ node := p, cmd := { c with id := id, walks := {}, fin := none }, waits := f.waits }] })

def execRopeCommandComplete (sq idx : Nat) (s : State) : Host.Outcome State Fault Refusal :=
  match (s.square sq).ropeQ[idx]? with
  | none => .next s
  | some c =>
    if !c.started || c.walks.page.isSome then .next s
    else
      match c.fin with
      | some f => .next (ropeSettle s sq c f)
      | none =>
        match ropeRun c s with
        | .ok (s1, f) => .next (ropeSettle s1 sq c f)
        | .error page => .next (askWalk (setRope s sq (ropeMiss c page)) (ropeAgent c) (.rope sq c.id) page)

/-- A node leaves limbo once every command that had Started before has Completed: no cache holds its line, and its pool gets it. The engine's
writes stand after those of all commands before (DEDUCED, log 58). Where the pool or the node cannot be reached, the node stays in limbo (DESIGN
CHOICE, log 58). -/
def execLimboRelease (sq idx : Nat) (s : State) : Host.Outcome State Fault Refusal :=
  match (s.square sq).limbo[idx]? with
  | none => .next s
  | some l =>
    if (ropesInProgress s).any (fun id => l.waits.contains id) || l.cmd.walks.page.isSome then .next s
    else
      match runRM (pushNode l.cmd l.node) (s.joinChan (.cmd l.cmd.id) (({} : Front).mark .device s.ord.commits)) with
      | (.ok _, st) => .next (st.s.modSquare sq (fun y => { y with limbo := y.limbo.eraseIdx idx }))
      | (.error f, _) =>
        match f.miss with
        | some page => .next (askWalk (s.modSquare sq (fun y => { y with limbo := y.limbo.modify idx (fun l => { l with cmd := ropeMiss l.cmd page }) }))
            (ropeAgent l.cmd) (.rope sq l.cmd.id) page)
        | none => .next s

end Sys2Proof.Machine
end

