-- ==== Sys2Proof/Machine/Sample.lean ====
section
/-! DEFINITION. Sampling (R298 to R306, R436, R437): the noise, `smp`, the collector of the owner's core, `smpw`. -/

namespace Sys2Proof.Machine

/-! ## The injected value (R300) -/

def mix (z : Word) : Word :=
  let z := (z ^^^ (z >>> 30)) * 0xD6E8FEB86659FD93
  let z := (z ^^^ (z >>> 27)) * 0xA0F12C3B7E945D27
  z ^^^ (z >>> 31)

def noiseHash (seed : Word) (sq step : BitVec 32) (index : BitVec 24) : Word :=
  mix (mix (seed ^^^ mix (sq.append step)) ^^^ index.setWidth 64)

/-- −ln(−ln u) for u = (2k + 1) × 2^−25. -/
def gumbelB (k n : Nat) : Bounds :=
  let l := lnB (2 ^ 25) (2 * k + 1) 0 n
  let lo := lnB (max 1 l.1.toNat) (2 ^ n) 0 n
  let hi := lnB (max 1 l.2.toNat) (2 ^ n) 0 n
  (-hi.2, -lo.1)

/-- g of R300, in FP32. -/
def gumbel (h : Word) : Nat := (ziv f32 .rne (gumbelB (bits h 63 40))).bits

def sampleValue (seed : Word) (sq step temp : BitVec 32) (logit : BitVec 32) (index : BitVec 24) : Inject :=
  let x := logit.toNat
  let g := gumbel (noiseHash seed sq step index)
  match f32.dec x with
  | .nan _ => { cls := false, value := 0x7FC00000, index := index }
  | _ =>
    let v := match f32.dec temp.toNat with
      | .inf _ => g
      | .fin _ m _ =>
        if m < 2 ^ 23 then x
        else (addLane f32 .rne false (fopd (divLane f32 .rne (fopd x 24) (fopd temp.toNat 24)).bits 24) (fopd g 24)).bits
      | .nan _ => x
    { cls := true, value := BitVec.ofNat 32 v, index := index }

/-- The order of R301: a ranks above b. -/
def Inject.above (a b : Inject) : Bool :=
  if a.cls != b.cls then a.cls
  else if a.cls && fltLt true (f32.dec b.value.toNat) (f32.dec a.value.toNat) then true
  else if a.cls && fltLt true (f32.dec a.value.toNat) (f32.dec b.value.toNat) then false
  else decide (a.index.toNat < b.index.toNat)

def betterOf (a : Option Inject) (b : Inject) : Option Inject :=
  match a with
  | none => some b
  | some x => if b.above x then some b else some x

/-! ## `smp` (R299, R436) -/

structure TreeReg where
  core : Nat
  slot : Nat
  tree : Nat
  peer : Bool
  pslot : Nat
  deriving DecidableEq, Repr

def treeOf (w : Word) : TreeReg :=
  { core := bits w 13 0, slot := bits w 19 14, tree := bits w 22 20, peer := w.getLsbD 23, pslot := bits w 27 24 }

/-- The code of the lowest condition of R299, or 0. -/
def smpCode (s : State) (tenant : Nat) (t : TreeReg) (temp : BitVec 32) (xb : Word) : Nat :=
  let tv := f32.dec temp.toNat
  if temp.getLsbD 31 && temp != 0x80000000 && !tv.isNan then 1
  else if tv.isNan then 2
  else if bits xb 63 24 ≠ 0 ∨ bits xb 23 0 = 0xFFFFFF then 3
  else if !isArray t.core || (!t.peer && !s.inPart tenant t.core) || (t.peer && decide (12 ≤ t.pslot)) then 4
  else 0

def execSmp (a b : RegF) (s : State) : Host.Outcome State Fault Refusal :=
  run (.smp a b) (do
    let xa ← readVal a
    let xb ← readVal b
    let e ← M.env
    let x ← M.me
    let s ← M.state
    let t := treeOf (x.er 4 0)
    let temp : BitVec 32 := (x.er 4 4).setWidth 32
    match smpCode s x.tenant t temp xb with
    | 0 =>
      raiseCnt .Q
      let step : BitVec 32 := (x.er 4 3).setWidth 32
      let inj := sampleValue (x.er 4 1) ((x.er 4 2).setWidth 32) step temp (xa.setWidth 32) (xb.setWidth 24)
      let id := s.nextId
      let m : SmpMsg :=
        { core := t.core, slot := t.slot, tree := t.tree, step := step, tenant := x.tenant,
          peer := (if t.peer then some t.pslot else none), inj := inj, count := 1, from_ := some (e.core, e.slot, x.uid), id := id, seq := x.seq }
      M.modify (fun s => { s with nextId := id + 1, smps := s.smps ++ [m] })
    | c => M.trap 0x16 0 (w64 c)) s

/-! ## The collector (R302, R303, R305, R437) -/

def Round.is (r : Round) (slot tree : Nat) (step : BitVec 32) : Bool := r.slot == slot && r.tree == tree && r.step == step

/-- An entry of the round, opened when there is none and fewer than 8 are open. -/
def openRound8 (k : Core) (slot uid tree : Nat) (step : BitVec 32) : Option Core :=
  if k.rounds.any (fun r => r.is slot tree step) then some k
  else if 8 ≤ k.rounds.length then none
  else some { k with rounds := k.rounds ++ [{ slot := slot, uid := uid, tree := tree, step := step, got := 0, best := none }] }

/-- What `smpw` writes. -/
def winnerWord (best : Option Inject) (excess : Bool) : Word :=
  let x := if excess then 2 ^ 25 else 0
  match best with
  | some b => if b.cls then w64 (b.index.toNat + x + b.value.toNat * 2 ^ 32) else w64 (0xFFFFFF + 2 ^ 24 + x + 0x7FC00000 * 2 ^ 32)
  | none => w64 (0xFFFFFF + 2 ^ 24 + x + 0x7FC00000 * 2 ^ 32)

/-- Every sampling command that the context issued before number `id` has Completed, or does so now with the injections `ms` (R239). -/
def sampleTurn (s : State) (core slot uid id : Nat) (ms : List SmpMsg) : Bool :=
  !s.smps.any (fun p => p.from_ == some (core, slot, uid) && decide (p.id < id) && !ms.any (fun q => q.id == p.id)) &&
  !(s.ctx core slot).loads.any (fun l => (s.ctx core slot).uid == uid && l.smpwId.any (fun n => decide (n < id)))

/-- The injection may be counted: its injector's earlier stores are done, and its earlier sampling commands (R239, R240). -/
def SmpMsg.turn (m : SmpMsg) (s : State) (ms : List SmpMsg) : Bool :=
  match m.from_ with
  | some (c, i, uid) => storesDone (s.core c) uid m.seq && sampleTurn s c i uid m.id ms
  | none => true

/-- One outstanding `smpw` of a context: it opens or joins its entry once the earlier stores are done (R240), and completes when enough has been
counted, in its turn (R239). -/
def trySmpw (core slot : Nat) (s : State) (l : LoadReq) : State :=
  match l.kind with
  | .smpw id tree step cnt =>
    if !storesDone (s.core core) (s.ctx core slot).uid l.seq then s
    else match openRound8 (s.core core) slot (s.ctx core slot).uid tree step with
    | none => s
    | some k =>
      let s := s.setCore core k
      match k.rounds.find? (fun r => r.is slot tree step) with
      | none => s
      | some r =>
        if r.got < cnt || !sampleTurn s core slot (s.ctx core slot).uid id [] then s
        else
          let s := s.modCore core (fun k => { k with rounds := k.rounds.filter (fun q => !q.is slot tree step) })
          let s := s.modCtx core slot (fun x => { x with loads := x.loads.filter (fun m => m != l), nQ := x.nQ - 1 })
          s.modCore core (fun k => k.writeReg (k.ctx slot) l.rd (TVal.int (winnerWord r.best (decide (cnt < r.got)))))
  | _ => s

/-- Every outstanding `smpw` of the core, in the order of the slots and of issue. -/
def trySmpws (core : Nat) (s : State) : State :=
  (s.core core).ctxs.foldl (fun s ((i, x) : Nat × Ctx) => x.loads.foldl (trySmpw core i) s) s

def execSmpw (d : RegF) (s : State) : Host.Outcome State Fault Refusal :=
  run (.smpw d) (do
    let e ← M.env
    let x ← M.me
    if x.isPort d.toNat || (x.bound? d.toNat).isSome then M.illegal 4
    else
      let t := treeOf (x.er 4 0)
      let cnt := bits (x.er 4 5) 31 0
      if t.core ≠ e.core ∨ t.slot ≠ e.slot ∨ t.peer = true then M.trap 0x16 0 5
      else if cnt = 0 then M.trap 0x16 0 6
      else
        let _ ← readyDest d
        raiseCnt .Q
        let n ← nextSeq
        let s ← M.state
        let l : LoadReq :=
          { seq := n, pc := e.pc, next := 0, rd := d.toNat, kind := .smpw s.nextId t.tree ((x.er 4 3).setWidth 32) cnt,
            place := .ls e.core 0, ptr := 0, lv := 0, elect := none }
        M.modify (fun s => { s with nextId := s.nextId + 1 })
        M.modMe (fun x => { x with loads := x.loads ++ [l] })
        M.modify (fun s => trySmpw e.core e.slot s l)) s

/-- The injection completes at its injector, if that context still lives. -/
def smpDone (s : State) (m : SmpMsg) : State :=
  match m.from_ with
  | some (c, i, uid) => if (s.ctx c i).uid = uid ∧ (s.ctx c i).state ≠ .free then lowerCnt s c i .Q else s
  | none => s

def bumpBy (s : State) (c n : Nat) : Nat → State
  | 0 => s
  | k + 1 => bumpBy (s.bump c n) c n k

/-- The packets of a round that meet packet m on their way: any of those in flight (R302; DESIGN CHOICE, log 5). -/
def meeting (s : State) (m : SmpMsg) : List SmpMsg × State :=
  s.smps.foldl (fun ((l, s) : List SmpMsg × State) p =>
    if p.id != m.id && p.core == m.core && p.slot == m.slot && p.tree == m.tree && p.step == m.step && p.tenant == m.tenant &&
        p.peer == m.peer && p.turn s (m :: l) then
      let (n, s) := s.draw
      (if Config.freeChoice n then l ++ [p] else l, s)
    else (l, s)) ([], s)

/-- A packet that stands for `ms` reaches the owner's core. None while no entry is free. -/
def collect (s : State) (m : SmpMsg) (ms : List SmpMsg) : Option State :=
  let n := ms.foldl (fun n p => n + p.count) 0
  let gone := fun (s : State) =>
    (ms.filterMap (fun p => p.from_)).foldl (fun s (c, _, _) => trySmpws c s)
      (ms.foldl smpDone { s with smps := s.smps.filter (fun p => !(ms.any (fun q => q.id == p.id))) })
  match m.peer with
  | some l => if peerOk s m.tenant l then some (gone s)
    else some (ms.foldl (fun s p => match p.from_ with | some (c, _, _) => bumpBy s c 5 p.count | none => s) (gone s))
  | none =>
    let core := s.leadSlot m.core m.slot
    let x := s.ctx core m.slot
    if x.state = .free ∨ x.state = .draining ∨ x.tenant ≠ m.tenant then some (bumpBy (gone s) core 5 n)
    else
      match openRound8 (s.core core) m.slot x.uid m.tree m.step with
      | none => none
      | some k =>
        let k := { k with rounds := k.rounds.map (fun r =>
          if r.is m.slot m.tree m.step then { r with got := r.got + n, best := ms.foldl (fun b p => betterOf b p.inj) r.best } else r) }
        some (trySmpws core (gone (s.setCore core k)))

/-- SAMPLE_INJECTION_ARRIVAL: an injection, with those it has met, is counted, discarded, or waits for an entry. -/
def execSampleInjectionArrival (idx : Nat) (s : State) : Host.Outcome State Fault Refusal :=
  match s.smps[idx]? with
  | none => .next s
  | some m =>
    if stopped s m.tenant then .next s
    else
      let (l, s1) := meeting s m
      if !m.turn s (m :: l) then .next s
      else
        match collect s1 m (m :: l) with
        | some s2 => .next s2
        | none => .next s

end Sys2Proof.Machine
end

