-- ==== Sys2Proof/Machine/Switch.lean ====
section
/-! DEFINITION. Gang switch (R323 to R326), lockstep pairs (R327 to R329) and soft errors (R320). -/

namespace Sys2Proof.Machine

/-! ## The switch record (R323) -/

/-- Address of word n of a tenant's switch record. -/
def switchWord (s : State) (t n : Nat) : Option Nat := s.host.table.map (fun b => b + 8192 + 64 * t + 8 * n)
def readSwitch (s : State) (t n : Nat) : Word := match switchWord s t n with | some a => Memory.word s.hbm a | none => 0
def putSwitch (s : State) (t n : Nat) (v : Word) : State :=
  match switchWord s t n with
  | some a => s.commit { by_ := .disp } (.hbm a) 8 v.toNat 0
  | none => s

/-- Bytes of a partition's save area: header, cores, squares (R325). -/
def areaBytes (p : Part) : Nat := 65536 + 524288 * p.cores.length + 131072 * p.squares.length

/-- Word 3, then 0x15 for the context the record names. -/
def switchDone (s : State) (t area op status tick core slot : Nat) : State :=
  let s := putSwitch s t 3 (w64 (status + tick % 2 ^ 56 * 256))
  deliverCause s core slot t { cause := 0x15, addr := w64 area, aux := w64 (t + op * 64 + status * 256) }

def isOut (s : State) (t : Nat) : Bool := s.disp.saved.any (fun v => v.tenant == t)

/-- Records that kerb contexts of the tenant hold. -/
def kerbRecords (s : State) (t : Nat) : List (Nat × Nat × Ctx) :=
  s.allCtxs.filter (fun (c, _, x) => isKerb c && x.tenant == t && x.hasRec)

/-- The landing ring has no room for them. -/
def kerbTooMany (s : State) (p : Part) : Bool :=
  let n := (kerbRecords s p.tenant).length
  decide (0 < n) && (p.word 3 == 0 || !ringHasRoom s p.tenant (p.word 2) (p.word 3) (n - 1))

/-- What the tenant itself has placed on a core since takes the place of nothing that comes back: slots, windows, regions. -/
def clash (now sv : Core) : Bool :=
  let live := fun (k : Core) => k.ctxs.filter (fun (_, x) => x.state != .free)
  (live now).any (fun (i, x) => (live sv).any (fun (j, y) => i == j || (decide (x.wbase < y.wbase + y.wcount) && decide (y.wbase < x.wbase + x.wcount)))) ||
  now.regions.any (fun r => sv.regions.any (fun q => decide (r.off < q.off + q.len) && decide (q.off < r.off + r.len)))

/-- No context or region of another tenant stands on the partition's cores (R326), and none of its own stands where one comes back (DESIGN CHOICE,
log 27). -/
def coresFree (s : State) (p : Part) : Bool :=
  p.cores.all (fun c => let k := s.core c; k.ctxs.all (fun (_, x) => x.state == .free || x.tenant == p.tenant) && k.regions.all (fun r => r.tenant == p.tenant)) &&
  s.disp.saved.all (fun v => v.tenant != p.tenant || v.cores.all (fun (c, sv) => !clash (s.core c) sv))

/-- The status of a request, the lowest that applies; 0 when it is valid. -/
def switchStatus (s : State) (p : Part) (w1 w2 : Word) : Nat :=
  let t := p.tenant
  let op := bits w2 1 0
  let area := bits w1 47 0
  let busy := s.disp.switches.any (fun w => w.tenant == t)
  if bits w1 63 48 ≠ 0 ∨ bits w2 63 22 ≠ 0 ∨ op = 3 ∨ busy = true ∨ (op = 1 ∧ isOut s t = true) ∨ (op = 2 ∧ isOut s t = false) then 1
  else if area % 65536 ≠ 0 ∨ hbmTop < area + areaBytes p then 2
  else if op = 2 ∧ coresFree s p = false then 3
  else if op = 1 ∧ 4 ≤ (s.disp.saved.filter (fun v => !v.ckpt)).length + (s.disp.switches.filter (fun w => w.out && !w.ckpt)).length then 4
  else if op = 1 ∧ kerbTooMany s p = true then 5
  else 0

/-- One record: a non-zero op is accepted, unless a limit holds switch-ins back (R347). A valid partition that is not in force is refused (R323). -/
def pollSwitch (s : State) (t : Nat) : State :=
  let w0 := readSwitch s t 0
  let w1 := readSwitch s t 1
  let w2 := readSwitch s t 2
  let op := bits w2 1 0
  let valid := (s.host.table.map (fun b => Memory.byte s.hbm (b + 64 * t + 2))).any (fun b => b.getLsbD 4)
  if op = 0 ∨ ((s.part? t).isNone ∧ valid = false) ∨ (op = 2 ∧ (s.host.tele.powerHold || s.host.tele.tempHold) = true) then s
  else
    let tick := max w0.toNat (s.tstamp + 4096)
    let core := bits w2 15 2
    let slot := bits w2 21 16
    let st := (s.part? t).elim 1 (fun p => switchStatus s p w1 w2)
    let s := putSwitch s t 2 (setBits w2 1 0 0)
    match st, s.part? t with
    | 0, some p =>
      let w : Switch := { tenant := t, part := p, out := op == 1, t := tick, area := bits w1 47 0, core := core, slot := slot, phase := 0, ckpt := false }
      s.modDisp (fun d => { d with switches := d.switches ++ [w] })
    | _, _ => switchDone s t (bits w1 47 0) op st tick core slot

def execSwitchRecordPoll (s : State) : Host.Outcome State Fault Refusal := .next ((List.range 64).foldl pollSwitch s)

/-! ## Switch out (R324, R325) -/

def switchOf (s : State) (t : Nat) : Option Switch := s.disp.switches.find? (fun w => w.tenant == t)
def setSwitch (s : State) (w : Switch) : State :=
  s.modDisp (fun d => { d with switches := d.switches.map (fun v => if v.tenant == w.tenant then w else v) })
def dropSwitch (s : State) (t : Nat) : State := s.modDisp (fun d => { d with switches := d.switches.filter (fun v => v.tenant != t) })

/-- SWITCH_OUT_STOP: from T no core issues for the tenant and its flits are laid by. -/
def execSwitchOutStop (tenant : Nat) (s : State) : Host.Outcome State Fault Refusal :=
  match switchOf s tenant with
  | some w => .next (if w.out && w.phase == 0 && decide (w.t ≤ s.tstamp) then setSwitch s { w with phase := 1 } else s)
  | none => .next s

/-- A context has nothing left to drain; an outstanding `smpw` stays with its collector entry (R437), and what an open round owes a receiver with the
round (R413), and a copy command stops at a unit boundary (R324). -/
def ctxDrained (x : Ctx) : Bool := x.loads.all (fun l => !l.kind.flit) && !copyHolds x

/-- A kerb context has come to an instruction boundary: its commands have Completed and its replays have ended, as before a `susp` (DEDUCED, log 41). -/
def kerbDrained (x : Ctx) : Bool := x.drained && !x.replaying && x.loads.isEmpty

def coreDrained (k : Core) (t : Nat) : Bool :=
  k.ctxs.all (fun (_, x) => x.tenant != t || x.state == .free || ctxDrained x) && k.storeBuf.all (fun e => e.tenant != t) &&
  k.journal.all (fun e => e.tenant != t) && (match k.matCur with | some i => (k.ctx i).tenant != t | none => true)

/-- The drain of step 2 has ended. -/
def drainEnded (s : State) (p : Part) : Bool :=
  let t := p.tenant
  let has := fun (c : Nat) => p.has c
  s.cores.all (fun (c, k) => coreDrained k t && (!has c || k.fold.isEmpty)) &&
  s.squares.all (fun (_, q) => q.ropeQ.all (fun r => r.tenant != t)) &&
  s.gives.all (fun g => !has g.core) && s.takes.all (fun g => (s.ctx g.1 g.2.1).tenant != t) &&
  s.tlbiOps.all (fun o => (s.ctx o.1 o.2.1).tenant != t) && (kerbRecords s t).all (fun (_, _, x) => kerbDrained x)

/-- A kerb record goes to the ring with source 2, as `susp` would write it (R324 step 4). -/
def spillKerb (p : Part) (s : State) (at_ : Nat × Nat × Ctx) : State :=
  let (c, i, _) := at_
  let s1 := if (s.ctx c i).state = .parked then unpark s c i else s
  let x := s1.ctx c i
  match ringAppend s1 p.tenant (p.word 2) (p.word 3) (buildRecord (s1.core c) x x.pc 1) (w64 (c + 2 * 2 ^ 14))
      (s1.released x.uid .device) with
  | some s2 => endLanding s2 c i
  | none => s

/-- SWITCH_OUT_DRAIN_END: kerb contexts give up their records, and the save begins. -/
def execSwitchOutDrainEnd (tenant : Nat) (s : State) : Host.Outcome State Fault Refusal :=
  match switchOf s tenant with
  | some w =>
    if w.out && w.phase == 1 && drainEnded s w.part then
      .next (setSwitch ((kerbRecords s tenant).foldl (spillKerb w.part) s) { w with phase := 2 })
    else .next s
  | none => .next s

/-- What a core keeps when its partition has been saved: contents that no live generation reads. -/
def vacate (k : Core) : Core :=
  { k with
    ctxs := [], regions := [], storeBuf := [], journal := [], jrec := none, board := [], sems := [], copySets := [], landq := [],
    hold := [], rot := [], rounds := [], lock := none, twinOf := none, matCur := none }

def vacateSquare (q : Square) (gangs : List Nat) : Square :=
  { q with elections := q.elections.filter (fun e => !gangs.contains e.gang), opened := q.opened.filter (fun e => !gangs.contains e.1) }

/-- The state of R325 of a tenant's partition. -/
def saveOf (s : State) (p : Part) (area : Nat) (check : Word) (ckpt : Bool) : Saved :=
  let gs := (s.disp.gangs.filter (fun g => g.tenant == p.tenant)).map (fun g => g.uid)
  { tenant := p.tenant, area := area, check := check, ckpt := ckpt, cores := p.cores.map (fun c => (c, s.core c)),
    squares := p.squares.map (fun q => (q, { Square.reset with
      elections := (s.square q).elections.filter (fun e => gs.contains e.gang), opened := (s.square q).opened.filter (fun e => gs.contains e.1) })),
    ports := s.ports.filter (fun m => m.tenant == p.tenant), smps := s.smps.filter (fun m => m.tenant == p.tenant)
    ships := s.ships.filter (fun m => m.tenant == p.tenant) }

/-- The core that a miss comes from lies in the partition. -/
def Asker.inPart (p : Part) : Asker → Bool
  | .ctx c _ => p.has c
  | .copy c _ _ => p.has c
  | .rope _ _ => false

/-- The partition's state leaves its cores. -/
def takeOut (s : State) (p : Part) (v : Saved) : State :=
  let gs := (s.disp.gangs.filter (fun g => g.tenant == p.tenant)).map (fun g => g.uid)
  let s := p.cores.foldl (fun s c => s.modCore c vacate) (s.forget (fun pl => p.cores.any (fun c => pl.onCore c)))
  let s := p.squares.foldl (fun s q => s.modSquare q (fun y => vacateSquare y gs)) s
  { s with
    ports := s.ports.filter (fun m => m.tenant != p.tenant), smps := s.smps.filter (fun m => m.tenant != p.tenant)
    ships := s.ships.filter (fun m => m.tenant != p.tenant)
    walks := s.walks.map (fun w => { w with reqs := w.reqs.filter (fun r => !r.inPart p) })
    missWait := s.missWait.filter (fun r => !r.1.inPart p)
    disp := { s.disp with saved := s.disp.saved ++ [v] } }

/-- Event counter 12 of each core of the partition (DEDUCED, log 28). -/
def countSwitch (s : State) (p : Part) : State := p.cores.foldl (fun s c => s.bump c 12) s

/-- Word j of a save area whose free words start at n: tenant and check, then words whose layout belongs to the part. -/
def areaWord (t n j : Nat) : Word := if j = 0 then w64 t else Config.saveWord n j

def writeArea (s : State) (area t n : Nat) : Nat → Nat → State
  | _, 0 => s
  | j, k + 1 => writeArea (s.writeAt (.hbm (area + 8 * j)) 8 (areaWord t n j).toNat 0) area t n (j + 1) k

/-- The area holds what the save wrote. -/
def areaHolds (s : State) (area t n : Nat) : Nat → Bool
  | 0 => true
  | k + 1 => Memory.word s.hbm (area + 8 * k) == areaWord t n k && areaHolds s area t n k

/-- SWITCH_OUT_DONE: the save has been written, the partition's slots, windows and regions are free, word 3 and 0x15. -/
def execSwitchOutDone (tenant : Nat) (s : State) : Host.Outcome State Fault Refusal :=
  match switchOf s tenant with
  | some w =>
    if !(w.out && w.phase == 2) then .next s
    else
      let p := w.part
      let n := s.free
      let words := areaBytes p / 8
      let s1 := countSwitch (takeOut (dropSwitch s tenant) p (saveOf s p w.area (w64 n) w.ckpt)) p
      if w.ckpt then .next s1
      else
        let s2 := writeArea { s1.forget (Place.inHbm w.area (8 * words)) with free := n + words } w.area tenant n 0 words
        .next (switchDone s2 tenant w.area 1 0 w.t w.core w.slot)
  | none => .next s

/-! ## Switch in (R326) -/

/-- New generations for n allocations of a core, in order. None while the request stalls. -/
def takeGens (c : Nat) (who : Stall) : Nat → State → Option (List (BitVec 16) × State)
  | 0, s => some ([], s)
  | n + 1, s => (takeGen s c who).bind (fun ((g, s1) : BitVec 16 × State) =>
      (takeGens c who n s1).map (fun ((l, s2) : List (BitVec 16) × State) => (g :: l, s2)))

def newGenOf (m : List (BitVec 16 × BitVec 16)) (g : BitVec 16) : Option (BitVec 16) := (m.find? (fun e => e.1 == g)).map (fun e => e.2)

/-- A restored context under new generations; its translations start again. -/
def resumeCtx (m : List (BitVec 16 × BitVec 16)) (x : Ctx) : Ctx :=
  let g := fun (b : BitVec 16) => (newGenOf m b).getD b
  { x with
    gen := g x.gen, lastIssue := none, xfault := none,
    copyQ := x.copyQ.map (fun q => { q with dstGen := g q.dstGen, auxGen := g q.auxGen, walks := {} }) }

/-- Every register of a restored window carries the new generation: what the context could read, and 0 with count 127 elsewhere (R80); x0's entry
stays as it is (R50). -/
def mergeRegs (sv : Core) (m : List (BitVec 16 × BitVec 16)) (r : SMap RegEntry) (x : Ctx) : SMap RegEntry :=
  let g := (newGenOf m x.gen).getD x.gen
  ((List.range (x.wcount - 1)).map (fun j => x.wbase + 1 + j)).foldl (fun r n =>
    let e := sv.reg n
    SMap.put r RegEntry.reset n (if e.gen = x.gen then { e with gen := g } else { RegEntry.reset with gen := g })) r

/-- A granule of the saved core that was live comes back under the new value of its generation (R326). -/
def mergeGranule (sv : Core) (m : List (BitVec 16 × BitVec 16)) (k : Core) (e : Nat × BitVec 16) : Core :=
  match newGenOf m e.2 with
  | none => k
  | some g =>
    { k with
      ls := Memory.write k.ls (32 * e.1) (Memory.read sv.ls (32 * e.1) 32) 32
      fe := (List.range 4).foldl (fun f j => SMap.put f false (4 * e.1 + j) (SMap.get sv.fe (4 * e.1 + j) false)) k.fe
      lsGen := SMap.put k.lsGen 0 e.1 g }

/-- A map with the entries of another put over it. -/
def overMap [DecidableEq α] (d : α) (m n : SMap α) : SMap α := n.foldl (fun m e => SMap.put m d e.1 e.2) m

/-- The saved core comes back on what stands on the core now: its live registers and granules under new generations, so that every other reads as 0. -/
def mergeCore (now sv : Core) (m : List (BitVec 16 × BitVec 16)) : Core :=
  let live := (sv.ctxs.filter (fun (_, x) => x.state != .free))
  let k := sv.lsGen.foldl (mergeGranule sv m) now
  { k with
    ctxs := overMap Ctx.reset now.ctxs (live.map (fun (i, x) => (i, resumeCtx m x)))
    slots := sv.slots
    regs := live.foldl (fun r (_, x) => mergeRegs sv m r x) now.regs
    regions := now.regions ++ sv.regions.map (fun r => { r with gen := (newGenOf m r.gen).getD r.gen })
    storeBuf := now.storeBuf ++ sv.storeBuf, journal := now.journal ++ sv.journal, jrec := sv.jrec.or now.jrec, board := now.board ++ sv.board
    acc := sv.acc, banks := sv.banks, sems := overMap 0 now.sems sv.sems, copySets := overMap 0 now.copySets sv.copySets
    landq := sv.landq ++ now.landq, hold := now.hold ++ sv.hold, rounds := now.rounds ++ sv.rounds, lim := sv.lim
    lock := sv.lock.map (fun l => { l with log := [] }), twinOf := sv.twinOf.or now.twinOf
    matCur := sv.matCur.or now.matCur, matTurn := sv.matTurn, repTurn := sv.repTurn, cpyTurn := sv.cpyTurn }

/-- A restored context joins the rotation; a parked one executes its parking instruction again, `idle` included (R326). -/
def resumeOne (c : Nat) (s : State) (e : Nat × Ctx) : State :=
  let x := s.ctx c e.1
  match x.state with
  | .ready => (s.modCtx c e.1 (fun x => { x with packet := none })).modCore c (fun k => k.joinRot e.1)
  | .parked => if x.parkedOn (fun w => w == .never) then (s.modCtx c e.1 (fun x => { x with pc := x.pc - 4 })).ready c e.1 else unpark s c e.1
  | _ => s

def savedGens (sv : Core) : List (BitVec 16) :=
  sv.regions.map (fun r => r.gen) ++ (sv.ctxs.filter (fun (_, x) => x.state != .free)).map (fun (_, x) => x.gen)

def restoreCore (s : State) (c t : Nat) (sv : Core) : Option State :=
  let old := savedGens sv
  (takeGens c (.switch t) old.length s).map (fun ((l, s1) : List (BitVec 16) × State) =>
    (sv.ctxs.foldl (resumeOne c) (s1.setCore c (mergeCore (s1.core c) sv (old.zip l)))).modCore c (fun k =>
      { k with lock := k.lock.map (fun p => { p with
        point := k.ctxs.filter (fun (_, x) => x.lock && x.state != .free), rolled := false, events := k.events, lim := k.lim }) }))

def restoreCores (t : Nat) : List (Nat × Core) → State → Option State
  | [], s => some s
  | (c, sv) :: l, s => (restoreCore s c t sv).bind (restoreCores t l)

/-- Cores and squares of a saved partition come back; its flits stay laid by. Where generations are lacking, the request waits (R78). -/
def bringBack (s : State) (v : Saved) : Except State State :=
  match restoreCores v.tenant v.cores (s.forget (fun pl => v.cores.any (fun c => pl.onCore c.1))) with
  | none => .error (v.cores.foldl (fun s (c, sv) => stallFor (savedGens sv).length (.switch v.tenant) s c) s)
  | some s1 => .ok (v.squares.foldl (fun s ((q, y) : Nat × Square) => s.modSquare q (fun z => { z with
      elections := z.elections ++ y.elections, opened := z.opened ++ y.opened })) s1)

/-- What stays of a saved partition until it resumes: its flits. -/
def keepFlits (s : State) (t : Nat) : State :=
  s.modDisp (fun d => { d with saved := d.saved.map (fun v => if v.tenant == t then { v with cores := [], squares := [] } else v) })

/-- SWITCH_IN_RESTORE_END: `ok` says whether the area passed its check, which is whether it holds what the save wrote. -/
def execSwitchInRestoreEnd (tenant : Nat) (ok : Bool) (s : State) : Host.Outcome State Fault Refusal :=
  match switchOf s tenant, s.disp.saved.find? (fun v => v.tenant == tenant) with
  | some w, some v =>
    if w.out || w.phase != 0 then .next s
    else
      let good := !v.ckpt && areaHolds s w.area tenant v.check.toNat (areaBytes w.part / 8)
      if ok != good then .next s
      else if good then
        match bringBack s v with
        | .ok s1 => .next (setSwitch (keepFlits s1 tenant) { w with phase := 1 })
        | .error s1 => .next s1
      else .next (switchDone (dropSwitch s tenant) tenant w.area 2 2 w.t w.core w.slot)
  | _, _ => .next s

/-- The partition issues again; its laid-by flits go before any new one. -/
def resumePart (s : State) (t : Nat) : State :=
  match s.disp.saved.find? (fun v => v.tenant == t) with
  | none => s
  | some v =>
    let s1 := { s with ports := v.ports ++ s.ports, smps := v.smps ++ s.smps, ships := v.ships ++ s.ships }
    s1.modDisp (fun d => { d with saved := d.saved.filter (fun u => u.tenant != t) })

/-- SWITCH_IN_RESUME: at T every core of the partition resumes in the same tick. -/
def execSwitchInResume (tenant : Nat) (s : State) : Host.Outcome State Fault Refusal :=
  match switchOf s tenant with
  | some w =>
    if !w.out && w.phase == 1 && decide (w.t ≤ s.tstamp) then
      .next (switchDone (countSwitch (resumePart (dropSwitch s tenant) tenant) w.part) tenant w.area 2 0 w.t w.core w.slot)
    else .next s
  | none => .next s

/-! ## Lockstep (R328, R329) -/

def lockCtxs (k : Core) : SMap Ctx := k.ctxs.filter (fun (_, x) => x.lock && x.state != .free)

/-- The point passes: the logs start again. -/
def passPoint (k : Core) : Core :=
  { k with lock := k.lock.map (fun p => { p with log := [], point := lockCtxs k, rolled := false, events := k.events, lim := k.lim }) }

/-- LOCKSTEP_FORCED_COMPARE: the log has reached `lockckpt.lim` entries, and the two logs agree. -/
def execLockstepForcedCompare (core : Nat) (s : State) : Host.Outcome State Fault Refusal :=
  match (s.core core).lock with
  | some p => .next (if (s.core core).lim ≤ p.log.length then s.modCore core passPoint else s)
  | none => .next s

def lockWindow (p : LockPair) (n : Nat) : Bool := p.point.any (fun (_, x) => decide (x.wbase ≤ n) && decide (n < x.wbase + x.wcount))

/-- A context goes back to the last passed point. -/
def backTo (k : Core) (i : Nat) (x : Ctx) : Core :=
  if (k.ctx i).uid != x.uid then k
  else if x.state = .ready then (k.setCtx i x).joinRot i else (k.setCtx i x).leaveRot i

/-- Both cores undo their logs and what was written of the core's control registers, and issue again from the last passed point; event counter 9. -/
def rollBack (s : State) (core : Nat) (p : LockPair) : State :=
  s.modCore core (fun k =>
    let k1 := { k with regs := (p.log.filter (fun (n, _) => lockWindow p n)).foldr (fun (n, e) r => SMap.put r RegEntry.reset n e) k.regs }
    let k2 := p.point.foldl (fun k (i, x) => backTo k i x) k1
    let k3 := ({ k2 with events := p.events, lim := p.lim } : Core).bump 9
    { k3 with lock := some { p with log := [], rolled := true, events := k3.events } })

/-- 0x18 at firmware: the pair's gangs are aborted. -/
def pairFails (s : State) (core : Nat) : State :=
  let gs := s.disp.gangs.filter (fun g => (lockCtxs (s.core core)).any (fun (_, x) => x.gang == some g.uid))
  gs.foldl (fun s g => abortGang (logEvent s 2 g.tenant core 0 0) g.uid) s

/-! ## Soft errors (R320) -/

/-- A line of a core or square translation cache or of the square's node cache is discarded; it is fetched again when it is used. -/
def dropLineOf (s : State) (core : Nat) : State :=
  let (n, s) := s.draw
  let (m, s) := s.draw
  let k := Config.freePick n
  let cut {α : Type} (l : List α) : List α := l.eraseIdx (Config.freePick m % max 1 l.length)
  if k % 3 = 0 then s.modCore core (fun c => { c with tlb := cut c.tlb })
  else if k % 3 = 1 then s.modSquare (serveSquare core) (fun q => { q with tlb := cut q.tlb })
  else s.modSquare (serveSquare core) (fun q => { q with nodes := cut q.nodes })

/-- 0x10 at the instruction that the context was about to execute (R314), or at the body word that the repetition engine was about to issue (R317);
where both are, the access may be either's (DESIGN CHOICE, log 42). -/
def accessError (s : State) (core slot : Nat) (regFile : Bool) (addr : Word) : State :=
  let x := s.ctx core slot
  let t : TrapInfo := { cause := 0x10, addr := addr, aux := if regFile then 1 else 0 }
  let (n, s1) := s.draw
  let s2 := s1.bump core 7
  match if bodyBusy x && (x.state != .ready || Config.freeChoice n) then x.body else none with
  | some b => rotate core slot (replayTrap s2 core slot (b.base + w64 (4 * b.word)) b.replay t)
  | none =>
    if x.state ≠ .ready then s
    else rotate core slot (raise { core := core, slot := slot, pc := x.pc, tpc := x.pc, replay := none, word := 0 } t s2)

/-- A corrected error of the pair stays counted when the pair goes back to its point. -/
def keepPoint (s : State) (core : Nat) : State :=
  s.modCore core (fun k => { k with lock := k.lock.map (fun p => { p with events := (({ k with events := p.events } : Core).bump 6).events }) })

def execSoftError (site : ErrSite) (correctable : Bool) (s : State) : Host.Outcome State Fault Refusal :=
  match site with
  | .access core slot regFile addr =>
    .next (if correctable then s.bump core 6 else accessError s core slot regFile addr)
  | .cache core => .next (if correctable then s.bump core 6 else (dropLineOf s core).bump core 6)
  | .other core tenant addr =>
    .next (if correctable then s.bump core 6 else logEvent (abortTenant (s.bump core 7) tenant) 1 tenant core 0 addr)
  | .pair core again mem =>
    match (s.core core).lock with
    | none => .next s
    | some p =>
      .next (if correctable then keepPoint (s.bump core 6) core else if again || mem || p.rolled then pairFails s core else rollBack s core p)

end Sys2Proof.Machine
end

