-- ==== Sys2Proof/Machine/Host.lean ====
section
/-! DEFINITION. Host, peers and housekeeping (R8, R81, R194, R335 to R347): the BARs, the mailbox and its commands, debug sessions,
checkpoint and restore, reset, boot, links, trusted interfaces, limits, and the event ring. -/

namespace Sys2Proof.Machine

/-! ## Reset and boot (R49, R340) -/

/-- DEVICE_RESET: everything at its reset value. What lies outside the device stays; the numbers of fresh and free values go on. -/
def execDeviceReset (s : State) : Host.Outcome State Fault Refusal :=
  .next { State.reset with
    hostMem := s.hostMem, nextId := s.nextId, free := s.free, inputs := s.inputs
    host := { HostSide.reset with images := s.host.images, lastRead := s.host.lastRead, peerReply := s.host.peerReply, i3c := s.host.i3c } }

/-- BOOT: the first makes the ROM check (phase 1, from which `tstamp` counts), the second ends the check; a blob that passes sets the enabled links,
the power limit and the restore sources. -/
def execBoot (imageOk blobOk fieldsOk : Bool) (blob : Blob) (s : State) : Host.Outcome State Fault Refusal :=
  let h := s.host
  let why : BitVec 3 := if !imageOk then 1 else if !blobOk then 2 else if !fieldsOk || blob.code == 3 then 3 else 0
  if h.phase = 0 then .next { s with tsZero := some s.cycle, host := { h with phase := 1 } }
  else if h.phase = 1 then .next { s with host := if why = 0 then { h with phase := 2, why := 0, code := blob.code, links := blob.links, limit := blob.limit, sources := blob.sources }
    else { h with phase := 3, why := why, code := blob.code } }
  else .next s

/-! ## Links and peers (R339, R304). An event of a link, die, tenant, queue, slot or BAR that the DL3 has not does nothing (Instr.wf) -/

def execLinkDown (link : Nat) (s : State) : Host.Outcome State Fault Refusal :=
  .next (if link < 12 then logEvent (s.modHost (fun h => { h with linkUp := SMap.put h.linkUp false link false })) 4 0 0 0 (w64 link) else s)

/-- Only a link that the configuration blob enables comes up (R340). -/
def execLinkUp (link : Nat) (s : State) : Host.Outcome State Fault Refusal :=
  .next (if link < 12 ∧ s.host.links.getLsbD link = true then
    logEvent (s.modHost (fun h => { h with linkUp := SMap.put h.linkUp false link true })) 5 0 0 0 (w64 link) else s)

def sizeOk (n : Nat) : Bool := n == 1 || n == 2 || n == 4 || n == 8

/-- The place of a peer's access under the tables of the tenant it is mapped to. Whether it counts as a user or a supervisor access
is open (DESIGN CHOICE, log 6). -/
def peerPlace (s : State) (tenant : Nat) (addr : Word) (size : Nat) (op : Op) (sup : Bool) : Option Place :=
  if !sizeOk size || bits addr 63 51 != 0 then none
  else (engResolve s { core := 0, tenant := tenant, level := if sup then 1 else 0, pv := 0 } addr size op).toOption

/-- PEER_ACCESS_ARRIVAL: what fails translation or protection is refused at the peer and changes nothing here. -/
def execPeerAccessArrival (link tenant : Nat) (acc : PeerAccess) (s : State) : Host.Outcome State Fault Refusal :=
  if !(decide (link < 12) && decide (tenant < 64)) then .next s
  else if !SMap.get s.host.linkUp link false then .next s
  else
    let (n, s1) := s.draw
    match acc with
    | .write addr size v =>
      match peerPlace s1 tenant addr size .ewrite (Config.freeChoice n) with
      | some pl => .next (s1.commit { by_ := .link } pl size v.toNat 0)
      | none => .next s1
    | .read addr size =>
      match peerPlace s1 tenant addr size .eread (Config.freeChoice n) with
      | some pl =>
        let r := s1.weakRead {} 0 anyWr pl size
        .next (r.2.2.modHost (fun h => { h with peerReply := w64 r.1 }))
      | none => .next s1
    | .sample core slot tree step cls value index count =>
      let m : SmpMsg :=
        { core := core, slot := slot, tree := tree, step := step, tenant := tenant, peer := none,
          inj := { cls := cls, value := value, index := index }, count := count, from_ := none, id := s.nextId, seq := 0 }
      .next { s with nextId := s.nextId + 1, smps := s.smps ++ [m] }

/-! ## Trusted interfaces (R338) -/

def tdispCode : TdispState → Nat | .configUnlocked => 0 | .configLocked => 1 | .run => 2 | .error => 3

/-- TDISP_STATE_CHANGE: an interface that leaves RUN has its gangs ended, its key destroyed, and its pages read 0 until they are bound
again and written; `pages` are the HBM pages bound to it on the way to or in RUN. -/
def execTdispStateChange (tenant : Nat) (new : TdispState) (pages : List Nat) (s : State) : Host.Outcome State Fault Refusal :=
  if 64 ≤ tenant then .next s
  else
    let leaves := SMap.get s.host.tdisp tenant 0 == 2 && new != .run
    let old := (s.host.bound.filter (fun b => b.1 == tenant)).map (fun b => b.2)
    let s1 := if leaves then
        let s0 := (abortTenant s tenant).forget (fun pl => old.any (fun p => Place.inHbm (65536 * p) 65536 pl))
        { s0 with
          hbm := s0.hbm.filter (fun (a, _) => !old.contains (a / 65536))
          host := { s0.host with dead := s0.host.dead ++ old, bound := s0.host.bound.filter (fun b => b.1 != tenant) } }
      else s
    let s2 := if new = .run ∨ new = .configLocked then
        s1.modHost (fun h => { h with
          bound := h.bound ++ pages.map (fun p => (tenant, p)), dead := h.dead.filter (fun p => !pages.contains p) })
      else s1
    .next (logEvent (s2.modHost (fun h => { h with tdisp := SMap.put h.tdisp 0 tenant (tdispCode new) })) 3 tenant 0 0 (w64 (tdispCode new)))

/-! ## Limits (R347) -/

def execPowerLimitHold (mW : BitVec 32) (s : State) : Host.Outcome State Fault Refusal :=
  let above := s.host.phase = 2 ∧ s.host.limit.toNat < mW.toNat
  let s1 := s.modHost (fun h => { h with tele := { h.tele with power := mW, powerHold := h.tele.powerHold || decide above } })
  .next (if above ∧ s.host.tele.powerHold = false then logEvent s1 8 0 0 0 (w64 mW.toNat) else s1)

/-- The average has stayed at or below the limit for 1 ms. -/
def execPowerLimitRelease (s : State) : Host.Outcome State Fault Refusal :=
  .next (if s.host.tele.power.toNat ≤ s.host.limit.toNat then
    s.modHost (fun h => { h with tele := { h.tele with powerHold := false } }) else s)

/-- A temperature halt: every gang ends as aborted. -/
def tempHalt (s : State) : State :=
  let s1 := s.disp.gangs.foldl (fun s g => abortGang s g.uid) s
  logEvent (s1.modHost (fun h => { h with tele := { h.tele with haltSeen := true } })) 6 0 0 0 0

/-- A reading of die n in units of 0.25 °C. One that first crosses 95 °C is an event, and one that first crosses 105 °C a halt; the placement hold
lasts while a die reads 95 °C or above. -/
def setTemp (s : State) (die : Nat) (temp : BitVec 16) : State :=
  let old := (SMap.get s.host.tele.temp die 0).toNat
  let s1 := s.modHost (fun h => { h with tele := { h.tele with temp := SMap.put h.tele.temp 0 die temp } })
  let s2 := if old < 380 ∧ 380 ≤ temp.toNat then logEvent s1 7 0 0 0 (w64 die) else s1
  if old < 420 ∧ 420 ≤ temp.toNat then tempHalt s2 else s2

def execTemperatureHigh (die : Nat) (temp : BitVec 16) (s : State) : Host.Outcome State Fault Refusal :=
  .next (if die < 4 then setTemp s die temp else s)
def execTemperatureHalt (die : Nat) (temp : BitVec 16) (s : State) : Host.Outcome State Fault Refusal :=
  .next (if die < 4 then setTemp s die temp else s)
def execTemperatureHoldRelease (die : Nat) (temp : BitVec 16) (s : State) : Host.Outcome State Fault Refusal :=
  .next (if die < 4 then setTemp s die temp else s)

/-! ## Host accesses (R194, R335 to R337, R341) -/

/-- A host access of an offset: one of fewer than 8 bytes or off the 8-byte grid, or one that names nothing, completes as Unsupported Request and
changes nothing (R335). -/
def hostAccess (size off : Nat) (named : Bool) (f : State → State) (s : State) : State :=
  if size < 8 ∨ off % 8 ≠ 0 ∨ named = false then s.modHost (fun h => { h with ur := true })
  else f (s.modHost (fun h => { h with ur := false }))

/-- The region that holds a granule, for an access by the host: none where its partition is switched out. -/
def hostRegion (s : State) (core off : Nat) : Option Region :=
  if s.disp.parts.any (fun p => p.has core && stopped s p.tenant) then none else (s.core (s.leadAt core off)).regionAt off

def localOk (core off : Nat) : Bool := coreUsed core && decide (off < lsSize core) && off % 8 == 0

/-- A requester's write; one that fills a word is a release of all that the same requester has written (R337). -/
def byHost (s : State) (req : Nat) (full : Bool) : Commit :=
  { by_ := .port req, rel := if full then [(.system, ({} : Front).mark (.port req) s.ord.commits)] else [] }

/-- A write that no region takes is dropped and counted. -/
def hostLocal (req core off : Nat) (value : Word) (full : Bool) (s : State) : State :=
  match hostRegion s core off with
  | none => s.bump (s.lead core) 8
  | some r =>
    let c := s.leadAt core off
    (s.record (byHost s req full) (.ls c off) 8 value.toNat r.gen).modCore c (fun k =>
      if full then k.lsWriteFe r.gen off value.toNat true else k.lsWrite r.gen off 8 value.toNat)

def execHostLocalWrite (core : Nat) (off : HostAcc) (value : Word) (s : State) : Host.Outcome State Fault Refusal :=
  .next (hostAccess off.size off.off (localOk core off.off) (hostLocal off.req core off.off value false) s)
def execHostFillAliasWrite (core : Nat) (off : HostAcc) (value : Word) (s : State) : Host.Outcome State Fault Refusal :=
  .next (hostAccess off.size off.off (localOk core off.off) (hostLocal off.req core off.off value true) s)

def execHostHbmWrite (addr : HostAcc) (value : Word) (s : State) : Host.Outcome State Fault Refusal :=
  .next (hostAccess addr.size addr.off (decide (addr.off < hbmTop))
    (fun s => s.commit (byHost s addr.req false) (.hbm addr.off) 8 value.toNat 0) s)

/-- Eight bytes of a table of bytes. -/
def bytesAt (f : Nat → Byte) (n : Nat) : Word := w64 ((List.range 8).foldr (fun j v => (f (n + j)).toNat + 256 * v) 0)

/-- Days until the shift of a die, a × 0.01 % after d days, reaches 10 %: it grows with the square root of the time (R347). How a fraction of a day
is rounded is open (`up`; DESIGN CHOICE, log 11). -/
def daysLeft (d a : Nat) (up : Bool) : Nat := (d * 1000000 + (if up then a * a - 1 else 0)) / (a * a) - d

/-- A new sample of the ageing sensors and of the time of operation: free values, and `teol` as they have it, all ones while no die shows a shift
(R341, R347; DESIGN CHOICE, log 11). -/
def sampleAge (s : State) : State :=
  let (n, s1) := s.draw
  let (m, s2) := s1.draw
  let ages := (List.range 4).foldl (fun a d => SMap.put a 0 d ((Config.freeWord n).extractLsb' (16 * d) 16)) []
  let left := ages.map (fun (_, a) => daysLeft ((Config.freeWord m).toNat % 2 ^ 32) a.toNat (Config.freeChoice m))
  let eol : Nat := left.foldl min (if left.isEmpty then 0xFFFFFFFF else 0xFFFFFFFE)
  s2.modHost (fun h => { h with tele := { h.tele with age := ages, eol := BitVec.ofNat 32 eol } })

/-- The eleven telemetry words of R341 in the order of its table. -/
def telemetry (h : HostSide) (n : Nat) : Word :=
  if n < 4 then w64 (SMap.get h.tele.temp n 0).toNat
  else if n = 4 then w64 h.tele.power.toNat
  else if n < 9 then w64 (SMap.get h.tele.age (n - 5) 0).toNat
  else if n = 9 then w64 h.tele.eol.toNat
  else w64 ((if h.tele.powerHold then 1 else 0) + (if h.tele.tempHold then 2 else 0) + (if h.tele.haltSeen then 4 else 0))

/-- BAR0 (R340 to R342). -/
def bar0 (s : State) (off : Nat) : Word :=
  let h := s.host
  let m := h.mbox
  if off = 0 then w64 (h.phase.toNat + h.why.toNat * 8 + h.code.toNat * 64)
  else if 0x100 ≤ off ∧ off < 0x620 then bytesAt Config.identityKey (off - 0x100)
  else if 0x700 ≤ off ∧ off < 0x720 then bytesAt Config.imageDigest (off - 0x700)
  else if 0x720 ≤ off ∧ off < 0x740 then bytesAt Config.blobDigest (off - 0x720)
  else if off = 0x1000 then m.cmd
  else if 0x1008 ≤ off ∧ off ≤ 0x1020 then m.args.getD ((off - 0x1008) / 8) 0
  else if off = 0x1028 then m.res0
  else if off = 0x1030 then m.res1
  else if off = 0x1038 then w64 ((if m.busy then 1 else 0) + m.status % 256 * 256 + m.count % 2 ^ 48 * 65536)
  else if 0x2000 ≤ off ∧ off ≤ 0x2050 then telemetry h ((off - 0x2000) / 8)
  else 0

/-- A read of a telemetry word samples the ageing sensors where it is one of their words. -/
def readTelemetry (s : State) (n : Nat) : Word × State :=
  let s1 := if 5 ≤ n ∧ n ≤ 9 then sampleAge s else s
  (telemetry s1.host n, s1)

/-- The I3C target at address 0x2C: registers 0 to 10 as eight bytes, least significant first; none for another address or register (R341, R347). -/
def i3cRead (s : State) (addr reg : Nat) : Option (List Byte × State) :=
  if addr = 0x2C ∧ reg ≤ 10 then
    let (w, s1) := readTelemetry s reg
    some ((List.range 8).map (fun j => w.extractLsb' (8 * j) 8), s1)
  else none

/-- The board management controller reads a register of any target when it likes; the bytes stand in `i3c` (R347; DESIGN CHOICE, log 50). -/
def i3cOwn (s : State) : State :=
  let (n, s1) := s.draw
  match i3cRead s1 (Config.freePick n % 128) (Config.freeTurn n % 256) with
  | some (l, s2) => s2.modHost (fun h => { h with i3c := l })
  | none => s1

/-- BAR2: packet bytes, the word, and zeros (R194). -/
def bar2 (s : State) (off : Nat) : Word :=
  let (p, full) := s.launchSlot (off / 2048) (off / 128 % 16)
  let o := off % 128
  if o < 64 then p.getD (o / 8) 0 else if o = 64 then (if full then 1 else 0) else 0

/-- BAR4, as Reads by a reader that has seen nothing (R230; log 4): none for an offset that names nothing. -/
def bar4 (s : State) (off : Nat) : Option (Word × State) :=
  if off < hbmTop then
    let r := s.weakRead {} 0 anyWr (.hbm off) 8
    some (w64 r.1, r.2.2)
  else if off < 0x8000000000 then none
  else
    let core := off % 0x4000000000 / 2 ^ 20
    let o := off % 2 ^ 20
    if off < 0x8000000000 + 0x8000000000 ∧ localOk core o = true then
      match hostRegion s core o with
      | none => some (0, s)
      | some g =>
        let c := s.leadAt core o
        let r := s.weakRead {} g.gen anyWr (.ls c o) 8
        some (w64 (if off < 0xC000000000 then r.1 else r.1 % 2 ^ 63 + (if (s.core c).seenFull g.gen o then 2 ^ 63 else 0)), r.2.2)
    else none

/-- The word of a BAR at an aligned offset, if it names one. -/
def barRead (s : State) (bar off : Nat) : Option (Word × State) :=
  let s1 := if bar = 0 ∧ 0x2000 ≤ off ∧ off ≤ 0x2050 then (readTelemetry s ((off - 0x2000) / 8)).2 else s
  if bar = 0 then (if off < 65536 then some (bar0 s1 off, s1) else none)
  else if bar = 2 then (if off < 131072 then some (bar2 s off, s) else none)
  else if bar = 4 then bar4 s off
  else none

def execHostRead (bar : Nat) (off : HostAcc) (s : State) : Host.Outcome State Fault Refusal :=
  let v := barRead s bar off.off
  .next (hostAccess off.size off.off v.isSome (fun s0 => match v with
    | some (w, s2) => s2.modHost (fun h => { h with lastRead := w, ur := false })
    | none => s0) s)

/-- The word of a slot is set full: a release of what the same requester has written (R194, R337). -/
def fillSlot (req queue slot : Nat) (s : State) : State :=
  let l := s.slot queue slot
  if l.full then s
  else (s.setSlot queue slot { words := (List.range 8).map (fun j => l.words.getD j 0), full := true, old := covered l.old [] }).setChan
    (.slot queue slot) (({} : Front).mark (.port req) s.ord.commits)
where
  /-- of each word, the values that no write of the requester has replaced -/
  covered : List (Nat × Word × Nat) → List Nat → List (Nat × Word × Nat)
    | [], _ => []
    | (j, v, q) :: t, l => if l.contains j || q == req then covered t (j :: l) else (j, v, q) :: covered t l

/-- A write to one word of a slot: packet bytes while it is empty, the full word at byte 64, and nothing above (R194). -/
def writeSlot (req queue slot off : Nat) (value : Word) (s : State) : State :=
  let l := s.slot queue slot
  if off = 64 then fillSlot req queue slot s
  else if l.full ∨ 64 < off then s
  else s.setSlot queue slot {
    words := (List.range 8).map (fun j => if 8 * j = off then value else l.words.getD j 0), full := false
    old := (off / 8, l.words.getD (off / 8) 0, req) :: l.old }

def execLaunchSlotWrite (queue slot : Nat) (off : HostAcc) (value : Word) (s : State) : Host.Outcome State Fault Refusal :=
  .next (if queue < 64 ∧ slot < 16 ∧ off.off < 128 then hostAccess off.size off.off true (writeSlot off.req queue slot off.off value) s else s)

def execLaunchSlotFull (queue : Nat) (slot : HostAcc) (s : State) : Host.Outcome State Fault Refusal :=
  .next (if queue < 64 ∧ slot.off < 16 then hostAccess slot.size 64 true (fillSlot slot.req queue slot.off) s else s)

/-- The host's processor writes its own memory when it likes: any byte, any value (DESIGN CHOICE, log 50). -/
def hostOwn (s : State) : State :=
  let (n, s1) := s.draw
  s1.commit (byHost s1 0 false) (.host (Config.hostAddr n % 2 ^ 47)) 1 (Config.hostByte n).toNat 0

/-! ## The mailbox (R342) -/

/-- REGISTER_WRITE: a write to a BAR0 register. While busy the mailbox ignores writes; every other register is RO. -/
def writeRegister (off : Nat) (value : Word) (s : State) : State :=
  let m := s.host.mbox
  let put := fun (m : Mailbox) (s : State) => s.modHost (fun h => { h with mbox := m })
  if m.busy then s
  else if off = 0x1000 then put { m with cmd := value &&& 0xFF } s
  else if 0x1008 ≤ off ∧ off ≤ 0x1020 then
    put { m with args := (List.range 4).map (fun j => if 0x1008 + 8 * j = off then value else m.args.getD j 0) } s
  else if off = 0x1040 ∧ value = 1 then
    let (id, s1) := s.fresh
    put { m with busy := true, cur := some m.cmd.toNat, result := none, run := id, sup := none } s1
  else s

def execRegisterWrite (off : HostAcc) (value : Word) (s : State) : Host.Outcome State Fault Refusal :=
  .next (hostAccess off.size off.off (decide (off.off < 65536)) (writeRegister off.off value) s)

def Mailbox.arg (m : Mailbox) (n : Nat) : Word := m.args.getD n 0

/-- Command n has been started and its effect is still to take place. -/
def cmdPending (s : State) (n : Nat) : Bool := s.host.mbox.cur == some n && s.host.mbox.result.isNone

def cmdDone (s : State) (st : Nat) (r0 r1 : Word) : State :=
  s.modHost (fun h => { h with mbox := { h.mbox with result := some (st, r0, r1) } })
def cmdFail (s : State) (st : Nat) : State := cmdDone s st s.host.mbox.res0 s.host.mbox.res1

/-- A command that runs only in phase 2 (R342), with its effect. -/
def mailbox (n : Nat) (run : State → State) (s : State) : Host.Outcome State Fault Refusal :=
  if !cmdPending s n then .next s
  else if 4 ≤ n ∧ s.host.phase ≠ 2 then .next (cmdFail s 3)
  else .next (run s)

/-- MAILBOX_COMMAND_END: results, then `mstat`. A command that no rule knows ends with status 1, or 3 before phase 2. -/
def execMailboxCommandEnd (s : State) : Host.Outcome State Fault Refusal :=
  let m := s.host.mbox
  let endWith := fun (st : Nat) (r0 r1 : Word) => s.modHost (fun h => { h with
    mbox := { m with busy := false, status := st, count := (m.count + 1) % 2 ^ 48, res0 := r0, res1 := r1, cur := none, result := none, sup := none } })
  match m.cur, m.result with
  | some _, some (st, r0, r1) => .next (endWith st r0 r1)
  | some n, none =>
    if 1 ≤ n ∧ n ≤ 10 then .next s
    else .next (endWith (if s.host.phase = 2 then 1 else 3) m.res0 m.res1)
  | none, _ => .next s

/-- Command 1. -/
def execSetDescriptorTable (s : State) : Host.Outcome State Fault Refusal :=
  mailbox 1 (fun s =>
    let a := (s.host.mbox.arg 0).toNat
    if a % 65536 ≠ 0 ∨ hbmTop < a + 65536 then cmdFail s 2
    else if !s.disp.parts.isEmpty then cmdFail s 3
    else cmdFail (s.modHost (fun h => { h with table := some a })) 0) s

/-- Command 2. -/
def execSetEventRing (s : State) : Host.Outcome State Fault Refusal :=
  mailbox 2 (fun s =>
    let a := (s.host.mbox.arg 0).toNat
    let n := (s.host.mbox.arg 1).toNat
    if a % 4096 ≠ 0 ∨ n < 64 ∨ 2 ^ 20 < n ∨ 2 ^ Nat.log2 n ≠ n then cmdFail s 2
    else if s.host.table.isNone then cmdFail s 3
    else cmdFail (s.modHost (fun h => { h with ring := some (a, n, h.evSeq) })) 0) s

/-! ### Command 3: a supervisor gang -/

def supPacketOk (s : State) (p : List Word) (origin : Nat) : Option Word :=
  let cores := (gangCores origin p).map (fun (c, _, _) => c)
  if pkCount p = 1 ∧ pkOrdered p = false ∧ pkStrm p = false ∧ pkLock p = false ∧ isArray origin = true then
    packetCheck s p (fun c => cores.contains c || (isKerb c && s.kerbHolds c (pkTenant p))) (96 - coreCol origin) (128 - coreRow origin) cores
  else none

/-- The gang of command 3 is placed where it may be, once its run is ready (R158). -/
def placeSup (s : State) (r : Run) (origin : Nat) : State :=
  let p := r.packet
  let cores := (gangCores origin p).map (fun (c, _, _) => c)
  if cores.any (fun c => s.disp.parts.any (fun d => d.has c && d.tenant != pkTenant p)) then cmdFail s 3
  else if !cores.all (fun c => (s.core c).ctxs.all (fun (_, x) => x.state == .free) && coreFits s p c) then cmdFail s 4
  else if s.host.tele.powerHold || s.host.tele.tempHold || !r.ready then s
  else
    let (id, s2) := nextRunId s (pkTenant p)
    let q := { r with runId := id }
    match placeGang (s2.modDisp (fun d => { d with runs := d.runs ++ [q] })) q origin with
    | some s3 => cmdDone s3 0 (w64 id) s.host.mbox.res1
    | none => cores.foldl (stallFor (pkGens p) (.place r.uid)) s

def startSup (s : State) : State :=
  let origin := bits (s.host.mbox.arg 1) 13 0
  match s.host.mbox.sup with
  | some r => placeSup s r origin
  | none =>
    let a := (s.host.mbox.arg 0).toNat
    if s.host.table.isNone then cmdFail s 3
    else if a % 64 ≠ 0 ∨ hbmTop < a + 64 then cmdFail s 2
    else
      let p := Memory.readWords s.hbm a 8
      match supPacketOk s p origin with
      | none => cmdFail s 2
      | some hd =>
        let r : Run := { mkRun s.host.mbox.run 0 0 s.host.mbox.run p hd with sup := true, inStore := false }
        placeSup (s.modHost (fun h => { h with mbox := { h.mbox with sup := some r } })) r origin

/-- While a core of the rectangle must fold, the placement limits hold, or its dep word is empty, the command goes on (DESIGN CHOICE, log 11). -/
def execStartSupervisorGang (s : State) : Host.Outcome State Fault Refusal := mailbox 3 startSup s

/-! ### Commands 4 to 7: debug sessions (R81, R344) -/

def sessionOf (s : State) (n : Nat) : Option Nat :=
  let (t, o) := SMap.get s.host.sessions n (0, false)
  if o then some t else none

def execOpenDebugSession (s : State) : Host.Outcome State Fault Refusal :=
  mailbox 4 (fun s =>
    match (List.range 8).find? (fun n => (sessionOf s n).isNone) with
    | none => cmdFail s 4
    | some n =>
      cmdDone (s.modHost (fun h => { h with sessions := SMap.put h.sessions (0, false) n (bits (h.mbox.arg 0) 5 0, true) })) 0
        (w64 n) s.host.mbox.res1) s

def execCloseDebugSession (s : State) : Host.Outcome State Fault Refusal :=
  mailbox 5 (fun s =>
    let n := bits (s.host.mbox.arg 0) 2 0
    match sessionOf s n with
    | none => cmdFail s 3
    | some _ => cmdFail (s.modHost (fun h => { h with sessions := SMap.put h.sessions (0, false) n (0, false) })) 0) s

/-- The tenant of the live allocation of a core that carries a generation. -/
def genOwner (k : Core) (g : BitVec 16) : Option Nat :=
  if g = 0 then none
  else
    match k.ctxs.find? (fun (_, x) => x.state != .free && x.gen == g) with
    | some (_, x) => some x.tenant
    | none => (k.regions.find? (fun r => r.gen == g)).map (fun r => r.tenant)

structure DbgArg where
  session : Nat
  kind : Nat
  core : Nat
  slot : Nat
  index : Nat
  deriving DecidableEq, Repr

/-- The core of a pair that holds what a debug command names (R327). -/
def dbgCore (s : State) (a index : Word) : Nat :=
  let c := bits a 19 6
  if bits a 5 4 = 1 ∨ bits a 5 4 = 2 then s.leadAt c index.toNat else s.leadSlot c (bits a 25 20)

def dbgArg (s : State) : DbgArg :=
  let m := s.host.mbox
  let a := m.arg 0
  { session := bits a 2 0, kind := bits a 5 4, core := dbgCore s a (m.arg 1), slot := bits a 25 20, index := (m.arg 1).toNat }

/-- The arguments name something. -/
def dbgOk (s : State) (d : DbgArg) : Bool :=
  coreUsed d.core &&
  (match d.kind with
   | 0 => decide (d.slot < (s.core d.core).slots) && decide (d.index < (s.ctx d.core d.slot).wcount)
   | 3 => decide (d.slot < (s.core d.core).slots)
   | 2 => decide (d.index < lsSize d.core)
   | _ => localOk d.core d.index)

/-- `mres0` and `mres1` of a debug read by a session of tenant t. -/
def dbgRead (s : State) (t : Nat) (d : DbgArg) : Word × Word :=
  let k := s.core d.core
  match d.kind with
  | 0 =>
    let e := k.reg ((k.ctx d.slot).wbase + d.index)
    if genOwner k e.gen = some t then
      (e.val, w64 (e.cnt.toNat + (if e.inx then 128 else 0) + e.gen.toNat * 65536)) else (0, 0)
  | 3 => (if snapAllowed s t d.core then snapRead s t d.core d.slot else 0, 0)
  | n =>
    let g := k.stamp d.index
    if genOwner k g ≠ some t then (0, 0)
    else if n = 1 then
      (w64 (Memory.read k.ls d.index 8), w64 ((if k.full d.index then 256 else 0) + g.toNat * 65536))
    else (w64 g.toNat, 0)

def execDebugRead (s : State) : Host.Outcome State Fault Refusal :=
  mailbox 6 (fun s =>
    let d := dbgArg s
    match sessionOf s d.session with
    | none => cmdFail s 3
    | some t =>
      if !dbgOk s d then cmdFail s 2
      else let (a, b) := dbgRead s t d; cmdDone s 0 a b) s

/-- A debug write by the owner's session, stamped with the owner's generation; any other is discarded. -/
def dbgWrite (s : State) (t : Nat) (d : DbgArg) (v tags : Word) : State :=
  let k := s.core d.core
  match d.kind with
  | 0 =>
    let n := (k.ctx d.slot).wbase + d.index
    let e := k.reg n
    let e1 : RegEntry := { val := v, cnt := tags.setWidth 7, inx := tags.getLsbD 7, gen := e.gen }
    -- the entry at the window base is x0's, which no debug write changes (R50)
    if d.index ≠ 0 ∧ genOwner k e.gen = some t then s.modCore d.core (fun k => { k with regs := SMap.put k.regs RegEntry.reset n e1 })
    else s
  | 1 =>
    let g := k.stamp d.index
    if genOwner k g = some t then
      (s.record (byHost s 0 false) (.ls d.core d.index) 8 v.toNat g).modCore d.core (fun k => k.lsWriteFe g d.index v.toNat (tags.getLsbD 8))
    else s
  | _ => s

def execDebugWrite (s : State) : Host.Outcome State Fault Refusal :=
  mailbox 7 (fun s =>
    let d := dbgArg s
    match sessionOf s d.session with
    | none => cmdFail s 3
    | some t =>
      if !dbgOk s d || d.kind == 3 then cmdFail s 2
      else cmdFail (dbgWrite s t d (s.host.mbox.arg 2) (s.host.mbox.arg 3)) 0) s

/-! ### Commands 8 to 10: checkpoint, restore, resume (R345, R346) -/

/-- The path of a command: none for a link that is not there. -/
def tierPath (s : State) : Option (Option Nat × Word) :=
  let a := s.host.mbox.arg 0
  if a.getLsbD 0 then
    (if bits a 4 1 < 12 ∧ SMap.get s.host.linkUp (bits a 4 1) false = true then some (some (bits a 4 1), s.host.mbox.arg 1) else none)
  else some (none, s.host.mbox.arg 1)

/-- Step 1: every partition in force that is not out is switched out at one T. -/
def ckptBegin (s : State) : State :=
  let t := max (s.host.mbox.arg 2).toNat (s.tstamp + 4096)
  let ps := s.disp.parts.filter (fun p => !isOut s p.tenant && (switchOf s p.tenant).isNone)
  let mk (p : Part) : Switch :=
    { tenant := p.tenant, part := p, out := true, t := t, area := 0, core := 0, slot := 0, phase := 0, ckpt := true }
  let ws := ps.map mk
  let c : Ckpt := { t := t, stayOut := (s.host.mbox.arg 3).getLsbD 0, tenants := (ps.map (fun p => p.tenant)), headerDone := false, resumeAt := none }
  (s.modDisp (fun d => { d with switches := d.switches ++ ws })).modHost (fun h => { h with ckpt := some c })

/-- Offset and length of section k of an image (R346). -/
def Image.section (m : Image) : Nat → Nat × Nat
  | 1 => (65536, hbmTop)
  | 2 => (65536 + hbmTop, 4656 * 2 ^ 20)
  | _ => (65536 + hbmTop + 4656 * 2 ^ 20, m.len3)
def Image.length (m : Image) : Nat := (m.section 3).1 + m.len3

/-- Word n of the header: format, length, T, section entries. -/
def Image.headWord (m : Image) (n : Nat) : Nat :=
  match n with
  | 0 => 1 + 64 * 2 ^ 16 + m.code.toNat * 2 ^ 32
  | 1 => m.length
  | 2 => m.t
  | 3 => 3
  | _ =>
    let k := (n - 512) / 4 + 1
    if n < 512 ∨ 524 ≤ n then 0
    else match n % 4 with | 0 => k | 1 => (m.section k).1 | 2 => (m.section k).2 | _ => 0

/-- Byte j of the SRAM of a core: local store, weight macro, accumulators (R22). -/
def sramByte (c : Nat) (k : Core) (j : Nat) : Byte :=
  if j < lsSize c then Memory.byte k.ls j
  else if j < lsSize c + 98304 then Memory.byte k.banks (j - lsSize c)
  else let o := j - lsSize c - 98304
       ((accGet k (o / 4)).1).extractLsb' (8 * (o % 4)) 8

/-- Byte j of a node cache: words 1 to 7 of its lines in their places (R288); what stands at word 0 is the part's. -/
def nodeByte (y : Square) (free : Nat → Byte) (j : Nat) : Byte :=
  match y.nodes[j / 64]?, j % 64 / 8 with
  | some (_, _, l), w + 1 => (l.getD w 0).extractLsb' (8 * (j % 8)) 8
  | _, _ => free j

/-- Byte n of the second section: the holders in the order of R22, each in id order; the order within a share is the part's. -/
def Image.sram (m : Image) (n : Nat) : Byte :=
  let a := 376832
  let k := 786432
  let core := fun (c : Nat) => SMap.get m.cores c Core.reset
  if n < 12288 * a then sramByte (n / a) (core (n / a)) (Config.shareAt (n % a) % a)
  else
    let n1 := n - 12288 * a
    if n1 < 256 * k then sramByte (12288 + n1 / k) (core (12288 + n1 / k)) (Config.shareAt (n1 % k) % k)
    else
      let n2 := n1 - 256 * k
      nodeByte (SMap.get m.squares (n2 / 65536) Square.reset) (fun j => Config.imageByte m.num (n - n2 % 65536 + j)) (Config.shareAt (n2 % 65536) % 65536)

/-- The bytes from 65,536 on: HBM, SRAM, and the third section, whose layout is the part's. -/
def Image.body (m : Image) (n : Nat) : Byte :=
  if n < 65536 + hbmTop then Memory.byte m.hbm (n - 65536)
  else if n < (m.section 3).1 then m.sram (n - 65536 - hbmTop)
  else Config.imageByte m.num n

/-- n bytes from a. -/
def bytesOf (f : Nat → Byte) (a n : Nat) : List Byte := (List.range n).map (fun i => f (a + i))

/-- The header but for the signature: its words, the digest of what follows it, and the identity key. -/
def Image.head (m : Image) (n : Nat) : Byte :=
  if 32 ≤ n ∧ n < 64 then Config.sha3 (bytesOf m.body 65536 (m.length - 65536)) (n - 32)
  else if 64 ≤ n ∧ n < 1376 then Config.identityKey (n - 64)
  else BitVec.ofNat 8 (m.headWord (n / 8) / 256 ^ (n % 8))

/-- Byte n of an image (R346). -/
def Image.byte (m : Image) (n : Nat) : Byte :=
  if 65536 ≤ n then m.body n
  else if 1376 ≤ n ∧ n < 3796 then Config.signature (bytesOf m.head 0 1376) (n - 1376)
  else m.head n

/-- The first n bytes of an image are written to host memory; over a link they leave the device. -/
def writeImage (m : Image) (s : State) : Nat → State
  | 0 => s
  | n + 1 => if m.peer.isSome then s else (writeImage m s n).writeAt (.host (m.base.toNat + n)) 1 (m.byte n).toNat 0

/-- The first n bytes of an image are those that f gives. -/
def Image.holds (m : Image) (f : Nat → Byte) : Nat → Bool
  | 0 => true
  | n + 1 => f n == m.byte n && m.holds f n

def Place.isHost : Place → Bool
  | .host _ => true
  | _ => false

def Place.inHost (lo n : Nat) : Place → Bool
  | .host a => decide (lo ≤ a) && decide (a < lo + n)
  | _ => false

/-- Steps 2 and 3, once every partition is out: the image, and its header. What its bytes of sections 2 and 3 stand for is kept beside them. -/
def ckptWrite (s : State) (c : Ckpt) (path : Option Nat × Word) : State :=
  let (n, s1) := s.draw
  let im : Image :=
    { peer := path.1, base := path.2, num := n, len3 := (Config.freeWord n).toNat % 2 ^ 40, code := s.host.code, t := c.t
      hbm := s.hbm, cores := s.cores, squares := s.squares, disp := s.disp }
  let at_ := if c.stayOut then none else some (s.tstamp + 4096)
  let s2 := s1.modHost (fun h => { h with images := im :: h.images, ckpt := some { c with headerDone := true, resumeAt := at_ } })
  let s3 := if im.peer.isSome then s2 else s2.forget (Place.inHost im.base.toNat im.length)
  cmdDone (writeImage im s3 im.length) 0 (w64 im.length) s.host.mbox.res1

/-- CHECKPOINT: it begins when no other checkpoint or restore and no switch in is in progress, and ends when all are out. -/
def execCheckpoint (s : State) : Host.Outcome State Fault Refusal :=
  mailbox 8 (fun s =>
    match tierPath s, s.host.ckpt with
    | none, _ => cmdFail s 2
    | some _, none => if s.disp.switches.any (fun w => !w.out) then s else ckptBegin s
    | some path, some c =>
      if c.headerDone then cmdFail s 3
      else if s.disp.switches.isEmpty then ckptWrite s c path
      else s) s

/-- A partition that has never been started. -/
def neverStarted (s : State) (t : Nat) : Bool :=
  s.disp.runs.all (fun r => r.tenant != t) && s.disp.gangs.all (fun g => g.tenant != t) &&
  s.allCtxs.all (fun (c, _, x) => isKerb c || x.tenant != t)

/-- A little-endian word of an image. -/
def imageWord (f : Nat → Byte) (n : Nat) : Nat := (bytesAt f n).toNat

/-- The key of an image is this device's, or its digest is one that the blob in force lists. -/
def keyGood (s : State) (key : List Byte) : Bool :=
  key == bytesOf Config.identityKey 0 1312 ||
  s.host.sources.contains (BitVec.ofNat 256 ((bytesOf (Config.sha3 key) 0 32).foldr (fun b v => b.toNat + 256 * v) 0))

/-- This key signed these bytes. -/
def signedBy (key msg sig : List Byte) : Bool :=
  (key == bytesOf Config.identityKey 0 1312 && sig == bytesOf (Config.signature msg) 0 2420) || Config.verifies key msg sig

/-- The first pass of a restore over the bytes of an image: key, signature, digest (R345, R346). -/
def imageGood (s : State) (f : Nat → Byte) : Bool :=
  let key := bytesOf f 64 1312
  keyGood s key && signedBy key (bytesOf f 0 1376) (bytesOf f 1376 2420) &&
  bytesOf f 32 32 == bytesOf (Config.sha3 (bytesOf f 65536 (imageWord f 8 - 65536))) 0 32

/-- What the cores, squares and dispatcher of an image from elsewhere are: its third section is the part's (DESIGN CHOICE, log 29). -/
opaque imageState : List Byte → Option Image

/-- An image that this model did not see written: header and HBM as its bytes have them, the rest what `imageState` says, in canonical form. -/
def foreignImage (f : Nat → Byte) : Image :=
  let l := imageWord f 8
  let m := ((imageState (bytesOf f 0 l)).filter Image.canonical).getD
    { peer := none, base := 0, num := 0, len3 := 0, code := 0, t := 0, hbm := [], cores := [], squares := [], disp := Disp.reset }
  { m with
    len3 := l - (m.section 3).1, code := BitVec.ofNat 2 (imageWord f 0 / 2 ^ 32), t := imageWord f 16
    hbm := (List.range hbmTop).foldl (fun h a => Memory.put h a (f (65536 + a))) [] }

/-- The image that the command's path reaches, where it passes its check. In host memory its bytes say which it is; over a link the bytes are the peer's:
`ok` says that they pass, and which image they are is a free choice between those written before and one from elsewhere (DESIGN CHOICE, log 29). -/
def imageAt (s : State) (n : Nat) (ok : Bool) (path : Option Nat × Word) : Option Image :=
  match path.1 with
  | none =>
    let f := fun (a : Nat) => Memory.byte s.hostMem (path.2.toNat + a)
    if imageGood s f then some ((s.host.images.find? (fun m => m.holds f m.length)).getD (foreignImage f)) else none
  | some l =>
    let f := fun (a : Nat) => (Config.peerWord n l (path.2.toNat + a)).setWidth 8
    if ok then some ((s.host.images[Config.freePick n]?).getD (foreignImage f)) else none

/-- The second pass: the state of the image is written. Pages whose key is destroyed go on reading 0 (R338). -/
def restoreImage (s : State) (im : Image) : State :=
  let stay := (s.host.mbox.arg 3).getLsbD 0
  let c : Ckpt := { t := im.t, stayOut := stay, tenants := (im.disp.saved.filter (fun v => v.ckpt)).map (fun v => v.tenant),
                    headerDone := true, resumeAt := (if stay then none else some (s.tstamp + 4096)) }
  { s.forget (fun p => !p.isHost) with
    hbm := im.hbm.filter (fun (a, _) => !s.host.dead.contains (a / 65536)), cores := im.cores, squares := im.squares, disp := im.disp
    host := { s.host with ckpt := some c } }

/-- RESTORE. -/
def execRestore (ok : Bool) (s : State) : Host.Outcome State Fault Refusal :=
  mailbox 9 (fun s =>
    match tierPath s with
    | none => cmdFail s 2
    | some path =>
      if !(s.disp.parts.all (fun p => isOut s p.tenant || neverStarted s p.tenant)) || !s.disp.switches.isEmpty then cmdFail s 3
      else
        let (n, s1) := s.draw
        match imageAt s1 n ok path with
        | some im => cmdDone (restoreImage s1 im) 0 (w64 im.length) s.host.mbox.res1
        | none => cmdFail (logEvent s1 10 0 0 0 0) 2) s

/-- RESUME: the resume tick of the partitions held out is fixed. -/
def execResume (s : State) : Host.Outcome State Fault Refusal :=
  mailbox 10 (fun s =>
    match s.host.ckpt with
    | some c =>
      if c.headerDone && c.stayOut && c.resumeAt.isNone then
        cmdFail (s.modHost (fun h => { h with ckpt := some { c with resumeAt := some s.tstamp } })) 0
      else cmdFail s 3
    | none => cmdFail s 3) s

/-- One partition comes back onto its cores and resumes; none where generations are lacking. -/
def resumeSaved (s : State) (t : Nat) : Option State :=
  match s.disp.saved.find? (fun v => v.tenant == t) with
  | none => some s
  | some v =>
    match bringBack s v with
    | .ok s1 => some (v.cores.foldl (fun s ((c, _) : Nat × Core) => s.bump c 12) (resumePart s1 t))
    | .error _ => none

def resumeAll : List Nat → State → Option State
  | [], s => some s
  | t :: l, s => (resumeSaved s t).bind (resumeAll l)

/-- The cores of these partitions that lack generations fold (R78). -/
def foldSaved (ts : List Nat) (s : State) : State :=
  (s.disp.saved.filter (fun v => ts.contains v.tenant)).foldl (fun s v =>
    v.cores.foldl (fun s ((c, sv) : Nat × Core) => stallFor (savedGens sv).length (.switch v.tenant) s c) s) s

/-- CHECKPOINT_RESUME: at the resume tick, together. A core that must fold does so first. -/
def execCheckpointResume (s : State) : Host.Outcome State Fault Refusal :=
  match s.host.ckpt with
  | some c =>
    match c.resumeAt with
    | some t =>
      if c.headerDone && decide (t ≤ s.tstamp) then
        match resumeAll c.tenants s with
        | some s1 => .next (s1.modHost (fun h => { h with ckpt := none }))
        | none => .next (foldSaved c.tenants s)
      else .next s
    | none => .next s
  | none => .next s

/-! ## The event ring (R343) -/

/-- Events in `tstamp` order, ties in core order. -/
def insertEvent (e : Event) : List Event → List Event
  | [] => [e]
  | f :: t => if e.time < f.time ∨ (e.time = f.time ∧ e.core < f.core) then e :: f :: t else f :: insertEvent e t

def writeEvent (s : State) (base cap first : Nat) (e : Event) : State :=
  let n := s.host.evSeq
  let a := base + 32 * ((n - first) % cap)
  let w2 := e.kind % 256 + e.tenant % 64 * 2 ^ 8 + e.core % 2 ^ 14 * 2 ^ 14 + e.slot % 64 * 2 ^ 28
  let put := fun (s : State) (j v : Nat) => s.commit { by_ := .disp } (.host (a + j)) 8 v 0
  let s1 := put (put (put (put s 0 n) 8 e.time) 16 w2) 24 e.detail.toNat
  { s1 with host := { s1.host with evSeq := n + 1 } }

/-- Events of ticks that are over are written, once there is a ring. -/
def flushEvents (s : State) : State :=
  match s.host.ring with
  | none => s
  | some (base, cap, first) =>
    let due := (s.host.evQ.filter (fun e => decide (e.time < s.tstamp))).foldl (fun l e => insertEvent e l) []
    if due.isEmpty then s
    else due.foldl (fun s e => writeEvent s base cap first e)
      (s.modHost (fun h => { h with evQ := h.evQ.filter (fun e => !decide (e.time < s.tstamp)) }))

end Sys2Proof.Machine
end

