-- ==== Sys2Proof/Machine/Dispatch.lean ====
section
/-! DEFINITION. The one dispatch: each instruction to its meaning. -/

namespace Sys2Proof.Machine

def exec (i : Instr) (s : State) : Host.Outcome State Fault Refusal :=
  match i with
  | .add d a b => Sys2Proof.Machine.execAdd d a b s
  | .sub d a b => Sys2Proof.Machine.execSub d a b s
  | .mul d a b => Sys2Proof.Machine.execMul d a b s
  | .mulh d a b => Sys2Proof.Machine.execMulh d a b s
  | .mulhn d a b => Sys2Proof.Machine.execMulhn d a b s
  | .div d a b => Sys2Proof.Machine.execDiv d a b s
  | .divn d a b => Sys2Proof.Machine.execDivn d a b s
  | .rem d a b => Sys2Proof.Machine.execRem d a b s
  | .remn d a b => Sys2Proof.Machine.execRemn d a b s
  | .and d a b => Sys2Proof.Machine.execAnd d a b s
  | .or d a b => Sys2Proof.Machine.execOr d a b s
  | .xor d a b => Sys2Proof.Machine.execXor d a b s
  | .shl d a b => Sys2Proof.Machine.execShl d a b s
  | .shr d a b => Sys2Proof.Machine.execShr d a b s
  | .sra d a b => Sys2Proof.Machine.execSra d a b s
  | .min d a b => Sys2Proof.Machine.execMin d a b s
  | .max d a b => Sys2Proof.Machine.execMax d a b s
  | .minn d a b => Sys2Proof.Machine.execMinn d a b s
  | .maxn d a b => Sys2Proof.Machine.execMaxn d a b s
  | .slt d a b => Sys2Proof.Machine.execSlt d a b s
  | .sltn d a b => Sys2Proof.Machine.execSltn d a b s
  | .seq d a b => Sys2Proof.Machine.execSeq d a b s
  | .sel d a b => Sys2Proof.Machine.execSel d a b s
  | .clz d a => Sys2Proof.Machine.execClz d a s
  | .ctz d a => Sys2Proof.Machine.execCtz d a s
  | .pop d a => Sys2Proof.Machine.execPop d a s
  | .perm d a b => Sys2Proof.Machine.execPerm d a b s
  | .addi d a imm => Sys2Proof.Machine.execAddi d a imm s
  | .andi d a imm => Sys2Proof.Machine.execAndi d a imm s
  | .ori d a imm => Sys2Proof.Machine.execOri d a imm s
  | .xori d a imm => Sys2Proof.Machine.execXori d a imm s
  | .shli d a n => Sys2Proof.Machine.execShli d a n s
  | .shri d a n => Sys2Proof.Machine.execShri d a n s
  | .srai d a n => Sys2Proof.Machine.execSrai d a n s
  | .slti d a imm => Sys2Proof.Machine.execSlti d a imm s
  | .sltni d a imm => Sys2Proof.Machine.execSltni d a imm s
  | .lui d imm => Sys2Proof.Machine.execLui d imm s
  | .addpc d imm => Sys2Proof.Machine.execAddpc d imm s
  | .bfx d a lo wm1 => Sys2Proof.Machine.execBfx d a lo wm1 s
  | .bfi d a lo wm1 => Sys2Proof.Machine.execBfi d a lo wm1 s
  | .beq a b off => Sys2Proof.Machine.execBeq a b off s
  | .bne a b off => Sys2Proof.Machine.execBne a b off s
  | .blt a b off => Sys2Proof.Machine.execBlt a b off s
  | .bge a b off => Sys2Proof.Machine.execBge a b off s
  | .bltn a b off => Sys2Proof.Machine.execBltn a b off s
  | .bgen a b off => Sys2Proof.Machine.execBgen a b off s
  | .bsig a n off => Sys2Proof.Machine.execBsig a n off s
  | .b off => Sys2Proof.Machine.execB off s
  | .bl off => Sys2Proof.Machine.execBl off s
  | .jr d a imm => Sys2Proof.Machine.execJr d a imm s
  | .ld d a size ord imm => Sys2Proof.Machine.execLd d a size ord imm s
  | .ldGo d a size imm => Sys2Proof.Machine.execLdGo d a size imm s
  | .st x a size ord imm => Sys2Proof.Machine.execSt x a size ord imm s
  | .ldt d a imm => Sys2Proof.Machine.execLdt d a imm s
  | .stt x a imm => Sys2Proof.Machine.execStt x a imm s
  | .ldfe d a imm => Sys2Proof.Machine.execLdfe d a imm s
  | .ldff d a imm => Sys2Proof.Machine.execLdff d a imm s
  | .stfe x a imm => Sys2Proof.Machine.execStfe x a imm s
  | .sete a imm => Sys2Proof.Machine.execSete a imm s
  | .amo op scope d a b => Sys2Proof.Machine.execAmo op scope d a b s
  | .cas scope d a b => Sys2Proof.Machine.execCas scope d a b s
  | .fence kind scope => Sys2Proof.Machine.execFence kind scope s
  | .spc d a => Sys2Proof.Machine.execSpc d a s
  | .cvspLoc d a => Sys2Proof.Machine.execCvspLoc d a s
  | .cvspSq d a => Sys2Proof.Machine.execCvspSq d a s
  | .cvspRem d a => Sys2Proof.Machine.execCvspRem d a s
  | .fadd t d a b => Sys2Proof.Machine.execFadd t d a b s
  | .fsub t d a b => Sys2Proof.Machine.execFsub t d a b s
  | .fmul t d a b => Sys2Proof.Machine.execFmul t d a b s
  | .fma t d a b => Sys2Proof.Machine.execFma t d a b s
  | .fnma t d a b => Sys2Proof.Machine.execFnma t d a b s
  | .fdiv t d a b => Sys2Proof.Machine.execFdiv t d a b s
  | .fsqrt t d a => Sys2Proof.Machine.execFsqrt t d a s
  | .fmin t d a b => Sys2Proof.Machine.execFmin t d a b s
  | .fmax t d a b => Sys2Proof.Machine.execFmax t d a b s
  | .fneg t d a => Sys2Proof.Machine.execFneg t d a s
  | .fabs t d a => Sys2Proof.Machine.execFabs t d a s
  | .fcmp t d a b => Sys2Proof.Machine.execFcmp t d a b s
  | .fcls t d a => Sys2Proof.Machine.execFcls t d a s
  | .frcp t d a => Sys2Proof.Machine.execFrcp t d a s
  | .fex2 t d a => Sys2Proof.Machine.execFex2 t d a s
  | .flg2 t d a => Sys2Proof.Machine.execFlg2 t d a s
  | .fcvt dst src rnd d a => Sys2Proof.Machine.execFcvt dst src rnd d a s
  | .fcvi dst src rnd d a => Sys2Proof.Machine.execFcvi dst src rnd d a s
  | .icvf dst src rnd d a => Sys2Proof.Machine.execIcvf dst src rnd d a s
  | .sigr d a => Sys2Proof.Machine.execSigr d a s
  | .sigw d a n => Sys2Proof.Machine.execSigw d a n s
  | .qblkI8 d a b => Sys2Proof.Machine.execQblkI8 d a b s
  | .qblkI4 d a b => Sys2Proof.Machine.execQblkI4 d a b s
  | .fscl d a b => Sys2Proof.Machine.execFscl d a b s
  | .exit => Sys2Proof.Machine.execExit s
  | .yield => Sys2Proof.Machine.execYield s
  | .pass m => Sys2Proof.Machine.execPass m s
  | .take d => Sys2Proof.Machine.execTake d s
  | .go a => Sys2Proof.Machine.execGo a s
  | .susp a => Sys2Proof.Machine.execSusp a s
  | .spawn d a => Sys2Proof.Machine.execSpawn d a s
  | .spawnTry d a => Sys2Proof.Machine.execSpawnTry d a s
  | .spawnW d a => Sys2Proof.Machine.execSpawnW d a s
  | .ctxnew d a => Sys2Proof.Machine.execCtxnew d a s
  | .ctxkill a => Sys2Proof.Machine.execCtxkill a s
  | .hold a => Sys2Proof.Machine.execHold a s
  | .wait l s1 c m q => Sys2Proof.Machine.execWait l s1 c m q s
  | .bar n => Sys2Proof.Machine.execBar n s
  | .barw n => Sys2Proof.Machine.execBarw n s
  | .semp n => Sys2Proof.Machine.execSemp n s
  | .semv n => Sys2Proof.Machine.execSemv n s
  | .one => Sys2Proof.Machine.execOne s
  | .rep nm1 s1 lo span => Sys2Proof.Machine.execRep nm1 s1 lo span s
  | .sbind d a => Sys2Proof.Machine.execSbind d a s
  | .sfree d => Sys2Proof.Machine.execSfree d s
  | .gnewZero d a b => Sys2Proof.Machine.execGnewZero d a b s
  | .gnewTrap d a b => Sys2Proof.Machine.execGnewTrap d a b s
  | .gfree a => Sys2Proof.Machine.execGfree a s
  | .gchk d a => Sys2Proof.Machine.execGchk d a s
  | .cpy a b set => Sys2Proof.Machine.execCpy a b set s
  | .cpym a b set => Sys2Proof.Machine.execCpym a b set s
  | .deal a b set => Sys2Proof.Machine.execDeal a b set s
  | .bkt a b set => Sys2Proof.Machine.execBkt a b set s
  | .qfen scope a => Sys2Proof.Machine.execQfen scope a s
  | .mld a b => Sys2Proof.Machine.execMld a b s
  | .mmul a b => Sys2Proof.Machine.execMmul a b s
  | .mgrp a b => Sys2Proof.Machine.execMgrp a b s
  | .mzero => Sys2Proof.Machine.execMzero s
  | .mout a b => Sys2Proof.Machine.execMout a b s
  | .mxa a b => Sys2Proof.Machine.execMxa a b s
  | .rcat a b => Sys2Proof.Machine.execRcat a b s
  | .rsplit a b => Sys2Proof.Machine.execRsplit a b s
  | .rsplice a b => Sys2Proof.Machine.execRsplice a b s
  | .rfind a b => Sys2Proof.Machine.execRfind a b s
  | .rfold a b => Sys2Proof.Machine.execRfold a b s
  | .rpin a b => Sys2Proof.Machine.execRpin a b s
  | .rref a b => Sys2Proof.Machine.execRref a b s
  | .rdrop a b => Sys2Proof.Machine.execRdrop a b s
  | .smp a b => Sys2Proof.Machine.execSmp a b s
  | .smpw d => Sys2Proof.Machine.execSmpw d s
  | .erd e n d => Sys2Proof.Machine.execErd e n d s
  | .ewr e n a => Sys2Proof.Machine.execEwr e n a s
  | .nop => Sys2Proof.Machine.execNop s
  | .trap n => Sys2Proof.Machine.execTrap n s
  | .eret => Sys2Proof.Machine.execEret s
  | .dbg n => Sys2Proof.Machine.execDbg n s
  | .idle => Sys2Proof.Machine.execIdle s
  | .csrr c d => Sys2Proof.Machine.execCsrr c d s
  | .csrw c a => Sys2Proof.Machine.execCsrw c a s
  | .csrs c a => Sys2Proof.Machine.execCsrs c a s
  | .csrc c a => Sys2Proof.Machine.execCsrc c a s
  | .cfgctx d a => Sys2Proof.Machine.execCfgctx d a s
  | .tlbi a => Sys2Proof.Machine.execTlbi a s
  | .gscrub => Sys2Proof.Machine.execGscrub s
  | .replayWordIssue core slot => Sys2Proof.Machine.execReplayWordIssue core slot s
  | .oneResultDelivery idx => Sys2Proof.Machine.execOneResultDelivery idx s
  | .loadReply core slot idx => Sys2Proof.Machine.execLoadReply core slot idx s
  | .storeBufferCommit core idx => Sys2Proof.Machine.execStoreBufferCommit core idx s
  | .postedStoreAccept core idx answer => Sys2Proof.Machine.execPostedStoreAccept core idx answer s
  | .portWordArrival idx => Sys2Proof.Machine.execPortWordArrival idx s
  | .translationWalkEnd idx => Sys2Proof.Machine.execTranslationWalkEnd idx s
  | .tlbiRemovalComplete idx => Sys2Proof.Machine.execTlbiRemovalComplete idx s
  | .foldEnd core => Sys2Proof.Machine.execFoldEnd core s
  | .gscrubEnd core => Sys2Proof.Machine.execGscrubEnd core s
  | .copyCommandStart core slot => Sys2Proof.Machine.execCopyCommandStart core slot s
  | .copyCommandComplete core slot => Sys2Proof.Machine.execCopyCommandComplete core slot s
  | .qfenComplete core slot => Sys2Proof.Machine.execQfenComplete core slot s
  | .matrixCommandStart core => Sys2Proof.Machine.execMatrixCommandStart core s
  | .matrixCommandComplete core => Sys2Proof.Machine.execMatrixCommandComplete core s
  | .ropeCommandStart sq => Sys2Proof.Machine.execRopeCommandStart sq s
  | .ropeCommandComplete sq idx => Sys2Proof.Machine.execRopeCommandComplete sq idx s
  | .limboRelease sq idx => Sys2Proof.Machine.execLimboRelease sq idx s
  | .contextDrainEnd core slot => Sys2Proof.Machine.execContextDrainEnd core slot s
  | .recordArrival idx => Sys2Proof.Machine.execRecordArrival idx s
  | .landing core => Sys2Proof.Machine.execLanding core s
  | .holdRecordSend core idx => Sys2Proof.Machine.execHoldRecordSend core idx s
  | .goDeliveryRetry core slot => Sys2Proof.Machine.execGoDeliveryRetry core slot s
  | .holdDeliveryRetry core idx => Sys2Proof.Machine.execHoldDeliveryRetry core idx s
  | .landingRingRedelivery tenant => Sys2Proof.Machine.execLandingRingRedelivery tenant s
  | .sampleInjectionArrival idx => Sys2Proof.Machine.execSampleInjectionArrival idx s
  | .partitionScan => Sys2Proof.Machine.execPartitionScan s
  | .launchSlotTake queue => Sys2Proof.Machine.execLaunchSlotTake queue s
  | .launchRingReturn tenant => Sys2Proof.Machine.execLaunchRingReturn tenant s
  | .depWordPoll run => Sys2Proof.Machine.execDepWordPoll run s
  | .dispatchDecision tenant => Sys2Proof.Machine.execDispatchDecision tenant s
  | .runBlock run => Sys2Proof.Machine.execRunBlock run s
  | .gangFillEnd gang => Sys2Proof.Machine.execGangFillEnd gang s
  | .gangRetire gang => Sys2Proof.Machine.execGangRetire gang s
  | .runComplete run => Sys2Proof.Machine.execRunComplete run s
  | .doneWordRetry run => Sys2Proof.Machine.execDoneWordRetry run s
  | .streamEntryReread core slot => Sys2Proof.Machine.execStreamEntryReread core slot s
  | .allAsleepSample tenant => Sys2Proof.Machine.execAllAsleepSample tenant s
  | .switchRecordPoll => Sys2Proof.Machine.execSwitchRecordPoll s
  | .switchOutStop tenant => Sys2Proof.Machine.execSwitchOutStop tenant s
  | .switchOutDrainEnd tenant => Sys2Proof.Machine.execSwitchOutDrainEnd tenant s
  | .switchOutDone tenant => Sys2Proof.Machine.execSwitchOutDone tenant s
  | .switchInResume tenant => Sys2Proof.Machine.execSwitchInResume tenant s
  | .lockstepForcedCompare core => Sys2Proof.Machine.execLockstepForcedCompare core s
  | .softError site correctable => Sys2Proof.Machine.execSoftError site correctable s
  | .deviceReset => Sys2Proof.Machine.execDeviceReset s
  | .boot imageOk blobOk fieldsOk blob => Sys2Proof.Machine.execBoot imageOk blobOk fieldsOk blob s
  | .linkDown link => Sys2Proof.Machine.execLinkDown link s
  | .linkUp link => Sys2Proof.Machine.execLinkUp link s
  | .tdispStateChange tenant new pages => Sys2Proof.Machine.execTdispStateChange tenant new pages s
  | .powerLimitHold mW => Sys2Proof.Machine.execPowerLimitHold mW s
  | .temperatureHigh die temp => Sys2Proof.Machine.execTemperatureHigh die temp s
  | .temperatureHalt die temp => Sys2Proof.Machine.execTemperatureHalt die temp s
  | .peerAccessArrival link tenant acc => Sys2Proof.Machine.execPeerAccessArrival link tenant acc s
  | .hostLocalWrite core off value => Sys2Proof.Machine.execHostLocalWrite core off value s
  | .hostFillAliasWrite core off value => Sys2Proof.Machine.execHostFillAliasWrite core off value s
  | .hostHbmWrite addr value => Sys2Proof.Machine.execHostHbmWrite addr value s
  | .hostRead bar off => Sys2Proof.Machine.execHostRead bar off s
  | .launchSlotWrite queue slot off value => Sys2Proof.Machine.execLaunchSlotWrite queue slot off value s
  | .launchSlotFull queue slot => Sys2Proof.Machine.execLaunchSlotFull queue slot s
  | .registerWrite off value => Sys2Proof.Machine.execRegisterWrite off value s
  | .setDescriptorTable => Sys2Proof.Machine.execSetDescriptorTable s
  | .setEventRing => Sys2Proof.Machine.execSetEventRing s
  | .startSupervisorGang => Sys2Proof.Machine.execStartSupervisorGang s
  | .openDebugSession => Sys2Proof.Machine.execOpenDebugSession s
  | .closeDebugSession => Sys2Proof.Machine.execCloseDebugSession s
  | .debugRead => Sys2Proof.Machine.execDebugRead s
  | .debugWrite => Sys2Proof.Machine.execDebugWrite s
  | .checkpoint => Sys2Proof.Machine.execCheckpoint s
  | .restore ok => Sys2Proof.Machine.execRestore ok s
  | .resume => Sys2Proof.Machine.execResume s
  | .checkpointResume => Sys2Proof.Machine.execCheckpointResume s
  | .issueRefusalHolder w => Sys2Proof.Machine.execIssueRefusalHolder w s
  | .takeAnswer idx => Sys2Proof.Machine.execTakeAnswer idx s
  | .mailboxCommandEnd => Sys2Proof.Machine.execMailboxCommandEnd s
  | .switchInRestoreEnd tenant ok => Sys2Proof.Machine.execSwitchInRestoreEnd tenant ok s
  | .powerLimitRelease => Sys2Proof.Machine.execPowerLimitRelease s
  | .temperatureHoldRelease die temp => Sys2Proof.Machine.execTemperatureHoldRelease die temp s

end Sys2Proof.Machine
end

