-- ==== Sys2Proof/Machine/Sched.lean ====
section
/-! DEFINITION. Which move is next, and what follows every move: wake conditions (R185), issue and fetch (R182 to R184, R357), the
moves that are possible, the acts that fall at fixed cycles (R7), and the passing of time (R452; DESIGN CHOICE, log 1). -/

namespace Sys2Proof.Machine

/-! ## Wake conditions (R185) -/

def noLoad (x : Ctx) (r : Nat) (smp : Bool) : Bool :=
  x.loads.all (fun l => l.rd != r || (match l.kind with | .smpw _ _ _ _ => !smp | _ => smp))

/-- The context's wait is over. A wait that an event ends (a walk, a `tlbi`, a scrub pass, a delivery, a `semv`) is never over by
itself. A bar waits for every earlier access as well, being a release (R358). -/
def condHolds (s : State) (c i : Nat) (x : Ctx) (w : WaitCond) : Bool :=
  let k := s.core c
  match w with
  | .reg r => noLoad x r false
  | .replays => !x.replaying
  | .fill r => x.fill.all (fun p => p.1 != r)
  | .electRoom =>
    match x.gang with
    | some g => decide (((s.square (serveSquare c)).elections.filter (fun el => el.gang == g && el.rank == x.rank)).length < 4)
    | none => true
  | .performed => allPerformed k x x.seq
  | .acquires n => acquiresDone x n
  | .clear pl n => !sameOpen k x pl n
  | .range off len => !rangeBusy s c x off len
  | .clearOfReplays pl n => !replayMeets s c x pl n
  | .fe d off full => (s.core d).seenFull ((s.core d).gov x.gen off).1 off == full && !claimed s c i d off full
  | .portRx n => !(SMap.get x.rxq n []).isEmpty
  | .portTx => !sendFull s c
  | .counters l t q m r => x.atMost l t q m r
  | .room cl => decide (x.cnt cl < 63)
  | .journal n => decide (k.journal.length + n ≤ 64)
  | .drained => x.drained
  | .sampled r => noLoad x r true
  | .bar n => (match x.gang with | some g => !barBlocked s x g n && allPerformed k x x.seq | none => true)
  | .barw n =>
    match x.gang.bind s.gang? with
    | some g => !before (g.bar n).done (SMap.get x.arr n 0)
    | none => true
  | .carry run item slot =>
    match s.run? run with
    | some r => (r.slot? item slot).isSome || r.abortedItems.contains item
    | none => true
  | .stream run => (match s.run? run with | some r => r.snap.isSome | none => true)
  | .launch => (match spq s x.tenant with | some q => launchRoom s x.tenant q | none => true)
  | .hold d => decide ((s.core d).hold.length < 32)
  | .holdRegion lo hi => k.hold.all (fun h => !(decide (lo ≤ h.off) && decide (h.off ≤ hi)))
  | .board lo hi wr => !boardMeets k lo hi wr
  | .boardFree n => decide (k.board.length + n ≤ 16)
  | .fold => mayTake s c (.ctx i x.uid x.pc)
  | .never | .sem _ | .walk _ | .tlbi _ | .delivery | .scrub => false

/-- A wait of a parked context: where, its place in the order of parking, and whether a body word waits. -/
structure Parked where
  core : Nat
  slot : Nat
  seq : Nat
  body : Bool
  deriving DecidableEq, Repr

/-- Waits in the order of parking. -/
def insertParked (e : Parked) : List Parked → List Parked
  | [] => [e]
  | f :: t => if e.seq < f.seq then e :: f :: t else f :: insertParked e t

def parkedCtxs (s : State) : List Parked :=
  s.allCtxs.foldl (fun l ((c, i, x) : Nat × Nat × Ctx) =>
    if x.state = .parked then
      let main := match x.wait with | some w => insertParked ⟨c, i, w.seq, false⟩ l | none => l
      match x.bwait with | some w => insertParked ⟨c, i, w.seq, true⟩ main | none => main
    else l) []

/-- A wait that is over ends: that of a body word lets the engine go on, and the context with it unless its main stream waits too (R261). -/
def tryWake (s : State) (p : Parked) : State :=
  let x := s.ctx p.core p.slot
  match if x.state = .parked then (if p.body then x.bwait else x.wait) else none with
  | some w =>
    if !condHolds s p.core p.slot x w.cond then s
    else if p.body then s.wakeBody p.core p.slot
    else if x.bwait.isSome then s.endWait p.core p.slot
    else s.wake p.core p.slot
  | none => s

def wakeAll (s : State) : State := (parkedCtxs s).foldl tryWake s

/-! ## Issue (R182 to R184) -/

/-- On a lockstep core nothing issues while the log is full (R328). -/
def logRoom (k : Core) : Bool := match k.lock with | some p => decide (p.log.length < k.lim) | none => true

/-- The main stream waits for the end of a body that an `eret` has resumed (R317). -/
def Ctx.afterBody (x : Ctx) : Bool := match x.body with | some b => b.resumed && !b.stopped | none => false

/-- A context that may issue: ready, not issued in the previous 7 cycles (R182), not skipped after a `yield`, and neither holding a trap until its replays
complete nor behind a resumed body. -/
def mayIssue (s : State) (k : Core) (x : Ctx) : Bool :=
  x.state == .ready && (match x.lastIssue with | some t => decide (t + 8 ≤ s.cycle) | none => true) && x.skip.isEmpty && x.mtrap.isNone && !x.afterBody &&
  !halted s x.tenant && logRoom k

/-- The core has issued in this cycle. -/
def hasIssued (s : State) (k : Core) : Bool := match k.issued with | some (t, _) => t == s.cycle | none => false

/-- The first eligible context of the core's rotation, in a cycle in which the core has not issued. -/
def issuer (s : State) (c : Nat) : Option Nat :=
  let k := s.core c
  if hasIssued s k then none else k.rot.find? (fun i => mayIssue s k (k.ctx i))

/-- The word of the context that issues is fetched; one that decodes to nothing is refused at issue (R105). -/
def fetch (s : State) : Except Stop (Instr × State) :=
  let e := envOf s 0
  match fetchWord e.pc e s with
  | .error r => .error r
  | .ok (w, s1) =>
    match decode w with
    | .ok i => .ok (i, s1)
    | .error _ => .ok (.issueRefusalHolder w, s1)

/-! ## Fill (R64) -/

/-- One register of a context's image is written. -/
def fillReg (s : State) (c i : Nat) : State :=
  let x := s.ctx c i
  match x.fill with
  | [] => s
  | (f, v) :: t => (s.modCtx c i (fun x => { x with fill := t })).modCore c (fun k => k.writeReg x f v)

/-! ## The moves that are possible -/

/-- Rows of the table that are events, not instructions. -/
def isEvent (i : Instr) : Bool := (encode i).isNone

/-- What comes from outside the cores and engines: the host, the links, soft errors (one that an accepted store meets among them), the
module. -/
def isInput : Instr → Bool
  | .softError _ _ | .deviceReset | .boot _ _ _ _ | .linkDown _ | .linkUp _ | .tdispStateChange _ _ _
  | .powerLimitHold _ | .temperatureHigh _ _ | .temperatureHalt _ _ | .peerAccessArrival _ _ _ | .hostLocalWrite _ _ _
  | .hostFillAliasWrite _ _ _ | .hostHbmWrite _ _ | .hostRead _ _ | .launchSlotWrite _ _ _ _ | .launchSlotFull _ _
  | .registerWrite _ _ | .powerLimitRelease | .temperatureHoldRelease _ _ => true
  | .postedStoreAccept _ _ a => a == 3
  | _ => false

/-- The engines of a core work for the context: not for a halted tenant's, but for one on a kerb core, which comes to an instruction boundary with its
replays and commands done (R324; DEDUCED, log 41). -/
def served (s : State) (c : Nat) (x : Ctx) : Bool := !halted s x.tenant || isKerb c

/-- What is on its way to a context, and the ends of its commands. -/
def ctxMoves (s : State) (c i : Nat) (x : Ctx) : List Turn :=
  (List.range x.loads.length).map (fun n => Turn.event (.loadReply c i n)) ++
  (match x.copyQ with
   | [] => []
   | q :: _ =>
     if !q.started then (if served s c x then [Turn.event (.copyCommandStart c i)] else [])
     else if q.cmd = 4 then [.event (.qfenComplete c i)]
     else if q.finished then [.event (.copyCommandComplete c i)] else []) ++
  (if x.fill.isEmpty then [] else [.fillReg c i]) ++
  (if x.state == .draining then [.event (.contextDrainEnd c i)] else [])

/-- Round-robin: the first of the slots that busy names, from the turn on. -/
def nextSlot (live : List (Nat × Ctx)) (turn : Nat) (busy : Ctx → Bool) : Option Nat :=
  let l := (live.filter (fun (_, x) => busy x)).map (fun (i, _) => i)
  (l.find? (fun i => decide (turn ≤ i))).or l.head?

/-- The context that the repetition engine serves next, and the one whose copy command moves a unit (R261, R249). -/
def nextReplay (s : State) (c : Nat) (k : Core) : Option Nat :=
  if logRoom k then nextSlot k.ctxs k.repTurn (fun x => bodyBusy x && served s c x) else none
def nextCopy (s : State) (c : Nat) (k : Core) : Option Nat := nextSlot k.ctxs k.cpyTurn (fun x => copyBusy x && (served s c x || copyHolds x))

/-- The matrix engine may Start the command that is next. -/
def matMayStart (s : State) (k : Core) : Bool :=
  match nextMat k with
  | some i => !halted s (k.ctx i).tenant
  | none => false

/-- What a destination may answer of itself (R319): a peer may refuse, the host port may fail; an ECC error comes from outside. -/
def answers : Place → List Nat
  | .peer _ _ => [0, 2]
  | .host _ => [0, 5]
  | .ls _ _ | .hbm _ => [0]

def coreMoves (s : State) (c : Nat) (k : Core) : List Turn :=
  let live := k.ctxs.filter (fun (_, x) => x.state != .free)
  live.flatMap (fun (i, x) => ctxMoves s c i x) ++
  (if (issuer s c).isSome then [.issue c] else []) ++
  (nextReplay s c k).toList.map (fun i => Turn.event (.replayWordIssue c i)) ++ (nextCopy s c k).toList.map (fun i => Turn.copyUnit c i) ++
  (List.range k.storeBuf.length).map (fun n => Turn.event (.storeBufferCommit c n)) ++
  (k.journal.mapIdx (fun n e => (answers e.place).map (fun a => Turn.event (.postedStoreAccept c n a)))).flatten ++
  ((List.range k.hold.length).filter (fun n => !heldBefore s c n)).map (fun n => Turn.event (.holdRecordSend c n)) ++
  (if k.landq.isEmpty then [] else [.event (.landing c)]) ++
  (if k.fold.isEmpty then [] else [.event (.foldEnd c), .event (.gscrubEnd c)]) ++
  (if matMayStart s k then [.event (.matrixCommandStart c)] else []) ++
  (if k.matCur.isSome then [.event (.matrixCommandComplete c)] else []) ++
  (if k.lock.isSome then [.event (.lockstepForcedCompare c)] else [])

/-- A round whose elected member belongs to a halted tenant stays as it is. -/
def roundHalted (s : State) (el : Election) : Bool := (s.gang? el.gang).any (fun g => halted s g.tenant)

def squareMoves (s : State) (q : Nat) (y : Square) : List Turn :=
  (if y.ropeQ.isEmpty then [] else [.event (.ropeCommandStart q)]) ++
  (List.range y.ropeQ.length).map (fun n => Turn.event (.ropeCommandComplete q n)) ++
  (List.range y.limbo.length).map (fun n => Turn.event (.limboRelease q n)) ++
  (y.elections.mapIdx (fun n el => (n, el))).filterMap (fun (n, el) => if roundHalted s el then none else some (Turn.elected q n))

def meshMoves (s : State) : List Turn :=
  (List.range s.gives.length).map (fun n => Turn.event (.oneResultDelivery n)) ++
  (List.range s.ports.length).map (fun n => Turn.event (.portWordArrival n)) ++
  (List.range s.walks.length).map (fun n => Turn.event (.translationWalkEnd n)) ++
  (List.range s.tlbiOps.length).map (fun n => Turn.event (.tlbiRemovalComplete n)) ++
  (List.range s.ships.length).map (fun n => Turn.event (.recordArrival n)) ++
  (List.range s.smps.length).map (fun n => Turn.event (.sampleInjectionArrival n)) ++
  (List.range s.takes.length).map (fun n => Turn.event (.takeAnswer n))

def dispMoves (s : State) : List Turn :=
  s.disp.parts.flatMap (fun p =>
    (if p.word 5 = 0 then [] else [Turn.event (.launchRingReturn p.tenant)]) ++
    (if p.word 3 = 0 then [] else [Turn.event (.landingRingRedelivery p.tenant)])) ++
  (s.disp.slots.filter (fun (_, l) => l.full)).map (fun (n, _) => Turn.event (.launchSlotTake (n / 16))) ++
  s.disp.runs.flatMap (fun r =>
    (if !r.blocked && decide (4096 ≤ r.fails) then [Turn.event (.runBlock r.uid)] else []) ++
    (if runEnded s r then [.event (.runComplete r.uid)] else [])) ++
  s.disp.gangs.map (fun g => Turn.event (if g.filling then .gangFillEnd g.uid else .gangRetire g.uid)) ++
  s.disp.switches.flatMap (fun w => [Turn.event (.switchOutStop w.tenant), .event (.switchOutDrainEnd w.tenant),
    .event (.switchOutDone w.tenant), .event (.switchInRestoreEnd w.tenant true), .event (.switchInRestoreEnd w.tenant false),
    .event (.switchInResume w.tenant)])

/-- The mailbox command in progress, or its end (R342). -/
def mailboxMove (m : Mailbox) : List Turn :=
  match m.cur with
  | none => []
  | some n =>
    Turn.event .mailboxCommandEnd ::
    (match n with
     | 1 => [.event .setDescriptorTable] | 2 => [.event .setEventRing] | 3 => [.event .startSupervisorGang]
     | 4 => [.event .openDebugSession] | 5 => [.event .closeDebugSession] | 6 => [.event .debugRead] | 7 => [.event .debugWrite]
     | 8 => [.event .checkpoint] | 9 => [.event (.restore true), .event (.restore false)] | 10 => [.event .resume] | _ => [])

/-- Every move that may come next; one whose time has not come changes nothing. -/
def moves (s : State) : List Turn :=
  s.cores.flatMap (fun (c, k) => coreMoves s c k) ++ s.squares.flatMap (fun (q, y) => squareMoves s q y) ++ meshMoves s ++ dispMoves s ++
  mailboxMove s.host.mbox ++ (if s.host.ckpt.isSome then [.event .checkpointResume] else []) ++ [.hostOwn, .i3c]

/-- The next move, and whether time passes with it. A forced turn comes first, then the acts of the cycle, then one of the possible
moves, the next input, or nothing, by free choice. -/
def nextTurn (s : State) : Option Turn × Bool × State :=
  match s.turn, s.due with
  | some t, _ => (some t, true, { s with turn := none })
  | none, i :: l => (some (.event i), false, { s with due := l })
  | none, [] =>
    let (n, s1) := s.draw
    let l := moves s
    let k := Config.freeTurn n % (l.length + 2)
    if k < l.length then (l[k]?, true, s1)
    else if k = l.length then
      match s.inputs with
      | i :: r => (if isInput i then some (.event i) else none, true, { s1 with inputs := r })
      | [] => (none, true, s1)
    else (none, true, s1)

/-! ## What falls at fixed cycles (R7) -/

/-- Acts every 1,024 cycles. -/
def acts1024 (s : State) : List Instr :=
  [.partitionScan, .switchRecordPoll] ++
  (s.disp.runs.filter (fun r => !r.ready)).map (fun r => Instr.depWordPoll r.uid) ++
  (match s.host.mbox.sup with | some r => if r.ready then [] else [Instr.depWordPoll r.uid] | none => []) ++
  (s.disp.runs.filter (fun r => r.outcome.isSome)).map (fun r => Instr.doneWordRetry r.uid) ++
  s.allCtxs.flatMap (fun (c, i, x) =>
    (if x.parkedOn (fun w => match w with | .stream _ => true | _ => false) then [Instr.streamEntryReread c i] else []) ++
    (if x.parkedOn (fun w => w == .delivery) then [Instr.goDeliveryRetry c i] else [])) ++
  s.cores.flatMap (fun (c, k) => ((List.range k.hold.length).filter (fun n => heldBefore s c n)).map (fun n => Instr.holdDeliveryRetry c n))

/-- The acts whose cycle lies after `a` and not after `b`. -/
def actsBetween (s : State) (a b : Nat) : List Instr :=
  (if a / 8 < b / 8 then s.disp.parts.map (fun p => Instr.dispatchDecision p.tenant) else []) ++
  (if a / 256 < b / 256 then s.disp.parts.map (fun p => Instr.allAsleepSample p.tenant) else []) ++
  (if a / 1024 < b / 1024 then acts1024 s else [])

/-- Up to 8 cycles pass: none where several moves fall in one cycle. Scrub passes make a visit in each (R78). -/
def tick (s : State) : State :=
  let (n, s1) := s.draw
  let b := s.cycle + Config.freeCycles n % 9
  let s2 := s1.cores.foldl (fun s ((c, _) : Nat × Core) => passVisits (b - s1.cycle) s c) s1
  { s2 with cycle := b, due := s2.due ++ actsBetween s s.cycle b }

/-! ## After every move -/

/-- After `yield`: a context that has issued, or is no longer ready, is not waited for (R184). -/
def settleSkip (c : Nat) (issued : Option Nat) (s : State) : State :=
  (s.core c).ctxs.foldl (fun s ((i, x) : Nat × Ctx) =>
    if x.skip.isEmpty then s
    else s.modCtx c i (fun x => { x with skip := x.skip.filter (fun j => some j != issued && (s.ctx c j).state == .ready) })) s

def settleSkips (t : Option Turn) (slot : Option Nat) (s : State) : State :=
  s.cores.foldl (fun s ((c, _) : Nat × Core) => settleSkip c (if t = some (.issue c) then slot else none) s) s

/-- 0x14 may be raised again once a context of the partition has issued since the handler's return (R206; DEDUCED, log 22); a sample counts
only while the partition stays asleep; 0x17 is armed again once the store has room (R195). -/
def settleFlags (old : State) (issued : Option Nat) (s : State) : State :=
  let again := fun (t : Nat) => issued.any (fun u => t == 64 + u) && old.disp.slept.contains t
  s.modDisp (fun d => { d with
    slept := d.slept.filter (fun t => !again t)
    asleep := d.asleep.filter (fun t => partAsleep s t)
    full := if s.storeCount < 4096 then [] else d.full })

/-- The core that makes a move. -/
def Turn.core? : Turn → Option Nat
  | .issue c => some c
  | .copyUnit c _ => some c
  | .fillReg c _ => some c
  | .elected _ _ | .hostOwn | .i3c => none
  | .event i =>
    match i with
    | .replayWordIssue c _ | .storeBufferCommit c _ | .postedStoreAccept c _ _ | .copyCommandStart c _ | .copyCommandComplete c _
    | .qfenComplete c _ | .matrixCommandStart c | .matrixCommandComplete c | .landing c | .holdRecordSend c _
    | .holdDeliveryRetry c _ | .goDeliveryRetry c _ | .foldEnd c | .gscrubEnd c => some c
    | _ => none

/-- A core's own issue, of its main streams or its repetition engine. -/
def Turn.issues (c : Nat) : Turn → Bool
  | .issue d => d == c
  | .event (.replayWordIssue d _) => d == c
  | _ => false

/-- The request has left the core. -/
def LoadKind.outside : LoadKind → Bool
  | .qblk b => !b.srcs.isEmpty
  | k => k.access

/-- The core without its register file, control registers and pipeline (R328). -/
def outward (k : Core) : Core :=
  { k with
    ctxs := k.ctxs.map (fun (i, x) => (i, { Ctx.reset with
      uid := x.uid, rxq := x.rxq, copyQ := x.copyQ, matQ := x.matQ, loads := x.loads.filter (fun l => l.kind.outside), land := x.land }))
    regs := [], rot := [], issued := none, joined := (0, []), repTurn := 0, tlb := [], lock := none, events := [], lim := 64 }

/-- A core but for its rotation, its translation cache and its counters. -/
def settled (k : Core) : Core := { k with rot := [], issued := none, joined := (0, []), tlb := [], events := [] }

/-- The machine outside a core. -/
def elsewhere (s : State) (c : Nat) : State :=
  { s with cores := SMap.erase s.cores c, cycle := 0, nextId := 0, free := 0, cur := (0, 0), turn := none, due := [], inputs := [], ord := Order.reset,
           squares := s.squares.map (fun (q, y) => (q, { y with tlb := [] })) }

/-- The event counters of the point after a move that is none of the core's own issues: what the move counted stays counted. -/
def countedSince (old new point : SMap (BitVec 32)) : SMap (BitVec 32) :=
  (List.range 16).foldl (fun m n => SMap.put m 0 n (SMap.get point n 0 + (SMap.get new n 0 - SMap.get old n 0))) point

def keepCounted (old k : Core) : Core := { k with lock := k.lock.map (fun p => { p with events := countedSince old.events k.events p.events }) }

/-- An error of the pair itself: it is no agreement point, and its rollback has set the counters of the point. -/
def Turn.strikes (c : Nat) : Turn → Bool
  | .event (.softError (.pair d _ _) _) => d == c
  | _ => false

/-- A lockstep pair passes an agreement point when a move of the core changed what stands outside its registers, or sent something out. What comes to the
core, as a reply, a port word, the end of a walk or a cause does, is one as well (DEDUCED, log 42). -/
def settlePair (old : State) (t : Option Turn) (s : State) (at_ : Nat × Core) : State :=
  let (c, k) := at_
  if k.lock.isNone then s
  else if outward (old.core c) != outward k || ((t.bind Turn.core?) == some c && elsewhere old c != elsewhere s c) ||
      (!t.any (fun t => t.issues c || t.strikes c) && settled (old.core c) != settled k) then s.modCore c passPoint
  else if !t.any (fun t => t.issues c) && (old.core c).events != k.events && !t.any (fun t => t.strikes c) then s.modCore c (keepCounted (old.core c))
  else s

def settlePairs (old : State) (t : Option Turn) (s : State) : State := s.cores.foldl (settlePair old t) s

/-- Rotations after a move (R182). -/
def settleRots (old : State) (t : Option Turn) (slot : Option Nat) (s : State) : State :=
  s.cores.foldl (fun s ((c, k) : Nat × Core) =>
    let by_ := if t = some (.issue c) then slot else none
    if by_.isNone && k.rot = (old.core c).rot then s
    else
      let s1 := s.modCore c (fun k => k.orderRot s.cycle (old.core c).rot by_)
      match by_ with
      | some i => if (s.ctx c i).uid = (old.ctx c i).uid then s1.modCtx c i (fun x => { x with lastIssue := some s.cycle }) else s1
      | none => s1) s

/-- Outstanding `smpw` of cores where an entry may have become free (R437). -/
def settleSamples (s : State) : State :=
  s.cores.foldl (fun s ((c, k) : Nat × Core) =>
    if k.ctxs.any (fun (_, x) => x.loads.any (fun l => l.smpwId.isSome)) then trySmpws c s else s) s

def settleRounds (s : State) : State := s.squares.foldl (fun s ((q, _) : Nat × Square) => closeRounds s q) s

/-- Everything that follows a move: samples and rounds, wakes, the rotations, agreement points, the flags of the dispatcher, events, and time. -/
def settle (old : State) (t : Option Turn) (timed : Bool) (s : State) : State :=
  let slot := match t with | some (.issue c) => issuer old c | _ => none
  let tenant := match t with | some (.issue c) => slot.map (fun i => (old.ctx c i).tenant) | _ => none
  let s1 := settleRots old t slot (wakeAll (settleKerb (settleRounds (settleSamples s))))
  let s2 := settleFlags old tenant (settleSkips t slot s1)
  let s3 := flushEvents (settlePairs old t s2)
  if timed then tick s3 else s3

end Sys2Proof.Machine
end

