-- ==== Sys2Proof/Machine/Step.lean ====
section
/-! DEFINITION. One step of the machine: the next move, its effect, and what follows it. -/

namespace Sys2Proof.Machine

/-- The effect of a move. A context that issues fetches its word first; a fetch that misses parks it, one that fails traps. -/
def runTurn (t : Turn) (s : State) : Host.Outcome State Fault Refusal :=
  match t with
  | .event i => if isEvent i then exec i s else .next s
  | .copyUnit c i => .next (copyUnit s c i)
  | .fillReg c i => .next (fillReg s c i)
  | .elected q n => .next (runPassed s q n)
  | .hostOwn => .next (hostOwn s)
  | .i3c => .next (i3cOwn s)
  | .issue c =>
    match issuer s c with
    | none => .next s
    | some i =>
      let s1 : State := { s with cur := (c, i) }
      match fetch s1 with
      | .error r => finish (envOf s1 0) s1 (.error r)
      | .ok (j, s2) => exec j s2

/-- What follows a move, where it has not stopped. -/
def after (f : State → State) : Host.Outcome State Fault Refusal → Host.Outcome State Fault Refusal
  | .next s => .next (f s)
  | .fault e => .fault e
  | .refused r => .refused r

def step (s : State) : Host.Outcome State Fault Refusal :=
  match nextTurn s with
  | (none, timed, s1) => .next (settle s1 none timed s1)
  | (some t, timed, s1) => after (settle s1 (some t) timed) (runTurn t s1)

/-! ## The first instruction of a test

At reset no context lives and nothing is loaded: a program comes to run when the host has booted the device, set the descriptor
table and launched a run (DEDUCED, log 31). `withFetchWord` stands for that: context 0 of core 0 is about to issue the word at address 0. -/

/-- A leaf that maps page 0 to the first page of HBM, with every permission and U. -/
def fetchLeaf : TlbEntry := { tenant := 0, page := 0, big := false, leaf := 0x3F }

/-- A ready context that may execute the instruction: its pin, and its level where only the supervisor may. -/
def fetchCtx (w : IWord) : Ctx :=
  let f : Form := match decode w with
    | .ok i => form i
    | .error _ => {}
  { Ctx.reset with
    uid := 1, state := .ready, wcount := 128, gen := 1, pin := f.pin.getD .gen, status := if f.sup then 1 else 0 }

def fetchCore (k : Core) (w : IWord) : Core :=
  { k.setCtx 0 (fetchCtx w) with
    rot := 0 :: k.rot.filter (fun i => i != 0), tlb := fetchLeaf :: k.tlb, lock := none, issued := none, genLast := max 1 k.genLast, genFrom := max 1 k.genFrom }

def State.withFetchWord (s : State) (nbits w : Nat) : State :=
  let x : IWord := BitVec.ofNat 32 (w % 2 ^ nbits)
  { s with
    cores := SMap.put s.cores Core.reset 0 (fetchCore (s.core 0) x)
    hbm := Memory.write s.hbm 0 x.toNat 4
    disp := { s.disp with
      switches := s.disp.switches.filter (fun v => v.tenant != 0), saved := s.disp.saved.filter (fun v => v.tenant != 0) }
    ord := { s.ord with wsets := s.ord.wsets.filter (fun e => !Place.inHbm 0 4 e.1) }
    nextId := max 2 s.nextId
    turn := some (.issue 0) }

end Sys2Proof.Machine
end

