-- ==== Sys2Proof/Safety.lean ====
section
/-! DEFINITION. The terms that the claims use: who issues, what an issue slot starts from and leaves, what counts as a plain
register operand, and what a safe run is. -/

namespace Sys2Proof.Machine

/-! ## The issue slot -/

/-- The context whose issue slot it is, and its core. -/
def State.who (s : State) : Ctx := s.ctx s.cur.1 s.cur.2
def State.home (s : State) : Core := s.core s.cur.1

/-- Who executes i: core, slot, the address of the word. -/
def doer (i : Instr) (s : State) : Env := envOf s ((encode i).getD 0)

/-- i meets none of the traps of steps 6 to 9 of R105: level, pin, register window, carry destination. -/
def starts (i : Instr) (s : State) : Bool := (precheck s.cur.1 s.who (form i) ((encode i).getD 0)).isNone

/-- The state in which the instruction takes effect: the PC at the next word. -/
def begun (s : State) : State := advance s.cur.1 s.cur.2 4 s

/-- The end of an issue slot whose instruction left t: a context that is still ready goes to the tail of the rotation (R182). -/
def ended (s t : State) : State := rotate s.cur.1 s.cur.2 (clearFault s.cur.1 s.cur.2 t)

/-- Source field f read once under R63 gives v and leaves t. -/
def Reads (e : Env) (f : RegF) (s : State) (v : TVal) (t : State) : Prop := readReg f e s = .ok (v, t)

/-- Destination field f written once under R63 leaves t. -/
def Writes (e : Env) (f : RegF) (v : TVal) (s t : State) : Prop := writeReg f v e s = .ok ((), t)

/-! ## Plain registers -/

/-- A remaining replay has still to use field f (R261). -/
def Ctx.usedByBody (x : Ctx) (f : RegF) : Bool := match x.body with | some b => !b.stopped && b.touches f.toNat | none => false

/-- A `one.` of the context waits for its result (R412). -/
def Ctx.oneOpen (x : Ctx) : Bool := x.loads.any (fun l => match l.kind with | .one _ _ => true | _ => false)

/-- In its context's mode f is a general register, nothing has still to write it, and no remaining replay uses it. -/
def Ctx.usable (x : Ctx) (f : RegF) : Bool :=
  !x.isPort f.toNat && !x.isCarry f.toNat && (x.bound? f.toNat).isNone && (f == 0 || x.loads.all (fun l => l.rd != f.toNat)) &&
  x.fill.all (fun p => p.1 != f.toNat) && !x.usedByBody f

/-- The general register f of the issuing context. -/
def State.reg (s : State) (f : RegF) : TVal := s.home.readReg s.who f.toNat

/-! ## Accesses -/

/-- Pointer p passes the checks of R208 to R217 for an access of n bytes and leads to l; t has the translation caches touched. -/
def Finds (e : Env) (p : Word) (n : Nat) (op : Op) (plainD : Bool) (s : State) (l : Loc) (t : State) : Prop :=
  resolve p n op plainD e s = .ok ((l, none), t)

/-- No remaining replay of the context stands before an access, and for one of the issuing core's own store no copy command in flight (R224, R423). -/
def clear (e : Env) (l : Loc) (write : Bool) (s : State) : Bool :=
  !(e.replay.isNone && replayMeets s e.core (s.ctx e.core e.slot) l.place l.size) &&
  (match l.place with
  | .ls c off => !(c == e.core && boardMeets (s.core e.core) off (off + l.size - 1) write)
  | _ => true)

/-- Destination f may become pending (R186); a stream-bound one is promised the element app, or none where its generator is at its end (R264). -/
def Ready (e : Env) (f : RegF) (s : State) (app : Option (Option Append)) (t : State) : Prop := readyDest f e s = .ok (app, t)

/-- Every earlier access of the context has performed (R233). -/
def performed (e : Env) (s : State) : Bool := allPerformed (s.core e.core) (s.ctx e.core e.slot) (s.ctx e.core e.slot).seq

/-- The earlier accesses of the context to the same bytes, and its earlier acquires, have performed (R233). -/
def mayPerform (e : Env) (l : Loc) (s : State) : Bool :=
  acquiresDone (s.ctx e.core e.slot) (e.base (s.ctx e.core e.slot)) && !sameOpen (s.core e.core) (s.ctx e.core e.slot) l.place l.size

/-- The counter of class k rises (R186). -/
def counted (e : Env) (k : Class) (s : State) : State := s.modCtx e.core e.slot (fun x => x.setCnt k (x.cnt k + 1))

/-- An operation of class k that is done within its issue slot has found room in the class: its counter has risen and fallen (R186). -/
def tested (e : Env) (k : Class) (s : State) : State := (counted e k s).modCtx e.core e.slot (fun x => x.setCnt k (x.cnt k - 1))

/-- The context takes its next order number. -/
def numbered (e : Env) (s : State) : State := s.modCtx e.core e.slot (fun x => { x with seq := x.seq + 1 })

/-- A request for destination d is outstanding, for which the context waits or not. -/
def pended (e : Env) (d : RegF) (kind : LoadKind) (l : Loc) (app : Option (Option Append)) (waits : Bool) (s : State) : State :=
  let r : LoadReq := { seq := (s.ctx e.core e.slot).seq, pc := e.tpc, next := e.pc + 4, rd := d.toNat, kind := kind, place := l.place,
                       ptr := l.ptr, lv := l.lv, elect := none, waits := waits, app := app,
                       taken := takenOf e.was (s.ctx e.core e.slot) }
  (numbered e s).modCtx e.core e.slot (fun x => { x with loads := x.loads ++ [r] })

/-- The end of an issue slot at s whose instruction has left a request for destination d at u: its context goes on, or parks on list 1 until the reply. -/
def afterRequest (e : Env) (d : RegF) (stay : Bool) (s u : State) : State :=
  if stay then (u.modCtx e.core e.slot (fun x => { x.noteTaken s.who with pc := s.who.pc })).parkOn e.core e.slot
    { list := 1, object := BitVec.ofNat 48 d.toNat, cond := .reg d.toNat }
  else ended s u

/-- The same for a request from state t: its context stays where it waits for it or the result is for a port (R353, R60). -/
def requested (e : Env) (d : RegF) (kind : LoadKind) (l : Loc) (app : Option (Option Append)) (waits : Bool) (s t : State) : State :=
  let stay := waits || (app.isNone && (t.ctx e.core e.slot).isPort d.toNat)
  afterRequest e d stay s (pended e d kind l app stay t)

/-- A store waits in the core's store buffer (R231). -/
def buffered (e : Env) (l : Loc) (v : Word) (pair : Nat) (s : State) : State :=
  let x := s.ctx e.core e.slot
  let b : SbEntry := { slot := e.slot, uid := x.uid, tenant := x.tenant, seq := x.seq, pair := pair, place := l.place, size := l.size,
                       value := v, gen := x.gen }
  (numbered e s).modCore e.core (fun k => { k with storeBuf := k.storeBuf ++ [b] })

/-- A store waits in the core's journal (R244), in the first entry from `jnext` that is free. -/
def journalled (e : Env) (l : Loc) (v : Word) (rel : Bool) (pair : Nat) (s : State) : State :=
  let x := s.ctx e.core e.slot
  let k := s.core e.core
  let j : JEntry := { ent := freeEnt k.journal k.jnext 64, slot := e.slot, uid := x.uid, land := x.land, tenant := x.tenant, seq := x.seq,
                      pair := pair, place := l.place, ptr := l.ptr, size := l.size, value := v, rel := rel, gen := x.gen }
  (numbered e s).modCore e.core (fun k => { k with jnext := j.ent + 1, journal := k.journal ++ [j] })

/-- The address of a memory operand: base + imm × size (R90). -/
def operandPtr (base : Word) (imm : BitVec 7) (n : Nat) : Word := base + BitVec.ofInt 64 (imm.toInt * n)

/-- The bytes of the context's own buffered stores that reach n bytes at pl lie over the committed value v (R231). -/
def ownBuf (e : Env) (s : State) : List SbEntry :=
  (s.core e.core).storeBuf.filter (fun b => b.uid == (s.ctx e.core e.slot).uid)

/-- Buffered stores of other contexts of the core that reach the bytes of l. -/
def siblings (e : Env) (l : Loc) (s : State) : List SbEntry :=
  (s.core e.core).storeBuf.filter (fun b => b.uid != (s.ctx e.core e.slot).uid && b.place.overlaps b.size l.place l.size)

/-- A byte of a peer's memory. -/
def Place.isPeer : Place → Bool
  | .peer _ _ => true
  | _ => false

/-- Another byte of the device or the host than those stored: another place, or another granule, or governed by the same allocation (R73, R76). -/
def outsideStore (s : State) (own : BitVec 16) (pl : Place) (n : Nat) (q : Place) : Prop :=
  pl.overlaps n q 1 = false ∧ q.isPeer = false ∧
  match pl, q with
  | .ls c a, .ls d b => c = d → a / 32 = b / 32 → ((s.core c).gov own b).1 = ((s.core c).gov own a).1
  | _, _ => True

/-! ## The end of a landing, and records (R160, R392) -/

/-- A landing may end: L, C, M and Q are 0, no failure record of the context is left to raise, and every access has performed. -/
def landingMayEnd (e : Env) (s : State) : Bool :=
  (s.ctx e.core e.slot).drained && !(s.ctx e.core e.slot).recC && !(s.ctx e.core e.slot).recQ &&
  ((s.core e.core).myRefusal e.slot (s.ctx e.core e.slot)).isNone && performed e s

/-- The record of the issuing context, as it leaves for core d. -/
def shipmentOf (e : Env) (s : State) (pc : Word) (d : Nat) : Shipment :=
  { words := buildRecord (s.core e.core) (s.ctx e.core e.slot) pc 1, dest := d, src := 0, tenant := (s.ctx e.core e.slot).tenant, sender := e.core,
    front := s.released (s.ctx e.core e.slot).uid .device }

/-- The landing ends and its record is on its way to core d. -/
def shipped (e : Env) (pc : Word) (d : Nat) (s : State) : State :=
  endLanding { s with ships := s.ships ++ [shipmentOf e s pc d] } e.core e.slot

/-- What a landed context holds (R163, R164). -/
def landedAs (y : Ctx) (w : List Word) : Prop :=
  y.state = .ready ∧ y.hasRec = true ∧ y.pc = w64 (4 * bits (w.getD 0 0) 45 0) ∧ y.runId = bits (w.getD 1 0) 23 0 ∧ y.fround = 0 ∧ y.fflags = 0 ∧
  y.sigmin = 0 ∧ y.tagbase = 0 ∧ y.qdst = [] ∧ y.rxq = [] ∧ y.ut = TrapRegs.zero ∧ y.uin = false ∧ y.binds = [] ∧ y.ereg = []

/-- The idle landing context of lowest slot among those of the tenant. -/
def firstIdle (s : State) (c t i : Nat) : Prop := idleFor s c t = some i

/-- List l without its entry n. -/
def without {α : Type} (l : List α) (n : Nat) : List α := l.take n ++ l.drop (n + 1)

/-! ## Tables of the integer rules: constructor, result, and the spec's word with x5, x6, x7 -/

def rows3 : List ((RegF → RegF → RegF → Instr) × (Word → Word → Word) × IWord) :=
  [(.add, fun a b => BitVec.ofInt 64 (a.toInt + b.toInt), 0x042860E0),
   (.sub, fun a b => BitVec.ofInt 64 (a.toInt - b.toInt), 0x042860E1),
   (.mul, fun a b => BitVec.ofInt 64 (a.toInt * b.toInt), 0x042860E2),
   (.mulh, fun a b => BitVec.ofInt 64 (a.toInt * b.toInt / 2 ^ 64), 0x042860E3),
   (.mulhn, fun a b => BitVec.ofNat 64 (a.toNat * b.toNat / 2 ^ 64), 0x042860E4),
   (.div, fun a b => BitVec.ofInt 64 (if b.toInt = 0 then -1 else a.toInt.tdiv b.toInt), 0x042860E5),
   (.divn, fun a b => if b.toNat = 0 then BitVec.ofInt 64 (-1) else BitVec.ofNat 64 (a.toNat / b.toNat), 0x042860E6),
   (.rem, fun a b => BitVec.ofInt 64 (if b.toInt = 0 then a.toInt else a.toInt - b.toInt * a.toInt.tdiv b.toInt), 0x042860E7),
   (.remn, fun a b => BitVec.ofNat 64 (if b.toNat = 0 then a.toNat else a.toNat % b.toNat), 0x042860E8),
   (.and, fun a b => a &&& b, 0x042860E9), (.or, fun a b => a ||| b, 0x042860EA), (.xor, fun a b => a ^^^ b, 0x042860EB),
   (.shl, fun a b => BitVec.ofNat 64 (a.toNat * 2 ^ (b.toNat % 64)), 0x042860EC),
   (.shr, fun a b => BitVec.ofNat 64 (a.toNat / 2 ^ (b.toNat % 64)), 0x042860ED),
   (.sra, fun a b => BitVec.ofInt 64 (a.toInt / 2 ^ (b.toNat % 64)), 0x042860EE),
   (.min, fun a b => BitVec.ofInt 64 (min a.toInt b.toInt), 0x042860EF),
   (.max, fun a b => BitVec.ofInt 64 (max a.toInt b.toInt), 0x042860F0),
   (.minn, fun a b => BitVec.ofNat 64 (min a.toNat b.toNat), 0x042860F1),
   (.maxn, fun a b => BitVec.ofNat 64 (max a.toNat b.toNat), 0x042860F2),
   (.slt, fun a b => if a.toInt < b.toInt then 1 else 0, 0x042860F3),
   (.sltn, fun a b => if a.toNat < b.toNat then 1 else 0, 0x042860F4),
   (.seq, fun a b => if a = b then 1 else 0, 0x042860F5)]

/-- Bits 8j + 7 to 8j of w. -/
def byteOf (w : Word) (j : Nat) : Byte := w.extractLsb' (8 * j) 8

/-- One source: constructor, result, and the spec's word with x5, x6. -/
def rows2 : List ((RegF → RegF → Instr) × (Word → Word) × IWord) :=
  [(.clz, fun a => if a = 0 then 64 else BitVec.ofNat 64 (63 - Nat.log2 a.toNat), 0x04286017),
   (.ctz, fun a => BitVec.ofNat 64 (((List.range 64).find? (fun n => a.getLsbD n)).getD 64), 0x04286018),
   (.pop, fun a => BitVec.ofNat 64 ((List.range 64).countP (fun n => a.getLsbD n)), 0x04286019)]

/-- A 12-bit immediate: constructor, result, major. -/
def rowsI : List ((RegF → RegF → BitVec 12 → Instr) × (Word → BitVec 12 → Word) × Nat) :=
  [(.addi, fun a i => BitVec.ofInt 64 (a.toInt + i.toInt), 0x02), (.andi, fun a i => a &&& i.signExtend 64, 0x03),
   (.ori, fun a i => a ||| i.signExtend 64, 0x04), (.xori, fun a i => a ^^^ i.signExtend 64, 0x05)]

/-- Shifts by an immediate amount: constructor, result, op. -/
def rowsS : List ((RegF → RegF → BitVec 6 → Instr) × (Word → BitVec 6 → Word) × Nat) :=
  [(.shli, fun a n => BitVec.ofNat 64 (a.toNat * 2 ^ n.toNat), 0), (.shri, fun a n => BitVec.ofNat 64 (a.toNat / 2 ^ n.toNat), 1),
   (.srai, fun a n => BitVec.ofInt 64 (a.toInt / 2 ^ n.toNat), 2)]

/-- Comparisons with an 11-bit immediate: constructor, result, bit 11. -/
def rowsC : List ((RegF → RegF → BitVec 11 → Instr) × (Word → BitVec 11 → Word) × Nat) :=
  [(.slti, fun a i => if a.toInt < i.toInt then 1 else 0, 0),
   (.sltni, fun a i => if a.toNat < (i.signExtend 64).toNat then 1 else 0, 1)]

/-- Compare and branch: constructor, condition, major (R360). -/
def rowsB : List ((RegF → RegF → BitVec 12 → Instr) × (Word → Word → Bool) × Nat) :=
  [(.beq, fun a b => a == b, 0x0B), (.bne, fun a b => a != b, 0x0C), (.blt, fun a b => decide (a.toInt < b.toInt), 0x0D),
   (.bge, fun a b => decide (b.toInt ≤ a.toInt), 0x0E), (.bltn, fun a b => decide (a.toNat < b.toNat), 0x0F),
   (.bgen, fun a b => decide (b.toNat ≤ a.toNat), 0x10)]

/-- Integer, tag and pointer instructions: they read and write registers alone. -/
def regOnly : Instr → Bool
  | .add _ _ _ | .sub _ _ _ | .mul _ _ _ | .mulh _ _ _ | .mulhn _ _ _ | .div _ _ _ | .divn _ _ _ | .rem _ _ _ | .remn _ _ _
  | .and _ _ _ | .or _ _ _ | .xor _ _ _ | .shl _ _ _ | .shr _ _ _ | .sra _ _ _ | .min _ _ _ | .max _ _ _ | .minn _ _ _
  | .maxn _ _ _ | .slt _ _ _ | .sltn _ _ _ | .seq _ _ _ | .sel _ _ _ | .perm _ _ _ | .clz _ _ | .ctz _ _ | .pop _ _
  | .addi _ _ _ | .andi _ _ _ | .ori _ _ _ | .xori _ _ _ | .shli _ _ _ | .shri _ _ _ | .srai _ _ _ | .slti _ _ _
  | .sltni _ _ _ | .lui _ _ | .addpc _ _ | .bfx _ _ _ _ | .bfi _ _ _ _ | .sigr _ _ | .sigw _ _ _
  | .spc _ _ | .cvspLoc _ _ | .cvspSq _ _ | .cvspRem _ _ => true
  | _ => false

/-! ## Real values of encodings (R107, R113) -/

/-- (−1)^neg × m × 2^e of a finite encoding. -/
def FVal.rat : FVal → ℚ
  | .fin n m e => (if n then -1 else 1) * (m : ℚ) * (2 : ℚ) ^ e
  | _ => 0

/-- b is an encoding of f of a finite number. -/
def Fmt.finite (f : Fmt) (b : Nat) : Prop := b < 2 ^ f.width ∧ (f.dec b).isNan = false ∧ (f.dec b).isInf = false

/-- The six formats of R107. -/
def formats : List Fmt := [f64, f32, f16, b16, e4m3, e5m2]

/-- b is x rounded to f by the mode: the nearest finite encoding, of two the one whose last bit is 0; or the next one toward
zero, up, or down. -/
def Rounds (f : Fmt) (mode : Mode) (x : ℚ) (b : Nat) : Prop :=
  f.finite b ∧
  match mode with
  | .rne => (∀ c, f.finite c → |x - (f.dec b).rat| ≤ |x - (f.dec c).rat|) ∧
      ∀ c, f.finite c → (f.dec c).rat ≠ (f.dec b).rat → |x - (f.dec c).rat| = |x - (f.dec b).rat| → b % 2 = 0
  | .rtz => |(f.dec b).rat| ≤ |x| ∧ 0 ≤ x * (f.dec b).rat ∧
      ∀ c, f.finite c → |(f.dec c).rat| ≤ |x| → 0 ≤ x * (f.dec c).rat → |(f.dec c).rat| ≤ |(f.dec b).rat|
  | .rup => x ≤ (f.dec b).rat ∧ ∀ c, f.finite c → x ≤ (f.dec c).rat → (f.dec b).rat ≤ (f.dec c).rat
  | .rdn => (f.dec b).rat ≤ x ∧ ∀ c, f.finite c → (f.dec c).rat ≤ x → (f.dec c).rat ≤ (f.dec b).rat

/-- n is x rounded to an integer by the mode (R116). -/
def RoundsToInt (mode : Mode) (x : ℚ) (n : Int) : Prop :=
  match mode with
  | .rne => |(n : ℚ) - x| ≤ 1 / 2 ∧ (|(n : ℚ) - x| = 1 / 2 → n % 2 = 0)
  | .rtz => |(n : ℚ)| ≤ |x| ∧ |x| < |(n : ℚ)| + 1 ∧ 0 ≤ n * x
  | .rup => x ≤ n ∧ (n : ℚ) < x + 1
  | .rdn => (n : ℚ) ≤ x ∧ x < n + 1

/-- What an overflow of sign neg gives: the table of R113, and for E4M3 its largest finite value (R117). -/
def overflowBits (f : Fmt) (mode : Mode) (neg : Bool) : Nat :=
  match mode, neg with
  | .rne, n => if f = e4m3 then f.maxFin n else f.inf n
  | .rtz, n => f.maxFin n
  | .rup, n => if n = true ∨ f = e4m3 then f.maxFin n else f.inf n
  | .rdn, n => if n = false ∨ f = e4m3 then f.maxFin n else f.inf n

/-- bits and flags are what the exact value x gives in f: rounded once, or overflowed with OF and NX. -/
def RoundedOnce (f : Fmt) (mode : Mode) (x : ℚ) (bits flags : Nat) : Prop :=
  (flags &&& OF = 0 → Rounds f mode x bits ∧ (flags &&& NX = 0 ↔ (f.dec bits).rat = x)) ∧
  (flags &&& OF ≠ 0 → (∀ c, f.finite c → |(f.dec c).rat| < |x|) ∧ bits = overflowBits f mode (decide (x < 0)) ∧ flags &&& NX ≠ 0)

/-! ## Floating-point results (R134, R139, R381) -/

/-- The lanes of a result joined: value, least count, I, flags. -/
def fpJoin (t : FpType) (x : Ctx) (f : Mode → Nat → Lane) : Nat × Nat × Bool × Nat :=
  joinLanes (typeFmt t).width ((List.range (typeLanes t)).map (f (curMode x)))

/-- What becomes of a result (value, count, I, flags) with the operands' effective counts: where it passes the threshold test, its flags are raised and it is
written; else 0x0B with the two counts, and nothing of the instruction stays. -/
def FpEnds (i : Instr) (s : State) (d : RegF) (u : State) (r : Nat × Nat × Bool × Nat) (counts : List Nat) : Prop :=
  let e := doer i s
  let n := bits (u.ctx e.core e.slot).sigmin 6 0
  let fires := 0 < n ∧ r.2.1 ≠ 127 ∧ r.2.1 < n ∧ ∀ c ∈ counts, n ≤ c
  (¬fires → ∀ v, Writes e d { val := w64 r.1, cnt := BitVec.ofNat 7 r.2.1, inx := r.2.2.1 }
      (u.modCtx e.core e.slot (fun x => { x with fflags := x.fflags ||| w64 r.2.2.2 })) v → exec i s = .next (ended s v)) ∧
  (fires → exec i s = .next (rotate e.core e.slot (raise e
      { cause := 0x0B, aux := w64 (r.2.1 + 256 * counts.foldl min 127) } s)))

/-- A destination written after the flags of a conversion or comparison. -/
def FlagsThenWrite (i : Instr) (s : State) (d : RegF) (u : State) (flags : Nat) (v : TVal) : Prop :=
  let e := doer i s
  ∀ t, Writes e d v (u.modCtx e.core e.slot (fun x => { x with fflags := x.fflags ||| w64 flags })) t → exec i s = .next (ended s t)

/-- Every element of the accumulator rows row0 to row0 + rows − 1 has the blocks of its activation row folded into it (R268, R129, R136); nothing else of
the core has changed. -/
def FoldsRows (g : BitVec 16) (geo : Word) (bank act stride ascl wscl row0 rows : Nat) (k t : Core) : Prop :=
  (∀ m n, m < rows → n < 64 →
    let v := accGet k (64 * (row0 + m) + n)
    let x := foldOne k g geo bank (act + m * stride) ascl wscl m n v.1.toNat
    accGet t (64 * (row0 + m) + n) = (BitVec.ofNat 32 x.acc, accCount v.1.toNat v.2 x)) ∧
  (∀ i, (i < 64 * row0 ∨ 64 * (row0 + rows) ≤ i) → accGet t i = accGet k i) ∧ t.ls = k.ls ∧ t.lsGen = k.lsGen ∧ t.banks = k.banks

/-- The effective count of an operand in a format (R131): 127 stands for p. -/
def effOf (f : Fmt) (v : TVal) : Nat := if v.cnt = 127 then f.p else min v.cnt.toNat f.p

/-! ## Frames -/

/-- Every byte of the device's and of the host's memory reads the same, for an accessor of any generation; a peer's bytes are its own. -/
def sameMemory (s t : State) : Prop := ∀ (pl : Place) (own : BitVec 16), pl.isPeer = false → t.readAt pl 1 own = s.readAt pl 1 own

/-- What a context holds beside its general registers and what its issue slot moves: status, trap registers, flags and modes,
tag and private bases, ports, engine registers, bindings, counters, barriers. -/
def Ctx.special (x : Ctx) : List (List Nat) :=
  [[x.status.toNat, x.sigmin.toNat, x.fflags.toNat, x.fround.toNat, x.tagbase.toNat, x.pvbase.toNat],
   [x.ut.vec.toNat, x.ut.cause.toNat, x.ut.pc.toNat, x.ut.addr.toNat, x.ut.aux.toNat],
   [x.st.vec.toNat, x.st.cause.toNat, x.st.pc.toNat, x.st.addr.toNat, x.st.aux.toNat],
   x.qdst.flatMap (fun (n, v) => [n, v.toNat]), x.rxq.flatMap (fun (n, l) => n :: l.length :: l.map (fun v => v.val.toNat)),
   x.ereg.flatMap (fun (n, v) => [n, v.toNat]), x.binds.flatMap (fun (n, g) => [n, g]), [x.nL, x.nS, x.nC, x.nM, x.nQ],
   x.arr.flatMap (fun (n, v) => [n, v.toNat]), x.obs.flatMap (fun (n, v) => [n, v.toNat]), [x.wbase, x.wcount, x.gen.toNat, x.tenant]]

/-- Every special register, accumulator and semaphore, and every general register but entry n of core c, is the same. -/
def sameBut (c n : Nat) (s t : State) : Prop :=
  (∀ d i, (t.ctx d i).special = (s.ctx d i).special) ∧
  (∀ d m, ¬(d = c ∧ m = n) → (t.core d).reg m = (s.core d).reg m) ∧
  (∀ d, (t.core d).acc = (s.core d).acc ∧ (t.core d).banks = (s.core d).banks ∧ (t.core d).sems = (s.core d).sems ∧
    (t.core d).copySets = (s.core d).copySets ∧ (t.core d).jrec = (s.core d).jrec ∧ (t.core d).lim = (s.core d).lim)

/-! ## Safe runs -/

/-- The machine goes on: no rule of the spec stops it. -/
def goesOn (o : Host.Outcome State Fault Refusal) : Bool := match o with | .next _ => true | _ => false

/-- Memories and maps in canonical form: HBM, the host's memory, the cores and squares, every core's local store, its bits and stamps, its contexts, its
registers and its weight macro, and those of partitions that are switched out and of checkpoint images (R345). -/
def State.canonical (s : State) : Bool :=
  Memory.wf s.hbm && Memory.wf s.hostMem && SMap.wf s.cores Core.reset && SMap.wf s.squares Square.reset && s.cores.all (fun e => e.2.canonical) && s.disp.canonical && s.host.images.all Image.canonical

/-- No recorded write has a commit count, or is ordered after one, that has not been given out (R227, R229). -/
def State.ordered (s : State) : Bool :=
  s.ord.wsets.all (fun e => e.2.all (fun w => decide (w.n ≤ s.ord.commits) && w.after.all (fun n => decide (n ≤ s.ord.commits))))

end Sys2Proof.Machine
end

