-- ==== Sys2Proof/Certificates/Slice0/Obligations.lean ====
section
/-! DEFINITION. What the model is claimed to do: the statements for the provers. -/

section
open Sys2Proof Sys2Proof.Machine

/-! ## Integer instructions -/

/-- R349, R377, R404, R409, R421, R430, R433: the operations of major 0x01 on two sources. Fields are read in the order ra, rb under R63, the result
is written with count 127 and I 0, and the words with x5, x6, x7 are the spec's. -/
def Obligations.IntegerTwoSources : Prop :=
  ∀ row ∈ rows3, encode (row.1 5 6 7) = some row.2.2 ∧
    ∀ (d a b : RegF) (s s1 s2 s3 : State) (x y : TVal), starts (row.1 d a b) s = true →
      Reads (doer (row.1 d a b) s) a (begun s) x s1 → Reads (doer (row.1 d a b) s) b s1 y s2 →
      Writes (doer (row.1 d a b) s) d { val := row.2.1 x.val y.val, cnt := 127, inx := false } s2 s3 →
      exec (row.1 d a b) s = .next (ended s s3)

/-- R369, R418: `clz`, `ctz`, `pop`. R417, R430: `perm` byte by byte, and `sel`, which reads all three fields whichever operand it keeps.
The words of `clz`, `ctz` and `pop` with x5, x6 are the spec's. -/
def Obligations.BitOperations : Prop :=
  (∀ row ∈ rows2, encode (row.1 5 6) = some row.2.2 ∧
    ∀ (d a : RegF) (s s1 s2 : State) (x : TVal), starts (row.1 d a) s = true →
      Reads (doer (row.1 d a) s) a (begun s) x s1 →
      Writes (doer (row.1 d a) s) d { val := row.2.1 x.val, cnt := 127, inx := false } s1 s2 →
      exec (row.1 d a) s = .next (ended s s2)) ∧
  (∀ (d a b : RegF) (s s1 s2 s3 : State) (x y : TVal) (r : Word), starts (.perm d a b) s = true →
    Reads (doer (.perm d a b) s) a (begun s) x s1 → Reads (doer (.perm d a b) s) b s1 y s2 →
    (∀ j, j < 8 → byteOf r j = if (byteOf y.val j).getLsbD 7 then 0 else byteOf x.val ((byteOf y.val j).toNat % 8)) →
    Writes (doer (.perm d a b) s) d { val := r, cnt := 127, inx := false } s2 s3 → exec (.perm d a b) s = .next (ended s s3)) ∧
  (∀ (d a b : RegF) (s s1 s2 s3 s4 : State) (x y z : TVal), starts (.sel d a b) s = true →
    Reads (doer (.sel d a b) s) a (begun s) x s1 → Reads (doer (.sel d a b) s) b s1 y s2 →
    Reads (doer (.sel d a b) s) d s2 z s3 →
    Writes (doer (.sel d a b) s) d { val := if x.val = 0 then z.val else y.val, cnt := 127, inx := false } s3 s4 →
    exec (.sel d a b) s = .next (ended s s4))

/-- R350, R431, R434: one register and an immediate. The immediates of majors 0x02 to 0x05 and 0x07 are sign-extended; shift
amounts run from 0 to 63. The words are the spec's. -/
def Obligations.IntegerImmediates : Prop :=
  (∀ row ∈ rowsI, ∀ (d a : RegF) (i : BitVec 12) (s s1 s2 : State) (x : TVal), starts (row.1 d a i) s = true →
    Reads (doer (row.1 d a i) s) a (begun s) x s1 →
    Writes (doer (row.1 d a i) s) d { val := row.2.1 x.val i, cnt := 127, inx := false } s1 s2 →
    exec (row.1 d a i) s = .next (ended s s2)) ∧
  (∀ row ∈ rowsS, ∀ (d a : RegF) (n : BitVec 6) (s s1 s2 : State) (x : TVal), starts (row.1 d a n) s = true →
    Reads (doer (row.1 d a n) s) a (begun s) x s1 →
    Writes (doer (row.1 d a n) s) d { val := row.2.1 x.val n, cnt := 127, inx := false } s1 s2 →
    exec (row.1 d a n) s = .next (ended s s2)) ∧
  (∀ row ∈ rowsC, ∀ (d a : RegF) (i : BitVec 11) (s s1 s2 : State) (x : TVal), starts (row.1 d a i) s = true →
    Reads (doer (row.1 d a i) s) a (begun s) x s1 →
    Writes (doer (row.1 d a i) s) d { val := row.2.1 x.val i, cnt := 127, inx := false } s1 s2 →
    exec (row.1 d a i) s = .next (ended s s2)) ∧
  encode (.addi 5 6 (-1)) = some 0x08286FFF ∧ encode (.andi 5 6 0xFF) = some 0x0C2860FF ∧ encode (.andi 5 6 (-8)) = some 0x0C286FF8 ∧
  encode (.slti 5 6 (-1)) = some 0x1C2867FF ∧ encode (.sltni 5 6 10) = some 0x1C28680A ∧ encode (.sltni 5 6 (-1)) = some 0x1C286FFF ∧
  (∀ n : BitVec 6, encode (.shli 5 6 n) = some (0x18286000 + n.zeroExtend 32) ∧
    encode (.shri 5 6 n) = some (0x18286400 + n.zeroExtend 32) ∧ encode (.srai 5 6 n) = some (0x18286800 + n.zeroExtend 32))

/-- R403, R351, R362: `lui`; `addpc`, from the address of its own word; `bfx`, whose bits above 63 read as 0; and `bfi`, which reads the old xd after xa and drops the
bits at or above 64. The words are the spec's. -/
def Obligations.ConstantsAndBitFields : Prop :=
  (∀ (d : RegF) (i : BitVec 19) (s s1 : State), starts (.lui d i) s = true →
    Writes (doer (.lui d i) s) d { val := BitVec.ofInt 64 (i.toInt * 4096), cnt := 127, inx := false } (begun s) s1 →
    exec (.lui d i) s = .next (ended s s1)) ∧
  (∀ (d : RegF) (i : BitVec 19) (s s1 : State), starts (.addpc d i) s = true →
    Writes (doer (.addpc d i) s) d { val := s.who.pc + BitVec.ofInt 64 (i.toInt * 4), cnt := 127, inx := false } (begun s) s1 →
    exec (.addpc d i) s = .next (ended s s1)) ∧
  (∀ (d a : RegF) (lo : BitVec 6) (w : BitVec 5) (s s1 s2 : State) (x : TVal), starts (.bfx d a lo w) s = true →
    Reads (doer (.bfx d a lo w) s) a (begun s) x s1 →
    Writes (doer (.bfx d a lo w) s) d
      { val := BitVec.ofNat 64 (x.val.toNat / 2 ^ lo.toNat % 2 ^ (w.toNat + 1)), cnt := 127, inx := false } s1 s2 →
    exec (.bfx d a lo w) s = .next (ended s s2)) ∧
  (∀ (d a : RegF) (lo : BitVec 6) (w : BitVec 5) (s s1 s2 s3 : State) (x old : TVal) (r : Word), starts (.bfi d a lo w) s = true →
    Reads (doer (.bfi d a lo w) s) a (begun s) x s1 → Reads (doer (.bfi d a lo w) s) d s1 old s2 →
    (∀ n, n < 64 → r.getLsbD n = if lo.toNat ≤ n ∧ n ≤ lo.toNat + w.toNat then x.val.getLsbD (n - lo.toNat) else old.val.getLsbD n) →
    Writes (doer (.bfi d a lo w) s) d { val := r, cnt := 127, inx := false } s2 s3 → exec (.bfi d a lo w) s = .next (ended s s3)) ∧
  encode (.lui 9 0x12) = some 0x20480012 ∧ encode (.lui 24 (-2048)) = some 0x20C7F800 ∧ encode (.addpc 13 65) = some 0x24680041 ∧
  encode (.bfx 11 10 33 13) = some 0x2858A42D ∧ encode (.bfi 5 6 8 3) = some 0x28286903 ∧ encode (.bfi 5 6 60 7) = some 0x28286F87

/-- R141: `sigr` gives the count and the I bit of xa; `sigw` copies its value with the count that is named, and I 0. R211, R212: `spc` gives the window code, with bit 8 for a pointer that is valid here and bit 9 for a peer pointer; each `cvsp`
gives the converted pointer where the source window is accepted and the result is valid, else 0. A sum of base and offset beyond 20 bits is no valid result of `cvsp.loc`
(the model's choice, log 56). -/
def Obligations.TagsAndPointers : Prop :=
  (∀ (d a : RegF) (s s1 s2 : State) (x : TVal), starts (.sigr d a) s = true → Reads (doer (.sigr d a) s) a (begun s) x s1 →
    Writes (doer (.sigr d a) s) d
      { val := BitVec.ofNat 64 (x.cnt.toNat + (if x.inx then 128 else 0)), cnt := 127, inx := false } s1 s2 →
    exec (.sigr d a) s = .next (ended s s2)) ∧
  (∀ (d a : RegF) (n : BitVec 7) (s s1 s2 : State) (x : TVal), starts (.sigw d a n) s = true →
    Reads (doer (.sigw d a n) s) a (begun s) x s1 → Writes (doer (.sigw d a n) s) d { val := x.val, cnt := n, inx := false } s1 s2 →
    exec (.sigw d a n) s = .next (ended s s2)) ∧
  (∀ (d a : RegF) (s s1 s2 : State) (p : TVal), starts (.spc d a) s = true → Reads (doer (.spc d a) s) a (begun s) p s1 →
    Writes (doer (.spc d a) s) d
      { val := BitVec.ofNat 64 (bits p.val 63 56 + (if ptrValid s1 s.cur.1 (s1.ctx s.cur.1 s.cur.2).pvbase p.val then 256 else 0) +
          (if bits p.val 63 56 = 0 ∧ p.val.getLsbD 51 = true then 512 else 0)), cnt := 127, inx := false } s1 s2 →
    exec (.spc d a) s = .next (ended s s2)) ∧
  (∀ row ∈ ([(.cvspLoc, 0xF2, [0xF1], fun c pv p => w64 (0xF2 * 2 ^ 56 + c * 2 ^ 42 + bits pv 19 0 + bits p 23 0)),
             (.cvspSq, 0xF3, [0xF2, 0xF4], fun _ _ p => setBits p 63 56 0xF3),
             (.cvspRem, 0xF4, [0xF2, 0xF3], fun _ _ p => setBits p 63 56 0xF4)] :
        List ((RegF → RegF → Instr) × Nat × List Nat × (Nat → Word → Word → Word))),
    ∀ (d a : RegF) (s s1 s2 : State) (p : TVal), starts (row.1 d a) s = true → Reads (doer (row.1 d a) s) a (begun s) p s1 →
      let pv := (s1.ctx s.cur.1 s.cur.2).pvbase
      let w := bits p.val 63 56
      let r := if w = row.2.1 then p.val else row.2.2.2 s.cur.1 pv p.val
      Writes (doer (row.1 d a) s) d
        { val := if (w = row.2.1 ∨ row.2.2.1.contains w = true) ∧ ptrValid s1 s.cur.1 pv r = true then r else 0, cnt := 127, inx := false } s1 s2 →
      exec (row.1 d a) s = .next (ended s s2))

/-- The frame of every integer, tag and pointer instruction on usable general registers: it completes, the PC moves to the next word,
the destination register alone may change, and every byte of memory reads as before. -/
def Obligations.IntegerFrame : Prop :=
  ∀ (i : Instr) (s : State), regOnly i = true → starts i s = true →
    (∀ f ∈ (form i).src ++ (form i).dst.toList, s.who.usable f = true) → s.who.state = .ready →
    ∃ t, exec i s = .next t ∧ (t.ctx s.cur.1 s.cur.2).pc = s.who.pc + 4 ∧ (t.ctx s.cur.1 s.cur.2).state = .ready ∧ sameMemory s t ∧
      sameBut s.cur.1 (s.who.wbase + (match (form i).dst with | some d => d.toNat | none => 0)) s t

/-! ## Branches -/

/-- R360, R365: the compare-and-branch instructions and `bsig` read their sources and write no register. -/
def Obligations.ConditionalBranches : Prop :=
  (∀ row ∈ rowsB, ∀ (a b : RegF) (o : BitVec 12) (s s1 s2 : State) (x y : TVal), starts (row.1 a b o) s = true →
    Reads (doer (row.1 a b o) s) a (begun s) x s1 → Reads (doer (row.1 a b o) s) b s1 y s2 →
    exec (row.1 a b o) s = .next (ended s (if row.2.1 x.val y.val then
      s2.modCtx s.cur.1 s.cur.2 (fun z => { z with pc := s.who.pc + BitVec.ofInt 64 (o.toInt * 4) }) else s2))) ∧
  (∀ (a : RegF) (n : BitVec 7) (o : BitVec 12) (s s1 : State) (x : TVal), starts (.bsig a n o) s = true →
    Reads (doer (.bsig a n o) s) a (begun s) x s1 →
    exec (.bsig a n o) s = .next (ended s (if x.cnt ≠ 127 ∧ x.cnt.toNat < n.toNat then
      s1.modCtx s.cur.1 s.cur.2 (fun z => { z with pc := s.who.pc + BitVec.ofInt 64 (o.toInt * 4) }) else s1)))

/-- R356, R397: `b` and `bl` go to PC + off26 × 4, and `jr` to xa + imm12 × 4 when that is a multiple of 4 in window 0x00; the link is
PC + 4, written after xa is read. R397, R14: a `jr` target that is not a multiple of 4 raises 0x04, else one outside window 0x00 raises 0x05 with code 1;
`trapaddr` is the target, and the instruction leaves nothing: xd is not written. -/
def Obligations.Jumps : Prop :=
  (∀ (o : BitVec 26) (s : State), starts (.b o) s = true →
    exec (.b o) s = .next (ended s ((begun s).modCtx s.cur.1 s.cur.2
      (fun z => { z with pc := s.who.pc + BitVec.ofInt 64 (o.toInt * 4) })))) ∧
  (∀ (o : BitVec 26) (s s1 : State), starts (.bl o) s = true →
    Writes (doer (.bl o) s) 1 { val := s.who.pc + 4, cnt := 127, inx := false } (begun s) s1 →
    exec (.bl o) s = .next (ended s (s1.modCtx s.cur.1 s.cur.2
      (fun z => { z with pc := s.who.pc + BitVec.ofInt 64 (o.toInt * 4) })))) ∧
  (∀ (d a : RegF) (i : BitVec 12) (s s1 s2 : State) (x : TVal), starts (.jr d a i) s = true →
    Reads (doer (.jr d a i) s) a (begun s) x s1 →
    (x.val + BitVec.ofInt 64 (i.toInt * 4)).toNat % 4 = 0 → (x.val + BitVec.ofInt 64 (i.toInt * 4)).toNat < 2 ^ 56 →
    Writes (doer (.jr d a i) s) d { val := s.who.pc + 4, cnt := 127, inx := false } s1 s2 →
    exec (.jr d a i) s = .next (ended s (s2.modCtx s.cur.1 s.cur.2 (fun z => { z with pc := x.val + BitVec.ofInt 64 (i.toInt * 4) })))) ∧
  (∀ (d a : RegF) (i : BitVec 12) (s s1 : State) (x : TVal), starts (.jr d a i) s = true →
    Reads (doer (.jr d a i) s) a (begun s) x s1 →
    let t := x.val + BitVec.ofInt 64 (i.toInt * 4)
    (t.toNat % 4 ≠ 0 → exec (.jr d a i) s = .next (rotate s.cur.1 s.cur.2 (raise (doer (.jr d a i) s) { cause := 0x04, addr := t } s))) ∧
    (t.toNat % 4 = 0 → 2 ^ 56 ≤ t.toNat →
      exec (.jr d a i) s = .next (rotate s.cur.1 s.cur.2 (raise (doer (.jr d a i) s) { cause := 0x05, addr := t, aux := 1 } s))))

/-! ## Loads -/

/-- R398, R74, R231: `ld.plain` and `ld.acq` of the issuing core's own local store write xd in the issue slot: the bytes at A = xa + imm7 × size,
extended as the suffix says, as the context's Read returns them (MemoryOrder). R398, R186: any other load raises class L and becomes an outstanding request for xd; the
context goes on, but for one whose reply is for a port (DEDUCED, log 14). R186, R233, R398: the reply to a load that may perform takes the request from the
context, lowers class L and writes the extended bytes to xd. R74, R398: a reply whose Read meets a stale granule of a trap-mode region has 0x0A as its fault. R14, R354: a fault that comes with a reply is taken at the instruction
(the model's reading, log 15), with its request withdrawn. -/
def Obligations.Loads : Prop :=
  (∀ (d a : RegF) (z : Size) (ord : LdOrd) (imm : BitVec 7) (s s1 s2 s3 : State) (base : TVal) (l : Loc),
    let i := Instr.ld d a z ord imm
    let e := doer i s
    let n := sizeBytes z
    let x := s2.ctx e.core e.slot
    let r := s2.ctxRead e.core x x.seq (if ord = .acq then some .device else none) l.place n
    starts i s = true → Reads e a (begun s) base s1 →
    Finds e (operandPtr base.val imm n) n .ld (ord == .plain && z == .d) s1 l s2 → l.ownLs e.core = true → clear e l false s2 = true →
    mayPerform e l s2 = true → (s2.staleTrap l.place x.gen && !granuleBuffered (ownBuf e s2) l.place) = false →
    Writes e d { val := extend r.1 n (sizeSigned z), cnt := 127, inx := false } r.2 s3 → exec i s = .next (ended s s3)) ∧
  (∀ (d a : RegF) (z : Size) (ord : LdOrd) (imm : BitVec 7) (s s1 s2 s3 : State) (base : TVal) (l : Loc) (app : Option (Option Append)),
    let i := Instr.ld d a z ord imm
    let e := doer i s
    let n := sizeBytes z
    starts i s = true → Reads e a (begun s) base s1 →
    Finds e (operandPtr base.val imm n) n .ld (ord == .plain && z == .d) s1 l s2 → l.ownLs e.core = false → clear e l false s2 = true →
    (s2.ctx e.core e.slot).nL < 63 → Ready e d (counted e .L s2) app s3 →
    exec i s = .next (requested e d (.ld n (sizeSigned z) (ord == .acq)) l app false s s3)) ∧
  (∀ (c i idx : Nat) (s t : State) (l : LoadReq) (n : Nat) (sg acq : Bool), (s.ctx c i).loads[idx]? = some l → l.kind = .ld n sg acq →
    replyReady (s.core c) (s.ctx c i) l = true → replyFault s c (s.ctx c i) l = none → (match l.place with | .ls _ off => off < snapBase | _ => True) →
    let r := s.ctxRead c (s.ctx c i) l.seq (if acq then some .device else none) l.place n
    complete r.2 c i l { val := extend r.1 n sg, cnt := 127, inx := false } true = some t → exec (.loadReply c i idx) s = .next t) ∧
  (∀ (c i : Nat) (s : State) (l : LoadReq) (n : Nat) (sg acq : Bool), l.kind = .ld n sg acq → portShut s (s.ctx c i) l.rd l.app = false →
    s.staleTrap l.place (s.ctx c i).gen = true → (s.core c).storeBuf.all (fun b => b.uid != (s.ctx c i).uid) = true →
    replyFault s c (s.ctx c i) l = some { cause := 0x0A, addr := l.ptr }) ∧
  (∀ (c i idx : Nat) (s : State) (l : LoadReq) (f : TrapInfo), (s.ctx c i).loads[idx]? = some l → replyReady (s.core c) (s.ctx c i) l = true →
    (∀ b, l.kind ≠ .qblk b) → replyFault s c (s.ctx c i) l = some f → exec (.loadReply c i idx) s = .next (failReply s c i l f).draw.2)

/-- R225, R227 to R232, R235: the rules of visibility, a derived statement: what they leave open is a free value of the model (DESIGN CHOICE, log 5). A Read takes the newest write of each byte where no other may be returned, and else a write that is ordered
before no write that its reader has seen, or whose visibility bound has passed. A context's read chooses among the writes of each byte and the buffered stores of its core: its own newest gives way only to a write that is ordered after it, and a sibling's may be
taken early or not; what it took the context has then seen. An acquire also gains the snapshot of what it took, and every write of a writer in its scope with a commit count not above a write's, or for a buffered store every write committed so far.
A Commit takes the next commit count, and each of its bytes is ordered after the writes of that byte that its writer has seen or made, those seen while they were buffered among them, and after what those are ordered after; where no write is ordered after it
already, it is what memory then holds, and a write that is ordered after it already is then ordered after all of these too. -/
def Obligations.MemoryOrder : Prop :=
  (∀ (s : State) (r : Reader) (own : BitVec 16) (also : Place → Wr → Bool) (pl : Place) (n : Nat),
    let v := s.weakRead r own also pl n
    (s.hasOlder r own also pl n = false → v.1 = s.readAt pl n own ∧ v.2.2 = s) ∧
    (s.hasOlder r own also pl n = true → v.2.2 = s.draw.2 ∧ ∀ j, j < n →
      v.1 / 256 ^ j % 256 = s.readAt (pl.plus j) 1 own ∨
      ∃ w ∈ s.wset (pl.plus j), v.1 / 256 ^ j % 256 = w.val.toNat ∧ also (pl.plus j) w = true ∧
        ∀ u ∈ s.wset (pl.plus j), r.knows (pl.plus j) u = true ∨ s.overdue (pl.plus j) u = true → u.isAfter w = false)) ∧
  (∀ (s : State) (c : Nat) (x : Ctx) (before : Nat) (acq : Option Parties) (pl : Place) (n : Nat),
    let view := s.ctxView c x before
    let v := s.viewRead view pl n
    let r := s.ctxRead c x before acq pl n
    let took := fun (e : Place × Wr) => e ∈ v.2.1 ∧ ∀ b, s.early e = some b → b.1 ≠ x.uid
    let may := fun (q : Place) (w : Wr) => (∀ u ∈ view.cands s q, view.r.knows q u = true ∨ s.overdue q u = true → u.isAfter w = false) ∧
      ∀ b, view.mine q = some b → w.n = b.n ∨ w.isAfter b = true
    r.1 = v.1 ∧
    ((r.1 = s.readAt pl n x.gen ∧ ∀ j, j < n → view.bufs (pl.plus j) = []) ∨
      ∀ j, j < n →
        let q := pl.plus j
        let got := r.1 / 256 ^ j % 256
        (∃ w ∈ view.cands s q, may q w ∧ (got = w.val.toNat ∨ (got = s.readAt q 1 x.gen ∧ (s.wset q).head?.map (fun y => y.n) = some w.n))) ∨
        (got = s.readAt q 1 x.gen ∧ ((view.mine q = none ∧ (s.stale x.gen q = true ∨ s.wset q = [])) ∨
          ∀ w ∈ view.cands s q, view.allows s q (some w) = false))) ∧
    (∀ (q : Place) (w : Wr), took (q, w) → w.n ≠ 0 → w.n ≤ s.ord.commits → (r.2.reader x.uid).knows q w = true) ∧
    (∀ (e : Place × Wr) (b : Nat × Nat), took e → s.early e = some b → b ∈ (r.2.front x.uid).early) ∧
    (∀ (q a : Place) (w u : Wr) (p : Parties) (f : Front), took (q, w) → w.n ≠ 0 →
      acq = some p → p.has w.by_ = true → w.snapshot (.ctx x.uid c x.tenant 0 0) = some f →
      (f.has a u = true ∨ (w.n ≤ s.ord.commits ∧ p.has u.by_ = true ∧ u.n ≤ w.n) ∨ (s.ord.commits < w.n ∧ u.n ≤ s.ord.commits)) →
      (r.2.front x.uid).has a u = true)) ∧
  (∀ (s : State) (k : Commit) (pl : Place) (n v : Nat) (own : BitVec 16), n ≤ 8 →
    (match pl with | .ls _ a => a / 32 = (a + n - 1) / 32 | .hbm a => s.host.dead.contains (a / 65536) = false | .host _ => True | .peer _ _ => False) →
    let t := s.commit k pl n v own
    t.ord.commits = s.ord.commits + 1 ∧
    ((∀ j, j < n → s.overtaken k (pl.plus j) = false) → ∀ q g, t.readAt q 1 g = (s.writeAt pl n v own).readAt q 1 g) ∧
    ∀ j, j < n → ∃ w ∈ t.wset (pl.plus j), w.n = s.ord.commits + 1 ∧ w.val = BitVec.ofNat 8 (v / 256 ^ j) ∧ w.by_ = k.by_ ∧ w.rel = k.rel ∧
      (s.overtaken k (pl.plus j) = false → (∀ u ∈ s.wset (pl.plus j), (s.ord.commits + 1) ∉ u.after) → (t.wset (pl.plus j)).head? = some w) ∧
      (∀ u ∈ s.wset (pl.plus j), k.r.knows (pl.plus j) u = true ∨ u.by_.same k.by_ = true → u.afterKey k.by_.key = false →
        u.n ∈ w.after ∧ (∀ m ∈ u.after, m ∈ w.after) ∧ ∀ b ∈ u.afterB, b ∈ w.afterB) ∧
      (∀ b ∈ k.r.front.early, b ∈ w.afterB) ∧
      ∀ u ∈ s.wset (pl.plus j), u.afterKey k.by_.key = true → ∃ y ∈ t.wset (pl.plus j), y.n = u.n ∧ w.n ∈ y.after ∧ ∀ m ∈ w.after, m ∈ y.after)

/-- R402, R444, R143, R186: `ldt` reads the value and its tag byte, `stt` stores both as two plain stores that count once in class S, in the journal where they go to the remote window.
Elsewhere than in the core's own store `ldt` becomes an outstanding request, for which its context waits where the result is for a port (DEDUCED, log 14); a fault comes with the reply (log 15). Which entry a journalled store takes is the
model's reading (log 49). -/
def Obligations.TagLoadsAndStores : Prop :=
  (∀ (d a : RegF) (imm : BitVec 7) (s s1 s2 s3 s4 s5 s6 : State) (base : TVal) (l t : Loc) (v g : Nat) (app : Option (Option Append)),
    let i := Instr.ldt d a imm
    let e := doer i s
    starts i s = true → Reads e a (begun s) base s1 → Finds e (operandPtr base.val imm 8) 8 .ld false s1 l s2 →
    resolveTag (operandPtr base.val imm 8) .ld e s2 = .ok (t, s3) → clear e l false s3 = true → clear e t false s3 = true →
    (s3.ctx e.core e.slot).nL < 63 →
    (l.ownLs e.core = true → t.ownLs e.core = true → readNow l e (tested e .L s3) = .ok (v, s4) → readNow t e s4 = .ok (g, s5) →
      Writes e d (tval v g) s5 s6 → exec i s = .next (ended s s6)) ∧
    ((l.ownLs e.core && t.ownLs e.core) = false → Ready e d (counted e .L s3) app s4 →
      exec i s = .next (requested e d (.ldt t.place) l app false s s4))) ∧
  (∀ (x a : RegF) (imm : BitVec 7) (s s1 s2 s3 s4 : State) (base v : TVal) (l t : Loc),
    let i := Instr.stt x a imm
    let e := doer i s
    let p := (s4.ctx e.core e.slot).seq + 1
    starts i s = true → Reads e a (begun s) base s1 → Reads e x s1 v s2 → Finds e (operandPtr base.val imm 8) 8 .st false s2 l s3 →
    resolveTag (operandPtr base.val imm 8) .st e s3 = .ok (t, s4) → clear e l true s4 = true → clear e t true s4 = true →
    let tag := w64 (v.cnt.toNat + (if v.inx then 128 else 0))
    let u := numbered e (counted e .S s4)
    (s4.ctx e.core e.slot).nS < 63 →
    (l.win ≠ .rem → t.win ≠ .rem → exec i s = .next (ended s (buffered e t tag p (buffered e l v.val p u)))) ∧
    (l.win = .rem → t.win = .rem → (s4.core e.core).journal.length + (s4.core e.core).promised < 63 →
      exec i s = .next (ended s (journalled e t tag false p (journalled e l v.val false p u)))))

/-! ## Stores -/

/-- R440, R231: a plain store, and a posted one to a window other than remote, global and peer, waits in the store buffer: class S rises,
and every byte of memory reads as the operands left it. R440, R244: a store to the remote window, and a posted store to the global window or a peer, takes a journal entry; which one is the model's reading (log 49). R440, R233: `st.rel` elsewhere than to the remote window commits once every earlier access of its context has performed, with a snapshot of its frontiers at device scope; every byte outside
those stored reads as before. R441: one to a stale granule of a trap-mode region of another core initialises nothing: it is refused for that reason, changes no byte, and is recorded (DEDUCED, log 61). -/
def Obligations.Stores : Prop :=
  (∀ (x a : RegF) (z : Size) (ord : StOrd) (imm : BitVec 7) (s s1 s2 s3 : State) (base v : TVal) (l : Loc),
    let i := Instr.st x a z ord imm
    let e := doer i s
    let n := sizeBytes z
    starts i s = true → Reads e a (begun s) base s1 → Reads e x s1 v s2 →
    Finds e (operandPtr base.val imm n) n (if ord = .posted then .posted else .st) false s2 l s3 → clear e l true s3 = true →
    (s3.ctx e.core e.slot).nS < 63 → l.win ≠ .rem → ord ≠ .rel → (ord = .posted → l.win ≠ .glob ∧ l.win ≠ .peer) →
    exec i s = .next (ended s (buffered e l v.val 0 (counted e .S s3))) ∧
    sameMemory s3 (ended s (buffered e l v.val 0 (counted e .S s3)))) ∧
  (∀ (x a : RegF) (z : Size) (ord : StOrd) (imm : BitVec 7) (s s1 s2 s3 : State) (base v : TVal) (l : Loc),
    let i := Instr.st x a z ord imm
    let e := doer i s
    let n := sizeBytes z
    starts i s = true → Reads e a (begun s) base s1 → Reads e x s1 v s2 →
    Finds e (operandPtr base.val imm n) n (if ord = .posted then .posted else .st) false s2 l s3 → clear e l true s3 = true →
    (s3.ctx e.core e.slot).nS < 63 → (s3.core e.core).journal.length + (s3.core e.core).promised < 64 →
    (ord = .rel → (s3.ctx e.core e.slot).replayMem = false) → (l.win = .rem ∨ (ord = .posted ∧ (l.win = .glob ∨ l.win = .peer))) →
    exec i s = .next (ended s (journalled e l v.val (l.win == .rem && ord == .rel) 0 (counted e .S s3))) ∧
    sameMemory s3 (ended s (journalled e l v.val (l.win == .rem && ord == .rel) 0 (counted e .S s3)))) ∧
  (∀ (x a : RegF) (z : Size) (imm : BitVec 7) (s s1 s2 s3 : State) (base v : TVal) (l : Loc),
    let i := Instr.st x a z .rel imm
    let e := doer i s
    let n := sizeBytes z
    let y := s3.ctx e.core e.slot
    let u := counted e .S s3
    let t := (numbered e (u.commit (u.byRelease e.core y.uid y.tenant y.seq .device) l.place n v.val.toNat y.gen)).modCtx e.core e.slot
      (fun y => { y with nS := y.nS - 1 })
    starts i s = true → Reads e a (begun s) base s1 → Reads e x s1 v s2 →
    Finds e (operandPtr base.val imm n) n .st false s2 l s3 → clear e l true s3 = true → y.nS < 63 → l.win ≠ .rem → performed e u = true →
    (otherStale u e.core l.place y.gen = false →
      exec i s = .next (ended s t) ∧ ∀ q, outsideStore s3 y.gen l.place n q → (ended s t).readAt q 1 y.gen = s3.readAt q 1 y.gen) ∧
    (otherStale u e.core l.place y.gen = true → ∃ t, exec i s = .next (ended s t) ∧ sameMemory s3 t ∧ (t.ctx e.core e.slot).nS = y.nS ∧
      ((s3.core e.core).jrec = none → y.state ≠ .free → y.state ≠ .draining →
        ∃ r, (t.core e.core).jrec = some r ∧ r.rsn = 4 ∧ r.ptr = l.ptr ∧ r.slot = e.slot ∧ r.uid = y.uid)))

/-- R231, R232, R233: a buffered store that may commit leaves the buffer and, where no write is ordered after it already, becomes the newest write of its bytes, and class S falls; every other byte
reads as before, for an accessor of the storing context's generation. R441: one to a stale granule of a trap-mode region of another core is refused, changes no byte, and is recorded for that reason (DEDUCED, log 61). -/
def Obligations.StoreCommits : Prop :=
  ∀ (c idx : Nat) (s : State) (b : SbEntry), (s.core c).storeBuf[idx]? = some b → commitReady s c b = true →
    ∃ t, exec (.storeBufferCommit c idx) s = .next t ∧ (t.core c).storeBuf = (s.core c).storeBuf.filter (fun y => y != b) ∧
      (b.pair = 0 → (s.ctx c b.slot).uid = b.uid → (s.ctx c b.slot).state ≠ .free → (t.ctx c b.slot).nS = (s.ctx c b.slot).nS - 1) ∧
      (otherStale s c b.place b.gen = false →
        ((∀ j, j < b.size → s.overtaken (s.byCtx c b.uid b.tenant b.seq) (b.place.plus j) = false) →
          ∀ q, t.readAt q 1 b.gen = (s.writeAt b.place b.size b.value.toNat b.gen).readAt q 1 b.gen) ∧
        (∀ q, outsideStore s b.gen b.place b.size q → t.readAt q 1 b.gen = s.readAt q 1 b.gen)) ∧
      (otherStale s c b.place b.gen = true → sameMemory s t ∧
        ((s.core c).jrec = none → (s.ctx c b.slot).uid = b.uid → (s.ctx c b.slot).state ≠ .free → (s.ctx c b.slot).state ≠ .draining →
          ∃ r, (t.core c).jrec = some r ∧ r.rsn = 4 ∧ r.slot = b.slot ∧ r.uid = b.uid))

/-- R244, R319, R186: a journalled store that may be accepted frees its entry, and class S falls. One with no reason against it commits at its destination, and is what memory then holds unless a write is ordered after it already; a refused
one leaves every byte of memory as it was, and is recorded in `jhead`. The stores of a remote `susp` are RecordsLeave's. -/
def Obligations.PostedStoreAccepted : Prop :=
  ∀ (c idx answer : Nat) (s : State) (j : JEntry), (s.core c).journal[idx]? = some j → acceptReady s c j = true → (s.ctx c j.slot).suspends j = false →
    ∃ t, exec (.postedStoreAccept c idx answer) s = .next t ∧ (t.core c).journal = (s.core c).journal.filter (fun y => y.ent != j.ent) ∧
      (j.pair = 0 → (s.ctx c j.slot).uid = j.uid → (s.ctx c j.slot).state ≠ .free → (t.ctx c j.slot).nS = (s.ctx c j.slot).nS - 1) ∧
      (refusal s j answer = 0 → ((∀ n, n < j.size → s.overtaken (s.byCtx c j.uid j.tenant j.seq) (j.place.plus n) = false) →
          ∀ q, t.readAt q 1 j.gen = (s.writeAt j.place j.size j.value.toNat j.gen).readAt q 1 j.gen) ∧
        ∀ q, outsideStore s j.gen j.place j.size q → t.readAt q 1 j.gen = s.readAt q 1 j.gen) ∧
      (refusal s j answer ≠ 0 → sameMemory s t ∧
        ((s.core c).jrec = none → (s.ctx c j.slot).uid = j.uid → (s.ctx c j.slot).land = j.land → (s.ctx c j.slot).state ≠ .free →
          (s.ctx c j.slot).state ≠ .draining → ∃ r, (t.core c).jrec = some r ∧ r.ent = j.ent ∧ r.rsn = refusal s j answer ∧ r.slot = j.slot))

/-- R74, R76, R73: a write of at most 8 bytes inside one granule of a local store is read back by an accessor under the same allocation; the granule is stamped, and
where it was stale its other bytes read 0 and its words are empty, but for the word whose state the instruction sets after the write. -/
def Obligations.GranuleWrite : Prop :=
  ∀ (k : Core) (g : BitVec 16) (off n v : Nat), off / 32 = (off + n - 1) / 32 → 1 ≤ n →
    (k.lsWrite g off n v).lsRead g off n = v % 256 ^ n ∧ (k.lsWrite g off n v).stamp off = g ∧
    (∀ a, a / 32 = off / 32 → (a < off ∨ off + n ≤ a) → (k.lsWrite g off n v).lsRead g a 1 = k.lsRead g a 1) ∧
    (∀ a h, a / 32 ≠ off / 32 → (k.lsWrite g off n v).lsRead h a 1 = k.lsRead h a 1) ∧
    (∀ a h, h ≠ g → a / 32 = off / 32 → (k.lsWrite g off n v).lsRead h a 1 = 0) ∧
    (∀ a, a / 32 = off / 32 → (k.lsWrite g off n v).full a = (decide (k.stamp off = g) && k.full a)) ∧
    (∀ a b, (k.lsWriteFe g off v b).full a = if a / 8 = off / 8 then b else (k.lsWrite g off 8 v).full a)

/-! ## Full/empty words, atomics, fences -/

/-- R238, R401, R443, R186: the full/empty operations on a word in the state each needs, with no earlier claim to the word (R185). `ldfe` empties the word,
`ldff` leaves it, `stfe` fills it with the value, `sete` empties it and leaves the value; a load acquires what it reads and `stfe` is a release, at device scope. R441, R443, R319: `stfe` and `sete` through the remote window to a core outside the partition or a word in no live region are refused for
reason 1, change nothing there, and are recorded (the entry number is the model's, log 61). A load of another core's word has its value on its way (DEDUCED, log 15), unless its destination is a port or a stream. R401, R443, R185: a word in the other state parks the context on list 2, the object being A[47:0]; nothing of the instruction stays. -/
def Obligations.FullEmptyWords : Prop :=
  (∀ (d a : RegF) (imm : BitVec 7) (s s1 s2 s3 s4 : State) (base v : TVal) (l : Loc) (c off : Nat),
    let core := s.cur.1
    let x := s3.ctx core s.cur.2
    let g := ((s3.core c).gov x.gen off).1
    let trap := ((s3.core c).gov x.gen off).2 && (s3.core c).stamp off != g
    let old : TVal := { val := w64 ((s3.core c).lsRead g off 8), cnt := 127, inx := false }
    let p := operandPtr base.val imm 8
    let last := s3.newest g (.ls c off) 8
    let got := s3.acquired (.ctx x.uid core x.tenant 0 0) .device last
    let next := fun (u : State) => u.modCtx core s.cur.2 (fun y => { y with seq := y.seq + 1 })
    let stored := l.win ≠ .rem ∨ (s3.inPart x.tenant c = true ∧ ((s3.core c).regionAt off).isSome = true)
    let by_ := fun (u : State) => u.byCtx core x.uid x.tenant x.seq
    let idle := fun (e : Env) => mayPerform e l s3 && (ownBuf e s3).all (fun b => !b.place.overlaps b.size l.place l.size)
    let empty := fun (u : State) => next ((((u.see x.uid last).record (by_ (u.see x.uid last)) (.ls c off) 0 0 g).gain x.uid got).modCore c
        (fun k => k.setFe g off false))
    let keep := fun (u : State) => (u.see x.uid last).gain x.uid got
    let out := fun (t : Bool) (u : State) => if t then empty u else keep u
    let inSlot := c = core ∨ x.isPort d.toNat = true ∨ (x.bound? d.toNat).isSome = true
    l.place = .ls c off →
    (∀ row ∈ ([(Instr.ldfe, true), (Instr.ldff, false)] : List ((RegF → RegF → BitVec 7 → Instr) × Bool)),
      let i := row.1 d a imm
      let e := doer i s
      starts i s = true → Reads e a (begun s) base s2 → Finds e p 8 .fe false s2 l s3 → clear e l row.2 s3 = true → idle e = true → x.nL < 63 →
      trap = false → (s3.core c).seenFull g off = true → claimed s3 core s.cur.2 c off true = false →
      (inSlot → Writes e d old (out row.2 (tested e .L s3)) s4 → exec i s = .next (ended s s4)) ∧
      (¬inSlot → waitReg d.toNat e (counted e .L s3) = .ok ((), counted e .L s3) → Ready e d (out row.2 (counted e .L s3)) none s4 →
        exec i s = .next (requested e d (.taken old.val) l none false s s4))) ∧
    (starts (.stfe d a imm) s = true → Reads (doer (.stfe d a imm) s) a (begun s) base s1 → Reads (doer (.stfe d a imm) s) d s1 v s2 →
      Finds (doer (.stfe d a imm) s) p 8 .fe false s2 l s3 → clear (doer (.stfe d a imm) s) l true s3 = true → performed (doer (.stfe d a imm) s) s3 = true →
      x.nS < 63 → stored → trap = false → (s3.core c).seenFull g off = false → claimed s3 core s.cur.2 c off false = false →
      let u := (counted (doer (.stfe d a imm) s) .S s3).see x.uid last
      exec (.stfe d a imm) s = .next (ended s ((next ((u.record (u.byRelease core x.uid x.tenant x.seq .device) (.ls c off) 8 v.val.toNat g).modCore c
        (fun k => k.lsWriteFe g off v.val.toNat true))).modCtx core s.cur.2 (fun y => { y with nS := y.nS - 1 })))) ∧
    (starts (.sete a imm) s = true → Reads (doer (.sete a imm) s) a (begun s) base s2 → Finds (doer (.sete a imm) s) p 8 .fe false s2 l s3 →
      clear (doer (.sete a imm) s) l true s3 = true → idle (doer (.sete a imm) s) = true → x.nS < 63 → stored →
      let u := counted (doer (.sete a imm) s) .S s3
      exec (.sete a imm) s = .next (ended s ((next ((u.record (by_ u) (.ls c off) 0 0 g).modCore c
        (fun k => k.setFe g off false))).modCtx core s.cur.2 (fun y => { y with nS := y.nS - 1 })))) ∧
    (∀ row ∈ ([(Instr.stfe d a imm, performed (doer (.stfe d a imm) s) s3), (Instr.sete a imm, idle (doer (.sete a imm) s))] : List (Instr × Bool)),
      let i := row.1
      let e := doer i s
      starts i s = true → Reads e a (begun s) base s1 → (i = .stfe d a imm → Reads e d s1 v s2) → (i = .sete a imm → s2 = s1) →
      Finds e p 8 .fe false s2 l s3 → clear e l true s3 = true → row.2 = true → x.nS < 63 → ¬stored →
      ∃ t, exec i s = .next (ended s t) ∧ sameMemory s3 t ∧ (t.core c).fe = (s3.core c).fe ∧ (t.ctx core s.cur.2).nS = x.nS ∧
        ((s3.core core).jrec = none → x.state ≠ .free → x.state ≠ .draining → ∃ r, (t.core core).jrec = some r ∧ r.rsn = 1 ∧ r.ptr = l.ptr ∧ r.slot = s.cur.2))) ∧
  (∀ row ∈ ([(Instr.ldfe, true), (Instr.ldff, false)] : List ((RegF → RegF → BitVec 7 → Instr) × Bool)),
    ∀ (d a : RegF) (imm : BitVec 7) (s s2 s3 : State) (base : TVal) (l : Loc) (off : Nat),
    let i := row.1 d a imm
    let e := doer i s
    let g := ((s3.core e.core).gov (s3.ctx e.core e.slot).gen off).1
    l.place = .ls e.core off → starts i s = true → Reads e a (begun s) base s2 → Finds e (operandPtr base.val imm 8) 8 .fe false s2 l s3 →
    clear e l row.2 s3 = true → mayPerform e l s3 = true → (ownBuf e s3).all (fun b => !b.place.overlaps b.size l.place l.size) = true →
    (s3.ctx e.core e.slot).nL < 63 → (((s3.core e.core).gov (s3.ctx e.core e.slot).gen off).2 && (s3.core e.core).stamp off != g) = false →
    (s3.core e.core).seenFull g off = false →
    exec i s = .next (s.parkOn e.core e.slot { list := 2, object := BitVec.ofNat 48 (bits l.ptr 47 0), cond := .fe e.core off true })) ∧
  (∀ (x a : RegF) (imm : BitVec 7) (s s1 s2 s3 : State) (base v : TVal) (l : Loc) (c off : Nat),
    let i := Instr.stfe x a imm
    let e := doer i s
    let g := ((s3.core c).gov (s3.ctx e.core e.slot).gen off).1
    l.place = .ls c off → starts i s = true → Reads e a (begun s) base s1 → Reads e x s1 v s2 →
    Finds e (operandPtr base.val imm 8) 8 .fe false s2 l s3 → clear e l true s3 = true → performed e s3 = true → (s3.ctx e.core e.slot).nS < 63 →
    (((s3.core c).gov (s3.ctx e.core e.slot).gen off).2 && (s3.core c).stamp off != g) = false →
    (s3.core c).seenFull g off = true → (l.win = .rem → s3.inPart (s3.ctx e.core e.slot).tenant c = true ∧ ((s3.core c).regionAt off).isSome = true) →
    exec i s = .next (s.parkOn e.core e.slot { list := 2, object := BitVec.ofNat 48 (bits l.ptr 47 0), cond := .fe c off false }))

/-- R352, R353, R366, R237, R186: `amo` and `cas` on a word of the issuing core's own store, once every earlier access has performed: the old value, a write with no later-ordered one from a writer in the scope, goes to xd, and the word becomes
the value of the table of R352, or for `cas` xb where the old value is xd's; every other byte reads as before. The atomic acquires what it reads, and its write is a release, at its scope. R353, R366: anywhere else the atomic is an outstanding request in class L, and its context parks on list 1 with xd's field as the object until the reply. -/
def Obligations.Atomics : Prop :=
  (∀ (op : AmoOp) (sc : AScope) (d a b : RegF) (s s1 s2 s3 s5 : State) (p v : TVal) (l : Loc),
    let i := Instr.amo op sc d a b
    let e := doer i s
    let u := tested e .L s3
    let x := u.ctx e.core e.slot
    let set := atomSet sc e.core
    let r := u.weakRead (u.reader x.uid) x.gen (fun q w => (u.wset q).all (fun y => !(y.isAfter w && set.has y.by_))) l.place 8
    let old := w64 r.1
    let s4 := r.2.2.see x.uid r.2.1
    let t := (s4.commit (s4.byRelease e.core x.uid x.tenant x.seq set) l.place 8 (match op with
      | .add => BitVec.ofInt 64 (old.toInt + v.val.toInt) | .and => old &&& v.val | .or => old ||| v.val | .xor => old ^^^ v.val
      | .min => BitVec.ofInt 64 (min old.toInt v.val.toInt) | .max => BitVec.ofInt 64 (max old.toInt v.val.toInt)
      | .minn => BitVec.ofNat 64 (min old.toNat v.val.toNat) | .maxn => BitVec.ofNat 64 (max old.toNat v.val.toNat)
      | .swap => v.val).toNat x.gen).gain x.uid (u.acquired (.ctx x.uid e.core x.tenant 0 0) set r.2.1)
    starts i s = true → Reads e a (begun s) p s1 → Reads e b s1 v s2 → Finds e p.val 8 .atom false s2 l s3 → l.ownLs e.core = true →
    clear e l true s3 = true → (s3.ctx e.core e.slot).nL < 63 → performed e u = true → u.staleTrap l.place x.gen = false →
    Writes e d { val := old, cnt := 127, inx := false } (numbered e t) s5 →
    exec i s = .next (ended s s5) ∧ ∀ q, outsideStore s3 x.gen l.place 8 q → t.readAt q 1 x.gen = s3.readAt q 1 x.gen) ∧
  (∀ (sc : AScope) (d a b : RegF) (s s1 s2 s3 s4 s6 : State) (p new exp : TVal) (l : Loc),
    let i := Instr.cas sc d a b
    let e := doer i s
    let u := tested e .L s4
    let x := u.ctx e.core e.slot
    let set := atomSet sc e.core
    let r := u.weakRead (u.reader x.uid) x.gen (fun q w => (u.wset q).all (fun y => !(y.isAfter w && set.has y.by_))) l.place 8
    let old := w64 r.1
    let s5 := r.2.2.see x.uid r.2.1
    let t := if old = exp.val then s5.commit (s5.byRelease e.core x.uid x.tenant x.seq set) l.place 8 new.val.toNat x.gen else s5
    starts i s = true → Reads e a (begun s) p s1 → Reads e b s1 new s2 → Reads e d s2 exp s3 → Finds e p.val 8 .atom false s3 l s4 →
    l.ownLs e.core = true → clear e l true s4 = true → (s4.ctx e.core e.slot).nL < 63 → performed e u = true → u.staleTrap l.place x.gen = false →
    Writes e d { val := old, cnt := 127, inx := false } (numbered e (t.gain x.uid (u.acquired (.ctx x.uid e.core x.tenant 0 0) set r.2.1))) s6 →
    exec i s = .next (ended s s6)) ∧
  (∀ (op : AmoOp) (sc : AScope) (d a b : RegF) (s s1 s2 s3 s4 : State) (p v : TVal) (l : Loc) (app : Option (Option Append)),
    let i := Instr.amo op sc d a b
    let e := doer i s
    starts i s = true → Reads e a (begun s) p s1 → Reads e b s1 v s2 → Finds e p.val 8 .atom false s2 l s3 → l.ownLs e.core = false →
    clear e l true s3 = true → (s3.ctx e.core e.slot).nL < 63 → Ready e d (counted e .L s3) app s4 →
    exec i s = .next (requested e d (.amo op v.val (atomSet sc e.core)) l app true s s4)) ∧
  (∀ (sc : AScope) (d a b : RegF) (s s1 s2 s3 s4 s5 : State) (p new exp : TVal) (l : Loc) (app : Option (Option Append)),
    let i := Instr.cas sc d a b
    let e := doer i s
    starts i s = true → Reads e a (begun s) p s1 → Reads e b s1 new s2 → Reads e d s2 exp s3 → Finds e p.val 8 .atom false s3 l s4 → l.ownLs e.core = false →
    clear e l true s4 = true → (s4.ctx e.core e.slot).nL < 63 → Ready e d (counted e .L s4) app s5 →
    exec i s = .next (requested e d (.cas exp.val new.val (atomSet sc e.core)) l app true s s5))

/-- R236, R386: a fence of any kind and scope changes no register, tag or memory: it completes once every earlier access of its context has performed, and
until then the context keeps its issue slot. Of kind full or acq, its context has then seen every write that a writer in the scope has committed; of kind full or rel, each later store carries the snapshot that the
fence took. -/
def Obligations.Fences : Prop :=
  ∀ (k : FenceKind) (sc : Scope) (s : State), starts (.fence k sc) s = true →
    let p := scopeSet s sc s.who s.cur.1
    (performed (doer (.fence k sc) s) (begun s) = true → ∃ t, exec (.fence k sc) s = .next (ended s t) ∧
      t.ord.wsets = s.ord.wsets ∧ t.ord.commits = s.ord.commits ∧ { t with ord := s.ord } = begun s ∧
      (∀ q w, (s.front s.who.uid).has q w = true → (t.front s.who.uid).has q w = true) ∧
      (k ≠ .rel → ∀ q w, p.has w.by_ = true → w.n ≤ s.ord.commits → (t.front s.who.uid).has q w = true) ∧
      (k ≠ .acq → (p, t.front s.who.uid) ∈ t.rels s.who.uid) ∧ (k = .acq → t.rels s.who.uid = s.rels s.who.uid) ∧
      ∀ v, v ≠ s.who.uid → t.front v = s.front v ∧ t.rels v = s.rels v) ∧
    (performed (doer (.fence k sc) s) (begun s) = false → exec (.fence k sc) s = .next (rotate s.cur.1 s.cur.2 s))

/-! ## Floating point -/

/-- R113, R115, R117: the one rounding, of a non-zero magnitude num / den × 2^e, in all six formats and all four modes. -/
def Obligations.RoundingIsCorrect : Prop :=
  ∀ f ∈ formats, ∀ (mode : Mode) (neg : Bool) (num den : Nat) (e : Int), 0 < num → 0 < den →
    let r := roundMag f mode neg { num := num, den := den, e := e } false
    RoundedOnce f mode ((if neg then -1 else 1) * (num / den * (2 : ℚ) ^ e)) r.bits r.flags

/-- R113, R114, R116 to R119, R382, R383: a lane of finite operands. A sum, product, quotient, fused product or reciprocal that is not 0 is the exact one rounded
once; an exact zero sum of numbers of unlike sign is +0, and −0 in RDN; `fmin` and `fmax` keep an operand; a comparison answers 1, 2 or 4;
`fcvt` and `fscl` round the exact value once, and `icvf` the integer. -/
def Obligations.FiniteLanes : Prop :=
  ∀ f ∈ [f64, f32, f16, b16], ∀ (mode : Mode) (a b d : Opd), a.v = f.dec a.b → b.v = f.dec b.b → d.v = f.dec d.b →
    f.finite a.b → f.finite b.b → f.finite d.b →
    let x := a.v.rat
    let y := b.v.rat
    let z := d.v.rat
    (∀ flip, x + (if flip then -y else y) ≠ 0 →
      RoundedOnce f mode (x + (if flip then -y else y)) (addLane f mode flip a b).bits (addLane f mode flip a b).flags) ∧
    (∀ flip, x ≠ 0 → x + (if flip then -y else y) = 0 → (addLane f mode flip a b).bits = f.signBit (mode == .rdn)) ∧
    (x * y ≠ 0 → RoundedOnce f mode (x * y) (mulLane f mode a b).bits (mulLane f mode a b).flags) ∧
    (x ≠ 0 → y ≠ 0 → RoundedOnce f mode (x / y) (divLane f mode a b).bits (divLane f mode a b).flags) ∧
    (∀ negate, (if negate then -(x * y) else x * y) + z ≠ 0 → RoundedOnce f mode ((if negate then -(x * y) else x * y) + z)
      (fmaLane f mode negate a b d).bits (fmaLane f mode negate a b d).flags) ∧
    (x ≠ 0 → RoundedOnce f mode (1 / x) (rcpLane f mode a).bits (rcpLane f mode a).flags) ∧
    (x < y → (minmaxLane f false a b).bits = a.b ∧ (minmaxLane f true a b).bits = b.b ∧ (cmpNibble a b).1 = 1) ∧
    (x = y → (cmpNibble a b).1 = 2) ∧ (y < x → (cmpNibble a b).1 = 4) ∧
    (∀ g ∈ formats, x ≠ 0 → RoundedOnce g mode x (cvtLane g mode a).bits (cvtLane g mode a).flags) ∧
    (f = f32 → ∀ c, c < 510 → x ≠ 0 → RoundedOnce f32 mode (x * ((2 + c % 2 : Nat) : ℚ) * (2 : ℚ) ^ (((c / 2 : Nat) : Int) - 128))
      (fsclLane mode a c).bits (fsclLane mode a c).flags) ∧
    (∀ n : Int, n ≠ 0 → RoundedOnce f mode n (roundInt f mode n 0 false).bits (roundInt f mode n 0 false).flags)

/-- R110, R113, R134, R139, R379 to R383: the element-wise operations that read their fields in the order ra, rb, old rd, take each lane by its rule, and
pass the threshold test or raise 0x0B. R383, R384: `fcmp` gives four bits a lane, less, equal, greater or unordered, and `fcls` sixteen; they are integer results, and no threshold test is made. -/
def Obligations.FloatArithmetic : Prop :=
  (∀ row ∈ ([(Instr.fadd, fun f m => addLane f m false), (Instr.fsub, fun f m => addLane f m true), (Instr.fmul, mulLane),
        (Instr.fdiv, divLane), (Instr.fmin, fun f _ => minmaxLane f false), (Instr.fmax, fun f _ => minmaxLane f true)] :
        List ((FpType → RegF → RegF → RegF → Instr) × (Fmt → Mode → Opd → Opd → Lane))),
    ∀ (t : FpType) (d a b : RegF) (s s1 s2 : State) (x y : TVal), starts (row.1 t d a b) s = true →
      Reads (doer (row.1 t d a b) s) a (begun s) x s1 → Reads (doer (row.1 t d a b) s) b s1 y s2 →
      let f := typeFmt t
      let r := fpJoin t (s2.ctx s.cur.1 s.cur.2) (fun m l => row.2 f m (opdOf f x l) (opdOf f y l))
      FpEnds (row.1 t d a b) s d s2 (r.1, r.2.1, r.2.2.1 || x.inx || y.inx, r.2.2.2) [effOf f x, effOf f y]) ∧
  (∀ row ∈ ([(Instr.fma, false), (Instr.fnma, true)] : List ((FpType → RegF → RegF → RegF → Instr) × Bool)),
    ∀ (t : FpType) (d a b : RegF) (s s1 s2 s3 : State) (x y z : TVal), starts (row.1 t d a b) s = true →
      Reads (doer (row.1 t d a b) s) a (begun s) x s1 → Reads (doer (row.1 t d a b) s) b s1 y s2 →
      Reads (doer (row.1 t d a b) s) d s2 z s3 →
      let f := typeFmt t
      let r := fpJoin t (s3.ctx s.cur.1 s.cur.2) (fun m l => fmaLane f m row.2 (opdOf f x l) (opdOf f y l) (opdOf f z l))
      FpEnds (row.1 t d a b) s d s3 (r.1, r.2.1, r.2.2.1 || x.inx || y.inx || z.inx, r.2.2.2) [effOf f x, effOf f y, effOf f z]) ∧
  (∀ row ∈ ([(Instr.fsqrt, sqrtLane), (Instr.frcp, rcpLane), (Instr.fex2, ex2Lane), (Instr.flg2, lg2Lane),
        (Instr.fneg, fun f _ o => Lane.mk (if o.b ≥ 2 ^ (f.width - 1) then o.b - 2 ^ (f.width - 1) else o.b + 2 ^ (f.width - 1)) 0 o.s false),
        (Instr.fabs, fun f _ o => Lane.mk (o.b % 2 ^ (f.width - 1)) 0 o.s false)] :
        List ((FpType → RegF → RegF → Instr) × (Fmt → Mode → Opd → Lane))),
    ∀ (t : FpType) (d a : RegF) (s s1 : State) (x : TVal), starts (row.1 t d a) s = true →
      Reads (doer (row.1 t d a) s) a (begun s) x s1 →
      let f := typeFmt t
      let r := fpJoin t (s1.ctx s.cur.1 s.cur.2) (fun m l => row.2 f m (opdOf f x l))
      FpEnds (row.1 t d a) s d s1 (r.1, r.2.1, r.2.2.1 || x.inx, r.2.2.2) [effOf f x]) ∧
  (∀ (t : FpType) (d a b : RegF) (s s1 s2 : State) (x y : TVal), starts (.fcmp t d a b) s = true →
    Reads (doer (.fcmp t d a b) s) a (begun s) x s1 → Reads (doer (.fcmp t d a b) s) b s1 y s2 →
    let f := typeFmt t
    let r := (List.range (typeLanes t)).map (fun l => cmpNibble (opdOf f x l) (opdOf f y l))
    FlagsThenWrite (.fcmp t d a b) s d s2 (r.foldl (fun c q => c ||| q.2) 0)
      { val := w64 ((r.mapIdx (fun l q => q.1 * 16 ^ l)).sum), cnt := 127, inx := false }) ∧
  (∀ (t : FpType) (d a : RegF) (s s1 : State) (x : TVal), starts (.fcls t d a) s = true →
    Reads (doer (.fcls t d a) s) a (begun s) x s1 →
    let f := typeFmt t
    FlagsThenWrite (.fcls t d a) s d s1 0
      { val := w64 (((List.range (typeLanes t)).map (fun l => 2 ^ (match f.dec (laneBits f x.val l) with
          | .inf true => 0 | .inf false => 7 | .nan true => 8 | .nan false => 9
          | .fin n m _ => if m = 0 then (if n then 3 else 4) else if m < 2 ^ f.mant then (if n then 2 else 5) else if n then 1 else 6) * 65536 ^ l)).sum), cnt := 127, inx := false })

/-- R116 to R119, R125, R135, R385, R387, R396: the conversions and `fscl`. `fcvi` rounds by each of the four modes and saturates to the integer format, with NV for a NaN and for what does not fit, and NX for what it rounds. The count that
`fcvt` writes for a subnormal result is the model's choice (log 53). -/
def Obligations.Conversions : Prop :=
  (∀ (g h : FpFmt) (rnd : Rnd) (d a : RegF) (s s1 : State) (x : TVal), starts (.fcvt g h rnd d a) s = true →
    Reads (doer (.fcvt g h rnd d a) s) a (begun s) x s1 →
    let r := cvtLane (fmtOf g) (convMode rnd (s1.ctx s.cur.1 s.cur.2)) (opdOf (fmtOf h) x 0)
    FpEnds (.fcvt g h rnd d a) s d s1 (r.bits, r.cnt, r.inexact || x.inx, r.flags) [effOf (fmtOf h) x]) ∧
  (∀ (g : IntFmt) (h : FpFmt) (rnd : Rnd) (d a : RegF) (s s1 : State) (x : TVal), starts (.fcvi g h rnd d a) s = true →
    Reads (doer (.fcvi g h rnd d a) s) a (begun s) x s1 →
    let r := fcviOf g (convMode rnd (s1.ctx s.cur.1 s.cur.2)) ((fmtOf h).dec (laneBits (fmtOf h) x.val 0))
    FlagsThenWrite (.fcvi g h rnd d a) s d s1 r.2 { val := BitVec.ofInt 64 r.1, cnt := 127, inx := false }) ∧
  (∀ (g : IntFmt) (mode : Mode) (n : Bool) (m : Nat) (e : Int),
    let x := (FVal.fin n m e).rat
    ∃ i : Int, RoundsToInt mode x i ∧ fcviOf g mode (.fin n m e) =
      if intMax g < i then (intMax g, NV) else if i < intMin g then (intMin g, NV) else (i, if (i : ℚ) = x then 0 else NX)) ∧
  (∀ (g : IntFmt) (mode : Mode) (q : Bool), fcviOf g mode (.nan q) = (0, NV) ∧ fcviOf g mode (.inf q) = (if q then intMin g else intMax g, NV)) ∧
  (∀ (g : FpFmt) (h : IntFmt) (rnd : Rnd) (d a : RegF) (s s1 : State) (x : TVal), starts (.icvf g h rnd d a) s = true →
    Reads (doer (.icvf g h rnd d a) s) a (begun s) x s1 →
    let n := match h with
      | .i32 => (x.val.extractLsb' 0 32).toInt | .n32 => ((x.val.extractLsb' 0 32).toNat : Int) | .i64 => x.val.toInt | .n64 => x.val.toNat
    let r := roundInt (fmtOf g) (convMode rnd (s1.ctx s.cur.1 s.cur.2)) n 0 false
    FlagsThenWrite (.icvf g h rnd d a) s d s1 r.flags { val := w64 r.bits, cnt := BitVec.ofNat 7 (fmtOf g).p, inx := r.inexact }) ∧
  (∀ (d a b : RegF) (s s1 s2 : State) (x y : TVal), starts (.fscl d a b) s = true →
    Reads (doer (.fscl d a b) s) a (begun s) x s1 → Reads (doer (.fscl d a b) s) b s1 y s2 →
    let r := fsclLane (curMode (s2.ctx s.cur.1 s.cur.2)) (opdOf f32 x 0) (bits y.val 8 0)
    FpEnds (.fscl d a b) s d s2 (r.bits, r.cnt, r.inexact || x.inx, r.flags) [effOf f32 x])

/-- R122, R126 to R128, R419: `qblk` loads 32 FP32 elements at xa, gives the XS9 code of the block and stores the 32 bytes, or 16 bytes of two, at xb. All
address checks come first, classes L and S and the journal must have room, and xd is pending until the reply; the reads of a block in the core's own store perform in the issue slot. The stores' count from issue on, their places in the journal and a destination port's wait are the model's
readings (log 66, log 14). The reply writes the flags and the code, and then the bytes are stored in address order. The code is the least whose value is at least max / Q, at most 509; 510 for a block that holds a NaN or an infinity. -/
def Obligations.BlockQuantization : Prop :=
  (∀ row ∈ ([(Instr.qblkI8, 127, 32), (Instr.qblkI4, 7, 16)] : List ((RegF → RegF → RegF → Instr) × Nat × Nat)),
    ∀ (d a b : RegF) (s s1 s2 s3 s4 s5 s6 : State) (p o : TVal) (srcs outs : List Loc) (vals : List Nat) (app : Option (Option Append)),
      let e := doer (row.1 d a b) s
      let far := (outs.filter (fun l => l.win == .rem)).length
      let t := (counted e .L s4).modCtx e.core e.slot (fun x => { x with nS := x.nS + outs.length })
      let n := (s6.ctx e.core e.slot).seq
      let block : Block :=
        { body := false, q := row.2.1, srcs := if vals.isEmpty then srcs.map (fun l => (l.place, l.ptr)) else [], vals := vals
          outs := outs.mapIdx (fun j l => { place := l.place, ptr := l.ptr, size := 1, rem := l.win == .rem, seq := n + 1 + j }) }
      let stay := app.isNone && (s6.ctx e.core e.slot).isPort d.toNat
      let r : LoadReq :=
        { seq := n, pc := e.tpc, next := e.pc + 4, rd := d.toNat, kind := .qblk block, place := .ls e.core 0, ptr := 0, lv := 0, elect := none, waits := stay, app := app
          taken := takenOf e.was (s6.ctx e.core e.slot) }
      starts (row.1 d a b) s = true → Reads e a (begun s) p s1 → Reads e b s1 o s2 →
      checkWords p.val 32 e s2 = .ok (srcs, s3) → checkBytes o.val row.2.2 e s3 = .ok (outs, s4) →
      (s4.ctx e.core e.slot).nL < 63 → (s4.ctx e.core e.slot).nS + outs.length ≤ 63 →
      (s4.core e.core).journal.length + (s4.core e.core).promised + far ≤ 64 →
      (if srcs.all (fun l => l.ownLs e.core) then readLocs srcs e t = .ok (vals, s5) else vals = [] ∧ s5 = t) → Ready e d s5 app s6 →
      exec (row.1 d a b) s = .next (afterRequest e d stay s
        (s6.modCtx e.core e.slot (fun x => { x with seq := n + 1 + outs.length, loads := x.loads ++ [r] })))) ∧
  (∀ (c i idx : Nat) (s : State) (l : LoadReq) (b : Block), (s.ctx c i).loads[idx]? = some l → l.kind = .qblk b →
    replyReady (s.core c) (s.ctx c i) l = true →
    (∀ t, replyFault s c (s.ctx c i) l = none →
      let v := readWordsOf c (s.ctx c i) l b.srcs s
      let r := quantize b.q ((b.vals ++ v.1).map f32.dec)
      let u := v.2.modCtx c i (fun x => { x with fflags := x.fflags ||| w64 r.flags })
      complete (if r.underflow then u.bump c 4 else u) c i l { val := w64 r.code, cnt := 127, inx := false } true = some t → b.body = false →
      exec (.loadReply c i idx) s = .next ((b.outs.zip (if b.q = 7 then pack4 r.q else pack8 r.q)).foldl (fun s o => lateStore s c i o.1 (w64 o.2)) t)) ∧
    (∀ f, replyFault s c (s.ctx c i) l = some f → b.body = false → exec (.loadReply c i idx) s = .next (failReply s c i l f).draw.2)) ∧
  (∀ (s : State) (c i : Nat) (a : Append) (v : Word), let t := lateStore s c i a v
    sameMemory s t ∧
    (a.rem = false → ∃ o ∈ (t.core c).storeBuf, o.uid = (s.ctx c i).uid ∧ o.seq = a.seq ∧ o.place = a.place ∧ o.size = a.size ∧ o.value = v) ∧
    (a.rem = true → ∃ o ∈ (t.core c).journal, o.uid = (s.ctx c i).uid ∧ o.seq = a.seq ∧ o.place = a.place ∧ o.size = a.size ∧ o.value = v)) ∧
  (∀ (q : Nat) (vs : List FVal), (q = 127 ∨ q = 7) →
    let r := quantize q vs
    let mx := vs.foldl (fun m v => max m |v.rat|) 0
    (vs.any (fun v => v.isNan || v.isInf) = true → r.code = 510 ∧ r.flags = NV ∧ r.q = vs.map (fun _ => 0)) ∧
    ((∀ v ∈ vs, ∃ b, b < 2 ^ 32 ∧ v = f32.dec b ∧ f32.finite b) → mx ≠ 0 → r.code ≤ 509 ∧
      (∀ c, c < r.code → ((xs9 c).1 : ℚ) * (2 : ℚ) ^ (xs9 c).2 * q < mx) ∧
      (r.code < 509 → mx ≤ ((xs9 r.code).1 : ℚ) * (2 : ℚ) ^ (xs9 r.code).2 * q)) ∧
    (∀ c, xs9 c = (2 + c % 2, ((c / 2 : Nat) : Int) - 128)) ∧ ∀ i ∈ r.q, -(q : Int) ≤ i ∧ i ≤ q)

/-! ## Operands (R50, R58 to R64, R172, R185, R261 to R264) -/

/-- R50, R72, R74: x0 and an entry of another generation read as value 0, count 127 and I 0; a write stamps the one entry with the writer's generation, x0
ignores it, and nothing else of the machine changes. R64, R182, R185, R261, R305: a register that a load, a fill, an `smpw` or a remaining replay has still to write or use parks its reader; the object is the field,
or for an `smpw` the word of the `wait`. That a writer of a register which an access has still to write parks too is the model's reading (DEDUCED, log 7). -/
def Obligations.GeneralRegisters : Prop :=
  (∀ (e : Env) (s : State) (f : RegF) (v : TVal), (s.ctx e.core e.slot).usable f = true →
    let x := s.ctx e.core e.slot
    let r := (s.core e.core).reg (x.wbase + f.toNat)
    Reads e f s (if f = 0 ∨ r.gen ≠ x.gen then { val := 0, cnt := 127, inx := false } else { val := r.val, cnt := r.cnt, inx := r.inx }) s ∧
    (e.elect = false → e.dest = none → ∃ t, Writes e f v s t ∧
      (∀ d n, (t.core d).reg n = if d = e.core ∧ n = x.wbase + f.toNat ∧ f ≠ 0 then { val := v.val, cnt := v.cnt, inx := v.inx, gen := x.gen }
        else (s.core d).reg n) ∧
      (∀ d n, t.ctx d n = s.ctx d n) ∧ sameMemory s t ∧ t.disp = s.disp ∧ t.host = s.host ∧ t.squares = s.squares)) ∧
  (∀ (e : Env) (s : State) (f : RegF),
    let x := s.ctx e.core e.slot
    let smp := fun (l : LoadReq) => match l.kind with | .smpw _ _ _ _ => true | _ => false
    x.isPort f.toNat = false → x.isCarry f.toNat = false → x.bound? f.toNat = none →
    (f ≠ 0 → (∃ l ∈ x.loads, l.rd = f.toNat ∧ smp l = true) → readReg f e s = M.park 5 0x1FFFFE0 (.sampled f.toNat) e s) ∧
    (f ≠ 0 → (∃ l ∈ x.loads, l.rd = f.toNat) → (∀ l ∈ x.loads, l.rd = f.toNat → smp l = false) →
      readReg f e s = M.park 1 f.toNat (.reg f.toNat) e s ∧ ∀ v, e.elect = false → e.dest = none → writeReg f v e s = M.park 1 f.toNat (.reg f.toNat) e s) ∧
    ((∀ l ∈ x.loads, l.rd = f.toNat → f = 0) → (∃ p ∈ x.fill, p.1 = f.toNat) → readReg f e s = M.park 1 f.toNat (.fill f.toNat) e s) ∧
    ((∀ l ∈ x.loads, l.rd = f.toNat → f = 0) → (∀ p ∈ x.fill, p.1 ≠ f.toNat) → e.replay = none →
      (∃ b, x.body = some b ∧ b.stopped = false ∧ b.touches f.toNat = true) → readReg f e s = M.park 1 f.toNat .replays e s))

/-- R58 to R61: a port register pops the oldest word of its receive queue, or parks on list 3; a write sends the word to the core and queue that `qdst` names, or
parks on list 4 while the send queue is full; a destination that may not be written to raises 0x05 with the queue's number. R172, R177: a carry operand gives the published slot of the item it names; one that is not published parks on list 9, or raises 0x0C with code 2 where its item
was aborted. R262, R263, R429: a bound register reads the next element of its generator where class L has room, extended as `sgstep` says, and the pointer and the length step; with length 0 a read gives
0, a write is dropped, and `sgend` notes it. -/
def Obligations.SpecialOperands : Prop :=
  (∀ (e : Env) (s : State) (n : Nat) (f : RegF) (v : TVal), n < 8 → f.toNat = 104 + n → (s.ctx e.core e.slot).port = true →
    (s.ctx e.core e.slot).usedByBody f = false → e.elect = false → e.dest = none →
    let x := s.ctx e.core e.slot
    let q := SMap.get x.qdst n 0
    (∀ h t, SMap.get x.rxq n [] = h :: t →
      Reads e f s h (s.modCtx e.core e.slot (fun x => { x with rxq := SMap.put x.rxq [] n t }))) ∧
    (SMap.get x.rxq n [] = [] → readReg f e s = M.park 3 n (.portRx n) e s) ∧
    (portOk s x.tenant q = true → sendFull s e.core = false →
      let m : PortMsg := { srcCore := e.core, tenant := x.tenant, core := bits q 22 9, slot := bits q 5 0, queue := bits q 8 6, v := v }
      Writes e f v s { s with ports := s.ports ++ [m] }) ∧
    (portOk s x.tenant q = true → sendFull s e.core = true → writeReg f v e s = M.park 4 n .portTx e s) ∧
    (portOk s x.tenant q = false → writeReg f v e s = M.trap 0x05 0 (w64 n) e s) ∧
    (portOk s x.tenant q = true ↔ q.getLsbD 23 = true ∧ bits q 22 9 < 12544 ∧ s.inPart x.tenant (bits q 22 9) = true)) ∧
  (∀ (e : Env) (s : State) (k j : Nat) (f : RegF) (r : Run), 1 ≤ k → k ≤ 4 → j < 4 → f.toNat = 112 + 4 * (k - 1) + j →
    let x := s.ctx e.core e.slot
    x.chain = true → x.usedByBody f = false → s.run? x.run = some r → k ≤ x.index →
    (∀ v, r.slot? (x.index - k) j = some v → Reads e f s v (s.gain x.uid (s.chan (.carry r.uid (x.index - k) j)))) ∧
    (r.slot? (x.index - k) j = none → r.abortedItems.contains (x.index - k) = true →
      readReg f e s = M.trap 0x0C 0 (w64 (2 + 16 * j + 64 * k)) e s) ∧
    (r.slot? (x.index - k) j = none → r.abortedItems.contains (x.index - k) = false →
      readReg f e s = M.park 9 (4 * (k - 1) + j) (.carry x.run (x.index - k) j) e s)) ∧
  (∀ (e : Env) (s : State) (f : RegF) (g : Nat), g < 4 →
    let x := s.ctx e.core e.slot
    x.isPort f.toNat = false → x.isCarry f.toNat = false → x.bound? f.toNat = some g → x.replaying = false → e.elect = false → e.dest = none →
    let ended := s.modCtx e.core e.slot (fun x => x.setEr 1 1 (x.er 1 1 ||| w64 (2 ^ g)))
    (sgLen x g = 0 → Reads e f s { val := 0, cnt := 127, inx := false } ended ∧ ∀ v, Writes e f v s ended) ∧
    (0 < sgLen x g → ∀ v t, loadNow (sgPtr x g) (sgSize x g) e s = .ok (v, t) → (t.ctx e.core e.slot).nL < 63 →
      Reads e f s { val := extend v (sgSize x g) ((sgStep x g).getLsbD 34), cnt := 127, inx := false }
        ((tested e .L t).modCtx e.core e.slot (fun y => (y.setEr 1 (0x10 + 4 * g) (sgPtr y g + ((sgStep y g).extractLsb' 0 32).signExtend 64)).setEr 1
          (0x12 + 4 * g) (w64 (sgLen y g - 1))))))

/-! ## Traps -/

/-- R105: what an instruction meets before it executes. The first check that fails is reported, at the word's address, and nothing of the instruction stays. -/
def Obligations.ChecksAtIssue : Prop :=
  (∀ (i : Instr) (w : IWord) (s : State) (t : TrapInfo), encode i = some w → precheck s.cur.1 s.who (form i) w = some t →
    exec i s = .next (rotate s.cur.1 s.cur.2 (raise (doer i s) t s))) ∧
  (∀ (c : Nat) (x : Ctx) (fm : Form) (w : IWord),
    (fm.sup = true → x.level = 0 → precheck c x fm w = some { cause := 0x02, aux := w64 w.toNat }) ∧
    ((fm.sup = false ∨ x.level ≠ 0) → ∀ p, fm.pin = some p → x.landing = false → x.pin ≠ p →
      precheck c x fm w = some { cause := 0x03, aux := w64 w.toNat }) ∧
    ((fm.sup = false ∨ x.level ≠ 0) → pinOk c x fm.pin = true → ∀ f l r, fm.src ++ fm.dst.toList = l ++ f :: r →
      (∀ g ∈ l, g.toNat < x.wcount ∨ x.exempt g.toNat = true) → x.wcount ≤ f.toNat → x.exempt f.toNat = false →
      precheck c x fm w = some { cause := 0x01, aux := w64 f.toNat }) ∧
    ((fm.sup = false ∨ x.level ≠ 0) → pinOk c x fm.pin = true → (∀ f ∈ fm.src ++ fm.dst.toList, f.toNat < x.wcount ∨ x.exempt f.toNat = true) →
      ∀ d, fm.dst = some d → x.chain = true → 112 ≤ d.toNat →
      precheck c x fm w = some { cause := 0x01, aux := w64 (5 * 2 ^ 32 + w.toNat) })) ∧
  (∀ (w : IWord) (r : Reject) (s : State), decode w = .error r →
    exec (.issueRefusalHolder w) s = .next (rotate s.cur.1 s.cur.2 (raise (envOf s w)
      { cause := 0x01, aux := w64 ((match r with | .major => 1 | .selector => 2 | .reservedField => 3 | .reservedValue => 4) * 2 ^ 32 + w.toNat) } s)))

/-- R311, R312, R314: a trap goes to user level where its cause is delegated and the user handler is free, else to the supervisor handler; with neither, the context ends and event
counter 3 rises. Entry writes the level's trap registers, the level, ppriv and the in-handler bit, and goes to the vector; no general register, flag, counter or byte of
memory changes. -/
def Obligations.TrapEntry : Prop :=
  ∀ (c i : Nat) (pc : Word) (t : TrapInfo) (s : State), t.cause ≠ 0x11 → t.cause ≠ 0x12 → t.cause ≠ 0x13 → t.cause ≠ 0x0C →
    (s.ctx c i).state ≠ .free → (s.ctx c i).state ≠ .draining → (s.ctx c i).level ≤ 1 →
    let x := s.ctx c i
    let u := takeTrap c i pc none t s
    let y := u.ctx c i
    let user := x.level = 0 ∧ x.delegated t.cause = true ∧ x.uin = false ∧ x.ut.vec ≠ 0
    let rec_ : Word → TrapRegs := fun v => { vec := v, cause := w64 t.cause, pc := if t.done then pc + 4 else pc, addr := t.addr, aux := t.aux }
    (user → y.ut = rec_ x.ut.vec ∧ y.st = x.st ∧ y.level = 0 ∧ y.uin = true ∧ y.sin = x.sin ∧ y.ppriv = x.ppriv ∧ y.pc = x.ut.vec) ∧
    (¬user → x.sin = false → x.st.vec ≠ 0 →
      y.st = rec_ x.st.vec ∧ y.ut = x.ut ∧ y.level = 1 ∧ y.ppriv = x.level ∧ y.sin = true ∧ y.uin = x.uin ∧ y.pc = x.st.vec) ∧
    (¬user → (x.sin = true ∨ x.st.vec = 0) → y.state = .draining ∧ y.ended = some .terminated ∧
      SMap.get (u.core c).events 3 (0 : BitVec 32) =
        (let n := SMap.get (s.core c).events 3 (0 : BitVec 32); if n = 0xFFFFFFFF then n else n + 1)) ∧
    (∀ d, (u.core d).regs = (s.core d).regs ∧ (u.core d).acc = (s.core d).acc) ∧ sameMemory s u ∧ y.fflags = x.fflags ∧ y.qdst = x.qdst ∧
    ((user ∨ (x.sin = false ∧ x.st.vec ≠ 0)) → y.nL = x.nL ∧ y.nS = x.nS ∧ y.nC = x.nC ∧ y.nM = x.nM ∧ y.nQ = x.nQ ∧ y.state = x.state ∧
      y.loads = x.loads ∧ y.copyQ = x.copyQ)

/-- R314, R376, R449: `trap` and `dbg` take their trap, 0x0E or 0x0F with n; `trappc` is the next word. `dbg` is also noted for the host ring. R313, R322: `eret` in the handler of its level clears the in-handler bit and goes to `trappc`, at supervisor level with the level of ppriv; a held cause is then taken, with `trappc` at that word, and the others stay held.
With no handler active it raises 0x01 with reason 8, and a `trappc` that no branch may go to raises, at the new level, the fault of a branch target, with `trappc` holding it. -/
def Obligations.SoftwareTraps : Prop :=
  (∀ (n : BitVec 8) (s : State), starts (.trap n) s = true → s.who.replaying = false →
    exec (.trap n) s = .next (rotate s.cur.1 s.cur.2
      (takeTrap s.cur.1 s.cur.2 s.who.pc none { cause := 0x0E, aux := w64 n.toNat, done := true } s))) ∧
  (∀ (n : BitVec 8) (s : State), starts (.dbg n) s = true → s.who.replaying = false →
    let t := rotate s.cur.1 s.cur.2 (takeTrap s.cur.1 s.cur.2 s.who.pc none { cause := 0x0F, aux := w64 n.toNat, done := true } s)
    let v := Event.mk t.tstamp 9 (t.ctx s.cur.1 s.cur.2).tenant s.cur.1 s.cur.2 (w64 n.toNat)
    exec (.dbg n) s = .next (t.modHost (fun h => { h with evQ := h.evQ ++ [v] }))) ∧
  (∀ (s : State), starts .eret s = true →
    let x := s.who
    let bad := fun (p : Word) (f : TrapInfo) => (p.toNat % 4 ≠ 0 ∧ f = { cause := 0x04, addr := p }) ∨
      (p.toNat % 4 = 0 ∧ 2 ^ 56 ≤ p.toNat ∧ f = { cause := 0x05, addr := p, aux := 1 })
    let left := fun (u : State) (pc : Word) (level : Nat) (uin sin : Bool) => let y := u.ctx s.cur.1 s.cur.2
      y.pc = pc ∧ y.level = level ∧ y.uin = uin ∧ y.sin = sin ∧ y.ut = x.ut ∧ y.st = x.st ∧ sameMemory s u
    (x.level = 0 → x.uin = false → exec .eret s = .next (rotate s.cur.1 s.cur.2 (raise (doer .eret s)
      { cause := 0x01, aux := w64 (8 * 2 ^ 32 + 0xCC000200) } s))) ∧
    (x.level ≠ 0 → x.sin = false → exec .eret s = .next (rotate s.cur.1 s.cur.2 (raise (doer .eret s)
      { cause := 0x01, aux := w64 (8 * 2 ^ 32 + 0xCC000200) } s))) ∧
    (x.level = 0 → x.uin = true → x.urep = false → x.ut.pc.toNat % 4 = 0 → x.ut.pc.toNat < 2 ^ 56 → ∃ t, exec .eret s = .next t ∧
      (t.ctx s.cur.1 s.cur.2).pc = x.ut.pc ∧ (t.ctx s.cur.1 s.cur.2).level = 0 ∧ (t.ctx s.cur.1 s.cur.2).uin = false ∧
      (t.ctx s.cur.1 s.cur.2).sin = x.sin ∧ sameMemory s t) ∧
    (x.level = 1 → x.sin = true → x.srep = false → x.held = [] → x.st.pc.toNat % 4 = 0 → x.st.pc.toNat < 2 ^ 56 → ∃ t, exec .eret s = .next t ∧
      (t.ctx s.cur.1 s.cur.2).pc = x.st.pc ∧ (t.ctx s.cur.1 s.cur.2).level = x.ppriv ∧ (t.ctx s.cur.1 s.cur.2).sin = false ∧
      (t.ctx s.cur.1 s.cur.2).uin = x.uin ∧ sameMemory s t) ∧
    (x.level = 0 → x.uin = true → x.urep = false → ∀ f, bad x.ut.pc f → ∃ u, left u x.ut.pc 0 false x.sin ∧
      exec .eret s = .next (ended s (takeTrap s.cur.1 s.cur.2 x.ut.pc none f u))) ∧
    (x.level = 1 → x.sin = true → x.srep = false → ∀ f, bad x.st.pc f → ∃ u, left u x.st.pc x.ppriv x.uin false ∧
      exec .eret s = .next (ended s (deliverHeld (takeTrap s.cur.1 s.cur.2 x.st.pc none f u) s.cur.1 s.cur.2))) ∧
    (x.level = 1 → x.sin = true → x.srep = false → x.st.pc.toNat % 4 = 0 → x.st.pc.toNat < 2 ^ 56 → ∀ h r, x.held = h :: r →
      ∃ u, left u x.st.pc x.ppriv x.uin false ∧ (u.ctx s.cur.1 s.cur.2).held = r ∧
        exec .eret s = .next (ended s (takeTrap s.cur.1 s.cur.2 x.st.pc none h u))))

/-! ## Control registers, engine registers, and what only advances the PC -/

/-- R61, R67 to R69, R77, R112, R154, R155, R309, R319, R321, R327, R372: `csrr` gives the control register; the trap registers are those of the level, and the core of `ctxinfo` is the primary's. R67, R210, R309, R310, R328, R373: the write forms replace the register, set the bits of xa, or clear them; reserved and read-only bits stay, and a register that the
level may only read does not change. -/
def Obligations.ControlRegisters : Prop :=
  (∀ (n : BitVec 10) (d : RegF) (s s1 : State), starts (.csrr n d) s = true → csrOk n.toNat = true → n ≠ 0x060 →
    (n = 0x011 → s.who.replaying = false ∧ s.who.oneOpen = false) →
    Writes (doer (.csrr n d) s) d { val := csrRead (begun s) s.cur.1 s.cur.2 n.toNat 0, cnt := 127, inx := false } (begun s) s1 →
    exec (.csrr n d) s = .next (ended s s1)) ∧
  (∀ (d : RegF) (s s1 : State), starts (.csrr 0x060 d) s = true →
    Writes (doer (.csrr 0x060 d) s) d { val := csrRead (begun s) s.cur.1 s.cur.2 0x060 s.free, cnt := 127, inx := false } (begun s).draw.2 s1 →
    exec (.csrr 0x060 d) s = .next (ended s s1)) ∧
  (∀ (s : State) (c i f : Nat),
    let k := s.core c
    let x := s.ctx c i
    let r := if x.level = 0 then x.ut else x.st
    (∀ row ∈ [(0x000, x.status), (0x001, r.vec), (0x002, r.cause), (0x003, r.pc), (0x004, r.addr), (0x005, r.aux), (0x010, x.sigmin),
        (0x011, x.fflags), (0x012, x.fround), (0x020, x.tagbase), (0x022, x.pvbase), (0x043, w64 s.tstamp), (0x070, w64 k.lim)],
      csrRead s c i row.1 f = row.2) ∧
    (∀ n, n < 8 → csrRead s c i (0x030 + n) f = SMap.get x.qdst n 0) ∧
    (∀ n, n < 16 → csrRead s c i (0x050 + n) f = w64 (SMap.get k.events n (0 : BitVec 32)).toNat) ∧
    (i < 64 → s.lead c < 12544 → x.wbase < 2048 → x.wcount ≤ 128 →
      bits (csrRead s c i 0x040 f) 5 0 = i ∧ bits (csrRead s c i 0x040 f) 24 14 = x.wbase ∧ bits (csrRead s c i 0x040 f) 32 25 = x.wcount ∧
      bits (csrRead s c i 0x040 f) 46 33 = s.lead c ∧ bits (csrRead s c i 0x040 f) 63 48 = x.gen.toNat) ∧
    (k.journal ≠ [] → (∀ e ∈ k.journal, e.ent < 64) → k.journal.length ≤ 64 →
      bits (csrRead s c i 0x060 f) 12 6 = k.journal.length ∧ (csrRead s c i 0x060 f).getLsbD 13 = k.jrec.isSome)) ∧
  (∀ row ∈ ([(Instr.csrw, CsrOp.w, fun _ v => v), (Instr.csrs, CsrOp.s, fun o v => o ||| v), (Instr.csrc, CsrOp.c, fun o v => o &&& ~~~v)] :
      List ((BitVec 10 → RegF → Instr) × CsrOp × (Word → Word → Word))),
    (∀ (n : BitVec 10) (a : RegF) (s s1 : State) (v : TVal), starts (row.1 n a) s = true → csrOk n.toNat = true →
      s.who.replaying = false → (n = 0x011 → s.who.oneOpen = false) → Reads (doer (row.1 n a) s) a (begun s) v s1 →
      exec (row.1 n a) s = .next (ended s (csrWrite s.cur.1 s.cur.2 n.toNat row.2.1 v.val s1))) ∧
    (∀ o v, csrVal row.2.1 o v = row.2.2 o v)) ∧
  (∀ (s : State) (c i : Nat) (op : CsrOp) (v : Word),
    let x := s.ctx c i
    let after := fun n => csrWrite c i n op v s
    let y := fun n => (after n).ctx c i
    (x.level = 0 → ∀ n, (n = 0x000 ∨ n = 0x022 ∨ n = 0x060 ∨ n = 0x070 ∨ (0x050 ≤ n ∧ n ≤ 0x05F)) → after n = s) ∧
    (∀ n, (n = 0x021 ∨ n = 0x038 ∨ (0x040 ≤ n ∧ n ≤ 0x043)) → after n = s) ∧
    (x.level ≠ 0 → (y 0).level = x.level ∧ (y 0).uin = (csrVal op x.status v).getLsbD 4 ∧ (y 0).sin = (csrVal op x.status v).getLsbD 5 ∧
      (y 0).ppriv = min 1 (bits (csrVal op x.status v) 3 2) ∧ bits (y 0).status 13 8 = bits (csrVal op x.status v) 13 8) ∧
    (x.level = 0 → (y 1).ut.vec = csrVal op x.ut.vec v &&& ~~~3 ∧ (y 1).st = x.st ∧ (y 3).ut.pc = csrVal op x.ut.pc v) ∧
    (x.level ≠ 0 → (y 1).st.vec = csrVal op x.st.vec v &&& ~~~3 ∧ (y 1).ut = x.ut ∧ (y 3).st.pc = csrVal op x.st.pc v) ∧
    (y 0x010).sigmin = w64 (min 64 (bits (csrVal op x.sigmin v) 6 0)) ∧ (y 0x011).fflags = csrVal op x.fflags v &&& 0x1F ∧
    (y 0x012).fround = csrVal op x.fround v &&& 3 ∧ (y 0x020).tagbase = csrVal op x.tagbase v ∧
    (∀ n, n < 8 → SMap.get (y (0x030 + n)).qdst n 0 = csrVal op (SMap.get x.qdst n 0) v &&& 0xFFFFFF) ∧
    (x.level ≠ 0 → (y 0x022).pvbase = csrVal op x.pvbase v &&& 0xFFFE0FFFE0 ∧
      ((after 0x070).core c).lim = max 1 (min 64 (bits (csrVal op (w64 (s.core c).lim) v) 6 0)) ∧
      (op ≠ .c → v.getLsbD 13 = true → ((after 0x060).core c).jrec = none)) ∧
    ∀ n, sameMemory s (after n) ∧ ∀ d, ((after n).core d).regs = (s.core d).regs)

/-- R247, R262, R271, R273, R281, R298, R378: `erd` gives an engine register; `ewr` replaces its writable bits, and clears the bits or the record that a W1C register holds; a set register of
the copy engine belongs to the core: every context of an array core, and on a kerb core every context of the tenant, reads what one wrote. No other register of the context changes. -/
def Obligations.EngineRegisters : Prop :=
  (∀ (g : Engine) (n : BitVec 8) (d : RegF) (s s1 : State), starts (.erd g n d) s = true → (g = .repeat → s.who.replaying = false) →
    Writes (doer (.erd g n d) s) d { val := engRead (begun s) s.cur.1 s.cur.2 g n.toNat, cnt := 127, inx := false } (begun s) s1 →
    exec (.erd g n d) s = .next (ended s s1)) ∧
  (∀ (g : Engine) (n : BitVec 8) (a : RegF) (s s1 : State) (v : TVal), starts (.ewr g n a) s = true →
    (g = .repeat → s.who.replaying = false) → Reads (doer (.ewr g n a) s) a (begun s) v s1 →
    exec (.ewr g n a) s = .next (ended s (engWrite s.cur.1 s.cur.2 g n.toNat v.val s1))) ∧
  (∀ row ∈ ([(.repeat, 0x00, 0xFFFF), (.matrix, 0, 0x3FFFFFF), (.matrix, 1, 0xFFFFF), (.matrix, 2, 0x3FF), (.matrix, 3, 0x1FF), (.matrix, 4, 0xFFFFF),
      (.matrix, 5, 0xFFFFF), (.matrix, 6, 0xFFFFF), (.rope, 0, 0xFFFFFFFFFFFFFFFF), (.rope, 1, 0xFFFE0), (.rope, 2, 0xFFFFFFFF), (.sample, 0, 0xFFFFFFF),
      (.sample, 1, 0xFFFFFFFFFFFFFFFF), (.sample, 2, 0xFFFFFFFF), (.sample, 3, 0xFFFFFFFF), (.sample, 4, 0xFFFFFFFF), (.sample, 5, 0xFFFFFFFF)] ++
      (List.range 4).flatMap (fun g => [(.repeat, 0x10 + 4 * g, 0xFFFFFFFFFFFFFFFF), (.repeat, 0x11 + 4 * g, 0x7FFFFFFFF), (.repeat, 0x12 + 4 * g, 0xFFFFFFFF)]) ++
      (List.range 128).map (fun n => (.copy, n, if n % 16 = 0 then 0x3FF7F else 0xFFFFFFFFFFFFFFFF)) : List (Engine × Nat × Word)),
    ∀ (s : State) (c i : Nat) (v : Word), engRead (engWrite c i row.1 row.2.1 v s) c i row.1 row.2.1 = v &&& row.2.2 ∧
      ∀ g n, n < 256 → (g, n) ≠ (row.1, row.2.1) → engRead (engWrite c i row.1 row.2.1 v s) c i g n = engRead s c i g n) ∧
  (∀ (s : State) (c i j n : Nat) (v : Word), n < 128 → isArray c = true ∨ (s.ctx c i).tenant = (s.ctx c j).tenant →
    engRead (engWrite c i .copy n v s) c j .copy n = v &&& (if n % 16 = 0 then 0x3FF7F else 0xFFFFFFFFFFFFFFFF)) ∧
  (∀ (s : State) (c i : Nat) (v : Word),
    let o := engRead s c i .matrix 8
    let w := engRead (engWrite c i .matrix 8 v s) c i .matrix 8
    (∀ n, n < 5 → w.getLsbD n = (o.getLsbD n && !v.getLsbD n)) ∧ (v.getLsbD 16 = false → ∀ n, 5 ≤ n → w.getLsbD n = o.getLsbD n) ∧
    (v.getLsbD 16 = true → bits w 15 8 = 0 ∧ w.getLsbD 16 = false ∧ bits w 47 32 = 0)) ∧
  (∀ (s : State) (c i : Nat) (v : Word), engRead (engWrite c i .repeat 1 v s) c i .repeat 1 = engRead s c i .repeat 1 &&& ~~~(v &&& 0xF) ∧
    (v.getLsbD 15 = true → engRead (engWrite c i .copy 0x80 v s) c i .copy 0x80 = 0 ∧ engRead (engWrite c i .copy 0x80 v s) c i .copy 0x81 = 0 ∧
      engRead (engWrite c i .rope 8 v s) c i .rope 8 = 0))

/-- R184, R315, R410, R451: `nop` only advances the PC; `yield` lets every other context that is ready now issue or park first; `idle` parks its context for good, past itself. -/
def Obligations.NopYieldIdle : Prop :=
  (∀ s : State, starts .nop s = true → exec .nop s = .next (ended s (begun s))) ∧
  (∀ s : State, starts .yield s = true → exec .yield s = .next (ended s ((begun s).modCtx s.cur.1 s.cur.2 (fun x =>
    { x with skip := ((s.home.ctxs.filter (fun p => p.1 != s.cur.2 && p.2.state == .ready)).map (fun p => p.1)) })))) ∧
  (∀ s : State, starts .idle s = true →
    exec .idle s = .next ((begun s).parkOn s.cur.1 s.cur.2 { list := 5, object := 0x1FFFFFF, cond := .never }))

/-! ## Continuations (R145, R160 to R168, R196, R307, R392 to R394) -/

/-- R160 to R162, R166, R168, R392, R393, R400: where a landing may end, `go` to a core of the partition, and `ld.go` to another channel, send the record of the next, or the same, instruction
and end the landing; outside a landing `go` takes a suspended record from memory and delivers it to its own core, and `ld.go` is a plain load. R166, R167, R394, R446: where a landing may end, `susp` stores the record of the next instruction at its place and `hold` registers a block in the hold table of its core; each ends the
landing. Through the remote window `susp` journals its eight stores, word 0 last, and the landing ends in the step that commits word 0; a refusal of one of them takes the rest back. Both are for landing role alone. The kerb core of a host page is a free pick (the model's choice, log 5), and which records may leave is
the model's reading of room and order (log 19, log 36, log 60). -/
def Obligations.RecordsLeave : Prop :=
  (∀ (a : RegF) (s s1 : State) (p : TVal) (d : Nat), starts (.go a) s = true → Reads (doer (.go a) s) a (begun s) p s1 →
    (s1.ctx s.cur.1 s.cur.2).landing = true → landingMayEnd (doer (.go a) s) s1 = true → ¬(bits p.val 63 56 = 0 ∧ p.val.getLsbD 51 = false) →
    goCore s1 s.cur.1 (s1.ctx s.cur.1 s.cur.2) p.val = .ok d → canShip s1 (shipmentOf (doer (.go a) s) s1 (s.who.pc + 4) d) = true →
    exec (.go a) s = .next (ended s (shipped (doer (.go a) s) (s.who.pc + 4) d s1))) ∧
  (∀ (a : RegF) (s s1 s2 t : State) (p : TVal) (l : Loc) (way : Delivered),
    let i := Instr.go a
    let e := doer i s
    let x := s2.ctx e.core e.slot
    let w := (List.range 8).map (fun j => w64 (s2.readAt (l.place.plus (8 * j)) 8 x.gen))
    starts i s = true → Reads e a (begun s) p s1 → (s1.ctx e.core e.slot).landing = false → Finds e p.val 64 .atom false s1 l s2 →
    (s1.ctx e.core e.slot).ship = none → clear e l true s2 = true → performed e s2 = true → homeFault s2 e.core (.cas 0 0 .device) l.place p.val l.lv x.gen = none →
    bits (w.getD 1 0) 29 24 = x.tenant → bits (w.getD 0 0) 47 46 = 1 → bits (w.getD 1 0) 63 62 = 0 → s2.staleTrap (l.place.plus 32) x.gen = false →
    let s3 := s2.see x.uid (s2.latest l.place 64)
    let got := s2.acquiredAt (.ctx x.uid e.core x.tenant 0 0) l.place 64
    deliverRecord (numbered e ((s3.commit (s3.byRelease e.core x.uid x.tenant x.seq .device) l.place 8 (setBits (w.getD 0 0) 47 46 0).toNat x.gen).gain x.uid got))
      { words := w, dest := e.core, src := 0, tenant := x.tenant, sender := e.core, front := (s2.released x.uid .device).join got } = some (way, t) →
    exec i s = .next (match way with
      | .queue => ended s (t.modCtx e.core e.slot (fun y => { y with ship := none }))
      | .ring n => ((t.modCtx e.core e.slot (fun y => { y with ship := some (ringMark, [w64 n, s.who.pc]) })).modCtx e.core e.slot
          (fun y => { y.noteTaken s.who with pc := s.who.pc })).parkOn e.core e.slot { list := 10, object := 0, cond := .delivery })) ∧
  (∀ (d a : RegF) (z : Size) (imm : BitVec 7) (s s1 s2 s3 s4 : State) (base : TVal) (l : Loc) (app : Option (Option Append)),
    let i := Instr.ldGo d a z imm
    let e := doer i s
    let n := sizeBytes z
    let p := operandPtr base.val imm n
    let x := s3.ctx e.core e.slot
    let stays := (∃ m, Finds e p n .ld false s1 m s2 ∧ (match m.place with
      | .hbm h => isKerb e.core && kerbOf h == e.core
      | _ => isKerb e.core) = true)
    starts i s = true → Reads e a (begun s) base s1 →
    (if (s1.ctx e.core e.slot).landing = true ∧ bits p 63 56 = 0 ∧ p.getLsbD 51 = false then stays else s2 = s1) →
    Finds e p n .ld (z == .d) s2 l s3 → clear e l false s3 = true →
    (l.ownLs e.core = false → x.nL < 63 → Ready e d (counted e .L s3) app s4 →
      exec i s = .next (requested e d (.ld n (sizeSigned z) false) l app false s s4)) ∧
    (l.ownLs e.core = true → mayPerform e l s3 = true → (s3.staleTrap l.place x.gen && !granuleBuffered (ownBuf e s3) l.place) = false →
      let r := s3.ctxRead e.core x x.seq none l.place n
      Writes e d { val := extend r.1 n (sizeSigned z), cnt := 127, inx := false } r.2 s4 → exec i s = .next (ended s s4))) ∧
  (∀ (d a : RegF) (z : Size) (imm : BitVec 7) (s s1 s2 s3 : State) (base : TVal) (l : Loc) (q : Place) (lv : Nat),
    let i := Instr.ldGo d a z imm
    let e := doer i s
    let p := operandPtr base.val imm (sizeBytes z)
    let u := match q with | .hbm _ => s3 | _ => s3.draw.2
    let far := match q with | .hbm m => kerbOf m | _ => 12288 + Config.freePick s3.free % 256
    starts i s = true → Reads e a (begun s) base s1 → (s1.ctx e.core e.slot).landing = true → bits p 63 56 = 0 → p.getLsbD 51 = false →
    Finds e p (sizeBytes z) .ld false s1 l s2 →
    (match l.place with | .hbm h => isKerb e.core && kerbOf h == e.core | _ => isKerb e.core) = false → landingMayEnd e s2 = true →
    translate p .ld e s2 = .ok ((q, lv), s3) → canShip u (shipmentOf e u s.who.pc far) = true →
    exec i s = .next (ended s (shipped e s.who.pc far u))) ∧
  (∀ (a : RegF) (s s1 s2 : State) (p : TVal) (l : Loc),
    let i := Instr.susp a
    let e := doer i s
    let w := buildRecord (s2.core e.core) (s2.ctx e.core e.slot) (s.who.pc + 4) 1
    starts i s = true → s.who.landing = true → Reads e a (begun s) p s1 →
    landingMayEnd e s1 = true → Finds e p.val 64 .st false s1 l s2 → recordTarget l e s2 = .ok ((), s2) → clear e l true s2 = true →
    (l.win ≠ .rem → exec i s = .next (ended s (endLanding (numbered e (writeRecord s2 e.core (s2.ctx e.core e.slot) l.place w)) e.core e.slot))) ∧
    (l.win = .rem → (s2.ctx e.core e.slot).nS + 8 ≤ 63 → (s2.core e.core).journal.length + (s2.core e.core).promised ≤ 56 →
      ∃ t js, exec i s = .next t ∧ (t.ctx e.core e.slot).state = .parked ∧ (t.ctx e.core e.slot).ship = some (65535, []) ∧
        (t.ctx e.core e.slot).nS = (s2.ctx e.core e.slot).nS + 8 ∧ sameMemory s2 t ∧ (t.core e.core).journal = (s2.core e.core).journal ++ js ∧
        js.map (fun y => (y.place, y.value, y.rel, y.susp)) = [1, 2, 3, 4, 5, 6, 7, 0].map (fun n => (l.place.plus (8 * n), w.getD n 0, n == 0, true)))) ∧
  (∀ (c idx answer : Nat) (s : State) (j : JEntry), (s.core c).journal[idx]? = some j → acceptReady s c j = true → (s.ctx c j.slot).suspends j = true →
    (refusal s j answer = 0 → j.rel = true → ∃ t, exec (.postedStoreAccept c idx answer) s = .next t ∧ (t.ctx c j.slot).state = .idleLanding ∧
      (t.ctx c j.slot).hasRec = false ∧ (∀ q, outsideStore s j.gen j.place j.size q → t.readAt q 1 j.gen = s.readAt q 1 j.gen) ∧
      ((∀ n, n < j.size → s.overtaken (s.byCtx c j.uid j.tenant j.seq) (j.place.plus n) = false) →
        ∀ q, t.readAt q 1 j.gen = (s.writeAt j.place j.size j.value.toNat j.gen).readAt q 1 j.gen)) ∧
    (refusal s j answer ≠ 0 → ∃ t, exec (.postedStoreAccept c idx answer) s = .next t ∧ (t.ctx c j.slot).ship = none ∧ sameMemory s t ∧
      (t.ctx c j.slot).state = (s.ctx c j.slot).state ∧ ∀ o ∈ (t.core c).journal, o.susp = true → o.uid ≠ j.uid)) ∧
  (∀ (a : RegF) (s s1 s2 : State) (p : TVal) (l : Loc) (c off : Nat) (r : Region),
    let i := Instr.hold a
    let e := doer i s
    let w := buildRecord (s2.core e.core) (s1.ctx e.core e.slot) (s.who.pc + 4) 2
    let x := s1.ctx e.core e.slot
    let h : HoldEntry := { off := off, tenant := x.tenant, words := w, front := s2.released x.uid .device }
    starts i s = true → s.who.landing = true → Reads e a (begun s) p s1 → landingMayEnd e s1 = true → bits p.val 63 56 ≠ 0 → bits p.val 63 56 ≠ 0xF1 →
    Finds e p.val 128 .st false s1 l s2 → l.place = .ls c off → recordTarget l e s2 = .ok ((), s2) → clear e l true s2 = true →
    (s2.core c).regionAt off = some r → off + 128 ≤ r.off + r.len → (∀ g ∈ (s2.core c).hold, g.off ≠ off) → (s2.core c).hold.length < 32 →
    exec i s = .next (ended s (endLanding (numbered e ((writeRecord s2 e.core x l.place w).modCore c
      (fun k => { k with hold := k.hold ++ [h] }))) e.core e.slot))) ∧
  (∀ (a : RegF) (s : State), s.who.landing = false →
    (starts (.susp a) s = true → exec (.susp a) s = .next (rotate s.cur.1 s.cur.2
      (raise (doer (.susp a) s) { cause := 0x01, aux := w64 (4 * 2 ^ 32 + (doer (.susp a) s).word.toNat) } s))) ∧
    (starts (.hold a) s = true → exec (.hold a) s = .next (rotate s.cur.1 s.cur.2
      (raise (doer (.hold a) s) { cause := 0x01, aux := w64 (4 * 2 ^ 32 + (doer (.hold a) s).word.toNat) } s)))) ∧
  (∀ (s : State) (c i : Nat), let y := (endLanding s c i).ctx c i
    y.state = .idleLanding ∧ y.hasRec = false ∧ y.wait = none ∧ y.loads = [] ∧ y.held = [] ∧ y.packet = none ∧ y.landing = (s.ctx c i).landing ∧
    y.level = 0 ∧ y.uin = false ∧ y.sin = false ∧ y.inl = [])

/-- R162, R163, R167, R196, R307, R394: what becomes of a record. On arrival it enters its core's landing queue, or the tenant's ring; the first record that has an idle landing context of
its tenant lands there, with a new generation; a full mailbox sends a held record to its core's queue; a parked sender's record leaves when there is room; the
record at the head of a ring goes to its core's queue. Whether a held record is software's bytes is a free choice (the model's, log 5), and the first try, the retries and the order of one sender's records are its
readings (log 36, log 19, log 60). -/
def Obligations.RecordEvents : Prop :=
  (∀ (n : Nat) (s t : State) (h : Shipment) (way : Delivered), s.ships[n]? = some h → (∀ x ∈ s.ships.take n, x.sender = h.sender → x.dest ≠ h.dest) →
    stopped s h.tenant = false → deliverRecord { s with ships := without s.ships n } h = some (way, t) → exec (.recordArrival n) s = .next t) ∧
  (∀ (s : State) (h : Shipment), queueTakes s h.dest h.tenant 0 = true → ringHolds s h.tenant h.sender h.dest = false →
    deliverRecord s h = some (.queue, s.modCore h.dest (fun k => { k with landq := k.landq ++ [h] }))) ∧
  (∀ (c n i g : Nat) (s : State) (h : Shipment), (s.core c).landq[n]? = some h → landClosed s c h.tenant = false → firstIdle s c h.tenant i →
    (∀ x ∈ (s.core c).landq.take n, landClosed s c x.tenant = true ∨ idleFor s c x.tenant = none) → mayTake s c .landing = true →
    (s.core c).nextGen = some g → ∃ t, exec (.landing c) s = .next t ∧ landedAs (t.ctx c i) h.words ∧
      (t.core c).landq = without (s.core c).landq n ∧ (t.ctx c i).gen = BitVec.ofNat 16 g ∧ (t.core c).genLast = g ∧ i ∈ (t.core c).rot ∧
      ((s.ctx c i).wbase + 7 ≤ 2048 → ∀ j, 1 ≤ j → j ≤ 6 → ((t.core c).readReg (t.ctx c i) j).val = h.words.getD (j + 1) 0)) ∧
  (∀ (c n : Nat) (s s1 : State) (h : HoldEntry) (way : Delivered), (s.core c).hold[n]? = some h →
    (s.core c).seenFull ((s.core c).gov 0 h.off).1 (h.off + 64) = true →
    let f := h.front.join (s.emptiedAt (.ctx 0 c h.tenant 0 0) (.ls c (h.off + 64)) 8)
    deliverRecord s.draw.2
      { words := holdRecord s c h (Config.freeChoice s.free), dest := c, src := 1, tenant := h.tenant, sender := c, front := f } = some (way, s1) →
    let t := s1.modCore c (fun k => dropRetired { k.setFe ((s.core c).gov 0 h.off).1 (h.off + 64) false with hold := k.hold.filter (fun x => x.off != h.off) })
    (h.tried = false → exec (.holdRecordSend c n) s = .next t) ∧ (h.tried = true → exec (.holdDeliveryRetry c n) s = .next t)) ∧
  (∀ (c i d : Nat) (w : List Word) (s : State), (s.ctx c i).parkedOn (fun v => v == .delivery) = true → (s.ctx c i).ship = some (d, w) → d ≠ ringMark →
    let h : Shipment := { words := w.take 8, dest := d, src := 0, tenant := (s.ctx c i).tenant, sender := c,
                          front := s.released (s.ctx c i).uid .device }
    ((s.ctx c i).landing = true → canShip s h = true →
      exec (.goDeliveryRetry c i) s = .next (endLanding { s with ships := s.ships ++ [h] } c i)) ∧
    ((s.ctx c i).landing = false → ∀ t, deliverRecord s h = some (.queue, t) → exec (.goDeliveryRetry c i) s = .next (goDone t c i))) ∧
  (∀ (tn : Nat) (s s1 : State) (p : Part) (w : List Word) (x tail head : Word), s.part? tn = some p →
    ringCounts s tn (p.word 2) = some (tail, head) → ringHead s tn (p.word 2) (p.word 3) = some (w, x) →
    queueTakes s (bits x 13 0) tn 0 = true → ringTake s tn (p.word 2) = some s1 →
    let h : Shipment := { words := w, dest := bits x 13 0, src := bits x 15 14, tenant := tn, sender := bits x 13 0,
                          front := ringFront s tn (p.word 2) }
    exec (.landingRingRedelivery tn) s = .next (ringLeft (s1.modCore h.dest (fun k => { k with landq := k.landq ++ [h] })) tn head.toNat))

/-! ## Contexts (R52, R146 to R151, R169 to R173) -/

/-- R148, R151, R169, R173, R374: `exit` of a context outside a landing, with no chain mode, leaves it draining, ended by `exit`; a landing of its own becomes idle; `ctxkill` ends the context that it names in its
own gang, or any at supervisor level, and does nothing to a free slot; a drained context becomes a free slot. Kerb contexts, which are of no gang, may end one another (the model's choice, log 54), and a freed slot is as at reset
(log 3). -/
def Obligations.ContextsEnd : Prop :=
  (∀ s : State, starts .exit s = true → s.who.replaying = false → s.who.inl = [] → s.who.hasRec = false → s.who.chain = false → s.who.state = .ready →
    ∃ t, exec .exit s = .next t ∧ (t.ctx s.cur.1 s.cur.2).state = .draining ∧ (t.ctx s.cur.1 s.cur.2).ended = some .exited ∧
      s.cur.2 ∉ (t.core s.cur.1).rot ∧ sameMemory s t) ∧
  (∀ s : State, starts .exit s = true → s.who.replaying = false → s.who.inl = [] → s.who.landing = true → s.who.hasRec = true →
    landingMayEnd (doer .exit s) (begun s) = true → exec .exit s = .next (ended s (endLanding (begun s) s.cur.1 s.cur.2))) ∧
  (∀ (a : RegF) (s s1 : State) (v : TVal), starts (.ctxkill a) s = true → Reads (doer (.ctxkill a) s) a (begun s) v s1 →
    let i := bits v.val 5 0
    let y := (s1.core s.cur.1).ctx i
    let x := s1.ctx s.cur.1 s.cur.2
    (((s1.core s.cur.1).slots ≤ i ∨ y.state = .free) → exec (.ctxkill a) s = .next (ended s s1)) ∧
    (i < (s1.core s.cur.1).slots → y.state ≠ .free → y.state ≠ .draining → (x.level ≠ 0 ∨ (y.gang = x.gang ∧ y.tenant = x.tenant)) →
      ∃ t, exec (.ctxkill a) s = .next t ∧ (t.ctx s.cur.1 i).state = .draining ∧ (t.ctx s.cur.1 i).ended = some .killed ∧
        i ∉ (t.core s.cur.1).rot ∧ sameMemory s1 t) ∧
    (i < (s1.core s.cur.1).slots → y.state ≠ .free → x.level = 0 → (y.gang ≠ x.gang ∨ y.tenant ≠ x.tenant) →
      exec (.ctxkill a) s = .next (rotate s.cur.1 s.cur.2 (raise (doer (.ctxkill a) s) { cause := 0x09, aux := 1 } s)))) ∧
  (∀ (c i : Nat) (s : State), (s.ctx c i).state = .draining → (s.ctx c i).nL = 0 → (s.ctx c i).nM = 0 → (s.ctx c i).nQ = 0 → (s.ctx c i).copyQ = [] →
    ∃ t, exec (.contextDrainEnd c i) s = .next t ∧ t.ctx c i = Ctx.reset ∧ (∀ d j, (d, j) ≠ (c, i) → t.ctx d j = s.ctx d j) ∧
      (∀ d, (t.core d).regs = (s.core d).regs) ∧ sameMemory s t)

/-- R52, R149, R150, R309, R358: `ctxnew` with a block that R149 accepts and no image makes a context in the lowest free slot and window, with the core's next generation, at the
code address, and gives its slot; a block that R149 refuses gives −2, a core without room −1, and makes none. R66: the whole image is read first, and a fault of its reads is raised; one whose header breaks R66 is read as its fields say
(the model's choice, log 64). R157, R195, R201: a spawned packet enters the pending-launch store through queue spq of its tenant where there is room, and `spawn`, `spawn.try` and `spawn.w` give 1; with the store full it takes the next free slot
of the queue; with that full too `spawn.try` gives 0, and the others park on list 10. R438: the packet is read once, and a parked `spawn` keeps it. While an earlier access of the context has not performed, the spawn waits on list 1 with object 0 (DEDUCED, log 13). -/
def Obligations.ContextCreation : Prop :=
  (∀ (d a : RegF) (s s1 s2 s3 : State) (p : TVal) (ws : List Word),
    let i := Instr.ctxnew d a
    let e := doer i s
    let w2 := ws.getD 2 0
    let x := s1.ctx e.core e.slot
    let k := s2.core e.core
    starts i s = true → Reads e a (begun s) p s1 → bits p.val 63 56 = 0xF2 → bits p.val 55 42 = e.core → loadBlock p.val 4 e s1 = .ok (ws, s2) →
    let bad := bits w2 63 10 ≠ 0 ∨ ws.getD 3 0 ≠ 0 ∨ bits w2 9 5 = 0 ∨ 16 < bits w2 9 5 ∨ (w2.getLsbD 4 = true ∧ w2.getLsbD 2 = true) ∨
      (w2.getLsbD 4 = false ∧ (bits (ws.getD 0 0) 1 0 ≠ 0 ∨ bits (ws.getD 0 0) 63 52 ≠ 0)) ∨ (w2.getLsbD 2 = true ∧ (x.chain && x.ordered) = false)
    (bad → ws.getD 1 0 = 0 → Writes e d { val := -2, cnt := 127, inx := false } s2 s3 → exec i s = .next (ended s s3)) ∧
    (ws.getD 1 0 ≠ 0 → ∀ h vs s4 s5, loadNow (ws.getD 1 0) 8 e s2 = .ok (h, s4) → loadWords (ws.getD 1 0 + 8) (headerLen (w64 h)) e s4 = .ok (vs, s5) →
      (∀ m, imgOf (w64 h) (8 * bits w2 9 5) (w2.getLsbD 2) (w2.getLsbD 3) = some m → bad ∨ m.tagsOk vs = false) →
      Writes e d { val := -2, cnt := 127, inx := false } s5 s3 → exec i s = .next (ended s s3)) ∧
    (ws.getD 1 0 ≠ 0 → ∀ h s4 f, loadNow (ws.getD 1 0) 8 e s2 = .ok (h, s4) → loadWords (ws.getD 1 0 + 8) (headerLen (w64 h)) e s4 = .error (.trap f) →
      exec i s = .next (rotate e.core e.slot (raise e f s))) ∧
    (¬bad → ws.getD 1 0 = 0 → bits w2 1 0 = 2 → isArray e.core = false → Writes e d { val := -3, cnt := 127, inx := false } s2 s3 →
      exec i s = .next (ended s s3)) ∧
    (¬bad → ws.getD 1 0 = 0 → (bits w2 1 0 = 2 → isArray e.core = true) → (k.freeSlot = none ∨ k.freeWindow (8 * bits w2 9 5) = none) →
      Writes e d { val := -1, cnt := 127, inx := false } s2 s3 → exec i s = .next (ended s s3)) ∧
    (¬bad → ws.getD 1 0 = 0 → (bits w2 1 0 = 2 → isArray e.core = true) → ∀ n w g, k.freeSlot = some n → k.freeWindow (8 * bits w2 9 5) = some w →
      mayTake s2 e.core (.ctx e.slot (s2.ctx e.core e.slot).uid s.who.pc) = true → k.nextGen = some g → n ≠ e.slot → (s2.ctx e.core e.slot).usable d = true → (s2.ctx e.core e.slot).state = .ready →
      ∃ t, exec i s = .next t ∧
        let y := t.ctx e.core n
        y.state = (if w2.getLsbD 4 then .idleLanding else .ready) ∧ y.gen = BitVec.ofNat 16 g ∧ y.wbase = w ∧ y.wcount = 8 * bits w2 9 5 ∧
        y.pc = ws.getD 0 0 ∧ y.chain = w2.getLsbD 2 ∧ y.port = w2.getLsbD 3 ∧ y.landing = w2.getLsbD 4 ∧ y.gang = x.gang ∧ y.tenant = x.tenant ∧
        y.run = x.run ∧ y.index = x.index ∧ y.level = (if x.level ≠ 0 ∧ w2.getLsbD 4 = false then 1 else 0) ∧ y.st.vec = x.st.vec ∧ y.ut.vec = 0 ∧
        y.nL = 0 ∧ y.nS = 0 ∧ y.fround = 0 ∧ y.sigmin = 0 ∧
        (d ≠ 0 → ((t.core e.core).readReg (t.ctx e.core e.slot) d.toNat).val = w64 n))) ∧
  (∀ row ∈ ([(Instr.spawn, 0), (Instr.spawnTry, 1), (Instr.spawnW, 2)] : List ((RegF → RegF → Instr) × Nat)),
    ∀ (d a : RegF) (s s1 s2 s3 : State) (p : TVal) (ws : List Word) (q : Nat),
      let i := row.1 d a
      let e := doer i s
      let x := s2.ctx e.core e.slot
      starts i s = true → (row.2 = 2 → s.who.result? s.who.pc = none) → Reads e a (begun s) p s1 → packetAt p.val e s1 = .ok (ws, s2) → performed e s2 = true →
      spq s2 x.tenant = some q →
      (storeRoom s2 x.tenant q = true → Writes e d { val := 1, cnt := 127, inx := false } (enterStore s2 q ws (s2.released x.uid .device)) s3 → exec i s = .next (ended s s3)) ∧
      (storeRoom s2 x.tenant q = false → ∀ n, freeLaunchSlot s2 q = some n →
        Writes e d { val := 1, cnt := 127, inx := false } ((s2.setLaunchSlot q n (ws, true)).setChan (.slot q n) (s2.released x.uid .device)) s3 → exec i s = .next (ended s s3)) ∧
      (storeRoom s2 x.tenant q = false → freeLaunchSlot s2 q = none →
        let parks := exec i s = .next ((keepPacket e.core e.slot ws s s2).parkOn e.core e.slot { list := 10, object := 0, cond := .launch })
        (row.2 = 1 → Writes e d { val := 0, cnt := 127, inx := false } s2 s3 → exec i s = .next (ended s s3)) ∧
        (row.2 = 0 → parks) ∧
        (row.2 = 2 → queueCheck s2 q ws = none → Writes e d { val := 2, cnt := 127, inx := false } (refuseRun s2 q ws) s3 → exec i s = .next (ended s s3)) ∧
        (row.2 = 2 → queueCheck s2 q ws ≠ none →
          (inlineOk s2 e.core e.slot ws = true → exec i s = .next (ended s (startInline s2 e.core e.slot q s.who.pc ws))) ∧
          (inlineOk s2 e.core e.slot ws = false → parks)))) ∧
  (∀ (d a : RegF) (s s1 : State) (v : Word), starts (.spawnW d a) s = true → s.who.result? s.who.pc = some v →
    Writes (doer (.spawnW d a) s) d { val := v, cnt := 127, inx := false } (begun s) s1 →
    exec (.spawnW d a) s = .next (ended s (s1.modCtx s.cur.1 s.cur.2 (fun y => { y with results := y.results.tail })))) ∧
  (∀ row ∈ ([(Instr.spawn, 0), (Instr.spawnTry, 1), (Instr.spawnW, 2)] : List ((RegF → RegF → Instr) × Nat)),
    ∀ (d a : RegF) (s s1 s2 : State) (p : TVal) (ws : List Word),
      let i := row.1 d a
      let e := doer i s
      starts i s = true → (row.2 = 2 → s.who.result? s.who.pc = none) → Reads e a (begun s) p s1 → packetAt p.val e s1 = .ok (ws, s2) → performed e s2 = false →
      exec i s = .next ((keepPacket e.core e.slot ws s s2).parkOn e.core e.slot { list := 1, object := 0, cond := .performed })) ∧
  (∀ (e : Env) (p : Word) (s : State),
    (∀ ws, (s.ctx e.core e.slot).packet = some ws → packetAt p e s = .ok (ws, s.modCtx e.core e.slot (fun x => { x with packet := none }))) ∧
    ((s.ctx e.core e.slot).packet = none → packetAt p e s = loadBlock p 8 e s))

/-! ## Launching (R158, R171, R195, R200 to R204) -/

/-- R170, R171, R203, R204, R243, R416, R447: `pass` publishes the values of the slots of its mask that are not published, from the registers that carry them; `take` asks the square's tile dispenser and its
answer is the next tile of the square's own pool, or −1 when no pool holds one. A `take` into a port keeps its context on list 1 until the answer (DEDUCED, log 14). -/
def Obligations.PassAndTake : Prop :=
  (∀ (m : BitVec 7) (s s1 : State) (vs : List (Nat × TVal)),
    let i := Instr.pass m
    let e := doer i s
    let x := s.who
    let want := (List.range 4).filter (fun j => m.toNat / 2 ^ j % 2 == 1)
    starts i s = true → x.chain = true → x.carry.isSome = true → x.inl = [] → slotValues { x with pc := x.pc + 4, wait := none } want e (begun s) = .ok (vs, s1) →
    (∀ j ∈ want, j ∈ openSlots s1 x) → performed e s1 = true →
    let item := (s1.ctx e.core e.slot).index
    exec i s = .next (ended s ((s1.modRun x.run (fun r => { r with carry := r.carry ++ vs.map (fun v => (item, v.1, v.2)) })).modOrd
      (fun o => { o with chans := o.chans ++ vs.map (fun v => (Chan.carry x.run item v.1, s1.released x.uid .system)) })))) ∧
  (∀ (d : RegF) (s s1 : State) (app : Option (Option Append)), starts (.take d) s = true → Ready (doer (.take d) s) d (begun s) app s1 →
    let e := doer (.take d) s
    let x := s1.ctx e.core e.slot
    let l : Loc := { place := .ls e.core 0, ptr := 0, win := .loc, size := 8 }
    exec (.take d) s = .next { requested e d (.take s.who.run) l app false s s1 with
      takes := s1.takes ++ [(e.core, e.slot, x.uid, s.who.run, x.seq)] }) ∧
  (∀ (n c i uid r seq : Nat) (s t : State) (l : LoadReq) (y : Run), s.takes[n]? = some (c, i, uid, r, seq) →
    (∀ w ∈ s.takes.take n, serveSquare w.1 ≠ serveSquare c) → (s.ctx c i).uid = uid → (s.ctx c i).loads.find? (fun m => m.seq == seq) = some l →
    portShut s (s.ctx c i) l.rd l.app = false → s.run? r = some y →
    let u := { s with takes := without s.takes n }
    (∀ a b, y.pools.find? (fun p => p.1 == serveSquare c) = some (serveSquare c, a, b) → a < b →
      complete (u.modRun r (fun z => { z with pools := y.pools.map (fun p => if p.1 = serveSquare c then (serveSquare c, a + 1, b) else p) })) c i l
        { val := w64 a, cnt := 127, inx := false } false = some t → exec (.takeAnswer n) s = .next t) ∧
    ((∀ p ∈ y.pools, p.2.2 ≤ p.2.1) → complete (u.modRun r (fun z => { z with pools := y.pools })) c i l
        { val := -1, cnt := 127, inx := false } false = some t → exec (.takeAnswer n) s = .next t))

/-! ## Waiting (R186 to R192, R358, R359, R432, R450) -/

/-- R187, R318, R450: `wait` completes where every counter of a named class is at most its field, and parks on list 5 otherwise; a failure record of a named class is raised first, of several the one of lowest cause (R319 gives the refused store's). R191, R192, R358, R359: `bar` arrives, as a release: it observes the phases that are complete, counts in the slot of its phase and completes each phase in turn whose slot holds as many arrivals as the gang has members; `barw` completes once the phase of
the context's last arrival is complete, and parks on list 6 until then. Landing role has no barrier. R189, R190, R432: `semp` takes one from a semaphore that is not 0, and parks on list 7 otherwise; `semv` hands the count to the context that has been parked longest, and adds one, up to 65,535, where none
is; a context that was handed the count completes its `semp`. -/
def Obligations.WaitsAndBarriers : Prop :=
  (∀ (l t c m q : BitVec 5) (s : State),
    let i := Instr.wait l t c m q
    let e := doer i s
    let x := s.who
    let calm := (c ≠ 31 → x.recC = false) ∧ (q ≠ 31 → x.recQ = false) ∧ (t ≠ 31 → (s.home.myRefusal s.cur.2 x) = none)
    let met := (l = 31 ∨ x.nL ≤ l.toNat) ∧ (t = 31 ∨ x.nS ≤ t.toNat) ∧ (c = 31 ∨ x.nC ≤ c.toNat) ∧ (m = 31 ∨ x.nM ≤ m.toNat) ∧ (q = 31 ∨ x.nQ ≤ q.toNat)
    starts i s = true →
    let sampling := q ≠ 31 ∧ q.toNat < x.nQ ∧ x.loads.any (fun r => match r.kind with | .smpw _ _ _ _ => true | _ => false) = true
    let done := fun (b : Bool) (n : Nat) => if b then s.chan (.done x.uid n) else {}
    (calm → met → exec i s = .next (ended s ((begun s).gain x.uid (((done (c != 31) 1).join (done (m != 31) 2)).join (done (q != 31) 3))))) ∧
    (calm → ¬met → exec i s = .next (s.parkOn e.core e.slot
      { list := 5, object := if sampling then 0x1FFFFE0 else
          l.setWidth 48 <<< 20 ||| t.setWidth 48 <<< 15 ||| c.setWidth 48 <<< 10 ||| m.setWidth 48 <<< 5 ||| q.setWidth 48,
        cond := .counters l.toNat t.toNat c.toNat m.toNat q.toNat })) ∧
    (c ≠ 31 → x.recC = true → exec i s = .next (rotate e.core e.slot (raise e { cause := 0x11, addr := x.er 0 0x81, aux := x.er 0 0x80 } s))) ∧
    (¬(c ≠ 31 ∧ x.recC = true) → q ≠ 31 → x.recQ = true →
      exec i s = .next (rotate e.core e.slot (raise e { cause := 0x12, addr := x.er 3 9, aux := x.er 3 8 } s))) ∧
    (∀ r, ¬(c ≠ 31 ∧ x.recC = true) → ¬(q ≠ 31 ∧ x.recQ = true) → t ≠ 31 → s.home.jrec = some r → r.uid = x.uid → r.slot = s.cur.2 → r.land = x.land →
      r.raised = false → exec i s = .next (rotate e.core e.slot
        (raise e { cause := 0x13, addr := r.ptr, aux := w64 (r.ent + r.rsn * 64 + r.sizeCode * 1024) } s)))) ∧
  (∀ (n : BitVec 3) (s : State) (g : Nat) (y : Gang), s.who.gang = some g → s.gang? g = some y → s.who.inl = [] →
    let q := SMap.get s.who.arr n.toNat 0
    (s.who.landing = false → starts (.bar n) s = true → performed (doer (.bar n) s) (begun s) = true → barBlocked (begun s) s.who g n.toNat = false →
      exec (.bar n) s = .next (ended s (arrive (begun s) s.cur.1 s.cur.2 g n.toNat))) ∧
    (s.who.landing = false → starts (.bar n) s = true → (performed (doer (.bar n) s) (begun s) = false ∨ barBlocked (begun s) s.who g n.toNat = true) →
      exec (.bar n) s = .next (s.parkOn s.cur.1 s.cur.2 { list := 6, object := BitVec.ofNat 48 (n.toNat + 8 * q.toNat), cond := .bar n.toNat })) ∧
    (s.who.landing = false → starts (.barw n) s = true → before (y.bar n.toNat).done q = false →
      exec (.barw n) s = .next (ended s (((begun s).gain s.who.uid (s.observed g n.toNat q)).modCtx s.cur.1 s.cur.2
        (fun x => { x with obs := SMap.put x.obs 0 n.toNat q })))) ∧
    (s.who.landing = false → starts (.barw n) s = true → before (y.bar n.toNat).done q = true →
      exec (.barw n) s = .next (s.parkOn s.cur.1 s.cur.2 { list := 6, object := BitVec.ofNat 48 (n.toNat + 8 * q.toNat), cond := .barw n.toNat })) ∧
    (s.who.landing = true → (starts (.bar n) s = true →
        exec (.bar n) s = .next (rotate s.cur.1 s.cur.2 (raise (doer (.bar n) s) { cause := 0x09, aux := 5 } s))) ∧
      (starts (.barw n) s = true → exec (.barw n) s = .next (rotate s.cur.1 s.cur.2 (raise (doer (.barw n) s) { cause := 0x09, aux := 5 } s)))) ∧
    (s.who.state = .ready → SMap.get ((arrive s s.cur.1 s.cur.2 g n.toNat).ctx s.cur.1 s.cur.2).arr n.toNat 0 = q + 1 ∧
      SMap.get ((arrive s s.cur.1 s.cur.2 g n.toNat).ctx s.cur.1 s.cur.2).obs n.toNat 0 = minCnt (y.bar n.toNat).done q ∧
      (∃ m ∈ ((arrive s s.cur.1 s.cur.2 g n.toNat).chan (.bar g n.toNat q.toNat)).marks, m.1 = .cores y.cores ∧ s.ord.commits ≤ m.2) ∧
      sameMemory s (arrive s s.cur.1 s.cur.2 g n.toNat)) ∧
    (s.canonical = true → s.who.state = .ready → s.who.landing = false →
      let b := (y.bar n.toNat).setSlot q ((y.bar n.toNat).slot q + 1)
      let full := fun (z : Barrier) => (s.members g).length ≤ (z.slot z.done).toNat
      let next := fun (z : Barrier) => { z.setSlot z.done 0 with done := z.done + 1 }
      let left := ((arrive s s.cur.1 s.cur.2 g n.toNat).gang? g).map (fun z => z.bar n.toNat)
      (¬full b → left = some b) ∧ (full b → ¬full (next b) → left = some (next b)) ∧ (full b → full (next b) → left = some (next (next b))))) ∧
  (∀ (n : BitVec 4) (s : State), starts (.semp n) s = true →
    let key := semKey s.cur.1 s.who.tenant n.toNat
    let v := SMap.get s.home.sems key 0
    (v ≠ 0 → exec (.semp n) s = .next (ended s (((begun s).gain s.who.uid (s.chan (.sem s.cur.1 key))).modCore s.cur.1 (fun k => { k with sems := SMap.put k.sems 0 key (v - 1) })))) ∧
    (v = 0 → exec (.semp n) s = .next (s.parkOn s.cur.1 s.cur.2 { list := 7, object := BitVec.ofNat 48 n.toNat, cond := .sem n.toNat }))) ∧
  (∀ (n : BitVec 4) (s : State), starts (.semv n) s = true → performed (doer (.semv n) s) (begun s) = true →
    let key := semKey s.cur.1 s.who.tenant n.toNat
    let b := (begun s).joinChan (.sem s.cur.1 key) (s.released s.who.uid (.cores [s.cur.1]))
    let v := SMap.get s.home.sems key (0 : BitVec 16)
    let waits := fun (y : Ctx) => y.tenant == s.who.tenant && y.parkedOn (fun w => w == .sem n.toNat)
    ((b.core s.cur.1).ctxs.all (fun p => !waits p.2) = true →
      exec (.semv n) s = .next (ended s (b.modCore s.cur.1 (fun k => { k with sems := SMap.put k.sems 0 key (if v = 0xFFFF then v else v + 1) })))) ∧
    (∀ j, longestParked (b.core s.cur.1) waits = some j →
      exec (.semv n) s = .next (ended s
      (((b.modCtx s.cur.1 j (fun y => { y with pc := y.pc + 4 })).gain (b.ctx s.cur.1 j).uid (b.chan (.sem s.cur.1 key))).endWait s.cur.1 j))))

/-! ## Bodies, elections, bound registers (R99, R258 to R263, R411 to R413, R423, R428, R429) -/

/-- R258, R259, R423: `rep` captures the words that follow with the count of `repcnt`, or none where that is 0, and goes on after them. Each word of the body executes in turn with its fields staggered (R260):
after the last word of a replay the next one begins, and after the last replay the body is gone; a `qblk` of the body keeps it at that word until it has completed (R419). R62, R63, R263, R428, R429: `sbind` binds a general register of the context to one of four generators, and raises 0x01 with reason 4 for x0, a register that a carry slot or a port takes, or a fifth binding; `sfree` takes the binding away. -/
def Obligations.Repetition : Prop :=
  (∀ (nm1 : BitVec 4) (st lo : BitVec 7) (span : BitVec 6) (s s1 : State) (ws : List IWord),
    let i := Instr.rep nm1 st lo span
    let n := nm1.toNat + 1
    let cnt := bits ((s1.ctx s.cur.1 s.cur.2).er 1 0) 15 0
    let b : Body := { base := s.who.pc + 4, words := ws, s := st.toNat, lo := lo.toNat, span := span.toNat, count := cnt, replay := 0, word := 0,
                      stopped := false, main := 0, seq := (s1.ctx s.cur.1 s.cur.2).seq }
    starts i s = true → s.who.replaying = false → captureWords (doer i s) (s.who.pc + 4) n (begun s) = .ok (ws, s1) →
    (s1.ctx s.cur.1 s.cur.2).pc = s.who.pc + 4 →
    exec i s = .next (ended s (s1.modCtx s.cur.1 s.cur.2 (fun x =>
      { x with pc := s.who.pc + 4 + w64 (4 * n), body := if cnt = 0 then none else some b })))) ∧
  (∀ (c i : Nat) (s s1 : State) (b : Body) (j : Instr) (m : M Unit), (s.ctx c i).body = some b → b.stopped = false →
    ((s.ctx c i).state = .ready ∨ (s.ctx c i).state = .parked) → (s.ctx c i).bwait = none → decode (b.words.getD b.word 0) = .ok j →
    let k := mapRegs (fun f => stagger b.lo b.span b.s b.replay f) j
    let p := b.base + w64 (4 * b.word)
    let e : Env := { core := c, slot := i, pc := p, tpc := p, replay := some b.replay, word := b.words.getD b.word 0, was := s.ctx c i }
    precheck c (s.ctx c i) (form k) (b.words.getD b.word 0) = none → bodyOf k = some m → (s.ctx c i).blockPending = false →
    m e (s.modCore c (fun y => { y with repTurn := i + 1 })) = .ok ((), s1) → (s1.ctx c i).body = some b → (s1.ctx c i).mtrap = none →
    ((s1.ctx c i).blockPending = true → exec (.replayWordIssue c i) s = .next (clearFault c i s1)) ∧
    ((s1.ctx c i).blockPending = false → exec (.replayWordIssue c i) s = .next ((clearFault c i s1).modCtx c i (fun x => { x with
      mtrap := none
      body := if b.word + 1 < b.words.length then some { b with word := b.word + 1 }
        else if b.replay + 1 < b.count then some { b with word := 0, replay := b.replay + 1 } else none })))) ∧
  (∀ (lo span st r : Nat) (f : RegF), lo + span ≤ 127 →
    ((lo ≤ f.toNat ∧ f.toNat ≤ lo + span) → (stagger lo span st r f).toNat = lo + (f.toNat - lo + r * st) % (span + 1)) ∧
    (¬(lo ≤ f.toNat ∧ f.toNat ≤ lo + span) → stagger lo span st r f = f)) ∧
  (∀ (d a : RegF) (s s1 : State) (v : TVal), starts (.sbind d a) s = true → Reads (doer (.sbind d a) s) a (begun s) v s1 →
    let x := s1.ctx s.cur.1 s.cur.2
    let others := x.binds.filter (fun b => b.1 != d.toNat)
    let bad := d = 0 ∨ (x.carry.getD []).contains d.toNat = true ∨ x.isPort d.toNat = true ∨ 4 ≤ others.length
    (bad → exec (.sbind d a) s = .next (rotate s.cur.1 s.cur.2
      (raise (doer (.sbind d a) s) { cause := 0x01, aux := w64 (4 * 2 ^ 32 + (doer (.sbind d a) s).word.toNat) } s))) ∧
    (¬bad → x.replaying = false → x.loads = [] → x.fill = [] → exec (.sbind d a) s = .next (ended s (s1.modCtx s.cur.1 s.cur.2 (fun y =>
      { y with binds := others ++ [(d.toNat, bits v.val 1 0)] }))))) ∧
  (∀ (d : RegF) (s : State), starts (.sfree d) s = true → s.who.replaying = false → s.who.loads = [] → s.who.fill = [] →
    exec (.sfree d) s = .next (ended s ((begun s).modCtx s.cur.1 s.cur.2 (fun y => { y with binds := y.binds.filter (fun b => b.1 != d.toNat) }))))

/-- R99, R411, R412, R414: in a gang, the member on the lowest core of its square executes the instruction of a `one.` pair, and any other whose round is still open has its destination pending until ONE_RESULT_DELIVERY
writes the elected value with its flags, as an acquire of what the delivery releases; one whose round has its result already takes it at once. That a context outside any gang executes its pair is the model's reading (DEDUCED, log 20), and that a pair
whose destination is a port keeps its context on list 1 as well (DEDUCED, log 14). -/
def Obligations.Elections : Prop :=
  (∀ (s s1 s2 : State) (w : IWord) (i : Instr) (m : M Unit),
    let e := doer .one s
    pairOf e (advance s.cur.1 s.cur.2 8 s) = .ok ((w, i), s1) → (s1.ctx s.cur.1 s.cur.2).gang = none → bodyOf i = some m →
    m { e with pc := s.who.pc + 4, word := w, elect := true } (s1.modCtx s.cur.1 s.cur.2 (fun x => { x with fflags := 0, eout := none })) = .ok ((), s2) →
    (s2.ctx s.cur.1 s.cur.2).gang = none →
    exec .one s = .next (ended s (s2.modCtx s.cur.1 s.cur.2 (fun x =>
      { x with fflags := (s1.ctx s.cur.1 s.cur.2).fflags ||| x.fflags, eout := none })))) ∧
  (∀ (s s1 t : State) (w : IWord) (i : Instr) (g : Nat), pairOf (doer .one s) (advance s.cur.1 s.cur.2 8 s) = .ok ((w, i), s1) →
    let x := s1.ctx s.cur.1 s.cur.2
    let q := serveSquare s.cur.1
    let k := x.elect + 1
    x.gang = some g → s1.round? q g x.rank k = none → ((s1.square q).elections.filter (fun el => el.gang == g && el.rank == x.rank)).length < 4 →
    (s1.domain q g x.rank).head?.map (fun m => m.1) = some s.cur.1 →
    electedBody w i (doer .one s) ((openRound s1 q g x.rank k s.cur.1).modCtx s.cur.1 s.cur.2 (fun x => { x with elect := k })) = .ok ((), t) →
    exec .one s = .next (ended s t)) ∧
  (∀ (s s1 s2 : State) (w : IWord) (i : Instr) (d : RegF) (g : Nat) (el : Election) (app : Option (Option Append)), pairOf (doer .one s) (advance s.cur.1 s.cur.2 8 s) = .ok ((w, i), s1) →
    let e : Env := { doer .one s with pc := s.who.pc + 4 }
    let x := s1.ctx s.cur.1 s.cur.2
    let k := x.elect + 1
    x.gang = some g → s1.round? (serveSquare s.cur.1) g x.rank k = some el → el.elected ≠ s.cur.1 → el.result = none → (form i).dst = some d →
    Ready e d (s1.modCtx s.cur.1 s.cur.2 (fun x => { x with elect := k })) app s2 →
    exec .one s = .next (requested e d (.one k w) { place := .ls s.cur.1 0, ptr := 0, win := .loc, size := 8 } app false s s2)) ∧
  (∀ (s s1 s2 : State) (w : IWord) (i : Instr) (d : RegF) (g : Nat) (el : Election) (v : TVal) (fl : Word), pairOf (doer .one s) (advance s.cur.1 s.cur.2 8 s) = .ok ((w, i), s1) →
    let x := s1.ctx s.cur.1 s.cur.2
    let k := x.elect + 1
    x.gang = some g → s1.round? (serveSquare s.cur.1) g x.rank k = some el → el.result = some (v, fl) → (form i).dst = some d →
    Writes { doer .one s with pc := s.who.pc + 4 } d v (((s1.modCtx s.cur.1 s.cur.2 (fun x => { x with elect := k })).gain x.uid el.front).modCtx s.cur.1 s.cur.2
      (fun x => { x with fflags := x.fflags ||| w64 fl.toNat })) s2 → exec .one s = .next (ended s s2)) ∧
  (∀ (n : Nat) (s t : State) (d : Delivery) (l : LoadReq), s.gives[n]? = some d → (s.ctx d.core d.slot).uid = d.uid →
    (s.ctx d.core d.slot).loads.find? (fun l => match l.kind with | .one k _ => k == d.k | _ => false) = some l →
    portShut s (s.ctx d.core d.slot) l.rd l.app = false →
    complete (({ s with gives := without s.gives n }.gain d.uid d.front).modCtx d.core d.slot (fun x => { x with fflags := x.fflags ||| w64 d.flags.toNat }))
      d.core d.slot l d.v false = some t →
    exec (.oneResultDelivery n) s = .next (closeRounds t (serveSquare d.core)))

/-! ## Generations (R55, R70 to R78, R368, R388 to R391, R395) -/

/-- R71, R368, R388 to R391: `gnew` makes a region with the core's next generation and gives it, or −3, −2 or −1; `gfree` takes away the region that starts at its offset; `gchk` tells of the granule whether it is current, in a region, in trap mode, and
its governing generation; `cfgctx` sets the number of slots of a quiescent core. R77, R78, R395: `gscrub` parks its context on list 13 until its pass ends; a pass clears every entry and granule whose generation is not live, and leaves the live ones; a fold restarts the numbering. Event counter 10 rises at each end. That a `gfree` whose context has earlier accesses to the region still open parks on list 1 with object 0 is the model's reading (DEDUCED, log 13). -/
def Obligations.GenerationsAndPasses : Prop :=
  (∀ row ∈ ([(Instr.gnewZero, false), (Instr.gnewTrap, true)] : List ((RegF → RegF → RegF → Instr) × Bool)),
    ∀ (d a b : RegF) (s s1 s2 s3 : State) (va vb : TVal),
      let i := row.1 d a b
      let e := doer i s
      let k := s2.core e.core
      let off := bits va.val 19 0
      let len := vb.val.toNat
      let gives := fun (v : Word) => Writes e d { val := v, cnt := 127, inx := false } s2 s3 → exec i s = .next (ended s s3)
      let bad := off % 32 ≠ 0 ∨ len = 0 ∨ len % 32 ≠ 0 ∨ lsSize e.core < off + len
      let meets := ∃ r ∈ k.regions, off < r.off + r.len ∧ r.off < off + len
      starts i s = true → Reads e a (begun s) va s1 → Reads e b s1 vb s2 →
      (bad → gives (-3)) ∧ (¬bad → meets → gives (-2)) ∧ (¬bad → ¬meets → 64 ≤ k.regions.length → gives (-1)) ∧
      (¬bad → ¬meets → k.regions.length < 64 →
        let who := Stall.ctx e.slot (s2.ctx e.core e.slot).uid s.who.pc
        mayTake s2 e.core who = true → ∀ g, k.nextGen = some g → ∀ r : Region,
        r = { off := off, len := len, trap := row.2, gen := BitVec.ofNat 16 g, gang := (s2.ctx e.core e.slot).owner, tenant := (s2.ctx e.core e.slot).tenant,
              retired := false } →
        Writes e d { val := w64 ((BitVec.ofNat 16 g).toNat), cnt := 127, inx := false }
          ((s2.modCore e.core (fun k => { k with genLast := g, genFrom := g, stalled := k.stalled.filter (fun w => w != who) })).modCore e.core
            (fun k => { k with regions := k.regions ++ [r] })) s3 → exec i s = .next (ended s s3))) ∧
  (∀ (a : RegF) (s s1 : State) (v : TVal), starts (.gfree a) s = true → Reads (doer (.gfree a) s) a (begun s) v s1 →
    let k := s1.core s.cur.1
    let x := s1.ctx s.cur.1 s.cur.2
    let off := bits v.val 19 0
    ((∀ r ∈ k.regions, r.off ≠ off) → exec (.gfree a) s = .next (ended s s1)) ∧
    (∀ r, k.regions.find? (fun r => r.off == off && (x.level != 0 || (r.gang == x.owner && r.tenant == x.tenant))) = some r →
      boardMeets k r.off (r.off + r.len - 1) true = false → (∀ h ∈ k.hold, ¬(r.off ≤ h.off ∧ h.off < r.off + r.len)) →
      (rangeBusy s1 s.cur.1 x r.off r.len = false → exec (.gfree a) s = .next (ended s (s1.modCore s.cur.1
        (fun k => { k with regions := k.regions.filter (fun q => q.off != r.off) })))) ∧
      (rangeBusy s1 s.cur.1 x r.off r.len = true → exec (.gfree a) s = .next (s.parkOn s.cur.1 s.cur.2
        { list := 1, object := 0, cond := .range r.off r.len })))) ∧
  (∀ (d a : RegF) (s s1 s2 s3 : State) (p : TVal) (l : Loc) (off : Nat), starts (.gchk d a) s = true → Reads (doer (.gchk d a) s) a (begun s) p s1 →
    Finds (doer (.gchk d a) s) p.val 1 .gchk false s1 l s2 → clear (doer (.gchk d a) s) l false s2 = true → l.place = .ls s.cur.1 off →
    mayPerform (doer (.gchk d a) s) { l with place := .ls s.cur.1 (off / 32 * 32), size := 32 } s2 = true →
    let k := s2.core s.cur.1
    let g := k.gov (s2.ctx s.cur.1 s.cur.2).gen off
    Writes (doer (.gchk d a) s) d { val := w64 ((if k.stamp off = g.1 ∨ granuleBuffered (ownBuf (doer (.gchk d a) s) s2) l.place = true then 1 else 0) +
        (if (k.regionAt off).isSome then 2 else 0) + (if g.2 then 4 else 0) + g.1.toNat * 65536), cnt := 127, inx := false } s2 s3 →
    exec (.gchk d a) s = .next (ended s s3)) ∧
  (∀ (d a : RegF) (s s1 s2 : State) (v : TVal), starts (.cfgctx d a) s = true → Reads (doer (.cfgctx d a) s) a (begun s) v s1 → v.val.toNat ≤ 2 →
    let n := 16 * 2 ^ v.val.toNat
    let gives := fun (u : State) (r : Word) => Writes (doer (.cfgctx d a) s) d { val := r, cnt := 127, inx := false } u s2 → exec (.cfgctx d a) s = .next (ended s s2)
    (quiescent s1 s.cur.1 s.cur.2 = false → gives s1 (-1)) ∧ (quiescent s1 s.cur.1 s.cur.2 = true → n ≤ s.cur.2 → gives s1 (-2)) ∧
    (quiescent s1 s.cur.1 s.cur.2 = true → s.cur.2 < n → gives (s1.modCore s.cur.1 (fun k => { k with slots := n })) 0)) ∧
  (∀ s : State, starts .gscrub s = true →
    exec .gscrub s = .next (((begun s).modCore s.cur.1 (fun k => { k with fold := k.fold ++ [.scrub s.cur.2 s.who.uid] })).modCtx s.cur.1 s.cur.2
      (fun x => { x with pc := s.who.pc }) |>.parkOn s.cur.1 s.cur.2 { list := 13, object := 0, cond := .scrub })) ∧
  (∀ (c : Nat) (s : State) (r : List Pass), (s.core c).fold = .fold :: r → passDone s c = true →
    ∃ t, exec (.foldEnd c) s = .next t ∧ (t.core c).fold = r ∧ (t.core c).foldAt = 0 ∧ (t.core c).genFrom = 0 ∧ (t.core c).genLast = (s.core c).genLast ∧
      (t.core c).ctxs = (s.core c).ctxs ∧ (∀ n, (t.core c).reg n = (s.core c).reg n) ∧
      SMap.get (t.core c).events 10 (0 : BitVec 32) = (let n := SMap.get (s.core c).events 10 (0 : BitVec 32); if n = 0xFFFFFFFF then n else n + 1)) ∧
  (∀ (c i u : Nat) (s : State) (r : List Pass), (s.core c).fold = .scrub i u :: r → passDone s c = true →
    ∃ t, exec (.gscrubEnd c) s = .next t ∧ (t.core c).fold = r ∧ (t.core c).foldAt = 0 ∧ (t.core c).genLast = (s.core c).genLast ∧
      (∀ n, (t.core c).reg n = (s.core c).reg n) ∧
      SMap.get (t.core c).events 10 (0 : BitVec 32) = (let n := SMap.get (s.core c).events 10 (0 : BitVec 32); if n = 0xFFFFFFFF then n else n + 1) ∧
      ((s.ctx c i).uid = u → (s.ctx c i).bwait = none → (s.ctx c i).parkedOn (fun w => w == .scrub) = true →
        (t.ctx c i).state = .ready ∧ (t.ctx c i).pc = (s.ctx c i).pc + 4 ∧ i ∈ (t.core c).rot)) ∧
  (∀ (k : Core) (lo hi : Nat), SMap.wf k.regs RegEntry.reset = true → SMap.wf k.lsGen 0 = true → Memory.wf k.ls = true →
    let t := scrubVisits k lo hi
    t.foldAt = hi ∧
    (∀ n, t.reg n = if lo ≤ n ∧ n < hi ∧ k.liveGens.contains (k.reg n).gen.toNat = false then RegEntry.reset else k.reg n) ∧
    (∀ a, let gone := lo ≤ 2048 + a / 32 ∧ 2048 + a / 32 < hi ∧ k.liveGens.contains (k.stamp a).toNat = false
      t.stamp a = (if gone then 0 else k.stamp a) ∧ Memory.byte t.ls a = (if gone then 0 else Memory.byte k.ls a))) ∧
  (∀ (s : State) (c n : Nat), (s.core c).fold ≠ [] →
    (passVisits n s c).core c = scrubVisits (s.core c) (s.core c).foldAt (min (2048 + lsSize c / 32) ((s.core c).foldAt + n)))

/-! ## Engines -/

/-- R79, R223, R242, R247, R248, R254, R364, R370, R420: `cpy`, `cpym`, `deal` and `bkt` enter the context's copy queue with the registers of the set as they stand, and their ranges in the core's own store enter the scoreboard; class C rises. `qfen` enters
the queue with the commands that it joins. No byte of memory changes. R239 to R241, R250, R251: a copy command Starts once its issuer's earlier stores are done; each unit of a `cpy` in the core's own store writes the source unit's bytes at the destination, the units that have been read in an order of the model's choice (DESIGN CHOICE, log 5); the command Completes when all are done: it leaves its queue and the
scoreboard, class C falls, and a failure is recorded in `cstat` and `caddr`; `qfen` Completes when the commands it joined have, as a release of its scope. -/
def Obligations.CopyEngine : Prop :=
  (∀ row ∈ ([(Instr.cpy, 0), (Instr.cpym, 1), (Instr.deal, 2), (Instr.bkt, 3)] : List ((RegF → RegF → BitVec 3 → Instr) × Nat)),
    ∀ (a b : RegF) (set : BitVec 3) (s s1 s2 : State) (src dst : TVal),
      let i := row.1 a b set
      let e := doer i s
      let u := counted e .C s2
      let x := u.ctx e.core e.slot
      let reg := fun n => SMap.get (u.core e.core).copySets (128 * (if isArray e.core then 0 else x.tenant) + 16 * set.toNat + n) 0
      let q : CopyCmd := {
        id := s2.nextId, cmd := row.2, set := set.toNat, src := src.val, dst := dst.val, hdr := reg 0,
        dims := (List.range 14).map (fun j => reg (1 + j)), aux := reg 15, priv := x.level, pv := x.pvbase, seq := x.seq, started := false, done := 0, join := [],
        dstGen := recordGen u e.core x (if row.2 = 1 ∨ row.2 = 2 then remotePtr e.core (bits dst.val 19 0) else dst.val),
        auxGen := recordGen u e.core x (reg 15), fail := none, orig := [], ids := [] }
      let rs := cmdRanges u e.core x q
      let t := ((({ u with nextId := s2.nextId + 1 } : State).setChan (.cmd q.id) (u.front x.uid)).modCtx e.core e.slot
        (fun y => { y with copyQ := y.copyQ ++ [q] })).modCore e.core
        (fun k => { k with board := k.board ++ rs.map (fun r => Board.mk q.id r.1 r.2.1 r.2.2) })
      starts i s = true → Reads e a (begun s) src s1 → Reads e b s1 dst s2 → (s2.ctx e.core e.slot).nC < 63 → (u.core e.core).board.length + rs.length ≤ 16 →
      exec i s = .next (ended s t) ∧ sameMemory s2 (ended s t)) ∧
  (∀ (sc : Scope) (a : RegF) (s s1 : State) (v : TVal),
    let e := doer (.qfen sc a) s
    starts (.qfen sc a) s = true → Reads e a (begun s) v s1 → (s1.ctx e.core e.slot).nC < 63 →
    ∃ t q, exec (.qfen sc a) s = .next t ∧ (t.ctx e.core e.slot).copyQ = (s1.ctx e.core e.slot).copyQ ++ [q] ∧ q.cmd = 4 ∧ q.started = false ∧
      q.scope = some (scopeSet s1 sc (s1.ctx e.core e.slot) e.core) ∧ q.seq = (s1.ctx e.core e.slot).seq ∧ (t.ctx e.core e.slot).nC = (s1.ctx e.core e.slot).nC + 1 ∧ (t.core e.core).board = (s1.core e.core).board ∧
      (v.val.getLsbD 0 = true → ∀ p ∈ (s1.ctx e.core e.slot).copyQ, (s1.ctx e.core e.slot).state ≠ .free → p.id ∈ q.join) ∧ sameMemory s1 t) ∧
  (∀ (c i : Nat) (s : State) (q : CopyCmd) (r : List CopyCmd), (s.ctx c i).copyQ = q :: r → q.started = false → storesDone (s.core c) (s.ctx c i).uid q.seq = true →
    ∃ t p, exec (.copyCommandStart c i) s = .next t ∧ (t.ctx c i).copyQ = p :: r ∧ p.started = true ∧ p.id = q.id ∧ p.done = q.done ∧
      (q.cmd = 4 ∨ (q.badSet = false ∧ q.cmd = 0) → p.fail = none) ∧ (q.cmd ≠ 4 → q.badSet = true → p.fail = some (1, 0)) ∧ sameMemory s t) ∧
  (∀ (c : Nat) (s : State) (x : Ctx) (q : CopyCmd) (a b : Nat), q.cmd = 0 → q.unit ≤ 8 → q.orig = [] → q.held = [] → q.fail = none → q.done < q.total →
    let g := copyAgent x c q
    let p := q.dst + BitVec.ofInt 64 (indexOff Dim.ds q.shape q.done * q.unit)
    engResolve s.draw.2 g (srcPtr q q.done) q.unit .eread = .ok (.ls c a) → staleUnit s (.ls c a) q.unit x.gen = false →
    let u := engTouch s.draw.2 g (srcPtr q q.done) q.unit .eread
    let v := readUnit u x q (.ls c a) q.unit
    engResolve v.2 g p q.unit .ewrite = .ok (.ls c b) →
    (u.hasOlder (u.cmdReader x.uid q.seq q.id 1) x.gen (fun _ _ => true) (.ls c a) q.unit = false → v.1 = s.readAt (.ls c a) q.unit x.gen) ∧
    (stepUnit s c x q).2 = { q with done := q.done + 1, held := [(q.done, [(p, .ls c b)], v.1)] } ∧ sameMemory s (stepUnit s c x q).1) ∧
  (∀ (c : Nat) (s : State) (x : Ctx) (q : CopyCmd) (i b v : Nat) (p : Word), q.unit ≤ 8 →
    let n := Config.freePick s.free
    ¬(q.fail = none ∧ q.done < q.total ∧ (q.held = [] ∨ n % 2 = 0)) → q.held[n / 2 % q.held.length]? = some (i, [(p, .ls c b)], v) → b % q.unit = 0 →
    let t := (stepUnit s c x q).1
    (stepUnit s c x q).2 = { q with held := q.held.filter (fun h => h.1 != i) } ∧ (t.core c).lsRead q.dstGen b q.unit = v % 256 ^ q.unit ∧
      (t.core c).stamp b = q.dstGen ∧ ∀ d h m, (d ≠ c ∨ m / 32 ≠ b / 32) → (t.core d).lsRead h m 1 = (s.core d).lsRead h m 1) ∧
  (∀ (c i : Nat) (s : State) (q : CopyCmd) (r : List CopyCmd), (s.ctx c i).copyQ = q :: r → q.cmd ≠ 4 → q.finished = true → i < 64 →
    ∃ t, exec (.copyCommandComplete c i) s = .next t ∧ (t.ctx c i).copyQ = r ∧ (t.ctx c i).nC = (s.ctx c i).nC - 1 ∧
      (t.core c).board = (s.core c).board.filter (fun b => b.cmd != q.id) ∧ sameMemory s t ∧
      (q.fail = none → (t.ctx c i).recC = (s.ctx c i).recC) ∧
      (∀ code p, q.fail = some (code, p) → code < 16 → q.cmd < 16 → q.set < 8 → (s.ctx c i).state ≠ .draining → (t.ctx c i).recC = true ∧
        bits ((t.ctx c i).er 0 0x80) 7 0 = code ∧ bits ((t.ctx c i).er 0 0x80) 11 8 = q.cmd ∧ ((t.ctx c i).er 0 0x80).getLsbD 15 = true ∧
        bits ((t.ctx c i).er 0 0x80) 47 16 = q.done % 2 ^ 32 ∧ (t.ctx c i).er 0 0x81 = p)) ∧
  (∀ (c i : Nat) (s : State) (q : CopyCmd) (r : List CopyCmd), (s.ctx c i).copyQ = q :: r → q.cmd = 4 → q.started = true → q.fail = none →
    (∀ id ∈ q.join, cmdLive s id = false) →
    ∃ t, exec (.qfenComplete c i) s = .next t ∧ (t.ctx c i).copyQ = r ∧ (t.ctx c i).nC = (s.ctx c i).nC - 1 ∧ sameMemory s t ∧
      ∀ p, q.scope = some p → ∃ m ∈ (t.chan (.done (s.ctx c i).uid 1)).marks, m.1 = p ∧ s.ord.commits ≤ m.2)

/-- R405, R267: a matrix command passes its checks in their order, reserved values (0x01), ranges (the fault of the step, and 0x05 with code 4 for another window), alignment (0x04), and enters the context's matrix queue with the engine registers as they stand; class M
rises. R239 to R241, R249: the engine Starts the command of the next queue whose issuer's earlier stores are done, one at a time; at Completion the command has its effect, leaves its queue, and class M falls. R268: `mld` fills a bank from the local store, `mzero` sets the accumulators of its rows to +0 with
count 24, and `mmul` folds each block of a row into each accumulator of it, in increasing b (R129), with its count (R136). R269, R407: `mgrp` reads its groups at Start and runs each as an `mmul`, or skips it with its code. R270, R271, R408: `mout` writes each row's elements after the epilogue, later rows over earlier ones, and the tag bytes of the words they
are in; R272: `mxa` moves accumulators and counts either way. What a field of an operand beyond its checks means, how tag bytes of words without an element stay, and when an operand is read is the model's reading (logs 39, 4, 52, 68). -/
def Obligations.MatrixEngine : Prop :=
  (∀ row ∈ ([(Instr.mld, 0), (Instr.mmul, 1), (Instr.mgrp, 2), (Instr.mout, 4), (Instr.mxa, 5)] : List ((RegF → RegF → Instr) × Nat)),
    ∀ (a b : RegF) (s s1 s2 : State) (va vb : TVal),
      let i := row.1 a b
      let e := doer i s
      let x := s2.ctx e.core e.slot
      let l := matRanges e.core row.2 va.val vb.val (x.er 2 0) (x.er 2 1) (x.er 2 2) (x.er 2 3) (x.er 2 4) (x.er 2 5) (x.er 2 6)
      let q : MatCmd := {
        id := s2.nextId, cmd := row.2, aoff := matOffOf s2 e.core x va.val, boff := matOffOf s2 e.core x vb.val, b := vb.val, geo := x.er 2 0,
        astr := x.er 2 1, ggeo := x.er 2 2, epi := x.er 2 3, epiv := x.er 2 4, wsc := x.er 2 5, ostr := x.er 2 6, seq := x.seq, started := false, groups := [] }
      starts i s = true → Reads e a (begun s) va s1 → Reads e b s1 vb s2 →
      (matReserved row.2 vb.val (x.er 2 0) (x.er 2 3) = true →
        exec i s = .next (rotate e.core e.slot (raise e { cause := 0x01, aux := w64 (4 * 2 ^ 32 + e.word.toNat) } s))) ∧
      (matReserved row.2 vb.val (x.er 2 0) (x.er 2 3) = false →
        (∀ t, matOffs s2 e.core x l = .error t → exec i s = .next (rotate e.core e.slot (raise e t s))) ∧
        (∀ r, matOffs s2 e.core x l = .ok () → l.find? (fun r => r.1.toNat % r.2.2 != 0) = some r →
          exec i s = .next (rotate e.core e.slot (raise e { cause := 0x04, addr := r.1 } s)))) ∧
      (matReserved row.2 vb.val (x.er 2 0) (x.er 2 3) = false → matOffs s2 e.core x l = .ok () → (∀ r ∈ l, r.1.toNat % r.2.2 = 0) → x.nM < 63 →
        exec i s = .next (ended s ((({ counted e .M s2 with nextId := s2.nextId + 1 } : State).setChan (.cmd q.id) (s2.front x.uid)).modCtx e.core e.slot
          (fun y => { y with matQ := y.matQ ++ [q] }))))) ∧
  (∀ (s : State) (c : Nat) (x : Ctx),
    (∀ (p : Word) (n : Nat), (∀ t, checkPtr s c x.pvbase p n = .error t → matOff s c x p n = .error t) ∧
      (∀ w pl, checkPtr s c x.pvbase p n = .ok (w, pl) → w ≠ .priv → w ≠ .loc → matOff s c x p n = .error { cause := 0x05, addr := p, aux := 4 }) ∧
      (∀ w d off, checkPtr s c x.pvbase p n = .ok (w, .ls d off) → w = .priv ∨ w = .loc → off + n ≤ lsSize c → matOff s c x p n = .ok off) ∧
      (∀ w d off, checkPtr s c x.pvbase p n = .ok (w, .ls d off) → w = .priv ∨ w = .loc → lsSize c < off + n →
        matOff s c x p n = .error { cause := 0x05, addr := p, aux := 3 })) ∧
    (∀ (l r : List (Word × Nat × Nat)) (p : Word) (n al : Nat) (t : TrapInfo), (∀ q ∈ l, q.2.1 ≠ 0 → ∃ o, matOff s c x q.1 q.2.1 = .ok o) →
      (n ≠ 0 → matOff s c x p n = .error t → matOffs s c x (l ++ (p, n, al) :: r) = .error t) ∧ matOffs s c x l = .ok ())) ∧
  (∀ s : State, starts .mzero s = true →
    let g := s.who.er 2 0
    (64 < bits g 24 19 + bits g 14 9 + 1 → exec .mzero s = .next (rotate s.cur.1 s.cur.2
      (raise (doer .mzero s) { cause := 0x01, aux := w64 (4 * 2 ^ 32 + (doer .mzero s).word.toNat) } s))) ∧
    (bits g 24 19 + bits g 14 9 + 1 ≤ 64 → s.who.nM < 63 → ∃ t q, exec .mzero s = .next t ∧ (t.ctx s.cur.1 s.cur.2).matQ = s.who.matQ ++ [q] ∧
      q.cmd = 3 ∧ q.geo = g ∧ q.started = false ∧ (t.ctx s.cur.1 s.cur.2).nM = s.who.nM + 1 ∧ sameMemory s t)) ∧
  (∀ (c i : Nat) (s : State) (q : MatCmd) (r : List MatCmd), (s.core c).matCur = none → nextMat (s.core c) = some i → (s.ctx c i).matQ = q :: r →
    ∃ t p, exec (.matrixCommandStart c) s = .next t ∧ (t.core c).matCur = some i ∧ (t.ctx c i).matQ = p :: r ∧ p.started = true ∧ p.id = q.id ∧ p.cmd = q.cmd ∧
      sameMemory s t ∧
      let k := s.core c
      let g := (s.ctx c i).gen
      (q.cmd = 2 → (matOld s c (s.ctx c i) q).1 = [] → p.groups = (List.range (bits q.ggeo 9 0 + 1)).map (fun j =>
        (matNum k g (q.aoff + 4 * j) 4, w64 (matNum k g (q.boff + 16 * j) 8), w64 (matNum k g (q.boff + 16 * j + 8) 8))))) ∧
  (∀ (c i : Nat) (s : State) (q : MatCmd) (r : List MatCmd), (s.core c).matCur = some i → (s.ctx c i).matQ = q :: r →
    let k := s.core c
    let old := (matOld s c (s.ctx c i) q).1
    let f := matEffect c (s.ctx c i).gen q (matSeen k old)
    ∃ t, exec (.matrixCommandComplete c) s = .next t ∧ (t.core c).matCur = none ∧ (t.ctx c i).matQ = r ∧ (t.ctx c i).nM = (s.ctx c i).nM - 1 ∧
      (t.core c).acc = f.1.acc ∧ (t.core c).banks = f.1.banks ∧ (t.core c).ls = (matKeep k f.1 q old).ls ∧ (t.core c).lsGen = f.1.lsGen ∧
      (old = [] → matSeen k old = k ∧ matKeep k f.1 q old = f.1) ∧
      ((∀ e ∈ s.ord.wsets, e.1.onCore c = true → s.older (s.cmdReader (s.ctx c i).uid q.seq q.id 2) (s.ctx c i).gen (fun _ _ => true) e.1 = []) → old = []) ∧
      (t.ctx c i).er 2 8 = matStat ((s.ctx c i).er 2 8) f.2.1 f.2.2.1 f.2.2.2) ∧
  (∀ (c : Nat) (g : BitVec 16) (q : MatCmd) (k : Core),
    let row0 := mgRow0 q.geo
    let m := mgRows q.geo
    let t := (matEffect c g q k).1
    (q.cmd = 0 → (∀ j, j < 8192 → Memory.byte t.banks (8192 * bits q.b 3 0 + j) = BitVec.ofNat 8 (k.lsRead (k.gov g (q.aoff + j)).1 (q.aoff + j) 1)) ∧
      (∀ n, n / 8192 ≠ bits q.b 3 0 → Memory.byte t.banks n = Memory.byte k.banks n) ∧ t.acc = k.acc ∧ t.ls = k.ls) ∧
    (q.cmd = 3 → (∀ n, 64 * row0 ≤ n → n < 64 * (row0 + m) → accGet t n = (0, 24)) ∧
      (∀ n, (n < 64 * row0 ∨ 64 * (row0 + m) ≤ n) → accGet t n = accGet k n) ∧ t.banks = k.banks ∧ t.ls = k.ls) ∧
    (q.cmd = 5 → mgXin q.geo = true → (∀ j, j < 64 * m → accGet t (64 * row0 + j) = (BitVec.ofNat 32 (matNum k g (q.aoff + 4 * j) 4),
        if q.b = 0 then 24 else if 24 < matByte k g (q.boff + j) % 64 then 0 else matByte k g (q.boff + j) % 64)) ∧
      (∀ n, (n < 64 * row0 ∨ 64 * (row0 + m) ≤ n) → accGet t n = accGet k n) ∧ t.ls = k.ls) ∧
    (q.cmd = 1 → FoldsRows g q.geo (mgBank q.geo) q.aoff q.astr.toNat q.boff q.wsc.toNat row0 m k t) ∧
    (q.cmd = 2 → let r := q.groups.foldl (runGroup c g q) { core := k, flags := 0, code := 0, skip := 0, row := row0 }
      matEffect c g q k = (r.core, r.flags, r.code, r.skip)) ∧
    (q.cmd = 4 →
      let rows := (List.range m).map (outRow k g q)
      let e := outBytes q.epi
      let u := rows.flatten.foldl (fun k x => matWriteNum g (q.aoff + x.1) x.2.1 e k) k
      let words := ((m - 1) * q.ostr.toNat + outCols q.epi * e - 1) / 8 + 1
      let tags := (List.range words).filterMap (fun w => (tagWord rows e w).map (fun v => (w, v)))
      let v := if q.b = 0 then u else tags.foldl (fun k x => matWriteByte g (q.boff + x.1) x.2 k) u
      t.ls = v.ls ∧ t.lsGen = v.lsGen ∧ t.banks = k.banks ∧
      (meClr q.epi = false → t.acc = k.acc) ∧
      (meClr q.epi = true → ∀ n, accGet t n = if 64 * row0 ≤ n ∧ n < 64 * (row0 + m) then (0, 24) else accGet k n)) ∧
    (q.cmd = 5 → mgXin q.geo = false →
      let v := (List.range (64 * m)).foldl (fun u j =>
        let a := accGet k (64 * row0 + j)
        let w := matWriteNum g (q.aoff + 4 * j) a.1.toNat 4 u
        if q.b = 0 then w else matWriteByte g (q.boff + j) a.2 w) k
      t.ls = v.ls ∧ t.lsGen = v.lsGen ∧ t.acc = k.acc ∧ t.banks = k.banks)) ∧
  (∀ (c : Nat) (g : BitVec 16) (q : MatCmd) (r : GroupRun) (cnt : Nat) (w0 w1 : Word),
    let n := min cnt (64 - r.row)
    let code := groupCode c q.geo q.astr w0 w1 n
    let u := runGroup c g q r (cnt, w0, w1)
    (cnt = 0 → u = r) ∧
    (cnt ≠ 0 → code ≠ 0 → u = { r with code := code, row := r.row + cnt }) ∧
    (cnt ≠ 0 → code = 0 → u.row = r.row + cnt ∧ u.skip = r.skip + (cnt - n) ∧ u.code = r.code ∧
      FoldsRows g q.geo (bits w0 63 60) (bits w0 19 0) q.astr.toNat (bits w0 39 20) (bits w0 59 40) r.row n r.core u.core) ∧
    (w1 ≠ 0 → code = 1) ∧ (w1 = 0 → 12 ≤ bits w0 63 60 → code = 2) ∧
    (w1 = 0 → bits w0 63 60 < 12 → (bits w0 19 0 % 32 ≠ 0 ∨ bits w0 39 20 % 2 = 1 ∨ bits w0 59 40 % 2 = 1 ∨ lsSize c < bits w0 59 40 + scaleBytes q.geo) → code = 3)) ∧
  (∀ (k : Core) (g : BitVec 16) (geo : Word) (bank act ascl wscl m n acc : Nat),
    foldOne k g geo bank act ascl wscl m n acc = (List.range (mgKb geo / 32)).foldl (fun x j =>
      let grp := j / 2 ^ mgGrp geo
      let z := if mgZp geo then sxNat (matByte k g (wscl + 128 * mgGw geo + 64 * grp + n)) 8 else 0
      let sb := ∑ i ∈ Finset.range 32, activation k g (mgAfmt geo) act (32 * j + i) * (weight k.banks (mgW4 geo) bank n (32 * j + i) - z)
      foldBlock x sb (scaleProduct (matNum k g (ascl + 2 * (m * (mgKb geo / 32) + j)) 2 % 512)
        (scaleVal (mgSfmt geo) (matNum k g (wscl + 2 * (64 * grp + n)) 2)))) { acc := acc, flags := 0, big := none, zeros := true }) ∧
  (∀ (x : Fold) (sb : Int) (sp : Option Rounded),
    let c := contrib sb sp
    let y := foldBlock x sb sp
    let a := (f32.dec x.acc).rat
    let d := (f32.dec c.1).rat
    (sb = 0 → c = (0, 0)) ∧ (sb ≠ 0 → sp = none → c = (f32.nan, 0)) ∧
    (∀ r, sb ≠ 0 → sp = some r → f32.finite r.bits → (f32.dec r.bits).rat ≠ 0 →
      ∃ f, RoundedOnce f32 .rne (sb * (f32.dec r.bits).rat) c.1 f ∧ c.2 = r.flags ||| f) ∧
    (f32.finite x.acc → f32.finite c.1 → a + d ≠ 0 → ∃ f, RoundedOnce f32 .rne (a + d) y.acc f ∧ y.flags = x.flags ||| c.2 ||| f) ∧
    y.big = maxOpt x.big (finExp c.1) ∧ y.zeros = (x.zeros && sb == 0)) ∧
  (∀ (ca : Nat) (v : FVal), (510 ≤ ca → scaleProduct ca v = none) ∧
    (ca < 510 → v.isNan = false → v.isInf = false → v.rat ≠ 0 → ∃ r, scaleProduct ca v = some r ∧
      RoundedOnce f32 .rne (((2 + ca % 2 : Nat) : ℚ) * (2 : ℚ) ^ (((ca / 2 : Nat) : Int) - 128) * v.rat) r.bits r.flags)) ∧
  (∀ (before cnt : Nat) (x : Fold), ((f32.dec x.acc).isNan = true → accCount before cnt x = 0) ∧ ((f32.dec x.acc).isInf = true → accCount before cnt x = 24) ∧
    ((f32.dec x.acc).isZero = true → accCount before cnt x = if x.zeros = true ∧ (f32.dec before).isZero = true ∧ cnt = 24 then 24 else 0) ∧
    (∀ r b, finExp x.acc = some r → maxOpt x.big ((finExp before).map (fun e => e + 24 - cnt)) = some b → accCount before cnt x = 24 - min 24 (max 0 (b - r)).toNat)) ∧
  (∀ (b : Nat) (e : Int), finExp b = some e → (2 : ℚ) ^ e ≤ |(f32.dec b).rat| ∧ |(f32.dec b).rat| < (2 : ℚ) ^ (e + 1)) ∧
  (∀ (k : Core) (g : BitVec 16) (q : MatCmd) (m n : Nat), n < outCols q.epi →
    let e := outBytes q.epi
    let staged := fun (n : Nat) =>
      let v := accGet k (64 * (mgRow0 q.geo + m) + n)
      let y : Elem := { b := v.1.toNat, s := v.2, i := decide (v.2 < 24) }
      let vec := fun (o : Nat) => fopd (matNum k g (q.epiv.toNat + o + 4 * n) 4) 24
      let y1 := if meScl q.epi then Elem.of (mulLane f32 .rne y.opd (vec 0)) y.i else y
      if meBias q.epi then Elem.of (addLane f32 .rne false y1.opd (vec 256)) y1.i else y1
    let y3 := (activate (meAct q.epi) (staged n)).1
    let y4 := if meGlu q.epi then Elem.of (mulLane f32 .rne y3.opd (staged (n + 32)).opd) (y3.i || (staged (n + 32)).i) else y3
    let r := cvtLane (outFmt (meOfmt q.epi)) .rne y4.opd
    ∃ f, (outRow k g q m)[n]? = some (m * q.ostr.toNat + n * e, r.bits, r.cnt, y4.i || r.inexact, f)) ∧
  (∀ y : Elem, (activate 0 y).1 = y ∧ (f32.finite y.b → (f32.dec y.b).rat < 0 → (activate 1 y).1.b = 0) ∧
    (f32.finite y.b → 0 < (f32.dec y.b).rat → (activate 1 y).1.b = y.b ∧ (activate 1 y).1.s = (activate 2 y).1.s) ∧
    (f32.dec y.b = .inf false → (activate 2 y).1.b = 0x3F800000 ∧ (activate 3 y).1.b = f32.inf false ∧ (activate 4 y).1.b = 0x3F800000) ∧
    (f32.dec y.b = .inf true → (activate 2 y).1.b = 0 ∧ (activate 3 y).1.b = f32.nan ∧ (activate 4 y).1.b = 0xBF800000) ∧
    ((f32.dec y.b).isZero = true → (activate 2 y).1.b = 0x3F000000 ∧ (activate 3 y).1.b = y.b ∧ (activate 4 y).1.b = y.b)) ∧
  (∀ (rows : List (List (Nat × Nat × Nat × Bool × Nat))) (e w t : Nat), (∀ row ∈ rows, ∀ x ∈ row, x.2.2.1 ≤ 127) → tagWord rows e w = some t →
    let stands := fun (j : Nat) (row : List (Nat × Nat × Nat × Bool × Nat)) => row.find? (fun x => decide (x.1 ≤ 8 * w + j) && decide (8 * w + j < x.1 + e))
    (∀ j, j < 8 → ∀ a ∈ rows, ∀ b ∈ rows, (stands j a).isSome = true → (stands j b).isSome = true → a = b) →
    (∀ j, j < 8 → ∀ row ∈ rows, ∀ x, stands j row = some x → t % 128 ≤ x.2.2.1) ∧
    (∃ j, j < 8 ∧ ∃ row ∈ rows, ∃ x, stands j row = some x ∧ t % 128 = x.2.2.1) ∧
    (128 ≤ t ↔ ∃ j, j < 8 ∧ ∃ row ∈ rows, ∃ x, stands j row = some x ∧ x.2.2.2.1 = true))

/-- R276, R281, R289: a rope command checks its two pointers, reads its argument block, and enters its square's queue with the registers of the engine as they stand; class Q rises. R239, R240, R284 to R287, R290 to R295, R424: a rope command Starts with its handle reads; at Completion its effect takes place, the result record is written, the command leaves its queue and class Q falls; a reclaimed node stays in limbo until every command that had Started before has
Completed. `rref` and `rdrop` move the count of a node, and a node that `rdrop` would take below 0 keeps its count. That a reclaimed node whose push fails stays in limbo is the model's choice (DESIGN CHOICE, log 58). -/
def Obligations.RopeEngine : Prop :=
  (∀ row ∈ ([(Instr.rcat, 0), (Instr.rsplit, 1), (Instr.rsplice, 2), (Instr.rfind, 3), (Instr.rfold, 4), (Instr.rpin, 5), (Instr.rref, 6), (Instr.rdrop, 7)] :
      List ((RegF → RegF → Instr) × Nat)),
    ∀ (a b : RegF) (s s1 s2 s3 : State) (pa pb : TVal) (oa ob : Nat) (args : List Word),
      let i := row.1 a b
      let e := doer i s
      let x := (counted e .Q s3).ctx e.core e.slot
      let l : Loc := { place := .ls e.core oa, ptr := pa.val, win := .loc, size := 32 }
      let q : RopeCmd := {
        id := s2.nextId, core := e.core, slot := e.slot, uid := x.uid, tenant := x.tenant, priv := x.level, cmd := row.2, args := args, argPtr := pa.val,
        res := ob, pool := x.er 3 0, list := x.er 3 1, cap := x.er 3 2, seq := x.seq, started := false, rootA := 0, classA := 0, rootB := 0,
        fail := none, fin := none }
      starts i s = true → Reads e a (begun s) pa s1 → Reads e b s1 pb s2 → matOff s2 e.core (s2.ctx e.core e.slot) pa.val 32 = .ok oa →
      matOff s2 e.core (s2.ctx e.core e.slot) pb.val 16 = .ok ob →
      (pa.val.toNat % 32 ≠ 0 → exec i s = .next (rotate e.core e.slot (raise e { cause := 0x04, addr := pa.val } s))) ∧
      (pa.val.toNat % 32 = 0 → pb.val.toNat % 16 = 0 → clear e l false s2 = true → readWordsAt l 4 e s2 = .ok (args, s3) → (s3.ctx e.core e.slot).nQ < 63 →
        exec i s = .next (ended s ((({ counted e .Q s3 with nextId := s2.nextId + 1 } : State).setChan (.cmd q.id) (s3.front x.uid)).modSquare (serveSquare e.core)
          (fun y => { y with ropeQ := y.ropeQ ++ [q] }))))) ∧
  (∀ (sq : Nat) (s : State) (c : RopeCmd), ropeReady s (s.square sq) = some c → c.cmd = 6 ∨ c.cmd = 7 → c.badArgs = false →
    exec (.ropeCommandStart sq) s = .next (setRope s sq { c with started := true, walks := {} })) ∧
  (∀ (sq n : Nat) (s s1 : State) (c : RopeCmd) (f : RopeFin), (s.square sq).ropeQ[n]? = some c → c.started = true → c.walks.page = none → c.fin = none →
    ropeRun c s = .ok (s1, f) → f.left = [] →
    ∃ t, exec (.ropeCommandComplete sq n) s = .next t ∧ (∀ d ∈ (t.square sq).ropeQ, d.id ≠ c.id) ∧ (t.ctx c.core c.slot).nQ = (s1.ctx c.core c.slot).nQ - 1 ∧
      ((∀ j, j < 16 → s1.overtaken (c.by s1) (.ls c.core (c.res + j)) = false) → c.res % 8 = 0 → (s1.core c.core).gov (c.own s1) c.res = (s1.core c.core).gov (c.own s1) (c.res + 8) →
        t.readAt (.ls c.core c.res) 8 (c.own s1) = (w64 (f.status + f.value % 2 ^ 48 * 256)).toNat ∧ t.readAt (.ls c.core (c.res + 8)) 8 (c.own s1) = f.word1.toNat) ∧
      (16 ≤ f.status → (s1.ctx c.core c.slot).state ≠ .draining → (t.ctx c.core c.slot).recQ = true ∧ (t.ctx c.core c.slot).er 3 9 = c.argPtr ∧
        (t.ctx c.core c.slot).er 3 10 = f.ptr)) ∧
  (∀ (sq n : Nat) (s : State) (l : Limbo), (s.square sq).limbo[n]? = some l → (∀ id ∈ ropesInProgress s, id ∉ l.waits) → l.cmd.walks.page = none →
    let u := s.joinChan (.cmd l.cmd.id) (({} : Front).mark .device s.ord.commits)
    (∀ st, runRM (pushNode l.cmd l.node) u = (.ok (), st) → exec (.limboRelease sq n) s = .next (st.s.modSquare sq (fun y => { y with limbo := y.limbo.eraseIdx n }))) ∧
    (∀ f st, runRM (pushNode l.cmd l.node) u = (.error f, st) → f.miss = none → exec (.limboRelease sq n) s = .next s)) ∧
  (∀ (c : RopeCmd) (s : State) (pl : Place), c.fail = none → bits (c.arg 0) 63 51 = 0 →
    engMiss s (ropeAgent c) (c.arg 0) 64 .atom = none → engResolve s (ropeAgent c) (c.arg 0) 64 .atom = .ok pl →
    let n := bits (c.arg 1) 31 0
    let u := engTouch s (ropeAgent c) (c.arg 0) 64 .atom
    let r := u.weakRead (u.cmdReader c.uid c.seq c.id 3) 0 (fun q o => (u.wset q).all (fun d => !(d.isAfter o && Parties.device.has d.by_))) pl 8
    let w := w64 r.1
    let got := r.2.1.filter (fun e => e.2.n != 0)
    let v := if got.isEmpty then r.2.2 else r.2.2.joinChan (.cmd c.id)
      ((u.acquired (.ctx c.uid c.core c.tenant 0 0) .device got).join { seen := got.map (fun e => (e.1, e.2.n)) })
    (bits w 1 0 = 1 ∨ bits w 1 0 = 2) → bits w 63 40 = 0 →
    (c.cmd = 6 → bits w 39 8 ≠ 0 → bits w 39 8 + n < 2 ^ 32 → ∃ f,
      ropeRun c s = .ok (v.commit (c.byRel v) pl 8 (setBits w 39 8 (bits w 39 8 + n)).toNat 0, f) ∧ f.status = 0 ∧ f.left = []) ∧
    (c.cmd = 7 → n < bits w 39 8 → ∃ f,
      ropeRun c s = .ok (v.commit (c.byRel v) pl 8 (setBits w 39 8 (bits w 39 8 - n)).toNat 0, f) ∧ f.status = 0 ∧ f.left = []) ∧
    (c.cmd = 7 → bits w 39 8 < n → ∃ f, ropeRun c s = .ok (v, f) ∧ f.status = 5))

/-- R299 to R305, R436, R437: `smp` sends its injection towards the owner of its tree, and raises 0x16 with the code of the first condition of R299 that it meets; the injection is counted in its round, or counted as discarded where the owner is not there; `smpw` waits for its round and is for the
tree's owner alone. The collector counts an injection in the round of its tree and step, opening one where fewer than 8 are open, and keeps of the round's best and the new one the one that ranks above; where the owner is gone, or is another tenant's, the injection is discarded and counts in event counter 5. -/
def Obligations.Sampling : Prop :=
  (∀ (a b : RegF) (s s1 s2 : State) (xa xb : TVal), starts (.smp a b) s = true → Reads (doer (.smp a b) s) a (begun s) xa s1 → Reads (doer (.smp a b) s) b s1 xb s2 →
    let e := doer (.smp a b) s
    let x := s2.ctx e.core e.slot
    let t := treeOf (x.er 4 0)
    let temp := (x.er 4 4).setWidth 32
    let step := (x.er 4 3).setWidth 32
    let m : SmpMsg := {
      core := t.core, slot := t.slot, tree := t.tree, step := step, tenant := x.tenant, peer := if t.peer then some t.pslot else none,
      inj := sampleValue (x.er 4 1) ((x.er 4 2).setWidth 32) step temp (xa.val.setWidth 32) (xb.val.setWidth 24), count := 1,
      from_ := some (e.core, e.slot, x.uid), id := s2.nextId, seq := x.seq }
    (smpCode s2 x.tenant t temp xb.val = 0 → x.nQ < 63 →
      exec (.smp a b) s = .next (ended s { counted e .Q s2 with nextId := s2.nextId + 1, smps := s2.smps ++ [m] })) ∧
    (smpCode s2 x.tenant t temp xb.val ≠ 0 → exec (.smp a b) s = .next (rotate e.core e.slot
      (raise e { cause := 0x16, aux := w64 (smpCode s2 x.tenant t temp xb.val) } s)))) ∧
  (∀ (d : RegF) (s : State), starts (.smpw d) s = true → s.who.isPort d.toNat = false → s.who.bound? d.toNat = none →
    let e := doer (.smpw d) s
    let t := treeOf (s.who.er 4 0)
    let cnt := bits (s.who.er 4 5) 31 0
    let own := t.core = e.core ∧ t.slot = e.slot ∧ t.peer = false
    let l : LoadReq := {
      seq := s.who.seq, pc := s.who.pc, next := 0, rd := d.toNat, kind := .smpw s.nextId t.tree ((s.who.er 4 3).setWidth 32) cnt,
      place := .ls e.core 0, ptr := 0, lv := 0, elect := none }
    (¬own → exec (.smpw d) s = .next (rotate e.core e.slot (raise e { cause := 0x16, aux := 5 } s))) ∧
    (own → cnt = 0 → exec (.smpw d) s = .next (rotate e.core e.slot (raise e { cause := 0x16, aux := 6 } s))) ∧
    (own → cnt ≠ 0 → Ready e d (begun s) none (begun s) → s.who.nQ < 63 → exec (.smpw d) s = .next (ended s (trySmpw e.core e.slot
      (({ numbered e (counted e .Q (begun s)) with nextId := s.nextId + 1 } : State).modCtx e.core e.slot (fun x => { x with loads := x.loads ++ [l] })) l)))) ∧
  (∀ (n : Nat) (s : State) (m : SmpMsg), s.smps[n]? = some m → stopped s m.tenant = false → (∀ p ∈ s.smps, p.id ≠ m.id → p.step ≠ m.step) →
    (m.turn s [m] = true → (∀ t, collect s m [m] = some t → exec (.sampleInjectionArrival n) s = .next t) ∧
      (collect s m [m] = none → exec (.sampleInjectionArrival n) s = .next s)) ∧
    (m.turn s [m] = false → exec (.sampleInjectionArrival n) s = .next s)) ∧
  (∀ (s : State) (m : SmpMsg), m.peer = none → (∀ d, ∀ p ∈ (s.core d).ctxs, ∀ l ∈ p.2.loads, l.smpwId = none) →
    let core := s.leadSlot m.core m.slot
    let x := s.ctx core m.slot
    let mine := fun (r : Round) => r.is m.slot m.tree m.step
    let old := (s.core core).rounds.find? mine
    let left := s.smps.filter (fun p => p.id != m.id)
    (x.state = .free ∨ x.state = .draining ∨ x.tenant ≠ m.tenant → ∃ t, collect s m [m] = some t ∧ t.smps = left ∧ (t.core core).rounds = (s.core core).rounds ∧
      (SMap.get (t.core core).events 5 (0 : BitVec 32)).toNat = min (2 ^ 32 - 1) ((SMap.get (s.core core).events 5 (0 : BitVec 32)).toNat + m.count)) ∧
    (x.state ≠ .free → x.state ≠ .draining → x.tenant = m.tenant →
      (old.isSome = true ∨ (s.core core).rounds.length < 8 → ∃ t r, collect s m [m] = some t ∧ t.smps = left ∧ (t.core core).rounds.find? mine = some r ∧
        r.got = old.elim 0 (fun r => r.got) + m.count ∧
        (old.bind (fun r => r.best) = none → r.best = some m.inj) ∧
        (∀ b, old.bind (fun r => r.best) = some b → (m.inj.above b = true → r.best = some m.inj) ∧ (m.inj.above b = false → r.best = some b))) ∧
      (old = none → 8 ≤ (s.core core).rounds.length → collect s m [m] = none))) ∧
  (∀ a b : Inject, (a.cls = true → b.cls = false → a.above b = true ∧ b.above a = false) ∧
    (a.cls = b.cls → a.value = b.value → a.index.toNat < b.index.toNat → (f32.dec a.value.toNat).isNan = false → a.above b = true ∧ b.above a = false) ∧
    (a.cls = true → b.cls = true → f32.finite a.value.toNat → f32.finite b.value.toNat → (f32.dec b.value.toNat).rat < (f32.dec a.value.toNat).rat → a.above b = true))

/-! ## Translation, ports, invalidation (R58, R60, R217, R220 to R222, R448) -/

/-- R220, R221, R222, R448: a hit in a cache gives the leaf's page where the leaf grants the access; a miss parks the context on list 8 and asks for a walk. A walk that ends fills the caches with what the tables hold then and wakes its waiters. `tlbi` parks its context until the entries are gone. R58, R60: a port word enters its receive queue, or is discarded and counts in event counter 2 where no context of its tenant is there; that one which finds the queue full waits, and that words of one core to one queue keep their
order, is the model's choice (DESIGN CHOICE, log 51). -/
def Obligations.Translation : Prop :=
  (∀ (c i page : Nat) (e : Env) (s s1 : State) (p : Word) (op : Op) (t : TlbEntry) (pl : Place), e.core = c → e.slot = i → page = bits p 50 16 → (s.ctx c i).xfault = none →
    tlbLookup s c (s.ctx c i).tenant page = (some t, s1) → grant t.leaf t.big p op (s.ctx c i).level = .ok pl →
    translate p op e s = .ok ((pl, if t.big then 2 else 3), s1)) ∧
  (∀ (e : Env) (s : State) (p : Word) (op : Op),
    let x := s.ctx e.core e.slot
    x.xfault = none → (tlbLookup s e.core x.tenant (bits p 50 16)).1 = none → translate p op e s = .error (.park
      { list := 8, object := BitVec.ofNat 48 (bits p 51 4), cond := .walk (bits p 50 16) }
      (fun t => requestWalk (tlbLookup t e.core x.tenant (bits p 50 16)).2 (.ctx e.core e.slot) x.tenant (bits p 50 16)))) ∧
  (∀ (n : Nat) (s : State) (w : Walk) (big : Bool) (leaf : Word), s.walks[n]? = some w → ((s.walks.take n).filter (fun x => x.die == w.die)).length < 256 →
    walkTables s w.tenant (w.page * 65536) = .ok (big, leaf) → s.missWait = [] → w.reqs.Nodup → w.squares.Nodup →
    ∃ t, exec (.translationWalkEnd n) s = .next t ∧ t.walks = without s.walks n ∧ sameMemory s t ∧
      (∀ c i, .ctx c i ∈ w.reqs → (∃ l ∈ (t.core c).tlb, l.tenant = w.tenant ∧ l.page = w.page ∧ l.leaf = leaf ∧ l.big = big) ∧
        ((s.ctx c i).tenant = w.tenant → (s.ctx c i).bwait = none → (s.ctx c i).parkedOn (fun k => k == .walk w.page) = true →
          (t.ctx c i).state = .ready ∧ i ∈ (t.core c).rot)) ∧
      (∀ c i id, .copy c i id ∈ w.reqs → (∃ l ∈ (t.core c).tlb, l.tenant = w.tenant ∧ l.page = w.page ∧ l.leaf = leaf ∧ l.big = big) ∧
        ∀ q ∈ (t.ctx c i).copyQ, q.id = id → q.walks.page ≠ some w.page)) ∧
  (∀ (a : RegF) (s s1 : State) (v : TVal), starts (.tlbi a) s = true → Reads (doer (.tlbi a) s) a (begun s) v s1 → bits v.val 15 7 = 0 →
    exec (.tlbi a) s = .next ((({ s1 with nextId := s1.nextId + 1, tlbiOps := s1.tlbiOps ++ [(s1.nextId, s.cur.1, s.cur.2, v.val)] } : State).modCtx s.cur.1 s.cur.2
      (fun x => { x.noteTaken s.who with pc := s.who.pc })).parkOn s.cur.1 s.cur.2 { list := 8, object := BitVec.ofNat 48 (bits v.val 51 4), cond := .tlbi s1.nextId })) ∧
  (∀ (n id c i : Nat) (v : Word) (s : State), s.tlbiOps[n]? = some (id, c, i, v) →
    ∃ t, exec (.tlbiRemovalComplete n) s = .next t ∧ t.tlbiOps = without s.tlbiOps n ∧
      (SMap.wf s.cores Core.reset = true → ∀ d, ∀ l ∈ (t.core d).tlb, tlbiMatches v l = false) ∧
      (SMap.wf s.squares Square.reset = true → ∀ q, ∀ l ∈ (t.square q).tlb, tlbiMatches v l = false) ∧
      (SMap.wf s.cores Core.reset = true → (s.ctx c i).bwait = none → (s.ctx c i).parkedOn (fun w => w == .tlbi id) = true → (t.ctx c i).state = .ready ∧ (t.ctx c i).pc = (s.ctx c i).pc + 4)) ∧
  (∀ (n : Nat) (s : State) (m : PortMsg), s.ports[n]? = some m → stopped s m.tenant = false →
    (∀ p ∈ s.ports.take n, ¬(p.srcCore = m.srcCore ∧ p.core = m.core ∧ p.slot = m.slot ∧ p.queue = m.queue)) →
    let c := s.leadSlot m.core m.slot
    let x := s.ctx c m.slot
    let q := SMap.get x.rxq m.queue []
    let u := { s with ports := without s.ports n }
    (m.slot < (s.core c).slots → x.state ≠ .free → x.tenant = m.tenant → q.length + x.lent m.queue < 8 →
      exec (.portWordArrival n) s = .next (u.modCtx c m.slot (fun x => { x with rxq := SMap.put x.rxq [] m.queue (q ++ [m.v]) }))) ∧
    (m.slot < (s.core c).slots → x.state ≠ .free → x.tenant = m.tenant → 8 ≤ q.length + x.lent m.queue → exec (.portWordArrival n) s = .next s) ∧
    (((s.core c).slots ≤ m.slot ∨ x.state = .free ∨ x.tenant ≠ m.tenant) → exec (.portWordArrival n) s = .next (u.bump c 2)))

/-! ## Partitions, launches and runs (R152 to R159, R165, R179, R180, R193 to R199, R203, R205, R206) -/

/-- R193, R165, R194 to R196, R156, R157, R203: a scan reads each descriptor in force again and brings a valid one in that lies in the mesh and meets none in force. The next full slot of a launch queue enters the pending-launch store as a run, with the next run
identifier of its tenant, or the tenant's overflow ring, whose head comes back while the store has room; a full `dep` word makes its run ready, with its tile count. That a packet goes to the ring while the ring holds packets is the model's reading (DEDUCED, log 36), and so is the ninth word of a slot that the rest of an
inline run was put into (DEDUCED, log 18): that run enters by the same way, at the age of its entry (R197). -/
def Obligations.Launching : Prop :=
  (∀ s : State, ∃ t, exec .partitionScan s = .next t ∧
    (∀ n ws, descriptor s n = some ws → (Machine.Part.mk n ws).valid = false → t.part? n = none) ∧
    (∀ p ∈ s.disp.parts, ∀ ws, descriptor s p.tenant = some ws → (Machine.Part.mk p.tenant ws).valid = true →
      bits (p.word 0) 19 0 = bits ((Machine.Part.mk p.tenant ws).word 0) 19 0 → Machine.Part.mk p.tenant ws ∈ t.disp.parts) ∧
    (∀ n ws, n < 64 → s.disp.parts = [] → descriptor s n = some ws → (Machine.Part.mk n ws).valid = true → (Machine.Part.mk n ws).inMesh = true → (Machine.Part.mk n ws).klan = 0 →
      (∀ m vs, m ≠ n → descriptor s m = some vs → (Machine.Part.mk m vs).valid = false) → t.disp.parts = [Machine.Part.mk n ws])) ∧
  (∀ (q tn : Nat) (s u : State) (p : List Word) (old : List (Nat × Word × Nat)), queueTenant s q = some tn →
    let i := SMap.get s.disp.qnext q 0
    let l := s.slot q i
    let taken := fun (v : State) => (v.setSlot q i { words := l.words.take 8, full := false, old := old }).modDisp
      (fun d => { d with qnext := SMap.put d.qnext 0 q ((i + 1) % 16) })
    let f := u.chan (.slot q i)
    l.full = true → s.readSlot l = (p, old, u) →
    (u.storeCount < 4096 → launchRingUsed u tn = false →
      (p[8]? = none → exec (.launchSlotTake q) s = .next (taken (enterStore u q p f))) ∧
      (∀ w, p[8]? = some w → exec (.launchSlotTake q) s = .next (taken (({ u with nextId := u.nextId + 1 } : State).modRun w.toNat
        (fun r => { r with inStore := true, age := u.nextId }))))) ∧
    (∀ d v, (4096 ≤ u.storeCount ∨ launchRingUsed u tn = true) → u.part? tn = some d → ringAppend u tn (d.word 4) (d.word 5) (p.take 8) (w64 q) f = some v →
      exec (.launchSlotTake q) s = .next (taken (setRest v tn ((ringCounts u tn (d.word 4)).getD (0, 0)).1.toNat p[8]?))) ∧
    (∀ d, 4096 ≤ u.storeCount → u.part? tn = some d → ringAppend u tn (d.word 4) (d.word 5) (p.take 8) (w64 q) f = none → tn ∉ u.disp.full →
      exec (.launchSlotTake q) s = .next ((toSupervisor u tn { cause := 0x17, aux := w64 tn }).modDisp (fun d => { d with full := d.full ++ [tn] })))) ∧
  (∀ (q : Nat) (h : Word) (s : State) (p : List Word) (f : Front), queueCheck s q p = some h → ∃ r : Run, (enterStore s q p f).chan (.run s.nextId) = f ∧
    (enterStore s q p f).disp.runs = s.disp.runs ++ [r] ∧ r.uid = s.nextId ∧
    r.runId = SMap.get s.disp.nextRun (pkTenant p) 0 ∧ r.tenant = pkTenant p ∧ r.packet = p ∧ r.count = pkCount p ∧ r.queue = q ∧ r.inStore = true ∧
    r.next = 0 ∧ r.header = h ∧ (r.ready = true ↔ pkDep p = 0) ∧
    SMap.get (enterStore s q p f).disp.nextRun (pkTenant p) 0 = (SMap.get s.disp.nextRun (pkTenant p) 0 + 1) % 2 ^ 24) ∧
  (∀ (q : Nat) (s : State) (p : List Word) (f : Front), queueCheck s q p = none → pkDone p = 0 → (∀ r ∈ s.disp.runs, r.uid ≠ s.nextId) →
    (enterStore s q p f).disp.runs = s.disp.runs ∧ (enterStore s q p f).disp.gangs = s.disp.gangs) ∧
  (∀ (tn : Nat) (s u : State) (d : Machine.Part) (p : List Word) (x : Word), s.part? tn = some d → s.storeCount < 4096 →
    ringHead s tn (d.word 4) (d.word 5) = some (p, x) → p.length = 8 →
    let n := ((ringCounts s tn (d.word 4)).getD (0, 0)).2.toNat
    let v := setRest s tn n none
    (restAt s tn n = none → ringTake (enterStore v (bits x 5 0) p (ringFront s tn (d.word 4))) tn (d.word 4) = some u → exec (.launchRingReturn tn) s = .next u) ∧
    (∀ r, r < 2 ^ 64 → restAt s tn n = some r → ringTake (({ v with nextId := v.nextId + 1 } : State).modRun r (fun y => { y with inStore := true, age := v.nextId })) tn (d.word 4) = some u →
      exec (.launchRingReturn tn) s = .next u)) ∧
  (∀ (n : Nat) (s : State) (r : Run), s.run? n = some r → r.ready = false → r.outcome = none →
    (∀ v, depFull s r.packet = some v → exec (.depWordPoll n) s = .next (s.modRun n (fun r => { r with ready := true, tiles := bits v 31 0 }))) ∧
    (depFull s r.packet = none → exec (.depWordPoll n) s = .next s))

/-- R152 to R154, R158, R169, R197 to R199, R64, R66: a decision places the next gang of the waiting run of a tenant at the rectangle of smallest origin, whole, or stalls while a core folds; each decision that does not place it counts, and after 4,096 of those the run blocks. That a stalled placement keeps its origin and is tried again at the partition's next decisions is the model's reading (DEDUCED, log 35). Each context of a placed gang starts at the
packet's code with its generation; a fill ends with all contexts of the gang ready together, or with the gang aborted; a gang whose contexts are done retires: its contexts are free and the run counts it. -/
def Obligations.Placement : Prop :=
  (∀ (tn : Nat) (s : State) (r : Run) (d : Machine.Part), waiting s tn = [r] → stopped s tn = false → s.part? tn = some d →
    let u := s.modDisp (fun d => { d with decisions := SMap.put d.decisions 0 tn (SMap.get s.disp.decisions tn 0 + 1) })
    let fails := fun (z : State) => z.modDisp (fun d => { d with runs := d.runs.map (fun x => if x.uid = r.uid then { x with fails := x.fails + 1 } else x) })
    let placed := fun (v : State) => v.modDisp (fun d =>
      { d with lastQueue := SMap.put d.lastQueue 63 (4 * tn + pkPrio r.packet) r.queue, placing := d.placing.filter (fun p => p.1 != tn) })
    ((s.host.tele.powerHold || s.host.tele.tempHold) = true → exec (.dispatchDecision tn) s = .next s) ∧
    ((s.host.tele.powerHold || s.host.tele.tempHold) = false → stalledPlace u tn = none →
      let w := u.modDisp (fun d => { d with placing := d.placing.filter (fun p => p.1 != tn) })
      (∀ o, findOrigin s r = some o →
        (∀ v, placeGang w r o = some v → exec (.dispatchDecision tn) s = .next (placed v)) ∧
        (placeGang w r o = none → exec (.dispatchDecision tn) s = .next (stallPlace (fails w) r o))) ∧
      (findOrigin s r = none → exec (.dispatchDecision tn) s = .next (fails w))) ∧
    ((s.host.tele.powerHold || s.host.tele.tempHold) = false → ∀ o, stalledPlace u tn = some (r, o) →
      (∀ v, placeGang u r o = some v → exec (.dispatchDecision tn) s = .next (placed v)) ∧
      (placeGang u r o = none → exec (.dispatchDecision tn) s = .next (stallPlace (fails u) r o)))) ∧
  (∀ (o : Nat) (s u : State) (r : Run), placeGang s r o = some u → ∃ g : Gang, u.disp.gangs = s.disp.gangs ++ [g] ∧ g.uid = s.nextId ∧ g.run = r.uid ∧
    g.index = r.next ∧ g.tenant = r.tenant ∧ g.origin = o ∧ g.w = pkW r.packet ∧ g.h = pkH r.packet ∧ (g.filling = true ↔ pkImage r.packet ≠ 0)) ∧
  (∀ (s u : State) (r : Run) (g c i w index col row rank uid : Nat) (pin : Pin) (gen : BitVec 16),
    u = placeCtx s c i (gangCtx s r g index col row rank pin false uid gen w) →
    let y := u.ctx c i
    y.gang = some g ∧ y.pc = pkCode r.packet ∧ y.wbase = w ∧ y.wcount = 8 * pkWc r.packet ∧ y.gen = gen ∧ y.tenant = r.tenant ∧ y.runId = r.runId ∧
    y.index = index ∧ y.col = col ∧ y.row = row ∧ y.rank = rank ∧ y.pin = pin ∧ y.sigmin = 0 ∧ y.fround = 0 ∧ y.tagbase = 0 ∧ y.level = (if r.sup then 1 else 0) ∧
    (pkImage r.packet = 0 → y.state = .ready ∧ i ∈ (u.core c).rot) ∧ (pkImage r.packet ≠ 0 → y.state = .filling)) ∧
  (∀ (n : Nat) (s : State) (r : Run), s.run? n = some r → 4096 ≤ r.fails → exec (.runBlock n) s = .next (s.modRun n (fun r => { r with blocked := true }))) ∧
  (∀ (g : Nat) (s : State) (y : Gang), s.gang? g = some y → y.filling = true → stopped s y.tenant = false →
    let u := s.modGang g (fun y => { y with filling := false })
    (∀ m l, (s.run? y.run).bind (readFill s) = some (m, l) → exec (.gangFillEnd g) s =
      .next ((s.allCtxs.filter (fun (_, _, x) => x.gang == some g && x.state == .filling)).foldl (endFill m l) u)) ∧
    ((s.run? y.run).bind (readFill s) = none → exec (.gangFillEnd g) s = .next (abortGang u g))) ∧
  (∀ (m : Img) (l : List (Nat × TVal)) (s : State) (c i : Nat) (x : Ctx), x.landing = false → (s.ctx c i).held = [] →
    ((endFill m l s (c, i, x)).ctx c i).state = .ready ∧ ((endFill m l s (c, i, x)).ctx c i).fill = l ∧ i ∈ ((endFill m l s (c, i, x)).core c).rot) ∧
  (∀ (g : Nat) (s : State) (y : Gang), s.gang? g = some y → canRetire s y = true → ∃ t, exec (.gangRetire g) s = .next t ∧ t.gang? g = none ∧
    (∀ c i, (s.ctx c i).gang = some g → (s.ctx c i).state ≠ .free → (t.ctx c i).state = .free) ∧
    (∀ r, s.run? y.run = some r → ∃ q, t.run? y.run = some q ∧ q.ended = r.ended + 1 ∧ q.aborts = (if gangAborted y then r.aborts + 1 else r.aborts)))

/-- R158, R159, R180, R179, R205, R206: a run whose gangs have all ended has outcome 1, 4 where one was aborted, or 8 where its write-back failed; its completion word is written with its outcome and the gangs that ended, and is tried again while a local word is full. A reader of a busy stream
entry is ready again once the entry can be read. Two samples in a row that find a partition asleep raise 0x14 in its supervisor context. That a reader whose entry cannot be read stays parked, and a failing read at write-back gives outcome 8, is the model's choice (DESIGN CHOICE, log 55); what stands for the handler's return where nobody took the cause is log 22 (DEDUCED). -/
def Obligations.RunEnds : Prop :=
  (∀ (n : Nat) (s : State) (r : Run), s.run? n = some r → runEnded s r = true →
    (r.aborts ≠ 0 → exec (.runComplete n) s = .next (finishRun s r 4)) ∧
    (r.aborts = 0 → pkStrm r.packet = false → exec (.runComplete n) s = .next (finishRun s r 1)) ∧
    (r.aborts = 0 → pkStrm r.packet = true → exec (.runComplete n) s = .next (finishRun (writeBack s r).1 r (if (writeBack s r).2 then 1 else 8)))) ∧
  (∀ (s s1 : State) (r : Run) (base w1 : Word) (old : List TVal) (o : Option Word), let a := streamEntry s r
    sysRead s r.tenant a = some base → sysRead s r.tenant (a + 8) = some w1 → r.snap = some old → sysStores r.tenant (backWrites r old base) s = (s1, o) →
    (∀ p, o = some p → writeBack s r = (logEvent s1 11 r.tenant 0 0 p, false)) ∧
    (∀ pl, o = none → sysPlace s1 r.tenant (a + 8) .ewrite = .ok pl → ∃ k : Commit, k.by_ = .disp ∧ (∃ f, k.rel = [(.device, f)]) ∧
      writeBack s r = (s1.commit k pl 8 (setBits w1 63 32 ((bits w1 63 32 + r.count) % 2 ^ 32)).toNat 0, true))) ∧
  (∀ (n o : Nat) (s : State) (r : Run), s.run? n = some r → r.outcome = some o → exec (.doneWordRetry n) s = .next (finishRun s r o)) ∧
  (∀ (s : State) (r : Run) (o : Nat),
    let v := w64 (r.ended % 2 ^ 32 + o * 2 ^ 32)
    let p := pkDone r.packet
    let k : Commit := { by_ := .disp, rel := [(.device, s.chan (.ended r.uid))] }
    (p = 0 → (finishRun s r o).disp.runs = s.disp.runs.filter (fun x => x.uid != r.uid) ∧ sameMemory s (finishRun s r o)) ∧
    (∀ pl, p ≠ 0 → bits p 63 56 = 0 → sysPlace s r.tenant p .ewrite = .ok pl →
      finishRun s r o = (s.commit k pl 8 v.toNat 0).modDisp (fun d => { d with runs := d.runs.filter (fun x => x.uid != r.uid) })) ∧
    (∀ c0 off g, p ≠ 0 → bits p 63 56 ≠ 0 → wordPtr p = some (c0, off) →
      let c := s.leadAt c0 off
      wordRegion s r.tenant c off = some g →
      ((s.core c).seenFull g.gen off = true → finishRun s r o = s.modRun r.uid (fun x => { x with outcome := some o, pools := [] })) ∧
      ((s.core c).seenFull g.gen off = false → finishRun s r o =
        ((s.record k (.ls c off) 8 v.toNat g.gen).modCore c (fun k => k.lsWriteFe g.gen off v.toNat true)).modDisp
        (fun d => { d with runs := d.runs.filter (fun x => x.uid != r.uid) })))) ∧
  (∀ (c i : Nat) (s : State) (r : Run), s.run? (s.ctx c i).run = some r → (s.ctx c i).parkedOn (fun w => match w with | .stream _ => true | _ => false) = true →
    exec (.streamEntryReread c i) s = .next (if (streamRead s r).isSome then s.ready c i else s)) ∧
  (∀ (tn : Nat) (s : State) (p : Machine.Part), s.part? tn = some p →
    ((stopped s tn = true ∨ partAsleep s tn = false) →
      exec (.allAsleepSample tn) s = .next (s.modDisp (fun d => { d with asleep := d.asleep.filter (fun t => t != tn) }))) ∧
    (stopped s tn = false → partAsleep s tn = true → tn ∉ s.disp.asleep →
      exec (.allAsleepSample tn) s = .next (s.modDisp (fun d => { d with asleep := d.asleep ++ [tn] }))) ∧
    (stopped s tn = false → partAsleep s tn = true → tn ∈ s.disp.asleep → tn ∉ s.disp.slept → 64 + tn ∉ s.disp.slept → ∃ n, (n = tn ∨ n = 64 + tn) ∧ exec (.allAsleepSample tn) s =
      .next (toSupervisor ((s.modDisp (fun d => { d with slept := d.slept ++ [n], asleep := d.asleep.filter (fun t => t != tn) })).bump p.supervisor.1 11) tn
        { cause := 0x14 })))

/-! ## Gang switch, lockstep, soft errors (R320, R323 to R329) -/

/-- R323 to R326: a record with an op is accepted, its op cleared, for the later of its tick and 4,096 ticks from now, or refused with a status; at its tick the partition stops; when it has drained its state is saved and its cores are
free, and word 3 and 0x15 report; a switch in restores it under new generations, where parked contexts execute their instruction again, or fails with status 2; at its tick the partition issues again. Which status a record that deserves several gets, and status 1 for a valid partition that is not in force, is the model's reading (DEDUCED, log 41); event counter 12 at a switch in is log 28 (DEDUCED). -/
def Obligations.GangSwitch : Prop :=
  (∀ s : State, exec .switchRecordPoll s = .next ((List.range 64).foldl pollSwitch s)) ∧
  (∀ (s : State) (tn : Nat) (p : Machine.Part), s.part? tn = some p →
    let w1 := readSwitch s tn 1
    let w2 := readSwitch s tn 2
    let op := bits w2 1 0
    let tick := max (readSwitch s tn 0).toNat (s.tstamp + 4096)
    let u := putSwitch s tn 2 (setBits w2 1 0 0)
    let hold := s.host.tele.powerHold || s.host.tele.tempHold
    let st := switchStatus s p w1 w2
    ((op = 0 ∨ (op = 2 ∧ hold = true)) → pollSwitch s tn = s) ∧
    (op ≠ 0 → ¬(op = 2 ∧ hold = true) → st = 0 → pollSwitch s tn = u.modDisp (fun d => { d with switches := d.switches ++
      [{ tenant := tn, part := p, out := op == 1, t := tick, area := bits w1 47 0, core := bits w2 15 2, slot := bits w2 21 16, phase := 0, ckpt := false }] })) ∧
    (op ≠ 0 → ¬(op = 2 ∧ hold = true) → st ≠ 0 → pollSwitch s tn = switchDone u tn (bits w1 47 0) op st tick (bits w2 15 2) (bits w2 21 16))) ∧
  (∀ (s : State) (tn b : Nat), s.part? tn = none → s.host.table = some b →
    let w2 := readSwitch s tn 2
    let op := bits w2 1 0
    let valid := (Memory.byte s.hbm (b + 64 * tn + 2)).getLsbD 4
    (valid = false → pollSwitch s tn = s) ∧
    (valid = true → op ≠ 0 → ¬(op = 2 ∧ (s.host.tele.powerHold || s.host.tele.tempHold) = true) → pollSwitch s tn =
      switchDone (putSwitch s tn 2 (setBits w2 1 0 0)) tn (bits (readSwitch s tn 1) 47 0) op 1 (max (readSwitch s tn 0).toNat (s.tstamp + 4096))
        (bits w2 15 2) (bits w2 21 16))) ∧
  (∀ (tn : Nat) (s : State) (w : Switch), switchOf s tn = some w → w.out = true →
    (w.phase = 0 → w.t ≤ s.tstamp → exec (.switchOutStop tn) s = .next (setSwitch s { w with phase := 1 })) ∧
    (s.tstamp < w.t → exec (.switchOutStop tn) s = .next s) ∧
    (w.phase = 1 → drainEnded s w.part = true → exec (.switchOutDrainEnd tn) s =
      .next (setSwitch ((kerbRecords s tn).foldl (spillKerb w.part) s) { w with phase := 2 })) ∧
    (w.phase = 2 → ∃ t, exec (.switchOutDone tn) s = .next t ∧ switchOf t tn = none ∧ (∃ v ∈ t.disp.saved, v.tenant = w.part.tenant ∧ v.area = w.area ∧
      ∀ c ∈ w.part.cores, SMap.get v.cores c Core.reset = s.core c) ∧ ∀ c ∈ w.part.cores, (∀ i, (t.ctx c i).state = .free) ∧ (t.core c).regions = [])) ∧
  (∀ (tn : Nat) (ok : Bool) (s : State) (w : Switch) (v : Saved), switchOf s tn = some w → s.disp.saved.find? (fun v => v.tenant == tn) = some v → w.out = false →
    w.phase = 0 → ok = (!v.ckpt && areaHolds s w.area tn v.check.toNat (areaBytes w.part / 8)) →
    (ok = false → exec (.switchInRestoreEnd tn ok) s = .next (switchDone (dropSwitch s tn) tn w.area 2 2 w.t w.core w.slot)) ∧
    (∀ u, ok = true → bringBack s v = .ok u → exec (.switchInRestoreEnd tn ok) s = .next (setSwitch (keepFlits u tn) { w with phase := 1 })) ∧
    (∀ u, ok = true → bringBack s v = .error u → exec (.switchInRestoreEnd tn ok) s = .next u)) ∧
  (∀ (m : List (BitVec 16 × BitVec 16)) (x : Ctx), (resumeCtx m x).state = x.state ∧ (resumeCtx m x).pc = x.pc ∧ (resumeCtx m x).wait = x.wait ∧
    (resumeCtx m x).gen = (newGenOf m x.gen).getD x.gen ∧ (resumeCtx m x).special.dropLast = x.special.dropLast) ∧
  (∀ (c i : Nat) (s : State) (y : Ctx), (s.ctx c i).state = .parked →
    let t := resumeOne c s (i, y)
    (t.ctx c i).state = .ready ∧ (t.ctx c i).wait = none ∧ i ∈ (t.core c).rot ∧
    (t.ctx c i).pc = (if (s.ctx c i).parkedOn (fun w => w == .never) then (s.ctx c i).pc - 4 else (s.ctx c i).pc)) ∧
  (∀ (tn : Nat) (s : State) (w : Switch), switchOf s tn = some w → w.out = false → w.phase = 1 → w.t ≤ s.tstamp → exec (.switchInResume tn) s =
    .next (switchDone (countSwitch (resumePart (dropSwitch s tn) tn) w.part) tn w.area 2 0 w.t w.core w.slot))

/-- R320, R327 to R329: a full log passes its agreement point. A correctable error counts in event counter 6 and has no other effect; an uncorrectable one on an access of a context raises 0x10 there, one in a cache discards a line alone, which is then corrected and counts so, any other ends the tenant's gangs and is reported, and on a
lockstep pair the first rolls both cores back to the last point, undoing the overwritten registers, the event counters and `lockckpt.lim`, and counts in event counter 9; the next, or one in memory, ends the pair's gangs. That a mismatch is found when it strikes, and is rolled back to the point that passed last, is the
model's reading (DEDUCED, log 42). -/
def Obligations.LockstepAndErrors : Prop :=
  (∀ (c : Nat) (s : State) (p : LockPair), (s.core c).lock = some p →
    ((s.core c).lim ≤ p.log.length → ∃ q, exec (.lockstepForcedCompare c) s = .next (s.modCore c (fun k => { k with lock := some q })) ∧ q.log = [] ∧
      q.twin = p.twin ∧ q.point = (s.core c).ctxs.filter (fun (_, x) => x.lock && x.state != .free)) ∧
    (p.log.length < (s.core c).lim → exec (.lockstepForcedCompare c) s = .next s)) ∧
  (∀ (c i tn : Nat) (rf again mem : Bool) (a : Word) (s : State), exec (.softError (.access c i rf a) true) s = .next (s.bump c 6) ∧
    exec (.softError (.cache c) true) s = .next (s.bump c 6) ∧ exec (.softError (.other c tn a) true) s = .next (s.bump c 6) ∧
    ((s.core c).lock.isSome = true → ∃ t, exec (.softError (.pair c again mem) true) s = .next t ∧ sameMemory s t ∧ (t.core c).events = ((s.core c).bump 6).events ∧
      (∀ p, (s.core c).lock = some p → ∃ q, (t.core c).lock = some q ∧ q.log = p.log ∧ q.point = p.point ∧ q.events = (({ s.core c with events := p.events } : Core).bump 6).events) ∧
      ∀ d, (t.core d).regs = (s.core d).regs ∧ (t.core d).ctxs = (s.core d).ctxs)) ∧
  (∀ (c i : Nat) (rf : Bool) (a : Word) (s : State),
    let e : Env := { core := c, slot := i, pc := (s.ctx c i).pc, tpc := (s.ctx c i).pc, replay := none, word := 0 }
    let t : TrapInfo := { cause := 0x10, addr := a, aux := if rf then 1 else 0 }
    let u := (s.draw.2).bump c 7
    ((s.ctx c i).state = .ready → bodyBusy (s.ctx c i) = false → exec (.softError (.access c i rf a) false) s = .next (rotate c i (raise e t u))) ∧
    (∀ b, bodyBusy (s.ctx c i) = true → (s.ctx c i).state = .parked → (s.ctx c i).body = some b → exec (.softError (.access c i rf a) false) s =
      .next (rotate c i (replayTrap u c i (b.base + w64 (4 * b.word)) b.replay t)))) ∧
  (∀ (c : Nat) (s : State), ∃ t, exec (.softError (.cache c) false) s = .next t ∧ sameMemory s t ∧ t.disp = s.disp ∧ t.host = s.host ∧
    (let q := serveSquare c
     ∃ j, (j < max 1 (s.core c).tlb.length ∧ (t.core c).tlb = (s.core c).tlb.eraseIdx j ∧ t.squares = s.squares) ∨
      ((t.core c).tlb = (s.core c).tlb ∧ (t.square q).ropeQ = (s.square q).ropeQ ∧
        ((j < max 1 (s.square q).tlb.length ∧ (t.square q).tlb = (s.square q).tlb.eraseIdx j ∧ (t.square q).nodes = (s.square q).nodes) ∨
         (j < max 1 (s.square q).nodes.length ∧ (t.square q).nodes = (s.square q).nodes.eraseIdx j ∧ (t.square q).tlb = (s.square q).tlb)))) ∧
    (t.core c).events = ((s.core c).bump 6).events ∧
    ∀ d, (t.core d).ctxs = (s.core d).ctxs ∧ (t.core d).regs = (s.core d).regs) ∧
  (∀ (c tn : Nat) (a : Word) (s : State), exec (.softError (.other c tn a) false) s = .next (logEvent (abortTenant (s.bump c 7) tn) 1 tn c 0 a)) ∧
  (∀ (c : Nat) (again mem : Bool) (s : State) (p : LockPair), (s.core c).lock = some p →
    ((again || mem || p.rolled) = true → exec (.softError (.pair c again mem) false) s = .next (pairFails s c)) ∧
    ((again || mem || p.rolled) = false → ∃ t, exec (.softError (.pair c again mem) false) s = .next t ∧ sameMemory s t ∧
      (∃ q, (t.core c).lock = some q ∧ q.log = [] ∧ q.rolled = true ∧ q.point = p.point) ∧ (t.core c).lim = p.lim ∧
      (∀ n, n ≠ 9 → SMap.get (t.core c).events n (0 : BitVec 32) = SMap.get p.events n 0) ∧
      SMap.get (t.core c).events 9 (0 : BitVec 32) = (let n := SMap.get p.events 9 (0 : BitVec 32); if n = 0xFFFFFFFF then n else n + 1) ∧
      (∀ n e l, p.log = (n, e) :: l → lockWindow p n = true → (t.core c).reg n = e) ∧
      (∀ n, (∀ x ∈ p.log, x.1 ≠ n) → (t.core c).reg n = (s.core c).reg n)))

/-! ## Host, links, limits (R8, R81, R194, R304, R335 to R347) -/

/-- R49, R340, R339, R338, R347: device reset gives every register, context and memory its reset value; boot goes to phase 2 where the image and the fields are good, else to phase 3 with the reason; links and trusted interfaces change state, with an event, and an interface that leaves RUN
has its gangs ended and its pages destroyed; a power or temperature limit holds placement until its release, and 105 °C ends every gang. What the dispatcher, the queues and the host's side hold after a reset is the model's choice where no rule names it (DESIGN CHOICE, logs 10, 11, 48), and so is phase 3 with why 3 for a blob of code 3 (DEDUCED, log 43). -/
def Obligations.BootLinksAndLimits : Prop :=
  (∀ s : State, ∃ t, exec .deviceReset s = .next t ∧ t.cores = [] ∧ t.squares = [] ∧ t.hbm = [] ∧ t.disp = State.reset.disp ∧ t.host.phase = 0 ∧ t.tsZero = none ∧
    t.hostMem = s.hostMem) ∧
  (∀ (a b f : Bool) (l : Blob) (s : State),
    (s.host.phase = 0 → exec (.boot a b f l) s = .next { s with tsZero := some s.cycle, host := { s.host with phase := 1 } }) ∧
    (s.host.phase = 1 →
      (a = true → b = true → f = true → l.code ≠ 3 → exec (.boot a b f l) s =
        .next (s.modHost (fun h => { h with phase := 2, why := 0, code := l.code, links := l.links, limit := l.limit, sources := l.sources }))) ∧
      (a = false → exec (.boot a b f l) s = .next (s.modHost (fun h => { h with phase := 3, why := 1, code := l.code }))) ∧
      (a = true → b = false → exec (.boot a b f l) s = .next (s.modHost (fun h => { h with phase := 3, why := 2, code := l.code }))) ∧
      (a = true → b = true → f = false ∨ l.code = 3 → exec (.boot a b f l) s =
        .next (s.modHost (fun h => { h with phase := 3, why := 3, code := l.code }))))) ∧
  (∀ (n : Nat) (s : State), n < 12 →
    exec (.linkDown n) s = .next (logEvent (s.modHost (fun h => { h with linkUp := SMap.put h.linkUp false n false })) 4 0 0 0 (w64 n)) ∧
    (s.host.links.getLsbD n = true → exec (.linkUp n) s =
      .next (logEvent (s.modHost (fun h => { h with linkUp := SMap.put h.linkUp false n true })) 5 0 0 0 (w64 n))) ∧
    (s.host.links.getLsbD n = false → exec (.linkUp n) s = .next s)) ∧
  (∀ (tn : Nat) (st : TdispState) (pages : List Nat) (s : State), tn < 64 → ∃ t, exec (.tdispStateChange tn st pages) s = .next t ∧ SMap.get t.host.tdisp tn 0 = tdispCode st ∧
    t.host.evQ = s.host.evQ ++ [{ time := s.tstamp, kind := 3, tenant := tn, core := 0, slot := 0, detail := w64 (tdispCode st) }] ∧
    (SMap.get s.host.tdisp tn 0 = 2 → st ≠ .run → (∀ g ∈ t.disp.gangs, g.tenant = tn → g.aborted = true) ∧
      ∀ p, (tn, p) ∈ s.host.bound → ∀ a, a / 65536 = p → Memory.byte t.hbm a = 0) ∧
    ((SMap.get s.host.tdisp tn 0 ≠ 2 ∨ st = .run) → t.disp = s.disp ∧ sameMemory s t)) ∧
  (∀ (mW : BitVec 32) (s : State), ∃ t, exec (.powerLimitHold mW) s = .next t ∧ t.host.tele.power = mW ∧
    (t.host.tele.powerHold = true ↔ s.host.tele.powerHold = true ∨ (s.host.phase = 2 ∧ s.host.limit.toNat < mW.toNat)) ∧ t.disp = s.disp ∧ sameMemory s t) ∧
  (∀ s : State, ∃ t, exec .powerLimitRelease s = .next t ∧
    (t.host.tele.powerHold = true ↔ s.host.tele.powerHold = true ∧ s.host.limit.toNat < s.host.tele.power.toNat) ∧ sameMemory s t) ∧
  (∀ (n : Nat) (v : BitVec 16) (s : State), n < 4 → ∀ i ∈ [Instr.temperatureHigh n v, .temperatureHalt n v, .temperatureHoldRelease n v],
    let old := (SMap.get s.host.tele.temp n 0).toNat
    ∃ t, exec i s = .next t ∧ SMap.get t.host.tele.temp n 0 = v ∧ (380 ≤ v.toNat → t.host.tele.tempHold = true) ∧
      ((∀ x ∈ t.host.tele.temp, x.2.toNat < 380) → t.host.tele.tempHold = false) ∧
      (old < 420 → 420 ≤ v.toNat → t.host.tele.haltSeen = true ∧ ∀ g ∈ t.disp.gangs, g.aborted = true) ∧
      ((420 ≤ old ∨ v.toNat < 420) → t.disp = s.disp ∧ t.host.tele.haltSeen = s.host.tele.haltSeen ∧ sameMemory s t))

/-- R194, R335 to R337, R304: the host writes HBM in words of 8 bytes and local store words through the region that holds them, filling the word at the alias; a write that no region takes is dropped and counted, and an access of fewer than 8 bytes, off the 8-byte
grid, or of nothing completes as Unsupported Request and changes nothing else. It fills the packet of an empty launch slot and then its full word, and reads through the three windows; a peer's access goes through the tenant's tables, and what those refuse changes nothing here. Whether that access counts as a user or a supervisor one is open (DESIGN CHOICE, log 6), and HostSide.ur is how the model shows an Unsupported Request (DEDUCED, log 43). -/
def Obligations.HostAccesses : Prop :=
  (∀ (c off req : Nat) (v : Word) (s : State), coreUsed c = true → off < lsSize c → off % 8 = 0 →
    let h : HostAcc := { off := off, req := req }
    let d := s.leadAt c off
    let u := s.modHost (fun h => { h with ur := false })
    (hostRegion s c off = none → exec (.hostLocalWrite c h v) s = .next (u.bump (s.lead c) 8) ∧ exec (.hostFillAliasWrite c h v) s = .next (u.bump (s.lead c) 8)) ∧
    (∀ r, hostRegion s c off = some r →
      exec (.hostLocalWrite c h v) s = .next ((u.record { by_ := .port req } (.ls d off) 8 v.toNat r.gen).modCore d (fun k => k.lsWrite r.gen off 8 v.toNat)) ∧
      exec (.hostFillAliasWrite c h v) s = .next ((u.record { by_ := .port req, rel := [(.system, ({} : Front).mark (.port req) s.ord.commits)] } (.ls d off) 8
        v.toNat r.gen).modCore d (fun k => k.lsWriteFe r.gen off v.toNat true)))) ∧
  (∀ (c bar q i : Nat) (h : HostAcc) (v : Word) (s : State),
    let r := s.modHost (fun h => { h with ur := true })
    (h.size < 8 ∨ h.off % 8 ≠ 0 ∨ coreUsed c = false ∨ lsSize c ≤ h.off → exec (.hostLocalWrite c h v) s = .next r ∧ exec (.hostFillAliasWrite c h v) s = .next r) ∧
    (h.size < 8 ∨ h.off % 8 ≠ 0 ∨ hbmTop ≤ h.off → exec (.hostHbmWrite h v) s = .next r) ∧
    (h.size < 8 ∨ h.off % 8 ≠ 0 ∨ 65536 ≤ h.off → exec (.registerWrite h v) s = .next r) ∧
    (h.size < 8 ∨ h.off % 8 ≠ 0 ∨ barRead s bar h.off = none → exec (.hostRead bar h) s = .next r) ∧
    (h.size < 8 ∨ h.off % 8 ≠ 0 → q < 64 → i < 16 → h.off < 128 → exec (.launchSlotWrite q i h v) s = .next r)) ∧
  (∀ (a req : Nat) (v : Word) (s : State), a % 8 = 0 → a < hbmTop →
    let t := (s.modHost (fun h => { h with ur := false })).commit { by_ := .port req } (.hbm a) 8 v.toNat 0
    exec (.hostHbmWrite { off := a, req := req } v) s = .next t ∧ ∀ q, outsideStore s 0 (.hbm a) 8 q → t.readAt q 1 0 = s.readAt q 1 0) ∧
  (∀ (q i off req : Nat) (v : Word) (s : State) (p : List Word), q < 64 → i < 16 → off < 128 → off % 8 = 0 →
    let h : HostAcc := { off := off, req := req }
    let u := s.modHost (fun h => { h with ur := false })
    (off < 64 → s.launchSlot q i = (p, false) → ∃ t, exec (.launchSlotWrite q i h v) s = .next t ∧ (t.launchSlot q i).2 = false ∧
      ∀ j, j < 8 → (t.launchSlot q i).1.getD j 0 = if 8 * j = off then v else p.getD j 0) ∧
    (s.launchSlot q i = (p, true) ∨ 64 < off → exec (.launchSlotWrite q i h v) s = .next u) ∧
    (off = 64 → exec (.launchSlotWrite q i h v) s = exec (.launchSlotFull q { off := i, req := req }) s) ∧
    (∃ t, exec (.launchSlotFull q { off := i, req := req }) s = .next t ∧ (t.launchSlot q i).2 = true ∧
      ∀ j, j < 8 → (t.launchSlot q i).1.getD j 0 = (s.launchSlot q i).1.getD j 0)) ∧
  (∀ (a req : Nat) (s : State), a % 8 = 0 →
    let h : HostAcc := { off := a, req := req }
    (a < hbmTop → ∃ t, exec (.hostRead 4 h) s = .next t ∧ t.host.lastRead = w64 (s.weakRead {} 0 anyWr (.hbm a) 8).1 ∧ sameMemory s t) ∧
    (a < 131072 → ∃ t, exec (.hostRead 2 h) s = .next t ∧ t.disp = s.disp ∧ (a % 128 < 64 → t.host.lastRead = (s.launchSlot (a / 2048) (a / 128 % 16)).1.getD (a % 128 / 8) 0)) ∧
    (a = 0 → ∃ t, exec (.hostRead 0 h) s = .next t ∧ t.host.lastRead = w64 (s.host.phase.toNat + s.host.why.toNat * 8 + s.host.code.toNat * 64))) ∧
  (∀ (l tn : Nat) (acc : PeerAccess) (s : State), l < 12 → tn < 64 → SMap.get s.host.linkUp l false = true →
    let sup := Config.freeChoice s.free
    (∀ a n v, acc = .write a n v → exec (.peerAccessArrival l tn acc) s = .next (match peerPlace s.draw.2 tn a n .ewrite sup with
      | some pl => s.draw.2.commit { by_ := .link } pl n v.toNat 0 | none => s.draw.2)) ∧
    (∀ a n, acc = .read a n → ∃ t, exec (.peerAccessArrival l tn acc) s = .next t ∧ sameMemory s t ∧
      ∀ pl, peerPlace s.draw.2 tn a n .eread sup = some pl → t.host.peerReply = w64 (s.draw.2.weakRead {} 0 anyWr pl n).1) ∧
    (∀ c i tree step cls value index count, acc = .sample c i tree step cls value index count → ∃ t m, exec (.peerAccessArrival l tn acc) s = .next t ∧
      t.smps = s.smps ++ [m] ∧ m.core = c ∧ m.slot = i ∧ m.tenant = tn ∧ m.count = count ∧ m.inj = { cls := cls, value := value, index := index }))

/-- R341 to R346, R81: the host writes the mailbox's command, arguments and start; a command that is pending takes effect once, with a status and results, and then ends. Commands from 4 on need phase 2. The first two set the descriptor table and the event ring, 3 starts a supervisor gang, 4 and 5 open and close
a debug session, 6 and 7 read and write through one, 8 to 10 checkpoint, restore and resume. R346: an image has its header, its digest, its key and signature, and HBM in their places, and passes the check of a restore. Which image a restore over a link finds, and what the third section holds, is the model's choice (DESIGN CHOICE, log 29); so is that
command 3 waits for a fold, a limit or its `dep` word (DESIGN CHOICE, log 11; DEDUCED, log 35), and which status a command that deserves several gets is log 43 (DEDUCED). -/
def Obligations.MailboxCommands : Prop :=
  (∀ (v : Word) (s : State),
    let at_ := fun (off : Nat) => ({ off := off } : HostAcc)
    let u := s.modHost (fun h => { h with ur := false })
    (s.host.mbox.busy = true → ∀ off, off % 8 = 0 → off < 65536 → exec (.registerWrite (at_ off) v) s = .next u) ∧
    (s.host.mbox.busy = false →
      exec (.registerWrite (at_ 0x1000) v) s = .next (u.modHost (fun h => { h with mbox := { h.mbox with cmd := v &&& 0xFF } })) ∧
      exec (.registerWrite (at_ 0x1040) 1) s = .next (({ u with nextId := s.nextId + 1 } : State).modHost (fun h =>
        { h with mbox := { h.mbox with busy := true, cur := some h.mbox.cmd.toNat, result := none, run := s.nextId, sup := none } })) ∧
      ∀ j, j < 4 → ∃ t, exec (.registerWrite (at_ (0x1008 + 8 * j)) v) s = .next t ∧ t.host.mbox.args.getD j 0 = v ∧
        ∀ k, k < 4 → k ≠ j → t.host.mbox.args.getD k 0 = s.host.mbox.args.getD k 0)) ∧
  (∀ (s : State) (n st : Nat) (r0 r1 : Word), s.host.mbox.cur = some n → s.host.mbox.result = some (st, r0, r1) → ∃ t, exec .mailboxCommandEnd s = .next t ∧
    t.host.mbox.busy = false ∧ t.host.mbox.status = st ∧ t.host.mbox.res0 = r0 ∧ t.host.mbox.res1 = r1 ∧ t.host.mbox.count = (s.host.mbox.count + 1) % 2 ^ 48 ∧
    t.host.mbox.cur = none ∧ t.disp = s.disp) ∧
  (∀ row ∈ ([(Instr.openDebugSession, 4), (Instr.closeDebugSession, 5), (Instr.debugRead, 6), (Instr.debugWrite, 7), (Instr.checkpoint, 8), (Instr.restore true, 9),
      (Instr.resume, 10)] : List (Instr × Nat)), ∀ s : State, cmdPending s row.2 = true → s.host.phase ≠ 2 → exec row.1 s = .next (cmdFail s 3)) ∧
  (∀ (s : State), cmdPending s 1 = true →
    let a := (s.host.mbox.arg 0).toNat
    (a % 65536 = 0 → a + 65536 ≤ hbmTop → s.disp.parts = [] → exec .setDescriptorTable s = .next (cmdFail (s.modHost (fun h => { h with table := some a })) 0)) ∧
    ((a % 65536 ≠ 0 ∨ hbmTop < a + 65536) → exec .setDescriptorTable s = .next (cmdFail s 2))) ∧
  (∀ (s : State), cmdPending s 2 = true →
    let a := (s.host.mbox.arg 0).toNat
    let n := (s.host.mbox.arg 1).toNat
    (a % 4096 = 0 → 64 ≤ n → n ≤ 2 ^ 20 → 2 ^ Nat.log2 n = n → s.host.table.isSome = true →
      exec .setEventRing s = .next (cmdFail (s.modHost (fun h => { h with ring := some (a, n, h.evSeq) })) 0)) ∧
    ((a % 4096 ≠ 0 ∨ n < 64 ∨ 2 ^ 20 < n) → exec .setEventRing s = .next (cmdFail s 2))) ∧
  (∀ (s : State) (tb : Nat) (hd : Word), cmdPending s 3 = true → s.host.table = some tb → s.host.mbox.sup = none →
    let a := (s.host.mbox.arg 0).toNat
    let origin := bits (s.host.mbox.arg 1) 13 0
    let p := Memory.readWords s.hbm a 8
    let cores := (gangCores origin p).map (fun (c, _, _) => c)
    let id := SMap.get s.disp.nextRun (pkTenant p) 0
    let uid := s.host.mbox.run
    let r : Run := { mkRun uid 0 0 uid p hd with sup := true, inStore := false }
    let w := s.modHost (fun h => { h with mbox := { h.mbox with sup := some r } })
    let v := w.modDisp (fun d => { d with nextRun := SMap.put d.nextRun 0 (pkTenant p) ((id + 1) % 2 ^ 24), runs := d.runs ++ [{ r with runId := id }] })
    a % 64 = 0 → a + 64 ≤ hbmTop → supPacketOk s p origin = some hd → (∀ c ∈ cores, ∀ d ∈ s.disp.parts, d.has c = true → d.tenant = pkTenant p) →
    (∀ c ∈ cores, (∀ x ∈ (s.core c).ctxs, x.2.state = .free) ∧ coreFits s p c = true) → (pkDep p ≠ 0 ∨ s.host.tele.powerHold = true ∨ s.host.tele.tempHold = true → exec .startSupervisorGang s = .next w) ∧
    (s.host.tele.powerHold = false → s.host.tele.tempHold = false → pkDep p = 0 →
      (∀ u, placeGang v { r with runId := id } origin = some u → exec .startSupervisorGang s = .next (cmdDone u 0 (w64 id) s.host.mbox.res1)) ∧
      (placeGang v { r with runId := id } origin = none → exec .startSupervisorGang s = .next (cores.foldl (stallFor (pkGens p) (.place uid)) w)))) ∧
  (∀ (s : State), s.host.phase = 2 →
    (∀ n, cmdPending s 4 = true → n < 8 → sessionOf s n = none → (∀ m, m < n → sessionOf s m ≠ none) → exec .openDebugSession s =
      .next (cmdDone (s.modHost (fun h => { h with sessions := SMap.put h.sessions (0, false) n (bits (h.mbox.arg 0) 5 0, true) })) 0 (w64 n) s.host.mbox.res1)) ∧
    (cmdPending s 5 = true → ∀ tn, sessionOf s (bits (s.host.mbox.arg 0) 2 0) = some tn → ∃ t, exec .closeDebugSession s = .next t ∧
      sessionOf t (bits (s.host.mbox.arg 0) 2 0) = none ∧ t.disp = s.disp ∧ sameMemory s t) ∧
    (∀ tn, sessionOf s (dbgArg s).session = some tn → dbgOk s (dbgArg s) = true →
      (cmdPending s 6 = true → exec .debugRead s = .next (cmdDone s 0 (dbgRead s tn (dbgArg s)).1 (dbgRead s tn (dbgArg s)).2)) ∧
      (cmdPending s 7 = true → (dbgArg s).kind ≠ 3 → exec .debugWrite s =
        .next (cmdFail (dbgWrite s tn (dbgArg s) (s.host.mbox.arg 2) (s.host.mbox.arg 3)) 0)))) ∧
  (∀ (s : State) (tn : Nat) (d : DbgArg) (v tags : Word), d.kind = 0 →
    let n := (s.ctx d.core d.slot).wbase + d.index
    let e := (s.core d.core).reg n
    (genOwner (s.core d.core) e.gen ≠ some tn → dbgWrite s tn d v tags = s ∧ dbgRead s tn d = (0, 0)) ∧
    (genOwner (s.core d.core) e.gen = some tn → (dbgRead s tn d).1 = e.val ∧ (d.index = 0 → dbgWrite s tn d v tags = s) ∧
      (d.index ≠ 0 → ((dbgWrite s tn d v tags).core d.core).reg n = { val := v, cnt := tags.setWidth 7, inx := tags.getLsbD 7, gen := e.gen }))) ∧
  (∀ (s : State) (path : Option Nat × Word), s.host.phase = 2 → tierPath s = some path →
    (cmdPending s 8 = true → s.host.ckpt = none → (∀ w ∈ s.disp.switches, w.out = true) → exec .checkpoint s = .next (ckptBegin s)) ∧
    (∀ c, cmdPending s 8 = true → s.host.ckpt = some c → c.headerDone = false → s.disp.switches = [] → ∃ t, exec .checkpoint s = .next t ∧
      (∃ im, t.host.images = im :: s.host.images ∧ im.base = path.2 ∧ im.peer = path.1 ∧ im.t = c.t ∧ im.hbm = s.hbm ∧ im.cores = s.cores ∧ im.squares = s.squares ∧ im.disp = s.disp ∧
        (path.1 = none → ∀ n, n < im.length → Memory.byte t.hostMem (im.base.toNat + n) = im.byte n)) ∧ (path.1.isSome = true → sameMemory s t) ∧
      t.hbm = s.hbm ∧ t.host.mbox.result.map (fun x => x.1) = some 0) ∧
    (∀ ok : Bool, cmdPending s 9 = true → (∀ p ∈ s.disp.parts, isOut s p.tenant = true ∨ neverStarted s p.tenant = true) → s.disp.switches = [] →
      let found := imageAt s.draw.2 s.draw.1 ok path
      (∀ im, found = some im → ∃ t, exec (.restore ok) s = .next t ∧ t.cores = im.cores ∧ t.squares = im.squares ∧ t.disp = im.disp ∧
        (∀ a, Memory.byte t.hbm a = if s.host.dead.contains (a / 65536) then 0 else Memory.byte im.hbm a) ∧ t.host.mbox.result.map (fun x => x.1) = some 0) ∧
      (found = none → exec (.restore ok) s = .next (cmdFail (logEvent s.draw.2 10 0 0 0 0) 2)) ∧
      (path.1 = none →
        let f := fun (a : Nat) => Memory.byte s.hostMem (path.2.toNat + a)
        found = if imageGood s f = true then some ((s.host.images.find? (fun m => m.holds f m.length)).getD (foreignImage f)) else none))) ∧
  (∀ (im : Image) (s : State), (∀ n, n < hbmTop → im.byte (65536 + n) = Memory.byte im.hbm n) ∧
    imageWord im.byte 0 = 1 + 64 * 2 ^ 16 + im.code.toNat * 2 ^ 32 ∧ imageWord im.byte 8 = im.length % 2 ^ 64 ∧ imageWord im.byte 16 = im.t % 2 ^ 64 ∧
    (∀ j, j < 32 → im.byte (32 + j) = Config.sha3 (bytesOf im.byte 65536 (im.length - 65536)) j) ∧ (∀ j, j < 1312 → im.byte (64 + j) = Config.identityKey j) ∧
    (∀ j, j < 2420 → im.byte (1376 + j) = Config.signature (bytesOf im.byte 0 1376) j) ∧ (im.length < 2 ^ 64 → imageGood s im.byte = true)) ∧
  (∀ (s : State) (c : Ckpt), s.host.phase = 2 → cmdPending s 10 = true → s.host.ckpt = some c →
    (c.headerDone = true → c.stayOut = true → c.resumeAt = none →
      exec .resume s = .next (cmdFail (s.modHost (fun h => { h with ckpt := some { c with resumeAt := some s.tstamp } })) 0)) ∧
    (c.stayOut = false → exec .resume s = .next (cmdFail s 3))) ∧
  (∀ (s u : State) (c : Ckpt) (t : Nat), s.host.ckpt = some c → c.resumeAt = some t → c.headerDone = true →
    (t ≤ s.tstamp → resumeAll c.tenants s = some u → exec .checkpointResume s = .next (u.modHost (fun h => { h with ckpt := none }))) ∧
    (t ≤ s.tstamp → resumeAll c.tenants s = none → exec .checkpointResume s = .next (foldSaved c.tenants s)) ∧
    (s.tstamp < t → exec .checkpointResume s = .next s))

/-! ## Every instruction, every step -/

/-- R82 to R106: the worked encodings of the spec decode to what they stand for; a word with a reserved func or a reserved value decodes to nothing, for the reason that R105 names. -/
def Obligations.WordsDecode : Prop :=
  (∀ row ∈ ([(0x54202C01, .ld 4 2 .d .plain 1), (0x54303800, .ld 6 3 .i32 .plain 0), (0x04306082, .mul 6 6 4), (0x04286E00, .add 5 6 112),
      (0x58282C02, .st 5 2 .d .plain 2), (0xA1F07FFF, .wait 31 0 31 31 31), (0x9C001002, .pass 1), (0x9C000000, .exit), (0x20480012, .lui 9 0x12),
      (0x08489345, .addi 9 9 0x345), (0x30180FFD, .bne 3 0 (-3)), (0xAC000000, .one), (0x9C480003, .take 9)] : List (IWord × Instr)), decode row.1 = .ok row.2) ∧
  decode 0x04286E1D = .error .selector ∧ decode 0x9C000002 = .error .reservedValue

/-- R82 to R99: every word that an instruction of the machine is written with decodes to that instruction. -/
def Obligations.EncodeThenDecode : Prop := ∀ (i : Instr) (w : IWord), i.wf = true → encode i = some w → decode w = .ok i

/-- R82 to R99: a word that decodes has one meaning, which is well formed and is written with that word; no bit of a word is left out. -/
def Obligations.DecodeThenEncode : Prop := ∀ (w : IWord) (i : Instr), decode w = .ok i → i.wf = true ∧ encode i = some w

/-- R11: no instruction and no event stops the machine: each has a next state from every state. -/
def Obligations.NoInstructionStops : Prop := ∀ (i : Instr) (s : State), i.wf = true → goesOn (exec i s) = true

/-- The memories and maps of the machine, those of its cores, of partitions that are switched out and of checkpoint images among them, keep the canonical form in every step from every state, and no recorded write comes to have, or to be ordered after, a commit count that has not been given out. That form and the write sets are how
the model represents its state (its own choice, of which no rule of the spec speaks); the statements that assume them rest on this one. -/
def Obligations.CanonicalKept : Prop :=
  (∀ s t : State, s.canonical = true → step s = .next t → t.canonical = true) ∧ (∀ s t : State, s.ordered = true → step s = .next t → t.ordered = true)

/-- R49, R4: at reset every register file entry is value 0, count 127, I 0, generation 0, every accumulator +0 with count 24 and every weight bank byte 0. That every granule has stamp 0 and reads 0 and every word is empty is the model's choice (DESIGN CHOICE, log 2), and so is that every slot is free and a core has 64 of them (log 3). -/
def Obligations.ResetState : Prop :=
  State.reset.canonical = true ∧ State.reset.ordered = true ∧ ∀ c, (∀ n, (State.reset.core c).reg n = { val := 0, cnt := 127, inx := false, gen := 0 }) ∧
    (∀ a, Memory.byte (State.reset.core c).ls a = 0 ∧ (State.reset.core c).stamp a = 0 ∧ (State.reset.core c).full a = false) ∧
    (isArray c = true → (∀ n, accGet (State.reset.core c) n = (0, 24)) ∧ ∀ a, Memory.byte (State.reset.core c).banks a = 0) ∧
    (State.reset.core c).slots = 64 ∧ ∀ i, (State.reset.ctx c i).state = .free

/-- R105, R182, R357: where the turn is the issue slot of core c, the context that issues fetches the word at its PC, and the step is the effect of the instruction that the word decodes to, followed by what follows every move (DESIGN CHOICE, log 1). A word that does not decode is refused at issue. -/
def Obligations.StepRunsDecoded : Prop :=
  ∀ (s s2 : State) (c n : Nat) (w : IWord), s.turn = some (.issue c) →
    let u : State := { s with turn := none }
    let v : State := { u with cur := (c, n) }
    issuer u c = some n → fetchWord v.who.pc (envOf v 0) v = .ok (w, s2) →
    (∀ i, decode w = .ok i → step s = after (settle u (some (.issue c)) true) (exec i s2)) ∧
    (∀ r, decode w = .error r → step s = after (settle u (some (.issue c)) true) (exec (.issueRefusalHolder w) s2))

end
end

