-- ==== Sys2Proof/Laws/SMap.lean ====
section
/-! SUPPORT. Sparse maps and memory: read after write, and the canonical form. -/

namespace Sys2Proof.Machine

variable {α : Type}

@[simp] theorem SMap.get_nil (k : Nat) (d : α) : SMap.get [] k d = d := rfl

theorem SMap.get_cons (e : Nat × α) (m : SMap α) (k : Nat) (d : α) : SMap.get (e :: m) k d = if e.1 = k then e.2 else SMap.get m k d := rfl

theorem SMap.erase_cons (e : Nat × α) (m : SMap α) (k : Nat) : SMap.erase (e :: m) k = if e.1 = k then SMap.erase m k else e :: SMap.erase m k := by
  simp only [SMap.erase, List.filter_cons, bne_iff_ne, ne_eq, ite_not]

theorem SMap.insert_cons (e : Nat × α) (m : SMap α) (k : Nat) (v : α) :
    SMap.insert (e :: m) k v = if k < e.1 then (k, v) :: e :: m else e :: SMap.insert m k v := rfl

/-- An erased index reads as the default, every other one as before. -/
theorem SMap.get_erase : ∀ (m : SMap α) (k n : Nat) (d : α), SMap.get (SMap.erase m k) n d = if n = k then d else SMap.get m n d
  | [], k, n, d => by rw [SMap.erase, List.filter_nil, SMap.get_nil, ite_self]
  | e :: m, k, n, d => by
    have ih := SMap.get_erase m k n d
    rw [SMap.erase_cons, SMap.get_cons]
    split <;> [rw [ih]; rw [SMap.get_cons, ih]] <;> grind

/-- Where k is not listed, an entry for it reads as its value, and every other index as before. -/
theorem SMap.get_insert : ∀ (m : SMap α) (k n : Nat) (v d : α), (∀ e ∈ m, e.1 ≠ k) →
    SMap.get (SMap.insert m k v) n d = if n = k then v else SMap.get m n d
  | [], k, n, v, d, _ => if_congr eq_comm rfl rfl
  | e :: m, k, n, v, d, h => by
    have he : e.1 ≠ k := h e (List.mem_cons_self ..)
    have ih := SMap.get_insert m k n v d fun x hx => h x (List.mem_cons_of_mem _ hx)
    rw [SMap.insert_cons]
    split <;> simp only [SMap.get_cons, ih] <;> grind

theorem SMap.erase_lacks (m : SMap α) (k : Nat) : ∀ e ∈ SMap.erase m k, e.1 ≠ k := by simp [SMap.erase]

/-- A write at k reads as its value at k, and changes no other index. -/
theorem SMap.get_put [DecidableEq α] (m : SMap α) (d : α) (k n : Nat) (v : α) :
    SMap.get (SMap.put m d k v) n d = if n = k then v else SMap.get m n d := by
  unfold SMap.put
  split
  · next h => rw [SMap.get_erase, h]
  · rw [SMap.get_insert _ k n v d (SMap.erase_lacks m k), SMap.get_erase]; grind

@[simp] theorem SMap.get_put_same [DecidableEq α] (m : SMap α) (d : α) (k : Nat) (v : α) : SMap.get (SMap.put m d k v) k d = v :=
  (SMap.get_put m d k k v).trans (if_pos rfl)

theorem SMap.get_put_ne [DecidableEq α] (m : SMap α) (d : α) {k n : Nat} (v : α) (h : k ≠ n) :
    SMap.get (SMap.put m d k v) n d = SMap.get m n d :=
  (SMap.get_put m d k n v).trans (if_neg h.symm)

/-! ## The canonical form -/

/-- Every index of m lies above k. -/
def SMap.above (k : Nat) (m : SMap α) : Prop := ∀ e ∈ m, k < e.1

/-- The canonical form, entry by entry. -/
theorem SMap.wf_cons [DecidableEq α] (d : α) : ∀ (m : SMap α) (e : Nat × α),
    SMap.wf (e :: m) d = true ↔ e.2 ≠ d ∧ SMap.above e.1 m ∧ SMap.wf m d = true
  | [], e => by simp [SMap.wf, SMap.above]
  | f :: m, e => by
    have hf := SMap.wf_cons d m f
    have step : SMap.wf (e :: f :: m) d = true ↔ (e.2 ≠ d ∧ e.1 < f.1) ∧ SMap.wf (f :: m) d = true := by
      simp only [SMap.wf, Bool.and_eq_true, decide_eq_true_eq]
    rw [step, hf]
    constructor
    · rintro ⟨⟨he, hl⟩, h⟩
      exact ⟨he, List.forall_mem_cons.mpr ⟨hl, fun x hx => hl.trans (h.2.1 x hx)⟩, h⟩
    · rintro ⟨he, ha, h⟩
      exact ⟨⟨he, (List.forall_mem_cons.mp ha).1⟩, h⟩

/-- Leaving entries out keeps the canonical form. -/
theorem SMap.filter_wf [DecidableEq α] (d : α) (p : Nat × α → Bool) : ∀ m : SMap α, SMap.wf m d = true → SMap.wf (m.filter p) d = true
  | [], _ => rfl
  | e :: m, h => by
    obtain ⟨he, ha, hm⟩ := (SMap.wf_cons d m e).mp h
    have ih := SMap.filter_wf d p m hm
    rw [List.filter_cons]
    split
    · exact (SMap.wf_cons d _ e).mpr ⟨he, fun x hx => ha x (List.mem_of_mem_filter hx), ih⟩
    · exact ih

/-- So does a new entry. -/
theorem SMap.insert_wf [DecidableEq α] (d : α) (k : Nat) (v : α) (hv : v ≠ d) : ∀ m : SMap α, (∀ e ∈ m, e.1 ≠ k) → SMap.wf m d = true →
    SMap.wf (SMap.insert m k v) d = true ∧ ∀ n, n < k → SMap.above n m → SMap.above n (SMap.insert m k v)
  | [], _, _ => ⟨by simpa [SMap.insert, SMap.wf] using hv, fun n hn _ => by simpa [SMap.insert, SMap.above] using hn⟩
  | e :: m, hl, h => by
    obtain ⟨he, ha, hm⟩ := (SMap.wf_cons d m e).mp h
    obtain ⟨hne, hl⟩ := List.forall_mem_cons.mp hl
    obtain ⟨i1, i2⟩ := SMap.insert_wf d k v hv m hl hm
    rw [SMap.insert_cons]
    split
    · next hk =>
      exact ⟨(SMap.wf_cons d _ (k, v)).mpr ⟨hv, List.forall_mem_cons.mpr ⟨hk, fun x hx => hk.trans (ha x hx)⟩, h⟩,
        fun n hn hb => List.forall_mem_cons.mpr ⟨hn, hb⟩⟩
    · exact ⟨(SMap.wf_cons d _ e).mpr ⟨he, i2 e.1 (by omega) ha, i1⟩,
        fun n hn hb => List.forall_mem_cons.mpr ⟨(List.forall_mem_cons.mp hb).1, i2 n hn (List.forall_mem_cons.mp hb).2⟩⟩

/-- Every write keeps the canonical form. -/
theorem SMap.put_wf [DecidableEq α] (m : SMap α) (d : α) (k : Nat) (v : α) (h : SMap.wf m d = true) : SMap.wf (SMap.put m d k v) d = true := by
  have he : SMap.wf (SMap.erase m k) d = true := SMap.filter_wf d _ m h
  unfold SMap.put
  split
  · exact he
  · next hv => exact (SMap.insert_wf d k v hv _ (SMap.erase_lacks m k) he).1

/-! ## Memory -/

/-- What holds of every entry and of the default holds of what any index holds. -/
theorem SMap.get_all (m : SMap α) (d : α) (k : Nat) (p : α → Bool) (hd : p d = true) (h : m.all (fun e => p e.2) = true) :
    p (SMap.get m k d) = true := by
  induction m with
  | nil => exact hd
  | cons e t ih =>
    simp only [List.all_cons, Bool.and_eq_true] at h
    rw [SMap.get_cons]
    split
    · exact h.1
    · exact ih h.2

theorem SMap.insert_all (m : SMap α) (k : Nat) (v : α) (p : α → Bool) (hv : p v = true) (h : m.all (fun e => p e.2) = true) :
    (SMap.insert m k v).all (fun e => p e.2) = true := by
  induction m with
  | nil => simpa [SMap.insert] using hv
  | cons e t ih =>
    simp only [List.all_cons, Bool.and_eq_true] at h
    rw [SMap.insert_cons]
    split
    · simp [hv, h.1, h.2]
    · simp [h.1, ih h.2]

/-- What holds of every entry and of the new one still holds of every entry. -/
theorem SMap.put_all [DecidableEq α] (m : SMap α) (d : α) (k : Nat) (v : α) (p : α → Bool) (hv : p v = true) (h : m.all (fun e => p e.2) = true) :
    (SMap.put m d k v).all (fun e => p e.2) = true := by
  have he : (SMap.erase m k).all (fun e => p e.2) = true := by
    simp only [List.all_eq_true] at h ⊢
    exact fun e hm => h e (List.mem_of_mem_filter hm)
  simp only [SMap.put]
  split
  · exact he
  · exact SMap.insert_all _ _ _ _ hv he

@[simp] theorem Memory.byte_put_same (m : Memory) (a : Nat) (b : Byte) : Memory.byte (Memory.put m a b) a = b :=
  SMap.get_put_same m 0 a b

theorem Memory.byte_put_ne (m : Memory) {a n : Nat} (b : Byte) (h : a ≠ n) : Memory.byte (Memory.put m a b) n = Memory.byte m n :=
  SMap.get_put_ne m 0 b h

theorem Memory.put_wf (m : Memory) (a : Nat) (b : Byte) (h : Memory.wf m = true) : Memory.wf (Memory.put m a b) = true :=
  SMap.put_wf m 0 a b h

theorem Memory.write_wf (n : Nat) (m : Memory) (a v : Nat) (h : Memory.wf m = true) : Memory.wf (Memory.write m a v n) = true := by
  induction n generalizing m a v with
  | zero => exact h
  | succ n ih => exact ih _ _ _ (Memory.put_wf m a _ h)

/-- A write of n bytes leaves every byte outside them alone. -/
theorem Memory.byte_write_outside (n : Nat) (m : Memory) (a v i : Nat) (h : i < a ∨ a + n ≤ i) :
    Memory.byte (Memory.write m a v n) i = Memory.byte m i := by
  induction n generalizing m a v with
  | zero => rfl
  | succ n ih =>
    rw [Memory.write, ih _ _ _ (by omega), Memory.byte_put_ne _ _ (by omega)]

/-- Byte j of a write of n bytes: little-endian (R4). -/
theorem Memory.byte_write_inside (n : Nat) (m : Memory) (a v j : Nat) (h : j < n) :
    Memory.byte (Memory.write m a v n) (a + j) = BitVec.ofNat 8 (v / 256 ^ j) := by
  induction n generalizing m a v j with
  | zero => omega
  | succ n ih =>
    rw [Memory.write]
    cases j with
    | zero => rw [Memory.byte_write_outside _ _ _ _ _ (by omega)]; simp
    | succ j =>
      have := ih (Memory.put m a (BitVec.ofNat 8 v)) (a + 1) (v / 256) j (by omega)
      rw [show a + (j + 1) = a + 1 + j by omega, this, Nat.div_div_eq_div_mul, Nat.pow_succ, Nat.mul_comm]

/-- Reads of equal bytes are equal. -/
theorem Memory.read_congr (n : Nat) (m m' : Memory) (a : Nat) (h : ∀ i, a ≤ i → i < a + n → Memory.byte m i = Memory.byte m' i) :
    Memory.read m a n = Memory.read m' a n := by
  induction n generalizing a with
  | zero => rfl
  | succ n ih => rw [Memory.read, Memory.read, h a (by omega) (by omega), ih (a + 1) (fun i h1 h2 => h i (by omega) (by omega))]

/-- Read after write of the same n bytes. -/
theorem Memory.read_write (n : Nat) (m : Memory) (a v : Nat) : Memory.read (Memory.write m a v n) a n = v % 256 ^ n := by
  induction n generalizing m a v with
  | zero => simp [Memory.read, Nat.mod_one]
  | succ n ih =>
    rw [Memory.read, Memory.write, Memory.byte_write_outside _ _ _ _ _ (by omega), ih, Memory.byte_put_same]
    have h := Nat.mod_mul (a := 256) (b := 256 ^ n) (x := v)
    rw [BitVec.toNat_ofNat, Nat.pow_succ' (n := n) (m := 256), h]

end Sys2Proof.Machine
end

