-- ==== Sys2Proof/Laws/State.lean ====
section
/-! SUPPORT. What each update of the state leaves alone, field by field, and reads after the update of a part. -/

namespace Sys2Proof.Machine

/-! ## State -/

@[simp] theorem State.setCore_cycle (s : State) (c : Nat) (k : Core) : (s.setCore c k).cycle = s.cycle := rfl
@[simp] theorem State.setCore_tsZero (s : State) (c : Nat) (k : Core) : (s.setCore c k).tsZero = s.tsZero := rfl
@[simp] theorem State.setCore_squares (s : State) (c : Nat) (k : Core) : (s.setCore c k).squares = s.squares := rfl
@[simp] theorem State.setCore_hbm (s : State) (c : Nat) (k : Core) : (s.setCore c k).hbm = s.hbm := rfl
@[simp] theorem State.setCore_hostMem (s : State) (c : Nat) (k : Core) : (s.setCore c k).hostMem = s.hostMem := rfl
@[simp] theorem State.setCore_disp (s : State) (c : Nat) (k : Core) : (s.setCore c k).disp = s.disp := rfl
@[simp] theorem State.setCore_host (s : State) (c : Nat) (k : Core) : (s.setCore c k).host = s.host := rfl
@[simp] theorem State.setCore_walks (s : State) (c : Nat) (k : Core) : (s.setCore c k).walks = s.walks := rfl
@[simp] theorem State.setCore_missWait (s : State) (c : Nat) (k : Core) : (s.setCore c k).missWait = s.missWait := rfl
@[simp] theorem State.setCore_tlbiOps (s : State) (c : Nat) (k : Core) : (s.setCore c k).tlbiOps = s.tlbiOps := rfl
@[simp] theorem State.setCore_ships (s : State) (c : Nat) (k : Core) : (s.setCore c k).ships = s.ships := rfl
@[simp] theorem State.setCore_ports (s : State) (c : Nat) (k : Core) : (s.setCore c k).ports = s.ports := rfl
@[simp] theorem State.setCore_smps (s : State) (c : Nat) (k : Core) : (s.setCore c k).smps = s.smps := rfl
@[simp] theorem State.setCore_gives (s : State) (c : Nat) (k : Core) : (s.setCore c k).gives = s.gives := rfl
@[simp] theorem State.setCore_takes (s : State) (c : Nat) (k : Core) : (s.setCore c k).takes = s.takes := rfl
@[simp] theorem State.setCore_nextId (s : State) (c : Nat) (k : Core) : (s.setCore c k).nextId = s.nextId := rfl
@[simp] theorem State.setCore_free (s : State) (c : Nat) (k : Core) : (s.setCore c k).free = s.free := rfl
@[simp] theorem State.setCore_cur (s : State) (c : Nat) (k : Core) : (s.setCore c k).cur = s.cur := rfl
@[simp] theorem State.setCore_turn (s : State) (c : Nat) (k : Core) : (s.setCore c k).turn = s.turn := rfl
@[simp] theorem State.setCore_due (s : State) (c : Nat) (k : Core) : (s.setCore c k).due = s.due := rfl
@[simp] theorem State.setCore_inputs (s : State) (c : Nat) (k : Core) : (s.setCore c k).inputs = s.inputs := rfl
@[simp] theorem State.setCore_ord (s : State) (c : Nat) (k : Core) : (s.setCore c k).ord = s.ord := rfl

@[simp] theorem State.modCore_cycle (s : State) (c : Nat) (f : Core → Core) : (s.modCore c f).cycle = s.cycle := rfl
@[simp] theorem State.modCore_tsZero (s : State) (c : Nat) (f : Core → Core) : (s.modCore c f).tsZero = s.tsZero := rfl
@[simp] theorem State.modCore_squares (s : State) (c : Nat) (f : Core → Core) : (s.modCore c f).squares = s.squares := rfl
@[simp] theorem State.modCore_hbm (s : State) (c : Nat) (f : Core → Core) : (s.modCore c f).hbm = s.hbm := rfl
@[simp] theorem State.modCore_hostMem (s : State) (c : Nat) (f : Core → Core) : (s.modCore c f).hostMem = s.hostMem := rfl
@[simp] theorem State.modCore_disp (s : State) (c : Nat) (f : Core → Core) : (s.modCore c f).disp = s.disp := rfl
@[simp] theorem State.modCore_host (s : State) (c : Nat) (f : Core → Core) : (s.modCore c f).host = s.host := rfl
@[simp] theorem State.modCore_walks (s : State) (c : Nat) (f : Core → Core) : (s.modCore c f).walks = s.walks := rfl
@[simp] theorem State.modCore_missWait (s : State) (c : Nat) (f : Core → Core) : (s.modCore c f).missWait = s.missWait := rfl
@[simp] theorem State.modCore_tlbiOps (s : State) (c : Nat) (f : Core → Core) : (s.modCore c f).tlbiOps = s.tlbiOps := rfl
@[simp] theorem State.modCore_ships (s : State) (c : Nat) (f : Core → Core) : (s.modCore c f).ships = s.ships := rfl
@[simp] theorem State.modCore_ports (s : State) (c : Nat) (f : Core → Core) : (s.modCore c f).ports = s.ports := rfl
@[simp] theorem State.modCore_smps (s : State) (c : Nat) (f : Core → Core) : (s.modCore c f).smps = s.smps := rfl
@[simp] theorem State.modCore_gives (s : State) (c : Nat) (f : Core → Core) : (s.modCore c f).gives = s.gives := rfl
@[simp] theorem State.modCore_takes (s : State) (c : Nat) (f : Core → Core) : (s.modCore c f).takes = s.takes := rfl
@[simp] theorem State.modCore_nextId (s : State) (c : Nat) (f : Core → Core) : (s.modCore c f).nextId = s.nextId := rfl
@[simp] theorem State.modCore_free (s : State) (c : Nat) (f : Core → Core) : (s.modCore c f).free = s.free := rfl
@[simp] theorem State.modCore_cur (s : State) (c : Nat) (f : Core → Core) : (s.modCore c f).cur = s.cur := rfl
@[simp] theorem State.modCore_turn (s : State) (c : Nat) (f : Core → Core) : (s.modCore c f).turn = s.turn := rfl
@[simp] theorem State.modCore_due (s : State) (c : Nat) (f : Core → Core) : (s.modCore c f).due = s.due := rfl
@[simp] theorem State.modCore_inputs (s : State) (c : Nat) (f : Core → Core) : (s.modCore c f).inputs = s.inputs := rfl
@[simp] theorem State.modCore_ord (s : State) (c : Nat) (f : Core → Core) : (s.modCore c f).ord = s.ord := rfl

@[simp] theorem State.setCtx_cycle (s : State) (c i : Nat) (x : Ctx) : (s.setCtx c i x).cycle = s.cycle := rfl
@[simp] theorem State.setCtx_tsZero (s : State) (c i : Nat) (x : Ctx) : (s.setCtx c i x).tsZero = s.tsZero := rfl
@[simp] theorem State.setCtx_squares (s : State) (c i : Nat) (x : Ctx) : (s.setCtx c i x).squares = s.squares := rfl
@[simp] theorem State.setCtx_hbm (s : State) (c i : Nat) (x : Ctx) : (s.setCtx c i x).hbm = s.hbm := rfl
@[simp] theorem State.setCtx_hostMem (s : State) (c i : Nat) (x : Ctx) : (s.setCtx c i x).hostMem = s.hostMem := rfl
@[simp] theorem State.setCtx_disp (s : State) (c i : Nat) (x : Ctx) : (s.setCtx c i x).disp = s.disp := rfl
@[simp] theorem State.setCtx_host (s : State) (c i : Nat) (x : Ctx) : (s.setCtx c i x).host = s.host := rfl
@[simp] theorem State.setCtx_walks (s : State) (c i : Nat) (x : Ctx) : (s.setCtx c i x).walks = s.walks := rfl
@[simp] theorem State.setCtx_missWait (s : State) (c i : Nat) (x : Ctx) : (s.setCtx c i x).missWait = s.missWait := rfl
@[simp] theorem State.setCtx_tlbiOps (s : State) (c i : Nat) (x : Ctx) : (s.setCtx c i x).tlbiOps = s.tlbiOps := rfl
@[simp] theorem State.setCtx_ships (s : State) (c i : Nat) (x : Ctx) : (s.setCtx c i x).ships = s.ships := rfl
@[simp] theorem State.setCtx_ports (s : State) (c i : Nat) (x : Ctx) : (s.setCtx c i x).ports = s.ports := rfl
@[simp] theorem State.setCtx_smps (s : State) (c i : Nat) (x : Ctx) : (s.setCtx c i x).smps = s.smps := rfl
@[simp] theorem State.setCtx_gives (s : State) (c i : Nat) (x : Ctx) : (s.setCtx c i x).gives = s.gives := rfl
@[simp] theorem State.setCtx_takes (s : State) (c i : Nat) (x : Ctx) : (s.setCtx c i x).takes = s.takes := rfl
@[simp] theorem State.setCtx_nextId (s : State) (c i : Nat) (x : Ctx) : (s.setCtx c i x).nextId = s.nextId := rfl
@[simp] theorem State.setCtx_free (s : State) (c i : Nat) (x : Ctx) : (s.setCtx c i x).free = s.free := rfl
@[simp] theorem State.setCtx_cur (s : State) (c i : Nat) (x : Ctx) : (s.setCtx c i x).cur = s.cur := rfl
@[simp] theorem State.setCtx_turn (s : State) (c i : Nat) (x : Ctx) : (s.setCtx c i x).turn = s.turn := rfl
@[simp] theorem State.setCtx_due (s : State) (c i : Nat) (x : Ctx) : (s.setCtx c i x).due = s.due := rfl
@[simp] theorem State.setCtx_inputs (s : State) (c i : Nat) (x : Ctx) : (s.setCtx c i x).inputs = s.inputs := rfl
@[simp] theorem State.setCtx_ord (s : State) (c i : Nat) (x : Ctx) : (s.setCtx c i x).ord = s.ord := rfl

@[simp] theorem State.modCtx_cycle (s : State) (c i : Nat) (f : Ctx → Ctx) : (s.modCtx c i f).cycle = s.cycle := rfl
@[simp] theorem State.modCtx_tsZero (s : State) (c i : Nat) (f : Ctx → Ctx) : (s.modCtx c i f).tsZero = s.tsZero := rfl
@[simp] theorem State.modCtx_squares (s : State) (c i : Nat) (f : Ctx → Ctx) : (s.modCtx c i f).squares = s.squares := rfl
@[simp] theorem State.modCtx_hbm (s : State) (c i : Nat) (f : Ctx → Ctx) : (s.modCtx c i f).hbm = s.hbm := rfl
@[simp] theorem State.modCtx_hostMem (s : State) (c i : Nat) (f : Ctx → Ctx) : (s.modCtx c i f).hostMem = s.hostMem := rfl
@[simp] theorem State.modCtx_disp (s : State) (c i : Nat) (f : Ctx → Ctx) : (s.modCtx c i f).disp = s.disp := rfl
@[simp] theorem State.modCtx_host (s : State) (c i : Nat) (f : Ctx → Ctx) : (s.modCtx c i f).host = s.host := rfl
@[simp] theorem State.modCtx_walks (s : State) (c i : Nat) (f : Ctx → Ctx) : (s.modCtx c i f).walks = s.walks := rfl
@[simp] theorem State.modCtx_missWait (s : State) (c i : Nat) (f : Ctx → Ctx) : (s.modCtx c i f).missWait = s.missWait := rfl
@[simp] theorem State.modCtx_tlbiOps (s : State) (c i : Nat) (f : Ctx → Ctx) : (s.modCtx c i f).tlbiOps = s.tlbiOps := rfl
@[simp] theorem State.modCtx_ships (s : State) (c i : Nat) (f : Ctx → Ctx) : (s.modCtx c i f).ships = s.ships := rfl
@[simp] theorem State.modCtx_ports (s : State) (c i : Nat) (f : Ctx → Ctx) : (s.modCtx c i f).ports = s.ports := rfl
@[simp] theorem State.modCtx_smps (s : State) (c i : Nat) (f : Ctx → Ctx) : (s.modCtx c i f).smps = s.smps := rfl
@[simp] theorem State.modCtx_gives (s : State) (c i : Nat) (f : Ctx → Ctx) : (s.modCtx c i f).gives = s.gives := rfl
@[simp] theorem State.modCtx_takes (s : State) (c i : Nat) (f : Ctx → Ctx) : (s.modCtx c i f).takes = s.takes := rfl
@[simp] theorem State.modCtx_nextId (s : State) (c i : Nat) (f : Ctx → Ctx) : (s.modCtx c i f).nextId = s.nextId := rfl
@[simp] theorem State.modCtx_free (s : State) (c i : Nat) (f : Ctx → Ctx) : (s.modCtx c i f).free = s.free := rfl
@[simp] theorem State.modCtx_cur (s : State) (c i : Nat) (f : Ctx → Ctx) : (s.modCtx c i f).cur = s.cur := rfl
@[simp] theorem State.modCtx_turn (s : State) (c i : Nat) (f : Ctx → Ctx) : (s.modCtx c i f).turn = s.turn := rfl
@[simp] theorem State.modCtx_due (s : State) (c i : Nat) (f : Ctx → Ctx) : (s.modCtx c i f).due = s.due := rfl
@[simp] theorem State.modCtx_inputs (s : State) (c i : Nat) (f : Ctx → Ctx) : (s.modCtx c i f).inputs = s.inputs := rfl
@[simp] theorem State.modCtx_ord (s : State) (c i : Nat) (f : Ctx → Ctx) : (s.modCtx c i f).ord = s.ord := rfl

@[simp] theorem State.setSquare_cycle (s : State) (q : Nat) (x : Square) : (s.setSquare q x).cycle = s.cycle := rfl
@[simp] theorem State.setSquare_tsZero (s : State) (q : Nat) (x : Square) : (s.setSquare q x).tsZero = s.tsZero := rfl
@[simp] theorem State.setSquare_cores (s : State) (q : Nat) (x : Square) : (s.setSquare q x).cores = s.cores := rfl
@[simp] theorem State.setSquare_hbm (s : State) (q : Nat) (x : Square) : (s.setSquare q x).hbm = s.hbm := rfl
@[simp] theorem State.setSquare_hostMem (s : State) (q : Nat) (x : Square) : (s.setSquare q x).hostMem = s.hostMem := rfl
@[simp] theorem State.setSquare_disp (s : State) (q : Nat) (x : Square) : (s.setSquare q x).disp = s.disp := rfl
@[simp] theorem State.setSquare_host (s : State) (q : Nat) (x : Square) : (s.setSquare q x).host = s.host := rfl
@[simp] theorem State.setSquare_walks (s : State) (q : Nat) (x : Square) : (s.setSquare q x).walks = s.walks := rfl
@[simp] theorem State.setSquare_missWait (s : State) (q : Nat) (x : Square) : (s.setSquare q x).missWait = s.missWait := rfl
@[simp] theorem State.setSquare_tlbiOps (s : State) (q : Nat) (x : Square) : (s.setSquare q x).tlbiOps = s.tlbiOps := rfl
@[simp] theorem State.setSquare_ships (s : State) (q : Nat) (x : Square) : (s.setSquare q x).ships = s.ships := rfl
@[simp] theorem State.setSquare_ports (s : State) (q : Nat) (x : Square) : (s.setSquare q x).ports = s.ports := rfl
@[simp] theorem State.setSquare_smps (s : State) (q : Nat) (x : Square) : (s.setSquare q x).smps = s.smps := rfl
@[simp] theorem State.setSquare_gives (s : State) (q : Nat) (x : Square) : (s.setSquare q x).gives = s.gives := rfl
@[simp] theorem State.setSquare_takes (s : State) (q : Nat) (x : Square) : (s.setSquare q x).takes = s.takes := rfl
@[simp] theorem State.setSquare_nextId (s : State) (q : Nat) (x : Square) : (s.setSquare q x).nextId = s.nextId := rfl
@[simp] theorem State.setSquare_free (s : State) (q : Nat) (x : Square) : (s.setSquare q x).free = s.free := rfl
@[simp] theorem State.setSquare_cur (s : State) (q : Nat) (x : Square) : (s.setSquare q x).cur = s.cur := rfl
@[simp] theorem State.setSquare_turn (s : State) (q : Nat) (x : Square) : (s.setSquare q x).turn = s.turn := rfl
@[simp] theorem State.setSquare_due (s : State) (q : Nat) (x : Square) : (s.setSquare q x).due = s.due := rfl
@[simp] theorem State.setSquare_inputs (s : State) (q : Nat) (x : Square) : (s.setSquare q x).inputs = s.inputs := rfl
@[simp] theorem State.setSquare_ord (s : State) (q : Nat) (x : Square) : (s.setSquare q x).ord = s.ord := rfl

@[simp] theorem State.modSquare_cycle (s : State) (q : Nat) (f : Square → Square) : (s.modSquare q f).cycle = s.cycle := rfl
@[simp] theorem State.modSquare_tsZero (s : State) (q : Nat) (f : Square → Square) : (s.modSquare q f).tsZero = s.tsZero := rfl
@[simp] theorem State.modSquare_cores (s : State) (q : Nat) (f : Square → Square) : (s.modSquare q f).cores = s.cores := rfl
@[simp] theorem State.modSquare_hbm (s : State) (q : Nat) (f : Square → Square) : (s.modSquare q f).hbm = s.hbm := rfl
@[simp] theorem State.modSquare_hostMem (s : State) (q : Nat) (f : Square → Square) : (s.modSquare q f).hostMem = s.hostMem := rfl
@[simp] theorem State.modSquare_disp (s : State) (q : Nat) (f : Square → Square) : (s.modSquare q f).disp = s.disp := rfl
@[simp] theorem State.modSquare_host (s : State) (q : Nat) (f : Square → Square) : (s.modSquare q f).host = s.host := rfl
@[simp] theorem State.modSquare_walks (s : State) (q : Nat) (f : Square → Square) : (s.modSquare q f).walks = s.walks := rfl
@[simp] theorem State.modSquare_missWait (s : State) (q : Nat) (f : Square → Square) : (s.modSquare q f).missWait = s.missWait := rfl
@[simp] theorem State.modSquare_tlbiOps (s : State) (q : Nat) (f : Square → Square) : (s.modSquare q f).tlbiOps = s.tlbiOps := rfl
@[simp] theorem State.modSquare_ships (s : State) (q : Nat) (f : Square → Square) : (s.modSquare q f).ships = s.ships := rfl
@[simp] theorem State.modSquare_ports (s : State) (q : Nat) (f : Square → Square) : (s.modSquare q f).ports = s.ports := rfl
@[simp] theorem State.modSquare_smps (s : State) (q : Nat) (f : Square → Square) : (s.modSquare q f).smps = s.smps := rfl
@[simp] theorem State.modSquare_gives (s : State) (q : Nat) (f : Square → Square) : (s.modSquare q f).gives = s.gives := rfl
@[simp] theorem State.modSquare_takes (s : State) (q : Nat) (f : Square → Square) : (s.modSquare q f).takes = s.takes := rfl
@[simp] theorem State.modSquare_nextId (s : State) (q : Nat) (f : Square → Square) : (s.modSquare q f).nextId = s.nextId := rfl
@[simp] theorem State.modSquare_free (s : State) (q : Nat) (f : Square → Square) : (s.modSquare q f).free = s.free := rfl
@[simp] theorem State.modSquare_cur (s : State) (q : Nat) (f : Square → Square) : (s.modSquare q f).cur = s.cur := rfl
@[simp] theorem State.modSquare_turn (s : State) (q : Nat) (f : Square → Square) : (s.modSquare q f).turn = s.turn := rfl
@[simp] theorem State.modSquare_due (s : State) (q : Nat) (f : Square → Square) : (s.modSquare q f).due = s.due := rfl
@[simp] theorem State.modSquare_inputs (s : State) (q : Nat) (f : Square → Square) : (s.modSquare q f).inputs = s.inputs := rfl
@[simp] theorem State.modSquare_ord (s : State) (q : Nat) (f : Square → Square) : (s.modSquare q f).ord = s.ord := rfl

@[simp] theorem State.modDisp_cycle (s : State) (f : Disp → Disp) : (s.modDisp f).cycle = s.cycle := rfl
@[simp] theorem State.modDisp_tsZero (s : State) (f : Disp → Disp) : (s.modDisp f).tsZero = s.tsZero := rfl
@[simp] theorem State.modDisp_cores (s : State) (f : Disp → Disp) : (s.modDisp f).cores = s.cores := rfl
@[simp] theorem State.modDisp_squares (s : State) (f : Disp → Disp) : (s.modDisp f).squares = s.squares := rfl
@[simp] theorem State.modDisp_hbm (s : State) (f : Disp → Disp) : (s.modDisp f).hbm = s.hbm := rfl
@[simp] theorem State.modDisp_hostMem (s : State) (f : Disp → Disp) : (s.modDisp f).hostMem = s.hostMem := rfl
@[simp] theorem State.modDisp_host (s : State) (f : Disp → Disp) : (s.modDisp f).host = s.host := rfl
@[simp] theorem State.modDisp_walks (s : State) (f : Disp → Disp) : (s.modDisp f).walks = s.walks := rfl
@[simp] theorem State.modDisp_missWait (s : State) (f : Disp → Disp) : (s.modDisp f).missWait = s.missWait := rfl
@[simp] theorem State.modDisp_tlbiOps (s : State) (f : Disp → Disp) : (s.modDisp f).tlbiOps = s.tlbiOps := rfl
@[simp] theorem State.modDisp_ships (s : State) (f : Disp → Disp) : (s.modDisp f).ships = s.ships := rfl
@[simp] theorem State.modDisp_ports (s : State) (f : Disp → Disp) : (s.modDisp f).ports = s.ports := rfl
@[simp] theorem State.modDisp_smps (s : State) (f : Disp → Disp) : (s.modDisp f).smps = s.smps := rfl
@[simp] theorem State.modDisp_gives (s : State) (f : Disp → Disp) : (s.modDisp f).gives = s.gives := rfl
@[simp] theorem State.modDisp_takes (s : State) (f : Disp → Disp) : (s.modDisp f).takes = s.takes := rfl
@[simp] theorem State.modDisp_nextId (s : State) (f : Disp → Disp) : (s.modDisp f).nextId = s.nextId := rfl
@[simp] theorem State.modDisp_free (s : State) (f : Disp → Disp) : (s.modDisp f).free = s.free := rfl
@[simp] theorem State.modDisp_cur (s : State) (f : Disp → Disp) : (s.modDisp f).cur = s.cur := rfl
@[simp] theorem State.modDisp_turn (s : State) (f : Disp → Disp) : (s.modDisp f).turn = s.turn := rfl
@[simp] theorem State.modDisp_due (s : State) (f : Disp → Disp) : (s.modDisp f).due = s.due := rfl
@[simp] theorem State.modDisp_inputs (s : State) (f : Disp → Disp) : (s.modDisp f).inputs = s.inputs := rfl
@[simp] theorem State.modDisp_ord (s : State) (f : Disp → Disp) : (s.modDisp f).ord = s.ord := rfl

@[simp] theorem State.modHost_cycle (s : State) (f : HostSide → HostSide) : (s.modHost f).cycle = s.cycle := rfl
@[simp] theorem State.modHost_tsZero (s : State) (f : HostSide → HostSide) : (s.modHost f).tsZero = s.tsZero := rfl
@[simp] theorem State.modHost_cores (s : State) (f : HostSide → HostSide) : (s.modHost f).cores = s.cores := rfl
@[simp] theorem State.modHost_squares (s : State) (f : HostSide → HostSide) : (s.modHost f).squares = s.squares := rfl
@[simp] theorem State.modHost_hbm (s : State) (f : HostSide → HostSide) : (s.modHost f).hbm = s.hbm := rfl
@[simp] theorem State.modHost_hostMem (s : State) (f : HostSide → HostSide) : (s.modHost f).hostMem = s.hostMem := rfl
@[simp] theorem State.modHost_disp (s : State) (f : HostSide → HostSide) : (s.modHost f).disp = s.disp := rfl
@[simp] theorem State.modHost_walks (s : State) (f : HostSide → HostSide) : (s.modHost f).walks = s.walks := rfl
@[simp] theorem State.modHost_missWait (s : State) (f : HostSide → HostSide) : (s.modHost f).missWait = s.missWait := rfl
@[simp] theorem State.modHost_tlbiOps (s : State) (f : HostSide → HostSide) : (s.modHost f).tlbiOps = s.tlbiOps := rfl
@[simp] theorem State.modHost_ships (s : State) (f : HostSide → HostSide) : (s.modHost f).ships = s.ships := rfl
@[simp] theorem State.modHost_ports (s : State) (f : HostSide → HostSide) : (s.modHost f).ports = s.ports := rfl
@[simp] theorem State.modHost_smps (s : State) (f : HostSide → HostSide) : (s.modHost f).smps = s.smps := rfl
@[simp] theorem State.modHost_gives (s : State) (f : HostSide → HostSide) : (s.modHost f).gives = s.gives := rfl
@[simp] theorem State.modHost_takes (s : State) (f : HostSide → HostSide) : (s.modHost f).takes = s.takes := rfl
@[simp] theorem State.modHost_nextId (s : State) (f : HostSide → HostSide) : (s.modHost f).nextId = s.nextId := rfl
@[simp] theorem State.modHost_free (s : State) (f : HostSide → HostSide) : (s.modHost f).free = s.free := rfl
@[simp] theorem State.modHost_cur (s : State) (f : HostSide → HostSide) : (s.modHost f).cur = s.cur := rfl
@[simp] theorem State.modHost_turn (s : State) (f : HostSide → HostSide) : (s.modHost f).turn = s.turn := rfl
@[simp] theorem State.modHost_due (s : State) (f : HostSide → HostSide) : (s.modHost f).due = s.due := rfl
@[simp] theorem State.modHost_inputs (s : State) (f : HostSide → HostSide) : (s.modHost f).inputs = s.inputs := rfl
@[simp] theorem State.modHost_ord (s : State) (f : HostSide → HostSide) : (s.modHost f).ord = s.ord := rfl

@[simp] theorem State.bump_cycle (s : State) (c n : Nat) : (s.bump c n).cycle = s.cycle := rfl
@[simp] theorem State.bump_tsZero (s : State) (c n : Nat) : (s.bump c n).tsZero = s.tsZero := rfl
@[simp] theorem State.bump_squares (s : State) (c n : Nat) : (s.bump c n).squares = s.squares := rfl
@[simp] theorem State.bump_hbm (s : State) (c n : Nat) : (s.bump c n).hbm = s.hbm := rfl
@[simp] theorem State.bump_hostMem (s : State) (c n : Nat) : (s.bump c n).hostMem = s.hostMem := rfl
@[simp] theorem State.bump_disp (s : State) (c n : Nat) : (s.bump c n).disp = s.disp := rfl
@[simp] theorem State.bump_host (s : State) (c n : Nat) : (s.bump c n).host = s.host := rfl
@[simp] theorem State.bump_walks (s : State) (c n : Nat) : (s.bump c n).walks = s.walks := rfl
@[simp] theorem State.bump_missWait (s : State) (c n : Nat) : (s.bump c n).missWait = s.missWait := rfl
@[simp] theorem State.bump_tlbiOps (s : State) (c n : Nat) : (s.bump c n).tlbiOps = s.tlbiOps := rfl
@[simp] theorem State.bump_ships (s : State) (c n : Nat) : (s.bump c n).ships = s.ships := rfl
@[simp] theorem State.bump_ports (s : State) (c n : Nat) : (s.bump c n).ports = s.ports := rfl
@[simp] theorem State.bump_smps (s : State) (c n : Nat) : (s.bump c n).smps = s.smps := rfl
@[simp] theorem State.bump_gives (s : State) (c n : Nat) : (s.bump c n).gives = s.gives := rfl
@[simp] theorem State.bump_takes (s : State) (c n : Nat) : (s.bump c n).takes = s.takes := rfl
@[simp] theorem State.bump_nextId (s : State) (c n : Nat) : (s.bump c n).nextId = s.nextId := rfl
@[simp] theorem State.bump_free (s : State) (c n : Nat) : (s.bump c n).free = s.free := rfl
@[simp] theorem State.bump_cur (s : State) (c n : Nat) : (s.bump c n).cur = s.cur := rfl
@[simp] theorem State.bump_turn (s : State) (c n : Nat) : (s.bump c n).turn = s.turn := rfl
@[simp] theorem State.bump_due (s : State) (c n : Nat) : (s.bump c n).due = s.due := rfl
@[simp] theorem State.bump_inputs (s : State) (c n : Nat) : (s.bump c n).inputs = s.inputs := rfl
@[simp] theorem State.bump_ord (s : State) (c n : Nat) : (s.bump c n).ord = s.ord := rfl

@[simp] theorem State.modDisp_disp (s : State) (f : Disp → Disp) : (s.modDisp f).disp = f s.disp := rfl
@[simp] theorem State.modHost_host (s : State) (f : HostSide → HostSide) : (s.modHost f).host = f s.host := rfl
@[simp] theorem State.fresh_cycle (s : State) : s.fresh.2.cycle = s.cycle := rfl
@[simp] theorem State.fresh_tsZero (s : State) : s.fresh.2.tsZero = s.tsZero := rfl
@[simp] theorem State.fresh_cores (s : State) : s.fresh.2.cores = s.cores := rfl
@[simp] theorem State.fresh_squares (s : State) : s.fresh.2.squares = s.squares := rfl
@[simp] theorem State.fresh_hbm (s : State) : s.fresh.2.hbm = s.hbm := rfl
@[simp] theorem State.fresh_hostMem (s : State) : s.fresh.2.hostMem = s.hostMem := rfl
@[simp] theorem State.fresh_disp (s : State) : s.fresh.2.disp = s.disp := rfl
@[simp] theorem State.fresh_host (s : State) : s.fresh.2.host = s.host := rfl
@[simp] theorem State.fresh_walks (s : State) : s.fresh.2.walks = s.walks := rfl
@[simp] theorem State.fresh_missWait (s : State) : s.fresh.2.missWait = s.missWait := rfl
@[simp] theorem State.fresh_tlbiOps (s : State) : s.fresh.2.tlbiOps = s.tlbiOps := rfl
@[simp] theorem State.fresh_ships (s : State) : s.fresh.2.ships = s.ships := rfl
@[simp] theorem State.fresh_ports (s : State) : s.fresh.2.ports = s.ports := rfl
@[simp] theorem State.fresh_smps (s : State) : s.fresh.2.smps = s.smps := rfl
@[simp] theorem State.fresh_gives (s : State) : s.fresh.2.gives = s.gives := rfl
@[simp] theorem State.fresh_takes (s : State) : s.fresh.2.takes = s.takes := rfl
@[simp] theorem State.fresh_free (s : State) : s.fresh.2.free = s.free := rfl
@[simp] theorem State.fresh_cur (s : State) : s.fresh.2.cur = s.cur := rfl
@[simp] theorem State.fresh_turn (s : State) : s.fresh.2.turn = s.turn := rfl
@[simp] theorem State.fresh_due (s : State) : s.fresh.2.due = s.due := rfl
@[simp] theorem State.fresh_inputs (s : State) : s.fresh.2.inputs = s.inputs := rfl
@[simp] theorem State.fresh_ord (s : State) : s.fresh.2.ord = s.ord := rfl
@[simp] theorem State.draw_cycle (s : State) : s.draw.2.cycle = s.cycle := rfl
@[simp] theorem State.draw_tsZero (s : State) : s.draw.2.tsZero = s.tsZero := rfl
@[simp] theorem State.draw_cores (s : State) : s.draw.2.cores = s.cores := rfl
@[simp] theorem State.draw_squares (s : State) : s.draw.2.squares = s.squares := rfl
@[simp] theorem State.draw_hbm (s : State) : s.draw.2.hbm = s.hbm := rfl
@[simp] theorem State.draw_hostMem (s : State) : s.draw.2.hostMem = s.hostMem := rfl
@[simp] theorem State.draw_disp (s : State) : s.draw.2.disp = s.disp := rfl
@[simp] theorem State.draw_host (s : State) : s.draw.2.host = s.host := rfl
@[simp] theorem State.draw_walks (s : State) : s.draw.2.walks = s.walks := rfl
@[simp] theorem State.draw_missWait (s : State) : s.draw.2.missWait = s.missWait := rfl
@[simp] theorem State.draw_tlbiOps (s : State) : s.draw.2.tlbiOps = s.tlbiOps := rfl
@[simp] theorem State.draw_ships (s : State) : s.draw.2.ships = s.ships := rfl
@[simp] theorem State.draw_ports (s : State) : s.draw.2.ports = s.ports := rfl
@[simp] theorem State.draw_smps (s : State) : s.draw.2.smps = s.smps := rfl
@[simp] theorem State.draw_gives (s : State) : s.draw.2.gives = s.gives := rfl
@[simp] theorem State.draw_takes (s : State) : s.draw.2.takes = s.takes := rfl
@[simp] theorem State.draw_nextId (s : State) : s.draw.2.nextId = s.nextId := rfl
@[simp] theorem State.draw_cur (s : State) : s.draw.2.cur = s.cur := rfl
@[simp] theorem State.draw_turn (s : State) : s.draw.2.turn = s.turn := rfl
@[simp] theorem State.draw_due (s : State) : s.draw.2.due = s.due := rfl
@[simp] theorem State.draw_inputs (s : State) : s.draw.2.inputs = s.inputs := rfl
@[simp] theorem State.draw_ord (s : State) : s.draw.2.ord = s.ord := rfl

/-! ## Core -/

@[simp] theorem Core.setCtx_slots (k : Core) (i : Nat) (x : Ctx) : (k.setCtx i x).slots = k.slots := rfl
@[simp] theorem Core.setCtx_regs (k : Core) (i : Nat) (x : Ctx) : (k.setCtx i x).regs = k.regs := rfl
@[simp] theorem Core.setCtx_ls (k : Core) (i : Nat) (x : Ctx) : (k.setCtx i x).ls = k.ls := rfl
@[simp] theorem Core.setCtx_fe (k : Core) (i : Nat) (x : Ctx) : (k.setCtx i x).fe = k.fe := rfl
@[simp] theorem Core.setCtx_lsGen (k : Core) (i : Nat) (x : Ctx) : (k.setCtx i x).lsGen = k.lsGen := rfl
@[simp] theorem Core.setCtx_acc (k : Core) (i : Nat) (x : Ctx) : (k.setCtx i x).acc = k.acc := rfl
@[simp] theorem Core.setCtx_banks (k : Core) (i : Nat) (x : Ctx) : (k.setCtx i x).banks = k.banks := rfl
@[simp] theorem Core.setCtx_genLast (k : Core) (i : Nat) (x : Ctx) : (k.setCtx i x).genLast = k.genLast := rfl
@[simp] theorem Core.setCtx_fold (k : Core) (i : Nat) (x : Ctx) : (k.setCtx i x).fold = k.fold := rfl
@[simp] theorem Core.setCtx_regions (k : Core) (i : Nat) (x : Ctx) : (k.setCtx i x).regions = k.regions := rfl
@[simp] theorem Core.setCtx_storeBuf (k : Core) (i : Nat) (x : Ctx) : (k.setCtx i x).storeBuf = k.storeBuf := rfl
@[simp] theorem Core.setCtx_journal (k : Core) (i : Nat) (x : Ctx) : (k.setCtx i x).journal = k.journal := rfl
@[simp] theorem Core.setCtx_jnext (k : Core) (i : Nat) (x : Ctx) : (k.setCtx i x).jnext = k.jnext := rfl
@[simp] theorem Core.setCtx_jrec (k : Core) (i : Nat) (x : Ctx) : (k.setCtx i x).jrec = k.jrec := rfl
@[simp] theorem Core.setCtx_board (k : Core) (i : Nat) (x : Ctx) : (k.setCtx i x).board = k.board := rfl
@[simp] theorem Core.setCtx_events (k : Core) (i : Nat) (x : Ctx) : (k.setCtx i x).events = k.events := rfl
@[simp] theorem Core.setCtx_sems (k : Core) (i : Nat) (x : Ctx) : (k.setCtx i x).sems = k.sems := rfl
@[simp] theorem Core.setCtx_copySets (k : Core) (i : Nat) (x : Ctx) : (k.setCtx i x).copySets = k.copySets := rfl
@[simp] theorem Core.setCtx_landq (k : Core) (i : Nat) (x : Ctx) : (k.setCtx i x).landq = k.landq := rfl
@[simp] theorem Core.setCtx_hold (k : Core) (i : Nat) (x : Ctx) : (k.setCtx i x).hold = k.hold := rfl
@[simp] theorem Core.setCtx_rot (k : Core) (i : Nat) (x : Ctx) : (k.setCtx i x).rot = k.rot := rfl
@[simp] theorem Core.setCtx_tlb (k : Core) (i : Nat) (x : Ctx) : (k.setCtx i x).tlb = k.tlb := rfl
@[simp] theorem Core.setCtx_rounds (k : Core) (i : Nat) (x : Ctx) : (k.setCtx i x).rounds = k.rounds := rfl
@[simp] theorem Core.setCtx_lim (k : Core) (i : Nat) (x : Ctx) : (k.setCtx i x).lim = k.lim := rfl
@[simp] theorem Core.setCtx_lock (k : Core) (i : Nat) (x : Ctx) : (k.setCtx i x).lock = k.lock := rfl
@[simp] theorem Core.setCtx_twinOf (k : Core) (i : Nat) (x : Ctx) : (k.setCtx i x).twinOf = k.twinOf := rfl
@[simp] theorem Core.setCtx_matCur (k : Core) (i : Nat) (x : Ctx) : (k.setCtx i x).matCur = k.matCur := rfl
@[simp] theorem Core.setCtx_matTurn (k : Core) (i : Nat) (x : Ctx) : (k.setCtx i x).matTurn = k.matTurn := rfl

@[simp] theorem Core.leaveRot_ctxs (k : Core) (i : Nat) : (k.leaveRot i).ctxs = k.ctxs := rfl
@[simp] theorem Core.leaveRot_slots (k : Core) (i : Nat) : (k.leaveRot i).slots = k.slots := rfl
@[simp] theorem Core.leaveRot_regs (k : Core) (i : Nat) : (k.leaveRot i).regs = k.regs := rfl
@[simp] theorem Core.leaveRot_ls (k : Core) (i : Nat) : (k.leaveRot i).ls = k.ls := rfl
@[simp] theorem Core.leaveRot_fe (k : Core) (i : Nat) : (k.leaveRot i).fe = k.fe := rfl
@[simp] theorem Core.leaveRot_lsGen (k : Core) (i : Nat) : (k.leaveRot i).lsGen = k.lsGen := rfl
@[simp] theorem Core.leaveRot_acc (k : Core) (i : Nat) : (k.leaveRot i).acc = k.acc := rfl
@[simp] theorem Core.leaveRot_banks (k : Core) (i : Nat) : (k.leaveRot i).banks = k.banks := rfl
@[simp] theorem Core.leaveRot_genLast (k : Core) (i : Nat) : (k.leaveRot i).genLast = k.genLast := rfl
@[simp] theorem Core.leaveRot_fold (k : Core) (i : Nat) : (k.leaveRot i).fold = k.fold := rfl
@[simp] theorem Core.leaveRot_regions (k : Core) (i : Nat) : (k.leaveRot i).regions = k.regions := rfl
@[simp] theorem Core.leaveRot_storeBuf (k : Core) (i : Nat) : (k.leaveRot i).storeBuf = k.storeBuf := rfl
@[simp] theorem Core.leaveRot_journal (k : Core) (i : Nat) : (k.leaveRot i).journal = k.journal := rfl
@[simp] theorem Core.leaveRot_jnext (k : Core) (i : Nat) : (k.leaveRot i).jnext = k.jnext := rfl
@[simp] theorem Core.leaveRot_jrec (k : Core) (i : Nat) : (k.leaveRot i).jrec = k.jrec := rfl
@[simp] theorem Core.leaveRot_board (k : Core) (i : Nat) : (k.leaveRot i).board = k.board := rfl
@[simp] theorem Core.leaveRot_events (k : Core) (i : Nat) : (k.leaveRot i).events = k.events := rfl
@[simp] theorem Core.leaveRot_sems (k : Core) (i : Nat) : (k.leaveRot i).sems = k.sems := rfl
@[simp] theorem Core.leaveRot_copySets (k : Core) (i : Nat) : (k.leaveRot i).copySets = k.copySets := rfl
@[simp] theorem Core.leaveRot_landq (k : Core) (i : Nat) : (k.leaveRot i).landq = k.landq := rfl
@[simp] theorem Core.leaveRot_hold (k : Core) (i : Nat) : (k.leaveRot i).hold = k.hold := rfl
@[simp] theorem Core.leaveRot_tlb (k : Core) (i : Nat) : (k.leaveRot i).tlb = k.tlb := rfl
@[simp] theorem Core.leaveRot_rounds (k : Core) (i : Nat) : (k.leaveRot i).rounds = k.rounds := rfl
@[simp] theorem Core.leaveRot_lim (k : Core) (i : Nat) : (k.leaveRot i).lim = k.lim := rfl
@[simp] theorem Core.leaveRot_lock (k : Core) (i : Nat) : (k.leaveRot i).lock = k.lock := rfl
@[simp] theorem Core.leaveRot_twinOf (k : Core) (i : Nat) : (k.leaveRot i).twinOf = k.twinOf := rfl
@[simp] theorem Core.leaveRot_matCur (k : Core) (i : Nat) : (k.leaveRot i).matCur = k.matCur := rfl
@[simp] theorem Core.leaveRot_matTurn (k : Core) (i : Nat) : (k.leaveRot i).matTurn = k.matTurn := rfl

@[simp] theorem Core.joinRot_ctxs (k : Core) (i : Nat) : (k.joinRot i).ctxs = k.ctxs := rfl
@[simp] theorem Core.joinRot_slots (k : Core) (i : Nat) : (k.joinRot i).slots = k.slots := rfl
@[simp] theorem Core.joinRot_regs (k : Core) (i : Nat) : (k.joinRot i).regs = k.regs := rfl
@[simp] theorem Core.joinRot_ls (k : Core) (i : Nat) : (k.joinRot i).ls = k.ls := rfl
@[simp] theorem Core.joinRot_fe (k : Core) (i : Nat) : (k.joinRot i).fe = k.fe := rfl
@[simp] theorem Core.joinRot_lsGen (k : Core) (i : Nat) : (k.joinRot i).lsGen = k.lsGen := rfl
@[simp] theorem Core.joinRot_acc (k : Core) (i : Nat) : (k.joinRot i).acc = k.acc := rfl
@[simp] theorem Core.joinRot_banks (k : Core) (i : Nat) : (k.joinRot i).banks = k.banks := rfl
@[simp] theorem Core.joinRot_genLast (k : Core) (i : Nat) : (k.joinRot i).genLast = k.genLast := rfl
@[simp] theorem Core.joinRot_fold (k : Core) (i : Nat) : (k.joinRot i).fold = k.fold := rfl
@[simp] theorem Core.joinRot_regions (k : Core) (i : Nat) : (k.joinRot i).regions = k.regions := rfl
@[simp] theorem Core.joinRot_storeBuf (k : Core) (i : Nat) : (k.joinRot i).storeBuf = k.storeBuf := rfl
@[simp] theorem Core.joinRot_journal (k : Core) (i : Nat) : (k.joinRot i).journal = k.journal := rfl
@[simp] theorem Core.joinRot_jnext (k : Core) (i : Nat) : (k.joinRot i).jnext = k.jnext := rfl
@[simp] theorem Core.joinRot_jrec (k : Core) (i : Nat) : (k.joinRot i).jrec = k.jrec := rfl
@[simp] theorem Core.joinRot_board (k : Core) (i : Nat) : (k.joinRot i).board = k.board := rfl
@[simp] theorem Core.joinRot_events (k : Core) (i : Nat) : (k.joinRot i).events = k.events := rfl
@[simp] theorem Core.joinRot_sems (k : Core) (i : Nat) : (k.joinRot i).sems = k.sems := rfl
@[simp] theorem Core.joinRot_copySets (k : Core) (i : Nat) : (k.joinRot i).copySets = k.copySets := rfl
@[simp] theorem Core.joinRot_landq (k : Core) (i : Nat) : (k.joinRot i).landq = k.landq := rfl
@[simp] theorem Core.joinRot_hold (k : Core) (i : Nat) : (k.joinRot i).hold = k.hold := rfl
@[simp] theorem Core.joinRot_tlb (k : Core) (i : Nat) : (k.joinRot i).tlb = k.tlb := rfl
@[simp] theorem Core.joinRot_rounds (k : Core) (i : Nat) : (k.joinRot i).rounds = k.rounds := rfl
@[simp] theorem Core.joinRot_lim (k : Core) (i : Nat) : (k.joinRot i).lim = k.lim := rfl
@[simp] theorem Core.joinRot_lock (k : Core) (i : Nat) : (k.joinRot i).lock = k.lock := rfl
@[simp] theorem Core.joinRot_twinOf (k : Core) (i : Nat) : (k.joinRot i).twinOf = k.twinOf := rfl
@[simp] theorem Core.joinRot_matCur (k : Core) (i : Nat) : (k.joinRot i).matCur = k.matCur := rfl
@[simp] theorem Core.joinRot_matTurn (k : Core) (i : Nat) : (k.joinRot i).matTurn = k.matTurn := rfl

@[simp] theorem Core.bump_ctxs (k : Core) (n : Nat) : (k.bump n).ctxs = k.ctxs := rfl
@[simp] theorem Core.bump_slots (k : Core) (n : Nat) : (k.bump n).slots = k.slots := rfl
@[simp] theorem Core.bump_regs (k : Core) (n : Nat) : (k.bump n).regs = k.regs := rfl
@[simp] theorem Core.bump_ls (k : Core) (n : Nat) : (k.bump n).ls = k.ls := rfl
@[simp] theorem Core.bump_fe (k : Core) (n : Nat) : (k.bump n).fe = k.fe := rfl
@[simp] theorem Core.bump_lsGen (k : Core) (n : Nat) : (k.bump n).lsGen = k.lsGen := rfl
@[simp] theorem Core.bump_acc (k : Core) (n : Nat) : (k.bump n).acc = k.acc := rfl
@[simp] theorem Core.bump_banks (k : Core) (n : Nat) : (k.bump n).banks = k.banks := rfl
@[simp] theorem Core.bump_genLast (k : Core) (n : Nat) : (k.bump n).genLast = k.genLast := rfl
@[simp] theorem Core.bump_fold (k : Core) (n : Nat) : (k.bump n).fold = k.fold := rfl
@[simp] theorem Core.bump_regions (k : Core) (n : Nat) : (k.bump n).regions = k.regions := rfl
@[simp] theorem Core.bump_storeBuf (k : Core) (n : Nat) : (k.bump n).storeBuf = k.storeBuf := rfl
@[simp] theorem Core.bump_journal (k : Core) (n : Nat) : (k.bump n).journal = k.journal := rfl
@[simp] theorem Core.bump_jnext (k : Core) (n : Nat) : (k.bump n).jnext = k.jnext := rfl
@[simp] theorem Core.bump_jrec (k : Core) (n : Nat) : (k.bump n).jrec = k.jrec := rfl
@[simp] theorem Core.bump_board (k : Core) (n : Nat) : (k.bump n).board = k.board := rfl
@[simp] theorem Core.bump_sems (k : Core) (n : Nat) : (k.bump n).sems = k.sems := rfl
@[simp] theorem Core.bump_copySets (k : Core) (n : Nat) : (k.bump n).copySets = k.copySets := rfl
@[simp] theorem Core.bump_landq (k : Core) (n : Nat) : (k.bump n).landq = k.landq := rfl
@[simp] theorem Core.bump_hold (k : Core) (n : Nat) : (k.bump n).hold = k.hold := rfl
@[simp] theorem Core.bump_rot (k : Core) (n : Nat) : (k.bump n).rot = k.rot := rfl
@[simp] theorem Core.bump_tlb (k : Core) (n : Nat) : (k.bump n).tlb = k.tlb := rfl
@[simp] theorem Core.bump_rounds (k : Core) (n : Nat) : (k.bump n).rounds = k.rounds := rfl
@[simp] theorem Core.bump_lim (k : Core) (n : Nat) : (k.bump n).lim = k.lim := rfl
@[simp] theorem Core.bump_lock (k : Core) (n : Nat) : (k.bump n).lock = k.lock := rfl
@[simp] theorem Core.bump_twinOf (k : Core) (n : Nat) : (k.bump n).twinOf = k.twinOf := rfl
@[simp] theorem Core.bump_matCur (k : Core) (n : Nat) : (k.bump n).matCur = k.matCur := rfl
@[simp] theorem Core.bump_matTurn (k : Core) (n : Nat) : (k.bump n).matTurn = k.matTurn := rfl

/-! ## Parts -/

@[simp] theorem State.core_setCore_same (s : State) (c : Nat) (k : Core) : (s.setCore c k).core c = k := SMap.get_put_same _ _ _ _
theorem State.core_setCore_ne (s : State) {c d : Nat} (k : Core) (h : c ≠ d) : (s.setCore c k).core d = s.core d := SMap.get_put_ne _ _ _ h
@[simp] theorem State.core_modCore_same (s : State) (c : Nat) (f : Core → Core) : (s.modCore c f).core c = f (s.core c) :=
  SMap.get_put_same _ _ _ _
theorem State.core_modCore_ne (s : State) {c d : Nat} (f : Core → Core) (h : c ≠ d) : (s.modCore c f).core d = s.core d :=
  SMap.get_put_ne _ _ _ h
@[simp] theorem Core.ctx_setCtx_same (k : Core) (i : Nat) (x : Ctx) : (k.setCtx i x).ctx i = x := SMap.get_put_same _ _ _ _
theorem Core.ctx_setCtx_ne (k : Core) {i j : Nat} (x : Ctx) (h : i ≠ j) : (k.setCtx i x).ctx j = k.ctx j := SMap.get_put_ne _ _ _ h
@[simp] theorem State.ctx_setCtx_same (s : State) (c i : Nat) (x : Ctx) : (s.setCtx c i x).ctx c i = x := by
  simp [State.ctx, State.setCtx]
@[simp] theorem State.ctx_modCtx_same (s : State) (c i : Nat) (f : Ctx → Ctx) : (s.modCtx c i f).ctx c i = f (s.ctx c i) := by
  simp [State.modCtx]
theorem State.ctx_modCtx_ne (s : State) {c i d j : Nat} (f : Ctx → Ctx) (h : ¬(c = d ∧ i = j)) : (s.modCtx c i f).ctx d j = s.ctx d j := by
  by_cases hc : c = d
  · subst hc
    have hi : i ≠ j := fun e => h ⟨rfl, e⟩
    simp [State.modCtx, State.setCtx, State.ctx, Core.ctx_setCtx_ne _ _ hi]
  · simp [State.modCtx, State.setCtx, State.ctx, State.core_modCore_ne _ _ hc]
@[simp] theorem State.core_setCtx_same (s : State) (c i : Nat) (x : Ctx) : (s.setCtx c i x).core c = (s.core c).setCtx i x := by
  simp [State.setCtx]
@[simp] theorem State.core_modCtx_same (s : State) (c i : Nat) (f : Ctx → Ctx) :
    (s.modCtx c i f).core c = (s.core c).setCtx i (f (s.ctx c i)) := by
  simp [State.modCtx]
theorem State.core_modCtx_ne (s : State) {c d : Nat} (i : Nat) (f : Ctx → Ctx) (h : c ≠ d) : (s.modCtx c i f).core d = s.core d := by
  simp [State.modCtx, State.setCtx, State.core_modCore_ne _ _ h]
@[simp] theorem State.square_modSquare_same (s : State) (q : Nat) (f : Square → Square) : (s.modSquare q f).square q = f (s.square q) :=
  SMap.get_put_same _ _ _ _
theorem State.square_modSquare_ne (s : State) {q r : Nat} (f : Square → Square) (h : q ≠ r) : (s.modSquare q f).square r = s.square r :=
  SMap.get_put_ne _ _ _ h
@[simp] theorem State.core_modSquare (s : State) (q : Nat) (f : Square → Square) (c : Nat) : (s.modSquare q f).core c = s.core c := rfl
@[simp] theorem State.core_modDisp (s : State) (f : Disp → Disp) (c : Nat) : (s.modDisp f).core c = s.core c := rfl
@[simp] theorem State.core_modHost (s : State) (f : HostSide → HostSide) (c : Nat) : (s.modHost f).core c = s.core c := rfl
@[simp] theorem Core.ctx_joinRot (k : Core) (i j : Nat) : (k.joinRot i).ctx j = k.ctx j := rfl
@[simp] theorem Core.ctx_leaveRot (k : Core) (i j : Nat) : (k.leaveRot i).ctx j = k.ctx j := rfl
@[simp] theorem Core.ctx_bump (k : Core) (n j : Nat) : (k.bump n).ctx j = k.ctx j := rfl

end Sys2Proof.Machine
end

