-- ==== Sys2Proof/Laws/Issue.lean ====
section
/-! SUPPORT. One issue slot: what `run` answers, and what reading and writing a general register do. -/

namespace Sys2Proof.Machine

/-! ## The monad -/

@[simp] theorem M.pure_run {α : Type} (v : α) (e : Env) (s : State) : (pure v : M α) e s = .ok (v, s) := rfl

theorem M.bind_run {α β : Type} (m : M α) (f : α → M β) (e : Env) (s : State) :
    (m >>= f) e s = match m e s with | .ok (v, t) => f v e t | .error x => .error x := by
  change Except.bind (m e s) (fun p => f p.1 e p.2) = _
  rcases m e s with x | p <;> rfl

/-- A step that succeeds is followed by the rest. -/
theorem M.bind_ok {α β : Type} {m : M α} {e : Env} {s t : State} {v : α} (h : m e s = .ok (v, t)) (f : α → M β) :
    (m >>= f) e s = f v e t := by
  rw [M.bind_run, h]

/-- A step that stops stops the whole. -/
theorem M.bind_error {α β : Type} {m : M α} {e : Env} {s : State} {x : Stop} (h : m e s = .error x) (f : α → M β) :
    (m >>= f) e s = .error x := by
  rw [M.bind_run, h]

@[simp] theorem M.env_run (e : Env) (s : State) : M.env e s = .ok (e, s) := rfl
@[simp] theorem M.state_run (e : Env) (s : State) : M.state e s = .ok (s, s) := rfl
@[simp] theorem M.me_run (e : Env) (s : State) : M.me e s = .ok (s.ctx e.core e.slot, s) := rfl
@[simp] theorem M.myCore_run (e : Env) (s : State) : M.myCore e s = .ok (s.core e.core, s) := rfl
@[simp] theorem M.modify_run (f : State → State) (e : Env) (s : State) : M.modify f e s = .ok ((), f s) := rfl
@[simp] theorem M.modMe_run (f : Ctx → Ctx) (e : Env) (s : State) : M.modMe f e s = .ok ((), s.modCtx e.core e.slot f) := rfl
@[simp] theorem M.modMyCore_run (f : Core → Core) (e : Env) (s : State) : M.modMyCore f e s = .ok ((), s.modCore e.core f) := rfl
@[simp] theorem M.draw_run (e : Env) (s : State) : M.draw e s = .ok s.draw := rfl

/-! ## The issue slot -/

@[simp] theorem doer_core (i : Instr) (s : State) : (doer i s).core = s.cur.1 := rfl
@[simp] theorem doer_slot (i : Instr) (s : State) : (doer i s).slot = s.cur.2 := rfl
@[simp] theorem doer_pc (i : Instr) (s : State) : (doer i s).pc = s.who.pc := rfl
@[simp] theorem doer_tpc (i : Instr) (s : State) : (doer i s).tpc = s.who.pc := rfl
@[simp] theorem doer_replay (i : Instr) (s : State) : (doer i s).replay = none := rfl
@[simp] theorem doer_elect (i : Instr) (s : State) : (doer i s).elect = false := rfl
@[simp] theorem doer_dest (i : Instr) (s : State) : (doer i s).dest = none := rfl
@[simp] theorem begun_cur (s : State) : (begun s).cur = s.cur := rfl
@[simp] theorem begun_who (s : State) : (begun s).who = { s.who with pc := s.who.pc + 4, wait := none } := by
  simp [begun, advance, State.who, w64]

/-- An instruction that starts runs its body, and its issue slot ends as that ends. -/
theorem run_starts {i : Instr} (body : M Unit) {s : State} (hs : starts i s = true) :
    run i body s = finish (doer i s) s (body (doer i s) (begun s)) := by
  have hp : precheck s.cur.1 (s.ctx s.cur.1 s.cur.2) (form i) ((encode i).getD 0) = none := Option.isNone_iff_eq_none.mp hs
  show (match precheck s.cur.1 (s.ctx s.cur.1 s.cur.2) (form i) ((encode i).getD 0) with
    | some t => _
    | none => finish (doer i s) s (body (doer i s) (begun s))) = _
  rw [hp]

/-- An instruction that starts and whose body completes answers the state it leaves. -/
theorem run_completes {i : Instr} {body : M Unit} {s t : State} (hs : starts i s = true)
    (hb : body (doer i s) (begun s) = .ok ((), t)) : run i body s = .next (ended s t) := by
  rw [run_starts body hs, hb]; rfl

/-- An instruction that starts and whose body traps takes the trap: nothing of it stays (R14). -/
theorem run_traps {i : Instr} {body : M Unit} {s : State} {x : TrapInfo} (hs : starts i s = true)
    (hb : body (doer i s) (begun s) = .error (.trap x)) :
    run i body s = .next (rotate s.cur.1 s.cur.2 (raise (doer i s) x s)) := by
  rw [run_starts body hs, hb]; rfl

/-- An instruction that starts and whose body parks leaves its context parked, and keeps of its effect only what `keep` says. -/
theorem run_parks {i : Instr} {body : M Unit} {s : State} {w : Wait} {keep : State → State} (hs : starts i s = true)
    (hb : body (doer i s) (begun s) = .error (.park w keep)) :
    run i body s = .next ((keep s).parkOn s.cur.1 s.cur.2 w) := by
  rw [run_starts body hs, hb]; rfl

/-! ## General registers (R50, R63, R72, R74) -/

/-- The branch of a condition that does not hold. -/
theorem M.if_neg_run {α : Type} {p : Prop} [Decidable p] (h : ¬p) (m n : M α) (e : Env) (s : State) :
    (if p then m else n) e s = n e s := by rw [if_neg h]

theorem M.if_pos_run {α : Type} {p : Prop} [Decidable p] (h : p) (m n : M α) (e : Env) (s : State) :
    (if p then m else n) e s = m e s := by rw [if_pos h]

theorem waitReg_usable {e : Env} {s : State} {f : RegF} (h : (s.ctx e.core e.slot).usable f = true) :
    waitReg f.toNat e s = .ok ((), s) := by
  simp only [Ctx.usable, Bool.and_eq_true, Bool.or_eq_true, beq_iff_eq, List.all_eq_true, bne_iff_ne, ne_eq] at h
  obtain ⟨⟨⟨⟨⟨-, -⟩, -⟩, hl⟩, hf⟩, hb⟩ := h
  have h1 : ¬(f.toNat ≠ 0 ∧ ((s.ctx e.core e.slot).loads.any (fun l => l.rd == f.toNat)) = true) := by
    rintro ⟨h0, h1⟩
    obtain ⟨l, hm, hr⟩ := List.any_eq_true.mp h1
    rcases hl with rfl | hl
    · exact h0 rfl
    · exact hl l hm (by simpa using hr)
  unfold waitReg
  rw [M.bind_ok (M.me_run e s), M.if_neg_run, M.if_neg_run h1, M.if_neg_run]
  · unfold waitReplay
    rw [M.bind_ok (M.env_run e s), M.bind_ok (M.me_run e s), M.if_neg_run]
    · rfl
    rintro ⟨-, h4⟩
    have h5 : (s.ctx e.core e.slot).usedByBody f = true := h4
    simp [h5] at hb
  · intro h3
    obtain ⟨p, hp, hq⟩ := List.any_eq_true.mp h3
    exact hf p hp (by simpa using hq)
  · rintro ⟨h0, h2⟩
    obtain ⟨l, hm, hr⟩ := List.any_eq_true.mp h2
    exact h1 ⟨h0, List.any_eq_true.mpr ⟨l, hm, (Bool.and_eq_true_iff.mp hr).1⟩⟩

/-- A read of a usable general register gives its value and changes nothing. -/
theorem readReg_usable {e : Env} {s : State} {f : RegF} (h : (s.ctx e.core e.slot).usable f = true) :
    readReg f e s = .ok ((s.core e.core).readReg (s.ctx e.core e.slot) f.toNat, s) := by
  have hw := waitReg_usable h
  simp only [Ctx.usable, Bool.and_eq_true, Bool.not_eq_true', Option.isNone_iff_eq_none] at h
  obtain ⟨⟨⟨⟨⟨hp, hc⟩, hb⟩, -⟩, -⟩, -⟩ := h
  unfold readReg
  rw [M.bind_ok (M.me_run e s)]
  simp only [hp, hc, hb, Bool.false_eq_true, ↓reduceIte]
  rw [M.bind_ok hw, M.bind_ok (M.myCore_run e s)]
  rfl

/-- A write of a usable general register changes that register alone. -/
theorem writeReg_usable {e : Env} {s : State} {f : RegF} (v : TVal) (he : e.elect = false) (hd : e.dest = none)
    (h : (s.ctx e.core e.slot).usable f = true) :
    writeReg f v e s = .ok ((), s.modCore e.core (fun k => k.writeReg (s.ctx e.core e.slot) f.toNat v)) := by
  have hw := waitReg_usable h
  simp only [Ctx.usable, Bool.and_eq_true, Bool.not_eq_true', Option.isNone_iff_eq_none] at h
  obtain ⟨⟨⟨⟨⟨hp, hc⟩, hb⟩, -⟩, -⟩, -⟩ := h
  unfold writeReg
  rw [M.bind_ok (M.me_run e s), M.bind_ok (M.env_run e s)]
  simp only [he, hd, hp, hb, Bool.false_eq_true, ↓reduceIte]
  rw [M.bind_ok hw]
  rfl

theorem readVal_of {e : Env} {s t : State} {f : RegF} {v : TVal} (h : readReg f e s = .ok (v, t)) : readVal f e s = .ok (v.val, t) := by
  unfold readVal; rw [M.bind_ok h]; rfl

end Sys2Proof.Machine
end

