-- ==== Sys2Proof/Laws/Memory.lean ====
section
/-! SUPPORT. Every operation that writes memory keeps the canonical form, and reset memory has it. -/

namespace Sys2Proof.Machine

theorem Memory.wf_nil : Memory.wf [] = true := rfl

/-- Dropping bytes, as a destroyed key does (R338), keeps the form. -/
theorem Memory.filter_wf (m : Memory) (p : Nat × Byte → Bool) (h : Memory.wf m = true) : Memory.wf (m.filter p) = true :=
  SMap.filter_wf 0 p m h

/-! ## One core -/

theorem Core.canonical_iff (k : Core) : k.canonical = true ↔ SMap.wf k.ctxs Ctx.reset = true ∧ SMap.wf k.regs RegEntry.reset = true ∧
    Memory.wf k.ls = true ∧ SMap.wf k.fe false = true ∧ SMap.wf k.lsGen 0 = true ∧ Memory.wf k.banks = true := by
  simp only [Core.canonical, Bool.and_eq_true, and_assoc]

theorem Core.reset_canonical : Core.reset.canonical = true := rfl

theorem Core.setCtx_canonical (k : Core) (i : Nat) (x : Ctx) (h : k.canonical = true) : (k.setCtx i x).canonical = true := by
  rw [Core.canonical_iff] at h ⊢
  exact ⟨SMap.put_wf _ _ _ _ h.1, h.2⟩

theorem Core.zeroGranule_canonical (k : Core) (q : Nat) (h : k.canonical = true) : (k.zeroGranule q).canonical = true := by
  rw [Core.canonical_iff] at h ⊢
  simp only [Core.zeroGranule]
  exact ⟨h.1, h.2.1, Memory.write_wf _ _ _ _ h.2.2.1,
    SMap.put_wf _ _ _ _ (SMap.put_wf _ _ _ _ (SMap.put_wf _ _ _ _ (SMap.put_wf _ _ _ _ h.2.2.2.1))), h.2.2.2.2⟩

theorem Core.current_canonical (k : Core) (g : BitVec 16) (off : Nat) (h : k.canonical = true) :
    (if k.stamp off == g then k else k.zeroGranule (off / 32)).canonical = true := by
  split
  · exact h
  · exact Core.zeroGranule_canonical k _ h

theorem Core.lsWrite_canonical (k : Core) (g : BitVec 16) (off n v : Nat) (h : k.canonical = true) : (k.lsWrite g off n v).canonical = true := by
  have h1 := Core.current_canonical k g off h
  rw [Core.canonical_iff] at h1 ⊢
  exact ⟨h1.1, h1.2.1, Memory.write_wf _ _ _ _ h1.2.2.1, h1.2.2.2.1, SMap.put_wf _ _ _ _ h1.2.2.2.2.1, h1.2.2.2.2.2⟩

theorem Core.lsWriteFe_canonical (k : Core) (g : BitVec 16) (off v : Nat) (b : Bool) (h : k.canonical = true) :
    (k.lsWriteFe g off v b).canonical = true := by
  have h1 := Core.lsWrite_canonical k g off 8 v h
  rw [Core.canonical_iff] at h1 ⊢
  exact ⟨h1.1, h1.2.1, h1.2.2.1, SMap.put_wf _ _ _ _ h1.2.2.2.1, h1.2.2.2.2⟩

theorem Core.setFe_canonical (k : Core) (g : BitVec 16) (off : Nat) (b : Bool) (h : k.canonical = true) : (k.setFe g off b).canonical = true := by
  have h1 := Core.current_canonical k g off h
  rw [Core.canonical_iff] at h1 ⊢
  exact ⟨h1.1, h1.2.1, h1.2.2.1, SMap.put_wf _ _ _ _ h1.2.2.2.1, SMap.put_wf _ _ _ _ h1.2.2.2.2.1, h1.2.2.2.2.2⟩

/-! ## The whole state -/

theorem State.canonical_iff (s : State) : s.canonical = true ↔ Memory.wf s.hbm = true ∧ Memory.wf s.hostMem = true ∧ SMap.wf s.cores Core.reset = true ∧
    SMap.wf s.squares Square.reset = true ∧ s.cores.all (fun e => e.2.canonical) = true ∧ s.disp.canonical = true ∧
    s.host.images.all Image.canonical = true := by
  simp only [State.canonical, Bool.and_eq_true, and_assoc]

theorem State.core_canonical (s : State) (c : Nat) (h : s.canonical = true) : (s.core c).canonical = true :=
  SMap.get_all _ Core.reset c _ Core.reset_canonical ((State.canonical_iff s).1 h).2.2.2.2.1

theorem State.setCore_canonical (s : State) (c : Nat) (k : Core) (hk : k.canonical = true) (h : s.canonical = true) :
    (s.setCore c k).canonical = true := by
  rw [State.canonical_iff] at h ⊢
  exact ⟨h.1, h.2.1, SMap.put_wf _ _ _ _ h.2.2.1, h.2.2.2.1, SMap.put_all _ _ _ _ _ hk h.2.2.2.2.1, h.2.2.2.2.2⟩

/-- A change of one core that keeps its form keeps the form of the state. -/
theorem State.modCore_canonical (s : State) (c : Nat) (f : Core → Core) (hf : ∀ k : Core, k.canonical = true → (f k).canonical = true)
    (h : s.canonical = true) : (s.modCore c f).canonical = true :=
  s.setCore_canonical c _ (hf _ (s.core_canonical c h)) h

theorem State.modCtx_canonical (s : State) (c i : Nat) (f : Ctx → Ctx) (h : s.canonical = true) : (s.modCtx c i f).canonical = true :=
  s.modCore_canonical c _ (fun k hk => k.setCtx_canonical i _ hk) h

theorem State.modSquare_canonical (s : State) (q : Nat) (f : Square → Square) (h : s.canonical = true) : (s.modSquare q f).canonical = true := by
  rw [State.canonical_iff] at h ⊢
  exact ⟨h.1, h.2.1, h.2.2.1, SMap.put_wf _ _ _ _ h.2.2.2.1, h.2.2.2.2⟩

/-- A write at any place keeps the memories of the machine in canonical form. -/
theorem State.writeAt_canonical (s : State) (pl : Place) (n v : Nat) (own : BitVec 16) (h : s.canonical = true) :
    (s.writeAt pl n v own).canonical = true := by
  unfold State.writeAt
  cases pl with
  | ls c off => exact s.modCore_canonical c _ (fun k hk => Core.lsWrite_canonical k _ off n v hk) h
  | peer k a => exact h
  | hbm m =>
    dsimp only
    split
    · exact h
    · rw [State.canonical_iff] at h ⊢
      exact ⟨Memory.write_wf _ _ _ _ h.1, h.2⟩
  | host a =>
    rw [State.canonical_iff] at h ⊢
    exact ⟨h.1, Memory.write_wf _ _ _ _ h.2.1, h.2.2⟩

/-- A write at one place leaves the bytes of HBM and of the host's memory outside it alone. -/
theorem State.readAt_writeAt_hbm (s : State) (m n v a : Nat) (own g : BitVec 16) (h : a < m ∨ m + n ≤ a) :
    (s.writeAt (.hbm m) n v own).readAt (.hbm a) 1 g = s.readAt (.hbm a) 1 g := by
  unfold State.writeAt
  dsimp only
  split
  · rfl
  · simp only [State.readAt]
    exact Memory.read_congr 1 _ _ a (fun i hi hj => Memory.byte_write_outside n _ m v i (by omega))

theorem State.readAt_writeAt_host (s : State) (m n v a : Nat) (own g : BitVec 16) (h : a < m ∨ m + n ≤ a) :
    (s.writeAt (.host m) n v own).readAt (.host a) 1 g = s.readAt (.host a) 1 g :=
  Memory.read_congr 1 _ _ a (fun i hi hj => Memory.byte_write_outside n _ m v i (by omega))

end Sys2Proof.Machine
end

