-- ==== Sys2Proof/Laws/Order.lean ====
section
/-! SUPPORT. Memory ordering: what the operations of Order.lean leave alone, and what a Read and a Commit keep. -/

namespace Sys2Proof.Machine

/-! ## Fields -/

@[simp] theorem State.modOrd_cycle (s : State) (f : Order → Order) : (s.modOrd f).cycle = s.cycle := rfl
@[simp] theorem State.modOrd_tsZero (s : State) (f : Order → Order) : (s.modOrd f).tsZero = s.tsZero := rfl
@[simp] theorem State.modOrd_cores (s : State) (f : Order → Order) : (s.modOrd f).cores = s.cores := rfl
@[simp] theorem State.modOrd_squares (s : State) (f : Order → Order) : (s.modOrd f).squares = s.squares := rfl
@[simp] theorem State.modOrd_hbm (s : State) (f : Order → Order) : (s.modOrd f).hbm = s.hbm := rfl
@[simp] theorem State.modOrd_hostMem (s : State) (f : Order → Order) : (s.modOrd f).hostMem = s.hostMem := rfl
@[simp] theorem State.modOrd_disp (s : State) (f : Order → Order) : (s.modOrd f).disp = s.disp := rfl
@[simp] theorem State.modOrd_host (s : State) (f : Order → Order) : (s.modOrd f).host = s.host := rfl
@[simp] theorem State.modOrd_walks (s : State) (f : Order → Order) : (s.modOrd f).walks = s.walks := rfl
@[simp] theorem State.modOrd_missWait (s : State) (f : Order → Order) : (s.modOrd f).missWait = s.missWait := rfl
@[simp] theorem State.modOrd_tlbiOps (s : State) (f : Order → Order) : (s.modOrd f).tlbiOps = s.tlbiOps := rfl
@[simp] theorem State.modOrd_ships (s : State) (f : Order → Order) : (s.modOrd f).ships = s.ships := rfl
@[simp] theorem State.modOrd_ports (s : State) (f : Order → Order) : (s.modOrd f).ports = s.ports := rfl
@[simp] theorem State.modOrd_smps (s : State) (f : Order → Order) : (s.modOrd f).smps = s.smps := rfl
@[simp] theorem State.modOrd_gives (s : State) (f : Order → Order) : (s.modOrd f).gives = s.gives := rfl
@[simp] theorem State.modOrd_takes (s : State) (f : Order → Order) : (s.modOrd f).takes = s.takes := rfl
@[simp] theorem State.modOrd_nextId (s : State) (f : Order → Order) : (s.modOrd f).nextId = s.nextId := rfl
@[simp] theorem State.modOrd_free (s : State) (f : Order → Order) : (s.modOrd f).free = s.free := rfl
@[simp] theorem State.modOrd_cur (s : State) (f : Order → Order) : (s.modOrd f).cur = s.cur := rfl
@[simp] theorem State.modOrd_turn (s : State) (f : Order → Order) : (s.modOrd f).turn = s.turn := rfl
@[simp] theorem State.modOrd_due (s : State) (f : Order → Order) : (s.modOrd f).due = s.due := rfl
@[simp] theorem State.modOrd_inputs (s : State) (f : Order → Order) : (s.modOrd f).inputs = s.inputs := rfl

@[simp] theorem State.setChan_cycle (s : State) (c : Chan) (f : Front) : (s.setChan c f).cycle = s.cycle := rfl
@[simp] theorem State.setChan_tsZero (s : State) (c : Chan) (f : Front) : (s.setChan c f).tsZero = s.tsZero := rfl
@[simp] theorem State.setChan_cores (s : State) (c : Chan) (f : Front) : (s.setChan c f).cores = s.cores := rfl
@[simp] theorem State.setChan_squares (s : State) (c : Chan) (f : Front) : (s.setChan c f).squares = s.squares := rfl
@[simp] theorem State.setChan_hbm (s : State) (c : Chan) (f : Front) : (s.setChan c f).hbm = s.hbm := rfl
@[simp] theorem State.setChan_hostMem (s : State) (c : Chan) (f : Front) : (s.setChan c f).hostMem = s.hostMem := rfl
@[simp] theorem State.setChan_disp (s : State) (c : Chan) (f : Front) : (s.setChan c f).disp = s.disp := rfl
@[simp] theorem State.setChan_host (s : State) (c : Chan) (f : Front) : (s.setChan c f).host = s.host := rfl
@[simp] theorem State.setChan_walks (s : State) (c : Chan) (f : Front) : (s.setChan c f).walks = s.walks := rfl
@[simp] theorem State.setChan_missWait (s : State) (c : Chan) (f : Front) : (s.setChan c f).missWait = s.missWait := rfl
@[simp] theorem State.setChan_tlbiOps (s : State) (c : Chan) (f : Front) : (s.setChan c f).tlbiOps = s.tlbiOps := rfl
@[simp] theorem State.setChan_ships (s : State) (c : Chan) (f : Front) : (s.setChan c f).ships = s.ships := rfl
@[simp] theorem State.setChan_ports (s : State) (c : Chan) (f : Front) : (s.setChan c f).ports = s.ports := rfl
@[simp] theorem State.setChan_smps (s : State) (c : Chan) (f : Front) : (s.setChan c f).smps = s.smps := rfl
@[simp] theorem State.setChan_gives (s : State) (c : Chan) (f : Front) : (s.setChan c f).gives = s.gives := rfl
@[simp] theorem State.setChan_takes (s : State) (c : Chan) (f : Front) : (s.setChan c f).takes = s.takes := rfl
@[simp] theorem State.setChan_nextId (s : State) (c : Chan) (f : Front) : (s.setChan c f).nextId = s.nextId := rfl
@[simp] theorem State.setChan_free (s : State) (c : Chan) (f : Front) : (s.setChan c f).free = s.free := rfl
@[simp] theorem State.setChan_cur (s : State) (c : Chan) (f : Front) : (s.setChan c f).cur = s.cur := rfl
@[simp] theorem State.setChan_turn (s : State) (c : Chan) (f : Front) : (s.setChan c f).turn = s.turn := rfl
@[simp] theorem State.setChan_due (s : State) (c : Chan) (f : Front) : (s.setChan c f).due = s.due := rfl
@[simp] theorem State.setChan_inputs (s : State) (c : Chan) (f : Front) : (s.setChan c f).inputs = s.inputs := rfl

@[simp] theorem State.joinChan_cycle (s : State) (c : Chan) (f : Front) : (s.joinChan c f).cycle = s.cycle := rfl
@[simp] theorem State.joinChan_tsZero (s : State) (c : Chan) (f : Front) : (s.joinChan c f).tsZero = s.tsZero := rfl
@[simp] theorem State.joinChan_cores (s : State) (c : Chan) (f : Front) : (s.joinChan c f).cores = s.cores := rfl
@[simp] theorem State.joinChan_squares (s : State) (c : Chan) (f : Front) : (s.joinChan c f).squares = s.squares := rfl
@[simp] theorem State.joinChan_hbm (s : State) (c : Chan) (f : Front) : (s.joinChan c f).hbm = s.hbm := rfl
@[simp] theorem State.joinChan_hostMem (s : State) (c : Chan) (f : Front) : (s.joinChan c f).hostMem = s.hostMem := rfl
@[simp] theorem State.joinChan_disp (s : State) (c : Chan) (f : Front) : (s.joinChan c f).disp = s.disp := rfl
@[simp] theorem State.joinChan_host (s : State) (c : Chan) (f : Front) : (s.joinChan c f).host = s.host := rfl
@[simp] theorem State.joinChan_walks (s : State) (c : Chan) (f : Front) : (s.joinChan c f).walks = s.walks := rfl
@[simp] theorem State.joinChan_missWait (s : State) (c : Chan) (f : Front) : (s.joinChan c f).missWait = s.missWait := rfl
@[simp] theorem State.joinChan_tlbiOps (s : State) (c : Chan) (f : Front) : (s.joinChan c f).tlbiOps = s.tlbiOps := rfl
@[simp] theorem State.joinChan_ships (s : State) (c : Chan) (f : Front) : (s.joinChan c f).ships = s.ships := rfl
@[simp] theorem State.joinChan_ports (s : State) (c : Chan) (f : Front) : (s.joinChan c f).ports = s.ports := rfl
@[simp] theorem State.joinChan_smps (s : State) (c : Chan) (f : Front) : (s.joinChan c f).smps = s.smps := rfl
@[simp] theorem State.joinChan_gives (s : State) (c : Chan) (f : Front) : (s.joinChan c f).gives = s.gives := rfl
@[simp] theorem State.joinChan_takes (s : State) (c : Chan) (f : Front) : (s.joinChan c f).takes = s.takes := rfl
@[simp] theorem State.joinChan_nextId (s : State) (c : Chan) (f : Front) : (s.joinChan c f).nextId = s.nextId := rfl
@[simp] theorem State.joinChan_free (s : State) (c : Chan) (f : Front) : (s.joinChan c f).free = s.free := rfl
@[simp] theorem State.joinChan_cur (s : State) (c : Chan) (f : Front) : (s.joinChan c f).cur = s.cur := rfl
@[simp] theorem State.joinChan_turn (s : State) (c : Chan) (f : Front) : (s.joinChan c f).turn = s.turn := rfl
@[simp] theorem State.joinChan_due (s : State) (c : Chan) (f : Front) : (s.joinChan c f).due = s.due := rfl
@[simp] theorem State.joinChan_inputs (s : State) (c : Chan) (f : Front) : (s.joinChan c f).inputs = s.inputs := rfl

@[simp] theorem State.forget_cycle (s : State) (p : Place → Bool) : (s.forget p).cycle = s.cycle := rfl
@[simp] theorem State.forget_tsZero (s : State) (p : Place → Bool) : (s.forget p).tsZero = s.tsZero := rfl
@[simp] theorem State.forget_cores (s : State) (p : Place → Bool) : (s.forget p).cores = s.cores := rfl
@[simp] theorem State.forget_squares (s : State) (p : Place → Bool) : (s.forget p).squares = s.squares := rfl
@[simp] theorem State.forget_hbm (s : State) (p : Place → Bool) : (s.forget p).hbm = s.hbm := rfl
@[simp] theorem State.forget_hostMem (s : State) (p : Place → Bool) : (s.forget p).hostMem = s.hostMem := rfl
@[simp] theorem State.forget_disp (s : State) (p : Place → Bool) : (s.forget p).disp = s.disp := rfl
@[simp] theorem State.forget_host (s : State) (p : Place → Bool) : (s.forget p).host = s.host := rfl
@[simp] theorem State.forget_walks (s : State) (p : Place → Bool) : (s.forget p).walks = s.walks := rfl
@[simp] theorem State.forget_missWait (s : State) (p : Place → Bool) : (s.forget p).missWait = s.missWait := rfl
@[simp] theorem State.forget_tlbiOps (s : State) (p : Place → Bool) : (s.forget p).tlbiOps = s.tlbiOps := rfl
@[simp] theorem State.forget_ships (s : State) (p : Place → Bool) : (s.forget p).ships = s.ships := rfl
@[simp] theorem State.forget_ports (s : State) (p : Place → Bool) : (s.forget p).ports = s.ports := rfl
@[simp] theorem State.forget_smps (s : State) (p : Place → Bool) : (s.forget p).smps = s.smps := rfl
@[simp] theorem State.forget_gives (s : State) (p : Place → Bool) : (s.forget p).gives = s.gives := rfl
@[simp] theorem State.forget_takes (s : State) (p : Place → Bool) : (s.forget p).takes = s.takes := rfl
@[simp] theorem State.forget_nextId (s : State) (p : Place → Bool) : (s.forget p).nextId = s.nextId := rfl
@[simp] theorem State.forget_free (s : State) (p : Place → Bool) : (s.forget p).free = s.free := rfl
@[simp] theorem State.forget_cur (s : State) (p : Place → Bool) : (s.forget p).cur = s.cur := rfl
@[simp] theorem State.forget_turn (s : State) (p : Place → Bool) : (s.forget p).turn = s.turn := rfl
@[simp] theorem State.forget_due (s : State) (p : Place → Bool) : (s.forget p).due = s.due := rfl
@[simp] theorem State.forget_inputs (s : State) (p : Place → Bool) : (s.forget p).inputs = s.inputs := rfl

@[simp] theorem State.record_cycle (s : State) (k : Commit) (pl : Place) (n v : Nat) (g : BitVec 16) : (s.record k pl n v g).cycle = s.cycle := rfl
@[simp] theorem State.record_tsZero (s : State) (k : Commit) (pl : Place) (n v : Nat) (g : BitVec 16) : (s.record k pl n v g).tsZero = s.tsZero := rfl
@[simp] theorem State.record_cores (s : State) (k : Commit) (pl : Place) (n v : Nat) (g : BitVec 16) : (s.record k pl n v g).cores = s.cores := rfl
@[simp] theorem State.record_squares (s : State) (k : Commit) (pl : Place) (n v : Nat) (g : BitVec 16) : (s.record k pl n v g).squares = s.squares := rfl
@[simp] theorem State.record_hbm (s : State) (k : Commit) (pl : Place) (n v : Nat) (g : BitVec 16) : (s.record k pl n v g).hbm = s.hbm := rfl
@[simp] theorem State.record_hostMem (s : State) (k : Commit) (pl : Place) (n v : Nat) (g : BitVec 16) : (s.record k pl n v g).hostMem = s.hostMem := rfl
@[simp] theorem State.record_disp (s : State) (k : Commit) (pl : Place) (n v : Nat) (g : BitVec 16) : (s.record k pl n v g).disp = s.disp := rfl
@[simp] theorem State.record_host (s : State) (k : Commit) (pl : Place) (n v : Nat) (g : BitVec 16) : (s.record k pl n v g).host = s.host := rfl
@[simp] theorem State.record_walks (s : State) (k : Commit) (pl : Place) (n v : Nat) (g : BitVec 16) : (s.record k pl n v g).walks = s.walks := rfl
@[simp] theorem State.record_missWait (s : State) (k : Commit) (pl : Place) (n v : Nat) (g : BitVec 16) : (s.record k pl n v g).missWait = s.missWait := rfl
@[simp] theorem State.record_tlbiOps (s : State) (k : Commit) (pl : Place) (n v : Nat) (g : BitVec 16) : (s.record k pl n v g).tlbiOps = s.tlbiOps := rfl
@[simp] theorem State.record_ships (s : State) (k : Commit) (pl : Place) (n v : Nat) (g : BitVec 16) : (s.record k pl n v g).ships = s.ships := rfl
@[simp] theorem State.record_ports (s : State) (k : Commit) (pl : Place) (n v : Nat) (g : BitVec 16) : (s.record k pl n v g).ports = s.ports := rfl
@[simp] theorem State.record_smps (s : State) (k : Commit) (pl : Place) (n v : Nat) (g : BitVec 16) : (s.record k pl n v g).smps = s.smps := rfl
@[simp] theorem State.record_gives (s : State) (k : Commit) (pl : Place) (n v : Nat) (g : BitVec 16) : (s.record k pl n v g).gives = s.gives := rfl
@[simp] theorem State.record_takes (s : State) (k : Commit) (pl : Place) (n v : Nat) (g : BitVec 16) : (s.record k pl n v g).takes = s.takes := rfl
@[simp] theorem State.record_nextId (s : State) (k : Commit) (pl : Place) (n v : Nat) (g : BitVec 16) : (s.record k pl n v g).nextId = s.nextId := rfl
@[simp] theorem State.record_free (s : State) (k : Commit) (pl : Place) (n v : Nat) (g : BitVec 16) : (s.record k pl n v g).free = s.free := rfl
@[simp] theorem State.record_cur (s : State) (k : Commit) (pl : Place) (n v : Nat) (g : BitVec 16) : (s.record k pl n v g).cur = s.cur := rfl
@[simp] theorem State.record_turn (s : State) (k : Commit) (pl : Place) (n v : Nat) (g : BitVec 16) : (s.record k pl n v g).turn = s.turn := rfl
@[simp] theorem State.record_due (s : State) (k : Commit) (pl : Place) (n v : Nat) (g : BitVec 16) : (s.record k pl n v g).due = s.due := rfl
@[simp] theorem State.record_inputs (s : State) (k : Commit) (pl : Place) (n v : Nat) (g : BitVec 16) : (s.record k pl n v g).inputs = s.inputs := rfl

@[simp] theorem State.gain_cycle (s : State) (u : Nat) (f : Front) : (s.gain u f).cycle = s.cycle := by unfold State.gain; split <;> rfl
@[simp] theorem State.gain_tsZero (s : State) (u : Nat) (f : Front) : (s.gain u f).tsZero = s.tsZero := by unfold State.gain; split <;> rfl
@[simp] theorem State.gain_cores (s : State) (u : Nat) (f : Front) : (s.gain u f).cores = s.cores := by unfold State.gain; split <;> rfl
@[simp] theorem State.gain_squares (s : State) (u : Nat) (f : Front) : (s.gain u f).squares = s.squares := by unfold State.gain; split <;> rfl
@[simp] theorem State.gain_hbm (s : State) (u : Nat) (f : Front) : (s.gain u f).hbm = s.hbm := by unfold State.gain; split <;> rfl
@[simp] theorem State.gain_hostMem (s : State) (u : Nat) (f : Front) : (s.gain u f).hostMem = s.hostMem := by unfold State.gain; split <;> rfl
@[simp] theorem State.gain_disp (s : State) (u : Nat) (f : Front) : (s.gain u f).disp = s.disp := by unfold State.gain; split <;> rfl
@[simp] theorem State.gain_host (s : State) (u : Nat) (f : Front) : (s.gain u f).host = s.host := by unfold State.gain; split <;> rfl
@[simp] theorem State.gain_walks (s : State) (u : Nat) (f : Front) : (s.gain u f).walks = s.walks := by unfold State.gain; split <;> rfl
@[simp] theorem State.gain_missWait (s : State) (u : Nat) (f : Front) : (s.gain u f).missWait = s.missWait := by unfold State.gain; split <;> rfl
@[simp] theorem State.gain_tlbiOps (s : State) (u : Nat) (f : Front) : (s.gain u f).tlbiOps = s.tlbiOps := by unfold State.gain; split <;> rfl
@[simp] theorem State.gain_ships (s : State) (u : Nat) (f : Front) : (s.gain u f).ships = s.ships := by unfold State.gain; split <;> rfl
@[simp] theorem State.gain_ports (s : State) (u : Nat) (f : Front) : (s.gain u f).ports = s.ports := by unfold State.gain; split <;> rfl
@[simp] theorem State.gain_smps (s : State) (u : Nat) (f : Front) : (s.gain u f).smps = s.smps := by unfold State.gain; split <;> rfl
@[simp] theorem State.gain_gives (s : State) (u : Nat) (f : Front) : (s.gain u f).gives = s.gives := by unfold State.gain; split <;> rfl
@[simp] theorem State.gain_takes (s : State) (u : Nat) (f : Front) : (s.gain u f).takes = s.takes := by unfold State.gain; split <;> rfl
@[simp] theorem State.gain_nextId (s : State) (u : Nat) (f : Front) : (s.gain u f).nextId = s.nextId := by unfold State.gain; split <;> rfl
@[simp] theorem State.gain_free (s : State) (u : Nat) (f : Front) : (s.gain u f).free = s.free := by unfold State.gain; split <;> rfl
@[simp] theorem State.gain_cur (s : State) (u : Nat) (f : Front) : (s.gain u f).cur = s.cur := by unfold State.gain; split <;> rfl
@[simp] theorem State.gain_turn (s : State) (u : Nat) (f : Front) : (s.gain u f).turn = s.turn := by unfold State.gain; split <;> rfl
@[simp] theorem State.gain_due (s : State) (u : Nat) (f : Front) : (s.gain u f).due = s.due := by unfold State.gain; split <;> rfl
@[simp] theorem State.gain_inputs (s : State) (u : Nat) (f : Front) : (s.gain u f).inputs = s.inputs := by unfold State.gain; split <;> rfl

@[simp] theorem State.see_cycle (s : State) (u : Nat) (l : List (Place × Wr)) : (s.see u l).cycle = s.cycle := State.gain_cycle s u _
@[simp] theorem State.see_tsZero (s : State) (u : Nat) (l : List (Place × Wr)) : (s.see u l).tsZero = s.tsZero := State.gain_tsZero s u _
@[simp] theorem State.see_cores (s : State) (u : Nat) (l : List (Place × Wr)) : (s.see u l).cores = s.cores := State.gain_cores s u _
@[simp] theorem State.see_squares (s : State) (u : Nat) (l : List (Place × Wr)) : (s.see u l).squares = s.squares := State.gain_squares s u _
@[simp] theorem State.see_hbm (s : State) (u : Nat) (l : List (Place × Wr)) : (s.see u l).hbm = s.hbm := State.gain_hbm s u _
@[simp] theorem State.see_hostMem (s : State) (u : Nat) (l : List (Place × Wr)) : (s.see u l).hostMem = s.hostMem := State.gain_hostMem s u _
@[simp] theorem State.see_disp (s : State) (u : Nat) (l : List (Place × Wr)) : (s.see u l).disp = s.disp := State.gain_disp s u _
@[simp] theorem State.see_host (s : State) (u : Nat) (l : List (Place × Wr)) : (s.see u l).host = s.host := State.gain_host s u _
@[simp] theorem State.see_walks (s : State) (u : Nat) (l : List (Place × Wr)) : (s.see u l).walks = s.walks := State.gain_walks s u _
@[simp] theorem State.see_missWait (s : State) (u : Nat) (l : List (Place × Wr)) : (s.see u l).missWait = s.missWait := State.gain_missWait s u _
@[simp] theorem State.see_tlbiOps (s : State) (u : Nat) (l : List (Place × Wr)) : (s.see u l).tlbiOps = s.tlbiOps := State.gain_tlbiOps s u _
@[simp] theorem State.see_ships (s : State) (u : Nat) (l : List (Place × Wr)) : (s.see u l).ships = s.ships := State.gain_ships s u _
@[simp] theorem State.see_ports (s : State) (u : Nat) (l : List (Place × Wr)) : (s.see u l).ports = s.ports := State.gain_ports s u _
@[simp] theorem State.see_smps (s : State) (u : Nat) (l : List (Place × Wr)) : (s.see u l).smps = s.smps := State.gain_smps s u _
@[simp] theorem State.see_gives (s : State) (u : Nat) (l : List (Place × Wr)) : (s.see u l).gives = s.gives := State.gain_gives s u _
@[simp] theorem State.see_takes (s : State) (u : Nat) (l : List (Place × Wr)) : (s.see u l).takes = s.takes := State.gain_takes s u _
@[simp] theorem State.see_nextId (s : State) (u : Nat) (l : List (Place × Wr)) : (s.see u l).nextId = s.nextId := State.gain_nextId s u _
@[simp] theorem State.see_free (s : State) (u : Nat) (l : List (Place × Wr)) : (s.see u l).free = s.free := State.gain_free s u _
@[simp] theorem State.see_cur (s : State) (u : Nat) (l : List (Place × Wr)) : (s.see u l).cur = s.cur := State.gain_cur s u _
@[simp] theorem State.see_turn (s : State) (u : Nat) (l : List (Place × Wr)) : (s.see u l).turn = s.turn := State.gain_turn s u _
@[simp] theorem State.see_due (s : State) (u : Nat) (l : List (Place × Wr)) : (s.see u l).due = s.due := State.gain_due s u _
@[simp] theorem State.see_inputs (s : State) (u : Nat) (l : List (Place × Wr)) : (s.see u l).inputs = s.inputs := State.gain_inputs s u _

@[simp] theorem State.modOrd_ord (s : State) (f : Order → Order) : (s.modOrd f).ord = f s.ord := rfl
@[simp] theorem State.setChan_wsets (s : State) (c : Chan) (f : Front) : (s.setChan c f).ord.wsets = s.ord.wsets := rfl
@[simp] theorem State.setChan_fronts (s : State) (c : Chan) (f : Front) : (s.setChan c f).ord.fronts = s.ord.fronts := rfl
@[simp] theorem State.gain_wsets (s : State) (u : Nat) (f : Front) : (s.gain u f).ord.wsets = s.ord.wsets := by
  unfold State.gain; split <;> rfl
@[simp] theorem State.gain_chans (s : State) (u : Nat) (f : Front) : (s.gain u f).ord.chans = s.ord.chans := by
  unfold State.gain; split <;> rfl
@[simp] theorem State.see_wsets (s : State) (u : Nat) (l : List (Place × Wr)) : (s.see u l).ord.wsets = s.ord.wsets := State.gain_wsets s u _

/-- What is put into a channel is what it holds. -/
theorem State.chan_setChan (s : State) (c : Chan) (f : Front) : (s.setChan c f).chan c = f := by
  have h : ((s.ord.chans.filter (fun e => e.1 != c)) ++ [(c, f)]).find? (fun e => e.1 == c) = some (c, f) := by
    rw [List.find?_append, List.find?_eq_none.mpr]
    · simp
    · intro x hx
      simpa using (List.mem_filter.mp hx).2
  unfold State.chan State.setChan State.modOrd
  dsimp only
  rw [h]

/-! ## Memory -/

@[simp] theorem State.readAt_modOrd (s : State) (f : Order → Order) (pl : Place) (n : Nat) (own : BitVec 16) :
    (s.modOrd f).readAt pl n own = s.readAt pl n own := by cases pl <;> rfl

theorem State.record_canonical (s : State) (k : Commit) (pl : Place) (n v : Nat) (g : BitVec 16) (h : s.canonical = true) :
    (s.record k pl n v g).canonical = true := h

theorem State.readAt_gain (s : State) (u : Nat) (f : Front) (pl : Place) (n : Nat) (own : BitVec 16) :
    (s.gain u f).readAt pl n own = s.readAt pl n own := by
  unfold State.gain
  split
  · rfl
  · exact State.readAt_modOrd s _ pl n own

/-- A Commit keeps the memories in canonical form. -/
theorem State.commit_canonical (s : State) (k : Commit) (pl : Place) (n v : Nat) (own : BitVec 16) (h : s.canonical = true) :
    (s.commit k pl n v own).canonical = true := by
  unfold State.commit
  split
  · exact h
  · exact State.writeAt_canonical _ _ _ _ _ h
  · exact State.writeAt_canonical _ _ _ _ _ h
  · split
    · exact h
    · exact State.writeAt_canonical _ _ _ _ _ h

/-- A Read changes nothing but the count of free values drawn. -/
theorem State.weakRead_state (s : State) (r : Reader) (own : BitVec 16) (also : Place → Wr → Bool) (pl : Place) (n : Nat) :
    (s.weakRead r own also pl n).2.2 = s ∨ (s.weakRead r own also pl n).2.2 = s.draw.2 := by
  unfold State.weakRead State.viewRead
  split
  · exact .inr rfl
  · exact .inl rfl

/-- The writes of a byte that memory's newest write leaves open are none where it is the only one. -/
theorem State.older_single {s : State} {pl : Place} (r : Reader) (own : BitVec 16) (also : Place → Wr → Bool)
    (h : (s.wset pl).length ≤ 1) : s.older r own also pl = [] := by
  have hd : (s.wset pl).drop 1 = [] := List.drop_eq_nil_of_le h
  unfold State.older
  rw [hd, List.filter_nil, ite_self]

end Sys2Proof.Machine
end

