-- ==== Sys2Proof/Tests/Slice0.lean ====
section
/-! SUPPORT. Tests: words of the spec's encodings, ill-formed terms, single steps, and for every obligation that has hypotheses a
named theorem with states and operands that meet them. -/

namespace Sys2Proof.Tests
open Sys2Proof Sys2Proof.Machine

set_option Elab.async false

/-! ## Small states -/

/-- The machine after reset with i as the next instruction of a context in slot 0 of core 0. -/
def cpu (i : Instr) : State := { State.reset.withFetchWord 32 ((encode i).getD 0).toNat with turn := none }
def onCore (f : Core → Core) (s : State) : State := s.modCore 0 f
def onMe (f : Ctx → Ctx) (s : State) : State := s.modCtx 0 0 f
def onReg (f : RegF) (v : Word) (s : State) : State :=
  onCore (fun k => k.writeReg (k.ctx 0) f.toNat { val := v, cnt := 127, inx := false }) s
def onTag (f : RegF) (v : Word) (c : BitVec 7) (x : Bool) (s : State) : State :=
  onCore (fun k => k.writeReg (k.ctx 0) f.toNat { val := v, cnt := c, inx := x }) s
/-- Eight bytes of HBM. -/
def put8 (a v : Nat) (s : State) : State := { s with hbm := Memory.write s.hbm a v 8 }
/-- A descriptor table at 0x100000 whose tenant 0 has one 32 MiB page that user programs may read, write and execute. -/
def tabs (s : State) : State :=
  put8 0x101000 0x200001 (put8 0x200000 0x300001 (put8 0x300000 0x3F (s.modHost (fun h => { h with table := some 0x100000 }))))
def iv (v : Word) : TVal := { val := v, cnt := 127, inx := false }

/-! ## What a computation gives -/

def good {ε α : Type} : Except ε α → Bool
  | .ok _ => true
  | .error _ => false

def okGet {ε α : Type} : (m : Except ε α) → good m = true → α
  | .ok v, _ => v

theorem ok_of {ε α : Type} : {m : Except ε α} → (h : good m = true) → m = .ok (okGet m h)
  | .ok _, _ => rfl

theorem ok2_of {ε α β : Type} {m : Except ε (α × β)} (h : good m = true) : m = .ok ((okGet m h).1, (okGet m h).2) := ok_of h

theorem some_of {α : Type} {o : Option α} (h : o.isSome = true) : o = some (o.get h) := (Option.some_get h).symm

theorem uncons_of {α : Type} {l : List α} (h : l.isEmpty = false) : l = l.head (by rintro rfl; simp at h) :: l.tail :=
  (List.cons_head_tail _).symm

theorem single_of {α : Type} {l : List α} (h : l.length = 1) : l = [l.head (by rintro rfl; simp at h)] := by
  match l, h with
  | [a], _ => rfl

theorem pair_of {α : Type} {p : α × Bool} {b : Bool} (h : p.2 = b) : p = (p.1, b) := by rw [← h]

theorem found_of {e : Env} {p : Word} {n : Nat} {op : Op} {pd : Bool} {s : State}
    (h : good (resolve p n op pd e s) = true)
    (h2 : (okGet (resolve p n op pd e s) h).1.2 = none) :
    Finds e p n op pd s (okGet (resolve p n op pd e s) h).1.1 (okGet (resolve p n op pd e s) h).2 := by
  have h1 := ok_of h
  generalize okGet (resolve p n op pd e s) h = q at h1 h2 ⊢
  obtain ⟨⟨l, o⟩, t⟩ := q
  subst h2
  exact h1

theorem ready_of {e : Env} {f : RegF} {s : State} (h : good (readyDest f e s) = true) :
    Ready e f s (okGet (readyDest f e s) h).1 (okGet (readyDest f e s) h).2 := ok_of h

theorem ready_none {e : Env} {f : RegF} {s : State}
    (h : (match readyDest f e s with | .ok (a, t) => decide (a = none ∧ t = s) | .error _ => false) = true) : Ready e f s none s := by
  unfold Ready
  split at h
  · simp at h; obtain ⟨rfl, rfl⟩ := h; assumption
  · simp at h

def errGet {ε α : Type} : (m : Except ε α) → good m = false → ε
  | .error f, _ => f
theorem error_of {ε α : Type} : {m : Except ε α} → (h : good m = false) → m = .error (errGet m h)
  | .error _, _ => rfl
theorem unit_of {m : M Unit} {e : Env} {s : State} (h : (match m e s with | .ok (_, t) => decide (t = s) | .error _ => false) = true) :
    m e s = .ok ((), s) := by
  split at h
  next t run => exact run.trans (congrArg (fun q => Except.ok ((), q)) (of_decide_eq_true h))
  next => nomatch h

theorem and_of_left {a b : Bool} (h : a = false) : (a && b) = false := by rw [h]; rfl

theorem ne_of_none {α : Type} {o : Option α} {v : α} (h : o.isNone = true) : o ≠ some v := by
  rintro rfl; simp at h

theorem hbm_of {x : Except Stop ((Place × Nat) × State)} {m : Nat} (h : good x = true) (hm : (okGet x h).1.1 = .hbm m) :
    x = .ok ((.hbm m, (okGet x h).1.2), (okGet x h).2) := by
  have h1 := ok_of h
  generalize okGet x h = q at h1 hm ⊢
  obtain ⟨⟨p, l⟩, t⟩ := q
  subst hm
  exact h1

theorem some2_of {α β : Type} {o : Option (α × β)} (h : o.isSome = true) : o = some ((o.get h).1, (o.get h).2) := some_of h

theorem snd_of {α β : Type} [DecidableEq α] {o : Option (α × β)} {a : α} (h : o.isSome = true) (ha : (o.get h).1 = a) :
    o = some (a, (o.get h).2) := by subst ha; exact some_of h

theorem only_one {α : Type} {l : List α} {a : α} {n : Nat} (h : l = [a]) : l[n % l.length]? = some a := by
  subst h; simp [Nat.mod_one]

/-- The way of a conditional that is not taken. -/
theorem else_rfl {c p : Prop} [Decidable c] {α : Type} {a : α} (h : ¬c) : if c then p else a = a := by rw [if_neg h]

theorem done_of {ε α : Type} {m : Except ε Unit × α} (h : good m.1 = true) : m = (.ok (), m.2) :=
  Prod.ext (ok_of h) rfl

def failOf : Except RFail Unit → RFail
  | .error f => f
  | .ok _ => { status := 0 }

theorem stopped_of {α : Type} {m : Except RFail Unit × α} (h : good m.1 = false) : m = (.error (failOf m.1), m.2) := by
  obtain ⟨_ | _, x⟩ := m
  · rfl
  · simp [good] at h

/-- The way of a conditional that is taken. -/
theorem then_of {c p q : Prop} [Decidable c] (hc : c) (h : p) : if c then p else q := by rw [if_pos hc]; exact h
theorem noSmpw_of {s : State} (h : s.cores.all (fun e => e.2.ctxs.all (fun p => p.2.loads.all (fun l => decide (l.smpwId = none)))) = true) :
    ∀ d, ∀ p ∈ (s.core d).ctxs, ∀ l ∈ p.2.loads, l.smpwId = none := by
  intro d
  have h1 := SMap.get_all s.cores Core.reset d (fun k => k.ctxs.all (fun p => p.2.loads.all (fun l => decide (l.smpwId = none)))) rfl h
  intro p hp l hl
  simpa using List.all_eq_true.mp (List.all_eq_true.mp h1 p hp) l hl

theorem half : (FVal.fin false 5 (-1)).rat = (5 : ℚ) / 2 := by norm_num [FVal.rat]
theorem half_floor : ((5 : ℚ) / 2).floor = 2 := by decide +kernel
theorem one16 : (opdOf f16 (iv 0x3C00) 0).v.rat = 1 := by
  rw [show (opdOf f16 (iv 0x3C00) 0).v = .fin false 1024 (-10) by decide +kernel]; norm_num [FVal.rat]

/-! ## Words of the spec's encodings

Each word is written as the fields of its encoding (R82 to R104): place of the lowest bit, and value. -/

def word (l : List (Nat × Nat)) : IWord := BitVec.ofNat 32 (l.foldl (fun n p => n + p.2 * 2 ^ p.1) 0)

theorem test_decode_integer_1 : ∀ r ∈ ([
    (word [(26, 1), (19, 5), (12, 6), (5, 7)], .add 5 6 7),
    (word [(26, 1), (19, 5), (12, 6), (5, 7), (0, 1)], .sub 5 6 7),
    (word [(26, 1), (19, 5), (12, 6), (5, 7), (0, 2)], .mul 5 6 7),
    (word [(26, 1), (19, 5), (12, 6), (5, 7), (0, 3)], .mulh 5 6 7),
    (word [(26, 1), (19, 5), (12, 6), (5, 7), (0, 4)], .mulhn 5 6 7),
    (word [(26, 1), (19, 5), (12, 6), (5, 7), (0, 5)], .div 5 6 7),
    (word [(26, 1), (19, 5), (12, 6), (5, 7), (0, 6)], .divn 5 6 7),
    (word [(26, 1), (19, 5), (12, 6), (5, 7), (0, 7)], .rem 5 6 7),
    (word [(26, 1), (19, 5), (12, 6), (5, 7), (0, 8)], .remn 5 6 7),
    (word [(26, 1), (19, 5), (12, 6), (5, 7), (0, 9)], .and 5 6 7),
    (word [(26, 1), (19, 5), (12, 6), (5, 7), (0, 10)], .or 5 6 7),
    (word [(26, 1), (19, 5), (12, 6), (5, 7), (0, 11)], .xor 5 6 7),
    (word [(26, 1), (19, 5), (12, 6), (5, 7), (0, 12)], .shl 5 6 7),
    (word [(26, 1), (19, 5), (12, 6), (5, 7), (0, 13)], .shr 5 6 7),
    (word [(26, 1), (19, 5), (12, 6), (5, 7), (0, 14)], .sra 5 6 7),
    (word [(26, 1), (19, 5), (12, 6), (5, 7), (0, 15)], .min 5 6 7),
    (word [(26, 1), (19, 5), (12, 6), (5, 7), (0, 16)], .max 5 6 7),
    (word [(26, 1), (19, 5), (12, 6), (5, 7), (0, 17)], .minn 5 6 7),
    (word [(26, 1), (19, 5), (12, 6), (5, 7), (0, 18)], .maxn 5 6 7),
    (word [(26, 1), (19, 5), (12, 6), (5, 7), (0, 19)], .slt 5 6 7),
    (word [(26, 1), (19, 5), (12, 6), (5, 7), (0, 20)], .sltn 5 6 7),
    (word [(26, 1), (19, 5), (12, 6), (5, 7), (0, 21)], .seq 5 6 7),
    (word [(26, 1), (19, 5), (12, 6), (5, 7), (0, 22)], .sel 5 6 7),
    (word [(26, 1), (19, 5), (12, 6), (0, 23)], .clz 5 6),
    (word [(26, 1), (19, 5), (12, 6), (0, 24)], .ctz 5 6),
    (word [(26, 1), (19, 5), (12, 6), (0, 25)], .pop 5 6),
    (word [(26, 1), (19, 5), (12, 6), (5, 7), (0, 26)], .perm 5 6 7),
    (word [(26, 2), (19, 5), (12, 6), (0, 4093)], .addi 5 6 (-3)),
    (word [(26, 3), (19, 5), (12, 6), (0, 4093)], .andi 5 6 (-3)),
    (word [(26, 4), (19, 5), (12, 6), (0, 4093)], .ori 5 6 (-3))] : List (IWord × Instr)), decode r.1 = .ok r.2 := by decide +kernel

theorem test_decode_integer_2 : ∀ r ∈ ([
    (word [(26, 5), (19, 5), (12, 6), (0, 4093)], .xori 5 6 (-3)),
    (word [(26, 6), (19, 5), (12, 6), (0, 62)], .shli 5 6 62),
    (word [(26, 6), (19, 5), (12, 6), (6, 16), (0, 62)], .shri 5 6 62),
    (word [(26, 6), (19, 5), (12, 6), (6, 32), (0, 62)], .srai 5 6 62),
    (word [(26, 7), (19, 5), (12, 6), (0, 2045)], .slti 5 6 (-3)),
    (word [(26, 7), (19, 5), (12, 6), (11, 1), (0, 2045)], .sltni 5 6 (-3)),
    (word [(26, 8), (19, 5), (0, 524285)], .lui 5 (-3)),
    (word [(26, 9), (19, 5), (0, 524285)], .addpc 5 (-3)),
    (word [(26, 10), (19, 5), (12, 6), (5, 62), (0, 30)], .bfx 5 6 62 30),
    (word [(26, 10), (19, 5), (12, 6), (11, 1), (5, 62), (0, 30)], .bfi 5 6 62 30)] : List (IWord × Instr)), decode r.1 = .ok r.2 := by decide +kernel

theorem test_decode_branches : ∀ r ∈ ([
    (word [(26, 11), (19, 6), (12, 7), (0, 4093)], .beq 6 7 (-3)),
    (word [(26, 12), (19, 6), (12, 7), (0, 4093)], .bne 6 7 (-3)),
    (word [(26, 13), (19, 6), (12, 7), (0, 4093)], .blt 6 7 (-3)),
    (word [(26, 14), (19, 6), (12, 7), (0, 4093)], .bge 6 7 (-3)),
    (word [(26, 15), (19, 6), (12, 7), (0, 4093)], .bltn 6 7 (-3)),
    (word [(26, 16), (19, 6), (12, 7), (0, 4093)], .bgen 6 7 (-3)),
    (word [(26, 17), (19, 6), (12, 126), (0, 4093)], .bsig 6 126 (-3)),
    (word [(26, 18), (0, 67108861)], .b (-3)),
    (word [(26, 19), (0, 67108861)], .bl (-3)),
    (word [(26, 20), (19, 5), (12, 6), (0, 4093)], .jr 5 6 (-3))] : List (IWord × Instr)), decode r.1 = .ok r.2 := by decide +kernel

theorem test_decode_memory : ∀ r ∈ ([
    (word [(26, 21), (19, 5), (12, 6), (9, 2), (7, 1), (0, 125)], .ld 5 6 .i16 .acq (-3)),
    (word [(26, 21), (19, 5), (12, 6), (9, 3), (0, 125)], .ld 5 6 .n16 .plain (-3)),
    (word [(26, 21), (19, 5), (12, 6), (9, 4), (7, 1), (0, 125)], .ld 5 6 .i32 .acq (-3)),
    (word [(26, 21), (19, 5), (12, 6), (9, 3), (7, 2), (0, 125)], .ldGo 5 6 .n16 (-3)),
    (word [(26, 22), (19, 5), (12, 6), (9, 2), (7, 2), (0, 125)], .st 5 6 .i16 .posted (-3)),
    (word [(26, 22), (19, 5), (12, 6), (9, 4), (0, 125)], .st 5 6 .i32 .plain (-3)),
    (word [(26, 22), (19, 5), (12, 6), (9, 6), (7, 1), (0, 125)], .st 5 6 .d .rel (-3)),
    (word [(26, 23), (19, 5), (12, 6), (7, 24), (0, 125)], .ldt 5 6 (-3)),
    (word [(26, 23), (19, 5), (12, 6), (7, 25), (0, 125)], .stt 5 6 (-3)),
    (word [(26, 24), (19, 5), (12, 6), (7, 24), (0, 125)], .ldfe 5 6 (-3)),
    (word [(26, 24), (19, 5), (12, 6), (7, 25), (0, 125)], .ldff 5 6 (-3)),
    (word [(26, 24), (19, 5), (12, 6), (7, 26), (0, 125)], .stfe 5 6 (-3)),
    (word [(19, 3072), (12, 6), (7, 27), (0, 125)], .sete 6 (-3)),
    (word [(26, 25), (19, 5), (12, 6), (5, 7), (1, 6)], .amo .minn .sq 5 6 7),
    (word [(26, 25), (19, 5), (12, 6), (5, 7), (1, 7), (0, 1)], .amo .maxn .dev 5 6 7),
    (word [(26, 25), (19, 5), (12, 6), (5, 7), (1, 8)], .amo .swap .sq 5 6 7),
    (word [(26, 26), (19, 5), (12, 6), (5, 7), (0, 1)], .cas .dev 5 6 7),
    (word [(5, 56623104), (3, 2), (0, 2)], .fence .rel .sq),
    (word [(5, 56623104), (0, 3)], .fence .full .part),
    (word [(5, 56623104), (3, 1), (0, 4)], .fence .acq .dev),
    (word [(26, 28), (19, 5), (12, 6)], .spc 5 6),
    (word [(26, 28), (19, 5), (12, 6), (0, 1)], .cvspLoc 5 6),
    (word [(26, 28), (19, 5), (12, 6), (0, 2)], .cvspSq 5 6),
    (word [(26, 28), (19, 5), (12, 6), (0, 3)], .cvspRem 5 6)] : List (IWord × Instr)), decode r.1 = .ok r.2 := by decide +kernel

theorem test_decode_floating_point : ∀ r ∈ ([
    (word [(26, 33), (19, 5), (12, 6), (5, 7)], .fadd .f32x2 5 6 7),
    (word [(26, 34), (19, 5), (12, 6), (5, 7), (0, 1)], .fsub .f16x4 5 6 7),
    (word [(26, 35), (19, 5), (12, 6), (5, 7), (0, 2)], .fmul .b16x4 5 6 7),
    (word [(26, 29), (19, 5), (12, 6), (5, 7), (0, 3)], .fma .f64 5 6 7),
    (word [(26, 30), (19, 5), (12, 6), (5, 7), (0, 4)], .fnma .f32 5 6 7),
    (word [(26, 31), (19, 5), (12, 6), (5, 7), (0, 5)], .fdiv .f16 5 6 7),
    (word [(26, 32), (19, 5), (12, 6), (0, 6)], .fsqrt .b16 5 6),
    (word [(26, 33), (19, 5), (12, 6), (5, 7), (0, 7)], .fmin .f32x2 5 6 7),
    (word [(26, 34), (19, 5), (12, 6), (5, 7), (0, 8)], .fmax .f16x4 5 6 7),
    (word [(26, 35), (19, 5), (12, 6), (0, 9)], .fneg .b16x4 5 6),
    (word [(26, 29), (19, 5), (12, 6), (0, 10)], .fabs .f64 5 6),
    (word [(26, 30), (19, 5), (12, 6), (5, 7), (0, 11)], .fcmp .f32 5 6 7),
    (word [(26, 31), (19, 5), (12, 6), (0, 12)], .fcls .f16 5 6),
    (word [(26, 32), (19, 5), (12, 6), (0, 13)], .frcp .b16 5 6),
    (word [(26, 33), (19, 5), (12, 6), (0, 14)], .fex2 .f32x2 5 6),
    (word [(26, 34), (19, 5), (12, 6), (0, 15)], .flg2 .f16x4 5 6),
    (word [(26, 36), (19, 5), (12, 6), (9, 3), (6, 4), (3, 1)], .fcvt .e4m3 .f32 .rup 5 6),
    (word [(26, 36), (19, 5), (12, 6), (9, 4), (0, 2)], .fcvi .i32 .f64 .rdn 5 6),
    (word [(26, 36), (19, 5), (12, 6), (6, 1), (3, 1), (0, 4)], .icvf .f32 .n32 .dyn 5 6),
    (word [(26, 37), (19, 5), (12, 6)], .sigr 5 6),
    (word [(26, 37), (19, 5), (12, 6), (7, 16), (0, 64)], .sigw 5 6 64),
    (word [(26, 38), (19, 5), (12, 6), (5, 7)], .qblkI8 5 6 7),
    (word [(26, 38), (19, 5), (12, 6), (5, 7), (0, 1)], .qblkI4 5 6 7),
    (word [(26, 38), (19, 5), (12, 6), (5, 7), (0, 2)], .fscl 5 6 7)] : List (IWord × Instr)), decode r.1 = .ok r.2 := by decide +kernel

theorem test_decode_contexts : ∀ r ∈ ([
    (word [(0, 2617245696)], .exit),
    (word [(0, 2617245697)], .yield),
    (word [(19, 4992), (12, 9), (0, 2)], .pass 9),
    (word [(26, 39), (19, 5), (0, 3)], .take 5),
    (word [(19, 4992), (12, 6), (0, 4)], .go 6),
    (word [(19, 4992), (12, 6), (0, 5)], .susp 6),
    (word [(26, 39), (19, 5), (12, 6), (0, 6)], .spawn 5 6),
    (word [(26, 39), (19, 5), (12, 6), (0, 7)], .spawnTry 5 6),
    (word [(26, 39), (19, 5), (12, 6), (0, 8)], .spawnW 5 6),
    (word [(26, 39), (19, 5), (12, 6), (0, 9)], .ctxnew 5 6),
    (word [(19, 4992), (12, 6), (0, 10)], .ctxkill 6),
    (word [(19, 4992), (12, 6), (0, 11)], .hold 6),
    (word [(25, 80), (20, 30), (15, 30), (10, 30), (5, 30), (0, 30)], .wait 30 30 30 30 30),
    (word [(3, 343932928), (0, 6)], .bar 6),
    (word [(3, 343933184), (0, 6)], .barw 6),
    (word [(4, 176160768), (0, 14)], .semp 14),
    (word [(4, 176160896), (0, 14)], .semv 14),
    (word [(0, 2885681152)], .one),
    (word [(26, 44), (22, 15), (15, 1), (8, 100), (2, 27)], .rep 15 1 100 27),
    (word [(26, 44), (19, 5), (12, 6), (0, 1)], .sbind 5 6),
    (word [(26, 44), (19, 5), (0, 2)], .sfree 5)] : List (IWord × Instr)), decode r.1 = .ok r.2 := by decide +kernel

theorem test_decode_engines : ∀ r ∈ ([
    (word [(26, 45), (19, 5), (12, 6), (5, 7)], .gnewZero 5 6 7),
    (word [(26, 45), (19, 5), (12, 6), (5, 7), (0, 1)], .gnewTrap 5 6 7),
    (word [(19, 5760), (12, 6), (0, 2)], .gfree 6),
    (word [(26, 45), (19, 5), (12, 6), (0, 3)], .gchk 5 6),
    (word [(22, 737), (15, 6), (8, 7), (4, 6)], .cpy 6 7 6),
    (word [(22, 737), (15, 6), (8, 7), (4, 6), (0, 1)], .cpym 6 7 6),
    (word [(22, 737), (15, 6), (8, 7), (4, 6), (0, 2)], .deal 6 7 6),
    (word [(22, 737), (15, 6), (8, 7), (4, 6), (0, 3)], .bkt 6 7 6),
    (word [(22, 737), (15, 6), (0, 4)], .qfen .ctx 6),
    (word [(22, 754), (15, 6), (8, 7)], .mld 6 7),
    (word [(22, 754), (15, 6), (8, 7), (0, 1)], .mmul 6 7),
    (word [(22, 754), (15, 6), (8, 7), (0, 2)], .mgrp 6 7),
    (word [(0, 3162505219)], .mzero),
    (word [(22, 754), (15, 6), (8, 7), (0, 4)], .mout 6 7),
    (word [(22, 754), (15, 6), (8, 7), (0, 5)], .mxa 6 7),
    (word [(22, 771), (15, 6), (8, 7)], .rcat 6 7),
    (word [(22, 771), (15, 6), (8, 7), (0, 1)], .rsplit 6 7),
    (word [(22, 771), (15, 6), (8, 7), (0, 2)], .rsplice 6 7),
    (word [(22, 771), (15, 6), (8, 7), (0, 3)], .rfind 6 7),
    (word [(22, 771), (15, 6), (8, 7), (0, 4)], .rfold 6 7),
    (word [(22, 771), (15, 6), (8, 7), (0, 5)], .rpin 6 7),
    (word [(22, 771), (15, 6), (8, 7), (0, 6)], .rref 6 7),
    (word [(22, 771), (15, 6), (8, 7), (0, 7)], .rdrop 6 7),
    (word [(22, 788), (15, 6), (8, 7)], .smp 6 7),
    (word [(22, 788), (15, 5), (0, 1)], .smpw 5),
    (word [(26, 50), (19, 5), (8, 2), (0, 1)], .erd .matrix 1 5),
    (word [(19, 6400), (12, 6), (11, 1), (8, 2), (0, 1)], .ewr .matrix 1 6)] : List (IWord × Instr)), decode r.1 = .ok r.2 := by decide +kernel

theorem test_decode_system : ∀ r ∈ ([
    (word [(0, 3422552064)], .nop),
    (word [(8, 13369345), (0, 254)], .trap 254),
    (word [(0, 3422552576)], .eret),
    (word [(8, 13369347), (0, 254)], .dbg 254),
    (word [(0, 3422553088)], .idle),
    (word [(26, 52), (19, 5), (0, 56)], .csrr 0x38 5),
    (word [(19, 6656), (12, 6), (10, 1), (0, 56)], .csrw 0x38 6),
    (word [(19, 6656), (12, 6), (10, 2), (0, 56)], .csrs 0x38 6),
    (word [(19, 6656), (12, 6), (10, 3), (0, 56)], .csrc 0x38 6),
    (word [(26, 53), (19, 5), (12, 6)], .cfgctx 5 6),
    (word [(19, 6784), (12, 6), (0, 1024)], .tlbi 6),
    (word [(0, 3556771840)], .gscrub)] : List (IWord × Instr)), decode r.1 = .ok r.2 := by decide +kernel

/-- Words that the spec calls reserved or unassigned decode to nothing (R83, R87 to R104). -/
theorem test_decode_refuses : ∀ r ∈ ([
    (0xFF000000, .major), (word [(26, 1), (19, 5), (12, 6), (5, 112), (0, 29)], .selector),
    (word [(26, 0x27), (0, 2)], .reservedValue), (word [(26, 0x27), (19, 2)], .reservedField)] : List (IWord × Reject)),
    decode r.1 = .error r.2 := by decide +kernel

/-! ## Ill-formed terms: one for each check of Instr.wf -/

theorem test_ill_formed : ∀ i ∈ ([
    .st 5 6 .n8 .plain 0, .fcvt .f32 .f32 .rne 5 6, .sigw 5 6 65, .pass 0, .pass 16, .rep 0 1 100 28, .erd .copy 0x82 5,
    .ewr .repeat 0x13 6, .erd .matrix 7 5, .ewr .rope 3 6, .erd .sample 6 5, .csrr 0x006 5, .csrw 0x013 6, .csrs 0x023 6, .csrc 0x061 6,
    .landingRingRedelivery 64, .launchSlotTake 64, .launchRingReturn 64, .launchSlotWrite 64 0 { off := 0 } 0,
    .launchSlotWrite 0 16 { off := 0 } 0, .launchSlotWrite 0 0 { off := 128 } 0, .launchSlotFull 64 { off := 0 }, .launchSlotFull 0 { off := 16 },
    .linkDown 12, .linkUp 12] :
    List Instr), i.wf = false := by decide +kernel

theorem test_ill_formed_events : ∀ i ∈ ([
    .peerAccessArrival 12 0 (.read 0 8), .peerAccessArrival 0 64 (.read 0 8), .temperatureHigh 4 0, .temperatureHalt 4 0,
    .temperatureHoldRelease 4 0, .tdispStateChange 64 .run [], .hostRead 1 { off := 0 }] : List Instr),
    i.wf = false ∧ (match exec i State.reset with | .next t => t.host.tele == HostSide.reset.tele && t.disp == Disp.reset | _ => false) = true := by
  decide +kernel

/-! ## Single steps

The expected values are the spec's own examples and tables, or worked out from its rules by hand. -/

/-- The state that i leaves. -/
def ran (i : Instr) (s : State) : State := match exec i s with | .next t => t | _ => s
/-- General register n of context 0. -/
def xr (n : Nat) (s : State) : TVal := (s.core 0).readReg (s.ctx 0 0) n
def two (i : Instr) (a b : Word) : State := onReg 6 a (onReg 7 b (cpu i))
def mine : Word := 0xF200000000000040
/-- The private word at 0x40 of core 0. -/
def atHome (v : Nat) (s : State) : State := onCore (fun k => k.lsWrite 1 0x40 8 v) s

/-- The first instruction after reset runs through a whole step (R13). -/
theorem test_step_runs : (match step ((onReg 6 2 (onReg 7 3 (State.reset.withFetchWord 32 0x042860E0)))) with
    | .next t => (xr 5 t).val == 5 && (t.ctx 0 0).pc == 4 | _ => false) = true := by decide +kernel
theorem test_decode_table_word : decodeTableWord 32 0x042860E0 = some (.add 5 6 7) := by decide +kernel
/-- R349, R48: the sum wraps, and the tag of an integer result is (127, 0). -/
theorem test_add_wraps : xr 5 (ran (.add 5 6 7) (two (.add 5 6 7) 0xFFFFFFFFFFFFFFFF 1)) = iv 0 := by decide +kernel
/-- R409. -/
theorem test_mulh_sign : xr 5 (ran (.mulh 5 6 7) (two (.mulh 5 6 7) (-1) 3)) = iv (-1) := by decide +kernel
/-- R121: the table of division corners. -/
theorem test_div_by_zero : xr 5 (ran (.div 5 6 7) (two (.div 5 6 7) 9 0)) = iv (-1) := by decide +kernel
theorem test_div_overflow : xr 5 (ran (.div 5 6 7) (two (.div 5 6 7) 0x8000000000000000 (-1))) = iv 0x8000000000000000 := by decide +kernel
theorem test_rem_by_zero : xr 5 (ran (.rem 5 6 7) (two (.rem 5 6 7) 9 0)) = iv 9 := by decide +kernel
/-- R50: x0 discards what is written. -/
theorem test_x0 : xr 0 (ran (.add 0 6 7) (two (.add 0 6 7) 1 2)) = iv 0 := by decide +kernel
/-- R360: the offset counts words from the branch itself. -/
theorem test_bne_taken : ((ran (.bne 6 7 (-3)) (onMe (fun x => { x with pc := 64 }) (two (.bne 6 7 (-3)) 1 2))).ctx 0 0).pc = 52 := by
  decide +kernel
/-- R398: a signed byte load extends its sign. -/
theorem test_ld_sign : xr 5 (ran (.ld 5 6 .i8 .plain 0) (onReg 6 mine (atHome 0x80 (cpu (.ld 5 6 .i8 .plain 0))))) = iv (-128) := by
  decide +kernel
/-- R90: a misaligned address traps; with no handler the context ends (R310). -/
theorem test_ld_misaligned : ((ran (.ld 5 6 .d .plain 0) (onReg 6 (mine + 4) (cpu (.ld 5 6 .d .plain 0)))).ctx 0 0).ended = some .terminated := by
  decide +kernel
/-- R353: an atomic gives back the old value. -/
theorem test_amo_old : xr 5 (ran (.amo .add .sq 5 6 7) (onReg 6 mine (onReg 7 5 (atHome 77 (cpu (.amo .add .sq 5 6 7)))))) = iv 77 := by
  decide +kernel
theorem test_amo_new : ((ran (.amo .add .sq 5 6 7) (onReg 6 mine (onReg 7 5 (atHome 77 (cpu (.amo .add .sq 5 6 7)))))).core 0).lsRead 1 0x40 8 = 82 := by
  decide +kernel
/-- R113: 1 + 2^-24 lies midway in FP32 and rounds to the even neighbour. -/
theorem test_fadd_even : (xr 5 (ran (.fadd .f32 5 6 7) (two (.fadd .f32 5 6 7) 0x3F800000 0x33800000))).val = 0x3F800000 := by decide +kernel
/-- R312, R314, R449: `trap 7` saves the address after it and enters the supervisor vector. -/
theorem test_trap_enters :
    (let x := (ran (.trap 7) (onMe (fun x => { x with pc := 64, st := { TrapRegs.zero with vec := 0x400 } }) (cpu (.trap 7)))).ctx 0 0
     (x.pc, x.st.pc, x.st.cause, x.st.aux, x.level, x.sin)) = (0x400, 68, 0x0E, 7, 1, true) := by decide +kernel
/-- R389: an offset that is no multiple of 32 gives −3. -/
theorem test_gnew_offset : xr 5 (ran (.gnewZero 5 6 7) (two (.gnewZero 5 6 7) 1 32)) = iv (-3) := by decide +kernel
/-- R430: `sel` takes xb where xa is not 0. -/
theorem test_sel : xr 5 (ran (.sel 5 6 7) (onReg 5 1 (two (.sel 5 6 7) 8 9))) = iv 9 := by decide +kernel
/-- R190, R432: `semv` adds 1. -/
theorem test_semv : SMap.get ((ran (.semv 3) (onCore (fun k => { k with sems := [(3, 2)] }) (cpu (.semv 3)))).core 0).sems 3 0 = 3 := by decide +kernel
/-- R194: a launch slot takes its packet word while it is empty. -/
theorem test_launch_slot : ((ran (.launchSlotWrite 0 0 { off := 8 } 9) State.reset).launchSlot 0 0).1.getD 1 0 = 9 := by decide +kernel

/-! ## States and operands that meet the hypotheses of the obligations

`meets_X` is about Obligations.X: for each of its clauses it shows a state and operands that meet all hypotheses of the clause
together. -/

theorem meets_IntegerTwoSources :
    (∃ (row : _) (d a b : RegF) (s s1 s2 s3 : State) (x y : TVal), row ∈ rows3 ∧ starts (row.1 d a b) s = true ∧
      Reads (doer (row.1 d a b) s) a (begun s) x s1 ∧ Reads (doer (row.1 d a b) s) b s1 y s2 ∧
      Writes (doer (row.1 d a b) s) d { val := row.2.1 x.val y.val, cnt := 127, inx := false } s2 s3) :=
  ⟨_, 5, 6, 7, onReg 6 (-7) (onReg 7 3 (cpu (.add 5 6 7))), _, _, _, _, _, .head _, by decide +kernel, readReg_usable (by decide +kernel), readReg_usable (by decide +kernel), writeReg_usable _ rfl rfl (by decide +kernel)⟩

theorem meets_BitOperations :
    (∃ (row : _) (d a : RegF) (s s1 s2 : State) (x : TVal), row ∈ rows2 ∧ starts (row.1 d a) s = true ∧ Reads (doer (row.1 d a) s) a (begun s) x s1 ∧
      Writes (doer (row.1 d a) s) d { val := row.2.1 x.val, cnt := 127, inx := false } s1 s2) ∧
    (∃ (d a b : RegF) (s s1 s2 s3 : State) (x y : TVal) (r : Word), starts (.perm d a b) s = true ∧ Reads (doer (.perm d a b) s) a (begun s) x s1 ∧
      Reads (doer (.perm d a b) s) b s1 y s2 ∧
      (∀ j, j < 8 → byteOf r j = if (byteOf y.val j).getLsbD 7 then 0 else byteOf x.val ((byteOf y.val j).toNat % 8)) ∧
      Writes (doer (.perm d a b) s) d { val := r, cnt := 127, inx := false } s2 s3) ∧
    (∃ (d a b : RegF) (s s1 s2 s3 s4 : State) (x y z : TVal), starts (.sel d a b) s = true ∧ Reads (doer (.sel d a b) s) a (begun s) x s1 ∧
      Reads (doer (.sel d a b) s) b s1 y s2 ∧ Reads (doer (.sel d a b) s) d s2 z s3 ∧
      Writes (doer (.sel d a b) s) d { val := if x.val = 0 then z.val else y.val, cnt := 127, inx := false } s3 s4) :=
  ⟨⟨_, 5, 6, onReg 6 40 (cpu (.clz 5 6)), _, _, _, .head _, by decide +kernel, readReg_usable (by decide +kernel), writeReg_usable _ rfl rfl (by decide +kernel)⟩,
   ⟨5, 6, 7, onReg 6 0x8877665544332211 (onReg 7 0x8001020304050607 (cpu (.perm 5 6 7))), _, _, _, _, _, 0x0022334455667788, by decide +kernel,
     readReg_usable (by decide +kernel), readReg_usable (by decide +kernel), by decide +kernel, writeReg_usable _ rfl rfl (by decide +kernel)⟩,
   ⟨5, 6, 7, onReg 7 9 (onReg 5 3 (cpu (.sel 5 6 7))), _, _, _, _, _, _, _, by decide +kernel, readReg_usable (by decide +kernel),
     readReg_usable (by decide +kernel), readReg_usable (by decide +kernel), writeReg_usable _ rfl rfl (by decide +kernel)⟩⟩

theorem meets_IntegerImmediates :
    (∃ (row : _) (d a : RegF) (i : BitVec 12) (s s1 s2 : State) (x : TVal), row ∈ rowsI ∧ starts (row.1 d a i) s = true ∧
      Reads (doer (row.1 d a i) s) a (begun s) x s1 ∧ Writes (doer (row.1 d a i) s) d { val := row.2.1 x.val i, cnt := 127, inx := false } s1 s2) ∧
    (∃ (row : _) (d a : RegF) (n : BitVec 6) (s s1 s2 : State) (x : TVal), row ∈ rowsS ∧ starts (row.1 d a n) s = true ∧
      Reads (doer (row.1 d a n) s) a (begun s) x s1 ∧ Writes (doer (row.1 d a n) s) d { val := row.2.1 x.val n, cnt := 127, inx := false } s1 s2) ∧
    (∃ (row : _) (d a : RegF) (i : BitVec 11) (s s1 s2 : State) (x : TVal), row ∈ rowsC ∧ starts (row.1 d a i) s = true ∧
      Reads (doer (row.1 d a i) s) a (begun s) x s1 ∧ Writes (doer (row.1 d a i) s) d { val := row.2.1 x.val i, cnt := 127, inx := false } s1 s2) :=
  ⟨⟨_, 5, 6, -3, onReg 6 40 (cpu (.addi 5 6 (-3))), _, _, _, .head _, by decide +kernel, readReg_usable (by decide +kernel), writeReg_usable _ rfl rfl (by decide +kernel)⟩,
   ⟨_, 5, 6, 63, onReg 6 (-40) (cpu (.shli 5 6 63)), _, _, _, .head _, by decide +kernel, readReg_usable (by decide +kernel),
     writeReg_usable _ rfl rfl (by decide +kernel)⟩,
   ⟨_, 5, 6, -39, onReg 6 (-40) (cpu (.slti 5 6 (-39))), _, _, _, .head _, by decide +kernel, readReg_usable (by decide +kernel),
     writeReg_usable _ rfl rfl (by decide +kernel)⟩⟩

theorem meets_ConstantsAndBitFields :
    (∃ (d : RegF) (i : BitVec 19) (s s1 : State), starts (.lui d i) s = true ∧
      Writes (doer (.lui d i) s) d { val := BitVec.ofInt 64 (i.toInt * 4096), cnt := 127, inx := false } (begun s) s1) ∧
    (∃ (d : RegF) (i : BitVec 19) (s s1 : State), starts (.addpc d i) s = true ∧
      Writes (doer (.addpc d i) s) d { val := s.who.pc + BitVec.ofInt 64 (i.toInt * 4), cnt := 127, inx := false } (begun s) s1) ∧
    (∃ (d a : RegF) (lo : BitVec 6) (w : BitVec 5) (s s1 s2 : State) (x : TVal), starts (.bfx d a lo w) s = true ∧
      Reads (doer (.bfx d a lo w) s) a (begun s) x s1 ∧
      Writes (doer (.bfx d a lo w) s) d { val := BitVec.ofNat 64 (x.val.toNat / 2 ^ lo.toNat % 2 ^ (w.toNat + 1)), cnt := 127, inx := false } s1 s2) ∧
    (∃ (d a : RegF) (lo : BitVec 6) (w : BitVec 5) (s s1 s2 s3 : State) (x old : TVal) (r : Word), starts (.bfi d a lo w) s = true ∧
      Reads (doer (.bfi d a lo w) s) a (begun s) x s1 ∧ Reads (doer (.bfi d a lo w) s) d s1 old s2 ∧ (∀ n, n < 64 → r.getLsbD n = if lo.toNat ≤ n ∧
      n ≤ lo.toNat + w.toNat then x.val.getLsbD (n - lo.toNat) else old.val.getLsbD n) ∧
      Writes (doer (.bfi d a lo w) s) d { val := r, cnt := 127, inx := false } s2 s3) :=
  ⟨⟨5, -1, cpu (.lui 5 (-1)), _, by decide +kernel, writeReg_usable _ rfl rfl (by decide +kernel)⟩,
   ⟨5, -1, cpu (.addpc 5 (-1)), _, by decide +kernel, writeReg_usable _ rfl rfl (by decide +kernel)⟩,
   ⟨5, 6, 60, 10, onReg 6 (-1) (cpu (.bfx 5 6 60 10)), _, _, _, by decide +kernel, readReg_usable (by decide +kernel),
     writeReg_usable _ rfl rfl (by decide +kernel)⟩,
   ⟨5, 6, 60, 10, onReg 5 1 (onReg 6 (-1) (cpu (.bfi 5 6 60 10))), _, _, _, _, _, 0xF000000000000001, by decide +kernel,
     readReg_usable (by decide +kernel), readReg_usable (by decide +kernel), by decide +kernel, writeReg_usable _ rfl rfl (by decide +kernel)⟩⟩

theorem meets_TagsAndPointers :
    (∃ (d a : RegF) (s s1 s2 : State) (x : TVal), starts (.sigr d a) s = true ∧ Reads (doer (.sigr d a) s) a (begun s) x s1 ∧
      Writes (doer (.sigr d a) s) d { val := BitVec.ofNat 64 (x.cnt.toNat + (if x.inx then 128 else 0)), cnt := 127, inx := false } s1 s2) ∧
    (∃ (d a : RegF) (n : BitVec 7) (s s1 s2 : State) (x : TVal), starts (.sigw d a n) s = true ∧ Reads (doer (.sigw d a n) s) a (begun s) x s1 ∧
      Writes (doer (.sigw d a n) s) d { val := x.val, cnt := n, inx := false } s1 s2) ∧
    (∃ (d a : RegF) (s s1 s2 : State) (p : TVal), starts (.spc d a) s = true ∧ Reads (doer (.spc d a) s) a (begun s) p s1 ∧
      (Writes (doer (.spc d a) s) d { val := BitVec.ofNat 64 (bits p.val 63 56 + (if ptrValid s1 s.cur.1 (s1.ctx s.cur.1 s.cur.2).pvbase p.val then 256 else 0) + (if bits p.val 63 56 = 0 ∧ p.val.getLsbD 51 = true then 512 else 0)), cnt := 127, inx := false } s1 s2)) ∧
    (∃ (row : _) (d a : RegF) (s s1 s2 : State) (p : TVal), (row ∈ ([(.cvspLoc, 0xF2, [0xF1], fun c pv p => w64 (0xF2 * 2 ^ 56 + c * 2 ^ 42 + bits pv 19 0 + bits p 23 0)),
             (.cvspSq, 0xF3, [0xF2, 0xF4], fun _ _ p => setBits p 63 56 0xF3),
             (.cvspRem, 0xF4, [0xF2, 0xF3], fun _ _ p => setBits p 63 56 0xF4)] :
        List ((RegF → RegF → Instr) × Nat × List Nat × (Nat → Word → Word → Word)))) ∧ starts (row.1 d a) s = true ∧
          Reads (doer (row.1 d a) s) a (begun s) p s1 ∧
          (Writes (doer (row.1 d a) s) d { val := if ((bits p.val 63 56) = row.2.1 ∨ row.2.2.1.contains (bits p.val 63 56) = true) ∧ ptrValid s1 s.cur.1 ((s1.ctx s.cur.1 s.cur.2).pvbase) (if (bits p.val 63 56) = row.2.1 then p.val else row.2.2.2 s.cur.1 ((s1.ctx s.cur.1 s.cur.2).pvbase) p.val) = true then (if (bits p.val 63 56) = row.2.1 then p.val else row.2.2.2 s.cur.1 ((s1.ctx s.cur.1 s.cur.2).pvbase) p.val) else 0, cnt := 127, inx := false } s1 s2)) :=
  ⟨⟨5, 6, onTag 6 9 12 true (cpu (.sigr 5 6)), _, _, _, by decide +kernel, readReg_usable (by decide +kernel), writeReg_usable _ rfl rfl (by decide +kernel)⟩,
   ⟨5, 6, 64, onTag 6 9 12 true (cpu (.sigw 5 6 64)), _, _, _, by decide +kernel, readReg_usable (by decide +kernel),
     writeReg_usable _ rfl rfl (by decide +kernel)⟩,
   ⟨5, 6, onReg 6 0xF100000000000008 (cpu (.spc 5 6)), _, _, _, by decide +kernel, readReg_usable (by decide +kernel),
     writeReg_usable _ rfl rfl (by decide +kernel)⟩,
   ⟨_, 5, 6, onReg 6 0xF100000000000008 (cpu (.cvspLoc 5 6)), _, _, _, .head _, by decide +kernel, readReg_usable (by decide +kernel),
     writeReg_usable _ rfl rfl (by decide +kernel)⟩⟩

theorem meets_IntegerFrame :
    (∃ (i : Instr) (s : State), regOnly i = true ∧ starts i s = true ∧ (∀ f ∈ (form i).src ++ (form i).dst.toList, s.who.usable f = true) ∧
      s.who.state = .ready) :=
  ⟨.add 5 6 7, onReg 6 3 (cpu (.add 5 6 7)), by decide +kernel⟩

theorem meets_ConditionalBranches :
    (∃ (row : _) (a b : RegF) (o : BitVec 12) (s s1 s2 : State) (x y : TVal), row ∈ rowsB ∧ starts (row.1 a b o) s = true ∧
      Reads (doer (row.1 a b o) s) a (begun s) x s1 ∧ Reads (doer (row.1 a b o) s) b s1 y s2) ∧
    (∃ (a : RegF) (n : BitVec 7) (o : BitVec 12) (s s1 : State) (x : TVal), starts (.bsig a n o) s = true ∧
      Reads (doer (.bsig a n o) s) a (begun s) x s1) :=
  ⟨⟨_, 6, 7, -4, onReg 6 3 (onReg 7 3 (cpu (.beq 6 7 (-4)))), _, _, _, _, .head _, by decide +kernel, readReg_usable (by decide +kernel), readReg_usable (by decide +kernel)⟩,
   ⟨6, 5, -4, onTag 6 3 4 false (cpu (.bsig 6 5 (-4))), _, _, by decide +kernel, readReg_usable (by decide +kernel)⟩⟩

theorem meets_Jumps :
    (∃ (o : BitVec 26) (s : State), starts (.b o) s = true) ∧
    (∃ (o : BitVec 26) (s s1 : State), starts (.bl o) s = true ∧
      Writes (doer (.bl o) s) 1 { val := s.who.pc + 4, cnt := 127, inx := false } (begun s) s1) ∧
    (∃ (d a : RegF) (i : BitVec 12) (s s1 s2 : State) (x : TVal), starts (.jr d a i) s = true ∧ Reads (doer (.jr d a i) s) a (begun s) x s1 ∧
      (x.val + BitVec.ofInt 64 (i.toInt * 4)).toNat % 4 = 0 ∧ (x.val + BitVec.ofInt 64 (i.toInt * 4)).toNat < 2 ^ 56 ∧
      Writes (doer (.jr d a i) s) d { val := s.who.pc + 4, cnt := 127, inx := false } s1 s2) ∧
    (∃ (d a : RegF) (i : BitVec 12) (s s1 : State) (x : TVal), starts (.jr d a i) s = true ∧ Reads (doer (.jr d a i) s) a (begun s) x s1 ∧
      (x.val + BitVec.ofInt 64 (i.toInt * 4)).toNat % 4 ≠ 0) ∧
    (∃ (d a : RegF) (i : BitVec 12) (s s1 : State) (x : TVal), starts (.jr d a i) s = true ∧ Reads (doer (.jr d a i) s) a (begun s) x s1 ∧
      (x.val + BitVec.ofInt 64 (i.toInt * 4)).toNat % 4 = 0 ∧ 2 ^ 56 ≤ (x.val + BitVec.ofInt 64 (i.toInt * 4)).toNat) :=
  ⟨⟨-1, cpu (.b (-1)), by decide +kernel⟩,
   ⟨-1, cpu (.bl (-1)), _, by decide +kernel, writeReg_usable _ rfl rfl (by decide +kernel)⟩,
   ⟨5, 6, -1, onReg 6 64 (cpu (.jr 5 6 (-1))), _, _, _, by decide +kernel, readReg_usable (by decide +kernel), by decide +kernel, by decide +kernel,
     writeReg_usable _ rfl rfl (by decide +kernel)⟩,
   ⟨5, 6, 0, onReg 6 66 (cpu (.jr 5 6 0)), _, _, by decide +kernel, readReg_usable (by decide +kernel), by decide +kernel⟩,
   ⟨5, 6, 0, onReg 6 0xF100000000000000 (cpu (.jr 5 6 0)), _, _, by decide +kernel, readReg_usable (by decide +kernel), by decide +kernel,
     by decide +kernel⟩⟩

theorem meets_Loads :
    (∃ (d a : RegF) (z : Size) (ord : LdOrd) (imm : BitVec 7) (s s1 s2 s3 : State) (base : TVal) (l : Loc), starts (Instr.ld d a z ord imm) s = true ∧ Reads (doer (Instr.ld d a z ord imm) s) a (begun s) base s1 ∧ Finds (doer (Instr.ld d a z ord imm) s) (operandPtr base.val imm (sizeBytes z)) (sizeBytes z) .ld (ord == .plain && z == .d) s1 l s2 ∧ l.ownLs (doer (Instr.ld d a z ord imm) s).core = true ∧ clear (doer (Instr.ld d a z ord imm) s) l false s2 = true ∧ mayPerform (doer (Instr.ld d a z ord imm) s) l s2 = true ∧ (s2.staleTrap l.place (s2.ctx (doer (Instr.ld d a z ord imm) s).core (doer (Instr.ld d a z ord imm) s).slot).gen && !granuleBuffered (ownBuf (doer (Instr.ld d a z ord imm) s) s2) l.place) = false ∧ Writes (doer (Instr.ld d a z ord imm) s) d { val := extend (s2.ctxRead (doer (Instr.ld d a z ord imm) s).core (s2.ctx (doer (Instr.ld d a z ord imm) s).core (doer (Instr.ld d a z ord imm) s).slot) (s2.ctx (doer (Instr.ld d a z ord imm) s).core (doer (Instr.ld d a z ord imm) s).slot).seq (if ord = .acq then some .device else none) l.place (sizeBytes z)).1 (sizeBytes z) (sizeSigned z), cnt := 127, inx := false } (s2.ctxRead (doer (Instr.ld d a z ord imm) s).core (s2.ctx (doer (Instr.ld d a z ord imm) s).core (doer (Instr.ld d a z ord imm) s).slot) (s2.ctx (doer (Instr.ld d a z ord imm) s).core (doer (Instr.ld d a z ord imm) s).slot).seq (if ord = .acq then some .device else none) l.place (sizeBytes z)).2 s3) ∧
    (∃ (d a : RegF) (z : Size) (ord : LdOrd) (imm : BitVec 7) (s s1 s2 s3 : State) (base : TVal) (l : Loc) (app : Option (Option Append)), starts (Instr.ld d a z ord imm) s = true ∧ Reads (doer (Instr.ld d a z ord imm) s) a (begun s) base s1 ∧ Finds (doer (Instr.ld d a z ord imm) s) (operandPtr base.val imm (sizeBytes z)) (sizeBytes z) .ld (ord == .plain && z == .d) s1 l s2 ∧ l.ownLs (doer (Instr.ld d a z ord imm) s).core = false ∧ clear (doer (Instr.ld d a z ord imm) s) l false s2 = true ∧ (s2.ctx (doer (Instr.ld d a z ord imm) s).core (doer (Instr.ld d a z ord imm) s).slot).nL < 63 ∧ Ready (doer (Instr.ld d a z ord imm) s) d (counted (doer (Instr.ld d a z ord imm) s) .L s2) app s3) ∧
    (∃ (c i idx : Nat) (s t : State) (l : LoadReq) (n : Nat) (sg acq : Bool), (s.ctx c i).loads[idx]? = some l ∧ l.kind = .ld n sg acq ∧ replyReady (s.core c) (s.ctx c i) l = true ∧ replyFault s c (s.ctx c i) l = none ∧ (match l.place with | .ls _ off => off < snapBase | _ => True) ∧ complete (s.ctxRead c (s.ctx c i) l.seq (if acq then some .device else none) l.place n).2 c i l { val := extend (s.ctxRead c (s.ctx c i) l.seq (if acq then some .device else none) l.place n).1 n sg, cnt := 127, inx := false } true = some t) ∧
    (∃ (c i : Nat) (s : State) (l : LoadReq) (n : Nat) (sg acq : Bool), l.kind = .ld n sg acq ∧ portShut s (s.ctx c i) l.rd l.app = false ∧ s.staleTrap l.place (s.ctx c i).gen = true ∧ (s.core c).storeBuf.all (fun b => b.uid != (s.ctx c i).uid) = true) ∧
    (∃ (c i idx : Nat) (s : State) (l : LoadReq) (f : TrapInfo), (s.ctx c i).loads[idx]? = some l ∧ replyReady (s.core c) (s.ctx c i) l = true ∧ (∀ b, l.kind ≠ .qblk b) ∧ replyFault s c (s.ctx c i) l = some f) :=
  ⟨⟨5, 6, .i8, .plain, 1, onReg 6 0xF200000000000040 (onCore (fun k => k.lsWrite 1 0x40 8 0x8877665544332211) (onCore (fun k => k.lsWrite 1 0x48 8 0xFF00) (cpu (.ld 5 6 .i8 .plain 1)))), _, _, _, _, _, by decide +kernel, readReg_usable (by decide +kernel), found_of (by decide +kernel) (by decide +kernel), by decide +kernel, by decide +kernel, by decide +kernel, by decide +kernel, writeReg_usable _ rfl rfl (by decide +kernel)⟩,
   ⟨5, 6, .i32, .plain, 0, onReg 6 0x40 (cpu (.ld 5 6 .i32 .plain 0)), _, _, _, _, _, _, by decide +kernel, readReg_usable (by decide +kernel), found_of (by decide +kernel) (by decide +kernel), by decide +kernel, by decide +kernel, by decide +kernel, ready_of (by decide +kernel)⟩,
   ⟨0, 0, 0, onMe (fun x => { x with nL := 1, seq := 1, loads := [{ seq := 0, pc := 0, next := 0, rd := 5, kind := .ld 4 true false, place := .hbm 0x40, ptr := 0x40, lv := 3, elect := none }] }) { cpu .nop with hbm := [(0x41,0x80),(0x43,0xFF)] }, _, _, 4, true, false, some_of (by decide +kernel), by decide +kernel, by decide +kernel, by decide +kernel, trivial, some_of (by decide +kernel)⟩,
   ⟨0, 0, (fun S : State => S.modCore 1 (fun k => { k with regions := [{ off := 64, len := 32, trap := true, gen := 9, gang := 0, tenant := 0, retired := false }] })) (onMe (fun X => { X with nL := 1, seq := 1, loads := [{ seq := 0, pc := 0, next := 0, rd := 5, kind := .ld 4 true false, place := .ls 1 0x40, ptr := 0x40, lv := 3, elect := none }] }) (cpu (.add 5 6 7))), { seq := 0, pc := 0, next := 0, rd := 5, kind := .ld 4 true false, place := .ls 1 0x40, ptr := 0x40, lv := 3, elect := none }, 4, true, false, by decide +kernel, by decide +kernel, by decide +kernel, by decide +kernel⟩,
   ⟨0, 0, 0, (fun S : State => S.modCore 1 (fun k => { k with regions := [{ off := 64, len := 32, trap := true, gen := 9, gang := 0, tenant := 0, retired := false }] })) (onMe (fun X => { X with nL := 1, seq := 1, loads := [{ seq := 0, pc := 0, next := 0, rd := 5, kind := .ld 4 true false, place := .ls 1 0x40, ptr := 0x40, lv := 3, elect := none }] }) (cpu (.add 5 6 7))), { seq := 0, pc := 0, next := 0, rd := 5, kind := .ld 4 true false, place := .ls 1 0x40, ptr := 0x40, lv := 3, elect := none }, _, rfl, by decide +kernel, (fun b h => by cases h), some_of (by decide +kernel)⟩⟩

/-- One byte is read from write b where b is the newest that may be read and nothing else can be glimpsed. -/
theorem took_one (s : State) (v : View) (pl : Place) (b : Wr) (hc : (!(v.bufs (pl.plus 0)).isEmpty) = true)
    (ht : v.top s (pl.plus 0) = some b) (hp : v.prefer s b (pl.plus 0) = some b) (ha : v.allows s (pl.plus 0) (some b) = true)
    (hg : ∀ o, v.glimpse s s.draw.1 (pl.plus 0) = o → o = some b ∨ v.allows s (pl.plus 0) o = false) :
    (pl.plus 0, b) ∈ (s.viewRead v pl 1).2.1 := by
  have hf : v.pick s s.draw.1 pl 1 (pl.plus 0) = some b := by
    have hr : List.range 1 = [0] := rfl
    unfold View.pick
    simp only [hr, List.all_cons, List.all_nil, Bool.and_true, List.filterMap_cons, List.filterMap_nil, ht, hp, ha, List.find?_cons]
    split
    · rename_i h
      rcases hg _ rfl with h1 | h1
      · exact h1
      · rw [h1] at h; exact absurd h (by decide)
    · exact hp
  have hw : wrsOf (v.pick s s.draw.1 pl 1) pl 1 = [(pl.plus 0, b)] := by simp [wrsOf, List.range_succ, hf]
  have hr : List.range 1 = [0] := rfl
  simp [State.viewRead, hr, List.any_cons, hc, hw]

/-- What the reader glimpses of a byte: the newest write that is not hidden. -/
theorem glimpse_hidden (s : State) (v : View) (d : Nat) (pl : Place) (b : Wr) (m : Nat) (hn : v.allows s pl none = false)
    (hm : Config.freeHide d pl.wordKey m = true)
    (hall : (v.cands s pl).all (fun w => decide (w = b) || !v.allows s pl (some w) || w.n == m) = true) :
    ∀ o, v.glimpse s d pl = o → o = some b ∨ v.allows s pl o = false := by
  intro o ho
  cases o with
  | none => exact .inr hn
  | some w =>
    have h1 := List.mem_of_find?_eq_some ho
    have h2 := List.find?_some ho
    have h3 := List.all_eq_true.mp hall w h1
    by_cases hw : w.n = m
    · rw [hw, hm] at h2; exact absurd h2 (by decide)
    · simp [hw] at h3
      rcases h3 with h3 | h3
      · exact .inl (by rw [h3])
      · exact .inr h3

/-- Two states with a byte of memory that a sibling's buffered store has not reached yet: the write set ends at commit m. -/
def sbA (m : Nat) : State :=
  { (onCore (fun k => { k with storeBuf := [{ slot := 0, uid := 5, tenant := 0, seq := 0, pair := 0, place := .hbm 0x42, size := 2, value := 0x1234, gen := 1 }] })
      ({ cpu .nop with ord := { (cpu .nop).ord with commits := m - 1 } }.commit { by_ := .port 0 } (.hbm 0x42) 1 5 0)) with cycle := 4000 }
def sbView (m : Nat) : View := (sbA m).ctxView 0 ((cpu .nop).ctx 0 0) 0
def sbTop (m : Nat) : Wr := ((sbView m).top (sbA m) (.hbm 0x42)).getD ((sbA m).initial (.hbm 0x42))
theorem sb_all : ∀ m ∈ [1, 2], (!((sbView m).bufs (.hbm 0x42)).isEmpty) = true ∧ (sbView m).top (sbA m) (.hbm 0x42) = some (sbTop m) ∧
    (sbView m).prefer (sbA m) (sbTop m) (.hbm 0x42) = some (sbTop m) ∧ (sbView m).allows (sbA m) (.hbm 0x42) (some (sbTop m)) = true ∧
    (sbView m).allows (sbA m) (.hbm 0x42) none = false ∧ (sbA m).early (.hbm 0x42, sbTop m) = some (5, 0) := by decide +kernel
theorem sb_head : ((sbView 1).cands (sbA 1) (.hbm 0x42)).head? = some (sbTop 1) ∧ (sbTop 1).n = 2 ∧ (sbA 1).draw.1 = 0 ∧ (sbA 2).draw.1 = 0 := by decide +kernel
theorem sb_rest : ((sbView 2).cands (sbA 2) (.hbm 0x42)).all
    (fun w => decide (w = sbTop 2) || !(sbView 2).allows (sbA 2) (.hbm 0x42) (some w) || w.n == 2) = true := by decide +kernel
/-- Whatever the free values are, in one of the two states the context reads the sibling's buffered store. -/
theorem sb_took : ∃ m ∈ [1, 2], (Place.hbm 0x42, sbTop m) ∈ ((sbA m).viewRead (sbView m) (.hbm 0x42) 1).2.1 := by
  cases hh : Config.freeHide 0 (Place.hbm 0x42).wordKey 2 with
  | true =>
    obtain ⟨a, b, c, d, e, _⟩ := sb_all 2 (by decide)
    exact ⟨2, by decide, took_one (sbA 2) (sbView 2) (.hbm 0x42) (sbTop 2) a b c d
      (glimpse_hidden (sbA 2) (sbView 2) _ (.hbm 0x42) (sbTop 2) 2 e (by rw [sb_head.2.2.2]; exact hh) sb_rest)⟩
  | false =>
    obtain ⟨a, b, c, d, e, _⟩ := sb_all 1 (by decide)
    refine ⟨1, by decide, took_one (sbA 1) (sbView 1) (.hbm 0x42) (sbTop 1) a b c d fun o ho => .inl ?_⟩
    obtain ⟨h1, h2, h3, _⟩ := sb_head
    have hg : (sbView 1).glimpse (sbA 1) (sbA 1).draw.1 (.hbm 0x42) = some (sbTop 1) := by
      unfold View.glimpse
      cases hc : (sbView 1).cands (sbA 1) (.hbm 0x42) with
      | nil => rw [hc] at h1; exact absurd h1 (by simp)
      | cons x t =>
        rw [hc] at h1
        have hx : x = sbTop 1 := by simpa using h1
        rw [List.find?_cons, hx, h2, h3, hh]; rfl
    exact ho ▸ hg

theorem meets_MemoryOrder :
    (∃ (s : State) (r : Reader) (own : BitVec 16) (also : Place → Wr → Bool) (pl : Place) (n : Nat), s.hasOlder r own also pl n = false) ∧
    (∃ (s : State) (r : Reader) (own : BitVec 16) (also : Place → Wr → Bool) (pl : Place) (n : Nat), s.hasOlder r own also pl n = true) ∧
    (∃ (s : State) (c : Nat) (x : Ctx) (before : Nat) (pl : Place) (n : Nat) (q : Place) (w : Wr), ((fun (e : Place × Wr) => e ∈ (s.viewRead (s.ctxView c x before) pl n).2.1 ∧ ∀ b, s.early e = some b → b.1 ≠ x.uid) (q, w)) ∧ w.n ≠ 0 ∧ w.n ≤ s.ord.commits) ∧
    (∃ (s : State) (c : Nat) (x : Ctx) (before : Nat) (acq : Option Parties) (pl : Place) (n : Nat) (q a : Place) (w u : Wr) (p : Parties) (f : Front), ((fun (e : Place × Wr) => e ∈ (s.viewRead (s.ctxView c x before) pl n).2.1 ∧ ∀ b, s.early e = some b → b.1 ≠ x.uid) (q, w)) ∧ w.n ≠ 0 ∧ acq = some p ∧ p.has w.by_ = true ∧ w.snapshot (.ctx x.uid c x.tenant 0 0) = some f ∧ (f.has a u = true ∨ (w.n ≤ s.ord.commits ∧ p.has u.by_ = true ∧ u.n ≤ w.n) ∨ (s.ord.commits < w.n ∧ u.n ≤ s.ord.commits))) ∧
    (∃ (s : State) (c : Nat) (x : Ctx) (before : Nat) (pl : Place) (n : Nat) (e : Place × Wr) (b : Nat × Nat), ((fun (e : Place × Wr) => e ∈ (s.viewRead (s.ctxView c x before) pl n).2.1 ∧ ∀ b, s.early e = some b → b.1 ≠ x.uid) e) ∧ s.early e = some b) ∧
    (∃ (s : State) (pl : Place) (n : Nat), n ≤ 8 ∧ (match pl with | .ls _ a => a / 32 = (a + n - 1) / 32 | .hbm a => s.host.dead.contains (a / 65536) = false | .host _ => True | .peer _ _ => False)) ∧
    (∃ (s : State) (k : Commit) (pl : Place) (n : Nat), n ≤ 8 ∧ (match pl with | .ls _ a => a / 32 = (a + n - 1) / 32 | .hbm a => s.host.dead.contains (a / 65536) = false | .host _ => True | .peer _ _ => False) ∧ (∀ j, j < n → s.overtaken k (pl.plus j) = false)) :=
  ⟨⟨(cpu .nop), {}, 0, fun _ _ => true, .hbm 0x40, 8, by decide +kernel⟩,
   ⟨(((cpu .nop).commit { by_ := .port 0 } (.hbm 0x40) 8 5 0).commit { by_ := .link } (.hbm 0x44) 4 6 0), {}, 0, fun _ _ => true, .hbm 0x40, 8, by decide +kernel⟩,
   ⟨{ ((cpu .nop).commit { by_ := .port 0 } (.hbm 0x40) 8 5 0) with cycle := 4000 }, 0, (cpu .nop).ctx 0 0, 0, .hbm 0x40, 8, .hbm 0x40, (((((cpu .nop).commit { by_ := .port 0 } (.hbm 0x40) 8 5 0).wset (.hbm 0x40)).head?).getD (((cpu .nop).commit { by_ := .port 0 } (.hbm 0x40) 8 5 0).initial (.hbm 0x40))), by decide +kernel, by decide +kernel, by decide +kernel⟩,
   ⟨{ ((cpu .nop).commit { by_ := .port 0 } (.hbm 0x40) 8 5 0) with cycle := 4000 }, 0, (cpu .nop).ctx 0 0, 0, some .system, .hbm 0x40, 8, .hbm 0x40, .hbm 0x99, (((((cpu .nop).commit { by_ := .port 0 } (.hbm 0x40) 8 5 0).wset (.hbm 0x40)).head?).getD (((cpu .nop).commit { by_ := .port 0 } (.hbm 0x40) 8 5 0).initial (.hbm 0x40))), (((((cpu .nop).commit { by_ := .port 0 } (.hbm 0x40) 8 5 0).wset (.hbm 0x40)).head?).getD (((cpu .nop).commit { by_ := .port 0 } (.hbm 0x40) 8 5 0).initial (.hbm 0x40))), _, _, by decide +kernel, by decide +kernel, some_of (by decide +kernel), by decide +kernel, some_of (by decide +kernel), by decide +kernel⟩,
   (by
      obtain ⟨m, hm, h⟩ := sb_took
      have he := (sb_all m hm).2.2.2.2.2
      have hu : (5 : Nat) ≠ ((cpu .nop).ctx 0 0).uid := by decide +kernel
      generalize hA : sbA m = A at h he
      generalize hT : sbTop m = T at h he
      have hv : sbView m = A.ctxView 0 ((cpu .nop).ctx 0 0) 0 := by rw [← hA]; rfl
      rw [hv] at h
      generalize (cpu .nop).ctx 0 0 = x at h hu
      exact ⟨A, 0, x, 0, .hbm 0x42, 1, (.hbm 0x42, T), (5, 0), ⟨h, fun b hb => by rw [he] at hb; injection hb with hb; rw [← hb]; exact hu⟩, he⟩),
   ⟨((cpu .nop).commit { by_ := .port 0 } (.hbm 0x40) 8 5 0), .hbm 0x44, 4, by decide +kernel, by decide +kernel⟩,
   ⟨((cpu .nop).commit { by_ := .port 0 } (.hbm 0x40) 8 5 0), { by_ := .link }, .hbm 0x44, 4, by decide +kernel, by decide +kernel, by decide +kernel⟩⟩

theorem meets_TagLoadsAndStores :
    (∃ (d a : RegF) (imm : BitVec 7) (s s1 s2 s3 s4 s5 s6 : State) (base : TVal) (l t : Loc) (v g : Nat), starts (Instr.ldt d a imm) s = true ∧
      Reads (doer (Instr.ldt d a imm) s) a (begun s) base s1 ∧ Finds (doer (Instr.ldt d a imm) s) (operandPtr base.val imm 8) 8 .ld false s1 l s2 ∧
      resolveTag (operandPtr base.val imm 8) .ld (doer (Instr.ldt d a imm) s) s2 = .ok (t, s3) ∧
      clear (doer (Instr.ldt d a imm) s) l false s3 = true ∧ clear (doer (Instr.ldt d a imm) s) t false s3 = true ∧
      (s3.ctx (doer (Instr.ldt d a imm) s).core (doer (Instr.ldt d a imm) s).slot).nL < 63 ∧ l.ownLs (doer (Instr.ldt d a imm) s).core = true ∧
      t.ownLs (doer (Instr.ldt d a imm) s).core = true ∧
      readNow l (doer (Instr.ldt d a imm) s) (tested (doer (Instr.ldt d a imm) s) .L s3) = .ok (v, s4) ∧
      readNow t (doer (Instr.ldt d a imm) s) s4 = .ok (g, s5) ∧ Writes (doer (Instr.ldt d a imm) s) d (tval v g) s5 s6) ∧
    (∃ (d a : RegF) (imm : BitVec 7) (s s1 s2 s3 s4 : State) (base : TVal) (l t : Loc) (app : Option (Option Append)), starts (Instr.ldt d a imm) s = true ∧
      Reads (doer (Instr.ldt d a imm) s) a (begun s) base s1 ∧ Finds (doer (Instr.ldt d a imm) s) (operandPtr base.val imm 8) 8 .ld false s1 l s2 ∧
      resolveTag (operandPtr base.val imm 8) .ld (doer (Instr.ldt d a imm) s) s2 = .ok (t, s3) ∧
      clear (doer (Instr.ldt d a imm) s) l false s3 = true ∧ clear (doer (Instr.ldt d a imm) s) t false s3 = true ∧
      (s3.ctx (doer (Instr.ldt d a imm) s).core (doer (Instr.ldt d a imm) s).slot).nL < 63 ∧
      (l.ownLs (doer (Instr.ldt d a imm) s).core && t.ownLs (doer (Instr.ldt d a imm) s).core) = false ∧
      Ready (doer (Instr.ldt d a imm) s) d (counted (doer (Instr.ldt d a imm) s) .L s3) app s4) ∧
    (∃ (x a : RegF) (imm : BitVec 7) (s s1 s2 s3 s4 : State) (base v : TVal) (l t : Loc), starts (Instr.stt x a imm) s = true ∧
      Reads (doer (Instr.stt x a imm) s) a (begun s) base s1 ∧ Reads (doer (Instr.stt x a imm) s) x s1 v s2 ∧
      Finds (doer (Instr.stt x a imm) s) (operandPtr base.val imm 8) 8 .st false s2 l s3 ∧
      resolveTag (operandPtr base.val imm 8) .st (doer (Instr.stt x a imm) s) s3 = .ok (t, s4) ∧
      clear (doer (Instr.stt x a imm) s) l true s4 = true ∧ clear (doer (Instr.stt x a imm) s) t true s4 = true ∧
      (s4.ctx (doer (Instr.stt x a imm) s).core (doer (Instr.stt x a imm) s).slot).nS < 63 ∧ l.win ≠ .rem ∧ t.win ≠ .rem) ∧
    (∃ (x a : RegF) (imm : BitVec 7) (s s1 s2 s3 s4 : State) (base v : TVal) (l t : Loc), starts (Instr.stt x a imm) s = true ∧
      Reads (doer (Instr.stt x a imm) s) a (begun s) base s1 ∧ Reads (doer (Instr.stt x a imm) s) x s1 v s2 ∧
      Finds (doer (Instr.stt x a imm) s) (operandPtr base.val imm 8) 8 .st false s2 l s3 ∧
      resolveTag (operandPtr base.val imm 8) .st (doer (Instr.stt x a imm) s) s3 = .ok (t, s4) ∧
      clear (doer (Instr.stt x a imm) s) l true s4 = true ∧ clear (doer (Instr.stt x a imm) s) t true s4 = true ∧
      (s4.ctx (doer (Instr.stt x a imm) s).core (doer (Instr.stt x a imm) s).slot).nS < 63 ∧ l.win = .rem ∧ t.win = .rem ∧
      (s4.core (doer (Instr.stt x a imm) s).core).journal.length + (s4.core (doer (Instr.stt x a imm) s).core).promised < 63) :=
  ⟨⟨5, 6, 1, onMe (fun x => { x with tagbase := 0xF200000000001000 }) (onReg 6 0xF200000000000040 (onCore (fun k => (k.lsWrite 1 0x48 8 0x1122).lsWrite 1 0x1009 1 0x85) (cpu (.ldt 5 6 1)))), _, _, _, _, _, _, _, _, _, _, _, by decide +kernel, readReg_usable (by decide +kernel), found_of (by decide +kernel) (by decide +kernel), ok2_of (by decide +kernel), by decide +kernel, by decide +kernel, by decide +kernel, by decide +kernel, by decide +kernel, ok2_of (by decide +kernel), ok2_of (by decide +kernel), writeReg_usable _ rfl rfl (by decide +kernel)⟩,
   ⟨5, 6, 1, onReg 6 0x40 (cpu (.ldt 5 6 1)), _, _, _, _, _, _, _, _, by decide +kernel, readReg_usable (by decide +kernel),
     found_of (by decide +kernel) (by decide +kernel), ok_of (by decide +kernel), by decide +kernel, by decide +kernel, by decide +kernel,
     by decide +kernel, ready_of (by decide +kernel)⟩,
   ⟨8, 6, 1, onMe (fun x => { x with tagbase := 0xF200000000001000 }) (onReg 6 0xF200000000000040 (onTag 8 3 9 true (cpu (.stt 8 6 1)))), _, _, _, _,
     _, _, _, _, by decide +kernel, readReg_usable (by decide +kernel), readReg_usable (by decide +kernel),
     found_of (by decide +kernel) (by decide +kernel), ok_of (by decide +kernel), by decide +kernel⟩,
   ⟨8, 6, 1, onMe (fun x => { x with tagbase := 0xF400040000001000 }) (onReg 6 0xF400040000000040 (onTag 8 3 9 true (cpu (.stt 8 6 1)))), _, _, _, _,
     _, _, _, _, by decide +kernel, readReg_usable (by decide +kernel), readReg_usable (by decide +kernel),
     found_of (by decide +kernel) (by decide +kernel), ok_of (by decide +kernel), by decide +kernel⟩⟩

theorem meets_Stores :
    (∃ (x a : RegF) (z : Size) (ord : StOrd) (imm : BitVec 7) (s s1 s2 s3 : State) (base v : TVal) (l : Loc), starts (Instr.st x a z ord imm) s = true ∧ Reads (doer (Instr.st x a z ord imm) s) a (begun s) base s1 ∧ Reads (doer (Instr.st x a z ord imm) s) x s1 v s2 ∧ Finds (doer (Instr.st x a z ord imm) s) (operandPtr base.val imm (sizeBytes z)) (sizeBytes z) (if ord = .posted then .posted else .st) false s2 l s3 ∧ clear (doer (Instr.st x a z ord imm) s) l true s3 = true ∧ (s3.ctx (doer (Instr.st x a z ord imm) s).core (doer (Instr.st x a z ord imm) s).slot).nS < 63 ∧ l.win ≠ .rem ∧ ord ≠ .rel ∧ (ord = .posted → l.win ≠ .glob ∧ l.win ≠ .peer)) ∧
    (∃ (x a : RegF) (z : Size) (ord : StOrd) (imm : BitVec 7) (s s1 s2 s3 : State) (base v : TVal) (l : Loc), starts (Instr.st x a z ord imm) s = true ∧ Reads (doer (Instr.st x a z ord imm) s) a (begun s) base s1 ∧ Reads (doer (Instr.st x a z ord imm) s) x s1 v s2 ∧ Finds (doer (Instr.st x a z ord imm) s) (operandPtr base.val imm (sizeBytes z)) (sizeBytes z) (if ord = .posted then .posted else .st) false s2 l s3 ∧ clear (doer (Instr.st x a z ord imm) s) l true s3 = true ∧ (s3.ctx (doer (Instr.st x a z ord imm) s).core (doer (Instr.st x a z ord imm) s).slot).nS < 63 ∧ (s3.core (doer (Instr.st x a z ord imm) s).core).journal.length + (s3.core (doer (Instr.st x a z ord imm) s).core).promised < 64 ∧ (ord = .rel → (s3.ctx (doer (Instr.st x a z ord imm) s).core (doer (Instr.st x a z ord imm) s).slot).replayMem = false) ∧ (l.win = .rem ∨ (ord = .posted ∧ (l.win = .glob ∨ l.win = .peer)))) ∧
    (∃ (x a : RegF) (z : Size) (imm : BitVec 7) (s s1 s2 s3 : State) (base v : TVal) (l : Loc), starts (Instr.st x a z .rel imm) s = true ∧ Reads (doer (Instr.st x a z .rel imm) s) a (begun s) base s1 ∧ Reads (doer (Instr.st x a z .rel imm) s) x s1 v s2 ∧ Finds (doer (Instr.st x a z .rel imm) s) (operandPtr base.val imm (sizeBytes z)) (sizeBytes z) .st false s2 l s3 ∧ clear (doer (Instr.st x a z .rel imm) s) l true s3 = true ∧ (s3.ctx (doer (Instr.st x a z .rel imm) s).core (doer (Instr.st x a z .rel imm) s).slot).nS < 63 ∧ l.win ≠ .rem ∧ performed (doer (Instr.st x a z .rel imm) s) (counted (doer (Instr.st x a z .rel imm) s) .S s3) = true ∧ otherStale (counted (doer (Instr.st x a z .rel imm) s) .S s3) (doer (Instr.st x a z .rel imm) s).core l.place (s3.ctx (doer (Instr.st x a z .rel imm) s).core (doer (Instr.st x a z .rel imm) s).slot).gen = false) ∧
    (∃ (x a : RegF) (z : Size) (imm : BitVec 7) (s s1 s2 s3 : State) (base v : TVal) (l : Loc), starts (Instr.st x a z .rel imm) s = true ∧ Reads (doer (Instr.st x a z .rel imm) s) a (begun s) base s1 ∧ Reads (doer (Instr.st x a z .rel imm) s) x s1 v s2 ∧ Finds (doer (Instr.st x a z .rel imm) s) (operandPtr base.val imm (sizeBytes z)) (sizeBytes z) .st false s2 l s3 ∧ clear (doer (Instr.st x a z .rel imm) s) l true s3 = true ∧ (s3.ctx (doer (Instr.st x a z .rel imm) s).core (doer (Instr.st x a z .rel imm) s).slot).nS < 63 ∧ l.win ≠ .rem ∧ performed (doer (Instr.st x a z .rel imm) s) (counted (doer (Instr.st x a z .rel imm) s) .S s3) = true ∧ otherStale (counted (doer (Instr.st x a z .rel imm) s) .S s3) (doer (Instr.st x a z .rel imm) s).core l.place (s3.ctx (doer (Instr.st x a z .rel imm) s).core (doer (Instr.st x a z .rel imm) s).slot).gen = true) :=
  ⟨⟨8, 6, .d, .plain, 0, onReg 6 0xF200000000000040 (onReg 8 0x1122334455667788 (cpu (.st 8 6 .d .plain 0))), _, _, _, _, _, _, by decide +kernel, readReg_usable (by decide +kernel), readReg_usable (by decide +kernel), found_of (by decide +kernel) (by decide +kernel), by decide +kernel, by decide +kernel, by decide +kernel, by decide +kernel, by decide +kernel⟩,
   ⟨8, 6, .d, .plain, 0, onReg 6 0xF400040000000040 (onReg 8 0x1122334455667788 (cpu (.st 8 6 .d .plain 0))), _, _, _, _, _, _, by decide +kernel, readReg_usable (by decide +kernel), readReg_usable (by decide +kernel), found_of (by decide +kernel) (by decide +kernel), by decide +kernel, by decide +kernel, by decide +kernel, by decide +kernel, by decide +kernel⟩,
   ⟨8, 6, .d, 0, onReg 6 0xF200000000000040 (onReg 8 0x1122334455667788 (cpu (.st 8 6 .d .rel 0))), _, _, _, _, _, _, by decide +kernel, readReg_usable (by decide +kernel), readReg_usable (by decide +kernel), found_of (by decide +kernel) (by decide +kernel), by decide +kernel, by decide +kernel, by decide +kernel, by decide +kernel, by decide +kernel⟩,
   ⟨8, 6, .d, 0, (fun S : State => S.modCore 1 (fun k => { k with regions := [{ off := 64, len := 32, trap := true, gen := 9, gang := 0, tenant := 0, retired := false }] })) (onReg 6 0xF300040000000040 (onReg 8 0x1122334455667788 (cpu (.st 8 6 .d .rel 0)))), _, _, _, _, _, _, by decide +kernel, readReg_usable (by decide +kernel), readReg_usable (by decide +kernel), found_of (by decide +kernel) (by decide +kernel), by decide +kernel, by decide +kernel, by decide +kernel, by decide +kernel, by decide +kernel⟩⟩

theorem meets_StoreCommits :
    (∃ (c idx : Nat) (s : State) (b : SbEntry), (s.core c).storeBuf[idx]? = some b ∧ commitReady s c b = true) :=
  ⟨0, 0, onMe (fun x => { x with nS := 2, seq := 2 }) (onCore (fun k => { k with storeBuf := [{ slot := 0, uid := 1, tenant := 0, seq := 0, pair := 0, place := .ls 0 0x42, size := 2, value := 0x1234, gen := 1 }] }) (cpu .nop)), _, some_of (by decide +kernel), by decide +kernel⟩

theorem meets_PostedStoreAccepted :
    (∃ (c idx : Nat) (s : State) (j : JEntry), (s.core c).journal[idx]? = some j ∧ acceptReady s c j = true ∧ (s.ctx c j.slot).suspends j = false) :=
  ⟨0, 0, (fun s => s.modCore 1 (fun k => { k with regions := [{ off := 0, len := 256, trap := false, gen := 9, gang := 0, tenant := 0, retired := false }] })) (onMe (fun x => { x with nS := 1, seq := 1 }) (onCore (fun k => { k with journal := [{ ent := 0, slot := 0, uid := 1, land := 0, tenant := 0, seq := 0, pair := 0, place := .ls 1 0x40, ptr := 0xF400040000000040, size := 4, value := 0x1234, rel := false, gen := 1 }] }) (cpu .nop))), _, some_of (by decide +kernel), by decide +kernel, by decide +kernel⟩

theorem meets_GranuleWrite :
    (∃ (off n : Nat), off / 32 = (off + n - 1) / 32 ∧ 1 ≤ n) ∧
    (∃ (off n : Nat) (a : _), off / 32 = (off + n - 1) / 32 ∧ 1 ≤ n ∧ a / 32 = off / 32 ∧ (a < off ∨ off + n ≤ a)) ∧
    (∃ (off n : Nat) (a : _), off / 32 = (off + n - 1) / 32 ∧ 1 ≤ n ∧ a / 32 ≠ off / 32) ∧
    (∃ (g : BitVec 16) (off n : Nat) (a : _) (h : _), off / 32 = (off + n - 1) / 32 ∧ 1 ≤ n ∧ h ≠ g ∧ a / 32 = off / 32) ∧
    (∃ (off n : Nat) (a : _), off / 32 = (off + n - 1) / 32 ∧ 1 ≤ n ∧ a / 32 = off / 32) :=
  ⟨⟨36, 4, by decide +kernel, by decide +kernel⟩,
   ⟨36, 4, 40, by decide +kernel⟩,
   ⟨0, 4, 33, by decide +kernel, by decide +kernel, by decide +kernel⟩,
   ⟨1, 32, 4, 33, 2, by decide +kernel⟩,
   ⟨36, 4, 40, by decide +kernel, by decide +kernel, by decide +kernel⟩⟩

/-- A full word of core 1 in no live region, named through the remote window. -/
def atOther (i : Instr) : State := (onReg 6 0xF400040000000040 (cpu i)).modCore 1 (fun k => k.lsWriteFe 9 0x40 0x55 true)

theorem meets_FullEmptyWords :
    (∃ (d a : RegF) (imm : BitVec 7) (s s2 s3 s4 : State) (base : TVal) (l : Loc) (c off : Nat) (row : _), (row ∈ ([(Instr.ldfe, true), (Instr.ldff, false)] : List ((RegF → RegF → BitVec 7 → Instr) × Bool))) ∧ starts (row.1 d a imm) s = true ∧ Reads (doer (row.1 d a imm) s) a (begun s) base s2 ∧ Finds (doer (row.1 d a imm) s) (operandPtr base.val imm 8) 8 .fe false s2 l s3 ∧ l.place = .ls c off ∧ clear (doer (row.1 d a imm) s) l row.2 s3 = true ∧ (fun (e0 : Env) => mayPerform e0 l s3 && (ownBuf e0 s3).all (fun b => !b.place.overlaps b.size l.place l.size)) (doer (row.1 d a imm) s) = true ∧ (s3.ctx s.cur.1 s.cur.2).nL < 63 ∧ (((s3.core c).gov (s3.ctx s.cur.1 s.cur.2).gen off).2 && (s3.core c).stamp off != (((s3.core c).gov (s3.ctx s.cur.1 s.cur.2).gen off).1)) = false ∧ (s3.core c).seenFull (((s3.core c).gov (s3.ctx s.cur.1 s.cur.2).gen off).1) off = true ∧ claimed s3 s.cur.1 s.cur.2 c off true = false ∧ (c = s.cur.1 ∨ (s3.ctx s.cur.1 s.cur.2).isPort d.toNat = true ∨ ((s3.ctx s.cur.1 s.cur.2).bound? d.toNat).isSome = true) ∧ Writes (doer (row.1 d a imm) s) d ({ val := w64 ((s3.core c).lsRead (((s3.core c).gov (s3.ctx s.cur.1 s.cur.2).gen off).1) off 8), cnt := 127, inx := false } : TVal) ((fun (t : Bool) (u : State) => if t then (fun (u : State) => (fun (u : State) => u.modCtx s.cur.1 s.cur.2 (fun y => { y with seq := y.seq + 1 })) ((((u.see (s3.ctx s.cur.1 s.cur.2).uid (s3.newest (((s3.core c).gov (s3.ctx s.cur.1 s.cur.2).gen off).1) (.ls c off) 8)).record ((fun (u : State) => u.byCtx s.cur.1 (s3.ctx s.cur.1 s.cur.2).uid (s3.ctx s.cur.1 s.cur.2).tenant (s3.ctx s.cur.1 s.cur.2).seq) (u.see (s3.ctx s.cur.1 s.cur.2).uid (s3.newest (((s3.core c).gov (s3.ctx s.cur.1 s.cur.2).gen off).1) (.ls c off) 8))) (.ls c off) 0 0 (((s3.core c).gov (s3.ctx s.cur.1 s.cur.2).gen off).1)).gain (s3.ctx s.cur.1 s.cur.2).uid (s3.acquired (.ctx (s3.ctx s.cur.1 s.cur.2).uid s.cur.1 (s3.ctx s.cur.1 s.cur.2).tenant 0 0) .device (s3.newest (((s3.core c).gov (s3.ctx s.cur.1 s.cur.2).gen off).1) (.ls c off) 8))).modCore c (fun k => k.setFe (((s3.core c).gov (s3.ctx s.cur.1 s.cur.2).gen off).1) off false))) u else (fun (u : State) => (u.see (s3.ctx s.cur.1 s.cur.2).uid (s3.newest (((s3.core c).gov (s3.ctx s.cur.1 s.cur.2).gen off).1) (.ls c off) 8)).gain (s3.ctx s.cur.1 s.cur.2).uid (s3.acquired (.ctx (s3.ctx s.cur.1 s.cur.2).uid s.cur.1 (s3.ctx s.cur.1 s.cur.2).tenant 0 0) .device (s3.newest (((s3.core c).gov (s3.ctx s.cur.1 s.cur.2).gen off).1) (.ls c off) 8))) u) row.2 (tested (doer (row.1 d a imm) s) .L s3)) s4) ∧
    (∃ (d a : RegF) (imm : BitVec 7) (s s2 s3 s4 : State) (base : TVal) (l : Loc) (c off : Nat) (row : _), (row ∈ ([(Instr.ldfe, true), (Instr.ldff, false)] : List ((RegF → RegF → BitVec 7 → Instr) × Bool))) ∧ starts (row.1 d a imm) s = true ∧ Reads (doer (row.1 d a imm) s) a (begun s) base s2 ∧ Finds (doer (row.1 d a imm) s) (operandPtr base.val imm 8) 8 .fe false s2 l s3 ∧ l.place = .ls c off ∧ clear (doer (row.1 d a imm) s) l row.2 s3 = true ∧ (fun (e0 : Env) => mayPerform e0 l s3 && (ownBuf e0 s3).all (fun b => !b.place.overlaps b.size l.place l.size)) (doer (row.1 d a imm) s) = true ∧ (s3.ctx s.cur.1 s.cur.2).nL < 63 ∧ (((s3.core c).gov (s3.ctx s.cur.1 s.cur.2).gen off).2 && (s3.core c).stamp off != (((s3.core c).gov (s3.ctx s.cur.1 s.cur.2).gen off).1)) = false ∧ (s3.core c).seenFull (((s3.core c).gov (s3.ctx s.cur.1 s.cur.2).gen off).1) off = true ∧ claimed s3 s.cur.1 s.cur.2 c off true = false ∧ (¬(c = s.cur.1 ∨ (s3.ctx s.cur.1 s.cur.2).isPort d.toNat = true ∨ ((s3.ctx s.cur.1 s.cur.2).bound? d.toNat).isSome = true)) ∧ waitReg d.toNat (doer (row.1 d a imm) s) (counted (doer (row.1 d a imm) s) .L s3) = .ok ((), counted (doer (row.1 d a imm) s) .L s3) ∧ Ready (doer (row.1 d a imm) s) d ((fun (t : Bool) (u : State) => if t then (fun (u : State) => (fun (u : State) => u.modCtx s.cur.1 s.cur.2 (fun y => { y with seq := y.seq + 1 })) ((((u.see (s3.ctx s.cur.1 s.cur.2).uid (s3.newest (((s3.core c).gov (s3.ctx s.cur.1 s.cur.2).gen off).1) (.ls c off) 8)).record ((fun (u : State) => u.byCtx s.cur.1 (s3.ctx s.cur.1 s.cur.2).uid (s3.ctx s.cur.1 s.cur.2).tenant (s3.ctx s.cur.1 s.cur.2).seq) (u.see (s3.ctx s.cur.1 s.cur.2).uid (s3.newest (((s3.core c).gov (s3.ctx s.cur.1 s.cur.2).gen off).1) (.ls c off) 8))) (.ls c off) 0 0 (((s3.core c).gov (s3.ctx s.cur.1 s.cur.2).gen off).1)).gain (s3.ctx s.cur.1 s.cur.2).uid (s3.acquired (.ctx (s3.ctx s.cur.1 s.cur.2).uid s.cur.1 (s3.ctx s.cur.1 s.cur.2).tenant 0 0) .device (s3.newest (((s3.core c).gov (s3.ctx s.cur.1 s.cur.2).gen off).1) (.ls c off) 8))).modCore c (fun k => k.setFe (((s3.core c).gov (s3.ctx s.cur.1 s.cur.2).gen off).1) off false))) u else (fun (u : State) => (u.see (s3.ctx s.cur.1 s.cur.2).uid (s3.newest (((s3.core c).gov (s3.ctx s.cur.1 s.cur.2).gen off).1) (.ls c off) 8)).gain (s3.ctx s.cur.1 s.cur.2).uid (s3.acquired (.ctx (s3.ctx s.cur.1 s.cur.2).uid s.cur.1 (s3.ctx s.cur.1 s.cur.2).tenant 0 0) .device (s3.newest (((s3.core c).gov (s3.ctx s.cur.1 s.cur.2).gen off).1) (.ls c off) 8))) u) row.2 (counted (doer (row.1 d a imm) s) .L s3)) none s4) ∧
    (∃ (d a : RegF) (imm : BitVec 7) (s s1 s2 s3 : State) (base v : TVal) (l : Loc) (c off : Nat), starts (.stfe d a imm) s = true ∧ Reads (doer (.stfe d a imm) s) a (begun s) base s1 ∧ Reads (doer (.stfe d a imm) s) d s1 v s2 ∧ Finds (doer (.stfe d a imm) s) (operandPtr base.val imm 8) 8 .fe false s2 l s3 ∧ l.place = .ls c off ∧ clear (doer (.stfe d a imm) s) l true s3 = true ∧ performed (doer (.stfe d a imm) s) s3 = true ∧ (s3.ctx s.cur.1 s.cur.2).nS < 63 ∧ (l.win ≠ .rem ∨ (s3.inPart (s3.ctx s.cur.1 s.cur.2).tenant c = true ∧ ((s3.core c).regionAt off).isSome = true)) ∧ (((s3.core c).gov (s3.ctx s.cur.1 s.cur.2).gen off).2 && (s3.core c).stamp off != (((s3.core c).gov (s3.ctx s.cur.1 s.cur.2).gen off).1)) = false ∧ (s3.core c).seenFull (((s3.core c).gov (s3.ctx s.cur.1 s.cur.2).gen off).1) off = false ∧ claimed s3 s.cur.1 s.cur.2 c off false = false) ∧
    (∃ (a : RegF) (imm : BitVec 7) (s s2 s3 : State) (base : TVal) (l : Loc) (c off : Nat), starts (.sete a imm) s = true ∧ Reads (doer (.sete a imm) s) a (begun s) base s2 ∧ Finds (doer (.sete a imm) s) (operandPtr base.val imm 8) 8 .fe false s2 l s3 ∧ l.place = .ls c off ∧ clear (doer (.sete a imm) s) l true s3 = true ∧ (fun (e : Env) => mayPerform e l s3 && (ownBuf e s3).all (fun b => !b.place.overlaps b.size l.place l.size)) (doer (.sete a imm) s) = true ∧ (s3.ctx s.cur.1 s.cur.2).nS < 63 ∧ (l.win ≠ .rem ∨ (s3.inPart (s3.ctx s.cur.1 s.cur.2).tenant c = true ∧ ((s3.core c).regionAt off).isSome = true))) ∧
    (∃ (d a : RegF) (imm : BitVec 7) (s s1 s2 s3 : State) (base v : TVal) (l : Loc) (c off : Nat) (row : _), l.place = .ls c off ∧ row ∈ ([(Instr.stfe d a imm, performed (doer (.stfe d a imm) s) s3), (Instr.sete a imm, (fun (e : Env) => mayPerform e l s3 && (ownBuf e s3).all (fun b => !b.place.overlaps b.size l.place l.size)) (doer (.sete a imm) s))] : List (Instr × Bool)) ∧ starts row.1 s = true ∧ Reads (doer row.1 s) a (begun s) base s1 ∧ (row.1 = .stfe d a imm → Reads (doer row.1 s) d s1 v s2) ∧ (row.1 = .sete a imm → s2 = s1) ∧ Finds (doer row.1 s) (operandPtr base.val imm 8) 8 .fe false s2 l s3 ∧ clear (doer row.1 s) l true s3 = true ∧ row.2 = true ∧ (s3.ctx s.cur.1 s.cur.2).nS < 63 ∧ (¬(l.win ≠ .rem ∨ (s3.inPart (s3.ctx s.cur.1 s.cur.2).tenant c = true ∧ ((s3.core c).regionAt off).isSome = true)))) ∧
    (∃ (row : _) (d a : RegF) (imm : BitVec 7) (s s2 s3 : State) (base : TVal) (l : Loc) (off : Nat), (row ∈ ([(Instr.ldfe, true), (Instr.ldff, false)] : List ((RegF → RegF → BitVec 7 → Instr) × Bool))) ∧ starts (row.1 d a imm) s = true ∧ Reads (doer (row.1 d a imm) s) a (begun s) base s2 ∧ Finds (doer (row.1 d a imm) s) (operandPtr base.val imm 8) 8 .fe false s2 l s3 ∧ l.place = .ls (doer (row.1 d a imm) s).core off ∧ clear (doer (row.1 d a imm) s) l row.2 s3 = true ∧ mayPerform (doer (row.1 d a imm) s) l s3 = true ∧ (ownBuf (doer (row.1 d a imm) s) s3).all (fun b => !b.place.overlaps b.size l.place l.size) = true ∧ (s3.ctx (doer (row.1 d a imm) s).core (doer (row.1 d a imm) s).slot).nL < 63 ∧ (((s3.core (doer (row.1 d a imm) s).core).gov (s3.ctx (doer (row.1 d a imm) s).core (doer (row.1 d a imm) s).slot).gen off).2 && (s3.core (doer (row.1 d a imm) s).core).stamp off != (((s3.core (doer (row.1 d a imm) s).core).gov (s3.ctx (doer (row.1 d a imm) s).core (doer (row.1 d a imm) s).slot).gen off).1)) = false ∧ (s3.core (doer (row.1 d a imm) s).core).seenFull (((s3.core (doer (row.1 d a imm) s).core).gov (s3.ctx (doer (row.1 d a imm) s).core (doer (row.1 d a imm) s).slot).gen off).1) off = false) ∧
    (∃ (x a : RegF) (imm : BitVec 7) (s s1 s2 s3 : State) (base v : TVal) (l : Loc) (c off : Nat), starts (Instr.stfe x a imm) s = true ∧ Reads (doer (Instr.stfe x a imm) s) a (begun s) base s1 ∧ Reads (doer (Instr.stfe x a imm) s) x s1 v s2 ∧ Finds (doer (Instr.stfe x a imm) s) (operandPtr base.val imm 8) 8 .fe false s2 l s3 ∧ l.place = .ls c off ∧ clear (doer (Instr.stfe x a imm) s) l true s3 = true ∧ performed (doer (Instr.stfe x a imm) s) s3 = true ∧ (s3.ctx (doer (Instr.stfe x a imm) s).core (doer (Instr.stfe x a imm) s).slot).nS < 63 ∧ (((s3.core c).gov (s3.ctx (doer (Instr.stfe x a imm) s).core (doer (Instr.stfe x a imm) s).slot).gen off).2 && (s3.core c).stamp off != (((s3.core c).gov (s3.ctx (doer (Instr.stfe x a imm) s).core (doer (Instr.stfe x a imm) s).slot).gen off).1)) = false ∧ (s3.core c).seenFull (((s3.core c).gov (s3.ctx (doer (Instr.stfe x a imm) s).core (doer (Instr.stfe x a imm) s).slot).gen off).1) off = true ∧ (l.win = .rem → s3.inPart (s3.ctx (doer (Instr.stfe x a imm) s).core (doer (Instr.stfe x a imm) s).slot).tenant c = true ∧ ((s3.core c).regionAt off).isSome = true)) :=
  ⟨⟨5, 6, 0, onReg 6 0xF200000000000040 (onCore (fun k => k.lsWriteFe 1 0x40 0x55 true) (cpu (Instr.ldfe 5 6 0))), _, _, _, _, _, 0, 0x40, _, .head _, by decide +kernel, readReg_usable (by decide +kernel), found_of (by decide +kernel) (by decide +kernel), by decide +kernel, by decide +kernel, by decide +kernel, by decide +kernel, by decide +kernel, by decide +kernel, by decide +kernel, by decide +kernel, writeReg_usable _ rfl rfl (by decide +kernel)⟩,
   ⟨5, 6, 0, (fun S => S.modCore 1 (fun k => { k.lsWriteFe 9 0x40 0x55 true with regions := [{ off := 64, len := 32, trap := false, gen := 9, gang := 0, tenant := 0, retired := false }] })) (onReg 6 0xF400040000000040 (cpu (Instr.ldfe 5 6 0))), _, _, _, _, _, 1, 0x40, _, .head _, by decide +kernel, readReg_usable (by decide +kernel), found_of (by decide +kernel) (by decide +kernel), by decide +kernel, by decide +kernel, by decide +kernel, by decide +kernel, by decide +kernel, by decide +kernel, by decide +kernel, by decide +kernel, unit_of (by decide +kernel), ready_none (by decide +kernel)⟩,
   ⟨5, 6, 0, onReg 6 0xF200000000000040 (onCore (fun k => k.lsWriteFe 1 0x40 0x55 false) (onReg 5 9 (cpu (.stfe 5 6 0)))), _, _, _, _, _, _, 0, 0x40, by decide +kernel, readReg_usable (by decide +kernel), readReg_usable (by decide +kernel), found_of (by decide +kernel) (by decide +kernel), by decide +kernel, by decide +kernel, by decide +kernel, by decide +kernel, by decide +kernel, by decide +kernel, by decide +kernel, by decide +kernel⟩,
   ⟨6, 0, onReg 6 0xF200000000000040 (onCore (fun k => k.lsWriteFe 1 0x40 0x55 true) (cpu (.sete 6 0))), _, _, _, _, 0, 0x40, by decide +kernel, readReg_usable (by decide +kernel), found_of (by decide +kernel) (by decide +kernel), by decide +kernel, by decide +kernel, by decide +kernel, by decide +kernel, by decide +kernel⟩,
   (by refine ⟨5, 6, 0, atOther (.stfe 5 6 0), begun (atOther (.stfe 5 6 0)), begun (atOther (.stfe 5 6 0)), _, _, _, _, 1, 0x40, (Instr.stfe 5 6 0, true), ?_,
    ?_, by decide +kernel, readReg_usable (by decide +kernel), fun _ => readReg_usable (by decide +kernel), (fun h => by cases h),
    found_of (by decide +kernel) (by decide +kernel), by decide +kernel, rfl, by decide +kernel, by decide +kernel⟩ <;> decide +kernel),
   ⟨_, 5, 6, 0, onReg 6 0xF200000000000040 (onCore (fun k => k.lsWriteFe 1 0x40 0x55 false) (cpu (Instr.ldfe 5 6 0))), _, _, _, _, 0x40, .head _, by decide +kernel, readReg_usable (by decide +kernel), found_of (by decide +kernel) (by decide +kernel), by decide +kernel, by decide +kernel, by decide +kernel, by decide +kernel, by decide +kernel, by decide +kernel, by decide +kernel⟩,
   ⟨8, 6, 0, onReg 6 0xF200000000000040 (onCore (fun k => k.lsWriteFe 1 0x40 0x55 true) (onReg 8 9 (cpu (.stfe 8 6 0)))), _, _, _, _, _, _, 0, 0x40, by decide +kernel, readReg_usable (by decide +kernel), readReg_usable (by decide +kernel), found_of (by decide +kernel) (by decide +kernel), by decide +kernel, by decide +kernel, by decide +kernel, by decide +kernel, by decide +kernel, by decide +kernel, by decide +kernel⟩⟩

theorem meets_Atomics :
    (∃ (op : AmoOp) (sc : AScope) (d a b : RegF) (s s1 s2 s3 s5 : State) (p v : TVal) (l : Loc), starts (Instr.amo op sc d a b) s = true ∧ Reads (doer (Instr.amo op sc d a b) s) a (begun s) p s1 ∧ Reads (doer (Instr.amo op sc d a b) s) b s1 v s2 ∧ Finds (doer (Instr.amo op sc d a b) s) p.val 8 .atom false s2 l s3 ∧ l.ownLs (doer (Instr.amo op sc d a b) s).core = true ∧ clear (doer (Instr.amo op sc d a b) s) l true s3 = true ∧ (s3.ctx (doer (Instr.amo op sc d a b) s).core (doer (Instr.amo op sc d a b) s).slot).nL < 63 ∧ performed (doer (Instr.amo op sc d a b) s) (tested (doer (Instr.amo op sc d a b) s) .L s3) = true ∧ (tested (doer (Instr.amo op sc d a b) s) .L s3).staleTrap l.place ((tested (doer (Instr.amo op sc d a b) s) .L s3).ctx (doer (Instr.amo op sc d a b) s).core (doer (Instr.amo op sc d a b) s).slot).gen = false ∧ Writes (doer (Instr.amo op sc d a b) s) d { val := (w64 ((tested (doer (Instr.amo op sc d a b) s) .L s3).weakRead ((tested (doer (Instr.amo op sc d a b) s) .L s3).reader ((tested (doer (Instr.amo op sc d a b) s) .L s3).ctx (doer (Instr.amo op sc d a b) s).core (doer (Instr.amo op sc d a b) s).slot).uid) ((tested (doer (Instr.amo op sc d a b) s) .L s3).ctx (doer (Instr.amo op sc d a b) s).core (doer (Instr.amo op sc d a b) s).slot).gen (fun q w => ((tested (doer (Instr.amo op sc d a b) s) .L s3).wset q).all (fun y => !(y.isAfter w && (atomSet sc (doer (Instr.amo op sc d a b) s).core).has y.by_))) l.place 8).1), cnt := 127, inx := false } (numbered (doer (Instr.amo op sc d a b) s) (((((tested (doer (Instr.amo op sc d a b) s) .L s3).weakRead ((tested (doer (Instr.amo op sc d a b) s) .L s3).reader ((tested (doer (Instr.amo op sc d a b) s) .L s3).ctx (doer (Instr.amo op sc d a b) s).core (doer (Instr.amo op sc d a b) s).slot).uid) ((tested (doer (Instr.amo op sc d a b) s) .L s3).ctx (doer (Instr.amo op sc d a b) s).core (doer (Instr.amo op sc d a b) s).slot).gen (fun q w => ((tested (doer (Instr.amo op sc d a b) s) .L s3).wset q).all (fun y => !(y.isAfter w && (atomSet sc (doer (Instr.amo op sc d a b) s).core).has y.by_))) l.place 8).2.2.see ((tested (doer (Instr.amo op sc d a b) s) .L s3).ctx (doer (Instr.amo op sc d a b) s).core (doer (Instr.amo op sc d a b) s).slot).uid ((tested (doer (Instr.amo op sc d a b) s) .L s3).weakRead ((tested (doer (Instr.amo op sc d a b) s) .L s3).reader ((tested (doer (Instr.amo op sc d a b) s) .L s3).ctx (doer (Instr.amo op sc d a b) s).core (doer (Instr.amo op sc d a b) s).slot).uid) ((tested (doer (Instr.amo op sc d a b) s) .L s3).ctx (doer (Instr.amo op sc d a b) s).core (doer (Instr.amo op sc d a b) s).slot).gen (fun q w => ((tested (doer (Instr.amo op sc d a b) s) .L s3).wset q).all (fun y => !(y.isAfter w && (atomSet sc (doer (Instr.amo op sc d a b) s).core).has y.by_))) l.place 8).2.1).commit ((((tested (doer (Instr.amo op sc d a b) s) .L s3).weakRead ((tested (doer (Instr.amo op sc d a b) s) .L s3).reader ((tested (doer (Instr.amo op sc d a b) s) .L s3).ctx (doer (Instr.amo op sc d a b) s).core (doer (Instr.amo op sc d a b) s).slot).uid) ((tested (doer (Instr.amo op sc d a b) s) .L s3).ctx (doer (Instr.amo op sc d a b) s).core (doer (Instr.amo op sc d a b) s).slot).gen (fun q w => ((tested (doer (Instr.amo op sc d a b) s) .L s3).wset q).all (fun y => !(y.isAfter w && (atomSet sc (doer (Instr.amo op sc d a b) s).core).has y.by_))) l.place 8).2.2.see ((tested (doer (Instr.amo op sc d a b) s) .L s3).ctx (doer (Instr.amo op sc d a b) s).core (doer (Instr.amo op sc d a b) s).slot).uid ((tested (doer (Instr.amo op sc d a b) s) .L s3).weakRead ((tested (doer (Instr.amo op sc d a b) s) .L s3).reader ((tested (doer (Instr.amo op sc d a b) s) .L s3).ctx (doer (Instr.amo op sc d a b) s).core (doer (Instr.amo op sc d a b) s).slot).uid) ((tested (doer (Instr.amo op sc d a b) s) .L s3).ctx (doer (Instr.amo op sc d a b) s).core (doer (Instr.amo op sc d a b) s).slot).gen (fun q w => ((tested (doer (Instr.amo op sc d a b) s) .L s3).wset q).all (fun y => !(y.isAfter w && (atomSet sc (doer (Instr.amo op sc d a b) s).core).has y.by_))) l.place 8).2.1).byRelease (doer (Instr.amo op sc d a b) s).core ((tested (doer (Instr.amo op sc d a b) s) .L s3).ctx (doer (Instr.amo op sc d a b) s).core (doer (Instr.amo op sc d a b) s).slot).uid ((tested (doer (Instr.amo op sc d a b) s) .L s3).ctx (doer (Instr.amo op sc d a b) s).core (doer (Instr.amo op sc d a b) s).slot).tenant ((tested (doer (Instr.amo op sc d a b) s) .L s3).ctx (doer (Instr.amo op sc d a b) s).core (doer (Instr.amo op sc d a b) s).slot).seq (atomSet sc (doer (Instr.amo op sc d a b) s).core)) l.place 8 (match op with | .add => BitVec.ofInt 64 ((w64 ((tested (doer (Instr.amo op sc d a b) s) .L s3).weakRead ((tested (doer (Instr.amo op sc d a b) s) .L s3).reader ((tested (doer (Instr.amo op sc d a b) s) .L s3).ctx (doer (Instr.amo op sc d a b) s).core (doer (Instr.amo op sc d a b) s).slot).uid) ((tested (doer (Instr.amo op sc d a b) s) .L s3).ctx (doer (Instr.amo op sc d a b) s).core (doer (Instr.amo op sc d a b) s).slot).gen (fun q w => ((tested (doer (Instr.amo op sc d a b) s) .L s3).wset q).all (fun y => !(y.isAfter w && (atomSet sc (doer (Instr.amo op sc d a b) s).core).has y.by_))) l.place 8).1).toInt + v.val.toInt) | .and => (w64 ((tested (doer (Instr.amo op sc d a b) s) .L s3).weakRead ((tested (doer (Instr.amo op sc d a b) s) .L s3).reader ((tested (doer (Instr.amo op sc d a b) s) .L s3).ctx (doer (Instr.amo op sc d a b) s).core (doer (Instr.amo op sc d a b) s).slot).uid) ((tested (doer (Instr.amo op sc d a b) s) .L s3).ctx (doer (Instr.amo op sc d a b) s).core (doer (Instr.amo op sc d a b) s).slot).gen (fun q w => ((tested (doer (Instr.amo op sc d a b) s) .L s3).wset q).all (fun y => !(y.isAfter w && (atomSet sc (doer (Instr.amo op sc d a b) s).core).has y.by_))) l.place 8).1) &&& v.val | .or => (w64 ((tested (doer (Instr.amo op sc d a b) s) .L s3).weakRead ((tested (doer (Instr.amo op sc d a b) s) .L s3).reader ((tested (doer (Instr.amo op sc d a b) s) .L s3).ctx (doer (Instr.amo op sc d a b) s).core (doer (Instr.amo op sc d a b) s).slot).uid) ((tested (doer (Instr.amo op sc d a b) s) .L s3).ctx (doer (Instr.amo op sc d a b) s).core (doer (Instr.amo op sc d a b) s).slot).gen (fun q w => ((tested (doer (Instr.amo op sc d a b) s) .L s3).wset q).all (fun y => !(y.isAfter w && (atomSet sc (doer (Instr.amo op sc d a b) s).core).has y.by_))) l.place 8).1) ||| v.val | .xor => (w64 ((tested (doer (Instr.amo op sc d a b) s) .L s3).weakRead ((tested (doer (Instr.amo op sc d a b) s) .L s3).reader ((tested (doer (Instr.amo op sc d a b) s) .L s3).ctx (doer (Instr.amo op sc d a b) s).core (doer (Instr.amo op sc d a b) s).slot).uid) ((tested (doer (Instr.amo op sc d a b) s) .L s3).ctx (doer (Instr.amo op sc d a b) s).core (doer (Instr.amo op sc d a b) s).slot).gen (fun q w => ((tested (doer (Instr.amo op sc d a b) s) .L s3).wset q).all (fun y => !(y.isAfter w && (atomSet sc (doer (Instr.amo op sc d a b) s).core).has y.by_))) l.place 8).1) ^^^ v.val | .min => BitVec.ofInt 64 (min (w64 ((tested (doer (Instr.amo op sc d a b) s) .L s3).weakRead ((tested (doer (Instr.amo op sc d a b) s) .L s3).reader ((tested (doer (Instr.amo op sc d a b) s) .L s3).ctx (doer (Instr.amo op sc d a b) s).core (doer (Instr.amo op sc d a b) s).slot).uid) ((tested (doer (Instr.amo op sc d a b) s) .L s3).ctx (doer (Instr.amo op sc d a b) s).core (doer (Instr.amo op sc d a b) s).slot).gen (fun q w => ((tested (doer (Instr.amo op sc d a b) s) .L s3).wset q).all (fun y => !(y.isAfter w && (atomSet sc (doer (Instr.amo op sc d a b) s).core).has y.by_))) l.place 8).1).toInt v.val.toInt) | .max => BitVec.ofInt 64 (max (w64 ((tested (doer (Instr.amo op sc d a b) s) .L s3).weakRead ((tested (doer (Instr.amo op sc d a b) s) .L s3).reader ((tested (doer (Instr.amo op sc d a b) s) .L s3).ctx (doer (Instr.amo op sc d a b) s).core (doer (Instr.amo op sc d a b) s).slot).uid) ((tested (doer (Instr.amo op sc d a b) s) .L s3).ctx (doer (Instr.amo op sc d a b) s).core (doer (Instr.amo op sc d a b) s).slot).gen (fun q w => ((tested (doer (Instr.amo op sc d a b) s) .L s3).wset q).all (fun y => !(y.isAfter w && (atomSet sc (doer (Instr.amo op sc d a b) s).core).has y.by_))) l.place 8).1).toInt v.val.toInt) | .minn => BitVec.ofNat 64 (min (w64 ((tested (doer (Instr.amo op sc d a b) s) .L s3).weakRead ((tested (doer (Instr.amo op sc d a b) s) .L s3).reader ((tested (doer (Instr.amo op sc d a b) s) .L s3).ctx (doer (Instr.amo op sc d a b) s).core (doer (Instr.amo op sc d a b) s).slot).uid) ((tested (doer (Instr.amo op sc d a b) s) .L s3).ctx (doer (Instr.amo op sc d a b) s).core (doer (Instr.amo op sc d a b) s).slot).gen (fun q w => ((tested (doer (Instr.amo op sc d a b) s) .L s3).wset q).all (fun y => !(y.isAfter w && (atomSet sc (doer (Instr.amo op sc d a b) s).core).has y.by_))) l.place 8).1).toNat v.val.toNat) | .maxn => BitVec.ofNat 64 (max (w64 ((tested (doer (Instr.amo op sc d a b) s) .L s3).weakRead ((tested (doer (Instr.amo op sc d a b) s) .L s3).reader ((tested (doer (Instr.amo op sc d a b) s) .L s3).ctx (doer (Instr.amo op sc d a b) s).core (doer (Instr.amo op sc d a b) s).slot).uid) ((tested (doer (Instr.amo op sc d a b) s) .L s3).ctx (doer (Instr.amo op sc d a b) s).core (doer (Instr.amo op sc d a b) s).slot).gen (fun q w => ((tested (doer (Instr.amo op sc d a b) s) .L s3).wset q).all (fun y => !(y.isAfter w && (atomSet sc (doer (Instr.amo op sc d a b) s).core).has y.by_))) l.place 8).1).toNat v.val.toNat) | .swap => v.val).toNat ((tested (doer (Instr.amo op sc d a b) s) .L s3).ctx (doer (Instr.amo op sc d a b) s).core (doer (Instr.amo op sc d a b) s).slot).gen).gain ((tested (doer (Instr.amo op sc d a b) s) .L s3).ctx (doer (Instr.amo op sc d a b) s).core (doer (Instr.amo op sc d a b) s).slot).uid ((tested (doer (Instr.amo op sc d a b) s) .L s3).acquired (.ctx ((tested (doer (Instr.amo op sc d a b) s) .L s3).ctx (doer (Instr.amo op sc d a b) s).core (doer (Instr.amo op sc d a b) s).slot).uid (doer (Instr.amo op sc d a b) s).core ((tested (doer (Instr.amo op sc d a b) s) .L s3).ctx (doer (Instr.amo op sc d a b) s).core (doer (Instr.amo op sc d a b) s).slot).tenant 0 0) (atomSet sc (doer (Instr.amo op sc d a b) s).core) ((tested (doer (Instr.amo op sc d a b) s) .L s3).weakRead ((tested (doer (Instr.amo op sc d a b) s) .L s3).reader ((tested (doer (Instr.amo op sc d a b) s) .L s3).ctx (doer (Instr.amo op sc d a b) s).core (doer (Instr.amo op sc d a b) s).slot).uid) ((tested (doer (Instr.amo op sc d a b) s) .L s3).ctx (doer (Instr.amo op sc d a b) s).core (doer (Instr.amo op sc d a b) s).slot).gen (fun q w => ((tested (doer (Instr.amo op sc d a b) s) .L s3).wset q).all (fun y => !(y.isAfter w && (atomSet sc (doer (Instr.amo op sc d a b) s).core).has y.by_))) l.place 8).2.1))) s5) ∧
    (∃ (sc : AScope) (d a b : RegF) (s s1 s2 s3 s4 s6 : State) (p new exp : TVal) (l : Loc), starts (Instr.cas sc d a b) s = true ∧ Reads (doer (Instr.cas sc d a b) s) a (begun s) p s1 ∧ Reads (doer (Instr.cas sc d a b) s) b s1 new s2 ∧ Reads (doer (Instr.cas sc d a b) s) d s2 exp s3 ∧ Finds (doer (Instr.cas sc d a b) s) p.val 8 .atom false s3 l s4 ∧ l.ownLs (doer (Instr.cas sc d a b) s).core = true ∧ clear (doer (Instr.cas sc d a b) s) l true s4 = true ∧ (s4.ctx (doer (Instr.cas sc d a b) s).core (doer (Instr.cas sc d a b) s).slot).nL < 63 ∧ performed (doer (Instr.cas sc d a b) s) (tested (doer (Instr.cas sc d a b) s) .L s4) = true ∧ (tested (doer (Instr.cas sc d a b) s) .L s4).staleTrap l.place ((tested (doer (Instr.cas sc d a b) s) .L s4).ctx (doer (Instr.cas sc d a b) s).core (doer (Instr.cas sc d a b) s).slot).gen = false ∧ Writes (doer (Instr.cas sc d a b) s) d { val := (w64 ((tested (doer (Instr.cas sc d a b) s) .L s4).weakRead ((tested (doer (Instr.cas sc d a b) s) .L s4).reader ((tested (doer (Instr.cas sc d a b) s) .L s4).ctx (doer (Instr.cas sc d a b) s).core (doer (Instr.cas sc d a b) s).slot).uid) ((tested (doer (Instr.cas sc d a b) s) .L s4).ctx (doer (Instr.cas sc d a b) s).core (doer (Instr.cas sc d a b) s).slot).gen (fun q w => ((tested (doer (Instr.cas sc d a b) s) .L s4).wset q).all (fun y => !(y.isAfter w && (atomSet sc (doer (Instr.cas sc d a b) s).core).has y.by_))) l.place 8).1), cnt := 127, inx := false } (numbered (doer (Instr.cas sc d a b) s) ((if (w64 ((tested (doer (Instr.cas sc d a b) s) .L s4).weakRead ((tested (doer (Instr.cas sc d a b) s) .L s4).reader ((tested (doer (Instr.cas sc d a b) s) .L s4).ctx (doer (Instr.cas sc d a b) s).core (doer (Instr.cas sc d a b) s).slot).uid) ((tested (doer (Instr.cas sc d a b) s) .L s4).ctx (doer (Instr.cas sc d a b) s).core (doer (Instr.cas sc d a b) s).slot).gen (fun q w => ((tested (doer (Instr.cas sc d a b) s) .L s4).wset q).all (fun y => !(y.isAfter w && (atomSet sc (doer (Instr.cas sc d a b) s).core).has y.by_))) l.place 8).1) = exp.val then (((tested (doer (Instr.cas sc d a b) s) .L s4).weakRead ((tested (doer (Instr.cas sc d a b) s) .L s4).reader ((tested (doer (Instr.cas sc d a b) s) .L s4).ctx (doer (Instr.cas sc d a b) s).core (doer (Instr.cas sc d a b) s).slot).uid) ((tested (doer (Instr.cas sc d a b) s) .L s4).ctx (doer (Instr.cas sc d a b) s).core (doer (Instr.cas sc d a b) s).slot).gen (fun q w => ((tested (doer (Instr.cas sc d a b) s) .L s4).wset q).all (fun y => !(y.isAfter w && (atomSet sc (doer (Instr.cas sc d a b) s).core).has y.by_))) l.place 8).2.2.see ((tested (doer (Instr.cas sc d a b) s) .L s4).ctx (doer (Instr.cas sc d a b) s).core (doer (Instr.cas sc d a b) s).slot).uid ((tested (doer (Instr.cas sc d a b) s) .L s4).weakRead ((tested (doer (Instr.cas sc d a b) s) .L s4).reader ((tested (doer (Instr.cas sc d a b) s) .L s4).ctx (doer (Instr.cas sc d a b) s).core (doer (Instr.cas sc d a b) s).slot).uid) ((tested (doer (Instr.cas sc d a b) s) .L s4).ctx (doer (Instr.cas sc d a b) s).core (doer (Instr.cas sc d a b) s).slot).gen (fun q w => ((tested (doer (Instr.cas sc d a b) s) .L s4).wset q).all (fun y => !(y.isAfter w && (atomSet sc (doer (Instr.cas sc d a b) s).core).has y.by_))) l.place 8).2.1).commit ((((tested (doer (Instr.cas sc d a b) s) .L s4).weakRead ((tested (doer (Instr.cas sc d a b) s) .L s4).reader ((tested (doer (Instr.cas sc d a b) s) .L s4).ctx (doer (Instr.cas sc d a b) s).core (doer (Instr.cas sc d a b) s).slot).uid) ((tested (doer (Instr.cas sc d a b) s) .L s4).ctx (doer (Instr.cas sc d a b) s).core (doer (Instr.cas sc d a b) s).slot).gen (fun q w => ((tested (doer (Instr.cas sc d a b) s) .L s4).wset q).all (fun y => !(y.isAfter w && (atomSet sc (doer (Instr.cas sc d a b) s).core).has y.by_))) l.place 8).2.2.see ((tested (doer (Instr.cas sc d a b) s) .L s4).ctx (doer (Instr.cas sc d a b) s).core (doer (Instr.cas sc d a b) s).slot).uid ((tested (doer (Instr.cas sc d a b) s) .L s4).weakRead ((tested (doer (Instr.cas sc d a b) s) .L s4).reader ((tested (doer (Instr.cas sc d a b) s) .L s4).ctx (doer (Instr.cas sc d a b) s).core (doer (Instr.cas sc d a b) s).slot).uid) ((tested (doer (Instr.cas sc d a b) s) .L s4).ctx (doer (Instr.cas sc d a b) s).core (doer (Instr.cas sc d a b) s).slot).gen (fun q w => ((tested (doer (Instr.cas sc d a b) s) .L s4).wset q).all (fun y => !(y.isAfter w && (atomSet sc (doer (Instr.cas sc d a b) s).core).has y.by_))) l.place 8).2.1).byRelease (doer (Instr.cas sc d a b) s).core ((tested (doer (Instr.cas sc d a b) s) .L s4).ctx (doer (Instr.cas sc d a b) s).core (doer (Instr.cas sc d a b) s).slot).uid ((tested (doer (Instr.cas sc d a b) s) .L s4).ctx (doer (Instr.cas sc d a b) s).core (doer (Instr.cas sc d a b) s).slot).tenant ((tested (doer (Instr.cas sc d a b) s) .L s4).ctx (doer (Instr.cas sc d a b) s).core (doer (Instr.cas sc d a b) s).slot).seq (atomSet sc (doer (Instr.cas sc d a b) s).core)) l.place 8 new.val.toNat ((tested (doer (Instr.cas sc d a b) s) .L s4).ctx (doer (Instr.cas sc d a b) s).core (doer (Instr.cas sc d a b) s).slot).gen else (((tested (doer (Instr.cas sc d a b) s) .L s4).weakRead ((tested (doer (Instr.cas sc d a b) s) .L s4).reader ((tested (doer (Instr.cas sc d a b) s) .L s4).ctx (doer (Instr.cas sc d a b) s).core (doer (Instr.cas sc d a b) s).slot).uid) ((tested (doer (Instr.cas sc d a b) s) .L s4).ctx (doer (Instr.cas sc d a b) s).core (doer (Instr.cas sc d a b) s).slot).gen (fun q w => ((tested (doer (Instr.cas sc d a b) s) .L s4).wset q).all (fun y => !(y.isAfter w && (atomSet sc (doer (Instr.cas sc d a b) s).core).has y.by_))) l.place 8).2.2.see ((tested (doer (Instr.cas sc d a b) s) .L s4).ctx (doer (Instr.cas sc d a b) s).core (doer (Instr.cas sc d a b) s).slot).uid ((tested (doer (Instr.cas sc d a b) s) .L s4).weakRead ((tested (doer (Instr.cas sc d a b) s) .L s4).reader ((tested (doer (Instr.cas sc d a b) s) .L s4).ctx (doer (Instr.cas sc d a b) s).core (doer (Instr.cas sc d a b) s).slot).uid) ((tested (doer (Instr.cas sc d a b) s) .L s4).ctx (doer (Instr.cas sc d a b) s).core (doer (Instr.cas sc d a b) s).slot).gen (fun q w => ((tested (doer (Instr.cas sc d a b) s) .L s4).wset q).all (fun y => !(y.isAfter w && (atomSet sc (doer (Instr.cas sc d a b) s).core).has y.by_))) l.place 8).2.1)).gain ((tested (doer (Instr.cas sc d a b) s) .L s4).ctx (doer (Instr.cas sc d a b) s).core (doer (Instr.cas sc d a b) s).slot).uid ((tested (doer (Instr.cas sc d a b) s) .L s4).acquired (.ctx ((tested (doer (Instr.cas sc d a b) s) .L s4).ctx (doer (Instr.cas sc d a b) s).core (doer (Instr.cas sc d a b) s).slot).uid (doer (Instr.cas sc d a b) s).core ((tested (doer (Instr.cas sc d a b) s) .L s4).ctx (doer (Instr.cas sc d a b) s).core (doer (Instr.cas sc d a b) s).slot).tenant 0 0) (atomSet sc (doer (Instr.cas sc d a b) s).core) ((tested (doer (Instr.cas sc d a b) s) .L s4).weakRead ((tested (doer (Instr.cas sc d a b) s) .L s4).reader ((tested (doer (Instr.cas sc d a b) s) .L s4).ctx (doer (Instr.cas sc d a b) s).core (doer (Instr.cas sc d a b) s).slot).uid) ((tested (doer (Instr.cas sc d a b) s) .L s4).ctx (doer (Instr.cas sc d a b) s).core (doer (Instr.cas sc d a b) s).slot).gen (fun q w => ((tested (doer (Instr.cas sc d a b) s) .L s4).wset q).all (fun y => !(y.isAfter w && (atomSet sc (doer (Instr.cas sc d a b) s).core).has y.by_))) l.place 8).2.1))) s6) ∧
    (∃ (op : AmoOp) (sc : AScope) (d a b : RegF) (s s1 s2 s3 s4 : State) (p v : TVal) (l : Loc) (app : Option (Option Append)), starts (Instr.amo op sc d a b) s = true ∧ Reads (doer (Instr.amo op sc d a b) s) a (begun s) p s1 ∧ Reads (doer (Instr.amo op sc d a b) s) b s1 v s2 ∧ Finds (doer (Instr.amo op sc d a b) s) p.val 8 .atom false s2 l s3 ∧ l.ownLs (doer (Instr.amo op sc d a b) s).core = false ∧ clear (doer (Instr.amo op sc d a b) s) l true s3 = true ∧ (s3.ctx (doer (Instr.amo op sc d a b) s).core (doer (Instr.amo op sc d a b) s).slot).nL < 63 ∧ Ready (doer (Instr.amo op sc d a b) s) d (counted (doer (Instr.amo op sc d a b) s) .L s3) app s4) ∧
    (∃ (sc : AScope) (d a b : RegF) (s s1 s2 s3 s4 s5 : State) (p new exp : TVal) (l : Loc) (app : Option (Option Append)), starts (Instr.cas sc d a b) s = true ∧ Reads (doer (Instr.cas sc d a b) s) a (begun s) p s1 ∧ Reads (doer (Instr.cas sc d a b) s) b s1 new s2 ∧ Reads (doer (Instr.cas sc d a b) s) d s2 exp s3 ∧ Finds (doer (Instr.cas sc d a b) s) p.val 8 .atom false s3 l s4 ∧ l.ownLs (doer (Instr.cas sc d a b) s).core = false ∧ clear (doer (Instr.cas sc d a b) s) l true s4 = true ∧ (s4.ctx (doer (Instr.cas sc d a b) s).core (doer (Instr.cas sc d a b) s).slot).nL < 63 ∧ Ready (doer (Instr.cas sc d a b) s) d (counted (doer (Instr.cas sc d a b) s) .L s4) app s5) :=
  ⟨⟨.add, .sq, 5, 6, 7, onReg 6 0xF200000000000040 (onReg 7 (-5) (onCore (fun k => k.lsWrite 1 0x40 8 77) (cpu (.amo .add .sq 5 6 7)))), _, _, _, _, _, _, _, by decide +kernel, readReg_usable (by decide +kernel), readReg_usable (by decide +kernel), found_of (by decide +kernel) (by decide +kernel), by decide +kernel, by decide +kernel, by decide +kernel, by decide +kernel, by decide +kernel, writeReg_usable _ rfl rfl (by decide +kernel)⟩,
   ⟨.sq, 5, 6, 7, onReg 6 0xF200000000000040 (onReg 7 (-5) (onReg 5 77 (onCore (fun k => k.lsWrite 1 0x40 8 77) (cpu (.cas .sq 5 6 7))))), _, _, _, _, _, _, _, _, _, by decide +kernel, readReg_usable (by decide +kernel), readReg_usable (by decide +kernel), readReg_usable (by decide +kernel), found_of (by decide +kernel) (by decide +kernel), by decide +kernel, by decide +kernel, by decide +kernel, by decide +kernel, by decide +kernel, writeReg_usable _ rfl rfl (by decide +kernel)⟩,
   ⟨.add, .sq, 5, 6, 7, onReg 6 0x40 (onReg 7 (-5) (cpu (.amo .add .sq 5 6 7))), _, _, _, _, _, _, _, _, by decide +kernel, readReg_usable (by decide +kernel), readReg_usable (by decide +kernel), found_of (by decide +kernel) (by decide +kernel), by decide +kernel, by decide +kernel, by decide +kernel, ready_of (by decide +kernel)⟩,
   ⟨.sq, 5, 6, 7, onReg 6 0x40 (onReg 7 (-5) (onReg 5 77 (cpu (.cas .sq 5 6 7)))), _, _, _, _, _, _, _, _, _, _, by decide +kernel, readReg_usable (by decide +kernel), readReg_usable (by decide +kernel), readReg_usable (by decide +kernel), found_of (by decide +kernel) (by decide +kernel), by decide +kernel, by decide +kernel, by decide +kernel, ready_of (by decide +kernel)⟩⟩

theorem meets_Fences :
    (∃ (k : FenceKind) (sc : Scope) (s : State), starts (.fence k sc) s = true ∧ performed (doer (.fence k sc) s) (begun s) = true) ∧
    (∃ (k : FenceKind) (sc : Scope) (s : State), starts (.fence k sc) s = true ∧ performed (doer (.fence k sc) s) (begun s) = false) :=
  ⟨⟨.full, .sys, cpu (.fence .full .sys), by decide +kernel, by decide +kernel⟩,
   ⟨.acq, .sq, onMe (fun x => { x with nL := 1, seq := 1, loads := [{ seq := 0, pc := 0, next := 0, rd := 5, kind := .ld 4 true false, place := .hbm 0x40, ptr := 0x40, lv := 3, elect := none }] }) (cpu (.fence .acq .sq)),
     by decide +kernel, by decide +kernel⟩⟩

theorem meets_RoundingIsCorrect :
    (∃ (f : _) (num den : Nat), f ∈ formats ∧ 0 < num ∧ 0 < den) :=
  ⟨_, 1, 3, .head _, by decide +kernel, by decide +kernel⟩

theorem meets_FiniteLanes :
    (∃ (f : _) (a b d : Opd) (flip : Bool), f ∈ [f64, f32, f16, b16] ∧ a.v = f.dec a.b ∧ b.v = f.dec b.b ∧ d.v = f.dec d.b ∧ f.finite a.b ∧
      f.finite b.b ∧ f.finite d.b ∧ a.v.rat + (if flip then -b.v.rat else b.v.rat) ≠ 0) ∧
    (∃ (f : _) (a b d : Opd) (flip : Bool), f ∈ [f64, f32, f16, b16] ∧ a.v = f.dec a.b ∧ b.v = f.dec b.b ∧ d.v = f.dec d.b ∧ f.finite a.b ∧
      f.finite b.b ∧ f.finite d.b ∧ a.v.rat ≠ 0 ∧ a.v.rat + (if flip then -b.v.rat else b.v.rat) = 0) ∧
    (∃ (f : _) (a b d : Opd), f ∈ [f64, f32, f16, b16] ∧ a.v = f.dec a.b ∧ b.v = f.dec b.b ∧ d.v = f.dec d.b ∧ f.finite a.b ∧ f.finite b.b ∧
      f.finite d.b ∧ a.v.rat * b.v.rat ≠ 0) ∧
    (∃ (f : _) (a b d : Opd), f ∈ [f64, f32, f16, b16] ∧ a.v = f.dec a.b ∧ b.v = f.dec b.b ∧ d.v = f.dec d.b ∧ f.finite a.b ∧ f.finite b.b ∧
      f.finite d.b ∧ a.v.rat ≠ 0 ∧ b.v.rat ≠ 0) ∧
    (∃ (f : _) (a b d : Opd) (negate : Bool), f ∈ [f64, f32, f16, b16] ∧ a.v = f.dec a.b ∧ b.v = f.dec b.b ∧ d.v = f.dec d.b ∧ f.finite a.b ∧
      f.finite b.b ∧ f.finite d.b ∧ (if negate then -(a.v.rat * b.v.rat) else a.v.rat * b.v.rat) + d.v.rat ≠ 0) ∧
    (∃ (f : _) (a b d : Opd), f ∈ [f64, f32, f16, b16] ∧ a.v = f.dec a.b ∧ b.v = f.dec b.b ∧ d.v = f.dec d.b ∧ f.finite a.b ∧ f.finite b.b ∧
      f.finite d.b ∧ a.v.rat ≠ 0) ∧
    (∃ (f : _) (a b d : Opd), f ∈ [f64, f32, f16, b16] ∧ a.v = f.dec a.b ∧ b.v = f.dec b.b ∧ d.v = f.dec d.b ∧ f.finite a.b ∧ f.finite b.b ∧
      f.finite d.b ∧ a.v.rat < b.v.rat) ∧
    (∃ (f : _) (a b d : Opd), f ∈ [f64, f32, f16, b16] ∧ a.v = f.dec a.b ∧ b.v = f.dec b.b ∧ d.v = f.dec d.b ∧ f.finite a.b ∧ f.finite b.b ∧
      f.finite d.b ∧ a.v.rat = b.v.rat) ∧
    (∃ (f : _) (a b d : Opd), f ∈ [f64, f32, f16, b16] ∧ a.v = f.dec a.b ∧ b.v = f.dec b.b ∧ d.v = f.dec d.b ∧ f.finite a.b ∧ f.finite b.b ∧
      f.finite d.b ∧ b.v.rat < a.v.rat) ∧
    (∃ (f : _) (a b d : Opd) (g : _), f ∈ [f64, f32, f16, b16] ∧ a.v = f.dec a.b ∧ b.v = f.dec b.b ∧ d.v = f.dec d.b ∧ f.finite a.b ∧ f.finite b.b ∧
      f.finite d.b ∧ g ∈ formats ∧ a.v.rat ≠ 0) ∧
    (∃ (f : _) (a b d : Opd) (c : _), f ∈ [f64, f32, f16, b16] ∧ a.v = f.dec a.b ∧ b.v = f.dec b.b ∧ d.v = f.dec d.b ∧ f.finite a.b ∧ f.finite b.b ∧
      f.finite d.b ∧ f = f32 ∧ c < 510 ∧ a.v.rat ≠ 0) ∧
    (∃ (f : _) (a b d : Opd) (n : Int), f ∈ [f64, f32, f16, b16] ∧ a.v = f.dec a.b ∧ b.v = f.dec b.b ∧ d.v = f.dec d.b ∧ f.finite a.b ∧
      f.finite b.b ∧ f.finite d.b ∧ n ≠ 0) :=
  ⟨⟨_, (opdOf f16 (iv 0x3C00) 0), (opdOf f16 (iv 0x3C00) 0), (opdOf f16 (iv 0xBC01) 0), false, .tail _ (.tail _ (.head _)), by decide +kernel, by decide +kernel, by decide +kernel, by unfold Fmt.finite; decide +kernel, by unfold Fmt.finite; decide +kernel, by unfold Fmt.finite; decide +kernel, by decide +kernel⟩,
   ⟨_, (opdOf f16 (iv 0x3C01) 0), (opdOf f16 (iv 0x3C01) 0), (opdOf f16 (iv 0x3C00) 0), true, .tail _ (.tail _ (.head _)), by decide +kernel,
     by decide +kernel, by decide +kernel, by unfold Fmt.finite; decide +kernel, by unfold Fmt.finite; decide +kernel,
     by unfold Fmt.finite; decide +kernel, by decide +kernel, by decide +kernel⟩,
   ⟨_, (opdOf f16 (iv 0x3C00) 0), (opdOf f16 (iv 0xBC01) 0), (opdOf f16 (iv 0xBC01) 0), .tail _ (.tail _ (.head _)), by decide +kernel,
     by decide +kernel, by decide +kernel, by unfold Fmt.finite; decide +kernel, by unfold Fmt.finite; decide +kernel,
     by unfold Fmt.finite; decide +kernel, by decide +kernel⟩,
   ⟨_, (opdOf f16 (iv 0x3C00) 0), (opdOf f16 (iv 0x3C00) 0), (opdOf f16 (iv 0xBC01) 0), .tail _ (.tail _ (.head _)), by decide +kernel,
     by decide +kernel, by decide +kernel, by unfold Fmt.finite; decide +kernel, by unfold Fmt.finite; decide +kernel,
     by unfold Fmt.finite; decide +kernel, by decide +kernel, by decide +kernel⟩,
   ⟨_, (opdOf f16 (iv 0x3C00) 0), (opdOf f16 (iv 0x3C00) 0), (opdOf f16 (iv 0x3C00) 0), false, .tail _ (.tail _ (.head _)), by decide +kernel,
     by decide +kernel, by decide +kernel, by unfold Fmt.finite; decide +kernel, by unfold Fmt.finite; decide +kernel,
     by unfold Fmt.finite; decide +kernel, by rw [one16]; norm_num⟩,
   ⟨_, (opdOf f16 (iv 0x3C00) 0), (opdOf f16 (iv 0xBC01) 0), (opdOf f16 (iv 0xBC01) 0), .tail _ (.tail _ (.head _)), by decide +kernel,
     by decide +kernel, by decide +kernel, by unfold Fmt.finite; decide +kernel, by unfold Fmt.finite; decide +kernel,
     by unfold Fmt.finite; decide +kernel, by decide +kernel⟩,
   ⟨_, (opdOf f16 (iv 0xBC01) 0), (opdOf f16 (iv 0x3C01) 0), (opdOf f16 (iv 0xBC01) 0), .tail _ (.tail _ (.head _)), by decide +kernel,
     by decide +kernel, by decide +kernel, by unfold Fmt.finite; decide +kernel, by unfold Fmt.finite; decide +kernel,
     by unfold Fmt.finite; decide +kernel, by decide +kernel⟩,
   ⟨_, (opdOf f16 (iv 0xBC01) 0), (opdOf f16 (iv 0xBC01) 0), (opdOf f16 (iv 0xBC01) 0), .tail _ (.tail _ (.head _)), by decide +kernel,
     by decide +kernel, by decide +kernel, by unfold Fmt.finite; decide +kernel, by unfold Fmt.finite; decide +kernel,
     by unfold Fmt.finite; decide +kernel, by decide +kernel⟩,
   ⟨_, (opdOf f16 (iv 0x3C01) 0), (opdOf f16 (iv 0xBC01) 0), (opdOf f16 (iv 0xBC01) 0), .tail _ (.tail _ (.head _)), by decide +kernel,
     by decide +kernel, by decide +kernel, by unfold Fmt.finite; decide +kernel, by unfold Fmt.finite; decide +kernel,
     by unfold Fmt.finite; decide +kernel, by decide +kernel⟩,
   ⟨_, (opdOf f16 (iv 0x3C00) 0), (opdOf f16 (iv 0x3C00) 0), (opdOf f16 (iv 0xBC01) 0), _, .tail _ (.tail _ (.head _)), by decide +kernel,
     by decide +kernel, by decide +kernel, by unfold Fmt.finite; decide +kernel, by unfold Fmt.finite; decide +kernel,
     by unfold Fmt.finite; decide +kernel, .tail _ (.tail _ (.tail _ (.tail _ (.head _)))), by decide +kernel⟩,
   ⟨_, (opdOf f32 (iv 0x3F800001) 0), (opdOf f32 (iv 0x3F800001) 0), (opdOf f32 (iv 0x3F800001) 0), 0, .tail _ (.head _), by decide +kernel,
     by decide +kernel, by decide +kernel, by unfold Fmt.finite; decide +kernel, by unfold Fmt.finite; decide +kernel,
     by unfold Fmt.finite; decide +kernel, by decide +kernel, by decide +kernel, by decide +kernel⟩,
   ⟨_, (opdOf f16 (iv 0x3C00) 0), (opdOf f16 (iv 0xBC01) 0), (opdOf f16 (iv 0xBC01) 0), -2049, .tail _ (.tail _ (.head _)), by decide +kernel,
     by decide +kernel, by decide +kernel, by unfold Fmt.finite; decide +kernel, by unfold Fmt.finite; decide +kernel,
     by unfold Fmt.finite; decide +kernel, by decide +kernel⟩⟩

theorem meets_FloatArithmetic :
    (∃ (row : _) (t : FpType) (d a b : RegF) (s s1 s2 : State) (x y : TVal), (row ∈ ([(Instr.fadd, fun f m => addLane f m false), (Instr.fsub, fun f m => addLane f m true), (Instr.fmul, mulLane),
        (Instr.fdiv, divLane), (Instr.fmin, fun f _ => minmaxLane f false), (Instr.fmax, fun f _ => minmaxLane f true)] :
        List ((FpType → RegF → RegF → RegF → Instr) × (Fmt → Mode → Opd → Opd → Lane)))) ∧ starts (row.1 t d a b) s = true ∧
          Reads (doer (row.1 t d a b) s) a (begun s) x s1 ∧ Reads (doer (row.1 t d a b) s) b s1 y s2) ∧
    (∃ (row : _) (t : FpType) (d a b : RegF) (s s1 s2 s3 : State) (x y z : TVal), (row ∈ ([(Instr.fma, false), (Instr.fnma, true)] : List ((FpType → RegF → RegF → RegF → Instr) × Bool))) ∧
      starts (row.1 t d a b) s = true ∧ Reads (doer (row.1 t d a b) s) a (begun s) x s1 ∧ Reads (doer (row.1 t d a b) s) b s1 y s2 ∧
      Reads (doer (row.1 t d a b) s) d s2 z s3) ∧
    (∃ (row : _) (t : FpType) (d a : RegF) (s s1 : State) (x : TVal), (row ∈ ([(Instr.fsqrt, sqrtLane), (Instr.frcp, rcpLane), (Instr.fex2, ex2Lane), (Instr.flg2, lg2Lane),
        (Instr.fneg, fun f _ o => Lane.mk (if o.b ≥ 2 ^ (f.width - 1) then o.b - 2 ^ (f.width - 1) else o.b + 2 ^ (f.width - 1)) 0 o.s false),
        (Instr.fabs, fun f _ o => Lane.mk (o.b % 2 ^ (f.width - 1)) 0 o.s false)] :
        List ((FpType → RegF → RegF → Instr) × (Fmt → Mode → Opd → Lane)))) ∧ starts (row.1 t d a) s = true ∧
          Reads (doer (row.1 t d a) s) a (begun s) x s1) ∧
    (∃ (t : FpType) (d a b : RegF) (s s1 s2 : State) (x y : TVal), starts (.fcmp t d a b) s = true ∧
      Reads (doer (.fcmp t d a b) s) a (begun s) x s1 ∧ Reads (doer (.fcmp t d a b) s) b s1 y s2) ∧
    (∃ (t : FpType) (d a : RegF) (s s1 : State) (x : TVal), starts (.fcls t d a) s = true ∧ Reads (doer (.fcls t d a) s) a (begun s) x s1) :=
  ⟨⟨_, .f64, 5, 6, 7, onMe (fun x => { x with sigmin := 0, fround := 2 }) (onTag 6 0x4008000000000000 12 false (onTag 7 0x3FF0000000000001 10 true (onTag 5 0x3FF0000000000000 127 false (cpu (Instr.fadd .f64 5 6 7))))), _, _, _, _, .head _, by decide +kernel, readReg_usable (by decide +kernel), readReg_usable (by decide +kernel)⟩,
   ⟨_, .f64, 5, 6, 7, onMe (fun x => { x with sigmin := 0, fround := 2 }) (onTag 6 0x4008000000000000 12 false (onTag 7 0x3FF0000000000001 10 true (onTag 5 0x3FF0000000000000 127 false (cpu (Instr.fma .f64 5 6 7))))),
     _, _, _, _, _, _, .head _, by decide +kernel, readReg_usable (by decide +kernel), readReg_usable (by decide +kernel),
     readReg_usable (by decide +kernel)⟩,
   ⟨_, .f64, 5, 6, onMe (fun x => { x with sigmin := 0, fround := 2 }) (onTag 6 0x4008000000000000 12 false (onTag 7 0x3FF0000000000001 10 true (onTag 5 0x3FF0000000000000 127 false (cpu (Instr.fsqrt .f64 5 6))))),
     _, _, .head _, by decide +kernel, readReg_usable (by decide +kernel)⟩,
   ⟨.f64, 5, 6, 7, onMe (fun x => { x with sigmin := 0, fround := 2 }) (onTag 6 0x4008000000000000 12 false (onTag 7 0x3FF0000000000001 10 true (onTag 5 0x3FF0000000000000 127 false (cpu (.fcmp .f64 5 6 7))))),
     _, _, _, _, by decide +kernel, readReg_usable (by decide +kernel), readReg_usable (by decide +kernel)⟩,
   ⟨.f64, 5, 6, onMe (fun x => { x with sigmin := 0, fround := 2 }) (onTag 6 0x4008000000000000 12 false (onTag 7 0x3FF0000000000001 10 true (onTag 5 0x3FF0000000000000 127 false (cpu (.fcls .f64 5 6))))),
     _, _, by decide +kernel, readReg_usable (by decide +kernel)⟩⟩

theorem meets_Conversions :
    (∃ (g h : FpFmt) (rnd : Rnd) (d a : RegF) (s s1 : State) (x : TVal), starts (.fcvt g h rnd d a) s = true ∧ Reads (doer (.fcvt g h rnd d a) s) a (begun s) x s1) ∧
    (∃ (g : IntFmt) (h : FpFmt) (rnd : Rnd) (d a : RegF) (s s1 : State) (x : TVal), starts (.fcvi g h rnd d a) s = true ∧ Reads (doer (.fcvi g h rnd d a) s) a (begun s) x s1) ∧
    (∃ (g : FpFmt) (h : IntFmt) (rnd : Rnd) (d a : RegF) (s s1 : State) (x : TVal), starts (.icvf g h rnd d a) s = true ∧ Reads (doer (.icvf g h rnd d a) s) a (begun s) x s1) ∧
    (∃ (d a b : RegF) (s s1 s2 : State) (x y : TVal), starts (.fscl d a b) s = true ∧ Reads (doer (.fscl d a b) s) a (begun s) x s1 ∧ Reads (doer (.fscl d a b) s) b s1 y s2) :=
  ⟨⟨.f32, .f64, .dyn, 5, 6, onMe (fun x => { x with sigmin := 0, fround := 1 }) (onTag 6 0x4008DEADC0490FDB 12 false (cpu (.fcvt .f32 .f64 .dyn 5 6))), _, _, by decide +kernel, readReg_usable (by decide +kernel)⟩,
   ⟨.i32, .f64, .dyn, 5, 6, onMe (fun x => { x with fround := 1 }) (onTag 6 0x4008DEADC0490FDB 12 false (cpu (.fcvi .i32 .f64 .dyn 5 6))), _, _, by decide +kernel, readReg_usable (by decide +kernel)⟩,
   ⟨.f64, .i32, .dyn, 5, 6, onMe (fun x => { x with fround := 1 }) (onTag 6 0xC008DEADC0490FDB 12 false (cpu (.icvf .f64 .i32 .dyn 5 6))), _, _, by decide +kernel, readReg_usable (by decide +kernel)⟩,
   ⟨5, 6, 7, onMe (fun x => { x with sigmin := 0 }) (onTag 6 0x3F800001 12 false (onReg 7 255 (cpu (.fscl 5 6 7)))), _, _, _, _, by decide +kernel, readReg_usable (by decide +kernel), readReg_usable (by decide +kernel)⟩⟩

theorem meets_BlockQuantization :
    (∃ (row : _) (d a b : RegF) (s s1 s2 s3 s4 s5 s6 : State) (p o : TVal) (srcs outs : List Loc) (vals : List Nat) (app : Option (Option Append)), (row ∈ ([(Instr.qblkI8, 127, 32), (Instr.qblkI4, 7, 16)] : List ((RegF → RegF → RegF → Instr) × Nat × Nat))) ∧ starts (row.1 d a b) s = true ∧ Reads (doer (row.1 d a b) s) a (begun s) p s1 ∧ Reads (doer (row.1 d a b) s) b s1 o s2 ∧ checkWords p.val 32 (doer (row.1 d a b) s) s2 = .ok (srcs, s3) ∧ checkBytes o.val row.2.2 (doer (row.1 d a b) s) s3 = .ok (outs, s4) ∧ (s4.ctx (doer (row.1 d a b) s).core (doer (row.1 d a b) s).slot).nL < 63 ∧ (s4.ctx (doer (row.1 d a b) s).core (doer (row.1 d a b) s).slot).nS + outs.length ≤ 63 ∧ (s4.core (doer (row.1 d a b) s).core).journal.length + (s4.core (doer (row.1 d a b) s).core).promised + ((outs.filter (fun l => l.win == .rem)).length) ≤ 64 ∧ (if srcs.all (fun l => l.ownLs (doer (row.1 d a b) s).core) then readLocs srcs (doer (row.1 d a b) s) ((counted (doer (row.1 d a b) s) .L s4).modCtx (doer (row.1 d a b) s).core (doer (row.1 d a b) s).slot (fun x => { x with nS := x.nS + outs.length })) = .ok (vals, s5) else vals = [] ∧ s5 = ((counted (doer (row.1 d a b) s) .L s4).modCtx (doer (row.1 d a b) s).core (doer (row.1 d a b) s).slot (fun x => { x with nS := x.nS + outs.length }))) ∧ Ready (doer (row.1 d a b) s) d s5 app s6) ∧
    (∃ (c i idx : Nat) (s : State) (l : LoadReq) (b : Block) (t : _), (s.ctx c i).loads[idx]? = some l ∧ l.kind = .qblk b ∧ replyReady (s.core c) (s.ctx c i) l = true ∧ replyFault s c (s.ctx c i) l = none ∧ complete (if (quantize b.q ((b.vals ++ (readWordsOf c (s.ctx c i) l b.srcs s).1).map f32.dec)).underflow then ((readWordsOf c (s.ctx c i) l b.srcs s).2.modCtx c i (fun x => { x with fflags := x.fflags ||| w64 (quantize b.q ((b.vals ++ (readWordsOf c (s.ctx c i) l b.srcs s).1).map f32.dec)).flags })).bump c 4 else ((readWordsOf c (s.ctx c i) l b.srcs s).2.modCtx c i (fun x => { x with fflags := x.fflags ||| w64 (quantize b.q ((b.vals ++ (readWordsOf c (s.ctx c i) l b.srcs s).1).map f32.dec)).flags }))) c i l { val := w64 (quantize b.q ((b.vals ++ (readWordsOf c (s.ctx c i) l b.srcs s).1).map f32.dec)).code, cnt := 127, inx := false } true = some t ∧ b.body = false) ∧
    (∃ (c i idx : Nat) (s : State) (l : LoadReq) (b : Block) (f : _), (s.ctx c i).loads[idx]? = some l ∧ l.kind = .qblk b ∧ replyReady (s.core c) (s.ctx c i) l = true ∧ replyFault s c (s.ctx c i) l = some f ∧ b.body = false) ∧
    (∃ (a : Append), a.rem = false) ∧
    (∃ (a : Append), a.rem = true) ∧
    (∃ (q : Nat), (q = 127 ∨ q = 7)) ∧
    (∃ (q : Nat) (vs : List FVal), (q = 127 ∨ q = 7) ∧ vs.any (fun v => v.isNan || v.isInf) = true) ∧
    (∃ (q : Nat) (vs : List FVal), (q = 127 ∨ q = 7) ∧ (∀ v ∈ vs, ∃ b, b < 2 ^ 32 ∧ v = f32.dec b ∧ f32.finite b) ∧ (vs.foldl (fun m v => max m |v.rat|) 0) ≠ 0) ∧
    (∃ (q : Nat) (vs : List FVal) (c : _), (q = 127 ∨ q = 7) ∧ (∀ v ∈ vs, ∃ b, b < 2 ^ 32 ∧ v = f32.dec b ∧ f32.finite b) ∧ (vs.foldl (fun m v => max m |v.rat|) 0) ≠ 0 ∧ c < (quantize q vs).code) ∧
    (∃ (q : Nat) (vs : List FVal), (q = 127 ∨ q = 7) ∧ (∀ v ∈ vs, ∃ b, b < 2 ^ 32 ∧ v = f32.dec b ∧ f32.finite b) ∧ (vs.foldl (fun m v => max m |v.rat|) 0) ≠ 0 ∧ (quantize q vs).code < 509) :=
  ⟨⟨_, 5, 6, 7, onCore (fun k => (List.range 32).foldl (fun k j => k.lsWrite 1 (0x100 + 4 * j) 4 (0x3F800000 + 65536 * 3 * j)) k) (onReg 6 0xF200000000000100 (onReg 7 0xF200000000000200 (cpu (Instr.qblkI8 5 6 7)))), _, _, _, _, _, _, _, _, _, _, _, _, .head _, by decide +kernel, readReg_usable (by decide +kernel), readReg_usable (by decide +kernel), ok_of (by decide +kernel), ok_of (by decide +kernel), by decide +kernel, by decide +kernel, by decide +kernel, then_of (by decide +kernel) (ok2_of (by decide +kernel)), ready_of (by decide +kernel)⟩,
   ⟨0, 0, 0, onMe (fun x => { x with nL := 1, nS := 32, seq := 40, loads := [{ seq := 0, pc := 0, next := 0, rd := 5, kind := .qblk { body := false, q := 127, srcs := [], vals := ((List.range 32).map (fun j => 0x3F800000 + 65536 * 3 * j)), outs := ((List.range 32).map (fun j => { place := .ls 0 (0x200 + j), ptr := 0x200, size := 1, rem := false, seq := 1 + j })) }, place := .ls 0 0, ptr := 0x40, lv := 3, elect := none }] }) ((cpu (.add 5 6 7))), _, { body := false, q := 127, srcs := [], vals := ((List.range 32).map (fun j => 0x3F800000 + 65536 * 3 * j)), outs := ((List.range 32).map (fun j => { place := .ls 0 (0x200 + j), ptr := 0x200, size := 1, rem := false, seq := 1 + j })) }, _, some_of (by decide +kernel), by decide +kernel, by decide +kernel, by decide +kernel, some_of (by decide +kernel), by decide +kernel⟩,
   ⟨0, 0, 0, onMe (fun x => { x with nL := 1, nS := 32, seq := 40, loads := [{ seq := 0, pc := 0, next := 0, rd := 5, kind := .qblk { body := false, q := 127, srcs := ((List.range 32).map (fun j => (Place.ls 1 (0x100 + 4 * j), (0x100 : Word)))), vals := [], outs := ((List.range 32).map (fun j => { place := .ls 0 (0x200 + j), ptr := 0x200, size := 1, rem := false, seq := 1 + j })) }, place := .ls 0 0, ptr := 0x40, lv := 3, elect := none }] }) ((fun S : State => S.modCore 1 (fun k => { k with regions := [{ off := 256, len := 128, trap := true, gen := 9, gang := 0, tenant := 0, retired := false }] })) (cpu (.add 5 6 7))), _, { body := false, q := 127, srcs := ((List.range 32).map (fun j => (Place.ls 1 (0x100 + 4 * j), (0x100 : Word)))), vals := [], outs := ((List.range 32).map (fun j => { place := .ls 0 (0x200 + j), ptr := 0x200, size := 1, rem := false, seq := 1 + j })) }, _, some_of (by decide +kernel), by decide +kernel, by decide +kernel, some_of (by decide +kernel), by decide +kernel⟩,
   ⟨{ place := .ls 1 0x40, ptr := 0x40, size := 1, rem := false, seq := 7 }, by decide +kernel⟩,
   ⟨{ place := .ls 1 0x40, ptr := 0x40, size := 1, rem := true, seq := 7 }, by decide +kernel⟩,
   ⟨7, by decide +kernel⟩,
   ⟨7, [.inf true, .fin false 1 0], by decide +kernel, by decide +kernel⟩,
   ⟨7, [f32.dec 0x3F800000], by decide +kernel, by intro v hv; cases List.mem_singleton.mp hv; exact ⟨0x3F800000, by decide, rfl, by unfold Fmt.finite; decide +kernel⟩, by decide +kernel⟩,
   ⟨7, [f32.dec 0x3F800000], 0, by decide +kernel, by intro v hv; cases List.mem_singleton.mp hv; exact ⟨0x3F800000, by decide, rfl, by unfold Fmt.finite; decide +kernel⟩, by decide +kernel, by decide +kernel⟩,
   ⟨7, [f32.dec 0x3F800000], by decide +kernel, by intro v hv; cases List.mem_singleton.mp hv; exact ⟨0x3F800000, by decide, rfl, by unfold Fmt.finite; decide +kernel⟩, by decide +kernel, by decide +kernel⟩⟩

theorem meets_GeneralRegisters :
    (∃ (e : Env) (s : State) (f : RegF), (s.ctx e.core e.slot).usable f = true) ∧
    (∃ (e : Env) (s : State) (f : RegF), (s.ctx e.core e.slot).usable f = true ∧ e.elect = false ∧ e.dest = none) ∧
    (∃ (e : Env) (s : State) (f : RegF), (s.ctx e.core e.slot).isPort f.toNat = false ∧ (s.ctx e.core e.slot).isCarry f.toNat = false ∧
      (s.ctx e.core e.slot).bound? f.toNat = none ∧ f ≠ 0 ∧ (∃ l ∈ (s.ctx e.core e.slot).loads, l.rd = f.toNat ∧
      (fun (l : LoadReq) => match l.kind with | .smpw _ _ _ _ => true | _ => false) l = true)) ∧
    (∃ (e : Env) (s : State) (f : RegF), (s.ctx e.core e.slot).isPort f.toNat = false ∧ (s.ctx e.core e.slot).isCarry f.toNat = false ∧
      (s.ctx e.core e.slot).bound? f.toNat = none ∧ f ≠ 0 ∧ (∃ l ∈ (s.ctx e.core e.slot).loads, l.rd = f.toNat) ∧
      (∀ l ∈ (s.ctx e.core e.slot).loads, l.rd = f.toNat → (fun (l : LoadReq) => match l.kind with | .smpw _ _ _ _ => true | _ => false) l = false)) ∧
    (∃ (e : Env) (s : State) (f : RegF), (s.ctx e.core e.slot).isPort f.toNat = false ∧ (s.ctx e.core e.slot).isCarry f.toNat = false ∧
      (s.ctx e.core e.slot).bound? f.toNat = none ∧ (∀ l ∈ (s.ctx e.core e.slot).loads, l.rd = f.toNat → f = 0) ∧
      (∃ p ∈ (s.ctx e.core e.slot).fill, p.1 = f.toNat)) ∧
    (∃ (e : Env) (s : State) (f : RegF), (s.ctx e.core e.slot).isPort f.toNat = false ∧ (s.ctx e.core e.slot).isCarry f.toNat = false ∧
      (s.ctx e.core e.slot).bound? f.toNat = none ∧ (∀ l ∈ (s.ctx e.core e.slot).loads, l.rd = f.toNat → f = 0) ∧
      (∀ p ∈ (s.ctx e.core e.slot).fill, p.1 ≠ f.toNat) ∧ e.replay = none ∧ (∃ b, (s.ctx e.core e.slot).body = some b ∧ b.stopped = false ∧
      b.touches f.toNat = true)) :=
  ⟨⟨{ core := 0, slot := 0, pc := 0, tpc := 0, replay := none, word := 0 }, onTag 5 9 3 true (cpu (.add 5 6 7)), 5, by decide +kernel⟩,
   ⟨{ core := 0, slot := 0, pc := 0, tpc := 0, replay := none, word := 0 }, onTag 5 9 3 true (cpu (.add 5 6 7)), 5, by decide +kernel,
     by decide +kernel, by decide +kernel⟩,
   ⟨{ core := 0, slot := 0, pc := 0, tpc := 0, replay := none, word := 0 }, onMe (fun X => { X with loads := [{ seq := 0, pc := 0, next := 0, rd := 5, kind := .smpw 1 0 0 1, place := .hbm 64, ptr := 0x40, lv := 3, elect := none }] }) (cpu (.add 5 6 7)), 5,
     by decide +kernel⟩,
   ⟨{ core := 0, slot := 0, pc := 0, tpc := 0, replay := none, word := 0 }, onMe (fun X => { X with loads := [{ seq := 0, pc := 0, next := 0, rd := 5, kind := .ld 4 true false, place := .hbm 64, ptr := 0x40, lv := 3, elect := none }] }) (cpu (.add 5 6 7)), 5,
     by decide +kernel⟩,
   ⟨{ core := 0, slot := 0, pc := 0, tpc := 0, replay := none, word := 0 }, onMe (fun X => { X with fill := [(5, { val := 77, cnt := 5, inx := true })] }) (cpu (.add 5 6 7)), 5,
     by decide +kernel⟩,
   ⟨{ core := 0, slot := 0, pc := 0, tpc := 0, replay := none, word := 0 }, onMe (fun X => { X with body := some { base := 4, words := [0x042860E0], s := 1, lo := 5, span := 3, count := 2, replay := 0, word := 0, stopped := false, main := 0, seq := 0 } }) (cpu (.add 5 6 7)), 6,
     by decide +kernel⟩⟩

theorem meets_SpecialOperands :
    (∃ (e : Env) (s : State) (n : Nat) (f : RegF) (h : _) (t : _), n < 8 ∧ f.toNat = 104 + n ∧ (s.ctx e.core e.slot).port = true ∧
      (s.ctx e.core e.slot).usedByBody f = false ∧ e.elect = false ∧ e.dest = none ∧ SMap.get (s.ctx e.core e.slot).rxq n [] = h :: t) ∧
    (∃ (e : Env) (s : State) (n : Nat) (f : RegF), n < 8 ∧ f.toNat = 104 + n ∧ (s.ctx e.core e.slot).port = true ∧
      (s.ctx e.core e.slot).usedByBody f = false ∧ e.elect = false ∧ e.dest = none ∧ SMap.get (s.ctx e.core e.slot).rxq n [] = []) ∧
    (∃ (e : Env) (s : State) (n : Nat) (f : RegF), n < 8 ∧ f.toNat = 104 + n ∧ (s.ctx e.core e.slot).port = true ∧
      (s.ctx e.core e.slot).usedByBody f = false ∧ e.elect = false ∧ e.dest = none ∧
      portOk s (s.ctx e.core e.slot).tenant (SMap.get (s.ctx e.core e.slot).qdst n 0) = true ∧ sendFull s e.core = false) ∧
    (∃ (e : Env) (s : State) (n : Nat) (f : RegF), n < 8 ∧ f.toNat = 104 + n ∧ (s.ctx e.core e.slot).port = true ∧
      (s.ctx e.core e.slot).usedByBody f = false ∧ e.elect = false ∧ e.dest = none ∧
      portOk s (s.ctx e.core e.slot).tenant (SMap.get (s.ctx e.core e.slot).qdst n 0) = true ∧ sendFull s e.core = true) ∧
    (∃ (e : Env) (s : State) (n : Nat) (f : RegF), n < 8 ∧ f.toNat = 104 + n ∧ (s.ctx e.core e.slot).port = true ∧
      (s.ctx e.core e.slot).usedByBody f = false ∧ e.elect = false ∧ e.dest = none ∧
      portOk s (s.ctx e.core e.slot).tenant (SMap.get (s.ctx e.core e.slot).qdst n 0) = false) ∧
    (∃ (e : Env) (s : State) (n : Nat) (f : RegF), n < 8 ∧ f.toNat = 104 + n ∧ (s.ctx e.core e.slot).port = true ∧
      (s.ctx e.core e.slot).usedByBody f = false ∧ e.elect = false ∧ e.dest = none) ∧
    (∃ (e : Env) (s : State) (k j : Nat) (f : RegF) (r : Run) (v : _), 1 ≤ k ∧ k ≤ 4 ∧ j < 4 ∧ f.toNat = 112 + 4 * (k - 1) + j ∧
      (s.ctx e.core e.slot).chain = true ∧ (s.ctx e.core e.slot).usedByBody f = false ∧ s.run? (s.ctx e.core e.slot).run = some r ∧
      k ≤ (s.ctx e.core e.slot).index ∧ r.slot? ((s.ctx e.core e.slot).index - k) j = some v) ∧
    (∃ (e : Env) (s : State) (k j : Nat) (f : RegF) (r : Run), 1 ≤ k ∧ k ≤ 4 ∧ j < 4 ∧ f.toNat = 112 + 4 * (k - 1) + j ∧
      (s.ctx e.core e.slot).chain = true ∧ (s.ctx e.core e.slot).usedByBody f = false ∧ s.run? (s.ctx e.core e.slot).run = some r ∧
      k ≤ (s.ctx e.core e.slot).index ∧ r.slot? ((s.ctx e.core e.slot).index - k) j = none ∧
      r.abortedItems.contains ((s.ctx e.core e.slot).index - k) = true) ∧
    (∃ (e : Env) (s : State) (k j : Nat) (f : RegF) (r : Run), 1 ≤ k ∧ k ≤ 4 ∧ j < 4 ∧ f.toNat = 112 + 4 * (k - 1) + j ∧
      (s.ctx e.core e.slot).chain = true ∧ (s.ctx e.core e.slot).usedByBody f = false ∧ s.run? (s.ctx e.core e.slot).run = some r ∧
      k ≤ (s.ctx e.core e.slot).index ∧ r.slot? ((s.ctx e.core e.slot).index - k) j = none ∧
      r.abortedItems.contains ((s.ctx e.core e.slot).index - k) = false) ∧
    (∃ (e : Env) (s : State) (f : RegF) (g : Nat), (s.ctx e.core e.slot).isPort f.toNat = false ∧ (s.ctx e.core e.slot).isCarry f.toNat = false ∧
      (s.ctx e.core e.slot).bound? f.toNat = some g ∧ g < 4 ∧ (s.ctx e.core e.slot).replaying = false ∧ e.elect = false ∧ e.dest = none ∧
      sgLen (s.ctx e.core e.slot) g = 0) ∧
    (∃ (e : Env) (s : State) (f : RegF) (g : Nat) (v : _) (t : _), (s.ctx e.core e.slot).isPort f.toNat = false ∧
      (s.ctx e.core e.slot).isCarry f.toNat = false ∧ (s.ctx e.core e.slot).bound? f.toNat = some g ∧ g < 4 ∧
      (s.ctx e.core e.slot).replaying = false ∧ e.elect = false ∧ e.dest = none ∧ 0 < sgLen (s.ctx e.core e.slot) g ∧
      loadNow (sgPtr (s.ctx e.core e.slot) g) (sgSize (s.ctx e.core e.slot) g) e s = .ok (v, t) ∧ (t.ctx e.core e.slot).nL < 63) :=
  ⟨⟨{ core := 0, slot := 0, pc := 0, tpc := 0, replay := none, word := 0 }, onMe (fun X => { X with port := true, rxq := [(3, [{ val := 77, cnt := 5, inx := true }, iv 2])] }) (cpu (.add 5 6 7)), 3, 107, _, _, by decide +kernel, by decide +kernel, by decide +kernel, by decide +kernel, by decide +kernel, by decide +kernel, uncons_of (by decide +kernel)⟩,
   ⟨{ core := 0, slot := 0, pc := 0, tpc := 0, replay := none, word := 0 }, onMe (fun X => { X with port := true, rxq := [(2, [{ val := 77, cnt := 5, inx := true }])] }) (cpu (.add 5 6 7)), 3, 107,
     by decide +kernel⟩,
   ⟨{ core := 0, slot := 0, pc := 0, tpc := 0, replay := none, word := 0 }, (fun (S : State) => S.modCtx 12288 4 (fun X => { X with state := .ready, tenant := 0, uid := 5 })) (onMe (fun X => { X with port := true, qdst := [(3, 0xE00081)] }) (cpu (.add 5 6 7))), 3, 107,
     by decide +kernel⟩,
   ⟨{ core := 0, slot := 0, pc := 0, tpc := 0, replay := none, word := 0 }, (fun (S : State) => { S with ports := List.replicate (Config.sendQueueDepth + 1) { srcCore := 0, tenant := 0, core := 1, slot := 1, queue := 0, v := iv 1 } }) ((fun (S : State) => S.modCtx 12288 4 (fun X => { X with state := .ready, tenant := 0, uid := 5 })) (onMe (fun X => { X with port := true, qdst := [(3, 0xE00081)] }) (cpu (.add 5 6 7)))), 3, 107,
     by decide +kernel, by decide +kernel, by decide +kernel, by decide +kernel, by decide +kernel, by decide +kernel, by decide +kernel,
     by unfold sendFull; simp⟩,
   ⟨{ core := 0, slot := 0, pc := 0, tpc := 0, replay := none, word := 0 }, onMe (fun X => { X with port := true, qdst := [(3, 0xE00081)] }) (cpu (.add 5 6 7)), 3, 107,
     by decide +kernel⟩,
   ⟨{ core := 0, slot := 0, pc := 0, tpc := 0, replay := none, word := 0 }, (fun (S : State) => S.modCtx 12288 4 (fun X => { X with state := .ready, tenant := 0, uid := 5 })) (onMe (fun X => { X with port := true, qdst := [(3, 0xE00081)] }) (cpu (.add 5 6 7))), 3, 107,
     by decide +kernel⟩,
   ⟨{ core := 0, slot := 0, pc := 0, tpc := 0, replay := none, word := 0 }, (State.modDisp (onMe (fun X => { X with chain := true, run := 3, index := 5 }) (cpu (.add 5 6 7))) (fun D => { D with runs := [{ uid := 3, runId := 0, tenant := 0, packet := [0, 0, 0, 0, 0, 0, 0, 0], queue := 0, age := 0, sup := false, header := 0, ready := true, inStore := true, next := 0, count := 4, ended := 0, aborts := 0, tiles := 0, pools := [], carry := [(4, 2, { val := 9, cnt := 5, inx := false })], abortedItems := [3], snap := none, fails := 0, blocked := false, outcome := none }] })), 1, 2, 114,
     _, _, by decide +kernel, by decide +kernel, by decide +kernel, by decide +kernel, by decide +kernel, by decide +kernel,
     some_of (by decide +kernel), by decide +kernel, some_of (by decide +kernel)⟩,
   ⟨{ core := 0, slot := 0, pc := 0, tpc := 0, replay := none, word := 0 }, (State.modDisp (onMe (fun X => { X with chain := true, run := 3, index := 5 }) (cpu (.add 5 6 7))) (fun D => { D with runs := [{ uid := 3, runId := 0, tenant := 0, packet := [0, 0, 0, 0, 0, 0, 0, 0], queue := 0, age := 0, sup := false, header := 0, ready := true, inStore := true, next := 0, count := 4, ended := 0, aborts := 0, tiles := 0, pools := [], carry := [(4, 2, { val := 9, cnt := 5, inx := false })], abortedItems := [3], snap := none, fails := 0, blocked := false, outcome := none }] })), 2, 2, 118,
     _, by decide +kernel, by decide +kernel, by decide +kernel, by decide +kernel, by decide +kernel, by decide +kernel,
     some_of (by decide +kernel), by decide +kernel, by decide +kernel, by decide +kernel⟩,
   ⟨{ core := 0, slot := 0, pc := 0, tpc := 0, replay := none, word := 0 }, (State.modDisp (onMe (fun X => { X with chain := true, run := 3, index := 5 }) (cpu (.add 5 6 7))) (fun D => { D with runs := [{ uid := 3, runId := 0, tenant := 0, packet := [0, 0, 0, 0, 0, 0, 0, 0], queue := 0, age := 0, sup := false, header := 0, ready := true, inStore := true, next := 0, count := 4, ended := 0, aborts := 0, tiles := 0, pools := [], carry := [(4, 2, { val := 9, cnt := 5, inx := false })], abortedItems := [3], snap := none, fails := 0, blocked := false, outcome := none }] })), 1, 1, 113,
     _, by decide +kernel, by decide +kernel, by decide +kernel, by decide +kernel, by decide +kernel, by decide +kernel,
     some_of (by decide +kernel), by decide +kernel, by decide +kernel, by decide +kernel⟩,
   ⟨{ core := 0, slot := 0, pc := 0, tpc := 0, replay := none, word := 0 }, onMe (fun X => { X with binds := [(9, 2)], ereg := [(256 + 0x18, 0xF200000000000040), (256 + 0x19, 0x500000008)] }) (cpu (.add 5 6 7)), 9,
     _, by decide +kernel, by decide +kernel, some_of (by decide +kernel), by decide +kernel⟩,
   ⟨{ core := 0, slot := 0, pc := 0, tpc := 0, replay := none, word := 0 }, onCore (fun K => K.lsWrite 1 0x40 2 0x8001) (onMe (fun X => { X with binds := [(9, 2)], ereg := [(256 + 0x18, 0xF200000000000040), (256 + 0x19, 0x500000008), (256 + 0x1A, 3)] }) (cpu (.add 5 6 7))), 9,
     _, _, _, by decide +kernel, by decide +kernel, some_of (by decide +kernel), by decide +kernel, by decide +kernel, by decide +kernel,
     by decide +kernel, by decide +kernel, ok2_of (by decide +kernel), by decide +kernel⟩⟩

theorem meets_ChecksAtIssue :
    (∃ (i : Instr) (w : IWord) (s : State) (t : TrapInfo), encode i = some w ∧ precheck s.cur.1 s.who (form i) w = some t) ∧
    (∃ (x : Ctx) (fm : Form), fm.sup = true ∧ x.level = 0) ∧
    (∃ (x : Ctx) (fm : Form) (p : _), (fm.sup = false ∨ x.level ≠ 0) ∧ fm.pin = some p ∧ x.landing = false ∧ x.pin ≠ p) ∧
    (∃ (c : Nat) (x : Ctx) (fm : Form) (f : _) (l : _) (r : _), (fm.sup = false ∨ x.level ≠ 0) ∧ pinOk c x fm.pin = true ∧
      fm.src ++ fm.dst.toList = l ++ f :: r ∧ (∀ g ∈ l, g.toNat < x.wcount ∨ x.exempt g.toNat = true) ∧ x.wcount ≤ f.toNat ∧
      x.exempt f.toNat = false) ∧
    (∃ (c : Nat) (x : Ctx) (fm : Form) (d : _), (fm.sup = false ∨ x.level ≠ 0) ∧ pinOk c x fm.pin = true ∧
      (∀ f ∈ fm.src ++ fm.dst.toList, f.toNat < x.wcount ∨ x.exempt f.toNat = true) ∧ fm.dst = some d ∧ x.chain = true ∧ 112 ≤ d.toNat) ∧
    (∃ (w : IWord) (r : Reject), decode w = .error r) :=
  ⟨⟨.idle, _, onMe (fun X => { X with status := 0 }) (cpu .idle), _, some_of (by decide +kernel), some_of (by decide +kernel)⟩,
   ⟨{ Ctx.reset with status := 0 }, { sup := true }, by decide +kernel, by decide +kernel⟩,
   ⟨{ Ctx.reset with pin := .gen }, { pin := some .rep }, _, by decide +kernel, some_of (by decide +kernel), by decide +kernel, by decide +kernel⟩,
   ⟨0, { Ctx.reset with wcount := 6 }, { sup := false, pin := none, src := [5, 6], dst := some 7 }, 6, [5], [7], by decide +kernel⟩,
   ⟨0, { Ctx.reset with wcount := 8, chain := true }, { src := [5], dst := some 112 }, _, by decide +kernel, by decide +kernel, by decide +kernel,
     some_of (by decide +kernel), by decide +kernel, by decide +kernel⟩,
   ⟨0xFF000000, .major, by decide +kernel⟩⟩

theorem meets_TrapEntry :
    (∃ (c i : Nat) (t : TrapInfo) (s : State), t.cause ≠ 0x11 ∧ t.cause ≠ 0x12 ∧ t.cause ≠ 0x13 ∧ t.cause ≠ 0x0C ∧ (s.ctx c i).state ≠ .free ∧
      (s.ctx c i).state ≠ .draining ∧ (s.ctx c i).level ≤ 1) ∧
    (∃ (c i : Nat) (t : TrapInfo) (s : State), t.cause ≠ 0x11 ∧ t.cause ≠ 0x12 ∧ t.cause ≠ 0x13 ∧ t.cause ≠ 0x0C ∧ (s.ctx c i).state ≠ .free ∧
      (s.ctx c i).state ≠ .draining ∧ (s.ctx c i).level ≤ 1 ∧ ((s.ctx c i).level = 0 ∧ (s.ctx c i).delegated t.cause = true ∧
      (s.ctx c i).uin = false ∧ (s.ctx c i).ut.vec ≠ 0)) ∧
    (∃ (c i : Nat) (t : TrapInfo) (s : State), t.cause ≠ 0x11 ∧ t.cause ≠ 0x12 ∧ t.cause ≠ 0x13 ∧ t.cause ≠ 0x0C ∧ (s.ctx c i).state ≠ .free ∧
      (s.ctx c i).state ≠ .draining ∧ (s.ctx c i).level ≤ 1 ∧ (¬((s.ctx c i).level = 0 ∧ (s.ctx c i).delegated t.cause = true ∧
      (s.ctx c i).uin = false ∧ (s.ctx c i).ut.vec ≠ 0)) ∧ (s.ctx c i).sin = false ∧ (s.ctx c i).st.vec ≠ 0) ∧
    (∃ (c i : Nat) (t : TrapInfo) (s : State), t.cause ≠ 0x11 ∧ t.cause ≠ 0x12 ∧ t.cause ≠ 0x13 ∧ t.cause ≠ 0x0C ∧ (s.ctx c i).state ≠ .free ∧
      (s.ctx c i).state ≠ .draining ∧ (s.ctx c i).level ≤ 1 ∧ (¬((s.ctx c i).level = 0 ∧ (s.ctx c i).delegated t.cause = true ∧
      (s.ctx c i).uin = false ∧ (s.ctx c i).ut.vec ≠ 0)) ∧ ((s.ctx c i).sin = true ∨ (s.ctx c i).st.vec = 0)) ∧
    (∃ (c i : Nat) (t : TrapInfo) (s : State), t.cause ≠ 0x11 ∧ t.cause ≠ 0x12 ∧ t.cause ≠ 0x13 ∧ t.cause ≠ 0x0C ∧ (s.ctx c i).state ≠ .free ∧
      (s.ctx c i).state ≠ .draining ∧ (s.ctx c i).level ≤ 1 ∧ (((s.ctx c i).level = 0 ∧ (s.ctx c i).delegated t.cause = true ∧
      (s.ctx c i).uin = false ∧ (s.ctx c i).ut.vec ≠ 0) ∨ ((s.ctx c i).sin = false ∧ (s.ctx c i).st.vec ≠ 0))) :=
  ⟨⟨0, 0, { cause := 0x04, addr := 9, aux := 8, done := false }, onMe (fun X => { X with status := 0x100, ut := { TrapRegs.zero with vec := 0 }, st := { TrapRegs.zero with vec := 0x400 }, nL := 1 }) (cpu (.add 5 6 7)), by decide +kernel⟩,
   ⟨0, 0, { cause := 0x04, addr := 9, aux := 8, done := false }, onMe (fun X => { X with status := 0x100, ut := { TrapRegs.zero with vec := 0x200 }, st := { TrapRegs.zero with vec := 0x400 }, nL := 1 }) (cpu (.add 5 6 7)),
     by decide +kernel⟩,
   ⟨0, 0, { cause := 0x04, addr := 9, aux := 8, done := false }, onMe (fun X => { X with status := 0x100, ut := { TrapRegs.zero with vec := 0 }, st := { TrapRegs.zero with vec := 0x400 }, nL := 1 }) (cpu (.add 5 6 7)),
     by decide +kernel⟩,
   ⟨0, 0, { cause := 0x0B, addr := 9, aux := 8, done := false }, onMe (fun X => { X with status := 0x100, ut := { TrapRegs.zero with vec := 0x200 }, st := { TrapRegs.zero with vec := 0 }, nL := 1 }) (cpu (.add 5 6 7)),
     by decide +kernel⟩,
   ⟨0, 0, { cause := 0x04, addr := 9, aux := 8, done := false }, onMe (fun X => { X with status := 0x100, ut := { TrapRegs.zero with vec := 0 }, st := { TrapRegs.zero with vec := 0x400 }, nL := 1 }) (cpu (.add 5 6 7)),
     by decide +kernel⟩⟩

theorem meets_SoftwareTraps :
    (∃ (n : BitVec 8) (s : State), starts (.trap n) s = true ∧ s.who.replaying = false) ∧
    (∃ (n : BitVec 8) (s : State), starts (.dbg n) s = true ∧ s.who.replaying = false) ∧
    (∃ (s : State), starts .eret s = true ∧ s.who.level = 0 ∧ s.who.uin = false) ∧
    (∃ (s : State), starts .eret s = true ∧ s.who.level ≠ 0 ∧ s.who.sin = false) ∧
    (∃ (s : State), starts .eret s = true ∧ s.who.level = 0 ∧ s.who.uin = true ∧ s.who.urep = false ∧ s.who.ut.pc.toNat % 4 = 0 ∧ s.who.ut.pc.toNat < 2 ^ 56) ∧
    (∃ (s : State), starts .eret s = true ∧ s.who.level = 1 ∧ s.who.sin = true ∧ s.who.srep = false ∧ s.who.held = [] ∧ s.who.st.pc.toNat % 4 = 0 ∧ s.who.st.pc.toNat < 2 ^ 56) ∧
    (∃ (s : State) (f : _), starts .eret s = true ∧ s.who.level = 0 ∧ s.who.uin = true ∧ s.who.urep = false ∧ ((fun (p : Word) (f : TrapInfo) => (p.toNat % 4 ≠ 0 ∧ f = { cause := 0x04, addr := p }) ∨ (p.toNat % 4 = 0 ∧ 2 ^ 56 ≤ p.toNat ∧ f = { cause := 0x05, addr := p, aux := 1 })) s.who.ut.pc f)) ∧
    (∃ (s : State) (f : _), starts .eret s = true ∧ s.who.level = 1 ∧ s.who.sin = true ∧ s.who.srep = false ∧ ((fun (p : Word) (f : TrapInfo) => (p.toNat % 4 ≠ 0 ∧ f = { cause := 0x04, addr := p }) ∨ (p.toNat % 4 = 0 ∧ 2 ^ 56 ≤ p.toNat ∧ f = { cause := 0x05, addr := p, aux := 1 })) s.who.st.pc f)) ∧
    (∃ (s : State) (h : _) (r : _), starts .eret s = true ∧ s.who.level = 1 ∧ s.who.sin = true ∧ s.who.srep = false ∧ s.who.st.pc.toNat % 4 = 0 ∧ s.who.st.pc.toNat < 2 ^ 56 ∧ s.who.held = h :: r) :=
  ⟨⟨7, onMe (fun X => { X with st := { TrapRegs.zero with vec := 64 } }) (cpu (.trap 7)), by decide +kernel, by decide +kernel⟩,
   ⟨7, onMe (fun X => { X with st := { TrapRegs.zero with vec := 64 } }) (cpu (.dbg 7)), by decide +kernel, by decide +kernel⟩,
   ⟨cpu .eret, by decide +kernel, by decide +kernel, by decide +kernel⟩,
   ⟨onMe (fun X => { X with status := 1 }) (cpu .eret), by decide +kernel, by decide +kernel, by decide +kernel⟩,
   ⟨onMe (fun X => { X with status := 0x10, ut := { TrapRegs.zero with pc := 64 } }) (cpu .eret), by decide +kernel, by decide +kernel, by decide +kernel, by decide +kernel, by decide +kernel, by decide +kernel⟩,
   ⟨onMe (fun X => { X with status := 0x21, st := { TrapRegs.zero with pc := 64 } }) (cpu .eret), by decide +kernel, by decide +kernel, by decide +kernel, by decide +kernel, by decide +kernel, by decide +kernel, by decide +kernel⟩,
   ⟨onMe (fun X => { X with status := 0x10, ut := { TrapRegs.zero with pc := 66, vec := 0x100 }, st := { TrapRegs.zero with pc := 8, vec := 0x100 } }) (cpu .eret), { cause := 0x04, addr := 66 }, by decide +kernel, by decide +kernel, by decide +kernel, by decide +kernel, by decide +kernel⟩,
   ⟨onMe (fun X => { X with status := 0x21, st := { TrapRegs.zero with pc := 66, vec := 0x100 }, ut := { TrapRegs.zero with pc := 8, vec := 0x100 }, held := [] }) (cpu .eret), { cause := 0x04, addr := 66 }, by decide +kernel, by decide +kernel, by decide +kernel, by decide +kernel, by decide +kernel⟩,
   ⟨onMe (fun X => { X with status := 0x21, st := { TrapRegs.zero with pc := 64, vec := 0x100 }, held := { cause := 0x15 } :: [] }) (cpu .eret), _, _, by decide +kernel, by decide +kernel, by decide +kernel, by decide +kernel, by decide +kernel, by decide +kernel, uncons_of (by decide +kernel)⟩⟩

theorem meets_ControlRegisters :
    (∃ (n : BitVec 10) (d : RegF) (s s1 : State), starts (.csrr n d) s = true ∧ csrOk n.toNat = true ∧ n ≠ 0x060 ∧ (n = 0x011 → s.who.replaying = false ∧ s.who.oneOpen = false) ∧ Writes (doer (.csrr n d) s) d { val := csrRead (begun s) s.cur.1 s.cur.2 n.toNat 0, cnt := 127, inx := false } (begun s) s1) ∧
    (∃ (d : RegF) (s s1 : State), starts (.csrr 0x060 d) s = true ∧ Writes (doer (.csrr 0x060 d) s) d { val := csrRead (begun s) s.cur.1 s.cur.2 0x060 s.free, cnt := 127, inx := false } (begun s).draw.2 s1) ∧
    (∃ n, n < 8) ∧
    (∃ n, n < 16) ∧
    (∃ (s : State) (c i : Nat), i < 64 ∧ s.lead c < 12544 ∧ (s.ctx c i).wbase < 2048 ∧ (s.ctx c i).wcount ≤ 128) ∧
    (∃ (s : State) (c : Nat), (s.core c).journal ≠ [] ∧ (∀ e ∈ (s.core c).journal, e.ent < 64) ∧ (s.core c).journal.length ≤ 64) ∧
    (∃ (row : _) (n : BitVec 10) (a : RegF) (s s1 : State) (v : TVal), csrOk n.toNat = true ∧ s.who.replaying = false ∧ (n = 0x011 → s.who.oneOpen = false) ∧ (row ∈ ([(Instr.csrw, CsrOp.w, fun _ v => v), (Instr.csrs, CsrOp.s, fun o v => o ||| v), (Instr.csrc, CsrOp.c, fun o v => o &&& ~~~v)] :
      List ((BitVec 10 → RegF → Instr) × CsrOp × (Word → Word → Word)))) ∧ starts (row.1 n a) s = true ∧ Reads (doer (row.1 n a) s) a (begun s) v s1) ∧
    (∃ (s : State) (c i : Nat) (n : _), (s.ctx c i).level = 0 ∧ (n = 0x000 ∨ n = 0x022 ∨ n = 0x060 ∨ n = 0x070 ∨ (0x050 ≤ n ∧ n ≤ 0x05F))) ∧
    (∃ n, (n = 0x021 ∨ n = 0x038 ∨ (0x040 ≤ n ∧ n ≤ 0x043))) ∧
    (∃ (s : State) (c i : Nat), (s.ctx c i).level ≠ 0) ∧
    (∃ (s : State) (c i : Nat), (s.ctx c i).level = 0) ∧
    (∃ (s : State) (c i : Nat) (op : CsrOp) (v : Word), (s.ctx c i).level ≠ 0 ∧ op ≠ .c ∧ v.getLsbD 13 = true) :=
  ⟨⟨0x000, 5, onMe (fun X => { X with fflags := 5, sigmin := 3, qdst := [(3, 7)], pvbase := 0x1000, tagbase := 8, fround := 2, ut := { TrapRegs.zero with vec := 4, pc := 8, aux := 3 }, st := { TrapRegs.zero with vec := 12, pc := 16 } }) (cpu (.csrr 0x000 5)), _, by decide +kernel, by decide +kernel, by decide +kernel, by decide +kernel, writeReg_usable _ rfl rfl (by decide +kernel)⟩,
   ⟨5, onMe (fun X => { X with fflags := 5, sigmin := 3, qdst := [(3, 7)], pvbase := 0x1000, tagbase := 8, fround := 2, ut := { TrapRegs.zero with vec := 4, pc := 8, aux := 3 }, st := { TrapRegs.zero with vec := 12, pc := 16 } }) (cpu (.csrr 0x060 5)), _, by decide +kernel, writeReg_usable _ rfl rfl (by decide +kernel)⟩,
   ⟨3, by decide +kernel⟩,
   ⟨5, by decide +kernel⟩,
   ⟨onMe (fun X => { X with fflags := 5, sigmin := 3, qdst := [(3, 7)], pvbase := 0x1000, tagbase := 8, fround := 2, ut := { TrapRegs.zero with vec := 4, pc := 8, aux := 3 }, st := { TrapRegs.zero with vec := 12, pc := 16 }, wbase := 2047, wcount := 128, gen := 65535 }) (cpu (.add 5 6 7)), 0, 0, by decide +kernel, by decide +kernel, by decide +kernel, by decide +kernel⟩,
   ⟨onCore (fun K => { K with journal := [{ ent := 63, slot := 0, uid := 1, land := 0, tenant := 0, seq := 0, pair := 0, place := .hbm 0x40, ptr := 0x40, size := 4, value := 0x1234, rel := false, gen := 1 }, { ent := 2, slot := 0, uid := 1, land := 0, tenant := 0, seq := 0, pair := 0, place := .hbm 0x48, ptr := 0x40, size := 4, value := 0x1234, rel := false, gen := 1 }] }) (onMe (fun X => { X with fflags := 5, sigmin := 3, qdst := [(3, 7)], pvbase := 0x1000, tagbase := 8, fround := 2, ut := { TrapRegs.zero with vec := 4, pc := 8, aux := 3 }, st := { TrapRegs.zero with vec := 12, pc := 16 } }) (cpu (.add 5 6 7))), 0, by decide +kernel, by decide +kernel, by decide +kernel⟩,
   ⟨_, 0x000, 6, onMe (fun X => { X with fflags := 5, sigmin := 3, qdst := [(3, 7)], pvbase := 0x1000, tagbase := 8, fround := 2, ut := { TrapRegs.zero with vec := 4, pc := 8, aux := 3 }, st := { TrapRegs.zero with vec := 12, pc := 16 } }) (onReg 6 0xFFFF0F35 (cpu (Instr.csrw 0x000 6))), _, _, by decide +kernel, by decide +kernel, by decide +kernel, .head _, by decide +kernel, readReg_usable (by decide +kernel)⟩,
   ⟨onMe (fun X => { X with fflags := 5, sigmin := 3, qdst := [(3, 7)], pvbase := 0x1000, tagbase := 8, fround := 2, ut := { TrapRegs.zero with vec := 4, pc := 8, aux := 3 }, st := { TrapRegs.zero with vec := 12, pc := 16 }, status := 0 }) (cpu (.add 5 6 7)), 0, 0, 0x000, by decide +kernel, by decide +kernel⟩,
   ⟨0x021, by decide +kernel⟩,
   ⟨onMe (fun X => { X with fflags := 5, sigmin := 3, qdst := [(3, 7)], pvbase := 0x1000, tagbase := 8, fround := 2, ut := { TrapRegs.zero with vec := 4, pc := 8, aux := 3 }, st := { TrapRegs.zero with vec := 12, pc := 16 }, status := 0x25 }) (cpu (.add 5 6 7)), 0, 0, by decide +kernel⟩,
   ⟨onMe (fun X => { X with fflags := 5, sigmin := 3, qdst := [(3, 7)], pvbase := 0x1000, tagbase := 8, fround := 2, ut := { TrapRegs.zero with vec := 4, pc := 8, aux := 3 }, st := { TrapRegs.zero with vec := 12, pc := 16 }, status := 0 }) (cpu (.add 5 6 7)), 0, 0, by decide +kernel⟩,
   ⟨onMe (fun X => { X with fflags := 5, sigmin := 3, qdst := [(3, 7)], pvbase := 0x1000, tagbase := 8, fround := 2, ut := { TrapRegs.zero with vec := 4, pc := 8, aux := 3 }, st := { TrapRegs.zero with vec := 12, pc := 16 }, status := 0x25 }) (cpu (.add 5 6 7)), 0, 0, .w, 0x2037, by decide +kernel, by decide +kernel, by decide +kernel⟩⟩

theorem meets_EngineRegisters :
    (∃ (g : Engine) (n : BitVec 8) (d : RegF) (s s1 : State), starts (.erd g n d) s = true ∧ (g = .repeat → s.who.replaying = false) ∧ Writes (doer (.erd g n d) s) d { val := engRead (begun s) s.cur.1 s.cur.2 g n.toNat, cnt := 127, inx := false } (begun s) s1) ∧
    (∃ (g : Engine) (n : BitVec 8) (a : RegF) (s s1 : State) (v : TVal), starts (.ewr g n a) s = true ∧ (g = .repeat → s.who.replaying = false) ∧ Reads (doer (.ewr g n a) s) a (begun s) v s1) ∧
    (∃ (s : State) (c i j n : Nat), n < 128 ∧ (isArray c = true ∨ (s.ctx c i).tenant = (s.ctx c j).tenant)) ∧
    (∃ n, n < 5) ∧
    (∃ (v : Word) (n : _), v.getLsbD 16 = false ∧ 5 ≤ n) ∧
    (∃ (v : Word), v.getLsbD 16 = true) ∧
    (∃ (v : Word), v.getLsbD 15 = true) :=
  ⟨⟨.repeat, 0, 5, onMe (fun X => { X with ereg := [(0x80, 0x8123), (0x81, 7), (256, 5), (257, 0xF), (512, 9), (776, 0x8003)] }) (cpu (.erd .repeat 0 5)), _, by decide +kernel, by decide +kernel, writeReg_usable _ rfl rfl (by decide +kernel)⟩,
   ⟨.repeat, 0, 6, onMe (fun X => { X with ereg := [(0x80, 0x8123), (0x81, 7), (256, 5), (257, 0xF), (512, 9), (776, 0x8003)] }) (onReg 6 0xFFFFFFFF (cpu (.ewr .repeat 0 6))), _, _, by decide +kernel, by decide +kernel, readReg_usable (by decide +kernel)⟩,
   ⟨State.modCtx (onMe (fun X => { X with ereg := [(0x80, 0x8123), (0x81, 7), (256, 5), (257, 0xF), (512, 9), (776, 0x8003)] }) (cpu (.add 5 6 7))) 0 3 (fun x => { x with uid := 9 }), 0, 0, 3, 0, by decide +kernel, by decide +kernel⟩,
   ⟨0, by decide +kernel⟩,
   ⟨0x3, 5, by decide +kernel, by decide +kernel⟩,
   ⟨0x10000, by decide +kernel⟩,
   ⟨0x8000, by decide +kernel⟩⟩

theorem meets_NopYieldIdle :
    (∃ (s : State), starts .nop s = true) ∧
    (∃ (s : State), starts .yield s = true) ∧
    (∃ (s : State), starts .idle s = true) :=
  ⟨⟨cpu .nop, by decide +kernel⟩,
   ⟨onCore (fun K => { K with ctxs := K.ctxs ++ [(3, { Ctx.reset with state := .ready, uid := 9 })], rot := [0, 3] }) (cpu .yield),
     by decide +kernel⟩,
   ⟨onMe (fun X => { X with status := 1 }) (cpu .idle), by decide +kernel⟩⟩

theorem meets_RecordsLeave :
    (∃ (a : RegF) (s s1 : State) (p : TVal) (d : Nat), starts (.go a) s = true ∧ Reads (doer (.go a) s) a (begun s) p s1 ∧ (s1.ctx s.cur.1 s.cur.2).landing = true ∧ landingMayEnd (doer (.go a) s) s1 = true ∧ (¬(bits p.val 63 56 = 0 ∧ p.val.getLsbD 51 = false)) ∧ goCore s1 s.cur.1 (s1.ctx s.cur.1 s.cur.2) p.val = .ok d ∧ canShip s1 (shipmentOf (doer (.go a) s) s1 (s.who.pc + 4) d) = true) ∧
    (∃ (a : RegF) (s s1 s2 t : State) (p : TVal) (l : Loc) (way : Delivered), starts (Instr.go a) s = true ∧ Reads (doer (Instr.go a) s) a (begun s) p s1 ∧ (s1.ctx (doer (Instr.go a) s).core (doer (Instr.go a) s).slot).landing = false ∧ Finds (doer (Instr.go a) s) p.val 64 .atom false s1 l s2 ∧ (s1.ctx (doer (Instr.go a) s).core (doer (Instr.go a) s).slot).ship = none ∧ clear (doer (Instr.go a) s) l true s2 = true ∧ performed (doer (Instr.go a) s) s2 = true ∧ homeFault s2 (doer (Instr.go a) s).core (.cas 0 0 .device) l.place p.val l.lv (s2.ctx (doer (Instr.go a) s).core (doer (Instr.go a) s).slot).gen = none ∧ bits (((List.range 8).map (fun j => w64 (s2.readAt (l.place.plus (8 * j)) 8 (s2.ctx (doer (Instr.go a) s).core (doer (Instr.go a) s).slot).gen))).getD 1 0) 29 24 = (s2.ctx (doer (Instr.go a) s).core (doer (Instr.go a) s).slot).tenant ∧ bits (((List.range 8).map (fun j => w64 (s2.readAt (l.place.plus (8 * j)) 8 (s2.ctx (doer (Instr.go a) s).core (doer (Instr.go a) s).slot).gen))).getD 0 0) 47 46 = 1 ∧ bits (((List.range 8).map (fun j => w64 (s2.readAt (l.place.plus (8 * j)) 8 (s2.ctx (doer (Instr.go a) s).core (doer (Instr.go a) s).slot).gen))).getD 1 0) 63 62 = 0 ∧ s2.staleTrap (l.place.plus 32) (s2.ctx (doer (Instr.go a) s).core (doer (Instr.go a) s).slot).gen = false ∧ deliverRecord (numbered (doer (Instr.go a) s) (((s2.see (s2.ctx (doer (Instr.go a) s).core (doer (Instr.go a) s).slot).uid (s2.latest l.place 64)).commit ((s2.see (s2.ctx (doer (Instr.go a) s).core (doer (Instr.go a) s).slot).uid (s2.latest l.place 64)).byRelease (doer (Instr.go a) s).core (s2.ctx (doer (Instr.go a) s).core (doer (Instr.go a) s).slot).uid (s2.ctx (doer (Instr.go a) s).core (doer (Instr.go a) s).slot).tenant (s2.ctx (doer (Instr.go a) s).core (doer (Instr.go a) s).slot).seq .device) l.place 8 (setBits (((List.range 8).map (fun j => w64 (s2.readAt (l.place.plus (8 * j)) 8 (s2.ctx (doer (Instr.go a) s).core (doer (Instr.go a) s).slot).gen))).getD 0 0) 47 46 0).toNat (s2.ctx (doer (Instr.go a) s).core (doer (Instr.go a) s).slot).gen).gain (s2.ctx (doer (Instr.go a) s).core (doer (Instr.go a) s).slot).uid (s2.acquiredAt (.ctx (s2.ctx (doer (Instr.go a) s).core (doer (Instr.go a) s).slot).uid (doer (Instr.go a) s).core (s2.ctx (doer (Instr.go a) s).core (doer (Instr.go a) s).slot).tenant 0 0) l.place 64))) { words := ((List.range 8).map (fun j => w64 (s2.readAt (l.place.plus (8 * j)) 8 (s2.ctx (doer (Instr.go a) s).core (doer (Instr.go a) s).slot).gen))), dest := (doer (Instr.go a) s).core, src := 0, tenant := (s2.ctx (doer (Instr.go a) s).core (doer (Instr.go a) s).slot).tenant, sender := (doer (Instr.go a) s).core, front := (s2.released (s2.ctx (doer (Instr.go a) s).core (doer (Instr.go a) s).slot).uid .device).join (s2.acquiredAt (.ctx (s2.ctx (doer (Instr.go a) s).core (doer (Instr.go a) s).slot).uid (doer (Instr.go a) s).core (s2.ctx (doer (Instr.go a) s).core (doer (Instr.go a) s).slot).tenant 0 0) l.place 64) } = some (way, t)) ∧
    (∃ (d a : RegF) (z : Size) (imm : BitVec 7) (s s1 s2 s3 s4 : State) (base : TVal) (l : Loc) (app : Option (Option Append)), starts (Instr.ldGo d a z imm) s = true ∧ Reads (doer (Instr.ldGo d a z imm) s) a (begun s) base s1 ∧ (if (s1.ctx (doer (Instr.ldGo d a z imm) s).core (doer (Instr.ldGo d a z imm) s).slot).landing = true ∧ bits (operandPtr base.val imm (sizeBytes z)) 63 56 = 0 ∧ (operandPtr base.val imm (sizeBytes z)).getLsbD 51 = false then ((∃ m, Finds (doer (Instr.ldGo d a z imm) s) (operandPtr base.val imm (sizeBytes z)) (sizeBytes z) .ld false s1 m s2 ∧ (match m.place with | .hbm h => isKerb (doer (Instr.ldGo d a z imm) s).core && kerbOf h == (doer (Instr.ldGo d a z imm) s).core | _ => isKerb (doer (Instr.ldGo d a z imm) s).core) = true)) else s2 = s1) ∧ Finds (doer (Instr.ldGo d a z imm) s) (operandPtr base.val imm (sizeBytes z)) (sizeBytes z) .ld (z == .d) s2 l s3 ∧ clear (doer (Instr.ldGo d a z imm) s) l false s3 = true ∧ l.ownLs (doer (Instr.ldGo d a z imm) s).core = false ∧ (s3.ctx (doer (Instr.ldGo d a z imm) s).core (doer (Instr.ldGo d a z imm) s).slot).nL < 63 ∧ Ready (doer (Instr.ldGo d a z imm) s) d (counted (doer (Instr.ldGo d a z imm) s) .L s3) app s4) ∧
    (∃ (d a : RegF) (z : Size) (imm : BitVec 7) (s s1 s2 s3 s4 : State) (base : TVal) (l : Loc), starts (Instr.ldGo d a z imm) s = true ∧ Reads (doer (Instr.ldGo d a z imm) s) a (begun s) base s1 ∧ (if (s1.ctx (doer (Instr.ldGo d a z imm) s).core (doer (Instr.ldGo d a z imm) s).slot).landing = true ∧ bits (operandPtr base.val imm (sizeBytes z)) 63 56 = 0 ∧ (operandPtr base.val imm (sizeBytes z)).getLsbD 51 = false then ((∃ m, Finds (doer (Instr.ldGo d a z imm) s) (operandPtr base.val imm (sizeBytes z)) (sizeBytes z) .ld false s1 m s2 ∧ (match m.place with | .hbm h => isKerb (doer (Instr.ldGo d a z imm) s).core && kerbOf h == (doer (Instr.ldGo d a z imm) s).core | _ => isKerb (doer (Instr.ldGo d a z imm) s).core) = true)) else s2 = s1) ∧ Finds (doer (Instr.ldGo d a z imm) s) (operandPtr base.val imm (sizeBytes z)) (sizeBytes z) .ld (z == .d) s2 l s3 ∧ clear (doer (Instr.ldGo d a z imm) s) l false s3 = true ∧ l.ownLs (doer (Instr.ldGo d a z imm) s).core = true ∧ mayPerform (doer (Instr.ldGo d a z imm) s) l s3 = true ∧ (s3.staleTrap l.place (s3.ctx (doer (Instr.ldGo d a z imm) s).core (doer (Instr.ldGo d a z imm) s).slot).gen && !granuleBuffered (ownBuf (doer (Instr.ldGo d a z imm) s) s3) l.place) = false ∧ Writes (doer (Instr.ldGo d a z imm) s) d { val := extend (s3.ctxRead (doer (Instr.ldGo d a z imm) s).core (s3.ctx (doer (Instr.ldGo d a z imm) s).core (doer (Instr.ldGo d a z imm) s).slot) (s3.ctx (doer (Instr.ldGo d a z imm) s).core (doer (Instr.ldGo d a z imm) s).slot).seq none l.place (sizeBytes z)).1 (sizeBytes z) (sizeSigned z), cnt := 127, inx := false } (s3.ctxRead (doer (Instr.ldGo d a z imm) s).core (s3.ctx (doer (Instr.ldGo d a z imm) s).core (doer (Instr.ldGo d a z imm) s).slot) (s3.ctx (doer (Instr.ldGo d a z imm) s).core (doer (Instr.ldGo d a z imm) s).slot).seq none l.place (sizeBytes z)).2 s4) ∧
    (∃ (d a : RegF) (z : Size) (imm : BitVec 7) (s s1 s2 s3 : State) (base : TVal) (l : Loc) (q : Place) (lv : Nat), starts (Instr.ldGo d a z imm) s = true ∧ Reads (doer (Instr.ldGo d a z imm) s) a (begun s) base s1 ∧ (s1.ctx (doer (Instr.ldGo d a z imm) s).core (doer (Instr.ldGo d a z imm) s).slot).landing = true ∧ bits (operandPtr base.val imm (sizeBytes z)) 63 56 = 0 ∧ (operandPtr base.val imm (sizeBytes z)).getLsbD 51 = false ∧ Finds (doer (Instr.ldGo d a z imm) s) (operandPtr base.val imm (sizeBytes z)) (sizeBytes z) .ld false s1 l s2 ∧ ((match l.place with | .hbm h => isKerb (doer (Instr.ldGo d a z imm) s).core && kerbOf h == (doer (Instr.ldGo d a z imm) s).core | _ => isKerb (doer (Instr.ldGo d a z imm) s).core) = false) ∧ landingMayEnd (doer (Instr.ldGo d a z imm) s) s2 = true ∧ translate (operandPtr base.val imm (sizeBytes z)) .ld (doer (Instr.ldGo d a z imm) s) s2 = .ok ((q, lv), s3) ∧ canShip (match q with | .hbm _ => s3 | _ => s3.draw.2) (shipmentOf (doer (Instr.ldGo d a z imm) s) (match q with | .hbm _ => s3 | _ => s3.draw.2) s.who.pc (match q with | .hbm m => kerbOf m | _ => 12288 + Config.freePick s3.free % 256)) = true) ∧
    (∃ (a : RegF) (s s1 s2 : State) (p : TVal) (l : Loc), starts (Instr.susp a) s = true ∧ s.who.landing = true ∧ Reads (doer (Instr.susp a) s) a (begun s) p s1 ∧ landingMayEnd (doer (Instr.susp a) s) s1 = true ∧ Finds (doer (Instr.susp a) s) p.val 64 .st false s1 l s2 ∧ recordTarget l (doer (Instr.susp a) s) s2 = .ok ((), s2) ∧ clear (doer (Instr.susp a) s) l true s2 = true ∧ l.win ≠ .rem) ∧
    (∃ (a : RegF) (s s1 s2 : State) (p : TVal) (l : Loc), starts (Instr.susp a) s = true ∧ s.who.landing = true ∧ Reads (doer (Instr.susp a) s) a (begun s) p s1 ∧ landingMayEnd (doer (Instr.susp a) s) s1 = true ∧ Finds (doer (Instr.susp a) s) p.val 64 .st false s1 l s2 ∧ recordTarget l (doer (Instr.susp a) s) s2 = .ok ((), s2) ∧ clear (doer (Instr.susp a) s) l true s2 = true ∧ l.win = .rem ∧ (s2.ctx (doer (Instr.susp a) s).core (doer (Instr.susp a) s).slot).nS + 8 ≤ 63 ∧ (s2.core (doer (Instr.susp a) s).core).journal.length + (s2.core (doer (Instr.susp a) s).core).promised ≤ 56) ∧
    (∃ (c idx answer : Nat) (s : State) (j : JEntry), (s.core c).journal[idx]? = some j ∧ acceptReady s c j = true ∧ (s.ctx c j.slot).suspends j = true ∧ refusal s j answer = 0 ∧ j.rel = true) ∧
    (∃ (c idx answer : Nat) (s : State) (j : JEntry), (s.core c).journal[idx]? = some j ∧ acceptReady s c j = true ∧ (s.ctx c j.slot).suspends j = true ∧ refusal s j answer ≠ 0) ∧
    (∃ (a : RegF) (s s1 s2 : State) (p : TVal) (l : Loc) (c off : Nat) (r : Region), starts (Instr.hold a) s = true ∧ s.who.landing = true ∧ Reads (doer (Instr.hold a) s) a (begun s) p s1 ∧ landingMayEnd (doer (Instr.hold a) s) s1 = true ∧ bits p.val 63 56 ≠ 0 ∧ bits p.val 63 56 ≠ 0xF1 ∧ Finds (doer (Instr.hold a) s) p.val 128 .st false s1 l s2 ∧ l.place = .ls c off ∧ recordTarget l (doer (Instr.hold a) s) s2 = .ok ((), s2) ∧ clear (doer (Instr.hold a) s) l true s2 = true ∧ (s2.core c).regionAt off = some r ∧ off + 128 ≤ r.off + r.len ∧ (∀ g ∈ (s2.core c).hold, g.off ≠ off) ∧ (s2.core c).hold.length < 32) ∧
    (∃ (a : RegF) (s : State), s.who.landing = false ∧ starts (.susp a) s = true) ∧
    (∃ (a : RegF) (s : State), s.who.landing = false ∧ starts (.hold a) s = true) :=
  ⟨⟨6, (State.modCtx (onReg 6 0xF400040000000000 (onMe (fun X => { X with landing := true, hasRec := true }) ((State.modDisp (cpu (.go 6)) (fun D => { D with parts := [{ tenant := 0, words := [23 * 1024 + 31 * 32768, 0, 0, 0, 0, 0, 0, 0] }] }))))) 1 2 (fun X => { X with state := .idleLanding, landing := true, uid := 7, tenant := 0 })), _, _, _, by decide +kernel, readReg_usable (by decide +kernel), by decide +kernel, by decide +kernel, by decide +kernel, ok_of (by decide +kernel), by decide +kernel⟩,
   ⟨6, (State.modCtx ((State.modDisp (onReg 6 0x40 ({ cpu (.go 6) with hbm := Memory.put (cpu (.go 6)).hbm 0x45 0x40 })) (fun D => { D with parts := [{ tenant := 0, words := [23 * 1024 + 31 * 32768, 0, 0, 0, 0, 0, 0, 0] }] }))) 0 2 (fun X => { X with state := .idleLanding, landing := true, uid := 7, tenant := 0 })), _, _, _, _, _, _, by decide +kernel, readReg_usable (by decide +kernel), by decide +kernel, found_of (by decide +kernel) (by decide +kernel), by decide +kernel, by decide +kernel, by decide +kernel, by decide +kernel, by decide +kernel, by decide +kernel, by decide +kernel, by decide +kernel, some2_of (by decide +kernel)⟩,
   ⟨5, 6, .i32, 0, onReg 6 0x40 (cpu (.ldGo 5 6 .i32 0)), _, _, _, _, _, _, _, by decide +kernel, readReg_usable (by decide +kernel), else_rfl (by decide +kernel), found_of (by decide +kernel) (by decide +kernel), by decide +kernel, by decide +kernel, by decide +kernel, ready_of (by decide +kernel)⟩,
   ⟨5, 6, .i32, 0, onReg 6 0xF200000000000040 (onCore (fun k => k.lsWrite 1 0x40 8 0x80000001) (cpu (.ldGo 5 6 .i32 0))), _, _, _, _, _, _, by decide +kernel, readReg_usable (by decide +kernel), else_rfl (by decide +kernel), found_of (by decide +kernel) (by decide +kernel), by decide +kernel, by decide +kernel, by decide +kernel, by decide +kernel, writeReg_usable _ rfl rfl (by decide +kernel)⟩,
   ⟨5, 6, .i32, 0, (State.modCtx (onReg 6 0x140 (onMe (fun X => { X with landing := true, hasRec := true }) (cpu (.ldGo 5 6 .i32 0)))) 12289 2 (fun X => { X with state := .idleLanding, landing := true, uid := 7, tenant := 0 })), _, _, _, _, _, .hbm 0x140, _, by decide +kernel, readReg_usable (by decide +kernel), by decide +kernel, by decide +kernel, by decide +kernel, found_of (by decide +kernel) (by decide +kernel), by decide +kernel, by decide +kernel, hbm_of (by decide +kernel) (by decide +kernel), by decide +kernel⟩,
   ⟨6, onReg 6 0xF200000000000040 (onMe (fun X => { X with landing := true, hasRec := true }) (onCore (fun K => { K with regions := [{ off := 0, len := 1024, trap := false, gen := 9, gang := 0, tenant := 0, retired := false }] }) (cpu (.susp 6)))), _, _, _, _, by decide +kernel, by decide +kernel, readReg_usable (by decide +kernel), by decide +kernel, found_of (by decide +kernel) (by decide +kernel), unit_of (by decide +kernel), by decide +kernel, by decide +kernel⟩,
   ⟨6, (fun s => s.modCore 1 (fun k => { k with regions := [{ off := 0, len := 256, trap := false, gen := 9, gang := 0, tenant := 0, retired := false }] })) (onReg 6 0xF400040000000040 ((State.modDisp (onMe (fun X => { X with landing := true, hasRec := true }) (cpu (.susp 6))) (fun D => { D with parts := [{ tenant := 0, words := [23 * 1024 + 31 * 32768, 0, 0, 0, 0, 0, 0, 0] }] })))), _, _, _, _, by decide +kernel, by decide +kernel, readReg_usable (by decide +kernel), by decide +kernel, found_of (by decide +kernel) (by decide +kernel), unit_of (by decide +kernel), by decide +kernel, by decide +kernel, by decide +kernel, by decide +kernel⟩,
   ⟨0, 0, 0, (fun s => s.modCore 1 (fun k => { k with regions := [{ off := 0, len := 256, trap := false, gen := 9, gang := 0, tenant := 0, retired := false }] })) ((State.modDisp (onMe (fun X => { X with landing := true, hasRec := true, nS := 1, seq := 9, state := .parked, wait := some { list := 1, cond := .never }, ship := some (65535, []) }) (onCore (fun k => { k with journal := [{ ent := 0, slot := 0, uid := 1, land := 0, tenant := 0, seq := 8, pair := 0, place := .ls 1 0x40, ptr := 0xF400040000000040, size := 8, value := 0x1234, rel := true, gen := 1, susp := true }] }) (cpu (.add 5 6 7)))) (fun D => { D with parts := [{ tenant := 0, words := [23 * 1024 + 31 * 32768, 0, 0, 0, 0, 0, 0, 0] }] }))), _, some_of (by decide +kernel), by decide +kernel, by decide +kernel, by decide +kernel, by decide +kernel⟩,
   ⟨0, 0, 0, (fun s => s) ((State.modDisp (onMe (fun X => { X with landing := true, hasRec := true, nS := 8, seq := 9, state := .parked, wait := some { list := 1, cond := .never }, ship := some (65535, []) }) (onCore (fun k => { k with journal := [{ ent := 1, slot := 0, uid := 1, land := 0, tenant := 0, seq := 1, pair := 0, place := .ls 1 0x48, ptr := 0xF400040000000040, size := 8, value := 0x1234, rel := false, gen := 1, susp := true }, { ent := 2, slot := 0, uid := 1, land := 0, tenant := 0, seq := 2, pair := 0, place := .ls 1 0x50, ptr := 0xF400040000000040, size := 8, value := 0x1234, rel := false, gen := 1, susp := true }, { ent := 3, slot := 0, uid := 1, land := 0, tenant := 0, seq := 3, pair := 0, place := .ls 1 0x58, ptr := 0xF400040000000040, size := 8, value := 0x1234, rel := false, gen := 1, susp := true }, { ent := 4, slot := 0, uid := 1, land := 0, tenant := 0, seq := 4, pair := 0, place := .ls 1 0x60, ptr := 0xF400040000000040, size := 8, value := 0x1234, rel := false, gen := 1, susp := true }, { ent := 5, slot := 0, uid := 1, land := 0, tenant := 0, seq := 5, pair := 0, place := .ls 1 0x68, ptr := 0xF400040000000040, size := 8, value := 0x1234, rel := false, gen := 1, susp := true }, { ent := 6, slot := 0, uid := 1, land := 0, tenant := 0, seq := 6, pair := 0, place := .ls 1 0x70, ptr := 0xF400040000000040, size := 8, value := 0x1234, rel := false, gen := 1, susp := true }, { ent := 7, slot := 0, uid := 1, land := 0, tenant := 0, seq := 7, pair := 0, place := .ls 1 0x78, ptr := 0xF400040000000040, size := 8, value := 0x1234, rel := false, gen := 1, susp := true }, { ent := 0, slot := 0, uid := 1, land := 0, tenant := 0, seq := 8, pair := 0, place := .ls 1 0x40, ptr := 0xF400040000000040, size := 8, value := 0x1234, rel := true, gen := 1, susp := true }] }) (cpu (.add 5 6 7)))) (fun D => { D with parts := [{ tenant := 0, words := [23 * 1024 + 31 * 32768, 0, 0, 0, 0, 0, 0, 0] }] }))), _, some_of (by decide +kernel), by decide +kernel, by decide +kernel, by decide +kernel⟩,
   ⟨6, onReg 6 0xF200000000000080 (onMe (fun X => { X with landing := true, hasRec := true }) (onCore (fun K => { K with regions := [{ off := 0, len := 1024, trap := false, gen := 9, gang := 0, tenant := 0, retired := false }] }) (cpu (.hold 6)))), _, _, _, _, 0, 0x80, _, by decide +kernel, by decide +kernel, readReg_usable (by decide +kernel), by decide +kernel, by decide +kernel, by decide +kernel, found_of (by decide +kernel) (by decide +kernel), by decide +kernel, unit_of (by decide +kernel), by decide +kernel, some_of (by decide +kernel), by decide +kernel, by decide +kernel, by decide +kernel⟩,
   ⟨6, onReg 6 64 (cpu (.susp 6)), by decide +kernel, by decide +kernel⟩,
   ⟨6, onReg 6 64 (cpu (.hold 6)), by decide +kernel, by decide +kernel⟩⟩

theorem meets_RecordEvents :
    (∃ (n : Nat) (s t : State) (h : Shipment) (way : Delivered), s.ships[n]? = some h ∧ (∀ x ∈ s.ships.take n, x.sender = h.sender → x.dest ≠ h.dest) ∧ stopped s h.tenant = false ∧ deliverRecord { s with ships := without s.ships n } h = some (way, t)) ∧
    (∃ (s : State) (h : Shipment), queueTakes s h.dest h.tenant 0 = true ∧ ringHolds s h.tenant h.sender h.dest = false) ∧
    (∃ (c n i g : Nat) (s : State) (h : Shipment), (s.core c).landq[n]? = some h ∧ landClosed s c h.tenant = false ∧ firstIdle s c h.tenant i ∧ (∀ x ∈ (s.core c).landq.take n, landClosed s c x.tenant = true ∨ idleFor s c x.tenant = none) ∧ mayTake s c .landing = true ∧ (s.core c).nextGen = some g) ∧
    (∃ (c n : Nat) (s s1 : State) (h : HoldEntry) (way : Delivered), (s.core c).hold[n]? = some h ∧ (s.core c).seenFull ((s.core c).gov 0 h.off).1 (h.off + 64) = true ∧ deliverRecord s.draw.2 { words := holdRecord s c h (Config.freeChoice s.free), dest := c, src := 1, tenant := h.tenant, sender := c, front := (h.front.join (s.emptiedAt (.ctx 0 c h.tenant 0 0) (.ls c (h.off + 64)) 8)) } = some (way, s1) ∧ h.tried = false) ∧
    (∃ (c n : Nat) (s s1 : State) (h : HoldEntry) (way : Delivered), (s.core c).hold[n]? = some h ∧ (s.core c).seenFull ((s.core c).gov 0 h.off).1 (h.off + 64) = true ∧ deliverRecord s.draw.2 { words := holdRecord s c h (Config.freeChoice s.free), dest := c, src := 1, tenant := h.tenant, sender := c, front := (h.front.join (s.emptiedAt (.ctx 0 c h.tenant 0 0) (.ls c (h.off + 64)) 8)) } = some (way, s1) ∧ h.tried = true) ∧
    (∃ (c i d : Nat) (w : List Word) (s : State), (s.ctx c i).parkedOn (fun v => v == .delivery) = true ∧ (s.ctx c i).ship = some (d, w) ∧ d ≠ ringMark ∧ (s.ctx c i).landing = true ∧ canShip s ({ words := w.take 8, dest := d, src := 0, tenant := (s.ctx c i).tenant, sender := c, front := s.released (s.ctx c i).uid .device } : Shipment) = true) ∧
    (∃ (c i d : Nat) (w : List Word) (s : State) (t : _), (s.ctx c i).parkedOn (fun v => v == .delivery) = true ∧ (s.ctx c i).ship = some (d, w) ∧ d ≠ ringMark ∧ (s.ctx c i).landing = false ∧ deliverRecord s ({ words := w.take 8, dest := d, src := 0, tenant := (s.ctx c i).tenant, sender := c, front := s.released (s.ctx c i).uid .device } : Shipment) = some (.queue, t)) ∧
    (∃ (tn : Nat) (s s1 : State) (p : Part) (w : List Word) (x tail head : Word), s.part? tn = some p ∧ ringCounts s tn (p.word 2) = some (tail, head) ∧ ringHead s tn (p.word 2) (p.word 3) = some (w, x) ∧ queueTakes s (bits x 13 0) tn 0 = true ∧ ringTake s tn (p.word 2) = some s1) :=
  ⟨⟨0, { ((State.modCtx (cpu (.add 5 6 7)) 1 2 (fun X => { X with state := .idleLanding, landing := true, uid := 7, tenant := 0 }))) with ships := [{ words := [0x408000000010, 5, 1, 2, 3, 4, 5, 6], dest := 1, src := 0, tenant := 0, sender := 0 }] }, _, _, _, some_of (by decide +kernel), by decide +kernel, by decide +kernel, some2_of (by decide +kernel)⟩,
   ⟨(State.modCtx (cpu (.add 5 6 7)) 1 2 (fun X => { X with state := .idleLanding, landing := true, uid := 7, tenant := 0 })), { words := [0x408000000010, 5, 1, 2, 3, 4, 5, 6], dest := 1, src := 0, tenant := 0, sender := 0 }, by decide +kernel, by decide +kernel⟩,
   ⟨0, 0, 2, _, onCore (fun K => { K with landq := [{ words := [0x408000000010, 5, 1, 2, 3, 4, 5, 6], dest := 0, src := 0, tenant := 0, sender := 0 }] }) ((State.modCtx (cpu (.add 5 6 7)) 0 2 (fun X => { X with state := .idleLanding, landing := true, uid := 7, tenant := 0 }))), _, some_of (by decide +kernel), by decide +kernel, by unfold firstIdle; decide +kernel, by decide +kernel, by decide +kernel, some_of (by decide +kernel)⟩,
   ⟨0, 0, (State.modCtx (onCore (fun K => { (K.lsWriteFe 9 0xC0 7 true) with hold := [{ off := 0x80, tenant := 0, words := [0x800000000010, 0, 1, 2, 3, 4, 5, 6] }], regions := [{ off := 0, len := 256, trap := false, gen := 9, gang := 0, tenant := 0, retired := false }] }) (cpu (.add 5 6 7))) 0 2 (fun X => { X with state := .idleLanding, landing := true, uid := 7, tenant := 0 })), _, _, _, some_of (by decide +kernel), by decide +kernel, some2_of (by decide +kernel), by decide +kernel⟩,
   ⟨0, 0, (State.modCtx (onCore (fun K => { (K.lsWriteFe 9 0xC0 7 true) with hold := [{ off := 0x80, tenant := 0, words := [0x800000000010, 0, 1, 2, 3, 4, 5, 6], tried := true }], regions := [{ off := 0, len := 256, trap := false, gen := 9, gang := 0, tenant := 0, retired := false }] }) (cpu (.add 5 6 7))) 0 2 (fun X => { X with state := .idleLanding, landing := true, uid := 7, tenant := 0 })), _, _, _, some_of (by decide +kernel), by decide +kernel, some2_of (by decide +kernel), by decide +kernel⟩,
   ⟨0, 0, _, _, (State.modCtx (onMe (fun X => { X with state := .parked, wait := some { list := 10, cond := .delivery }, ship := some (1, [1,2,3,4,5,6,7,8]), landing := true }) (cpu (.add 5 6 7))) 1 2 (fun X => { X with state := .idleLanding, landing := true, uid := 7, tenant := 0 })), by decide +kernel, some2_of (by decide +kernel), by decide +kernel, by decide +kernel, by decide +kernel⟩,
   ⟨0, 0, _, _, (State.modCtx (onMe (fun X => { X with state := .parked, wait := some { list := 10, cond := .delivery }, ship := some (1, [1,2,3,4,5,6,7,8]) }) (cpu (.add 5 6 7))) 1 2 (fun X => { X with state := .idleLanding, landing := true, uid := 7, tenant := 0 })), _, by decide +kernel, some2_of (by decide +kernel), by decide +kernel, by decide +kernel, snd_of (by decide +kernel) (by decide +kernel)⟩,
   ⟨0, (State.modCtx (put8 0x1000 1 (put8 0x1040 0x408000000010 (put8 0x1080 1 (tabs ((State.modDisp (cpu (.add 5 6 7)) (fun D => { D with parts := [{ tenant := 0, words := [23 * 1024 + 31 * 32768, 0, 0x1000, 4, 0, 0, 0, 0] }] }))))))) 1 2 (fun X => { X with state := .idleLanding, landing := true, uid := 7, tenant := 0 })), _, _, _, _, _, _, some_of (by decide +kernel), some2_of (by decide +kernel), some2_of (by decide +kernel), by decide +kernel, some_of (by decide +kernel)⟩⟩

theorem meets_ContextsEnd :
    (∃ (s : State), starts .exit s = true ∧ s.who.replaying = false ∧ s.who.inl = [] ∧ s.who.hasRec = false ∧ s.who.chain = false ∧
      s.who.state = .ready) ∧
    (∃ (s : State), starts .exit s = true ∧ s.who.replaying = false ∧ s.who.inl = [] ∧ s.who.landing = true ∧ s.who.hasRec = true ∧
      landingMayEnd (doer .exit s) (begun s) = true) ∧
    (∃ (a : RegF) (s s1 : State) (v : TVal), starts (.ctxkill a) s = true ∧ Reads (doer (.ctxkill a) s) a (begun s) v s1 ∧
      ((s1.core s.cur.1).slots ≤ (bits v.val 5 0) ∨ ((s1.core s.cur.1).ctx (bits v.val 5 0)).state = .free)) ∧
    (∃ (a : RegF) (s s1 : State) (v : TVal), starts (.ctxkill a) s = true ∧ Reads (doer (.ctxkill a) s) a (begun s) v s1 ∧
      (bits v.val 5 0) < (s1.core s.cur.1).slots ∧ ((s1.core s.cur.1).ctx (bits v.val 5 0)).state ≠ .free ∧
      ((s1.core s.cur.1).ctx (bits v.val 5 0)).state ≠ .draining ∧
      ((s1.ctx s.cur.1 s.cur.2).level ≠ 0 ∨ (((s1.core s.cur.1).ctx (bits v.val 5 0)).gang = (s1.ctx s.cur.1 s.cur.2).gang ∧
      ((s1.core s.cur.1).ctx (bits v.val 5 0)).tenant = (s1.ctx s.cur.1 s.cur.2).tenant))) ∧
    (∃ (a : RegF) (s s1 : State) (v : TVal), starts (.ctxkill a) s = true ∧ Reads (doer (.ctxkill a) s) a (begun s) v s1 ∧
      (bits v.val 5 0) < (s1.core s.cur.1).slots ∧ ((s1.core s.cur.1).ctx (bits v.val 5 0)).state ≠ .free ∧ (s1.ctx s.cur.1 s.cur.2).level = 0 ∧
      (((s1.core s.cur.1).ctx (bits v.val 5 0)).gang ≠ (s1.ctx s.cur.1 s.cur.2).gang ∨ ((s1.core s.cur.1).ctx (bits v.val 5 0)).tenant ≠ (s1.ctx s.cur.1 s.cur.2).tenant)) ∧
    (∃ (c i : Nat) (s : State), (s.ctx c i).state = .draining ∧ (s.ctx c i).nL = 0 ∧ (s.ctx c i).nM = 0 ∧ (s.ctx c i).nQ = 0 ∧
      (s.ctx c i).copyQ = []) :=
  ⟨⟨cpu .exit, by decide +kernel⟩,
   ⟨onMe (fun X => { X with landing := true, hasRec := true }) (cpu .exit), by decide +kernel⟩,
   ⟨6, onReg 6 5 (cpu (.ctxkill 6)), _, _, by decide +kernel, readReg_usable (by decide +kernel), by decide +kernel⟩,
   ⟨6, onReg 6 4 (State.modCtx (cpu (.ctxkill 6)) 0 4 (fun X => { X with state := .ready, uid := 9, gang := none, nM := 1, loads := [{ seq := 0, pc := 0, next := 0, rd := 5, kind := .ld 4 true false, place := .hbm 64, ptr := 0x40, lv := 3, elect := none }], nL := 1 })),
     _, _, by decide +kernel, readReg_usable (by decide +kernel), by decide +kernel⟩,
   ⟨6, onReg 6 4 (State.modCtx (cpu (.ctxkill 6)) 0 4 (fun X => { X with state := .ready, uid := 9, tenant := 3 })), _, _, by decide +kernel,
     readReg_usable (by decide +kernel), by decide +kernel⟩,
   ⟨0, 0, onMe (fun X => { X with state := .draining, nS := 1 }) (cpu (.add 5 6 7)), by decide +kernel⟩⟩

/-- What every image allowed by its header meets. -/
theorem no_image {α : Type} {o : Option α} {p : Prop} [Decidable p] {f : α → Bool}
    (h : (match o with | some m => decide (p ∨ f m = false) | none => true) = true) : ∀ m, o = some m → p ∨ f m = false := by
  intro m hm; rw [hm] at h; exact of_decide_eq_true h
def isTrap {α : Type} : Except Stop α → Bool
  | .error (.trap _) => true
  | _ => false
def trapGet {α : Type} : (m : Except Stop α) → isTrap m = true → TrapInfo
  | .error (.trap f), _ => f
theorem trap_of {α : Type} : {m : Except Stop α} → (h : isTrap m = true) → m = .error (.trap (trapGet m h))
  | .error (.trap _), _ => rfl

theorem meets_ContextCreation :
    (∃ (d a : RegF) (s s1 s2 s3 : State) (p : TVal) (ws : List Word), starts (Instr.ctxnew d a) s = true ∧
      Reads (doer (Instr.ctxnew d a) s) a (begun s) p s1 ∧ bits p.val 63 56 = 0xF2 ∧ bits p.val 55 42 = (doer (Instr.ctxnew d a) s).core ∧
      loadBlock p.val 4 (doer (Instr.ctxnew d a) s) s1 = .ok (ws, s2) ∧
      (bits (ws.getD 2 0) 63 10 ≠ 0 ∨ ws.getD 3 0 ≠ 0 ∨ bits (ws.getD 2 0) 9 5 = 0 ∨ 16 < bits (ws.getD 2 0) 9 5 ∨ ((ws.getD 2 0).getLsbD 4 = true ∧
      (ws.getD 2 0).getLsbD 2 = true) ∨ ((ws.getD 2 0).getLsbD 4 = false ∧
      (bits (ws.getD 0 0) 1 0 ≠ 0 ∨ bits (ws.getD 0 0) 63 52 ≠ 0)) ∨ ((ws.getD 2 0).getLsbD 2 = true ∧
      ((s1.ctx (doer (Instr.ctxnew d a) s).core (doer (Instr.ctxnew d a) s).slot).chain && (s1.ctx (doer (Instr.ctxnew d a) s).core (doer (Instr.ctxnew d a) s).slot).ordered) = false)) ∧
      ws.getD 1 0 = 0 ∧ Writes (doer (Instr.ctxnew d a) s) d { val := -2, cnt := 127, inx := false } s2 s3) ∧
    (∃ (d a : RegF) (s s1 s2 s3 : State) (p : TVal) (ws : List Word) (h : _) (vs : _) (s4 : _) (s5 : _), starts (Instr.ctxnew d a) s = true ∧ Reads (doer (Instr.ctxnew d a) s) a (begun s) p s1 ∧ bits p.val 63 56 = 0xF2 ∧ bits p.val 55 42 = (doer (Instr.ctxnew d a) s).core ∧ loadBlock p.val 4 (doer (Instr.ctxnew d a) s) s1 = .ok (ws, s2) ∧ ws.getD 1 0 ≠ 0 ∧ loadNow (ws.getD 1 0) 8 (doer (Instr.ctxnew d a) s) s2 = .ok (h, s4) ∧ loadWords (ws.getD 1 0 + 8) (headerLen (w64 h)) (doer (Instr.ctxnew d a) s) s4 = .ok (vs, s5) ∧ (∀ m, imgOf (w64 h) (8 * bits (ws.getD 2 0) 9 5) ((ws.getD 2 0).getLsbD 2) ((ws.getD 2 0).getLsbD 3) = some m → (bits (ws.getD 2 0) 63 10 ≠ 0 ∨ ws.getD 3 0 ≠ 0 ∨ bits (ws.getD 2 0) 9 5 = 0 ∨ 16 < bits (ws.getD 2 0) 9 5 ∨ ((ws.getD 2 0).getLsbD 4 = true ∧ (ws.getD 2 0).getLsbD 2 = true) ∨ ((ws.getD 2 0).getLsbD 4 = false ∧ (bits (ws.getD 0 0) 1 0 ≠ 0 ∨ bits (ws.getD 0 0) 63 52 ≠ 0)) ∨ ((ws.getD 2 0).getLsbD 2 = true ∧ ((s1.ctx (doer (Instr.ctxnew d a) s).core (doer (Instr.ctxnew d a) s).slot).chain && (s1.ctx (doer (Instr.ctxnew d a) s).core (doer (Instr.ctxnew d a) s).slot).ordered) = false)) ∨ m.tagsOk vs = false) ∧ Writes (doer (Instr.ctxnew d a) s) d { val := -2, cnt := 127, inx := false } s5 s3) ∧
    (∃ (d a : RegF) (s s1 s2 : State) (p : TVal) (ws : List Word) (h : _) (s4 : _) (f : _), starts (Instr.ctxnew d a) s = true ∧ Reads (doer (Instr.ctxnew d a) s) a (begun s) p s1 ∧ bits p.val 63 56 = 0xF2 ∧ bits p.val 55 42 = (doer (Instr.ctxnew d a) s).core ∧ loadBlock p.val 4 (doer (Instr.ctxnew d a) s) s1 = .ok (ws, s2) ∧ ws.getD 1 0 ≠ 0 ∧ loadNow (ws.getD 1 0) 8 (doer (Instr.ctxnew d a) s) s2 = .ok (h, s4) ∧ loadWords (ws.getD 1 0 + 8) (headerLen (w64 h)) (doer (Instr.ctxnew d a) s) s4 = .error (.trap f)) ∧
    (∃ (d a : RegF) (s s1 s2 s3 : State) (p : TVal) (ws : List Word), starts (Instr.ctxnew d a) s = true ∧
      Reads (doer (Instr.ctxnew d a) s) a (begun s) p s1 ∧ bits p.val 63 56 = 0xF2 ∧ bits p.val 55 42 = (doer (Instr.ctxnew d a) s).core ∧
      loadBlock p.val 4 (doer (Instr.ctxnew d a) s) s1 = .ok (ws, s2) ∧
      (¬(bits (ws.getD 2 0) 63 10 ≠ 0 ∨ ws.getD 3 0 ≠ 0 ∨ bits (ws.getD 2 0) 9 5 = 0 ∨ 16 < bits (ws.getD 2 0) 9 5 ∨ ((ws.getD 2 0).getLsbD 4 = true ∧
      (ws.getD 2 0).getLsbD 2 = true) ∨ ((ws.getD 2 0).getLsbD 4 = false ∧
      (bits (ws.getD 0 0) 1 0 ≠ 0 ∨ bits (ws.getD 0 0) 63 52 ≠ 0)) ∨ ((ws.getD 2 0).getLsbD 2 = true ∧
      ((s1.ctx (doer (Instr.ctxnew d a) s).core (doer (Instr.ctxnew d a) s).slot).chain && (s1.ctx (doer (Instr.ctxnew d a) s).core (doer (Instr.ctxnew d a) s).slot).ordered) = false))) ∧
      ws.getD 1 0 = 0 ∧ bits (ws.getD 2 0) 1 0 = 2 ∧ isArray (doer (Instr.ctxnew d a) s).core = false ∧
      Writes (doer (Instr.ctxnew d a) s) d { val := -3, cnt := 127, inx := false } s2 s3) ∧
    (∃ (d a : RegF) (s s1 s2 s3 : State) (p : TVal) (ws : List Word), starts (Instr.ctxnew d a) s = true ∧
      Reads (doer (Instr.ctxnew d a) s) a (begun s) p s1 ∧ bits p.val 63 56 = 0xF2 ∧ bits p.val 55 42 = (doer (Instr.ctxnew d a) s).core ∧
      loadBlock p.val 4 (doer (Instr.ctxnew d a) s) s1 = .ok (ws, s2) ∧
      (¬(bits (ws.getD 2 0) 63 10 ≠ 0 ∨ ws.getD 3 0 ≠ 0 ∨ bits (ws.getD 2 0) 9 5 = 0 ∨ 16 < bits (ws.getD 2 0) 9 5 ∨ ((ws.getD 2 0).getLsbD 4 = true ∧
      (ws.getD 2 0).getLsbD 2 = true) ∨ ((ws.getD 2 0).getLsbD 4 = false ∧
      (bits (ws.getD 0 0) 1 0 ≠ 0 ∨ bits (ws.getD 0 0) 63 52 ≠ 0)) ∨ ((ws.getD 2 0).getLsbD 2 = true ∧
      ((s1.ctx (doer (Instr.ctxnew d a) s).core (doer (Instr.ctxnew d a) s).slot).chain && (s1.ctx (doer (Instr.ctxnew d a) s).core (doer (Instr.ctxnew d a) s).slot).ordered) = false))) ∧
      ws.getD 1 0 = 0 ∧ (bits (ws.getD 2 0) 1 0 = 2 → isArray (doer (Instr.ctxnew d a) s).core = true) ∧
      ((s2.core (doer (Instr.ctxnew d a) s).core).freeSlot = none ∨ (s2.core (doer (Instr.ctxnew d a) s).core).freeWindow (8 * bits (ws.getD 2 0) 9 5) = none) ∧
      Writes (doer (Instr.ctxnew d a) s) d { val := -1, cnt := 127, inx := false } s2 s3) ∧
    (∃ (d a : RegF) (s s1 s2 : State) (p : TVal) (ws : List Word) (n : _) (w : _) (g : _), starts (Instr.ctxnew d a) s = true ∧
      Reads (doer (Instr.ctxnew d a) s) a (begun s) p s1 ∧ bits p.val 63 56 = 0xF2 ∧ bits p.val 55 42 = (doer (Instr.ctxnew d a) s).core ∧
      loadBlock p.val 4 (doer (Instr.ctxnew d a) s) s1 = .ok (ws, s2) ∧
      (¬(bits (ws.getD 2 0) 63 10 ≠ 0 ∨ ws.getD 3 0 ≠ 0 ∨ bits (ws.getD 2 0) 9 5 = 0 ∨ 16 < bits (ws.getD 2 0) 9 5 ∨ ((ws.getD 2 0).getLsbD 4 = true ∧
      (ws.getD 2 0).getLsbD 2 = true) ∨ ((ws.getD 2 0).getLsbD 4 = false ∧
      (bits (ws.getD 0 0) 1 0 ≠ 0 ∨ bits (ws.getD 0 0) 63 52 ≠ 0)) ∨ ((ws.getD 2 0).getLsbD 2 = true ∧
      ((s1.ctx (doer (Instr.ctxnew d a) s).core (doer (Instr.ctxnew d a) s).slot).chain && (s1.ctx (doer (Instr.ctxnew d a) s).core (doer (Instr.ctxnew d a) s).slot).ordered) = false))) ∧
      ws.getD 1 0 = 0 ∧ (bits (ws.getD 2 0) 1 0 = 2 → isArray (doer (Instr.ctxnew d a) s).core = true) ∧
      (s2.core (doer (Instr.ctxnew d a) s).core).freeSlot = some n ∧
      (s2.core (doer (Instr.ctxnew d a) s).core).freeWindow (8 * bits (ws.getD 2 0) 9 5) = some w ∧
      mayTake s2 (doer (Instr.ctxnew d a) s).core (.ctx (doer (Instr.ctxnew d a) s).slot (s2.ctx (doer (Instr.ctxnew d a) s).core (doer (Instr.ctxnew d a) s).slot).uid s.who.pc) = true ∧
      (s2.core (doer (Instr.ctxnew d a) s).core).nextGen = some g ∧ n ≠ (doer (Instr.ctxnew d a) s).slot ∧
      (s2.ctx (doer (Instr.ctxnew d a) s).core (doer (Instr.ctxnew d a) s).slot).usable d = true ∧
      (s2.ctx (doer (Instr.ctxnew d a) s).core (doer (Instr.ctxnew d a) s).slot).state = .ready) ∧
    (∃ (row : _) (d a : RegF) (s s1 s2 s3 : State) (p : TVal) (ws : List Word) (q : Nat), (row ∈ ([(Instr.spawn, 0), (Instr.spawnTry, 1), (Instr.spawnW, 2)] : List ((RegF → RegF → Instr) × Nat))) ∧
      starts (row.1 d a) s = true ∧ (row.2 = 2 → s.who.result? s.who.pc = none) ∧ Reads (doer (row.1 d a) s) a (begun s) p s1 ∧
      packetAt p.val (doer (row.1 d a) s) s1 = .ok (ws, s2) ∧ performed (doer (row.1 d a) s) s2 = true ∧
      spq s2 (s2.ctx (doer (row.1 d a) s).core (doer (row.1 d a) s).slot).tenant = some q ∧
      storeRoom s2 (s2.ctx (doer (row.1 d a) s).core (doer (row.1 d a) s).slot).tenant q = true ∧
      Writes (doer (row.1 d a) s) d { val := 1, cnt := 127, inx := false } (enterStore s2 q ws (s2.released (s2.ctx (doer (row.1 d a) s).core (doer (row.1 d a) s).slot).uid .device)) s3) ∧
    (∃ (row : _) (d a : RegF) (s s1 s2 s3 : State) (p : TVal) (ws : List Word) (q : Nat) (n : _), (row ∈ ([(Instr.spawn, 0), (Instr.spawnTry, 1), (Instr.spawnW, 2)] : List ((RegF → RegF → Instr) × Nat))) ∧
      starts (row.1 d a) s = true ∧ (row.2 = 2 → s.who.result? s.who.pc = none) ∧ Reads (doer (row.1 d a) s) a (begun s) p s1 ∧
      packetAt p.val (doer (row.1 d a) s) s1 = .ok (ws, s2) ∧ performed (doer (row.1 d a) s) s2 = true ∧
      spq s2 (s2.ctx (doer (row.1 d a) s).core (doer (row.1 d a) s).slot).tenant = some q ∧
      storeRoom s2 (s2.ctx (doer (row.1 d a) s).core (doer (row.1 d a) s).slot).tenant q = false ∧ freeLaunchSlot s2 q = some n ∧
      Writes (doer (row.1 d a) s) d { val := 1, cnt := 127, inx := false } ((s2.setLaunchSlot q n (ws, true)).setChan (.slot q n) (s2.released (s2.ctx (doer (row.1 d a) s).core (doer (row.1 d a) s).slot).uid .device)) s3) ∧
    (∃ (row : _) (d a : RegF) (s s1 s2 s3 : State) (p : TVal) (ws : List Word) (q : Nat), (row ∈ ([(Instr.spawn, 0), (Instr.spawnTry, 1), (Instr.spawnW, 2)] : List ((RegF → RegF → Instr) × Nat))) ∧
      starts (row.1 d a) s = true ∧ (row.2 = 2 → s.who.result? s.who.pc = none) ∧ Reads (doer (row.1 d a) s) a (begun s) p s1 ∧
      packetAt p.val (doer (row.1 d a) s) s1 = .ok (ws, s2) ∧ performed (doer (row.1 d a) s) s2 = true ∧
      spq s2 (s2.ctx (doer (row.1 d a) s).core (doer (row.1 d a) s).slot).tenant = some q ∧
      storeRoom s2 (s2.ctx (doer (row.1 d a) s).core (doer (row.1 d a) s).slot).tenant q = false ∧ freeLaunchSlot s2 q = none ∧ row.2 = 1 ∧
      Writes (doer (row.1 d a) s) d { val := 0, cnt := 127, inx := false } s2 s3) ∧
    (∃ (row : _) (d a : RegF) (s s1 s2 : State) (p : TVal) (ws : List Word) (q : Nat), (row ∈ ([(Instr.spawn, 0), (Instr.spawnTry, 1), (Instr.spawnW, 2)] : List ((RegF → RegF → Instr) × Nat))) ∧
      starts (row.1 d a) s = true ∧ (row.2 = 2 → s.who.result? s.who.pc = none) ∧ Reads (doer (row.1 d a) s) a (begun s) p s1 ∧
      packetAt p.val (doer (row.1 d a) s) s1 = .ok (ws, s2) ∧ performed (doer (row.1 d a) s) s2 = true ∧
      spq s2 (s2.ctx (doer (row.1 d a) s).core (doer (row.1 d a) s).slot).tenant = some q ∧
      storeRoom s2 (s2.ctx (doer (row.1 d a) s).core (doer (row.1 d a) s).slot).tenant q = false ∧ freeLaunchSlot s2 q = none ∧ row.2 = 0) ∧
    (∃ (row : _) (d a : RegF) (s s1 s2 s3 : State) (p : TVal) (ws : List Word) (q : Nat), (row ∈ ([(Instr.spawn, 0), (Instr.spawnTry, 1), (Instr.spawnW, 2)] : List ((RegF → RegF → Instr) × Nat))) ∧
      starts (row.1 d a) s = true ∧ (row.2 = 2 → s.who.result? s.who.pc = none) ∧ Reads (doer (row.1 d a) s) a (begun s) p s1 ∧
      packetAt p.val (doer (row.1 d a) s) s1 = .ok (ws, s2) ∧ performed (doer (row.1 d a) s) s2 = true ∧
      spq s2 (s2.ctx (doer (row.1 d a) s).core (doer (row.1 d a) s).slot).tenant = some q ∧
      storeRoom s2 (s2.ctx (doer (row.1 d a) s).core (doer (row.1 d a) s).slot).tenant q = false ∧ freeLaunchSlot s2 q = none ∧ row.2 = 2 ∧
      queueCheck s2 q ws = none ∧ Writes (doer (row.1 d a) s) d { val := 2, cnt := 127, inx := false } (refuseRun s2 q ws) s3) ∧
    (∃ (row : _) (d a : RegF) (s s1 s2 : State) (p : TVal) (ws : List Word) (q : Nat), (row ∈ ([(Instr.spawn, 0), (Instr.spawnTry, 1), (Instr.spawnW, 2)] : List ((RegF → RegF → Instr) × Nat))) ∧
      starts (row.1 d a) s = true ∧ (row.2 = 2 → s.who.result? s.who.pc = none) ∧ Reads (doer (row.1 d a) s) a (begun s) p s1 ∧
      packetAt p.val (doer (row.1 d a) s) s1 = .ok (ws, s2) ∧ performed (doer (row.1 d a) s) s2 = true ∧
      spq s2 (s2.ctx (doer (row.1 d a) s).core (doer (row.1 d a) s).slot).tenant = some q ∧
      storeRoom s2 (s2.ctx (doer (row.1 d a) s).core (doer (row.1 d a) s).slot).tenant q = false ∧ freeLaunchSlot s2 q = none ∧ row.2 = 2 ∧
      queueCheck s2 q ws ≠ none ∧ inlineOk s2 (doer (row.1 d a) s).core (doer (row.1 d a) s).slot ws = true) ∧
    (∃ (row : _) (d a : RegF) (s s1 s2 : State) (p : TVal) (ws : List Word) (q : Nat), (row ∈ ([(Instr.spawn, 0), (Instr.spawnTry, 1), (Instr.spawnW, 2)] : List ((RegF → RegF → Instr) × Nat))) ∧
      starts (row.1 d a) s = true ∧ (row.2 = 2 → s.who.result? s.who.pc = none) ∧ Reads (doer (row.1 d a) s) a (begun s) p s1 ∧
      packetAt p.val (doer (row.1 d a) s) s1 = .ok (ws, s2) ∧ performed (doer (row.1 d a) s) s2 = true ∧
      spq s2 (s2.ctx (doer (row.1 d a) s).core (doer (row.1 d a) s).slot).tenant = some q ∧
      storeRoom s2 (s2.ctx (doer (row.1 d a) s).core (doer (row.1 d a) s).slot).tenant q = false ∧ freeLaunchSlot s2 q = none ∧ row.2 = 2 ∧
      queueCheck s2 q ws ≠ none ∧ inlineOk s2 (doer (row.1 d a) s).core (doer (row.1 d a) s).slot ws = false) ∧
    (∃ (d a : RegF) (s s1 : State) (v : Word), starts (.spawnW d a) s = true ∧ s.who.result? s.who.pc = some v ∧
      Writes (doer (.spawnW d a) s) d { val := v, cnt := 127, inx := false } (begun s) s1) ∧
    (∃ (row : _) (d a : RegF) (s s1 s2 : State) (p : TVal) (ws : List Word), (row ∈ ([(Instr.spawn, 0), (Instr.spawnTry, 1), (Instr.spawnW, 2)] : List ((RegF → RegF → Instr) × Nat))) ∧
      starts (row.1 d a) s = true ∧ (row.2 = 2 → s.who.result? s.who.pc = none) ∧ Reads (doer (row.1 d a) s) a (begun s) p s1 ∧
      packetAt p.val (doer (row.1 d a) s) s1 = .ok (ws, s2) ∧ performed (doer (row.1 d a) s) s2 = false) ∧
    (∃ (e : Env) (s : State) (ws : _), (s.ctx e.core e.slot).packet = some ws) ∧
    (∃ (e : Env) (s : State), (s.ctx e.core e.slot).packet = none) :=
  ⟨⟨5, 6, onReg 6 0xF200000000000040 (onCore (fun K => (((K.lsWrite 1 0x40 8 0x100).lsWrite 1 0x48 8 0).lsWrite 1 0x50 8 0).lsWrite 1 0x58 8 0) ((cpu (.ctxnew 5 6)))), _, _, _, _, _, by decide +kernel, readReg_usable (by decide +kernel), by decide +kernel, by decide +kernel, ok2_of (by decide +kernel), by decide +kernel, by decide +kernel, writeReg_usable _ rfl rfl (by decide +kernel)⟩,
   ⟨5, 6, onReg 6 0xF200000000000040 ((onCore (fun K => ((K.lsWrite 1 0x100 8 (0xFFFFFFFFFFFFFFFF)).lsWrite 1 0x108 8 7).lsWrite 1 0x110 8 0x46)) (onCore (fun K => (((K.lsWrite 1 0x40 8 0x100).lsWrite 1 0x48 8 0xF200000000000100).lsWrite 1 0x50 8 0x20).lsWrite 1 0x58 8 0) ((cpu (.ctxnew 5 6))))),
     _, _, _, _, _, _, _, _, _, by decide +kernel, readReg_usable (by decide +kernel), by decide +kernel, by decide +kernel, ok2_of (by decide +kernel),
     by decide +kernel, ok2_of (by decide +kernel), ok2_of (by decide +kernel), no_image (by decide +kernel), writeReg_usable _ rfl rfl (by decide +kernel)⟩,
   ⟨5, 6, onReg 6 0xF200000000000040 ((onCore (fun K => K.lsWrite 1 0x3FFF8 8 (1 + 2 ^ 7))) (onCore (fun K => (((K.lsWrite 1 0x40 8 0x101).lsWrite 1 0x48 8 0xF20000000003FFF8).lsWrite 1 0x50 8 0x20).lsWrite 1 0x58 8 0) ((cpu (.ctxnew 5 6))))),
     _, _, _, _, _, _, _, by decide +kernel, readReg_usable (by decide +kernel), by decide +kernel, by decide +kernel, ok2_of (by decide +kernel),
     by decide +kernel, ok2_of (by decide +kernel), trap_of (by decide +kernel)⟩,
   ⟨5, 6, (fun S : State => { S with cur := (12288, 0), cores := [(12288, S.core 0)] }) (onReg 6 0xF2C0000000000040 (onCore (fun K => (((K.lsWrite 1 0x40 8 0x100).lsWrite 1 0x48 8 0).lsWrite 1 0x50 8 0x22).lsWrite 1 0x58 8 0) (cpu (.ctxnew 5 6)))),
     _, _, _, _, _, by decide +kernel, readReg_usable (by decide +kernel), by decide +kernel, by decide +kernel, ok2_of (by decide +kernel),
     by decide +kernel, by decide +kernel, by decide +kernel, by decide +kernel, writeReg_usable _ rfl rfl (by decide +kernel)⟩,
   ⟨5, 6, onReg 6 0xF200000000000040 (onCore (fun K => (((K.lsWrite 1 0x40 8 0x100).lsWrite 1 0x48 8 0).lsWrite 1 0x50 8 0x20).lsWrite 1 0x58 8 0) (onCore (fun K => { K with slots := 1 }) (cpu (.ctxnew 5 6)))),
     _, _, _, _, _, by decide +kernel, readReg_usable (by decide +kernel), by decide +kernel, by decide +kernel, ok2_of (by decide +kernel),
     by decide +kernel, by decide +kernel, by decide +kernel, by decide +kernel, writeReg_usable _ rfl rfl (by decide +kernel)⟩,
   ⟨5, 6, onReg 6 0xF200000000000040 (onCore (fun K => (((K.lsWrite 1 0x40 8 0x100).lsWrite 1 0x48 8 0).lsWrite 1 0x50 8 0x20).lsWrite 1 0x58 8 0) ((cpu (.ctxnew 5 6)))),
     _, _, _, _, _, _, _, by decide +kernel, readReg_usable (by decide +kernel), by decide +kernel, by decide +kernel, ok2_of (by decide +kernel),
     by decide +kernel, by decide +kernel, by decide +kernel, some_of (by decide +kernel), some_of (by decide +kernel), by decide +kernel,
     some_of (by decide +kernel), by decide +kernel, by decide +kernel, by decide +kernel⟩,
   ⟨_, 5, 6, onReg 6 0xF200000000000040 (onCore (fun K => (K.lsWrite 1 0x40 8 0x400).lsWrite 1 0x48 8 0x11) ((State.modDisp ((cpu (Instr.spawn 5 6))) (fun D => { D with parts := [{ tenant := 0, words := [23 * 1024 + 31 * 32768, 0, 0, 0, 0x1000, 0, 0, 0] }] })))),
     _, _, _, _, _, _, .head _, by decide +kernel, by decide +kernel, readReg_usable (by decide +kernel), ok2_of (by decide +kernel),
     by decide +kernel, some_of (by decide +kernel), by decide +kernel, writeReg_usable _ rfl rfl (by decide +kernel)⟩,
   ⟨_, 5, 6, onReg 6 0xF200000000000040 (onCore (fun K => (K.lsWrite 1 0x40 8 0x400).lsWrite 1 0x48 8 0x11) ((State.modDisp ((fun (S : State) => S.setLaunchSlot 0 0 ([1], true)) (cpu (Instr.spawn 5 6))) (fun D => { D with parts := [{ tenant := 0, words := [23 * 1024 + 31 * 32768, 0, 0, 0, 0x1000, 0, 0, 0] }] })))),
     _, _, _, _, _, _, _, .head _, by decide +kernel, by decide +kernel, readReg_usable (by decide +kernel), ok2_of (by decide +kernel),
     by decide +kernel, some_of (by decide +kernel), by decide +kernel, some_of (by decide +kernel), writeReg_usable _ rfl rfl (by decide +kernel)⟩,
   ⟨_, 5, 6, onReg 6 0xF200000000000040 (onCore (fun K => (K.lsWrite 1 0x40 8 0x400).lsWrite 1 0x48 8 0x11) ((State.modDisp ((fun (S : State) => (List.range 16).foldl (fun S n => S.setLaunchSlot 0 n ([1], true)) S) (cpu (Instr.spawnTry 5 6))) (fun D => { D with parts := [{ tenant := 0, words := [23 * 1024 + 31 * 32768, 0, 0, 0, 0x1000, 0, 0, 0] }] })))),
     _, _, _, _, _, _, .tail _ (.head _), by decide +kernel, by decide +kernel, readReg_usable (by decide +kernel), ok2_of (by decide +kernel),
     by decide +kernel, some_of (by decide +kernel), by decide +kernel, by decide +kernel, by decide +kernel,
     writeReg_usable _ rfl rfl (by decide +kernel)⟩,
   ⟨_, 5, 6, onReg 6 0xF200000000000040 (onCore (fun K => (K.lsWrite 1 0x40 8 0x400).lsWrite 1 0x48 8 0x11) ((State.modDisp ((fun (S : State) => (List.range 16).foldl (fun S n => S.setLaunchSlot 0 n ([1], true)) S) (cpu (Instr.spawn 5 6))) (fun D => { D with parts := [{ tenant := 0, words := [23 * 1024 + 31 * 32768, 0, 0, 0, 0x1000, 0, 0, 0] }] })))),
     _, _, _, _, _, .head _, by decide +kernel, by decide +kernel, readReg_usable (by decide +kernel), ok2_of (by decide +kernel), by decide +kernel,
     some_of (by decide +kernel), by decide +kernel, by decide +kernel, by decide +kernel⟩,
   ⟨_, 5, 6, onReg 6 0xF200000000000040 (onCore (fun K => (K.lsWrite 1 0x40 8 0x400).lsWrite 1 0x48 8 0x11) ((State.modDisp ((fun (S : State) => (List.range 16).foldl (fun S n => S.setLaunchSlot 0 n ([1], true)) S) (cpu (Instr.spawnW 5 6))) (fun D => { D with parts := [{ tenant := 0, words := [23 * 1024 + 31 * 32768, 0, 0, 0, 0x1000, 0, 0, 0] }] })))),
     _, _, _, _, _, _, .tail _ (.tail _ (.head _)), by decide +kernel, by decide +kernel,
     readReg_usable (by decide +kernel), ok2_of (by decide +kernel), by decide +kernel, some_of (by decide +kernel), by decide +kernel,
     by decide +kernel, by decide +kernel, by decide +kernel, writeReg_usable _ rfl rfl (by decide +kernel)⟩,
   ⟨_, 5, 6, onReg 6 0xF200000000000040 (onCore (fun K => ((K.lsWrite 1 0x40 8 0x400).lsWrite 1 0x50 8 (2 ^ 12 + 2 ^ 19 + 2 ^ 54)).lsWrite 1 0x58 8 1) ((State.modDisp ((fun (S : State) => (List.range 16).foldl (fun S n => S.setLaunchSlot 0 n ([1], true)) S) (onMe (fun X => { X with pin := .gen }) (cpu (Instr.spawnW 5 6)))) (fun D => { D with parts := [{ tenant := 0, words := [23 * 1024 + 31 * 32768, 0, 0, 0, 0x1000, 0, 0, 0xFFFFFFFFFFFFFFFF] }] })))),
     _, _, _, _, _, .tail _ (.tail _ (.head _)), by decide +kernel, by decide +kernel,
     readReg_usable (by decide +kernel), ok2_of (by decide +kernel), by decide +kernel, some_of (by decide +kernel), by decide +kernel⟩,
   ⟨_, 5, 6, onReg 6 0xF200000000000040 (onCore (fun K => ((K.lsWrite 1 0x40 8 0x400).lsWrite 1 0x50 8 (2 ^ 12 + 2 ^ 19 + 2 ^ 54)).lsWrite 1 0x58 8 1) ((State.modDisp ((fun (S : State) => (List.range 16).foldl (fun S n => S.setLaunchSlot 0 n ([1], true)) S) (onMe (fun X => { X with pin := .mat }) (cpu (Instr.spawnW 5 6)))) (fun D => { D with parts := [{ tenant := 0, words := [23 * 1024 + 31 * 32768, 0, 0, 0, 0x1000, 0, 0, 0xFFFFFFFFFFFFFFFF] }] })))),
     _, _, _, _, _, .tail _ (.tail _ (.head _)), by decide +kernel, by decide +kernel,
     readReg_usable (by decide +kernel), ok2_of (by decide +kernel), by decide +kernel, some_of (by decide +kernel), by decide +kernel⟩,
   ⟨5, 6, onMe (fun X => { X with results := [(1, (cpu .nop).who.pc)] }) (cpu (.spawnW 5 6)), _, _, by decide +kernel, some_of (by decide +kernel),
     writeReg_usable _ rfl rfl (by decide +kernel)⟩,
   ⟨_, 5, 6, onReg 6 0xF200000000000040 (onCore (fun K => (K.lsWrite 1 0x40 8 0x400).lsWrite 1 0x48 8 0x11) (onCore (fun k => { k with storeBuf := [{ slot := 0, uid := 1, tenant := 0, seq := 0, pair := 0, place := .ls 0 0x100, size := 8, value := 1, gen := 1 }] }) (onMe (fun X => { X with nS := 1, seq := 2 }) (cpu (Instr.spawn 5 6))))),
     _, _, _, _, .head _, by decide +kernel, by decide +kernel, readReg_usable (by decide +kernel), ok2_of (by decide +kernel), by decide +kernel⟩,
   ⟨{ core := 0, slot := 0, pc := 0, tpc := 0, replay := none, word := 0 }, onMe (fun X => { X with packet := some [0x400] }) (cpu .nop), _, some_of (by decide +kernel)⟩,
   ⟨{ core := 0, slot := 0, pc := 0, tpc := 0, replay := none, word := 0 }, cpu .nop, by decide +kernel⟩⟩

theorem meets_PassAndTake :
    (∃ (m : BitVec 7) (s s1 : State) (vs : List (Nat × TVal)), starts (Instr.pass m) s = true ∧ s.who.chain = true ∧ s.who.carry.isSome = true ∧
      s.who.inl = [] ∧
      slotValues { s.who with pc := s.who.pc + 4, wait := none } ((List.range 4).filter (fun j => m.toNat / 2 ^ j % 2 == 1)) (doer (Instr.pass m) s) (begun s) = .ok (vs, s1) ∧
      (∀ j ∈ ((List.range 4).filter (fun j => m.toNat / 2 ^ j % 2 == 1)), j ∈ openSlots s1 s.who) ∧ performed (doer (Instr.pass m) s) s1 = true) ∧
    (∃ (d : RegF) (s s1 : State) (app : Option (Option Append)), starts (.take d) s = true ∧ Ready (doer (.take d) s) d (begun s) app s1) ∧
    (∃ (n c i uid r seq : Nat) (s t : State) (l : LoadReq) (y : Run) (a b : Nat), s.takes[n]? = some (c, i, uid, r, seq) ∧
      (∀ w ∈ s.takes.take n, serveSquare w.1 ≠ serveSquare c) ∧ (s.ctx c i).uid = uid ∧ (s.ctx c i).loads.find? (fun m => m.seq == seq) = some l ∧
      portShut s (s.ctx c i) l.rd l.app = false ∧ s.run? r = some y ∧ y.pools.find? (fun p => p.1 == serveSquare c) = some (serveSquare c, a, b) ∧
      a < b ∧
      complete (({ s with takes := without s.takes n } : State).modRun r (fun z => { z with pools := y.pools.map (fun p => if p.1 = serveSquare c then (serveSquare c, a + 1, b) else p) })) c i l { val := w64 a, cnt := 127, inx := false } false = some t) ∧
    (∃ (n c i uid r seq : Nat) (s t : State) (l : LoadReq) (y : Run), s.takes[n]? = some (c, i, uid, r, seq) ∧
      (∀ w ∈ s.takes.take n, serveSquare w.1 ≠ serveSquare c) ∧ (s.ctx c i).uid = uid ∧ (s.ctx c i).loads.find? (fun m => m.seq == seq) = some l ∧
      portShut s (s.ctx c i) l.rd l.app = false ∧ s.run? r = some y ∧ (∀ p ∈ y.pools, p.2.2 ≤ p.2.1) ∧
      complete (({ s with takes := without s.takes n } : State).modRun r (fun z => { z with pools := y.pools })) c i l { val := -1, cnt := 127, inx := false } false = some t) :=
  ⟨⟨2, (State.modDisp (onMe (fun X => { X with chain := true, carry := some [5, 6, 7, 8], run := 3, index := 5 }) (onTag 6 9 3 true (cpu (.pass 2)))) (fun D => { D with runs := [{ uid := 3, runId := 0, tenant := 0, packet := [0, 0, 0, 0, 0, 0, 0, 0], queue := 0, age := 0, sup := false, header := 0, ready := true, inStore := true, next := 0, count := 4, ended := 0, aborts := 0, tiles := 0, pools := [], carry := [(4, 2, { val := 9, cnt := 5, inx := false })], abortedItems := [3], snap := none, fails := 0, blocked := false, outcome := none }] })), _, _, by decide +kernel, by decide +kernel, by decide +kernel, by decide +kernel, ok_of (by decide +kernel), by decide +kernel, by decide +kernel⟩,
   ⟨5, onMe (fun X => { X with run := 3 }) (cpu (.take 5)), _, _, by decide +kernel, ready_of (by decide +kernel)⟩,
   ⟨0, _, _, _, _,
     _, (fun (S : State) => { S with takes := [(0, 0, 1, 3, 4)] }) ((State.modDisp (onMe (fun X => { X with loads := [{ seq := 4, pc := 0, next := 0, rd := 5, kind := .take 3, place := .ls 0 0, ptr := 0x40, lv := 3, elect := none }] }) (cpu (.add 5 6 7))) (fun D => { D with runs := [{ uid := 3, runId := 0, tenant := 0, packet := [0, 0, 0, 0, 0, 0, 0, 0], queue := 0, age := 0, sup := false, header := 0, ready := true, inStore := true, next := 0, count := 4, ended := 0, aborts := 0, tiles := 0, pools := [(0, 3, 5), (1, 5, 9)], carry := [(4, 2, { val := 9, cnt := 5, inx := false })], abortedItems := [3], snap := none, fails := 0, blocked := false, outcome := none }] }))),
     _, _, _, 3, 5, some_of (by decide +kernel), by decide +kernel, by decide +kernel, some_of (by decide +kernel), by decide +kernel,
     some_of (by decide +kernel), by decide +kernel, by decide +kernel, some_of (by decide +kernel)⟩,
   ⟨0, _, _, _, _,
     _, (fun (S : State) => { S with takes := [(0, 0, 1, 3, 4)] }) ((State.modDisp (onMe (fun X => { X with loads := [{ seq := 4, pc := 0, next := 0, rd := 5, kind := .take 3, place := .ls 0 0, ptr := 0x40, lv := 3, elect := none }] }) (cpu (.add 5 6 7))) (fun D => { D with runs := [{ uid := 3, runId := 0, tenant := 0, packet := [0, 0, 0, 0, 0, 0, 0, 0], queue := 0, age := 0, sup := false, header := 0, ready := true, inStore := true, next := 0, count := 4, ended := 0, aborts := 0, tiles := 0, pools := [(0, 5, 5)], carry := [(4, 2, { val := 9, cnt := 5, inx := false })], abortedItems := [3], snap := none, fails := 0, blocked := false, outcome := none }] }))),
     _, _, _, some_of (by decide +kernel), by decide +kernel, by decide +kernel, some_of (by decide +kernel), by decide +kernel,
     some_of (by decide +kernel), by decide +kernel, some_of (by decide +kernel)⟩⟩

theorem meets_WaitsAndBarriers :
    (∃ (l t c m q : BitVec 5) (s : State), starts (Instr.wait l t c m q) s = true ∧ ((c ≠ 31 → s.who.recC = false) ∧ (q ≠ 31 → s.who.recQ = false) ∧ (t ≠ 31 → (s.home.myRefusal s.cur.2 s.who) = none)) ∧ ((l = 31 ∨ s.who.nL ≤ l.toNat) ∧ (t = 31 ∨ s.who.nS ≤ t.toNat) ∧ (c = 31 ∨ s.who.nC ≤ c.toNat) ∧ (m = 31 ∨ s.who.nM ≤ m.toNat) ∧ (q = 31 ∨ s.who.nQ ≤ q.toNat))) ∧
    (∃ (l t c m q : BitVec 5) (s : State), starts (Instr.wait l t c m q) s = true ∧ ((c ≠ 31 → s.who.recC = false) ∧ (q ≠ 31 → s.who.recQ = false) ∧ (t ≠ 31 → (s.home.myRefusal s.cur.2 s.who) = none)) ∧ (¬((l = 31 ∨ s.who.nL ≤ l.toNat) ∧ (t = 31 ∨ s.who.nS ≤ t.toNat) ∧ (c = 31 ∨ s.who.nC ≤ c.toNat) ∧ (m = 31 ∨ s.who.nM ≤ m.toNat) ∧ (q = 31 ∨ s.who.nQ ≤ q.toNat)))) ∧
    (∃ (l t c m q : BitVec 5) (s : State), starts (Instr.wait l t c m q) s = true ∧ c ≠ 31 ∧ s.who.recC = true) ∧
    (∃ (l t c m q : BitVec 5) (s : State), starts (Instr.wait l t c m q) s = true ∧ (¬(c ≠ 31 ∧ s.who.recC = true)) ∧ q ≠ 31 ∧ s.who.recQ = true) ∧
    (∃ (l t c m q : BitVec 5) (s : State) (r : _), starts (Instr.wait l t c m q) s = true ∧ (¬(c ≠ 31 ∧ s.who.recC = true)) ∧ (¬(q ≠ 31 ∧ s.who.recQ = true)) ∧ t ≠ 31 ∧ s.home.jrec = some r ∧ r.uid = s.who.uid ∧ r.slot = s.cur.2 ∧ r.land = s.who.land ∧ r.raised = false) ∧
    (∃ (n : BitVec 3) (s : State) (g : Nat) (y : Gang), s.who.gang = some g ∧ s.gang? g = some y ∧ s.who.inl = [] ∧ s.who.landing = false ∧ starts (.bar n) s = true ∧ performed (doer (.bar n) s) (begun s) = true ∧ barBlocked (begun s) s.who g n.toNat = false) ∧
    (∃ (n : BitVec 3) (s : State) (g : Nat) (y : Gang), s.who.gang = some g ∧ s.gang? g = some y ∧ s.who.inl = [] ∧ s.who.landing = false ∧ starts (.bar n) s = true ∧ (performed (doer (.bar n) s) (begun s) = false ∨ barBlocked (begun s) s.who g n.toNat = true)) ∧
    (∃ (n : BitVec 3) (s : State) (g : Nat) (y : Gang), s.who.gang = some g ∧ s.gang? g = some y ∧ s.who.inl = [] ∧ s.who.landing = false ∧ starts (.barw n) s = true ∧ before (y.bar n.toNat).done (SMap.get s.who.arr n.toNat 0) = false) ∧
    (∃ (n : BitVec 3) (s : State) (g : Nat) (y : Gang), s.who.gang = some g ∧ s.gang? g = some y ∧ s.who.inl = [] ∧ s.who.landing = false ∧ starts (.barw n) s = true ∧ before (y.bar n.toNat).done (SMap.get s.who.arr n.toNat 0) = true) ∧
    (∃ (n : BitVec 3) (s : State) (g : Nat) (y : Gang), s.who.gang = some g ∧ s.gang? g = some y ∧ s.who.inl = [] ∧ s.who.landing = true ∧ starts (.bar n) s = true) ∧
    (∃ (n : BitVec 3) (s : State) (g : Nat) (y : Gang), s.who.gang = some g ∧ s.gang? g = some y ∧ s.who.inl = [] ∧ s.who.landing = true ∧ starts (.barw n) s = true) ∧
    (∃ (s : State) (g : Nat) (y : Gang), s.who.gang = some g ∧ s.gang? g = some y ∧ s.who.inl = [] ∧ s.who.state = .ready) ∧
    (∃ (n : BitVec 3) (s : State) (g : Nat) (y : Gang), s.who.gang = some g ∧ s.gang? g = some y ∧ s.who.inl = [] ∧ s.canonical = true ∧ s.who.state = .ready ∧ s.who.landing = false ∧ ¬(fun (z : Barrier) => (s.members g).length ≤ (z.slot z.done).toNat) ((y.bar n.toNat).setSlot (SMap.get s.who.arr n.toNat 0) ((y.bar n.toNat).slot (SMap.get s.who.arr n.toNat 0) + 1))) ∧
    (∃ (n : BitVec 3) (s : State) (g : Nat) (y : Gang), s.who.gang = some g ∧ s.gang? g = some y ∧ s.who.inl = [] ∧ s.canonical = true ∧ s.who.state = .ready ∧ s.who.landing = false ∧ (fun (z : Barrier) => (s.members g).length ≤ (z.slot z.done).toNat) ((y.bar n.toNat).setSlot (SMap.get s.who.arr n.toNat 0) ((y.bar n.toNat).slot (SMap.get s.who.arr n.toNat 0) + 1)) ∧ ¬(fun (z : Barrier) => (s.members g).length ≤ (z.slot z.done).toNat) ((fun (z : Barrier) => { z.setSlot z.done 0 with done := z.done + 1 }) ((y.bar n.toNat).setSlot (SMap.get s.who.arr n.toNat 0) ((y.bar n.toNat).slot (SMap.get s.who.arr n.toNat 0) + 1)))) ∧
    (∃ (n : BitVec 3) (s : State) (g : Nat) (y : Gang), s.who.gang = some g ∧ s.gang? g = some y ∧ s.who.inl = [] ∧ s.canonical = true ∧ s.who.state = .ready ∧ s.who.landing = false ∧ (fun (z : Barrier) => (s.members g).length ≤ (z.slot z.done).toNat) ((y.bar n.toNat).setSlot (SMap.get s.who.arr n.toNat 0) ((y.bar n.toNat).slot (SMap.get s.who.arr n.toNat 0) + 1)) ∧ (fun (z : Barrier) => (s.members g).length ≤ (z.slot z.done).toNat) ((fun (z : Barrier) => { z.setSlot z.done 0 with done := z.done + 1 }) ((y.bar n.toNat).setSlot (SMap.get s.who.arr n.toNat 0) ((y.bar n.toNat).slot (SMap.get s.who.arr n.toNat 0) + 1)))) ∧
    (∃ (n : BitVec 4) (s : State), starts (.semp n) s = true ∧ (SMap.get s.home.sems (semKey s.cur.1 s.who.tenant n.toNat) 0) ≠ 0) ∧
    (∃ (n : BitVec 4) (s : State), starts (.semp n) s = true ∧ (SMap.get s.home.sems (semKey s.cur.1 s.who.tenant n.toNat) 0) = 0) ∧
    (∃ (n : BitVec 4) (s : State), starts (.semv n) s = true ∧ performed (doer (.semv n) s) (begun s) = true ∧ (((begun s).joinChan (.sem s.cur.1 (semKey s.cur.1 s.who.tenant n.toNat)) (s.released s.who.uid (.cores [s.cur.1]))).core s.cur.1).ctxs.all (fun p => !(fun (y : Ctx) => y.tenant == s.who.tenant && y.parkedOn (fun w => w == .sem n.toNat)) p.2) = true) ∧
    (∃ (n : BitVec 4) (s : State) (j : _), starts (.semv n) s = true ∧ performed (doer (.semv n) s) (begun s) = true ∧ longestParked (((begun s).joinChan (.sem s.cur.1 (semKey s.cur.1 s.who.tenant n.toNat)) (s.released s.who.uid (.cores [s.cur.1]))).core s.cur.1) (fun (y : Ctx) => y.tenant == s.who.tenant && y.parkedOn (fun w => w == .sem n.toNat)) = some j) :=
  ⟨⟨1, 2, 31, 0, 31, onMe (fun X => { X with nL := 1, nS := 2 }) (cpu (.wait 1 2 31 0 31)), by decide +kernel, by decide +kernel, by decide +kernel⟩,
   ⟨1, 1, 31, 0, 31, onMe (fun X => { X with nL := 1, nS := 2 }) (cpu (.wait 1 1 31 0 31)), by decide +kernel, by decide +kernel, by decide +kernel⟩,
   ⟨31, 31, 0, 31, 31, onMe (fun X => { X with recC := true, ereg := [(0x80, 0x8123), (0x81, 7)] }) (cpu (.wait 31 31 0 31 31)), by decide +kernel, by decide +kernel, by decide +kernel⟩,
   ⟨31, 31, 31, 31, 0, onMe (fun X => { X with recQ := true, ereg := [(776, 0x8003), (777, 7)] }) (cpu (.wait 31 31 31 31 0)), by decide +kernel, by decide +kernel, by decide +kernel, by decide +kernel⟩,
   ⟨31, 0, 31, 31, 31, onCore (fun k => { k with jrec := some { ent := 3, rsn := 1, slot := 0, uid := 1, land := 0, more := 0, ptr := 0x77, sizeCode := 2, raised := false } }) (cpu (.wait 31 0 31 31 31)), _, by decide +kernel, by decide +kernel, by decide +kernel, by decide +kernel, some_of (by decide +kernel), by decide +kernel, by decide +kernel, by decide +kernel, by decide +kernel⟩,
   ⟨3, (State.modDisp ((State.modCtx (onMe (fun X => { X with gang := some 4 }) (cpu (.bar 3))) 0 3 (fun X => { X with state := .ready, uid := 9, gang := some 4 }))) (fun D => { D with gangs := [{ uid := 4, run := 3, index := 0, tenant := 0, origin := 0, w := 1, h := 1, lock := false, chain := false, sup := false, filling := false, bars := [(3, { done := 0, s0 := 1, s1 := 0 })], lastEnd := none, lastChain := none, aborted := false }] })), _, _, some_of (by decide +kernel), some_of (by decide +kernel), by decide +kernel, by decide +kernel, by decide +kernel, by decide +kernel, by decide +kernel⟩,
   ⟨3, (State.modDisp (onMe (fun X => { X with gang := some 4, nL := 1, seq := 1, loads := [{ seq := 0, pc := 0, next := 0, rd := 5, kind := .ld 4 true false, place := .hbm 0x40, ptr := 0x40, lv := 3, elect := none }] }) (cpu (.bar 3))) (fun D => { D with gangs := [{ uid := 4, run := 3, index := 0, tenant := 0, origin := 0, w := 1, h := 1, lock := false, chain := false, sup := false, filling := false, bars := [], lastEnd := none, lastChain := none, aborted := false }] })), _, _, some_of (by decide +kernel), some_of (by decide +kernel), by decide +kernel, by decide +kernel, by decide +kernel, by decide +kernel⟩,
   ⟨3, (State.modDisp (onMe (fun X => { X with gang := some 4, arr := [(3, 2)] }) (cpu (.barw 3))) (fun D => { D with gangs := [{ uid := 4, run := 3, index := 0, tenant := 0, origin := 0, w := 1, h := 1, lock := false, chain := false, sup := false, filling := false, bars := [(3, { done := 2, s0 := 0, s1 := 0 })], lastEnd := none, lastChain := none, aborted := false }] })), _, _, some_of (by decide +kernel), some_of (by decide +kernel), by decide +kernel, by decide +kernel, by decide +kernel, by decide +kernel⟩,
   ⟨3, (State.modDisp (onMe (fun X => { X with gang := some 4, arr := [(3, 3)] }) (cpu (.barw 3))) (fun D => { D with gangs := [{ uid := 4, run := 3, index := 0, tenant := 0, origin := 0, w := 1, h := 1, lock := false, chain := false, sup := false, filling := false, bars := [(3, { done := 2, s0 := 0, s1 := 0 })], lastEnd := none, lastChain := none, aborted := false }] })), _, _, some_of (by decide +kernel), some_of (by decide +kernel), by decide +kernel, by decide +kernel, by decide +kernel, by decide +kernel⟩,
   ⟨3, (State.modDisp (onMe (fun X => { X with gang := some 4, landing := true }) (cpu (.bar 3))) (fun D => { D with gangs := [{ uid := 4, run := 3, index := 0, tenant := 0, origin := 0, w := 1, h := 1, lock := false, chain := false, sup := false, filling := false, bars := [], lastEnd := none, lastChain := none, aborted := false }] })), _, _, some_of (by decide +kernel), some_of (by decide +kernel), by decide +kernel, by decide +kernel, by decide +kernel⟩,
   ⟨3, (State.modDisp (onMe (fun X => { X with gang := some 4, landing := true }) (cpu (.barw 3))) (fun D => { D with gangs := [{ uid := 4, run := 3, index := 0, tenant := 0, origin := 0, w := 1, h := 1, lock := false, chain := false, sup := false, filling := false, bars := [], lastEnd := none, lastChain := none, aborted := false }] })), _, _, some_of (by decide +kernel), some_of (by decide +kernel), by decide +kernel, by decide +kernel, by decide +kernel⟩,
   ⟨(State.modDisp ((State.modCtx (onMe (fun X => { X with gang := some 4, arr := [(3, 0)] }) (cpu (.add 5 6 7))) 0 3 (fun X => { X with state := .ready, uid := 9, gang := some 4 }))) (fun D => { D with gangs := [{ uid := 4, run := 3, index := 0, tenant := 0, origin := 0, w := 1, h := 1, lock := false, chain := false, sup := false, filling := false, bars := [(3, { done := 0, s0 := 1, s1 := 0 })], lastEnd := none, lastChain := none, aborted := false }] })), _, _, some_of (by decide +kernel), some_of (by decide +kernel), by decide +kernel, by decide +kernel⟩,
   ⟨3, (State.modDisp ((State.modCtx (onMe (fun X => { X with gang := some 4, arr := [(3, 4)] }) (cpu (.bar 3))) 0 3 (fun X => { X with state := .ready, uid := 9, gang := some 4 }))) (fun D => { D with gangs := [{ uid := 4, run := 3, index := 0, tenant := 0, origin := 0, w := 1, h := 1, lock := false, chain := false, sup := false, filling := false, bars := [(3, { done := 4, s0 := 0, s1 := 0 })], lastEnd := none, lastChain := none, aborted := false }] })), _, _, some_of (by decide +kernel), some_of (by decide +kernel), by decide +kernel, by decide +kernel, by decide +kernel, by decide +kernel, by decide +kernel⟩,
   ⟨3, (State.modDisp ((State.modCtx (onMe (fun X => { X with gang := some 4, arr := [(3, 4)] }) (cpu (.bar 3))) 0 3 (fun X => { X with state := .ready, uid := 9, gang := some 4 }))) (fun D => { D with gangs := [{ uid := 4, run := 3, index := 0, tenant := 0, origin := 0, w := 1, h := 1, lock := false, chain := false, sup := false, filling := false, bars := [(3, { done := 4, s0 := 1, s1 := 0 })], lastEnd := none, lastChain := none, aborted := false }] })), _, _, some_of (by decide +kernel), some_of (by decide +kernel), by decide +kernel, by decide +kernel, by decide +kernel, by decide +kernel, by decide +kernel, by decide +kernel⟩,
   ⟨3, (State.modDisp ((State.modCtx (onMe (fun X => { X with gang := some 4, arr := [(3, 4)] }) (cpu (.bar 3))) 0 3 (fun X => { X with state := .ready, uid := 9, gang := some 4 }))) (fun D => { D with gangs := [{ uid := 4, run := 3, index := 0, tenant := 0, origin := 0, w := 1, h := 1, lock := false, chain := false, sup := false, filling := false, bars := [(3, { done := 4, s0 := 1, s1 := 2 })], lastEnd := none, lastChain := none, aborted := false }] })), _, _, some_of (by decide +kernel), some_of (by decide +kernel), by decide +kernel, by decide +kernel, by decide +kernel, by decide +kernel, by decide +kernel, by decide +kernel⟩,
   ⟨3, onCore (fun K => { K with sems := [(3, 2)] }) (cpu (.semp 3)), by decide +kernel, by decide +kernel⟩,
   ⟨3, cpu (.semp 3), by decide +kernel, by decide +kernel⟩,
   ⟨3, onCore (fun K => { K with sems := [(3, 2)] }) (cpu (.semv 3)), by decide +kernel, by decide +kernel, by decide +kernel⟩,
   ⟨3, (State.modCtx (State.modCtx (cpu (.semv 3)) 0 3 (fun X => { X with state := .parked, uid := 8, wait := some { list := 7, cond := .sem 3, seq := 9 } })) 0 4 (fun X => { X with state := .parked, uid := 8, wait := some { list := 7, cond := .sem 3, seq := 8 } })), _, by decide +kernel, by decide +kernel, some_of (by decide +kernel)⟩⟩

theorem meets_Repetition :
    (∃ (nm1 : BitVec 4) (st lo : BitVec 7) (span : BitVec 6) (s s1 : State) (ws : List IWord), starts (Instr.rep nm1 st lo span) s = true ∧ s.who.replaying = false ∧ captureWords (doer (Instr.rep nm1 st lo span) s) (s.who.pc + 4) (nm1.toNat + 1) (begun s) = .ok (ws, s1) ∧ (s1.ctx s.cur.1 s.cur.2).pc = s.who.pc + 4) ∧
    (∃ (c i : Nat) (s s1 : State) (b : Body) (j : Instr) (m : M Unit), (s.ctx c i).body = some b ∧ b.stopped = false ∧ ((s.ctx c i).state = .ready ∨ (s.ctx c i).state = .parked) ∧ (s.ctx c i).bwait = none ∧ decode (b.words.getD b.word 0) = .ok j ∧ precheck c (s.ctx c i) (form (mapRegs (fun f => stagger b.lo b.span b.s b.replay f) j)) (b.words.getD b.word 0) = none ∧ bodyOf (mapRegs (fun f => stagger b.lo b.span b.s b.replay f) j) = some m ∧ (s.ctx c i).blockPending = false ∧ m ({ core := c, slot := i, pc := (b.base + w64 (4 * b.word)), tpc := (b.base + w64 (4 * b.word)), replay := some b.replay, word := b.words.getD b.word 0, was := s.ctx c i } : Env) (s.modCore c (fun y => { y with repTurn := i + 1 })) = .ok ((), s1) ∧ (s1.ctx c i).body = some b ∧ (s1.ctx c i).mtrap = none ∧ (s1.ctx c i).blockPending = true) ∧
    (∃ (c i : Nat) (s s1 : State) (b : Body) (j : Instr) (m : M Unit), (s.ctx c i).body = some b ∧ b.stopped = false ∧ ((s.ctx c i).state = .ready ∨ (s.ctx c i).state = .parked) ∧ (s.ctx c i).bwait = none ∧ decode (b.words.getD b.word 0) = .ok j ∧ precheck c (s.ctx c i) (form (mapRegs (fun f => stagger b.lo b.span b.s b.replay f) j)) (b.words.getD b.word 0) = none ∧ bodyOf (mapRegs (fun f => stagger b.lo b.span b.s b.replay f) j) = some m ∧ (s.ctx c i).blockPending = false ∧ m ({ core := c, slot := i, pc := (b.base + w64 (4 * b.word)), tpc := (b.base + w64 (4 * b.word)), replay := some b.replay, word := b.words.getD b.word 0, was := s.ctx c i } : Env) (s.modCore c (fun y => { y with repTurn := i + 1 })) = .ok ((), s1) ∧ (s1.ctx c i).body = some b ∧ (s1.ctx c i).mtrap = none ∧ (s1.ctx c i).blockPending = false) ∧
    (∃ (lo span : Nat) (f : RegF), lo + span ≤ 127 ∧ (lo ≤ f.toNat ∧ f.toNat ≤ lo + span)) ∧
    (∃ (lo span : Nat) (f : RegF), lo + span ≤ 127 ∧ (¬(lo ≤ f.toNat ∧ f.toNat ≤ lo + span))) ∧
    (∃ (d a : RegF) (s s1 : State) (v : TVal), starts (.sbind d a) s = true ∧ Reads (doer (.sbind d a) s) a (begun s) v s1 ∧ (d = 0 ∨ ((s1.ctx s.cur.1 s.cur.2).carry.getD []).contains d.toNat = true ∨ (s1.ctx s.cur.1 s.cur.2).isPort d.toNat = true ∨ 4 ≤ ((s1.ctx s.cur.1 s.cur.2).binds.filter (fun b => b.1 != d.toNat)).length)) ∧
    (∃ (d a : RegF) (s s1 : State) (v : TVal), starts (.sbind d a) s = true ∧ Reads (doer (.sbind d a) s) a (begun s) v s1 ∧ (¬(d = 0 ∨ ((s1.ctx s.cur.1 s.cur.2).carry.getD []).contains d.toNat = true ∨ (s1.ctx s.cur.1 s.cur.2).isPort d.toNat = true ∨ 4 ≤ ((s1.ctx s.cur.1 s.cur.2).binds.filter (fun b => b.1 != d.toNat)).length)) ∧ (s1.ctx s.cur.1 s.cur.2).replaying = false ∧ (s1.ctx s.cur.1 s.cur.2).loads = [] ∧ (s1.ctx s.cur.1 s.cur.2).fill = []) ∧
    (∃ (d : RegF) (s : State), starts (.sfree d) s = true ∧ s.who.replaying = false ∧ s.who.loads = [] ∧ s.who.fill = []) :=
  ⟨⟨1, 1, 5, 3, (fun (S : State) => { S with hbm := Memory.write (Memory.write (S.hbm) 4 0x042860E0 4) 8 0x042860E1 4 }) (onMe (fun X => { X with pin := .rep, ereg := [(256, 0)] }) (cpu (.rep 1 1 5 3))), _, _, by decide +kernel, by decide +kernel, ok_of (by decide +kernel), by decide +kernel⟩,
   ⟨0, 0, onReg 6 0x100 (onReg 7 0xF200000000000200 (onMe (fun X => { X with pin := .rep, body := some { base := 4, words := [((encode (.qblkI8 5 6 7)).getD 0)], s := 1, lo := 5, span := 3, count := 2, replay := 0, word := 0, stopped := false, main := 0, seq := 0 } }) (cpu (.add 5 6 7)))), _, _, _, _, some_of (by decide +kernel), by decide +kernel, by decide +kernel, by decide +kernel, ok_of (by decide +kernel), by decide +kernel, some_of (by decide +kernel), by decide +kernel, ok_of (by decide +kernel), by decide +kernel, by decide +kernel, by decide +kernel⟩,
   ⟨0, 0, onMe (fun X => { X with pin := .rep, body := some { base := 4, words := [0x042860E0], s := 1, lo := 5, span := 3, count := 2, replay := 0, word := 0, stopped := false, main := 0, seq := 0 } }) (cpu (.add 5 6 7)), _, _, _, _, some_of (by decide +kernel), by decide +kernel, by decide +kernel, by decide +kernel, ok_of (by decide +kernel), by decide +kernel, some_of (by decide +kernel), by decide +kernel, ok_of (by decide +kernel), by decide +kernel, by decide +kernel, by decide +kernel⟩,
   ⟨5, 3, 5, by decide +kernel, by decide +kernel⟩,
   ⟨5, 3, 9, by decide +kernel, by decide +kernel⟩,
   ⟨0, 6, onMe (fun X => { X with pin := .rep, binds := [] }) (onReg 6 2 (cpu (.sbind 0 6))), _, _, by decide +kernel, readReg_usable (by decide +kernel), by decide +kernel⟩,
   ⟨9, 6, onMe (fun X => { X with pin := .rep, binds := [(9,3),(2,1)] }) (onReg 6 2 (cpu (.sbind 9 6))), _, _, by decide +kernel, readReg_usable (by decide +kernel), by decide +kernel, by decide +kernel, by decide +kernel, by decide +kernel⟩,
   ⟨9, onMe (fun X => { X with pin := .rep, binds := [(9,3),(2,1)] }) (cpu (.sfree 9)), by decide +kernel, by decide +kernel, by decide +kernel, by decide +kernel⟩⟩

theorem meets_Elections :
    (∃ (s s1 s2 : State) (w : IWord) (i : Instr) (m : M Unit), pairOf (doer .one s) (advance s.cur.1 s.cur.2 8 s) = .ok ((w, i), s1) ∧ (s1.ctx s.cur.1 s.cur.2).gang = none ∧ bodyOf i = some m ∧ m { (doer .one s) with pc := s.who.pc + 4, word := w, elect := true } (s1.modCtx s.cur.1 s.cur.2 (fun x => { x with fflags := 0, eout := none })) = .ok ((), s2) ∧ (s2.ctx s.cur.1 s.cur.2).gang = none) ∧
    (∃ (s s1 t : State) (w : IWord) (i : Instr) (g : Nat), pairOf (doer .one s) (advance s.cur.1 s.cur.2 8 s) = .ok ((w, i), s1) ∧ (s1.ctx s.cur.1 s.cur.2).gang = some g ∧ s1.round? (serveSquare s.cur.1) g (s1.ctx s.cur.1 s.cur.2).rank ((s1.ctx s.cur.1 s.cur.2).elect + 1) = none ∧ ((s1.square (serveSquare s.cur.1)).elections.filter (fun el => el.gang == g && el.rank == (s1.ctx s.cur.1 s.cur.2).rank)).length < 4 ∧ (s1.domain (serveSquare s.cur.1) g (s1.ctx s.cur.1 s.cur.2).rank).head?.map (fun m => m.1) = some s.cur.1 ∧ electedBody w i (doer .one s) ((openRound s1 (serveSquare s.cur.1) g (s1.ctx s.cur.1 s.cur.2).rank ((s1.ctx s.cur.1 s.cur.2).elect + 1) s.cur.1).modCtx s.cur.1 s.cur.2 (fun x0 => { x0 with elect := ((s1.ctx s.cur.1 s.cur.2).elect + 1) })) = .ok ((), t)) ∧
    (∃ (s s1 s2 : State) (w : IWord) (i : Instr) (d : RegF) (g : Nat) (el : Election) (app : Option (Option Append)), pairOf (doer .one s) (advance s.cur.1 s.cur.2 8 s) = .ok ((w, i), s1) ∧ (s1.ctx s.cur.1 s.cur.2).gang = some g ∧ s1.round? (serveSquare s.cur.1) g (s1.ctx s.cur.1 s.cur.2).rank ((s1.ctx s.cur.1 s.cur.2).elect + 1) = some el ∧ el.elected ≠ s.cur.1 ∧ el.result = none ∧ (form i).dst = some d ∧ Ready ({ doer .one s with pc := s.who.pc + 4 } : Env) d (s1.modCtx s.cur.1 s.cur.2 (fun x0 => { x0 with elect := ((s1.ctx s.cur.1 s.cur.2).elect + 1) })) app s2) ∧
    (∃ (s s1 s2 : State) (w : IWord) (i : Instr) (d : RegF) (g : Nat) (el : Election) (v : TVal) (fl : Word), pairOf (doer .one s) (advance s.cur.1 s.cur.2 8 s) = .ok ((w, i), s1) ∧ (s1.ctx s.cur.1 s.cur.2).gang = some g ∧ s1.round? (serveSquare s.cur.1) g (s1.ctx s.cur.1 s.cur.2).rank ((s1.ctx s.cur.1 s.cur.2).elect + 1) = some el ∧ el.result = some (v, fl) ∧ (form i).dst = some d ∧ Writes { doer .one s with pc := s.who.pc + 4 } d v (((s1.modCtx s.cur.1 s.cur.2 (fun x0 => { x0 with elect := ((s1.ctx s.cur.1 s.cur.2).elect + 1) })).gain (s1.ctx s.cur.1 s.cur.2).uid el.front).modCtx s.cur.1 s.cur.2 (fun x0 => { x0 with fflags := x0.fflags ||| w64 fl.toNat })) s2) ∧
    (∃ (n : Nat) (s t : State) (d : Delivery) (l : LoadReq), s.gives[n]? = some d ∧ (s.ctx d.core d.slot).uid = d.uid ∧ (s.ctx d.core d.slot).loads.find? (fun l => match l.kind with | .one k _ => k == d.k | _ => false) = some l ∧ portShut s (s.ctx d.core d.slot) l.rd l.app = false ∧ complete (({ s with gives := without s.gives n }.gain d.uid d.front).modCtx d.core d.slot (fun x => { x with fflags := x.fflags ||| w64 d.flags.toNat })) d.core d.slot l d.v false = some t) :=
  ⟨⟨(fun (S : State) => { S with hbm := Memory.write (S.hbm) 4 0x042860E0 4 }) (cpu .one), _, _, _, _, _, ok_of (by decide +kernel), by decide +kernel, some_of (by decide +kernel), ok_of (by decide +kernel), by decide +kernel⟩,
   ⟨(fun (S : State) => { S with hbm := Memory.write (S.hbm) 4 0x042860E0 4 }) ((State.modDisp ((State.modCtx (onMe (fun X => { X with gang := some 4 }) (cpu .one)) 0 3 (fun X => { X with state := .ready, uid := 9, gang := some 4 }))) (fun D => { D with gangs := [{ uid := 4, run := 3, index := 0, tenant := 0, origin := 0, w := 1, h := 1, lock := false, chain := false, sup := false, filling := false, bars := [], lastEnd := none, lastChain := none, aborted := false }] }))), _, _, _, _, _, ok_of (by decide +kernel), some_of (by decide +kernel), by decide +kernel, by decide +kernel, by decide +kernel, ok_of (by decide +kernel)⟩,
   ⟨(fun (S : State) => { S with hbm := Memory.write (S.hbm) 4 0x042860E0 4 }) ((fun (S : State) => S.modSquare 0 (fun Q => { Q with elections := [{ gang := 4, rank := 0, k := 1, elected := 1, result := none, mark := none }] })) ((State.modDisp (onMe (fun X => { X with gang := some 4 }) (cpu .one)) (fun D => { D with gangs := [{ uid := 4, run := 3, index := 0, tenant := 0, origin := 0, w := 1, h := 1, lock := false, chain := false, sup := false, filling := false, bars := [], lastEnd := none, lastChain := none, aborted := false }] })))), _, _, _, _, _, _, _, _, ok_of (by decide +kernel), some_of (by decide +kernel), some_of (by decide +kernel), by decide +kernel, by decide +kernel, some_of (by decide +kernel), ready_of (by decide +kernel)⟩,
   ⟨(fun (S : State) => { S with hbm := Memory.write (S.hbm) 4 0x042860E0 4 }) ((fun (S : State) => S.modSquare 0 (fun Q => { Q with elections := [{ gang := 4, rank := 0, k := 1, elected := 1, result := some (iv 9, 3), mark := none }] })) ((State.modDisp (onMe (fun X => { X with gang := some 4 }) (cpu .one)) (fun D => { D with gangs := [{ uid := 4, run := 3, index := 0, tenant := 0, origin := 0, w := 1, h := 1, lock := false, chain := false, sup := false, filling := false, bars := [], lastEnd := none, lastChain := none, aborted := false }] })))), _, _, _, _, _, _, _, _, _, ok_of (by decide +kernel), some_of (by decide +kernel), some_of (by decide +kernel), some2_of (by decide +kernel), some_of (by decide +kernel), writeReg_usable _ rfl rfl (by decide +kernel)⟩,
   ⟨0, (fun (S : State) => { S with gives := [{ core := 0, slot := 0, uid := 1, rd := 5, k := 1, v := iv 9, flags := 3 }] }) (onMe (fun X => { X with loads := [{ seq := 0, pc := 0, next := 0, rd := 5, kind := .one 1 0, place := .ls 0 0, ptr := 0x40, lv := 3, elect := none }] }) (cpu (.add 5 6 7))), _, _, _, some_of (by decide +kernel), by decide +kernel, some_of (by decide +kernel), by decide +kernel, some_of (by decide +kernel)⟩⟩

theorem meets_GenerationsAndPasses :
    (∃ (row : _) (d a b : RegF) (s s1 s2 : State) (va vb : TVal), (row ∈ ([(Instr.gnewZero, false), (Instr.gnewTrap, true)] : List ((RegF → RegF → RegF → Instr) × Bool))) ∧
      starts (row.1 d a b) s = true ∧ Reads (doer (row.1 d a b) s) a (begun s) va s1 ∧ Reads (doer (row.1 d a b) s) b s1 vb s2 ∧
      ((bits va.val 19 0) % 32 ≠ 0 ∨ vb.val.toNat = 0 ∨ vb.val.toNat % 32 ≠ 0 ∨ lsSize (doer (row.1 d a b) s).core < (bits va.val 19 0) + vb.val.toNat)) ∧
    (∃ (row : _) (d a b : RegF) (s s1 s2 : State) (va vb : TVal), (row ∈ ([(Instr.gnewZero, false), (Instr.gnewTrap, true)] : List ((RegF → RegF → RegF → Instr) × Bool))) ∧
      starts (row.1 d a b) s = true ∧ Reads (doer (row.1 d a b) s) a (begun s) va s1 ∧ Reads (doer (row.1 d a b) s) b s1 vb s2 ∧
      (¬((bits va.val 19 0) % 32 ≠ 0 ∨ vb.val.toNat = 0 ∨ vb.val.toNat % 32 ≠ 0 ∨ lsSize (doer (row.1 d a b) s).core < (bits va.val 19 0) + vb.val.toNat)) ∧
      (∃ r ∈ (s2.core (doer (row.1 d a b) s).core).regions, (bits va.val 19 0) < r.off + r.len ∧ r.off < (bits va.val 19 0) + vb.val.toNat)) ∧
    (∃ (row : _) (d a b : RegF) (s s1 s2 : State) (va vb : TVal), (row ∈ ([(Instr.gnewZero, false), (Instr.gnewTrap, true)] : List ((RegF → RegF → RegF → Instr) × Bool))) ∧
      starts (row.1 d a b) s = true ∧ Reads (doer (row.1 d a b) s) a (begun s) va s1 ∧ Reads (doer (row.1 d a b) s) b s1 vb s2 ∧
      (¬((bits va.val 19 0) % 32 ≠ 0 ∨ vb.val.toNat = 0 ∨ vb.val.toNat % 32 ≠ 0 ∨ lsSize (doer (row.1 d a b) s).core < (bits va.val 19 0) + vb.val.toNat)) ∧
      (¬(∃ r ∈ (s2.core (doer (row.1 d a b) s).core).regions, (bits va.val 19 0) < r.off + r.len ∧ r.off < (bits va.val 19 0) + vb.val.toNat)) ∧
      64 ≤ (s2.core (doer (row.1 d a b) s).core).regions.length) ∧
    (∃ (row : _) (d a b : RegF) (s s1 s2 s3 : State) (va vb : TVal) (g : _) (r : Region), (row ∈ ([(Instr.gnewZero, false), (Instr.gnewTrap, true)] : List ((RegF → RegF → RegF → Instr) × Bool))) ∧
      starts (row.1 d a b) s = true ∧ Reads (doer (row.1 d a b) s) a (begun s) va s1 ∧ Reads (doer (row.1 d a b) s) b s1 vb s2 ∧
      (¬((bits va.val 19 0) % 32 ≠ 0 ∨ vb.val.toNat = 0 ∨ vb.val.toNat % 32 ≠ 0 ∨ lsSize (doer (row.1 d a b) s).core < (bits va.val 19 0) + vb.val.toNat)) ∧
      (s2.core (doer (row.1 d a b) s).core).regions.length < 64 ∧
      mayTake s2 (doer (row.1 d a b) s).core (Stall.ctx (doer (row.1 d a b) s).slot (s2.ctx (doer (row.1 d a b) s).core (doer (row.1 d a b) s).slot).uid s.who.pc) = true ∧
      (s2.core (doer (row.1 d a b) s).core).nextGen = some g ∧
      r = { off := (bits va.val 19 0), len := vb.val.toNat, trap := row.2, gen := BitVec.ofNat 16 g, gang := (s2.ctx (doer (row.1 d a b) s).core (doer (row.1 d a b) s).slot).owner, tenant := (s2.ctx (doer (row.1 d a b) s).core (doer (row.1 d a b) s).slot).tenant, retired := false } ∧
      (¬(∃ r ∈ (s2.core (doer (row.1 d a b) s).core).regions, (bits va.val 19 0) < r.off + r.len ∧ r.off < (bits va.val 19 0) + vb.val.toNat)) ∧
      Writes (doer (row.1 d a b) s) d { val := w64 ((BitVec.ofNat 16 g).toNat), cnt := 127, inx := false } ((s2.modCore (doer (row.1 d a b) s).core (fun k0 => { k0 with genLast := g, genFrom := g, stalled := k0.stalled.filter (fun w => w != (Stall.ctx (doer (row.1 d a b) s).slot (s2.ctx (doer (row.1 d a b) s).core (doer (row.1 d a b) s).slot).uid s.who.pc)) })).modCore (doer (row.1 d a b) s).core (fun k0 => { k0 with regions := k0.regions ++ [r] })) s3) ∧
    (∃ (a : RegF) (s s1 : State) (v : TVal), starts (.gfree a) s = true ∧ Reads (doer (.gfree a) s) a (begun s) v s1 ∧
      (∀ r ∈ (s1.core s.cur.1).regions, r.off ≠ (bits v.val 19 0))) ∧
    (∃ (a : RegF) (s s1 : State) (v : TVal) (r : _), starts (.gfree a) s = true ∧ Reads (doer (.gfree a) s) a (begun s) v s1 ∧
      (s1.core s.cur.1).regions.find? (fun r => r.off == (bits v.val 19 0) && ((s1.ctx s.cur.1 s.cur.2).level != 0 || (r.gang == (s1.ctx s.cur.1 s.cur.2).owner && r.tenant == (s1.ctx s.cur.1 s.cur.2).tenant))) = some r ∧
      boardMeets (s1.core s.cur.1) r.off (r.off + r.len - 1) true = false ∧ (∀ h ∈ (s1.core s.cur.1).hold, ¬(r.off ≤ h.off ∧
      h.off < r.off + r.len)) ∧ rangeBusy s1 s.cur.1 (s1.ctx s.cur.1 s.cur.2) r.off r.len = false) ∧
    (∃ (a : RegF) (s s1 : State) (v : TVal) (r : _), starts (.gfree a) s = true ∧ Reads (doer (.gfree a) s) a (begun s) v s1 ∧
      (s1.core s.cur.1).regions.find? (fun r => r.off == (bits v.val 19 0) && ((s1.ctx s.cur.1 s.cur.2).level != 0 || (r.gang == (s1.ctx s.cur.1 s.cur.2).owner && r.tenant == (s1.ctx s.cur.1 s.cur.2).tenant))) = some r ∧
      boardMeets (s1.core s.cur.1) r.off (r.off + r.len - 1) true = false ∧ (∀ h ∈ (s1.core s.cur.1).hold, ¬(r.off ≤ h.off ∧
      h.off < r.off + r.len)) ∧ rangeBusy s1 s.cur.1 (s1.ctx s.cur.1 s.cur.2) r.off r.len = true) ∧
    (∃ (d a : RegF) (s s1 s2 s3 : State) (p : TVal) (l : Loc) (off : Nat), starts (.gchk d a) s = true ∧
      Reads (doer (.gchk d a) s) a (begun s) p s1 ∧ Finds (doer (.gchk d a) s) p.val 1 .gchk false s1 l s2 ∧
      clear (doer (.gchk d a) s) l false s2 = true ∧ l.place = .ls s.cur.1 off ∧
      mayPerform (doer (.gchk d a) s) { l with place := .ls s.cur.1 (off / 32 * 32), size := 32 } s2 = true ∧
      (Writes (doer (.gchk d a) s) d { val := w64 ((if (s2.core s.cur.1).stamp off = ((s2.core s.cur.1).gov (s2.ctx s.cur.1 s.cur.2).gen off).1 ∨ granuleBuffered (ownBuf (doer (.gchk d a) s) s2) l.place = true then 1 else 0) + (if ((s2.core s.cur.1).regionAt off).isSome then 2 else 0) + (if ((s2.core s.cur.1).gov (s2.ctx s.cur.1 s.cur.2).gen off).2 then 4 else 0) + ((s2.core s.cur.1).gov (s2.ctx s.cur.1 s.cur.2).gen off).1.toNat * 65536), cnt := 127, inx := false } s2 s3)) ∧
    (∃ (d a : RegF) (s s1 : State) (v : TVal), starts (.cfgctx d a) s = true ∧ Reads (doer (.cfgctx d a) s) a (begun s) v s1 ∧ v.val.toNat ≤ 2 ∧
      quiescent s1 s.cur.1 s.cur.2 = false) ∧
    (∃ (d a : RegF) (s s1 : State) (v : TVal), starts (.cfgctx d a) s = true ∧ Reads (doer (.cfgctx d a) s) a (begun s) v s1 ∧ v.val.toNat ≤ 2 ∧
      quiescent s1 s.cur.1 s.cur.2 = true ∧ (16 * 2 ^ v.val.toNat) ≤ s.cur.2) ∧
    (∃ (d a : RegF) (s s1 : State) (v : TVal), starts (.cfgctx d a) s = true ∧ Reads (doer (.cfgctx d a) s) a (begun s) v s1 ∧ v.val.toNat ≤ 2 ∧
      quiescent s1 s.cur.1 s.cur.2 = true ∧ s.cur.2 < (16 * 2 ^ v.val.toNat)) ∧
    (∃ (s : State), starts .gscrub s = true) ∧
    (∃ (c : Nat) (s : State) (r : List Pass), (s.core c).fold = .fold :: r ∧ passDone s c = true) ∧
    (∃ (c i u : Nat) (s : State) (r : List Pass), (s.core c).fold = .scrub i u :: r ∧ passDone s c = true) ∧
    (∃ (k : Core), SMap.wf k.regs RegEntry.reset = true ∧ SMap.wf k.lsGen 0 = true ∧ Memory.wf k.ls = true) ∧
    (∃ (s : State) (c : Nat), (s.core c).fold ≠ []) :=
  ⟨⟨_, 5, 6, 7, onReg 6 1 (onReg 7 32 (cpu (Instr.gnewZero 5 6 7))), _, _, _, _, .head _, by decide +kernel, readReg_usable (by decide +kernel), readReg_usable (by decide +kernel), by decide +kernel⟩,
   ⟨_, 5, 6, 7, onCore (fun K => { K with regions := [{ off := 0, len := 1024, trap := false, gen := 9, gang := 0, tenant := 0, retired := false }] }) (onReg 6 992 (onReg 7 64 (cpu (Instr.gnewZero 5 6 7)))),
     _, _, _, _, .head _, by decide +kernel, readReg_usable (by decide +kernel), readReg_usable (by decide +kernel), by decide +kernel,
     by decide +kernel⟩,
   ⟨_, 5, 6, 7, onCore (fun K => { K with regions := (List.range 64).map (fun j => { off := 32 * j, len := 32, trap := false, gen := 9, gang := 0, tenant := 0, retired := false }) }) (onReg 6 4096 (onReg 7 64 (cpu (Instr.gnewZero 5 6 7)))),
     _, _, _, _, .head _, by decide +kernel, readReg_usable (by decide +kernel), readReg_usable (by decide +kernel), by decide +kernel,
     by decide +kernel, by decide +kernel⟩,
   ⟨_, 5, 6, 7, onCore (fun K => { K with genLast := 1, genFrom := 1 }) (onReg 6 4096 (onReg 7 64 (cpu (Instr.gnewZero 5 6 7)))), _, _, _, _, _, _,
     _, .head _, by decide +kernel, readReg_usable (by decide +kernel), readReg_usable (by decide +kernel), by decide +kernel, by decide +kernel,
     by decide +kernel, some_of (by decide +kernel), rfl, by decide +kernel, writeReg_usable _ rfl rfl (by decide +kernel)⟩,
   ⟨6, onCore (fun K => { K with regions := [{ off := 0, len := 1024, trap := false, gen := 9, gang := 0, tenant := 0, retired := false }] }) (onReg 6 32 (cpu (.gfree 6))),
     _, _, by decide +kernel, readReg_usable (by decide +kernel), by decide +kernel⟩,
   ⟨6, onCore (fun K => { K with regions := [{ off := 0, len := 1024, trap := false, gen := 9, gang := 0, tenant := 0, retired := false }] }) (onReg 6 0 (cpu (.gfree 6))),
     _, _, _, by decide +kernel, readReg_usable (by decide +kernel), some_of (by decide +kernel), by decide +kernel, by decide +kernel,
     by decide +kernel⟩,
   ⟨6, onCore (fun k => { k with storeBuf := [{ slot := 0, uid := 1, tenant := 0, seq := 0, pair := 0, place := .ls 0 0x42, size := 2, value := 0x1234, gen := 1 }] }) (onCore (fun K => { K with regions := [{ off := 0, len := 1024, trap := false, gen := 9, gang := 0, tenant := 0, retired := false }] }) (onReg 6 0 (onMe (fun X => { X with nS := 1, seq := 2 }) (cpu (.gfree 6))))),
     _, _, _, by decide +kernel, readReg_usable (by decide +kernel), some_of (by decide +kernel), by decide +kernel, by decide +kernel,
     by decide +kernel⟩,
   ⟨5, 6, (onReg 6 0xF200000000000040 (cpu (.gchk 5 6))), _, _, _, _, _, 0x40, by decide +kernel, readReg_usable (by decide +kernel),
     found_of (by decide +kernel) (by decide +kernel), by decide +kernel, by decide +kernel, by decide +kernel,
     writeReg_usable _ rfl rfl (by decide +kernel)⟩,
   ⟨5, 6, onReg 6 1 (onCore (fun K => { K with ctxs := K.ctxs ++ [(3, { Ctx.reset with state := .ready, uid := 9 })] }) (cpu (.cfgctx 5 6))), _, _,
     by decide +kernel, readReg_usable (by decide +kernel), by decide +kernel, by decide +kernel⟩,
   ⟨5, 6, (fun (S : State) => { S with cur := (0, 40) }) (State.modCtx (State.modCtx (State.modCtx (cpu (.cfgctx 5 6)) 0 40 (fun _ => (cpu (.cfgctx 5 6)).ctx 0 0)) 0 0 (fun _ => Ctx.reset)) 0 40 (fun X => X)),
     _, _, by decide +kernel, readReg_usable (by decide +kernel), by decide +kernel, by decide +kernel, by decide +kernel⟩,
   ⟨5, 6, onReg 6 0 (cpu (.cfgctx 5 6)), _, _, by decide +kernel, readReg_usable (by decide +kernel), by decide +kernel, by decide +kernel,
     by decide +kernel⟩,
   ⟨cpu .gscrub, by decide +kernel⟩,
   ⟨0, onCore (fun K => { K with fold := [.fold], foldAt := 100000, genLast := 65530, regs := [(3, { val := 5, cnt := 1, inx := true, gen := 77 }), (4, { val := 5, cnt := 1, inx := true, gen := 1 })] }) (cpu (.add 5 6 7)), [],
     by decide +kernel, by decide +kernel⟩,
   ⟨0, 0, 1, onCore (fun K => { K with fold := [.scrub 0 1], foldAt := 100000, rot := [] }) (onMe (fun X => { X with state := .parked, wait := some { list := 13, cond := .scrub } }) (cpu (.add 5 6 7))), [],
     by decide +kernel, by decide +kernel⟩,
   ⟨{ (((cpu .nop).core 0).lsWrite 1 64 8 0x55).lsWrite 7 96 8 0x77 with regs := [(3, { val := 5, cnt := 1, inx := true, gen := 77 }), (4, { val := 5, cnt := 1, inx := true, gen := 1 })] },
     by decide +kernel, by decide +kernel, by decide +kernel⟩,
   ⟨onCore (fun K => { K with fold := [.fold], foldAt := 2, regs := [(3, { val := 5, cnt := 1, inx := true, gen := 77 }), (4, { val := 5, cnt := 1, inx := true, gen := 1 })] }) (cpu (.add 5 6 7)), 0,
     by decide +kernel⟩⟩

theorem meets_CopyEngine :
    (∃ (row : _) (a b : RegF) (set : BitVec 3) (s s1 s2 : State) (src dst : TVal), (row ∈ ([(Instr.cpy, 0), (Instr.cpym, 1), (Instr.deal, 2), (Instr.bkt, 3)] : List ((RegF → RegF → BitVec 3 → Instr) × Nat))) ∧ starts (row.1 a b set) s = true ∧ Reads (doer (row.1 a b set) s) a (begun s) src s1 ∧ Reads (doer (row.1 a b set) s) b s1 dst s2 ∧ (s2.ctx (doer (row.1 a b set) s).core (doer (row.1 a b set) s).slot).nC < 63 ∧ (((counted (doer (row.1 a b set) s) .C s2).core (doer (row.1 a b set) s).core).board.length + (cmdRanges (counted (doer (row.1 a b set) s) .C s2) (doer (row.1 a b set) s).core ((counted (doer (row.1 a b set) s) .C s2).ctx (doer (row.1 a b set) s).core (doer (row.1 a b set) s).slot) ({ id := s2.nextId, cmd := row.2, set := set.toNat, src := src.val, dst := dst.val, hdr := (fun n => SMap.get ((counted (doer (row.1 a b set) s) .C s2).core (doer (row.1 a b set) s).core).copySets (128 * (if isArray (doer (row.1 a b set) s).core then 0 else ((counted (doer (row.1 a b set) s) .C s2).ctx (doer (row.1 a b set) s).core (doer (row.1 a b set) s).slot).tenant) + 16 * set.toNat + n) 0) 0, dims := (List.range 14).map (fun j => (fun n => SMap.get ((counted (doer (row.1 a b set) s) .C s2).core (doer (row.1 a b set) s).core).copySets (128 * (if isArray (doer (row.1 a b set) s).core then 0 else ((counted (doer (row.1 a b set) s) .C s2).ctx (doer (row.1 a b set) s).core (doer (row.1 a b set) s).slot).tenant) + 16 * set.toNat + n) 0) (1 + j)), aux := (fun n => SMap.get ((counted (doer (row.1 a b set) s) .C s2).core (doer (row.1 a b set) s).core).copySets (128 * (if isArray (doer (row.1 a b set) s).core then 0 else ((counted (doer (row.1 a b set) s) .C s2).ctx (doer (row.1 a b set) s).core (doer (row.1 a b set) s).slot).tenant) + 16 * set.toNat + n) 0) 15, priv := ((counted (doer (row.1 a b set) s) .C s2).ctx (doer (row.1 a b set) s).core (doer (row.1 a b set) s).slot).level, pv := ((counted (doer (row.1 a b set) s) .C s2).ctx (doer (row.1 a b set) s).core (doer (row.1 a b set) s).slot).pvbase, seq := ((counted (doer (row.1 a b set) s) .C s2).ctx (doer (row.1 a b set) s).core (doer (row.1 a b set) s).slot).seq, started := false, done := 0, join := [], dstGen := recordGen (counted (doer (row.1 a b set) s) .C s2) (doer (row.1 a b set) s).core ((counted (doer (row.1 a b set) s) .C s2).ctx (doer (row.1 a b set) s).core (doer (row.1 a b set) s).slot) (if row.2 = 1 ∨ row.2 = 2 then remotePtr (doer (row.1 a b set) s).core (bits dst.val 19 0) else dst.val), auxGen := recordGen (counted (doer (row.1 a b set) s) .C s2) (doer (row.1 a b set) s).core ((counted (doer (row.1 a b set) s) .C s2).ctx (doer (row.1 a b set) s).core (doer (row.1 a b set) s).slot) ((fun n => SMap.get ((counted (doer (row.1 a b set) s) .C s2).core (doer (row.1 a b set) s).core).copySets (128 * (if isArray (doer (row.1 a b set) s).core then 0 else ((counted (doer (row.1 a b set) s) .C s2).ctx (doer (row.1 a b set) s).core (doer (row.1 a b set) s).slot).tenant) + 16 * set.toNat + n) 0) 15), fail := none, orig := [], ids := [] } : CopyCmd)).length ≤ 16)) ∧
    (∃ (sc : Scope) (a : RegF) (s s1 : State) (v : TVal), starts (.qfen sc a) s = true ∧ Reads (doer (.qfen sc a) s) a (begun s) v s1 ∧ (s1.ctx (doer (.qfen sc a) s).core (doer (.qfen sc a) s).slot).nC < 63) ∧
    (∃ (c i : Nat) (s : State) (q : CopyCmd) (r : List CopyCmd), (s.ctx c i).copyQ = q :: r ∧ q.started = false ∧ storesDone (s.core c) (s.ctx c i).uid q.seq = true) ∧
    (∃ (c : Nat) (s : State) (x : Ctx) (q : CopyCmd) (a b : Nat), q.cmd = 0 ∧ q.unit ≤ 8 ∧ q.orig = [] ∧ q.held = [] ∧ q.fail = none ∧ q.done < q.total ∧ engResolve s.draw.2 (copyAgent x c q) (srcPtr q q.done) q.unit .eread = .ok (.ls c a) ∧ staleUnit s (.ls c a) q.unit x.gen = false ∧ engResolve (readUnit (engTouch s.draw.2 (copyAgent x c q) (srcPtr q q.done) q.unit .eread) x q (.ls c a) q.unit).2 (copyAgent x c q) (q.dst + BitVec.ofInt 64 (indexOff Dim.ds q.shape q.done * q.unit)) q.unit .ewrite = .ok (.ls c b)) ∧
    (∃ (c : Nat) (s : State) (x : Ctx) (q : CopyCmd) (a b : Nat), q.cmd = 0 ∧ q.unit ≤ 8 ∧ q.orig = [] ∧ q.held = [] ∧ q.fail = none ∧ q.done < q.total ∧ engResolve s.draw.2 (copyAgent x c q) (srcPtr q q.done) q.unit .eread = .ok (.ls c a) ∧ staleUnit s (.ls c a) q.unit x.gen = false ∧ engResolve (readUnit (engTouch s.draw.2 (copyAgent x c q) (srcPtr q q.done) q.unit .eread) x q (.ls c a) q.unit).2 (copyAgent x c q) (q.dst + BitVec.ofInt 64 (indexOff Dim.ds q.shape q.done * q.unit)) q.unit .ewrite = .ok (.ls c b) ∧ (engTouch s.draw.2 (copyAgent x c q) (srcPtr q q.done) q.unit .eread).hasOlder ((engTouch s.draw.2 (copyAgent x c q) (srcPtr q q.done) q.unit .eread).cmdReader x.uid q.seq q.id 1) x.gen (fun _ _ => true) (.ls c a) q.unit = false) ∧
    (∃ (c : Nat) (s : State) (q : CopyCmd) (i b v : Nat) (p : Word), q.unit ≤ 8 ∧ (¬(q.fail = none ∧ q.done < q.total ∧ (q.held = [] ∨ (Config.freePick s.free) % 2 = 0))) ∧ q.held[(Config.freePick s.free) / 2 % q.held.length]? = some (i, [(p, .ls c b)], v) ∧ b % q.unit = 0) ∧
    (∃ (c i : Nat) (s : State) (q : CopyCmd) (r : List CopyCmd), (s.ctx c i).copyQ = q :: r ∧ q.cmd ≠ 4 ∧ q.finished = true ∧ i < 64) ∧
    (∃ (c i : Nat) (s : State) (q : CopyCmd) (r : List CopyCmd), (s.ctx c i).copyQ = q :: r ∧ q.cmd = 4 ∧ q.started = true ∧ q.fail = none ∧ (∀ id ∈ q.join, cmdLive s id = false)) :=
  ⟨⟨_, 6, 7, 0, onCore (fun K => { K with copySets := [(1, 0x0000010000010003), (15, 1)] }) (onReg 6 0xF200000000000040 (onReg 7 0xF200000000000100 (onMe (fun X => { X with binds := [] }) (cpu (Instr.cpy 6 7 0))))), _, _, _, _, .head _, by decide +kernel, readReg_usable (by decide +kernel), readReg_usable (by decide +kernel), by decide +kernel, by decide +kernel⟩,
   ⟨.ctx, 6, onReg 6 1 (onMe (fun X => { X with binds := [] }) (cpu (.qfen .ctx 6))), _, _, by decide +kernel, readReg_usable (by decide +kernel), by decide +kernel⟩,
   ⟨0, 0, onMe (fun X => { X with copyQ := [{ id := 9, cmd := 0, set := 1, src := 0xF200000000000040, dst := 0xF200000000000100, hdr := 0x20, dims := [0x0000010000010003, 0,0,0,0,0,0,0,0,0,0,0,0,0], aux := 0, priv := 0, seq := 0, started := false, done := 0, join := [], pv := 0, dstGen := 1, auxGen := 1, fail := none, orig := [], ids := [] }], nC := 1 }) (cpu (.add 5 6 7)), _, _, uncons_of (by decide +kernel), by decide +kernel, by decide +kernel⟩,
   ⟨0, onCore (fun K => (K.lsWrite 1 0x40 8 0x1122334455667788).lsWrite 1 0x48 8 0x99) (cpu (.add 5 6 7)), (cpu .nop).ctx 0 0, { id := 9, cmd := 0, set := 1, src := 0xF200000000000040, dst := 0xF200000000000100, hdr := 0, dims := [0x0000010000010003, 0,0,0,0,0,0,0,0,0,0,0,0,0], aux := 0, priv := 0, seq := 0, started := true, done := 0, join := [], pv := 0, dstGen := 1, auxGen := 1, held := [], fail := none, orig := [], ids := [] }, 64, 256, by decide +kernel, by decide +kernel, by decide +kernel, by decide +kernel, by decide +kernel, by decide +kernel, by decide +kernel, by decide +kernel, by decide +kernel⟩,
   ⟨0, onCore (fun K => (K.lsWrite 1 0x40 8 0x1122334455667788).lsWrite 1 0x48 8 0x99) (cpu (.add 5 6 7)), (cpu .nop).ctx 0 0, { id := 9, cmd := 0, set := 1, src := 0xF200000000000040, dst := 0xF200000000000100, hdr := 0, dims := [0x0000010000010003, 0,0,0,0,0,0,0,0,0,0,0,0,0], aux := 0, priv := 0, seq := 0, started := true, done := 0, join := [], pv := 0, dstGen := 1, auxGen := 1, held := [], fail := none, orig := [], ids := [] }, 64, 256, by decide +kernel, by decide +kernel, by decide +kernel, by decide +kernel, by decide +kernel, by decide +kernel, by decide +kernel, by decide +kernel, by decide +kernel, by decide +kernel⟩,
   ⟨0, onCore (fun K => (K.lsWrite 1 0x40 8 0x1122334455667788).lsWrite 1 0x48 8 0x99) (cpu (.add 5 6 7)), { id := 9, cmd := 0, set := 1, src := 0xF200000000000040, dst := 0xF200000000000100, hdr := 0x20, dims := [0x0000010000010003, 0,0,0,0,0,0,0,0,0,0,0,0,0], aux := 0, priv := 0, seq := 0, started := true, done := 4, join := [], pv := 0, dstGen := 1, auxGen := 1, held := [(3, [(0xF20000000000010C, .ls 0 0x10C)], 77)], fail := none, orig := [], ids := [] }, 3, 0x10C, 77, 0xF20000000000010C, by decide +kernel, fun h => absurd h.2.1 (by decide +kernel), only_one rfl, by decide +kernel⟩,
   ⟨0, 0, onCore (fun K => { K with board := [{ cmd := 9, lo := 0, hi := 5, dest := true }, { cmd := 8, lo := 0, hi := 5, dest := true }] }) (onMe (fun X => { X with copyQ := [{ id := 9, cmd := 0, set := 1, src := 0xF200000000000040, dst := 0xF200000000000100, hdr := 0x20, dims := [0x0000010000010003, 0,0,0,0,0,0,0,0,0,0,0,0,0], aux := 0, priv := 0, seq := 0, started := true, done := 4, join := [], pv := 0, dstGen := 1, auxGen := 1, fail := none, orig := [], ids := [] }], nC := 1 }) (cpu (.add 5 6 7))), _, _, uncons_of (by decide +kernel), by decide +kernel, by decide +kernel, by decide +kernel⟩,
   ⟨0, 0, onMe (fun X => { X with copyQ := [{ id := 9, cmd := 4, set := 1, src := 0xF200000000000040, dst := 0xF200000000000100, hdr := 0x20, dims := [0x0000010000010003, 0,0,0,0,0,0,0,0,0,0,0,0,0], aux := 0, priv := 0, seq := 0, started := true, done := 0, join := [3], pv := 0, dstGen := 1, auxGen := 1, fail := none, orig := [], ids := [] }], nC := 1 }) (cpu (.add 5 6 7)), _, _, uncons_of (by decide +kernel), by decide +kernel, by decide +kernel, by decide +kernel, by decide +kernel⟩⟩

theorem meets_MatrixEngine :
    (∃ (row : _) (a b : RegF) (s s1 s2 : State) (va vb : TVal), (row ∈ ([(Instr.mld, 0), (Instr.mmul, 1), (Instr.mgrp, 2), (Instr.mout, 4), (Instr.mxa, 5)] : List ((RegF → RegF → Instr) × Nat))) ∧ starts (row.1 a b) s = true ∧ Reads (doer (row.1 a b) s) a (begun s) va s1 ∧ Reads (doer (row.1 a b) s) b s1 vb s2 ∧ matReserved row.2 vb.val ((s2.ctx (doer (row.1 a b) s).core (doer (row.1 a b) s).slot).er 2 0) ((s2.ctx (doer (row.1 a b) s).core (doer (row.1 a b) s).slot).er 2 3) = true) ∧
    (∃ (row : _) (a b : RegF) (s s1 s2 : State) (va vb : TVal) (t : _), (row ∈ ([(Instr.mld, 0), (Instr.mmul, 1), (Instr.mgrp, 2), (Instr.mout, 4), (Instr.mxa, 5)] : List ((RegF → RegF → Instr) × Nat))) ∧ starts (row.1 a b) s = true ∧ Reads (doer (row.1 a b) s) a (begun s) va s1 ∧ Reads (doer (row.1 a b) s) b s1 vb s2 ∧ matReserved row.2 vb.val ((s2.ctx (doer (row.1 a b) s).core (doer (row.1 a b) s).slot).er 2 0) ((s2.ctx (doer (row.1 a b) s).core (doer (row.1 a b) s).slot).er 2 3) = false ∧ matOffs s2 (doer (row.1 a b) s).core (s2.ctx (doer (row.1 a b) s).core (doer (row.1 a b) s).slot) (matRanges (doer (row.1 a b) s).core row.2 va.val vb.val ((s2.ctx (doer (row.1 a b) s).core (doer (row.1 a b) s).slot).er 2 0) ((s2.ctx (doer (row.1 a b) s).core (doer (row.1 a b) s).slot).er 2 1) ((s2.ctx (doer (row.1 a b) s).core (doer (row.1 a b) s).slot).er 2 2) ((s2.ctx (doer (row.1 a b) s).core (doer (row.1 a b) s).slot).er 2 3) ((s2.ctx (doer (row.1 a b) s).core (doer (row.1 a b) s).slot).er 2 4) ((s2.ctx (doer (row.1 a b) s).core (doer (row.1 a b) s).slot).er 2 5) ((s2.ctx (doer (row.1 a b) s).core (doer (row.1 a b) s).slot).er 2 6)) = .error t) ∧
    (∃ (row : _) (a b : RegF) (s s1 s2 : State) (va vb : TVal) (r : _), (row ∈ ([(Instr.mld, 0), (Instr.mmul, 1), (Instr.mgrp, 2), (Instr.mout, 4), (Instr.mxa, 5)] : List ((RegF → RegF → Instr) × Nat))) ∧ starts (row.1 a b) s = true ∧ Reads (doer (row.1 a b) s) a (begun s) va s1 ∧ Reads (doer (row.1 a b) s) b s1 vb s2 ∧ matReserved row.2 vb.val ((s2.ctx (doer (row.1 a b) s).core (doer (row.1 a b) s).slot).er 2 0) ((s2.ctx (doer (row.1 a b) s).core (doer (row.1 a b) s).slot).er 2 3) = false ∧ matOffs s2 (doer (row.1 a b) s).core (s2.ctx (doer (row.1 a b) s).core (doer (row.1 a b) s).slot) (matRanges (doer (row.1 a b) s).core row.2 va.val vb.val ((s2.ctx (doer (row.1 a b) s).core (doer (row.1 a b) s).slot).er 2 0) ((s2.ctx (doer (row.1 a b) s).core (doer (row.1 a b) s).slot).er 2 1) ((s2.ctx (doer (row.1 a b) s).core (doer (row.1 a b) s).slot).er 2 2) ((s2.ctx (doer (row.1 a b) s).core (doer (row.1 a b) s).slot).er 2 3) ((s2.ctx (doer (row.1 a b) s).core (doer (row.1 a b) s).slot).er 2 4) ((s2.ctx (doer (row.1 a b) s).core (doer (row.1 a b) s).slot).er 2 5) ((s2.ctx (doer (row.1 a b) s).core (doer (row.1 a b) s).slot).er 2 6)) = .ok () ∧ (matRanges (doer (row.1 a b) s).core row.2 va.val vb.val ((s2.ctx (doer (row.1 a b) s).core (doer (row.1 a b) s).slot).er 2 0) ((s2.ctx (doer (row.1 a b) s).core (doer (row.1 a b) s).slot).er 2 1) ((s2.ctx (doer (row.1 a b) s).core (doer (row.1 a b) s).slot).er 2 2) ((s2.ctx (doer (row.1 a b) s).core (doer (row.1 a b) s).slot).er 2 3) ((s2.ctx (doer (row.1 a b) s).core (doer (row.1 a b) s).slot).er 2 4) ((s2.ctx (doer (row.1 a b) s).core (doer (row.1 a b) s).slot).er 2 5) ((s2.ctx (doer (row.1 a b) s).core (doer (row.1 a b) s).slot).er 2 6)).find? (fun r => r.1.toNat % r.2.2 != 0) = some r) ∧
    (∃ (row : _) (a b : RegF) (s s1 s2 : State) (va vb : TVal), (row ∈ ([(Instr.mld, 0), (Instr.mmul, 1), (Instr.mgrp, 2), (Instr.mout, 4), (Instr.mxa, 5)] : List ((RegF → RegF → Instr) × Nat))) ∧ starts (row.1 a b) s = true ∧ Reads (doer (row.1 a b) s) a (begun s) va s1 ∧ Reads (doer (row.1 a b) s) b s1 vb s2 ∧ matReserved row.2 vb.val ((s2.ctx (doer (row.1 a b) s).core (doer (row.1 a b) s).slot).er 2 0) ((s2.ctx (doer (row.1 a b) s).core (doer (row.1 a b) s).slot).er 2 3) = false ∧ matOffs s2 (doer (row.1 a b) s).core (s2.ctx (doer (row.1 a b) s).core (doer (row.1 a b) s).slot) (matRanges (doer (row.1 a b) s).core row.2 va.val vb.val ((s2.ctx (doer (row.1 a b) s).core (doer (row.1 a b) s).slot).er 2 0) ((s2.ctx (doer (row.1 a b) s).core (doer (row.1 a b) s).slot).er 2 1) ((s2.ctx (doer (row.1 a b) s).core (doer (row.1 a b) s).slot).er 2 2) ((s2.ctx (doer (row.1 a b) s).core (doer (row.1 a b) s).slot).er 2 3) ((s2.ctx (doer (row.1 a b) s).core (doer (row.1 a b) s).slot).er 2 4) ((s2.ctx (doer (row.1 a b) s).core (doer (row.1 a b) s).slot).er 2 5) ((s2.ctx (doer (row.1 a b) s).core (doer (row.1 a b) s).slot).er 2 6)) = .ok () ∧ (∀ r ∈ (matRanges (doer (row.1 a b) s).core row.2 va.val vb.val ((s2.ctx (doer (row.1 a b) s).core (doer (row.1 a b) s).slot).er 2 0) ((s2.ctx (doer (row.1 a b) s).core (doer (row.1 a b) s).slot).er 2 1) ((s2.ctx (doer (row.1 a b) s).core (doer (row.1 a b) s).slot).er 2 2) ((s2.ctx (doer (row.1 a b) s).core (doer (row.1 a b) s).slot).er 2 3) ((s2.ctx (doer (row.1 a b) s).core (doer (row.1 a b) s).slot).er 2 4) ((s2.ctx (doer (row.1 a b) s).core (doer (row.1 a b) s).slot).er 2 5) ((s2.ctx (doer (row.1 a b) s).core (doer (row.1 a b) s).slot).er 2 6)), r.1.toNat % r.2.2 = 0) ∧ (s2.ctx (doer (row.1 a b) s).core (doer (row.1 a b) s).slot).nM < 63) ∧
    (∃ (s : State) (c : Nat) (x : Ctx) (p : Word) (n : Nat) (t : _), checkPtr s c x.pvbase p n = .error t) ∧
    (∃ (s : State) (c : Nat) (x : Ctx) (p : Word) (n : Nat) (w : _) (pl : _), checkPtr s c x.pvbase p n = .ok (w, pl) ∧ w ≠ .priv ∧ w ≠ .loc) ∧
    (∃ (s : State) (c : Nat) (x : Ctx) (p : Word) (n : Nat) (w : _) (d : _) (off : _), (w = .priv ∨ w = .loc) ∧ checkPtr s c x.pvbase p n = .ok (w, .ls d off) ∧ off + n ≤ lsSize c) ∧
    (∃ (s : State) (c : Nat) (x : Ctx) (p : Word) (n : Nat) (w : _) (d : _) (off : _), (w = .priv ∨ w = .loc) ∧ checkPtr s c x.pvbase p n = .ok (w, .ls d off) ∧ lsSize c < off + n) ∧
    (∃ (s : State) (c : Nat) (x : Ctx) (l : List (Word × Nat × Nat)), (∀ q ∈ l, q.2.1 ≠ 0 → ∃ o, matOff s c x q.1 q.2.1 = .ok o)) ∧
    (∃ (s : State) (c : Nat) (x : Ctx) (l : List (Word × Nat × Nat)) (p : Word) (n : Nat) (t : TrapInfo), (∀ q ∈ l, q.2.1 ≠ 0 → ∃ o, matOff s c x q.1 q.2.1 = .ok o) ∧ n ≠ 0 ∧ matOff s c x p n = .error t) ∧
    (∃ (s : State), starts .mzero s = true ∧ 64 < bits (s.who.er 2 0) 24 19 + bits (s.who.er 2 0) 14 9 + 1) ∧
    (∃ (s : State), starts .mzero s = true ∧ bits (s.who.er 2 0) 24 19 + bits (s.who.er 2 0) 14 9 + 1 ≤ 64 ∧ s.who.nM < 63) ∧
    (∃ (c i : Nat) (s : State) (q : MatCmd) (r : List MatCmd), (s.core c).matCur = none ∧ nextMat (s.core c) = some i ∧ (s.ctx c i).matQ = q :: r) ∧
    (∃ (c i : Nat) (s : State) (q : MatCmd) (r : List MatCmd), (s.core c).matCur = some i ∧ (s.ctx c i).matQ = q :: r) ∧
    (∃ (q : MatCmd), q.cmd = 0) ∧
    (∃ (q : MatCmd) (j : _), q.cmd = 0 ∧ j < 8192) ∧
    (∃ (q : MatCmd) (n : _), q.cmd = 0 ∧ n / 8192 ≠ bits q.b 3 0) ∧
    (∃ (q : MatCmd), q.cmd = 3) ∧
    (∃ (q : MatCmd) (n : _), q.cmd = 3 ∧ 64 * (mgRow0 q.geo) ≤ n ∧ n < 64 * ((mgRow0 q.geo) + (mgRows q.geo))) ∧
    (∃ (q : MatCmd) (n : _), q.cmd = 3 ∧ (n < 64 * (mgRow0 q.geo) ∨ 64 * ((mgRow0 q.geo) + (mgRows q.geo)) ≤ n)) ∧
    (∃ (q : MatCmd), q.cmd = 5 ∧ mgXin q.geo = true) ∧
    (∃ (q : MatCmd) (j : _), q.cmd = 5 ∧ mgXin q.geo = true ∧ j < 64 * (mgRows q.geo)) ∧
    (∃ (q : MatCmd) (n : _), q.cmd = 5 ∧ mgXin q.geo = true ∧ (n < 64 * (mgRow0 q.geo) ∨ 64 * ((mgRow0 q.geo) + (mgRows q.geo)) ≤ n)) ∧
    (∃ (q : MatCmd), q.cmd = 1) ∧
    (∃ (q : MatCmd), q.cmd = 2) ∧
    (∃ (q : MatCmd), q.cmd = 4) ∧
    (∃ (q : MatCmd), q.cmd = 4 ∧ meClr q.epi = false) ∧
    (∃ (q : MatCmd), q.cmd = 4 ∧ meClr q.epi = true) ∧
    (∃ (q : MatCmd), q.cmd = 5 ∧ mgXin q.geo = false) ∧
    (∃ (cnt : Nat), cnt = 0) ∧
    (∃ (c : Nat) (q : MatCmd) (r : GroupRun) (cnt : Nat) (w0 w1 : Word), cnt ≠ 0 ∧ (groupCode c q.geo q.astr w0 w1 (min cnt (64 - r.row))) ≠ 0) ∧
    (∃ (c : Nat) (q : MatCmd) (r : GroupRun) (cnt : Nat) (w0 w1 : Word), cnt ≠ 0 ∧ (groupCode c q.geo q.astr w0 w1 (min cnt (64 - r.row))) = 0) ∧
    (∃ (w1 : Word), w1 ≠ 0) ∧
    (∃ (w0 w1 : Word), w1 = 0 ∧ 12 ≤ bits w0 63 60) ∧
    (∃ (c : Nat) (q : MatCmd) (w0 w1 : Word), w1 = 0 ∧ bits w0 63 60 < 12 ∧ (bits w0 19 0 % 32 ≠ 0 ∨ bits w0 39 20 % 2 = 1 ∨ bits w0 59 40 % 2 = 1 ∨ lsSize c < bits w0 59 40 + scaleBytes q.geo)) ∧
    (∃ (sb : Int), sb = 0) ∧
    (∃ (sb : Int) (sp : Option Rounded), sb ≠ 0 ∧ sp = none) ∧
    (∃ (sb : Int) (sp : Option Rounded) (r : _), sb ≠ 0 ∧ sp = some r ∧ f32.finite r.bits ∧ (f32.dec r.bits).rat ≠ 0) ∧
    (∃ (x : Fold) (sb : Int) (sp : Option Rounded), f32.finite x.acc ∧ f32.finite (contrib sb sp).1 ∧ ((f32.dec x.acc).rat) + ((f32.dec (contrib sb sp).1).rat) ≠ 0) ∧
    (∃ (ca : Nat), 510 ≤ ca) ∧
    (∃ (ca : Nat) (v : FVal), ca < 510 ∧ v.isNan = false ∧ v.isInf = false ∧ v.rat ≠ 0) ∧
    (∃ (x : Fold), (f32.dec x.acc).isNan = true) ∧
    (∃ (x : Fold), (f32.dec x.acc).isInf = true) ∧
    (∃ (x : Fold), (f32.dec x.acc).isZero = true) ∧
    (∃ (before cnt : Nat) (x : Fold) (r : _) (b : _), finExp x.acc = some r ∧ maxOpt x.big ((finExp before).map (fun e => e + 24 - cnt)) = some b) ∧
    (∃ (b : Nat) (e : Int), finExp b = some e) ∧
    (∃ (q : MatCmd) (n : Nat), n < outCols q.epi) ∧
    (∃ (y : Elem), f32.finite y.b ∧ (f32.dec y.b).rat < 0) ∧
    (∃ (y : Elem), f32.finite y.b ∧ 0 < (f32.dec y.b).rat) ∧
    (∃ (y : Elem), f32.dec y.b = .inf false) ∧
    (∃ (y : Elem), f32.dec y.b = .inf true) ∧
    (∃ (y : Elem), (f32.dec y.b).isZero = true) ∧
    (∃ (rows : List (List (Nat × Nat × Nat × Bool × Nat))) (e w t : Nat) (j : _) (row : _) (x : _), tagWord rows e w = some t ∧ j < 8 ∧ row ∈ rows ∧ (fun (j : Nat) (row : List (Nat × Nat × Nat × Bool × Nat)) => row.find? (fun x => decide (x.1 ≤ 8 * w + j) && decide (8 * w + j < x.1 + e))) j row = some x ∧ (∀ row ∈ rows, ∀ x ∈ row, x.2.2.1 ≤ 127) ∧ (∀ j, j < 8 → ∀ a ∈ rows, ∀ b ∈ rows, ((fun (j : Nat) (row : List (Nat × Nat × Nat × Bool × Nat)) => row.find? (fun x => decide (x.1 ≤ 8 * w + j) && decide (8 * w + j < x.1 + e))) j a).isSome = true → ((fun (j : Nat) (row : List (Nat × Nat × Nat × Bool × Nat)) => row.find? (fun x => decide (x.1 ≤ 8 * w + j) && decide (8 * w + j < x.1 + e))) j b).isSome = true → a = b)) ∧
    (∃ (rows : List (List (Nat × Nat × Nat × Bool × Nat))) (e w t : Nat), (∀ row ∈ rows, ∀ x ∈ row, x.2.2.1 ≤ 127) ∧ tagWord rows e w = some t ∧ (∀ j, j < 8 → ∀ a ∈ rows, ∀ b ∈ rows, ((fun (j : Nat) (row : List (Nat × Nat × Nat × Bool × Nat)) => row.find? (fun x => decide (x.1 ≤ 8 * w + j) && decide (8 * w + j < x.1 + e))) j a).isSome = true → ((fun (j : Nat) (row : List (Nat × Nat × Nat × Bool × Nat)) => row.find? (fun x => decide (x.1 ≤ 8 * w + j) && decide (8 * w + j < x.1 + e))) j b).isSome = true → a = b)) :=
  ⟨⟨_, 6, 7, onReg 6 0xF200000000000100 (onReg 7 0x10 (onMe (fun X => { X with ereg := [(512, 0xFFFFFFFFFFFFFFFF), (515, 0xFFFFFFFFFFFFFFFF)] }) (cpu (Instr.mmul 6 7)))), _, _, _, _, .tail _ (.head _), by decide +kernel, readReg_usable (by decide +kernel), readReg_usable (by decide +kernel), by decide +kernel⟩,
   ⟨_, 6, 7, onReg 6 0x40 (onReg 7 3 (onMe (fun X => { X with ereg := [] }) (cpu (Instr.mld 6 7)))), _, _, _, _, _, .head _, by decide +kernel, readReg_usable (by decide +kernel), readReg_usable (by decide +kernel), by decide +kernel, error_of (by decide +kernel)⟩,
   ⟨_, 6, 7, onReg 6 0xF200000000000101 (onReg 7 3 (onMe (fun X => { X with ereg := [] }) (cpu (Instr.mld 6 7)))), _, _, _, _, _, .head _, by decide +kernel, readReg_usable (by decide +kernel), readReg_usable (by decide +kernel), by decide +kernel, ok_of (by decide +kernel), some_of (by decide +kernel)⟩,
   ⟨_, 6, 7, onReg 6 0xF200000000000100 (onReg 7 3 (onMe (fun X => { X with ereg := [] }) (cpu (Instr.mld 6 7)))), _, _, _, _, .head _, by decide +kernel, readReg_usable (by decide +kernel), readReg_usable (by decide +kernel), by decide +kernel, ok_of (by decide +kernel), by decide +kernel, by decide +kernel⟩,
   ⟨cpu (.add 5 6 7), 0, (cpu .nop).ctx 0 0, 0xF000000000000000, 8, (match checkPtr (cpu (.add 5 6 7)) (0) ((cpu .nop).ctx 0 0).pvbase (0xF000000000000000) (8) with | .error z9 => z9 | .ok _ => ({ cause := 0 } : TrapInfo)), by decide +kernel⟩,
   ⟨cpu (.add 5 6 7), 0, (cpu .nop).ctx 0 0, 0x40, 8, _, _, ok_of (by decide +kernel), by decide +kernel, by decide +kernel⟩,
   ⟨cpu (.add 5 6 7), 0, (cpu .nop).ctx 0 0, 0xF200000000000040, 8, .loc, 0, 0x40, .inr rfl, by decide +kernel, by decide +kernel⟩,
   ⟨cpu (.add 5 6 7), 0, (cpu .nop).ctx 0 0, 0xF20000000003FFF8, 16, .loc, 0, 0x3FFF8, .inr rfl, by decide +kernel, by decide +kernel⟩,
   ⟨cpu (.add 5 6 7), 0, (cpu .nop).ctx 0 0, [], by simp⟩,
   ⟨cpu (.add 5 6 7), 0, (cpu .nop).ctx 0 0, [], 0x40, 8, { cause := 0x05, addr := 0x40, aux := 4 }, by simp, by decide +kernel, by decide +kernel⟩,
   ⟨onMe (fun X => { X with ereg := [(512, 0x1F80200)] }) (cpu .mzero), by decide +kernel, by decide +kernel⟩,
   ⟨onMe (fun X => { X with ereg := [(512, 0x1F80000)] }) (cpu .mzero), by decide +kernel, by decide +kernel, by decide +kernel⟩,
   ⟨0, _, onCore (fun K => { (List.range 20).foldl (fun k j => k.lsWrite 1 (0x100 + 32 * j) 8 (77 + j)) K with acc := [(0, (5, 3)), (4032, (7, 9)), (4095, (7, 9))], banks := [(0, 1), (8192, 2)] }) (onMe (fun X => { X with matQ := [{ id := 9, cmd := 3, aoff := 0x100, boff := 0x200, b := 0, geo := 0x1F80000, astr := 0, ggeo := 0, epi := 0, epiv := 0, wsc := 0, ostr := 0, seq := 0, started := false, groups := [] }], nM := 1 }) (cpu (.add 5 6 7))), _, _, by decide +kernel, some_of (by decide +kernel), uncons_of (by decide +kernel)⟩,
   ⟨0, _, onCore (fun K => { K with matCur := some 0 }) (onCore (fun K => { (List.range 20).foldl (fun k j => k.lsWrite 1 (0x100 + 32 * j) 8 (77 + j)) K with acc := [(0, (5, 3)), (4032, (7, 9)), (4095, (7, 9))], banks := [(0, 1), (8192, 2)] }) (onMe (fun X => { X with matQ := [{ id := 9, cmd := 3, aoff := 0x100, boff := 0x200, b := 0, geo := 0x1F80000, astr := 0, ggeo := 0, epi := 0, epiv := 0, wsc := 0, ostr := 0, seq := 0, started := true, groups := [] }], nM := 1 }) (cpu (.add 5 6 7)))), _, _, some_of (by decide +kernel), uncons_of (by decide +kernel)⟩,
   ⟨{ id := 9, cmd := 0, aoff := 0x100, boff := 0x200, b := 1, geo := 0x1F80000, astr := 0, ggeo := 0, epi := 0, epiv := 0, wsc := 0, ostr := 0, seq := 0, started := true, groups := [] }, by decide +kernel⟩,
   ⟨{ id := 9, cmd := 0, aoff := 0x100, boff := 0x200, b := 1, geo := 0x1F80000, astr := 0, ggeo := 0, epi := 0, epiv := 0, wsc := 0, ostr := 0, seq := 0, started := true, groups := [] }, 32, by decide +kernel, by decide +kernel⟩,
   ⟨{ id := 9, cmd := 0, aoff := 0x100, boff := 0x200, b := 1, geo := 0x1F80000, astr := 0, ggeo := 0, epi := 0, epiv := 0, wsc := 0, ostr := 0, seq := 0, started := true, groups := [] }, 5, by decide +kernel, by decide +kernel⟩,
   ⟨{ id := 9, cmd := 3, aoff := 0x100, boff := 0x200, b := 1, geo := 0x1F80000, astr := 0, ggeo := 0, epi := 0, epiv := 0, wsc := 0, ostr := 0, seq := 0, started := true, groups := [] }, by decide +kernel⟩,
   ⟨{ id := 9, cmd := 3, aoff := 0x100, boff := 0x200, b := 1, geo := 0x1F80000, astr := 0, ggeo := 0, epi := 0, epiv := 0, wsc := 0, ostr := 0, seq := 0, started := true, groups := [] }, 4032, by decide +kernel, by decide +kernel, by decide +kernel⟩,
   ⟨{ id := 9, cmd := 3, aoff := 0x100, boff := 0x200, b := 1, geo := 0x1F80000, astr := 0, ggeo := 0, epi := 0, epiv := 0, wsc := 0, ostr := 0, seq := 0, started := true, groups := [] }, 0, by decide +kernel, by decide +kernel⟩,
   ⟨{ id := 9, cmd := 5, aoff := 0x100, boff := 0x200, b := 0, geo := 0x1F80000 + 2 ^ 25, astr := 0, ggeo := 0, epi := 0, epiv := 0, wsc := 0, ostr := 0, seq := 0, started := true, groups := [] }, by decide +kernel, by decide +kernel⟩,
   ⟨{ id := 9, cmd := 5, aoff := 0x100, boff := 0x200, b := 0, geo := 0x1F80000 + 2 ^ 25, astr := 0, ggeo := 0, epi := 0, epiv := 0, wsc := 0, ostr := 0, seq := 0, started := true, groups := [] }, 0, by decide +kernel, by decide +kernel, by decide +kernel⟩,
   ⟨{ id := 9, cmd := 5, aoff := 0x100, boff := 0x200, b := 0, geo := 0x1F80000 + 2 ^ 25, astr := 0, ggeo := 0, epi := 0, epiv := 0, wsc := 0, ostr := 0, seq := 0, started := true, groups := [] }, 0, by decide +kernel, by decide +kernel, by decide +kernel⟩,
   ⟨{ id := 9, cmd := 1, aoff := 0x100, boff := 0x400, b := 0, geo := 0x100200, astr := 128, ggeo := 0, epi := 0, epiv := 0x200, wsc := 0x800, ostr := 0, seq := 0, started := true, groups := [] }, by decide +kernel⟩,
   ⟨{ id := 9, cmd := 2, aoff := 0x100, boff := 0x400, b := 0, geo := 0x100200, astr := 128, ggeo := 0, epi := 0, epiv := 0x200, wsc := 0x800, ostr := 0, seq := 0, started := true, groups := [(2, (256 + 1024*2^20 + 2048*2^40 + 0*2^60), 0)] }, by decide +kernel⟩,
   ⟨{ id := 9, cmd := 4, aoff := 0x100, boff := 0x400, b := 0xF200000000000600, geo := 0x100200, astr := 128, ggeo := 0, epi := 0x0, epiv := 0x200, wsc := 0x800, ostr := 0x100, seq := 0, started := true, groups := [] }, by decide +kernel⟩,
   ⟨{ id := 9, cmd := 4, aoff := 0x100, boff := 0x400, b := 0xF200000000000600, geo := 0x100200, astr := 128, ggeo := 0, epi := 0x0, epiv := 0x200, wsc := 0x800, ostr := 0x100, seq := 0, started := true, groups := [] }, by decide +kernel, by decide +kernel⟩,
   ⟨{ id := 9, cmd := 4, aoff := 0x100, boff := 0x400, b := 0, geo := 0x100200, astr := 128, ggeo := 0, epi := 0x11c, epiv := 0x200, wsc := 0x800, ostr := 0x100, seq := 0, started := true, groups := [] }, by decide +kernel, by decide +kernel⟩,
   ⟨{ id := 9, cmd := 5, aoff := 0x100, boff := 0x400, b := 0, geo := 0x100200, astr := 128, ggeo := 0, epi := 0, epiv := 0x200, wsc := 0x800, ostr := 0, seq := 0, started := true, groups := [] }, by decide +kernel, by decide +kernel⟩,
   ⟨0, by decide +kernel⟩,
   ⟨0, { id := 9, cmd := 2, aoff := 0x100, boff := 0x400, b := 0, geo := 0x100200, astr := 128, ggeo := 0, epi := 0, epiv := 0x200, wsc := 0x800, ostr := 0, seq := 0, started := true, groups := [] }, ({ core := ({ ((List.range 48).foldl (fun k j => k.lsWrite 1 (0x400 + 8*j) 8 (0x00FE00FF01010100 + j % 3)) ((List.range 300).foldl (fun k j => k.lsWrite 1 (0x100 + 8*j) 8 ((j*j*7919 + j*104729 + 3) * 2654435761 * 40503 % 2^64)) Core.reset)) with acc := [(128,(0x3F800000,24)),(129,(0x40490FDB,20)),(190,(0x7F800000,24)),(191,(0x7FC00000,24)),(192,(0xBF000000,24)),(193,(0x42000000,3)),(250,(0xFF800000,24))], banks := (List.range 700).map (fun j => (11*j, BitVec.ofNat 8 (j*37+1))) } : Core), flags := 0, code := 0, skip := 0, row := 2 } : GroupRun), 3, (256 + 1024*2^20 + 2048*2^40 + 12*2^60), 0, by decide +kernel, by decide +kernel⟩,
   ⟨0, { id := 9, cmd := 2, aoff := 0x100, boff := 0x400, b := 0, geo := 0x100200, astr := 128, ggeo := 0, epi := 0, epiv := 0x200, wsc := 0x800, ostr := 0, seq := 0, started := true, groups := [] }, ({ core := ({ ((List.range 48).foldl (fun k j => k.lsWrite 1 (0x400 + 8*j) 8 (0x00FE00FF01010100 + j % 3)) ((List.range 300).foldl (fun k j => k.lsWrite 1 (0x100 + 8*j) 8 ((j*j*7919 + j*104729 + 3) * 2654435761 * 40503 % 2^64)) Core.reset)) with acc := [(128,(0x3F800000,24)),(129,(0x40490FDB,20)),(190,(0x7F800000,24)),(191,(0x7FC00000,24)),(192,(0xBF000000,24)),(193,(0x42000000,3)),(250,(0xFF800000,24))], banks := (List.range 700).map (fun j => (11*j, BitVec.ofNat 8 (j*37+1))) } : Core), flags := 0, code := 0, skip := 0, row := 2 } : GroupRun), 2, (256 + 1024*2^20 + 2048*2^40 + 0*2^60), 0, by decide +kernel, by decide +kernel⟩,
   ⟨1, by decide +kernel⟩,
   ⟨(256 + 1024*2^20 + 2048*2^40 + 12*2^60), 0, by decide +kernel, by decide +kernel⟩,
   ⟨0, { id := 9, cmd := 2, aoff := 0x100, boff := 0x400, b := 0, geo := 0x100200, astr := 128, ggeo := 0, epi := 0, epiv := 0x200, wsc := 0x800, ostr := 0, seq := 0, started := true, groups := [] }, (260 + 1024*2^20 + 2048*2^40 + 0*2^60), 0, by decide +kernel, by decide +kernel, by decide +kernel⟩,
   ⟨0, by decide +kernel⟩,
   ⟨-1, none, by decide +kernel, by decide +kernel⟩,
   ⟨-1, some { bits := 0x3F800000, inexact := false, flags := 0 }, _, by decide +kernel, some_of (by decide +kernel), by unfold Fmt.finite; decide +kernel, by decide +kernel⟩,
   ⟨({ acc := 0, flags := 0, big := none, zeros := true } : Fold), -1, some { bits := 0x3F800000, inexact := false, flags := 0 }, by unfold Fmt.finite; decide +kernel, by unfold Fmt.finite; decide +kernel, by decide +kernel⟩,
   ⟨510, by decide +kernel⟩,
   ⟨0, f32.dec 0x3F800000, by decide +kernel, by decide +kernel, by decide +kernel, by decide +kernel⟩,
   ⟨({ acc := 0x7FC00000, flags := 0, big := none, zeros := true } : Fold), by decide +kernel⟩,
   ⟨({ acc := 0xFF800000, flags := 0, big := none, zeros := true } : Fold), by decide +kernel⟩,
   ⟨({ acc := 0, flags := 0, big := none, zeros := true } : Fold), by decide +kernel⟩,
   ⟨0, 24, ({ acc := 0x3F800000, flags := 0, big := some 3, zeros := false } : Fold), _, _, some_of (by decide +kernel), some_of (by decide +kernel)⟩,
   ⟨1, _, some_of (by decide +kernel)⟩,
   ⟨{ id := 9, cmd := 4, aoff := 0x100, boff := 0x400, b := 0xF200000000000600, geo := 0x100200, astr := 128, ggeo := 0, epi := 0x0, epiv := 0x200, wsc := 0x800, ostr := 0x100, seq := 0, started := true, groups := [] }, 0, by decide +kernel⟩,
   ⟨({ b := 0xBF800000, s := 24, i := false } : Elem), by unfold Fmt.finite; decide +kernel, by decide +kernel⟩,
   ⟨({ b := 0x3F800000, s := 24, i := false } : Elem), by unfold Fmt.finite; decide +kernel, by decide +kernel⟩,
   ⟨({ b := 0x7F800000, s := 24, i := false } : Elem), by decide +kernel⟩,
   ⟨({ b := 0xFF800000, s := 24, i := false } : Elem), by decide +kernel⟩,
   ⟨({ b := 0, s := 24, i := false } : Elem), by decide +kernel⟩,
   ⟨[[(0, 1, 3, true, 0), (4, 1, 9, false, 0)]], 4, 0, _, 0, _, _, some_of (by decide +kernel), by decide +kernel, .head _, some_of (by decide +kernel), by decide +kernel, (fun j _ a ha b hb _ _ => (List.mem_singleton.mp ha).trans (List.mem_singleton.mp hb).symm)⟩,
   ⟨[[(0, 1, 3, true, 0), (4, 1, 9, false, 0)]], 4, 0, _, by decide +kernel, some_of (by decide +kernel), (fun j _ a ha b hb _ _ => (List.mem_singleton.mp ha).trans (List.mem_singleton.mp hb).symm)⟩⟩

theorem meets_RopeEngine :
    (∃ (row : _) (a b : RegF) (s s1 s2 : State) (pa pb : TVal) (oa ob : Nat), (row ∈ ([(Instr.rcat, 0), (Instr.rsplit, 1), (Instr.rsplice, 2), (Instr.rfind, 3), (Instr.rfold, 4), (Instr.rpin, 5), (Instr.rref, 6), (Instr.rdrop, 7)] :
      List ((RegF → RegF → Instr) × Nat))) ∧ starts (row.1 a b) s = true ∧ Reads (doer (row.1 a b) s) a (begun s) pa s1 ∧ Reads (doer (row.1 a b) s) b s1 pb s2 ∧ matOff s2 (doer (row.1 a b) s).core (s2.ctx (doer (row.1 a b) s).core (doer (row.1 a b) s).slot) pa.val 32 = .ok oa ∧ matOff s2 (doer (row.1 a b) s).core (s2.ctx (doer (row.1 a b) s).core (doer (row.1 a b) s).slot) pb.val 16 = .ok ob ∧ pa.val.toNat % 32 ≠ 0) ∧
    (∃ (row : _) (a b : RegF) (s s1 s2 s3 : State) (pa pb : TVal) (oa ob : Nat) (args : List Word), (row ∈ ([(Instr.rcat, 0), (Instr.rsplit, 1), (Instr.rsplice, 2), (Instr.rfind, 3), (Instr.rfold, 4), (Instr.rpin, 5), (Instr.rref, 6), (Instr.rdrop, 7)] :
      List ((RegF → RegF → Instr) × Nat))) ∧ starts (row.1 a b) s = true ∧ Reads (doer (row.1 a b) s) a (begun s) pa s1 ∧ Reads (doer (row.1 a b) s) b s1 pb s2 ∧ matOff s2 (doer (row.1 a b) s).core (s2.ctx (doer (row.1 a b) s).core (doer (row.1 a b) s).slot) pa.val 32 = .ok oa ∧ matOff s2 (doer (row.1 a b) s).core (s2.ctx (doer (row.1 a b) s).core (doer (row.1 a b) s).slot) pb.val 16 = .ok ob ∧ pa.val.toNat % 32 = 0 ∧ pb.val.toNat % 16 = 0 ∧ clear (doer (row.1 a b) s) ({ place := .ls (doer (row.1 a b) s).core oa, ptr := pa.val, win := .loc, size := 32 } : Loc) false s2 = true ∧ readWordsAt ({ place := .ls (doer (row.1 a b) s).core oa, ptr := pa.val, win := .loc, size := 32 } : Loc) 4 (doer (row.1 a b) s) s2 = .ok (args, s3) ∧ (s3.ctx (doer (row.1 a b) s).core (doer (row.1 a b) s).slot).nQ < 63) ∧
    (∃ (sq : Nat) (s : State) (c : RopeCmd), ropeReady s (s.square sq) = some c ∧ (c.cmd = 6 ∨ c.cmd = 7) ∧ c.badArgs = false) ∧
    (∃ (sq n : Nat) (s s1 : State) (c : RopeCmd) (f : RopeFin), (s.square sq).ropeQ[n]? = some c ∧ c.started = true ∧ c.walks.page = none ∧ c.fin = none ∧ ropeRun c s = .ok (s1, f) ∧ f.left = []) ∧
    (∃ (sq n : Nat) (s : State) (l : Limbo) (st : _), (s.square sq).limbo[n]? = some l ∧ (∀ id ∈ ropesInProgress s, id ∉ l.waits) ∧ l.cmd.walks.page = none ∧ runRM (pushNode l.cmd l.node) (s.joinChan (.cmd l.cmd.id) (({} : Front).mark .device s.ord.commits)) = (.ok (), st)) ∧
    (∃ (sq n : Nat) (s : State) (l : Limbo) (f : _) (st : _), (s.square sq).limbo[n]? = some l ∧ (∀ id ∈ ropesInProgress s, id ∉ l.waits) ∧ l.cmd.walks.page = none ∧ runRM (pushNode l.cmd l.node) (s.joinChan (.cmd l.cmd.id) (({} : Front).mark .device s.ord.commits)) = (.error f, st) ∧ f.miss = none) ∧
    (∃ (c : RopeCmd) (s : State) (pl : Place), c.fail = none ∧ bits (c.arg 0) 63 51 = 0 ∧ engMiss s (ropeAgent c) (c.arg 0) 64 .atom = none ∧ engResolve s (ropeAgent c) (c.arg 0) 64 .atom = .ok pl ∧ (bits (w64 ((engTouch s (ropeAgent c) (c.arg 0) 64 .atom).weakRead ((engTouch s (ropeAgent c) (c.arg 0) 64 .atom).cmdReader c.uid c.seq c.id 3) 0 (fun q o => ((engTouch s (ropeAgent c) (c.arg 0) 64 .atom).wset q).all (fun d => !(d.isAfter o && Parties.device.has d.by_))) pl 8).1) 1 0 = 1 ∨ bits (w64 ((engTouch s (ropeAgent c) (c.arg 0) 64 .atom).weakRead ((engTouch s (ropeAgent c) (c.arg 0) 64 .atom).cmdReader c.uid c.seq c.id 3) 0 (fun q o => ((engTouch s (ropeAgent c) (c.arg 0) 64 .atom).wset q).all (fun d => !(d.isAfter o && Parties.device.has d.by_))) pl 8).1) 1 0 = 2) ∧ bits (w64 ((engTouch s (ropeAgent c) (c.arg 0) 64 .atom).weakRead ((engTouch s (ropeAgent c) (c.arg 0) 64 .atom).cmdReader c.uid c.seq c.id 3) 0 (fun q o => ((engTouch s (ropeAgent c) (c.arg 0) 64 .atom).wset q).all (fun d => !(d.isAfter o && Parties.device.has d.by_))) pl 8).1) 63 40 = 0 ∧ c.cmd = 6 ∧ bits (w64 ((engTouch s (ropeAgent c) (c.arg 0) 64 .atom).weakRead ((engTouch s (ropeAgent c) (c.arg 0) 64 .atom).cmdReader c.uid c.seq c.id 3) 0 (fun q o => ((engTouch s (ropeAgent c) (c.arg 0) 64 .atom).wset q).all (fun d => !(d.isAfter o && Parties.device.has d.by_))) pl 8).1) 39 8 ≠ 0 ∧ bits (w64 ((engTouch s (ropeAgent c) (c.arg 0) 64 .atom).weakRead ((engTouch s (ropeAgent c) (c.arg 0) 64 .atom).cmdReader c.uid c.seq c.id 3) 0 (fun q o => ((engTouch s (ropeAgent c) (c.arg 0) 64 .atom).wset q).all (fun d => !(d.isAfter o && Parties.device.has d.by_))) pl 8).1) 39 8 + (bits (c.arg 1) 31 0) < 2 ^ 32) ∧
    (∃ (c : RopeCmd) (s : State) (pl : Place), c.fail = none ∧ bits (c.arg 0) 63 51 = 0 ∧ engMiss s (ropeAgent c) (c.arg 0) 64 .atom = none ∧ engResolve s (ropeAgent c) (c.arg 0) 64 .atom = .ok pl ∧ (bits (w64 ((engTouch s (ropeAgent c) (c.arg 0) 64 .atom).weakRead ((engTouch s (ropeAgent c) (c.arg 0) 64 .atom).cmdReader c.uid c.seq c.id 3) 0 (fun q o => ((engTouch s (ropeAgent c) (c.arg 0) 64 .atom).wset q).all (fun d => !(d.isAfter o && Parties.device.has d.by_))) pl 8).1) 1 0 = 1 ∨ bits (w64 ((engTouch s (ropeAgent c) (c.arg 0) 64 .atom).weakRead ((engTouch s (ropeAgent c) (c.arg 0) 64 .atom).cmdReader c.uid c.seq c.id 3) 0 (fun q o => ((engTouch s (ropeAgent c) (c.arg 0) 64 .atom).wset q).all (fun d => !(d.isAfter o && Parties.device.has d.by_))) pl 8).1) 1 0 = 2) ∧ bits (w64 ((engTouch s (ropeAgent c) (c.arg 0) 64 .atom).weakRead ((engTouch s (ropeAgent c) (c.arg 0) 64 .atom).cmdReader c.uid c.seq c.id 3) 0 (fun q o => ((engTouch s (ropeAgent c) (c.arg 0) 64 .atom).wset q).all (fun d => !(d.isAfter o && Parties.device.has d.by_))) pl 8).1) 63 40 = 0 ∧ c.cmd = 7 ∧ (bits (c.arg 1) 31 0) < bits (w64 ((engTouch s (ropeAgent c) (c.arg 0) 64 .atom).weakRead ((engTouch s (ropeAgent c) (c.arg 0) 64 .atom).cmdReader c.uid c.seq c.id 3) 0 (fun q o => ((engTouch s (ropeAgent c) (c.arg 0) 64 .atom).wset q).all (fun d => !(d.isAfter o && Parties.device.has d.by_))) pl 8).1) 39 8) ∧
    (∃ (c : RopeCmd) (s : State) (pl : Place), c.fail = none ∧ bits (c.arg 0) 63 51 = 0 ∧ engMiss s (ropeAgent c) (c.arg 0) 64 .atom = none ∧ engResolve s (ropeAgent c) (c.arg 0) 64 .atom = .ok pl ∧ (bits (w64 ((engTouch s (ropeAgent c) (c.arg 0) 64 .atom).weakRead ((engTouch s (ropeAgent c) (c.arg 0) 64 .atom).cmdReader c.uid c.seq c.id 3) 0 (fun q o => ((engTouch s (ropeAgent c) (c.arg 0) 64 .atom).wset q).all (fun d => !(d.isAfter o && Parties.device.has d.by_))) pl 8).1) 1 0 = 1 ∨ bits (w64 ((engTouch s (ropeAgent c) (c.arg 0) 64 .atom).weakRead ((engTouch s (ropeAgent c) (c.arg 0) 64 .atom).cmdReader c.uid c.seq c.id 3) 0 (fun q o => ((engTouch s (ropeAgent c) (c.arg 0) 64 .atom).wset q).all (fun d => !(d.isAfter o && Parties.device.has d.by_))) pl 8).1) 1 0 = 2) ∧ bits (w64 ((engTouch s (ropeAgent c) (c.arg 0) 64 .atom).weakRead ((engTouch s (ropeAgent c) (c.arg 0) 64 .atom).cmdReader c.uid c.seq c.id 3) 0 (fun q o => ((engTouch s (ropeAgent c) (c.arg 0) 64 .atom).wset q).all (fun d => !(d.isAfter o && Parties.device.has d.by_))) pl 8).1) 63 40 = 0 ∧ c.cmd = 7 ∧ bits (w64 ((engTouch s (ropeAgent c) (c.arg 0) 64 .atom).weakRead ((engTouch s (ropeAgent c) (c.arg 0) 64 .atom).cmdReader c.uid c.seq c.id 3) 0 (fun q o => ((engTouch s (ropeAgent c) (c.arg 0) 64 .atom).wset q).all (fun d => !(d.isAfter o && Parties.device.has d.by_))) pl 8).1) 39 8 < (bits (c.arg 1) 31 0)) :=
  ⟨⟨_, 6, 7, onReg 6 0xF200000000000104 (onReg 7 0xF200000000000100 (onMe (fun X => { X with binds := [] }) (cpu (Instr.rcat 6 7)))), _, _, _, _, _, _, .head _, by decide +kernel, readReg_usable (by decide +kernel), readReg_usable (by decide +kernel), ok_of (by decide +kernel), ok_of (by decide +kernel), by decide +kernel⟩,
   ⟨_, 6, 7, onCore (fun K => K.lsWrite 1 0x100 8 5) (onReg 6 0xF200000000000100 (onReg 7 0xF200000000000100 (onMe (fun X => { X with binds := [] }) (cpu (Instr.rcat 6 7))))), _, _, _, _, _, _, _, _, .head _, by decide +kernel, readReg_usable (by decide +kernel), readReg_usable (by decide +kernel), ok_of (by decide +kernel), ok_of (by decide +kernel), by decide +kernel, by decide +kernel, by decide +kernel, ok2_of (by decide +kernel), by decide +kernel⟩,
   ⟨0, (State.modSquare (onMe (fun X => { X with nQ := 1 }) (cpu (.add 5 6 7))) 0 (fun Q => { Q with ropeQ := [{ id := 9, core := 0, slot := 0, uid := 1, tenant := 0, priv := 0, cmd := 6, args := [0x40, 3, 0, 0], argPtr := 0x99, res := 0x300, pool := 0, list := 0, cap := 0, seq := 0, started := false, rootA := 0, classA := 0, rootB := 0, fail := none, fin := none }], limbo := [] })), _, some_of (by decide +kernel), by decide +kernel, by decide +kernel⟩,
   ⟨0, 0, (fun (S : State) => S.modSquare 0 (fun Q => { Q with tlb := [{ tenant := 0, page := 0, big := false, leaf := 0x3F }] })) ((State.modSquare (onMe (fun X => { X with nQ := 1 }) (put8 0x40 0x501 (tabs (cpu .nop)))) 0 (fun Q => { Q with ropeQ := [{ id := 9, core := 0, slot := 0, uid := 1, tenant := 0, priv := 0, cmd := 6, args := [0x40, 3, 0, 0], argPtr := 0x99, res := 0x300, pool := 0, list := 0, cap := 0, seq := 0, started := true, rootA := 0, classA := 0, rootB := 0, fail := none, fin := none }], limbo := [] }))), _, _, _, some_of (by decide +kernel), by decide +kernel, by decide +kernel, by decide +kernel, rfl, by decide +kernel⟩,
   ⟨0, 0, (fun (S : State) => S.modSquare 0 (fun Q => { Q with tlb := [{ tenant := 0, page := 0, big := false, leaf := 0x3F }] })) ((State.modSquare (put8 0x40 0 (tabs (cpu .nop))) 0 (fun Q => { Q with ropeQ := [], limbo := [{ node := 0x80, waits := [5], cmd := { id := 9, core := 0, slot := 0, uid := 1, tenant := 0, priv := 0, cmd := 7, args := [0xF200000000000100, 0, 0, 0], argPtr := 0x99, res := 0x300, pool := 0x40, list := 0, cap := 0, seq := 0, started := true, rootA := 0, classA := 0, rootB := 0, fail := none, fin := none } }] }))), _, _, some_of (by decide +kernel), by decide +kernel, by decide +kernel, done_of (by decide +kernel)⟩,
   ⟨0, 0, (State.modSquare (cpu .nop) 0 (fun Q => { Q with ropeQ := [], limbo := [{ node := 0x80, waits := [5], cmd := { id := 9, core := 0, slot := 0, uid := 1, tenant := 0, priv := 0, cmd := 7, args := [0xF200000000000100, 0, 0, 0], argPtr := 0x99, res := 0x300, pool := 0x8000000000000000, list := 0, cap := 0, seq := 0, started := true, rootA := 0, classA := 0, rootB := 0, fail := none, fin := none } }] })), _, _, _, some_of (by decide +kernel), by decide +kernel, by decide +kernel, stopped_of (by decide +kernel), by decide +kernel⟩,
   ⟨{ id := 9, core := 0, slot := 0, uid := 1, tenant := 0, priv := 0, cmd := 6, args := [0x40, 3, 0, 0], argPtr := 0x99, res := 0x300, pool := 0, list := 0, cap := 0, seq := 0, started := true, rootA := 0, classA := 0, rootB := 0, fail := none, fin := none }, (fun (S : State) => S.modSquare 0 (fun Q => { Q with tlb := [{ tenant := 0, page := 0, big := false, leaf := 0x3F }] })) (put8 0x40 0x501 (tabs (cpu .nop))), _, by decide +kernel, by decide +kernel, by decide +kernel, ok_of (by decide +kernel), by decide +kernel, by decide +kernel, by decide +kernel, by decide +kernel, by decide +kernel⟩,
   ⟨{ id := 9, core := 0, slot := 0, uid := 1, tenant := 0, priv := 0, cmd := 7, args := [0x40, 3, 0, 0], argPtr := 0x99, res := 0x300, pool := 0, list := 0, cap := 0, seq := 0, started := true, rootA := 0, classA := 0, rootB := 0, fail := none, fin := none }, (fun (S : State) => S.modSquare 0 (fun Q => { Q with tlb := [{ tenant := 0, page := 0, big := false, leaf := 0x3F }] })) (put8 0x40 0x501 (tabs (cpu .nop))), _, by decide +kernel, by decide +kernel, by decide +kernel, ok_of (by decide +kernel), by decide +kernel, by decide +kernel, by decide +kernel, by decide +kernel⟩,
   ⟨{ id := 9, core := 0, slot := 0, uid := 1, tenant := 0, priv := 0, cmd := 7, args := [0x40, 9, 0, 0], argPtr := 0x99, res := 0x300, pool := 0, list := 0, cap := 0, seq := 0, started := true, rootA := 0, classA := 0, rootB := 0, fail := none, fin := none }, (fun (S : State) => S.modSquare 0 (fun Q => { Q with tlb := [{ tenant := 0, page := 0, big := false, leaf := 0x3F }] })) (put8 0x40 0x501 (tabs (cpu .nop))), _, by decide +kernel, by decide +kernel, by decide +kernel, ok_of (by decide +kernel), by decide +kernel, by decide +kernel, by decide +kernel, by decide +kernel⟩⟩

theorem meets_Sampling :
    (∃ (a b : RegF) (s s1 s2 : State) (xa xb : TVal), starts (.smp a b) s = true ∧ Reads (doer (.smp a b) s) a (begun s) xa s1 ∧ Reads (doer (.smp a b) s) b s1 xb s2 ∧ smpCode s2 (s2.ctx (doer (.smp a b) s).core (doer (.smp a b) s).slot).tenant (treeOf ((s2.ctx (doer (.smp a b) s).core (doer (.smp a b) s).slot).er 4 0)) (((s2.ctx (doer (.smp a b) s).core (doer (.smp a b) s).slot).er 4 4).setWidth 32) xb.val = 0 ∧ (s2.ctx (doer (.smp a b) s).core (doer (.smp a b) s).slot).nQ < 63) ∧
    (∃ (a b : RegF) (s s1 s2 : State) (xa xb : TVal), starts (.smp a b) s = true ∧ Reads (doer (.smp a b) s) a (begun s) xa s1 ∧ Reads (doer (.smp a b) s) b s1 xb s2 ∧ smpCode s2 (s2.ctx (doer (.smp a b) s).core (doer (.smp a b) s).slot).tenant (treeOf ((s2.ctx (doer (.smp a b) s).core (doer (.smp a b) s).slot).er 4 0)) (((s2.ctx (doer (.smp a b) s).core (doer (.smp a b) s).slot).er 4 4).setWidth 32) xb.val ≠ 0) ∧
    (∃ (d : RegF) (s : State), starts (.smpw d) s = true ∧ s.who.isPort d.toNat = false ∧ s.who.bound? d.toNat = none ∧ (¬((treeOf (s.who.er 4 0)).core = (doer (.smpw d) s).core ∧ (treeOf (s.who.er 4 0)).slot = (doer (.smpw d) s).slot ∧ (treeOf (s.who.er 4 0)).peer = false))) ∧
    (∃ (d : RegF) (s : State), starts (.smpw d) s = true ∧ s.who.isPort d.toNat = false ∧ s.who.bound? d.toNat = none ∧ ((treeOf (s.who.er 4 0)).core = (doer (.smpw d) s).core ∧ (treeOf (s.who.er 4 0)).slot = (doer (.smpw d) s).slot ∧ (treeOf (s.who.er 4 0)).peer = false) ∧ (bits (s.who.er 4 5) 31 0) = 0) ∧
    (∃ (d : RegF) (s : State), starts (.smpw d) s = true ∧ s.who.isPort d.toNat = false ∧ s.who.bound? d.toNat = none ∧ ((treeOf (s.who.er 4 0)).core = (doer (.smpw d) s).core ∧ (treeOf (s.who.er 4 0)).slot = (doer (.smpw d) s).slot ∧ (treeOf (s.who.er 4 0)).peer = false) ∧ (bits (s.who.er 4 5) 31 0) ≠ 0 ∧ Ready (doer (.smpw d) s) d (begun s) none (begun s) ∧ s.who.nQ < 63) ∧
    (∃ (n : Nat) (s : State) (m : SmpMsg) (t : _), s.smps[n]? = some m ∧ stopped s m.tenant = false ∧ (∀ p ∈ s.smps, p.id ≠ m.id → p.step ≠ m.step) ∧ m.turn s [m] = true ∧ collect s m [m] = some t) ∧
    (∃ (n : Nat) (s : State) (m : SmpMsg), s.smps[n]? = some m ∧ stopped s m.tenant = false ∧ (∀ p ∈ s.smps, p.id ≠ m.id → p.step ≠ m.step) ∧ m.turn s [m] = true ∧ collect s m [m] = none) ∧
    (∃ (n : Nat) (s : State) (m : SmpMsg), s.smps[n]? = some m ∧ stopped s m.tenant = false ∧ (∀ p ∈ s.smps, p.id ≠ m.id → p.step ≠ m.step) ∧ m.turn s [m] = false) ∧
    (∃ (s : State) (m : SmpMsg), m.peer = none ∧ (∀ d, ∀ p ∈ (s.core d).ctxs, ∀ l ∈ p.2.loads, l.smpwId = none) ∧ ((s.ctx (s.leadSlot m.core m.slot) m.slot).state = .free ∨ (s.ctx (s.leadSlot m.core m.slot) m.slot).state = .draining ∨ (s.ctx (s.leadSlot m.core m.slot) m.slot).tenant ≠ m.tenant)) ∧
    (∃ (s : State) (m : SmpMsg), m.peer = none ∧ (∀ d, ∀ p ∈ (s.core d).ctxs, ∀ l ∈ p.2.loads, l.smpwId = none) ∧ (s.ctx (s.leadSlot m.core m.slot) m.slot).state ≠ .free ∧ (s.ctx (s.leadSlot m.core m.slot) m.slot).state ≠ .draining ∧ (s.ctx (s.leadSlot m.core m.slot) m.slot).tenant = m.tenant ∧ (((s.core (s.leadSlot m.core m.slot)).rounds.find? (fun (r : Round) => r.is m.slot m.tree m.step)).isSome = true ∨ (s.core (s.leadSlot m.core m.slot)).rounds.length < 8)) ∧
    (∃ (s : State) (m : SmpMsg), m.peer = none ∧ (∀ d, ∀ p ∈ (s.core d).ctxs, ∀ l ∈ p.2.loads, l.smpwId = none) ∧ (s.ctx (s.leadSlot m.core m.slot) m.slot).state ≠ .free ∧ (s.ctx (s.leadSlot m.core m.slot) m.slot).state ≠ .draining ∧ (s.ctx (s.leadSlot m.core m.slot) m.slot).tenant = m.tenant ∧ ((s.core (s.leadSlot m.core m.slot)).rounds.find? (fun (r : Round) => r.is m.slot m.tree m.step)) = none ∧ 8 ≤ (s.core (s.leadSlot m.core m.slot)).rounds.length) ∧
    (∃ (a b : Inject), a.cls = true ∧ b.cls = false) ∧
    (∃ (a b : Inject), a.cls = b.cls ∧ a.value = b.value ∧ a.index.toNat < b.index.toNat ∧ (f32.dec a.value.toNat).isNan = false) ∧
    (∃ (a b : Inject), a.cls = true ∧ b.cls = true ∧ f32.finite a.value.toNat ∧ f32.finite b.value.toNat ∧ (f32.dec b.value.toNat).rat < (f32.dec a.value.toNat).rat) :=
  ⟨⟨6, 7, onReg 6 0x40000000 (onReg 7 5 (onMe (fun X => { X with ereg := [(1024, 0), (1025, 0x1234), (1026, 7), (1027, 3), (1028, 0x3F800000), (1029, 1)] }) ((State.modDisp (cpu (.smp 6 7)) (fun D => { D with parts := [{ tenant := 0, words := [23 * 1024 + 31 * 32768, 0, 0, 0, 0, 0, 0, 0] }] }))))), _, _, _, _, by decide +kernel, readReg_usable (by decide +kernel), readReg_usable (by decide +kernel), by decide +kernel, by decide +kernel⟩,
   ⟨6, 7, onReg 6 0x40000000 (onReg 7 5 (onMe (fun X => { X with ereg := [(1024, 0), (1025, 0x1234), (1026, 7), (1027, 3), (1028, 0xBF800000), (1029, 1)] }) ((State.modDisp (cpu (.smp 6 7)) (fun D => { D with parts := [{ tenant := 0, words := [23 * 1024 + 31 * 32768, 0, 0, 0, 0, 0, 0, 0] }] }))))), _, _, _, _, by decide +kernel, readReg_usable (by decide +kernel), readReg_usable (by decide +kernel), by decide +kernel⟩,
   ⟨5, onReg 6 0x40000000 (onReg 7 5 (onMe (fun X => { X with ereg := [(1024, 1), (1025, 0x1234), (1026, 7), (1027, 3), (1028, 0x3F800000), (1029, 1)] }) ((State.modDisp (cpu (.smpw 5)) (fun D => { D with parts := [{ tenant := 0, words := [23 * 1024 + 31 * 32768, 0, 0, 0, 0, 0, 0, 0] }] }))))), by decide +kernel, by decide +kernel, by decide +kernel, by decide +kernel⟩,
   ⟨5, onReg 6 0x40000000 (onReg 7 5 (onMe (fun X => { X with ereg := [(1024, 0), (1025, 0x1234), (1026, 7), (1027, 3), (1028, 0x3F800000), (1029, 0)] }) ((State.modDisp (cpu (.smpw 5)) (fun D => { D with parts := [{ tenant := 0, words := [23 * 1024 + 31 * 32768, 0, 0, 0, 0, 0, 0, 0] }] }))))), by decide +kernel, by decide +kernel, by decide +kernel, by decide +kernel, by decide +kernel⟩,
   ⟨5, onReg 6 0x40000000 (onReg 7 5 (onMe (fun X => { X with ereg := [(1024, 0), (1025, 0x1234), (1026, 7), (1027, 3), (1028, 0x3F800000), (1029, 2)] }) ((State.modDisp (cpu (.smpw 5)) (fun D => { D with parts := [{ tenant := 0, words := [23 * 1024 + 31 * 32768, 0, 0, 0, 0, 0, 0, 0] }] }))))), by decide +kernel, by decide +kernel, by decide +kernel, by decide +kernel, by decide +kernel, ready_none (by decide +kernel), by decide +kernel⟩,
   ⟨0, { (onMe (fun X => { X with nQ := 1 }) (cpu (.add 5 6 7))) with smps := [{ core := 0, slot := 0, tree := 0, step := 3, tenant := 0, peer := none, inj := { cls := true, value := 0x40000000, index := 5 }, count := 1, from_ := some (0, 0, 1), id := 9, seq := 0 }] }, _, _, some_of (by decide +kernel), by decide +kernel, by decide +kernel, by decide +kernel, some_of (by decide +kernel)⟩,
   ⟨0, { (onCore (fun K => { K with rounds := (List.range 8).map (fun j => { slot := 0, uid := 1, tree := 0, step := BitVec.ofNat 32 (j + 10), got := 1, best := none }) }) (onMe (fun X => { X with nQ := 1 }) (cpu (.add 5 6 7)))) with smps := [{ core := 0, slot := 0, tree := 0, step := 3, tenant := 0, peer := none, inj := { cls := true, value := 0x40000000, index := 5 }, count := 1, from_ := some (0, 0, 1), id := 9, seq := 0 }] }, _, some_of (by decide +kernel), by decide +kernel, by decide +kernel, by decide +kernel, by decide +kernel⟩,
   ⟨0, { (onMe (fun X => { X with nQ := 1, loads := [{ seq := 0, pc := 0, next := 0, rd := 5, kind := .smpw 3 0 3 1, place := .ls 0 0, ptr := 0x40, lv := 3, elect := none }] }) (cpu (.add 5 6 7))) with smps := [{ core := 0, slot := 0, tree := 0, step := 3, tenant := 0, peer := none, inj := { cls := true, value := 0x40000000, index := 5 }, count := 1, from_ := some (0, 0, 1), id := 9, seq := 0 }, { core := 0, slot := 0, tree := 0, step := 4, tenant := 0, peer := none, inj := { cls := true, value := 0x40000000, index := 5 }, count := 1, from_ := some (0, 0, 1), id := 3, seq := 0 }] }, _, some_of (by decide +kernel), by decide +kernel, by decide +kernel, by decide +kernel⟩,
   ⟨{ (onCore (fun K => { K with rounds := [] }) (onMe (fun X => { X with nQ := 1 }) (cpu (.add 5 6 7)))) with smps := [{ core := 0, slot := 3, tree := 0, step := 3, tenant := 0, peer := none, inj := { cls := true, value := 0x40000000, index := 5 }, count := 1, from_ := some (0, 0, 1), id := 9, seq := 0 }, { core := 0, slot := 0, tree := 0, step := 7, tenant := 0, peer := none, inj := { cls := true, value := 0x40000000, index := 5 }, count := 1, from_ := some (0, 0, 1), id := 10, seq := 0 }] }, { core := 0, slot := 3, tree := 0, step := 3, tenant := 0, peer := none, inj := { cls := true, value := 0x40000000, index := 5 }, count := 1, from_ := some (0, 0, 1), id := 9, seq := 0 }, by decide +kernel, noSmpw_of (by decide +kernel), by decide +kernel⟩,
   ⟨{ (onCore (fun K => { K with rounds := [] }) (onMe (fun X => { X with nQ := 1 }) (cpu (.add 5 6 7)))) with smps := [{ core := 0, slot := 0, tree := 0, step := 3, tenant := 0, peer := none, inj := { cls := true, value := 0x40000000, index := 5 }, count := 1, from_ := some (0, 0, 1), id := 9, seq := 0 }, { core := 0, slot := 0, tree := 0, step := 7, tenant := 0, peer := none, inj := { cls := true, value := 0x40000000, index := 5 }, count := 1, from_ := some (0, 0, 1), id := 10, seq := 0 }] }, { core := 0, slot := 0, tree := 0, step := 3, tenant := 0, peer := none, inj := { cls := true, value := 0x40000000, index := 5 }, count := 1, from_ := some (0, 0, 1), id := 9, seq := 0 }, by decide +kernel, noSmpw_of (by decide +kernel), by decide +kernel, by decide +kernel, by decide +kernel, by decide +kernel⟩,
   ⟨{ (onCore (fun K => { K with rounds := [{ slot := 0, uid := 1, tree := 0, step := 10, got := 1, best := none }, { slot := 0, uid := 1, tree := 0, step := 11, got := 1, best := none }, { slot := 0, uid := 1, tree := 0, step := 12, got := 1, best := none }, { slot := 0, uid := 1, tree := 0, step := 13, got := 1, best := none }, { slot := 0, uid := 1, tree := 0, step := 14, got := 1, best := none }, { slot := 0, uid := 1, tree := 0, step := 15, got := 1, best := none }, { slot := 0, uid := 1, tree := 0, step := 16, got := 1, best := none }, { slot := 0, uid := 1, tree := 0, step := 17, got := 1, best := none }] }) (onMe (fun X => { X with nQ := 1 }) (cpu (.add 5 6 7)))) with smps := [{ core := 0, slot := 0, tree := 0, step := 3, tenant := 0, peer := none, inj := { cls := true, value := 0x40000000, index := 5 }, count := 1, from_ := some (0, 0, 1), id := 9, seq := 0 }, { core := 0, slot := 0, tree := 0, step := 7, tenant := 0, peer := none, inj := { cls := true, value := 0x40000000, index := 5 }, count := 1, from_ := some (0, 0, 1), id := 10, seq := 0 }] }, { core := 0, slot := 0, tree := 0, step := 3, tenant := 0, peer := none, inj := { cls := true, value := 0x40000000, index := 5 }, count := 1, from_ := some (0, 0, 1), id := 9, seq := 0 }, by decide +kernel, noSmpw_of (by decide +kernel), by decide +kernel, by decide +kernel, by decide +kernel, by decide +kernel, by decide +kernel⟩,
   ⟨{ cls := true, value := 0xFF7FFFFF, index := 9 }, { cls := false, value := 0x7FC00000, index := 5 }, by decide +kernel, by decide +kernel⟩,
   ⟨{ cls := true, value := 0x3F800000, index := 5 }, { cls := true, value := 0x3F800000, index := 6 }, by decide +kernel, by decide +kernel, by decide +kernel, by decide +kernel⟩,
   ⟨{ cls := true, value := 0x40000000, index := 9 }, { cls := true, value := 0x3F800000, index := 5 }, by decide +kernel, by decide +kernel, by unfold Fmt.finite; decide +kernel, by unfold Fmt.finite; decide +kernel, by decide +kernel⟩⟩

theorem meets_Translation :
    (∃ (c i page : Nat) (e : Env) (s s1 : State) (p : Word) (op : Op) (t : TlbEntry) (pl : Place), e.core = c ∧ e.slot = i ∧ page = bits p 50 16 ∧ (s.ctx c i).xfault = none ∧ tlbLookup s c (s.ctx c i).tenant page = (some t, s1) ∧ grant t.leaf t.big p op (s.ctx c i).level = .ok pl) ∧
    (∃ (e : Env) (s : State) (p : Word), (s.ctx e.core e.slot).xfault = none ∧ (tlbLookup s e.core (s.ctx e.core e.slot).tenant (bits p 50 16)).1 = none) ∧
    (∃ (n : Nat) (s : State) (w : Walk) (big : Bool) (leaf : Word), s.walks[n]? = some w ∧ ((s.walks.take n).filter (fun x => x.die == w.die)).length < 256 ∧ walkTables s w.tenant (w.page * 65536) = .ok (big, leaf) ∧ s.missWait = [] ∧ w.reqs.Nodup ∧ w.squares.Nodup) ∧
    (∃ (a : RegF) (s s1 : State) (v : TVal), starts (.tlbi a) s = true ∧ Reads (doer (.tlbi a) s) a (begun s) v s1 ∧ bits v.val 15 7 = 0) ∧
    (∃ (n id c i : Nat) (v : Word) (s : State), s.tlbiOps[n]? = some (id, c, i, v)) ∧
    (∃ (n : Nat) (s : State) (m : PortMsg), s.ports[n]? = some m ∧ stopped s m.tenant = false ∧ (∀ p ∈ s.ports.take n, ¬(p.srcCore = m.srcCore ∧ p.core = m.core ∧ p.slot = m.slot ∧ p.queue = m.queue)) ∧ m.slot < (s.core (s.leadSlot m.core m.slot)).slots ∧ (s.ctx (s.leadSlot m.core m.slot) m.slot).state ≠ .free ∧ (s.ctx (s.leadSlot m.core m.slot) m.slot).tenant = m.tenant ∧ (SMap.get (s.ctx (s.leadSlot m.core m.slot) m.slot).rxq m.queue []).length + (s.ctx (s.leadSlot m.core m.slot) m.slot).lent m.queue < 8) ∧
    (∃ (n : Nat) (s : State) (m : PortMsg), s.ports[n]? = some m ∧ stopped s m.tenant = false ∧ (∀ p ∈ s.ports.take n, ¬(p.srcCore = m.srcCore ∧ p.core = m.core ∧ p.slot = m.slot ∧ p.queue = m.queue)) ∧ m.slot < (s.core (s.leadSlot m.core m.slot)).slots ∧ (s.ctx (s.leadSlot m.core m.slot) m.slot).state ≠ .free ∧ (s.ctx (s.leadSlot m.core m.slot) m.slot).tenant = m.tenant ∧ 8 ≤ (SMap.get (s.ctx (s.leadSlot m.core m.slot) m.slot).rxq m.queue []).length + (s.ctx (s.leadSlot m.core m.slot) m.slot).lent m.queue) ∧
    (∃ (n : Nat) (s : State) (m : PortMsg), s.ports[n]? = some m ∧ stopped s m.tenant = false ∧ (∀ p ∈ s.ports.take n, ¬(p.srcCore = m.srcCore ∧ p.core = m.core ∧ p.slot = m.slot ∧ p.queue = m.queue)) ∧ ((s.core (s.leadSlot m.core m.slot)).slots ≤ m.slot ∨ (s.ctx (s.leadSlot m.core m.slot) m.slot).state = .free ∨ (s.ctx (s.leadSlot m.core m.slot) m.slot).tenant ≠ m.tenant)) :=
  ⟨⟨0, 0, 0, { core := 0, slot := 0, pc := 0, tpc := 0, replay := none, word := 0 }, onCore (fun K => { K with tlb := [{ tenant := 0, page := 0, big := true, leaf := 0x3F }] }) (cpu (.add 5 6 7)), (onCore (fun K => { K with tlb := [{ tenant := 0, page := 0, big := true, leaf := 0x3F }] }) (cpu (.add 5 6 7))), 0x40, .ld, { tenant := 0, page := 0, big := true, leaf := 0x3F }, _, by decide +kernel, by decide +kernel, by decide +kernel, by decide +kernel, by decide +kernel, ok_of (by decide +kernel)⟩,
   ⟨{ core := 0, slot := 0, pc := 0, tpc := 0, replay := none, word := 0 }, cpu (.add 5 6 7), 0x50040, by decide +kernel, by decide +kernel⟩,
   ⟨0, { (tabs (onMe (fun X => { X with state := .parked, wait := some { list := 8, cond := .walk 0 } }) (cpu (.add 5 6 7)))) with walks := [{ tenant := 0, page := 0, die := 0, squares := [0], reqs := [.ctx 0 0] }] }, _, _, _, some_of (by decide +kernel), by decide +kernel, ok_of (by decide +kernel), by decide +kernel, by decide +kernel, by decide +kernel⟩,
   ⟨6, onReg 6 0x40 (cpu (.tlbi 6)), _, _, by decide +kernel, readReg_usable (by decide +kernel), by decide +kernel⟩,
   ⟨0, _, _, _, _, { (onCore (fun K => { K with tlb := [{ tenant := 0, page := 0, big := false, leaf := 0x3F }] }) (onMe (fun X => { X with state := .parked, wait := some { list := 8, cond := .tlbi 5 } }) (cpu (.add 5 6 7)))) with tlbiOps := [(5, 0, 0, 0x40)] }, some_of (by decide +kernel)⟩,
   ⟨0, { (cpu (.add 5 6 7)) with ports := [{ srcCore := 0, tenant := 0, core := 0, slot := 0, queue := 0, v := iv 1 }] }, _, some_of (by decide +kernel), by decide +kernel, by decide +kernel, by decide +kernel, by decide +kernel, by decide +kernel, by decide +kernel⟩,
   ⟨0, { (onMe (fun X => { X with rxq := [(0, List.replicate 8 (iv 1))] }) (cpu (.add 5 6 7))) with ports := [{ srcCore := 0, tenant := 0, core := 0, slot := 0, queue := 0, v := iv 1 }] }, _, some_of (by decide +kernel), by decide +kernel, by decide +kernel, by decide +kernel, by decide +kernel, by decide +kernel, by decide +kernel⟩,
   ⟨0, { (cpu (.add 5 6 7)) with ports := [{ srcCore := 0, tenant := 0, core := 1, slot := 1, queue := 0, v := iv 1 }] }, _, some_of (by decide +kernel), by decide +kernel, by decide +kernel, by decide +kernel⟩⟩

theorem meets_Launching :
    (∃ (q tn : Nat) (s u : State) (p : List Word) (old : List (Nat × Word × Nat)), queueTenant s q = some tn ∧ (s.slot q (SMap.get s.disp.qnext q 0)).full = true ∧ s.readSlot (s.slot q (SMap.get s.disp.qnext q 0)) = (p, old, u) ∧ u.storeCount < 4096 ∧ launchRingUsed u tn = false ∧ p[8]? = none) ∧
    (∃ (q tn : Nat) (s u : State) (p : List Word) (old : List (Nat × Word × Nat)) (w : _), queueTenant s q = some tn ∧ (s.slot q (SMap.get s.disp.qnext q 0)).full = true ∧ s.readSlot (s.slot q (SMap.get s.disp.qnext q 0)) = (p, old, u) ∧ u.storeCount < 4096 ∧ launchRingUsed u tn = false ∧ p[8]? = some w) ∧
    (∃ (q tn : Nat) (s u : State) (p : List Word) (old : List (Nat × Word × Nat)) (d : _) (v : _), queueTenant s q = some tn ∧ (s.slot q (SMap.get s.disp.qnext q 0)).full = true ∧ s.readSlot (s.slot q (SMap.get s.disp.qnext q 0)) = (p, old, u) ∧ (4096 ≤ u.storeCount ∨ launchRingUsed u tn = true) ∧ u.part? tn = some d ∧ ringAppend u tn (d.word 4) (d.word 5) (p.take 8) (w64 q) (u.chan (.slot q (SMap.get s.disp.qnext q 0))) = some v) ∧
    (∃ (q tn : Nat) (s u : State) (p : List Word) (old : List (Nat × Word × Nat)) (d : _), queueTenant s q = some tn ∧ (s.slot q (SMap.get s.disp.qnext q 0)).full = true ∧ s.readSlot (s.slot q (SMap.get s.disp.qnext q 0)) = (p, old, u) ∧ 4096 ≤ u.storeCount ∧ u.part? tn = some d ∧ ringAppend u tn (d.word 4) (d.word 5) (p.take 8) (w64 q) (u.chan (.slot q (SMap.get s.disp.qnext q 0))) = none ∧ tn ∉ u.disp.full) ∧
    (∃ (q : Nat) (h : Word) (s : State) (p : List Word), queueCheck s q p = some h) ∧
    (∃ (q : Nat) (s : State) (p : List Word), queueCheck s q p = none ∧ pkDone p = 0 ∧ (∀ r ∈ s.disp.runs, r.uid ≠ s.nextId)) ∧
    (∃ (tn : Nat) (s u : State) (d : Machine.Part) (p : List Word) (x : Word), s.part? tn = some d ∧ s.storeCount < 4096 ∧ ringHead s tn (d.word 4) (d.word 5) = some (p, x) ∧ p.length = 8 ∧ restAt s tn (((ringCounts s tn (d.word 4)).getD (0, 0)).2.toNat) = none ∧ ringTake (enterStore (setRest s tn (((ringCounts s tn (d.word 4)).getD (0, 0)).2.toNat) none) (bits x 5 0) p (ringFront s tn (d.word 4))) tn (d.word 4) = some u) ∧
    (∃ (tn : Nat) (s u : State) (d : Machine.Part) (p : List Word) (x : Word) (r : _), s.part? tn = some d ∧ s.storeCount < 4096 ∧ ringHead s tn (d.word 4) (d.word 5) = some (p, x) ∧ p.length = 8 ∧ restAt s tn (((ringCounts s tn (d.word 4)).getD (0, 0)).2.toNat) = some r ∧ r < 2 ^ 64 ∧ ringTake (({ (setRest s tn (((ringCounts s tn (d.word 4)).getD (0, 0)).2.toNat) none) with nextId := (setRest s tn (((ringCounts s tn (d.word 4)).getD (0, 0)).2.toNat) none).nextId + 1 } : State).modRun r (fun y => { y with inStore := true, age := (setRest s tn (((ringCounts s tn (d.word 4)).getD (0, 0)).2.toNat) none).nextId })) tn (d.word 4) = some u) ∧
    (∃ (n : Nat) (s : State) (r : Run) (v : _), s.run? n = some r ∧ r.ready = false ∧ r.outcome = none ∧ depFull s r.packet = some v) ∧
    (∃ (n : Nat) (s : State) (r : Run), s.run? n = some r ∧ r.ready = false ∧ r.outcome = none ∧ depFull s r.packet = none) :=
  ⟨⟨0, _, (State.setLaunchSlot ((State.modDisp (tabs State.reset) (fun D => { D with parts := [{ tenant := 0, words := [0x100000, 0, 0, 0, 0, 0, 0, 0xFFFFFFFFFFFFFFFF] }] }))) 0 0 ([0x400, 0, 2 ^ 12 + 2 ^ 19 + 2 ^ 54, 1, 0, 0, 0, 0], true)), ((State.setLaunchSlot ((State.modDisp (tabs State.reset) (fun D => { D with parts := [{ tenant := 0, words := [0x100000, 0, 0, 0, 0, 0, 0, 0xFFFFFFFFFFFFFFFF] }] }))) 0 0 ([0x400, 0, 2 ^ 12 + 2 ^ 19 + 2 ^ 54, 1, 0, 0, 0, 0], true))), (((State.setLaunchSlot ((State.modDisp (tabs State.reset) (fun D => { D with parts := [{ tenant := 0, words := [0x100000, 0, 0, 0, 0, 0, 0, 0xFFFFFFFFFFFFFFFF] }] }))) 0 0 ([0x400, 0, 2 ^ 12 + 2 ^ 19 + 2 ^ 54, 1, 0, 0, 0, 0], true))).launchSlot (0) 0).1, [], some_of (by decide +kernel), by decide +kernel, rfl, by decide +kernel, by decide +kernel, by decide +kernel⟩,
   ⟨0, _, (State.modDisp ((State.setLaunchSlot ((State.modDisp (tabs State.reset) (fun D => { D with parts := [{ tenant := 0, words := [0x100000, 0, 0, 0, 0, 0, 0, 0xFFFFFFFFFFFFFFFF] }] }))) 0 0 ([0x400, 0, 2 ^ 12 + 2 ^ 19 + 2 ^ 54, 1, 0, 0, 0, 0, 3], true))) (fun D => { D with runs := [{ uid := 3, runId := 0, tenant := 0, packet := [0x400, 0, 2 ^ 12 + 2 ^ 19 + 2 ^ 54, 1, 0, 0, 0, 0], queue := 0, age := 0, sup := false, header := 0, ready := true, inStore := false, next := 0, count := 1, ended := 0, aborts := 0, tiles := 0, pools := [], carry := [], abortedItems := [], snap := none, fails := 0, blocked := false, outcome := none }] })), ((State.modDisp ((State.setLaunchSlot ((State.modDisp (tabs State.reset) (fun D => { D with parts := [{ tenant := 0, words := [0x100000, 0, 0, 0, 0, 0, 0, 0xFFFFFFFFFFFFFFFF] }] }))) 0 0 ([0x400, 0, 2 ^ 12 + 2 ^ 19 + 2 ^ 54, 1, 0, 0, 0, 0, 3], true))) (fun D => { D with runs := [{ uid := 3, runId := 0, tenant := 0, packet := [0x400, 0, 2 ^ 12 + 2 ^ 19 + 2 ^ 54, 1, 0, 0, 0, 0], queue := 0, age := 0, sup := false, header := 0, ready := true, inStore := false, next := 0, count := 1, ended := 0, aborts := 0, tiles := 0, pools := [], carry := [], abortedItems := [], snap := none, fails := 0, blocked := false, outcome := none }] }))), [0x400, 0, 2 ^ 12 + 2 ^ 19 + 2 ^ 54, 1, 0, 0, 0, 0, 3], [], _, some_of (by decide +kernel), by decide +kernel, rfl, by decide +kernel, by decide +kernel, some_of (by decide +kernel)⟩,
   ⟨0, _, (State.setLaunchSlot (put8 0x1000 1 ((State.modDisp (put8 0x300000 0x3F (tabs State.reset)) (fun D => { D with parts := [{ tenant := 0, words := [0x100000, 0, 0, 0, 0x1000, 4, 0, 0xFFFFFFFFFFFFFFFF] }] })))) 0 0 ([0x400, 0, 2 ^ 12 + 2 ^ 19 + 2 ^ 54, 1, 0, 0, 0, 0], true)), ((State.setLaunchSlot (put8 0x1000 1 ((State.modDisp (put8 0x300000 0x3F (tabs State.reset)) (fun D => { D with parts := [{ tenant := 0, words := [0x100000, 0, 0, 0, 0x1000, 4, 0, 0xFFFFFFFFFFFFFFFF] }] })))) 0 0 ([0x400, 0, 2 ^ 12 + 2 ^ 19 + 2 ^ 54, 1, 0, 0, 0, 0], true))), (((State.setLaunchSlot (put8 0x1000 1 ((State.modDisp (put8 0x300000 0x3F (tabs State.reset)) (fun D => { D with parts := [{ tenant := 0, words := [0x100000, 0, 0, 0, 0x1000, 4, 0, 0xFFFFFFFFFFFFFFFF] }] })))) 0 0 ([0x400, 0, 2 ^ 12 + 2 ^ 19 + 2 ^ 54, 1, 0, 0, 0, 0], true))).launchSlot (0) 0).1, [], _, _, some_of (by decide +kernel), by decide +kernel, rfl, by decide +kernel, some_of (by decide +kernel), some_of (by decide +kernel)⟩,
   ⟨0, _, (State.setLaunchSlot ((fun (S : State) => S.modDisp (fun D => { D with runs := (List.range 4096).map (fun k => { ({ uid := 3, runId := 0, tenant := 0, packet := [0x400, 0, 2 ^ 12 + 2 ^ 19 + 2 ^ 54, 1, 0, 0, 0, 0], queue := 0, age := 0, sup := false, header := 0, ready := true, inStore := true, next := 0, count := 1, ended := 0, aborts := 0, tiles := 0, pools := [], carry := [], abortedItems := [], snap := none, fails := 0, blocked := false, outcome := none } : Run) with uid := 10 + k }) })) ((State.modDisp (tabs State.reset) (fun D => { D with parts := [{ tenant := 0, words := [0x100000, 0, 0, 0, 0, 0, 0, 0xFFFFFFFFFFFFFFFF] }] })))) 0 0 ([0x400, 0, 2 ^ 12 + 2 ^ 19 + 2 ^ 54, 1, 0, 0, 0, 0], true)), ((State.setLaunchSlot ((fun (S : State) => S.modDisp (fun D => { D with runs := (List.range 4096).map (fun k => { ({ uid := 3, runId := 0, tenant := 0, packet := [0x400, 0, 2 ^ 12 + 2 ^ 19 + 2 ^ 54, 1, 0, 0, 0, 0], queue := 0, age := 0, sup := false, header := 0, ready := true, inStore := true, next := 0, count := 1, ended := 0, aborts := 0, tiles := 0, pools := [], carry := [], abortedItems := [], snap := none, fails := 0, blocked := false, outcome := none } : Run) with uid := 10 + k }) })) ((State.modDisp (tabs State.reset) (fun D => { D with parts := [{ tenant := 0, words := [0x100000, 0, 0, 0, 0, 0, 0, 0xFFFFFFFFFFFFFFFF] }] })))) 0 0 ([0x400, 0, 2 ^ 12 + 2 ^ 19 + 2 ^ 54, 1, 0, 0, 0, 0], true))), (((State.setLaunchSlot ((fun (S : State) => S.modDisp (fun D => { D with runs := (List.range 4096).map (fun k => { ({ uid := 3, runId := 0, tenant := 0, packet := [0x400, 0, 2 ^ 12 + 2 ^ 19 + 2 ^ 54, 1, 0, 0, 0, 0], queue := 0, age := 0, sup := false, header := 0, ready := true, inStore := true, next := 0, count := 1, ended := 0, aborts := 0, tiles := 0, pools := [], carry := [], abortedItems := [], snap := none, fails := 0, blocked := false, outcome := none } : Run) with uid := 10 + k }) })) ((State.modDisp (tabs State.reset) (fun D => { D with parts := [{ tenant := 0, words := [0x100000, 0, 0, 0, 0, 0, 0, 0xFFFFFFFFFFFFFFFF] }] })))) 0 0 ([0x400, 0, 2 ^ 12 + 2 ^ 19 + 2 ^ 54, 1, 0, 0, 0, 0], true))).launchSlot (0) 0).1, [], _, some_of (by decide +kernel), by decide +kernel, rfl, by decide +kernel, some_of (by decide +kernel), by decide +kernel, by decide +kernel⟩,
   ⟨0, _, (State.modDisp (tabs State.reset) (fun D => { D with parts := [{ tenant := 0, words := [0x100000, 0, 0, 0, 0, 0, 0, 0xFFFFFFFFFFFFFFFF] }] })), [0x400, 0, 2 ^ 12 + 2 ^ 19 + 2 ^ 54, 1, 0, 0, 0, 0], some_of (by decide +kernel)⟩,
   ⟨0, (State.modDisp (tabs State.reset) (fun D => { D with parts := [{ tenant := 0, words := [0x100000, 0, 0, 0, 0, 0, 0, 0xFFFFFFFFFFFFFFFF] }] })), [0x400, 0, 0, 1, 0, 0, 0, 0], by decide +kernel, by decide +kernel, by decide +kernel⟩,
   ⟨0, put8 0x1000 1 ((State.modDisp (tabs State.reset) (fun D => { D with parts := [{ tenant := 0, words := [0x100000, 0, 0, 0, 0x1000, 4, 0, 0xFFFFFFFFFFFFFFFF] }] }))), _, _, _, _, some_of (by decide +kernel), by decide +kernel, some2_of (by decide +kernel), by decide +kernel, by decide +kernel, some_of (by decide +kernel)⟩,
   ⟨0, (fun S : State => setRest S 0 0 (some 3)) (put8 0x1040 (0x400) (put8 0x1048 (0) (put8 0x1050 (2 ^ 12 + 2 ^ 19 + 2 ^ 54) (put8 0x1058 (1) (put8 0x1000 1 ((State.modDisp ((State.modDisp (tabs State.reset) (fun D => { D with parts := [{ tenant := 0, words := [0x100000, 0, 0, 0, 0x1000, 4, 0, 0xFFFFFFFFFFFFFFFF] }] }))) (fun D => { D with runs := [{ uid := 3, runId := 0, tenant := 0, packet := [0x400, 0, 2 ^ 12 + 2 ^ 19 + 2 ^ 54, 1, 0, 0, 0, 0], queue := 0, age := 0, sup := false, header := 0, ready := true, inStore := false, next := 0, count := 1, ended := 0, aborts := 0, tiles := 0, pools := [], carry := [], abortedItems := [], snap := none, fails := 0, blocked := false, outcome := none }] })))))))), _, _, _, _, _, some_of (by decide +kernel), by decide +kernel, some2_of (by decide +kernel), by decide +kernel, some_of (by decide +kernel), by decide +kernel, some_of (by decide +kernel)⟩,
   ⟨3, (State.modDisp (onCore (fun K => { K with regions := [{ off := 0, len := 1024, trap := false, gen := 9, gang := 0, tenant := 0, retired := false }] }) (onCore (fun K => K.lsWriteFe 9 0x40 0x7 true) (cpu (.add 5 6 7)))) (fun D => { D with runs := [{ uid := 3, runId := 0, tenant := 0, packet := [0x400, 0, 2 ^ 12 + 2 ^ 19 + 2 ^ 54, 1, 0, 0xF200000000000040, 0, 0], queue := 0, age := 0, sup := false, header := 0, ready := false, inStore := true, next := 0, count := 1, ended := 0, aborts := 0, tiles := 0, pools := [], carry := [], abortedItems := [], snap := none, fails := 0, blocked := false, outcome := none }] })), _, _, some_of (by decide +kernel), by decide +kernel, by decide +kernel, some_of (by decide +kernel)⟩,
   ⟨3, (State.modDisp (cpu (.add 5 6 7)) (fun D => { D with runs := [{ uid := 3, runId := 0, tenant := 0, packet := [0x400, 0, 2 ^ 12 + 2 ^ 19 + 2 ^ 54, 1, 0, 0xF200000000000040, 0, 0], queue := 0, age := 0, sup := false, header := 0, ready := false, inStore := true, next := 0, count := 1, ended := 0, aborts := 0, tiles := 0, pools := [], carry := [], abortedItems := [], snap := none, fails := 0, blocked := false, outcome := none }] })), _, some_of (by decide +kernel), by decide +kernel, by decide +kernel, by decide +kernel⟩⟩

theorem meets_Placement :
    (∃ (tn : Nat) (s : State) (r : Run) (d : Machine.Part), waiting s tn = [r] ∧ stopped s tn = false ∧ s.part? tn = some d ∧ (s.host.tele.powerHold || s.host.tele.tempHold) = true) ∧
    (∃ (tn : Nat) (s : State) (r : Run) (d : Machine.Part) (o : _) (v : _), waiting s tn = [r] ∧ stopped s tn = false ∧ s.part? tn = some d ∧ (s.host.tele.powerHold || s.host.tele.tempHold) = false ∧ stalledPlace (s.modDisp (fun d => { d with decisions := SMap.put d.decisions 0 tn (SMap.get s.disp.decisions tn 0 + 1) })) tn = none ∧ findOrigin s r = some o ∧ placeGang ((s.modDisp (fun d => { d with decisions := SMap.put d.decisions 0 tn (SMap.get s.disp.decisions tn 0 + 1) })).modDisp (fun d => { d with placing := d.placing.filter (fun p => p.1 != tn) })) r o = some v) ∧
    (∃ (tn : Nat) (s : State) (r : Run) (d : Machine.Part) (o : _), waiting s tn = [r] ∧ stopped s tn = false ∧ s.part? tn = some d ∧ (s.host.tele.powerHold || s.host.tele.tempHold) = false ∧ stalledPlace (s.modDisp (fun d => { d with decisions := SMap.put d.decisions 0 tn (SMap.get s.disp.decisions tn 0 + 1) })) tn = none ∧ findOrigin s r = some o ∧ placeGang ((s.modDisp (fun d => { d with decisions := SMap.put d.decisions 0 tn (SMap.get s.disp.decisions tn 0 + 1) })).modDisp (fun d => { d with placing := d.placing.filter (fun p => p.1 != tn) })) r o = none) ∧
    (∃ (tn : Nat) (s : State) (r : Run) (d : Machine.Part), waiting s tn = [r] ∧ stopped s tn = false ∧ s.part? tn = some d ∧ (s.host.tele.powerHold || s.host.tele.tempHold) = false ∧ stalledPlace (s.modDisp (fun d => { d with decisions := SMap.put d.decisions 0 tn (SMap.get s.disp.decisions tn 0 + 1) })) tn = none ∧ findOrigin s r = none) ∧
    (∃ (tn : Nat) (s : State) (r : Run) (d : Machine.Part) (o : _) (v : _), waiting s tn = [r] ∧ stopped s tn = false ∧ s.part? tn = some d ∧ (s.host.tele.powerHold || s.host.tele.tempHold) = false ∧ stalledPlace (s.modDisp (fun d => { d with decisions := SMap.put d.decisions 0 tn (SMap.get s.disp.decisions tn 0 + 1) })) tn = some (r, o) ∧ placeGang (s.modDisp (fun d => { d with decisions := SMap.put d.decisions 0 tn (SMap.get s.disp.decisions tn 0 + 1) })) r o = some v) ∧
    (∃ (tn : Nat) (s : State) (r : Run) (d : Machine.Part) (o : _), waiting s tn = [r] ∧ stopped s tn = false ∧ s.part? tn = some d ∧ (s.host.tele.powerHold || s.host.tele.tempHold) = false ∧ stalledPlace (s.modDisp (fun d => { d with decisions := SMap.put d.decisions 0 tn (SMap.get s.disp.decisions tn 0 + 1) })) tn = some (r, o) ∧ placeGang (s.modDisp (fun d => { d with decisions := SMap.put d.decisions 0 tn (SMap.get s.disp.decisions tn 0 + 1) })) r o = none) ∧
    (∃ (o : Nat) (s u : State) (r : Run), placeGang s r o = some u) ∧
    (∃ (s u : State) (r : Run) (g c i w index col row rank uid : Nat) (pin : Pin) (gen : BitVec 16), u = placeCtx s c i (gangCtx s r g index col row rank pin false uid gen w)) ∧
    (∃ (s u : State) (r : Run) (g c i w index col row rank uid : Nat) (pin : Pin) (gen : BitVec 16), u = placeCtx s c i (gangCtx s r g index col row rank pin false uid gen w) ∧ pkImage r.packet = 0) ∧
    (∃ (s u : State) (r : Run) (g c i w index col row rank uid : Nat) (pin : Pin) (gen : BitVec 16), u = placeCtx s c i (gangCtx s r g index col row rank pin false uid gen w) ∧ pkImage r.packet ≠ 0) ∧
    (∃ (n : Nat) (s : State) (r : Run), s.run? n = some r ∧ 4096 ≤ r.fails) ∧
    (∃ (g : Nat) (s : State) (y : Gang) (m : _) (l : _), s.gang? g = some y ∧ y.filling = true ∧ stopped s y.tenant = false ∧ (s.run? y.run).bind (readFill s) = some (m, l)) ∧
    (∃ (g : Nat) (s : State) (y : Gang), s.gang? g = some y ∧ y.filling = true ∧ stopped s y.tenant = false ∧ (s.run? y.run).bind (readFill s) = none) ∧
    (∃ (s : State) (c i : Nat) (x : Ctx), x.landing = false ∧ (s.ctx c i).held = []) ∧
    (∃ (g : Nat) (s : State) (y : Gang), s.gang? g = some y ∧ canRetire s y = true) :=
  ⟨⟨0, (fun (S : State) => S.modHost (fun h => { h with tele := { h.tele with temp := [(0, 380)] } })) ((State.modDisp ((State.modDisp (tabs State.reset) (fun D => { D with parts := [{ tenant := 0, words := [0x100000, 0, 0, 0, 0, 0, 0, 0xFFFFFFFFFFFFFFFF] }] }))) (fun D => { D with runs := [{ uid := 3, runId := 0, tenant := 0, packet := [0x400, 0, 2 ^ 12 + 2 ^ 19 + 2 ^ 54, 1, 0, 0, 0, 0], queue := 0, age := 0, sup := false, header := 0, ready := true, inStore := true, next := 0, count := 1, ended := 0, aborts := 0, tiles := 0, pools := [], carry := [], abortedItems := [], snap := none, fails := 0, blocked := false, outcome := none }] }))), _, _, single_of (by decide +kernel), by decide +kernel, some_of (by decide +kernel), by decide +kernel⟩,
   ⟨0, (State.modDisp ((State.modDisp (tabs State.reset) (fun D => { D with parts := [{ tenant := 0, words := [0x100000, 0, 0, 0, 0, 0, 0, 0xFFFFFFFFFFFFFFFF] }] }))) (fun D => { D with runs := [{ uid := 3, runId := 0, tenant := 0, packet := [0x400, 0, 2 ^ 12 + 2 ^ 19 + 2 ^ 54, 1, 0, 0, 0, 0], queue := 0, age := 0, sup := false, header := 0, ready := true, inStore := true, next := 0, count := 1, ended := 0, aborts := 0, tiles := 0, pools := [], carry := [], abortedItems := [], snap := none, fails := 0, blocked := false, outcome := none }] })), _, _, _, _, single_of (by decide +kernel), by decide +kernel, some_of (by decide +kernel), by decide +kernel, by decide +kernel, some_of (by decide +kernel), some_of (by decide +kernel)⟩,
   ⟨0, onCore (fun K => { K with fold := [.fold] }) ((State.modDisp ((State.modDisp (tabs State.reset) (fun D => { D with parts := [{ tenant := 0, words := [0x100000, 0, 0, 0, 0, 0, 0, 0xFFFFFFFFFFFFFFFF] }] }))) (fun D => { D with runs := [{ uid := 3, runId := 0, tenant := 0, packet := [0x400, 0, 2 ^ 12 + 2 ^ 19 + 2 ^ 54, 1, 0, 0, 0, 0], queue := 0, age := 0, sup := false, header := 0, ready := true, inStore := true, next := 0, count := 1, ended := 0, aborts := 0, tiles := 0, pools := [], carry := [], abortedItems := [], snap := none, fails := 0, blocked := false, outcome := none }] }))), _, _, _, single_of (by decide +kernel), by decide +kernel, some_of (by decide +kernel), by decide +kernel, by decide +kernel, some_of (by decide +kernel), by decide +kernel⟩,
   ⟨0, (State.modDisp ((State.modDisp (tabs State.reset) (fun D => { D with parts := [{ tenant := 0, words := [0x100000, 0, 0, 0, 0, 0, 0, 0xFFFFFFFFFFFFFFFF] }] }))) (fun D => { D with runs := [{ uid := 3, runId := 0, tenant := 0, packet := [0x400, 0, 60 + 2 ^ 12 + 2 ^ 19 + 2 ^ 54, 1, 0, 0, 0, 0], queue := 0, age := 0, sup := false, header := 0, ready := true, inStore := true, next := 0, count := 1, ended := 0, aborts := 0, tiles := 0, pools := [], carry := [], abortedItems := [], snap := none, fails := 0, blocked := false, outcome := none }] })), _, _, single_of (by decide +kernel), by decide +kernel, some_of (by decide +kernel), by decide +kernel, by decide +kernel, by decide +kernel⟩,
   ⟨0, (State.modDisp ((State.modDisp ((State.modDisp (tabs State.reset) (fun D => { D with parts := [{ tenant := 0, words := [0x100000, 0, 0, 0, 0, 0, 0, 0xFFFFFFFFFFFFFFFF] }] }))) (fun D => { D with runs := [{ uid := 3, runId := 0, tenant := 0, packet := [0x400, 0, 2 ^ 12 + 2 ^ 19 + 2 ^ 54, 1, 0, 0, 0, 0], queue := 0, age := 0, sup := false, header := 0, ready := true, inStore := true, next := 0, count := 1, ended := 0, aborts := 0, tiles := 0, pools := [], carry := [], abortedItems := [], snap := none, fails := 0, blocked := false, outcome := none }] }))) (fun D => { D with placing := [(0, 3, 0)] })), _, _, 0, _, single_of (by decide +kernel), by decide +kernel, some_of (by decide +kernel), by decide +kernel, by decide +kernel, some_of (by decide +kernel)⟩,
   ⟨0, onCore (fun K => { K with fold := [.fold] }) ((State.modDisp ((State.modDisp ((State.modDisp (tabs State.reset) (fun D => { D with parts := [{ tenant := 0, words := [0x100000, 0, 0, 0, 0, 0, 0, 0xFFFFFFFFFFFFFFFF] }] }))) (fun D => { D with runs := [{ uid := 3, runId := 0, tenant := 0, packet := [0x400, 0, 2 ^ 12 + 2 ^ 19 + 2 ^ 54, 1, 0, 0, 0, 0], queue := 0, age := 0, sup := false, header := 0, ready := true, inStore := true, next := 0, count := 1, ended := 0, aborts := 0, tiles := 0, pools := [], carry := [], abortedItems := [], snap := none, fails := 0, blocked := false, outcome := none }] }))) (fun D => { D with placing := [(0, 3, 0)] }))), _, _, 0, single_of (by decide +kernel), by decide +kernel, some_of (by decide +kernel), by decide +kernel, by decide +kernel, by decide +kernel⟩,
   ⟨0, (State.modDisp ((State.modDisp (tabs State.reset) (fun D => { D with parts := [{ tenant := 0, words := [0x100000, 0, 0, 0, 0, 0, 0, 0xFFFFFFFFFFFFFFFF] }] }))) (fun D => { D with runs := [{ uid := 3, runId := 0, tenant := 0, packet := [0x400, 0, 2 ^ 12 + 2 ^ 19 + 2 ^ 54, 1, 0, 0, 0, 0], queue := 0, age := 0, sup := false, header := 0, ready := true, inStore := true, next := 0, count := 1, ended := 0, aborts := 0, tiles := 0, pools := [], carry := [], abortedItems := [], snap := none, fails := 0, blocked := false, outcome := none }] })), _, { uid := 3, runId := 0, tenant := 0, packet := [0x400, 0, 2 ^ 12 + 2 ^ 19 + 2 ^ 54, 1, 0, 0, 0, 0], queue := 0, age := 0, sup := false, header := 0, ready := true, inStore := true, next := 0, count := 1, ended := 0, aborts := 0, tiles := 0, pools := [], carry := [], abortedItems := [], snap := none, fails := 0, blocked := false, outcome := none }, some_of (by decide +kernel)⟩,
   ⟨tabs State.reset, placeCtx (tabs State.reset) (0) (0) (gangCtx (tabs State.reset) ({ uid := 3, runId := 0, tenant := 0, packet := [0x400, 0, 2 ^ 12 + 2 ^ 19 + 2 ^ 54, 1, 0, 0, 0, 0], queue := 0, age := 0, sup := false, header := 0, ready := true, inStore := true, next := 0, count := 1, ended := 0, aborts := 0, tiles := 0, pools := [], carry := [], abortedItems := [], snap := none, fails := 0, blocked := false, outcome := none }) (4) (2) (1) (1) (3) (.gen) false (7) (5) (8)), { uid := 3, runId := 0, tenant := 0, packet := [0x400, 0, 2 ^ 12 + 2 ^ 19 + 2 ^ 54, 1, 0, 0, 0, 0], queue := 0, age := 0, sup := false, header := 0, ready := true, inStore := true, next := 0, count := 1, ended := 0, aborts := 0, tiles := 0, pools := [], carry := [], abortedItems := [], snap := none, fails := 0, blocked := false, outcome := none }, 4, 0, 0, 8, 2, 1, 1, 3, 7, .gen, 5, by decide +kernel⟩,
   ⟨tabs State.reset, placeCtx (tabs State.reset) (0) (0) (gangCtx (tabs State.reset) ({ uid := 3, runId := 0, tenant := 0, packet := [0x400, 0, 2 ^ 12 + 2 ^ 19 + 2 ^ 54, 1, 0, 0, 0, 0], queue := 0, age := 0, sup := false, header := 0, ready := true, inStore := true, next := 0, count := 1, ended := 0, aborts := 0, tiles := 0, pools := [], carry := [], abortedItems := [], snap := none, fails := 0, blocked := false, outcome := none }) (4) (2) (1) (1) (3) (.gen) false (7) (5) (8)), { uid := 3, runId := 0, tenant := 0, packet := [0x400, 0, 2 ^ 12 + 2 ^ 19 + 2 ^ 54, 1, 0, 0, 0, 0], queue := 0, age := 0, sup := false, header := 0, ready := true, inStore := true, next := 0, count := 1, ended := 0, aborts := 0, tiles := 0, pools := [], carry := [], abortedItems := [], snap := none, fails := 0, blocked := false, outcome := none }, 4, 0, 0, 8, 2, 1, 1, 3, 7, .gen, 5, by decide +kernel, by decide +kernel⟩,
   ⟨tabs State.reset, placeCtx (tabs State.reset) (0) (0) (gangCtx (tabs State.reset) ({ uid := 3, runId := 0, tenant := 0, packet := [0x400, 0x500, 2 ^ 12 + 2 ^ 19 + 2 ^ 54, 1, 0, 0, 0, 0], queue := 0, age := 0, sup := false, header := 0, ready := true, inStore := true, next := 0, count := 1, ended := 0, aborts := 0, tiles := 0, pools := [], carry := [], abortedItems := [], snap := none, fails := 0, blocked := false, outcome := none }) (4) (2) (1) (1) (3) (.gen) false (7) (5) (8)), { uid := 3, runId := 0, tenant := 0, packet := [0x400, 0x500, 2 ^ 12 + 2 ^ 19 + 2 ^ 54, 1, 0, 0, 0, 0], queue := 0, age := 0, sup := false, header := 0, ready := true, inStore := true, next := 0, count := 1, ended := 0, aborts := 0, tiles := 0, pools := [], carry := [], abortedItems := [], snap := none, fails := 0, blocked := false, outcome := none }, 4, 0, 0, 8, 2, 1, 1, 3, 7, .gen, 5, by decide +kernel, by decide +kernel⟩,
   ⟨3, (State.modDisp ((State.modDisp (tabs State.reset) (fun D => { D with parts := [{ tenant := 0, words := [0x100000, 0, 0, 0, 0, 0, 0, 0xFFFFFFFFFFFFFFFF] }] }))) (fun D => { D with runs := [{ uid := 3, runId := 0, tenant := 0, packet := [0x400, 0, 2 ^ 12 + 2 ^ 19 + 2 ^ 54, 1, 0, 0, 0, 0], queue := 0, age := 0, sup := false, header := 0, ready := true, inStore := true, next := 0, count := 1, ended := 0, aborts := 0, tiles := 0, pools := [], carry := [], abortedItems := [], snap := none, fails := 4096, blocked := false, outcome := none }] })), _, some_of (by decide +kernel), by decide +kernel⟩,
   ⟨4, put8 0x508 0x77 ((State.modDisp ((State.modDisp ((State.modDisp (tabs (onMe (fun X => { X with state := .filling, gang := some 4 }) (cpu (.add 5 6 7)))) (fun D => { D with parts := [{ tenant := 0, words := [0x100000, 0, 0, 0, 0, 0, 0, 0xFFFFFFFFFFFFFFFF] }] }))) (fun D => { D with runs := [{ uid := 3, runId := 0, tenant := 0, packet := [0x400, 0x500, 2 ^ 12 + 2 ^ 19 + 2 ^ 54, 1, 0, 0, 0, 0], queue := 0, age := 0, sup := false, header := 1 + 2 * 128, ready := true, inStore := true, next := 0, count := 1, ended := 0, aborts := 0, tiles := 0, pools := [], carry := [], abortedItems := [], snap := none, fails := 0, blocked := false, outcome := none }] }))) (fun D => { D with gangs := [{ uid := 4, run := 3, index := 0, tenant := 0, origin := 0, w := 1, h := 1, lock := false, chain := false, sup := false, filling := true, bars := [], lastEnd := none, lastChain := none, aborted := false }] }))), _, _, _, some_of (by decide +kernel), by decide +kernel, by decide +kernel, some2_of (by decide +kernel)⟩,
   ⟨4, (State.modDisp ((State.modDisp ((State.modDisp (onMe (fun X => { X with state := .filling, gang := some 4 }) (cpu (.add 5 6 7))) (fun D => { D with parts := [{ tenant := 0, words := [0x100000, 0, 0, 0, 0, 0, 0, 0xFFFFFFFFFFFFFFFF] }] }))) (fun D => { D with runs := [{ uid := 3, runId := 0, tenant := 0, packet := [0x400, 0x500, 2 ^ 12 + 2 ^ 19 + 2 ^ 54, 1, 0, 0, 0, 0], queue := 0, age := 0, sup := false, header := 0, ready := true, inStore := true, next := 0, count := 1, ended := 0, aborts := 0, tiles := 0, pools := [], carry := [], abortedItems := [], snap := none, fails := 0, blocked := false, outcome := none }] }))) (fun D => { D with gangs := [{ uid := 4, run := 3, index := 0, tenant := 0, origin := 0, w := 1, h := 1, lock := false, chain := false, sup := false, filling := true, bars := [], lastEnd := none, lastChain := none, aborted := false }] })), _, some_of (by decide +kernel), by decide +kernel, by decide +kernel, by decide +kernel⟩,
   ⟨onMe (fun X => { X with state := .filling, gang := some 4 }) (cpu (.add 5 6 7)), 0, 0, (onMe (fun X => { X with state := .filling, gang := some 4 }) (cpu (.add 5 6 7))).ctx 0 0, by decide +kernel, by decide +kernel⟩,
   ⟨4, (State.modDisp ((State.modDisp ((State.modDisp (onMe (fun X => { X with state := .idleLanding, landing := true, gang := some 4 }) (cpu (.add 5 6 7))) (fun D => { D with parts := [{ tenant := 0, words := [0x100000, 0, 0, 0, 0, 0, 0, 0xFFFFFFFFFFFFFFFF] }] }))) (fun D => { D with runs := [{ uid := 3, runId := 0, tenant := 0, packet := [0x400, 0, 2 ^ 12 + 2 ^ 19 + 2 ^ 54, 1, 0, 0, 0, 0], queue := 0, age := 0, sup := false, header := 0, ready := true, inStore := true, next := 0, count := 1, ended := 0, aborts := 0, tiles := 0, pools := [], carry := [], abortedItems := [], snap := none, fails := 0, blocked := false, outcome := none }] }))) (fun D => { D with gangs := [{ uid := 4, run := 3, index := 0, tenant := 0, origin := 0, w := 1, h := 1, lock := false, chain := false, sup := false, filling := false, bars := [], lastEnd := none, lastChain := none, aborted := false }] })), _, some_of (by decide +kernel), by decide +kernel⟩⟩

theorem meets_RunEnds :
    (∃ (n : Nat) (s : State) (r : Run), s.run? n = some r ∧ runEnded s r = true ∧ r.aborts ≠ 0) ∧
    (∃ (n : Nat) (s : State) (r : Run), s.run? n = some r ∧ runEnded s r = true ∧ r.aborts = 0 ∧ pkStrm r.packet = false) ∧
    (∃ (n : Nat) (s : State) (r : Run), s.run? n = some r ∧ runEnded s r = true ∧ r.aborts = 0 ∧ pkStrm r.packet = true) ∧
    (∃ (s s1 : State) (r : Run) (base w1 : Word) (old : List TVal) (o : Option Word) (p : _), sysRead s r.tenant (streamEntry s r) = some base ∧ sysRead s r.tenant ((streamEntry s r) + 8) = some w1 ∧ r.snap = some old ∧ sysStores r.tenant (backWrites r old base) s = (s1, o) ∧ o = some p) ∧
    (∃ (s s1 : State) (r : Run) (base w1 : Word) (old : List TVal) (o : Option Word) (pl : _), sysRead s r.tenant (streamEntry s r) = some base ∧ sysRead s r.tenant ((streamEntry s r) + 8) = some w1 ∧ r.snap = some old ∧ sysStores r.tenant (backWrites r old base) s = (s1, o) ∧ o = none ∧ sysPlace s1 r.tenant ((streamEntry s r) + 8) .ewrite = .ok pl) ∧
    (∃ (n o : Nat) (s : State) (r : Run), s.run? n = some r ∧ r.outcome = some o) ∧
    (∃ (r : Run), (pkDone r.packet) = 0) ∧
    (∃ (s : State) (r : Run) (pl : _), (pkDone r.packet) ≠ 0 ∧ bits (pkDone r.packet) 63 56 = 0 ∧ sysPlace s r.tenant (pkDone r.packet) .ewrite = .ok pl) ∧
    (∃ (s : State) (r : Run) (c0 : _) (off : _) (g : _), (pkDone r.packet) ≠ 0 ∧ bits (pkDone r.packet) 63 56 ≠ 0 ∧ wordPtr (pkDone r.packet) = some (c0, off) ∧ wordRegion s r.tenant (s.leadAt c0 off) off = some g ∧ (s.core (s.leadAt c0 off)).seenFull g.gen off = true) ∧
    (∃ (s : State) (r : Run) (c0 : _) (off : _) (g : _), (pkDone r.packet) ≠ 0 ∧ bits (pkDone r.packet) 63 56 ≠ 0 ∧ wordPtr (pkDone r.packet) = some (c0, off) ∧ wordRegion s r.tenant (s.leadAt c0 off) off = some g ∧ (s.core (s.leadAt c0 off)).seenFull g.gen off = false) ∧
    (∃ (c i : Nat) (s : State) (r : Run), s.run? (s.ctx c i).run = some r ∧ (s.ctx c i).parkedOn (fun w => match w with | .stream _ => true | _ => false) = true) ∧
    (∃ (tn : Nat) (s : State) (p : Machine.Part), s.part? tn = some p ∧ (stopped s tn = true ∨ partAsleep s tn = false)) ∧
    (∃ (tn : Nat) (s : State) (p : Machine.Part), s.part? tn = some p ∧ stopped s tn = false ∧ partAsleep s tn = true ∧ tn ∉ s.disp.asleep) ∧
    (∃ (tn : Nat) (s : State) (p : Machine.Part), s.part? tn = some p ∧ stopped s tn = false ∧ partAsleep s tn = true ∧ tn ∈ s.disp.asleep ∧ tn ∉ s.disp.slept ∧ 64 + tn ∉ s.disp.slept) :=
  ⟨⟨3, (State.modDisp ((State.modDisp (tabs State.reset) (fun D => { D with parts := [{ tenant := 0, words := [0x100000, 0, 0, 0, 0, 0, 0, 0xFFFFFFFFFFFFFFFF] }] }))) (fun D => { D with runs := [{ uid := 3, runId := 0, tenant := 0, packet := [0x400, 0, 2 ^ 12 + 2 ^ 19 + 2 ^ 54, 1, 0, 0, 0, 0], queue := 0, age := 0, sup := false, header := 0, ready := true, inStore := false, next := 1, count := 1, ended := 1, aborts := 1, tiles := 0, pools := [], carry := [], abortedItems := [], snap := none, fails := 0, blocked := false, outcome := none }] })), _, some_of (by decide +kernel), by decide +kernel, by decide +kernel⟩,
   ⟨3, (State.modDisp ((State.modDisp (tabs State.reset) (fun D => { D with parts := [{ tenant := 0, words := [0x100000, 0, 0, 0, 0, 0, 0, 0xFFFFFFFFFFFFFFFF] }] }))) (fun D => { D with runs := [{ uid := 3, runId := 0, tenant := 0, packet := [0x400, 0, 2 ^ 12 + 2 ^ 19 + 2 ^ 54, 1, 0, 0, 0, 0], queue := 0, age := 0, sup := false, header := 0, ready := true, inStore := false, next := 1, count := 1, ended := 1, aborts := 0, tiles := 0, pools := [], carry := [], abortedItems := [], snap := none, fails := 0, blocked := false, outcome := none }] })), _, some_of (by decide +kernel), by decide +kernel, by decide +kernel, by decide +kernel⟩,
   ⟨3, (State.modDisp ((State.modDisp (tabs State.reset) (fun D => { D with parts := [{ tenant := 0, words := [0x100000, 0, 0, 0, 0, 0, 0, 0xFFFFFFFFFFFFFFFF] }] }))) (fun D => { D with runs := [{ uid := 3, runId := 0, tenant := 0, packet := [0x400, 0, 2 ^ 12 + 2 ^ 19 + 2 ^ 54, 1 + 3 * 2 ^ 32, 0, 0, 0, 0], queue := 0, age := 0, sup := false, header := 0, ready := true, inStore := false, next := 1, count := 1, ended := 1, aborts := 0, tiles := 0, pools := [], carry := [], abortedItems := [], snap := none, fails := 0, blocked := false, outcome := none }] })), _, some_of (by decide +kernel), by decide +kernel, by decide +kernel, by decide +kernel⟩,
   ⟨put8 0x2000 (0x4000000) (put8 0x2008 (5 * 2 ^ 32) ((State.modDisp ((State.modDisp (tabs State.reset) (fun D => { D with parts := [{ tenant := 0, words := [0x100000, 0x2000, 0, 0, 0, 0, 0, 0xFFFFFFFFFFFFFFFF] }] }))) (fun D => { D with runs := [{ uid := 3, runId := 0, tenant := 0, packet := [0x400, 0, 2 ^ 12 + 2 ^ 19 + 2 ^ 54, 1 + 3 * 2 ^ 32, 0, 0, 0, 0], queue := 0, age := 0, sup := false, header := 0, ready := true, inStore := false, next := 1, count := 1, ended := 1, aborts := 0, tiles := 0, pools := [], carry := [], abortedItems := [], snap := some ((List.range 16).map (fun n => (⟨n, 127, false⟩ : TVal))), fails := 0, blocked := false, outcome := none }] })))), _, { uid := 3, runId := 0, tenant := 0, packet := [0x400, 0, 2 ^ 12 + 2 ^ 19 + 2 ^ 54, 1 + 3 * 2 ^ 32, 0, 0, 0, 0], queue := 0, age := 0, sup := false, header := 0, ready := true, inStore := false, next := 1, count := 1, ended := 1, aborts := 0, tiles := 0, pools := [], carry := [], abortedItems := [], snap := some ((List.range 16).map (fun n => (⟨n, 127, false⟩ : TVal))), fails := 0, blocked := false, outcome := none }, _, _, _, _, _, some_of (by decide +kernel), some_of (by decide +kernel), some_of (by decide +kernel), (Prod.eta _).symm, some_of (by decide +kernel)⟩,
   ⟨put8 0x2000 (0x3000) (put8 0x2008 (5 * 2 ^ 32) ((State.modDisp ((State.modDisp (tabs State.reset) (fun D => { D with parts := [{ tenant := 0, words := [0x100000, 0x2000, 0, 0, 0, 0, 0, 0xFFFFFFFFFFFFFFFF] }] }))) (fun D => { D with runs := [{ uid := 3, runId := 0, tenant := 0, packet := [0x400, 0, 2 ^ 12 + 2 ^ 19 + 2 ^ 54, 1 + 3 * 2 ^ 32, 0, 0, 0, 0], queue := 0, age := 0, sup := false, header := 0, ready := true, inStore := false, next := 1, count := 1, ended := 1, aborts := 0, tiles := 0, pools := [], carry := [], abortedItems := [], snap := some ((List.range 16).map (fun n => (⟨n, 127, false⟩ : TVal))), fails := 0, blocked := false, outcome := none }] })))), _, { uid := 3, runId := 0, tenant := 0, packet := [0x400, 0, 2 ^ 12 + 2 ^ 19 + 2 ^ 54, 1 + 3 * 2 ^ 32, 0, 0, 0, 0], queue := 0, age := 0, sup := false, header := 0, ready := true, inStore := false, next := 1, count := 1, ended := 1, aborts := 0, tiles := 0, pools := [], carry := [], abortedItems := [], snap := some ((List.range 16).map (fun n => (⟨n, 127, false⟩ : TVal))), fails := 0, blocked := false, outcome := none }, _, _, _, _, _, some_of (by decide +kernel), some_of (by decide +kernel), some_of (by decide +kernel), (Prod.eta _).symm, by decide +kernel, ok_of (by decide +kernel)⟩,
   ⟨3, _, (State.modDisp ((State.modDisp (tabs State.reset) (fun D => { D with parts := [{ tenant := 0, words := [0x100000, 0, 0, 0, 0, 0, 0, 0xFFFFFFFFFFFFFFFF] }] }))) (fun D => { D with runs := [{ uid := 3, runId := 0, tenant := 0, packet := [0x400, 0, 2 ^ 12 + 2 ^ 19 + 2 ^ 54, 1, 0, 0, 0, 0], queue := 0, age := 0, sup := false, header := 0, ready := true, inStore := true, next := 0, count := 1, ended := 0, aborts := 0, tiles := 0, pools := [], carry := [], abortedItems := [], snap := none, fails := 0, blocked := false, outcome := some 4 }] })), _, some_of (by decide +kernel), some_of (by decide +kernel)⟩,
   ⟨{ uid := 3, runId := 0, tenant := 0, packet := [0x400, 0, 2 ^ 12 + 2 ^ 19 + 2 ^ 54, 1, 0, 0, 0, 0], queue := 0, age := 0, sup := false, header := 0, ready := true, inStore := true, next := 0, count := 1, ended := 0, aborts := 0, tiles := 0, pools := [], carry := [], abortedItems := [], snap := none, fails := 0, blocked := false, outcome := none }, by decide +kernel⟩,
   ⟨(State.modDisp ((State.modDisp (tabs State.reset) (fun D => { D with parts := [{ tenant := 0, words := [0x100000, 0, 0, 0, 0, 0, 0, 0xFFFFFFFFFFFFFFFF] }] }))) (fun D => { D with runs := [{ uid := 3, runId := 0, tenant := 0, packet := [0x400, 0, 2 ^ 12 + 2 ^ 19 + 2 ^ 54, 1, 0, 0, 0, 0], queue := 0, age := 0, sup := false, header := 0, ready := true, inStore := true, next := 0, count := 1, ended := 0, aborts := 0, tiles := 0, pools := [], carry := [], abortedItems := [], snap := none, fails := 0, blocked := false, outcome := none }] })), { uid := 3, runId := 0, tenant := 0, packet := [0x400, 0, 0x0080000000001000 + 2 ^ 19, 1, 0, 0, 0x40, 0], queue := 0, age := 0, sup := false, header := 0, ready := true, inStore := true, next := 0, count := 1, ended := 2, aborts := 0, tiles := 0, pools := [], carry := [], abortedItems := [], snap := none, fails := 0, blocked := false, outcome := none }, _, by decide +kernel, by decide +kernel, ok_of (by decide +kernel)⟩,
   ⟨onCore (fun K => { K with regions := [{ off := 0, len := 1024, trap := false, gen := 9, gang := 0, tenant := 0, retired := false }] }) (onCore (fun K => K.lsWriteFe 9 0x40 0x7 true) ((State.modDisp ((State.modDisp (tabs State.reset) (fun D => { D with parts := [{ tenant := 0, words := [0x100000, 0, 0, 0, 0, 0, 0, 0xFFFFFFFFFFFFFFFF] }] }))) (fun D => { D with runs := [{ uid := 3, runId := 0, tenant := 0, packet := [0x400, 0, 0x0080000000001000 + 2 ^ 19, 1, 0, 0, 0xF200000000000040, 0], queue := 0, age := 0, sup := false, header := 0, ready := true, inStore := true, next := 0, count := 1, ended := 0, aborts := 0, tiles := 0, pools := [], carry := [], abortedItems := [], snap := none, fails := 0, blocked := false, outcome := none }] })))), { uid := 3, runId := 0, tenant := 0, packet := [0x400, 0, 0x0080000000001000 + 2 ^ 19, 1, 0, 0, 0xF200000000000040, 0], queue := 0, age := 0, sup := false, header := 0, ready := true, inStore := true, next := 0, count := 1, ended := 0, aborts := 0, tiles := 0, pools := [], carry := [], abortedItems := [], snap := none, fails := 0, blocked := false, outcome := none }, _, _, _, by decide +kernel, by decide +kernel, some2_of (by decide +kernel), some_of (by decide +kernel), by decide +kernel⟩,
   ⟨onCore (fun K => { K with regions := [{ off := 0, len := 1024, trap := false, gen := 9, gang := 0, tenant := 0, retired := false }] }) ((State.modDisp ((State.modDisp (tabs State.reset) (fun D => { D with parts := [{ tenant := 0, words := [0x100000, 0, 0, 0, 0, 0, 0, 0xFFFFFFFFFFFFFFFF] }] }))) (fun D => { D with runs := [{ uid := 3, runId := 0, tenant := 0, packet := [0x400, 0, 0x0080000000001000 + 2 ^ 19, 1, 0, 0, 0xF200000000000040, 0], queue := 0, age := 0, sup := false, header := 0, ready := true, inStore := true, next := 0, count := 1, ended := 0, aborts := 0, tiles := 0, pools := [], carry := [], abortedItems := [], snap := none, fails := 0, blocked := false, outcome := none }] }))), { uid := 3, runId := 0, tenant := 0, packet := [0x400, 0, 0x0080000000001000 + 2 ^ 19, 1, 0, 0, 0xF200000000000040, 0], queue := 0, age := 0, sup := false, header := 0, ready := true, inStore := true, next := 0, count := 1, ended := 0, aborts := 0, tiles := 0, pools := [], carry := [], abortedItems := [], snap := none, fails := 0, blocked := false, outcome := none }, _, _, _, by decide +kernel, by decide +kernel, some2_of (by decide +kernel), some_of (by decide +kernel), by decide +kernel⟩,
   ⟨0, 0, (State.modDisp ((State.modDisp (tabs (onMe (fun X => { X with state := .parked, run := 3, wait := some { list := 9, cond := .stream 3 } }) (cpu (.add 5 6 7)))) (fun D => { D with parts := [{ tenant := 0, words := [0x100000, 0, 0, 0, 0, 0, 0, 0xFFFFFFFFFFFFFFFF] }] }))) (fun D => { D with runs := [{ uid := 3, runId := 0, tenant := 0, packet := [0x400, 0, 2 ^ 12 + 2 ^ 19 + 2 ^ 54, 1 + 3 * 2 ^ 32, 0, 0, 0, 0], queue := 0, age := 0, sup := false, header := 0, ready := true, inStore := true, next := 0, count := 1, ended := 0, aborts := 0, tiles := 0, pools := [], carry := [], abortedItems := [], snap := none, fails := 0, blocked := false, outcome := none }] })), _, some_of (by decide +kernel), by decide +kernel⟩,
   ⟨0, (State.modDisp ((State.modDisp (cpu (.add 5 6 7)) (fun D => { D with parts := [{ tenant := 0, words := [0x100000, 0, 0, 0, 0, 0, 0, 0xFFFFFFFFFFFFFFFF] }] }))) (fun D => { D with asleep := [0, 3] })), _, some_of (by decide +kernel), by decide +kernel⟩,
   ⟨0, (State.modDisp (State.reset) (fun D => { D with parts := [{ tenant := 0, words := [0x100000, 0, 0, 0, 0, 0, 0, 0xFFFFFFFFFFFFFFFF] }] })), _, some_of (by decide +kernel), by decide +kernel, by decide +kernel, by decide +kernel⟩,
   ⟨0, (State.modDisp ((State.modDisp (State.reset) (fun D => { D with parts := [{ tenant := 0, words := [0x100000, 0, 0, 0, 0, 0, 0, 0xFFFFFFFFFFFFFFFF] }] }))) (fun D => { D with asleep := [0] })), _, some_of (by decide +kernel), by decide +kernel, by decide +kernel, by decide +kernel, by decide +kernel, by decide +kernel⟩⟩

theorem meets_GangSwitch :
    (∃ (s : State) (tn : Nat) (p : Machine.Part), s.part? tn = some p ∧ ((bits (readSwitch s tn 2) 1 0) = 0 ∨ ((bits (readSwitch s tn 2) 1 0) = 2 ∧
      (s.host.tele.powerHold || s.host.tele.tempHold) = true))) ∧
    (∃ (s : State) (tn : Nat) (p : Machine.Part), s.part? tn = some p ∧ (bits (readSwitch s tn 2) 1 0) ≠ 0 ∧ (¬((bits (readSwitch s tn 2) 1 0) = 2 ∧
      (s.host.tele.powerHold || s.host.tele.tempHold) = true)) ∧ (switchStatus s p (readSwitch s tn 1) (readSwitch s tn 2)) = 0) ∧
    (∃ (s : State) (tn : Nat) (p : Machine.Part), s.part? tn = some p ∧ (bits (readSwitch s tn 2) 1 0) ≠ 0 ∧ (¬((bits (readSwitch s tn 2) 1 0) = 2 ∧
      (s.host.tele.powerHold || s.host.tele.tempHold) = true)) ∧ (switchStatus s p (readSwitch s tn 1) (readSwitch s tn 2)) ≠ 0) ∧
    (∃ (s : State) (tn b : Nat), s.part? tn = none ∧ s.host.table = some b ∧ ((Memory.byte s.hbm (b + 64 * tn + 2)).getLsbD 4) = false) ∧
    (∃ (s : State) (tn b : Nat), s.part? tn = none ∧ s.host.table = some b ∧ ((Memory.byte s.hbm (b + 64 * tn + 2)).getLsbD 4) = true ∧
      (bits (readSwitch s tn 2) 1 0) ≠ 0 ∧ (¬((bits (readSwitch s tn 2) 1 0) = 2 ∧ (s.host.tele.powerHold || s.host.tele.tempHold) = true))) ∧
    (∃ (tn : Nat) (s : State) (w : Switch), switchOf s tn = some w ∧ w.out = true ∧ w.phase = 0 ∧ w.t ≤ s.tstamp) ∧
    (∃ (tn : Nat) (s : State) (w : Switch), switchOf s tn = some w ∧ w.out = true ∧ s.tstamp < w.t) ∧
    (∃ (tn : Nat) (s : State) (w : Switch), switchOf s tn = some w ∧ w.out = true ∧ w.phase = 1 ∧ drainEnded s w.part = true) ∧
    (∃ (tn : Nat) (s : State) (w : Switch), switchOf s tn = some w ∧ w.out = true ∧ w.phase = 2) ∧
    (∃ (tn : Nat) (ok : Bool) (s : State) (w : Switch) (v : Saved), switchOf s tn = some w ∧ s.disp.saved.find? (fun v => v.tenant == tn) = some v ∧
      w.out = false ∧ w.phase = 0 ∧ ok = (!v.ckpt && areaHolds s w.area tn v.check.toNat (areaBytes w.part / 8)) ∧ ok = false) ∧
    (∃ (c i : Nat) (s : State), (s.ctx c i).state = .parked) ∧
    (∃ (tn : Nat) (s : State) (w : Switch), switchOf s tn = some w ∧ w.out = false ∧ w.phase = 1 ∧ w.t ≤ s.tstamp) :=
  ⟨⟨put8 0x102008 0 (put8 0x102010 0 ((State.modDisp (tabs (cpu (.add 5 6 7))) (fun D => { D with parts := [{ tenant := 0, words := [0x100000, 0, 0, 0, 0, 0, 0, 0xFFFFFFFFFFFFFFFF] }] })))), 0, _, some_of (by decide +kernel), by decide +kernel⟩,
   ⟨put8 0x102008 0x10000 (put8 0x102010 1 ((State.modDisp (tabs (cpu (.add 5 6 7))) (fun D => { D with parts := [{ tenant := 0, words := [0x100000, 0, 0, 0, 0, 0, 0, 0xFFFFFFFFFFFFFFFF] }] })))), 0,
     _, some_of (by decide +kernel), by decide +kernel, by decide +kernel, by decide +kernel⟩,
   ⟨put8 0x102008 0x10000 (put8 0x102010 3 ((State.modDisp (tabs (cpu (.add 5 6 7))) (fun D => { D with parts := [{ tenant := 0, words := [0x100000, 0, 0, 0, 0, 0, 0, 0xFFFFFFFFFFFFFFFF] }] })))), 0,
     _, some_of (by decide +kernel), by decide +kernel, by decide +kernel, by decide +kernel⟩,
   ⟨tabs State.reset, 1, _, by decide +kernel, some_of (by decide +kernel), by decide +kernel⟩,
   ⟨put8 0x100000 0x100000 (put8 0x102008 0x10000 (put8 0x102010 1 (tabs State.reset))), 0, _, by decide +kernel, some_of (by decide +kernel),
     by decide +kernel, by decide +kernel, by decide +kernel⟩,
   ⟨0, (State.modDisp (cpu (.add 5 6 7)) (fun D => { D with switches := [{ tenant := 0, part := { tenant := 0, words := [0x100000, 0, 0, 0, 0, 0, 0, 0xFFFFFFFFFFFFFFFF] }, out := true, t := 0, area := 0x10000, core := 0, slot := 0, phase := 0, ckpt := false }], saved := [] })),
     _, some_of (by decide +kernel), by decide +kernel, by decide +kernel, by decide +kernel⟩,
   ⟨0, (State.modDisp (cpu (.add 5 6 7)) (fun D => { D with switches := [{ tenant := 0, part := { tenant := 0, words := [0x100000, 0, 0, 0, 0, 0, 0, 0xFFFFFFFFFFFFFFFF] }, out := true, t := 10, area := 0x10000, core := 0, slot := 0, phase := 0, ckpt := false }], saved := [] })),
     _, some_of (by decide +kernel), by decide +kernel, by decide +kernel⟩,
   ⟨0, (State.modDisp ((State.modDisp (cpu (.add 5 6 7)) (fun D => { D with parts := [{ tenant := 0, words := [0x100000, 0, 0, 0, 0, 0, 0, 0xFFFFFFFFFFFFFFFF] }] }))) (fun D => { D with switches := [{ tenant := 0, part := { tenant := 0, words := [0x100000, 0, 0, 0, 0, 0, 0, 0xFFFFFFFFFFFFFFFF] }, out := true, t := 0, area := 0x10000, core := 0, slot := 0, phase := 1, ckpt := false }], saved := [] })),
     _, some_of (by decide +kernel), by decide +kernel, by decide +kernel, by decide +kernel⟩,
   ⟨0, (State.modDisp ((State.modDisp (onMe (fun X => { X with gang := some 4 }) (cpu (.add 5 6 7))) (fun D => { D with gangs := [{ uid := 4, run := 3, index := 0, tenant := 0, origin := 0, w := 1, h := 1, lock := false, chain := false, sup := false, filling := false, bars := [], lastEnd := none, lastChain := none, aborted := false }] }))) (fun D => { D with switches := [{ tenant := 0, part := { tenant := 0, words := [0x100000, 0, 0, 0, 0, 0, 0, 0xFFFFFFFFFFFFFFFF] }, out := true, t := 0, area := 0x10000, core := 0, slot := 0, phase := 2, ckpt := true }], saved := [] })),
     _, some_of (by decide +kernel), by decide +kernel, by decide +kernel⟩,
   ⟨0, false, (State.modDisp ((State.modDisp (cpu (.add 5 6 7)) (fun D => { D with parts := [{ tenant := 0, words := [0x100000, 0, 0, 0, 0, 0, 0, 0xFFFFFFFFFFFFFFFF] }] }))) (fun D => { D with switches := [{ tenant := 0, part := { tenant := 0, words := [0x100000, 0, 0, 0, 0, 0, 0, 0xFFFFFFFFFFFFFFFF] }, out := false, t := 0, area := 0x10000, core := 0, slot := 0, phase := 0, ckpt := false }], saved := [{ tenant := 0, area := 0x10000, check := 0, ckpt := true, cores := [(0, (onMe (fun X => { X with gen := 5 }) (cpu (.add 5 6 7))).core 0)], squares := [], ports := [], smps := [], ships := [] }] })),
     _, _, some_of (by decide +kernel), some_of (by decide +kernel), by decide +kernel⟩,
   ⟨0, 0, onMe (fun X => { X with pc := 68, state := .parked, wait := some { list := 5, cond := .never } }) (cpu (.add 5 6 7)), by decide +kernel⟩,
   ⟨0, (State.modDisp ((State.modDisp (cpu (.add 5 6 7)) (fun D => { D with parts := [{ tenant := 0, words := [0x100000, 0, 0, 0, 0, 0, 0, 0xFFFFFFFFFFFFFFFF] }] }))) (fun D => { D with switches := [{ tenant := 0, part := { tenant := 0, words := [0x100000, 0, 0, 0, 0, 0, 0, 0xFFFFFFFFFFFFFFFF] }, out := false, t := 0, area := 0x10000, core := 0, slot := 0, phase := 1, ckpt := false }], saved := [{ tenant := 0, area := 0x10000, check := 0, ckpt := false, cores := [(0, (onMe (fun X => { X with gen := 5 }) (cpu (.add 5 6 7))).core 0)], squares := [], ports := [], smps := [], ships := [] }] })),
     _, some_of (by decide +kernel), by decide +kernel, by decide +kernel, by decide +kernel⟩⟩

theorem meets_LockstepAndErrors :
    (∃ (c : Nat) (s : State) (p : LockPair), (s.core c).lock = some p ∧ (s.core c).lim ≤ p.log.length) ∧
    (∃ (c : Nat) (s : State) (p : LockPair), (s.core c).lock = some p ∧ p.log.length < (s.core c).lim) ∧
    (∃ (c : Nat) (s : State), (s.core c).lock.isSome = true) ∧
    (∃ (c i : Nat) (s : State), (s.ctx c i).state = .ready ∧ bodyBusy (s.ctx c i) = false) ∧
    (∃ (c i : Nat) (s : State) (b : _), bodyBusy (s.ctx c i) = true ∧ (s.ctx c i).state = .parked ∧ (s.ctx c i).body = some b) ∧
    (∃ (c : Nat) (again mem : Bool) (s : State) (p : LockPair), (s.core c).lock = some p ∧ (again || mem || p.rolled) = true) ∧
    (∃ (c : Nat) (again mem : Bool) (s : State) (p : LockPair), (s.core c).lock = some p ∧ (again || mem || p.rolled) = false) :=
  ⟨⟨0, onCore (fun K => { K with lock := some { twin := 1, log := [(3, RegEntry.reset), (5, { val := 1, cnt := 2, inx := true, gen := 1 })], point := [(0, { (cpu .nop).ctx 0 0 with lock := true })], rolled := false }, lim := 2 }) (onMe (fun X => { X with lock := true }) (cpu (.add 5 6 7))), _, some_of (by decide +kernel), by decide +kernel⟩,
   ⟨0, onCore (fun K => { K with lock := some { twin := 1, log := [(3, RegEntry.reset), (5, { val := 1, cnt := 2, inx := true, gen := 1 })], point := [(0, { (cpu .nop).ctx 0 0 with lock := true })], rolled := false } }) (cpu (.add 5 6 7)), _, some_of (by decide +kernel), by decide +kernel⟩,
   ⟨0, onCore (fun K => { K with events := [(3, 7)], lock := some { twin := 1, log := [(3, RegEntry.reset)], point := [], rolled := false, events := [(2, 9)] } }) (cpu (.add 5 6 7)), by decide +kernel⟩,
   ⟨0, 0, cpu (.add 5 6 7), by decide +kernel, by decide +kernel⟩,
   ⟨0, 0, onMe (fun X => { X with state := .parked, wait := some { list := 1, cond := .replays }, body := some { base := 4, words := [0x042860E0], s := 1, lo := 5, span := 3, count := 2, replay := 0, word := 0, stopped := false, main := 0, seq := 0 } }) (cpu (.add 5 6 7)), _, by decide +kernel, by decide +kernel, some_of (by decide +kernel)⟩,
   ⟨0, true, false, (State.modDisp (onCore (fun K => { K with lock := some { twin := 1, log := [(3, RegEntry.reset), (5, { val := 1, cnt := 2, inx := true, gen := 1 })], point := [(0, { (cpu .nop).ctx 0 0 with lock := true })], rolled := false } }) (onMe (fun X => { X with gang := some 4, lock := true }) (cpu (.add 5 6 7)))) (fun D => { D with gangs := [{ uid := 4, run := 3, index := 0, tenant := 0, origin := 0, w := 1, h := 1, lock := false, chain := false, sup := false, filling := false, bars := [], lastEnd := none, lastChain := none, aborted := false }] })), _, some_of (by decide +kernel), by decide +kernel⟩,
   ⟨0, false, false, onCore (fun K => { K with lock := some { twin := 1, log := [(3, RegEntry.reset), (5, { val := 1, cnt := 2, inx := true, gen := 1 })], point := [(0, { (cpu .nop).ctx 0 0 with lock := true })], rolled := false } }) (onMe (fun X => { X with gang := some 4, lock := true }) (onReg 3 7 (cpu .nop))), _, some_of (by decide +kernel), by decide +kernel⟩⟩

theorem meets_BootLinksAndLimits :
    (∃ (s : State), s.host.phase = 0) ∧
    (∃ (a b f : Bool) (l : Blob) (s : State), s.host.phase = 1 ∧ a = true ∧ b = true ∧ f = true ∧ l.code ≠ 3) ∧
    (∃ (a : Bool) (s : State), s.host.phase = 1 ∧ a = false) ∧
    (∃ (a b : Bool) (s : State), s.host.phase = 1 ∧ a = true ∧ b = false) ∧
    (∃ (a b f : Bool) (l : Blob) (s : State), s.host.phase = 1 ∧ a = true ∧ b = true ∧ (f = false ∨ l.code = 3)) ∧
    (∃ (n : Nat), n < 12) ∧
    (∃ (n : Nat) (s : State), n < 12 ∧ s.host.links.getLsbD n = true) ∧
    (∃ (n : Nat) (s : State), n < 12 ∧ s.host.links.getLsbD n = false) ∧
    (∃ (tn : Nat), tn < 64) ∧
    (∃ (n : Nat) (v : BitVec 16) (i : _), n < 4 ∧ i ∈ [Instr.temperatureHigh n v, .temperatureHalt n v, .temperatureHoldRelease n v]) :=
  ⟨⟨(State.modHost (State.reset) (fun h => { h with phase := 0 })), by decide +kernel⟩,
   ⟨true, true, true, { code := 1, links := 0xFFF, limit := 5, sources := [] }, (State.modHost (State.reset) (fun h => { h with phase := 1 })), by decide +kernel⟩,
   ⟨false, (State.modHost (State.reset) (fun h => { h with phase := 1 })), by decide +kernel, by decide +kernel⟩,
   ⟨true, false, (State.modHost (State.reset) (fun h => { h with phase := 1 })), by decide +kernel, by decide +kernel, by decide +kernel⟩,
   ⟨true, true, false, { code := 1, links := 0xFFF, limit := 5, sources := [] }, (State.modHost (State.reset) (fun h => { h with phase := 1 })), by decide +kernel⟩,
   ⟨11, by decide +kernel⟩,
   ⟨11, State.modHost (cpu (.add 5 6 7)) (fun h => { h with links := 0xFFF }), by decide +kernel, by decide +kernel⟩,
   ⟨11, State.modHost (cpu (.add 5 6 7)) (fun h => { h with links := 1 }), by decide +kernel, by decide +kernel⟩,
   ⟨0, by decide +kernel⟩,
   ⟨3, 419, _, by decide +kernel, .head _⟩⟩

theorem meets_HostAccesses :
    (∃ (c off : Nat) (s : State), coreUsed c = true ∧ off < lsSize c ∧ off % 8 = 0 ∧ hostRegion s c off = none) ∧
    (∃ (c off : Nat) (s : State) (r : _), coreUsed c = true ∧ off < lsSize c ∧ off % 8 = 0 ∧ hostRegion s c off = some r) ∧
    (∃ (c : Nat) (h : HostAcc), (h.size < 8 ∨ h.off % 8 ≠ 0 ∨ coreUsed c = false ∨ lsSize c ≤ h.off)) ∧
    (∃ (h : HostAcc), (h.size < 8 ∨ h.off % 8 ≠ 0 ∨ hbmTop ≤ h.off)) ∧
    (∃ (h : HostAcc), (h.size < 8 ∨ h.off % 8 ≠ 0 ∨ 65536 ≤ h.off)) ∧
    (∃ (bar : Nat) (h : HostAcc) (s : State), (h.size < 8 ∨ h.off % 8 ≠ 0 ∨ barRead s bar h.off = none)) ∧
    (∃ (q i : Nat) (h : HostAcc), (h.size < 8 ∨ h.off % 8 ≠ 0) ∧ q < 64 ∧ i < 16 ∧ h.off < 128) ∧
    (∃ (a : Nat), a % 8 = 0 ∧ a < hbmTop) ∧
    (∃ (q i off : Nat) (s : State) (p : List Word), q < 64 ∧ i < 16 ∧ off < 128 ∧ off % 8 = 0 ∧ off < 64 ∧ s.launchSlot q i = (p, false)) ∧
    (∃ (q i off : Nat) (s : State) (p : List Word), q < 64 ∧ i < 16 ∧ off < 128 ∧ off % 8 = 0 ∧ (s.launchSlot q i = (p, true) ∨ 64 < off)) ∧
    (∃ (q i off : Nat), q < 64 ∧ i < 16 ∧ off < 128 ∧ off % 8 = 0 ∧ off = 64) ∧
    (∃ (q i off : Nat), q < 64 ∧ i < 16 ∧ off < 128 ∧ off % 8 = 0) ∧
    (∃ (a : Nat), a % 8 = 0 ∧ a < 131072) ∧
    (∃ (a : Nat), a % 8 = 0 ∧ a = 0) ∧
    (∃ (l tn : Nat) (acc : PeerAccess) (s : State) (a : _) (n : _) (v : _), l < 12 ∧ tn < 64 ∧ SMap.get s.host.linkUp l false = true ∧ acc = .write a n v) ∧
    (∃ (l tn : Nat) (acc : PeerAccess) (s : State) (a : _) (n : _), l < 12 ∧ tn < 64 ∧ SMap.get s.host.linkUp l false = true ∧ acc = .read a n) ∧
    (∃ (l tn : Nat) (acc : PeerAccess) (s : State) (c : _) (i : _) (tree : _) (step : _) (cls : _) (value : _) (index : _) (count : _), l < 12 ∧ tn < 64 ∧ SMap.get s.host.linkUp l false = true ∧ acc = .sample c i tree step cls value index count) :=
  ⟨⟨0, 0x40, cpu (.add 5 6 7), by decide +kernel, by decide +kernel, by decide +kernel, by decide +kernel⟩,
   ⟨0, 0x40, onCore (fun K => { K with regions := [{ off := 0, len := 1024, trap := false, gen := 9, gang := 0, tenant := 0, retired := false }] }) (cpu (.add 5 6 7)), _, by decide +kernel, by decide +kernel, by decide +kernel, some_of (by decide +kernel)⟩,
   ⟨0, { off := 0x41, req := 1, size := 8 }, by decide +kernel⟩,
   ⟨{ off := 0x41, req := 1, size := 8 }, by decide +kernel⟩,
   ⟨{ off := 0x41, req := 1, size := 8 }, by decide +kernel⟩,
   ⟨4, { off := 0x41, req := 1, size := 8 }, cpu (.add 5 6 7), by decide +kernel⟩,
   ⟨0, 0, { off := 1, req := 1, size := 8 }, by decide +kernel, by decide +kernel, by decide +kernel, by decide +kernel⟩,
   ⟨0x40, by decide +kernel, by decide +kernel⟩,
   ⟨63, 15, 0, State.reset, _, by decide +kernel, by decide +kernel, by decide +kernel, by decide +kernel, by decide +kernel, pair_of (by decide +kernel)⟩,
   ⟨0, 0, 0, (State.setLaunchSlot (State.reset) 0 0 ([0x400, 0, 2 ^ 12 + 2 ^ 19 + 2 ^ 54, 1, 0, 0, 0, 0], true)), [0x400, 0, 2 ^ 12 + 2 ^ 19 + 2 ^ 54, 1, 0, 0, 0, 0], by decide +kernel, by decide +kernel, by decide +kernel, by decide +kernel, by decide +kernel⟩,
   ⟨0, 0, 64, by decide +kernel, by decide +kernel, by decide +kernel, by decide +kernel, by decide +kernel⟩,
   ⟨0, 0, 64, by decide +kernel, by decide +kernel, by decide +kernel, by decide +kernel⟩,
   ⟨8, by decide +kernel, by decide +kernel⟩,
   ⟨0, by decide +kernel, by decide +kernel⟩,
   ⟨3, 0, .write 0x40 8 5, State.modHost (tabs State.reset) (fun h => { h with linkUp := [(3, true)] }), 0x40, 8, 5, by decide +kernel, by decide +kernel, by decide +kernel, by decide +kernel⟩,
   ⟨3, 0, .read 0x40 8, State.modHost (tabs State.reset) (fun h => { h with linkUp := [(3, true)] }), 0x40, 8, by decide +kernel, by decide +kernel, by decide +kernel, by decide +kernel⟩,
   ⟨3, 0, .sample 0 0 1 2 true 5 6 7, State.modHost (tabs State.reset) (fun h => { h with linkUp := [(3, true)] }), 0, 0, 1, 2, true, 5, 6, 7, by decide +kernel, by decide +kernel, by decide +kernel, by decide +kernel⟩⟩

theorem meets_MailboxCommands :
    (∃ (s : State) (off : _), s.host.mbox.busy = true ∧ off % 8 = 0 ∧ off < 65536) ∧
    (∃ (s : State), s.host.mbox.busy = false) ∧
    (∃ (s : State) (n st : Nat) (r0 r1 : Word), s.host.mbox.cur = some n ∧ s.host.mbox.result = some (st, r0, r1)) ∧
    (∃ (row : _) (s : State), row ∈ ([(Instr.openDebugSession, 4), (Instr.closeDebugSession, 5), (Instr.debugRead, 6), (Instr.debugWrite, 7), (Instr.checkpoint, 8), (Instr.restore true, 9),
      (Instr.resume, 10)] : List (Instr × Nat)) ∧ cmdPending s row.2 = true ∧ s.host.phase ≠ 2) ∧
    (∃ (s : State), cmdPending s 1 = true ∧ ((s.host.mbox.arg 0).toNat) % 65536 = 0 ∧ ((s.host.mbox.arg 0).toNat) + 65536 ≤ hbmTop ∧ s.disp.parts = []) ∧
    (∃ (s : State), cmdPending s 1 = true ∧ (((s.host.mbox.arg 0).toNat) % 65536 ≠ 0 ∨ hbmTop < ((s.host.mbox.arg 0).toNat) + 65536)) ∧
    (∃ (s : State), cmdPending s 2 = true ∧ ((s.host.mbox.arg 0).toNat) % 4096 = 0 ∧ 64 ≤ ((s.host.mbox.arg 1).toNat) ∧ ((s.host.mbox.arg 1).toNat) ≤ 2 ^ 20 ∧ 2 ^ Nat.log2 ((s.host.mbox.arg 1).toNat) = ((s.host.mbox.arg 1).toNat) ∧ s.host.table.isSome = true) ∧
    (∃ (s : State), cmdPending s 2 = true ∧ (((s.host.mbox.arg 0).toNat) % 4096 ≠ 0 ∨ ((s.host.mbox.arg 1).toNat) < 64 ∨ 2 ^ 20 < ((s.host.mbox.arg 1).toNat))) ∧
    (∃ (s : State) (tb : Nat) (hd : Word), cmdPending s 3 = true ∧ s.host.table = some tb ∧ s.host.mbox.sup = none ∧ ((s.host.mbox.arg 0).toNat) % 64 = 0 ∧ ((s.host.mbox.arg 0).toNat) + 64 ≤ hbmTop ∧ supPacketOk s (Memory.readWords s.hbm ((s.host.mbox.arg 0).toNat) 8) (bits (s.host.mbox.arg 1) 13 0) = some hd ∧ (∀ c ∈ ((gangCores (bits (s.host.mbox.arg 1) 13 0) (Memory.readWords s.hbm ((s.host.mbox.arg 0).toNat) 8)).map (fun (c, _, _) => c)), ∀ d ∈ s.disp.parts, d.has c = true → d.tenant = pkTenant (Memory.readWords s.hbm ((s.host.mbox.arg 0).toNat) 8)) ∧ (∀ c ∈ ((gangCores (bits (s.host.mbox.arg 1) 13 0) (Memory.readWords s.hbm ((s.host.mbox.arg 0).toNat) 8)).map (fun (c, _, _) => c)), (∀ x ∈ (s.core c).ctxs, x.2.state = .free) ∧ coreFits s (Memory.readWords s.hbm ((s.host.mbox.arg 0).toNat) 8) c = true) ∧ (pkDep (Memory.readWords s.hbm ((s.host.mbox.arg 0).toNat) 8) ≠ 0 ∨ s.host.tele.powerHold = true ∨ s.host.tele.tempHold = true)) ∧
    (∃ (s : State) (tb : Nat) (hd : Word) (u : _), cmdPending s 3 = true ∧ s.host.table = some tb ∧ s.host.mbox.sup = none ∧ ((s.host.mbox.arg 0).toNat) % 64 = 0 ∧ ((s.host.mbox.arg 0).toNat) + 64 ≤ hbmTop ∧ supPacketOk s (Memory.readWords s.hbm ((s.host.mbox.arg 0).toNat) 8) (bits (s.host.mbox.arg 1) 13 0) = some hd ∧ (∀ c ∈ ((gangCores (bits (s.host.mbox.arg 1) 13 0) (Memory.readWords s.hbm ((s.host.mbox.arg 0).toNat) 8)).map (fun (c, _, _) => c)), ∀ d ∈ s.disp.parts, d.has c = true → d.tenant = pkTenant (Memory.readWords s.hbm ((s.host.mbox.arg 0).toNat) 8)) ∧ (∀ c ∈ ((gangCores (bits (s.host.mbox.arg 1) 13 0) (Memory.readWords s.hbm ((s.host.mbox.arg 0).toNat) 8)).map (fun (c, _, _) => c)), (∀ x ∈ (s.core c).ctxs, x.2.state = .free) ∧ coreFits s (Memory.readWords s.hbm ((s.host.mbox.arg 0).toNat) 8) c = true) ∧ s.host.tele.powerHold = false ∧ s.host.tele.tempHold = false ∧ pkDep (Memory.readWords s.hbm ((s.host.mbox.arg 0).toNat) 8) = 0 ∧ placeGang ((s.modHost (fun h => { h with mbox := { h.mbox with sup := some ({ mkRun s.host.mbox.run 0 0 s.host.mbox.run (Memory.readWords s.hbm ((s.host.mbox.arg 0).toNat) 8) hd with sup := true, inStore := false } : Run) } })).modDisp (fun d => { d with nextRun := SMap.put d.nextRun 0 (pkTenant (Memory.readWords s.hbm ((s.host.mbox.arg 0).toNat) 8)) (((SMap.get s.disp.nextRun (pkTenant (Memory.readWords s.hbm ((s.host.mbox.arg 0).toNat) 8)) 0) + 1) % 2 ^ 24), runs := d.runs ++ [{ ({ mkRun s.host.mbox.run 0 0 s.host.mbox.run (Memory.readWords s.hbm ((s.host.mbox.arg 0).toNat) 8) hd with sup := true, inStore := false } : Run) with runId := (SMap.get s.disp.nextRun (pkTenant (Memory.readWords s.hbm ((s.host.mbox.arg 0).toNat) 8)) 0) }] })) { ({ mkRun s.host.mbox.run 0 0 s.host.mbox.run (Memory.readWords s.hbm ((s.host.mbox.arg 0).toNat) 8) hd with sup := true, inStore := false } : Run) with runId := (SMap.get s.disp.nextRun (pkTenant (Memory.readWords s.hbm ((s.host.mbox.arg 0).toNat) 8)) 0) } (bits (s.host.mbox.arg 1) 13 0) = some u) ∧
    (∃ (s : State) (tb : Nat) (hd : Word), cmdPending s 3 = true ∧ s.host.table = some tb ∧ s.host.mbox.sup = none ∧ ((s.host.mbox.arg 0).toNat) % 64 = 0 ∧ ((s.host.mbox.arg 0).toNat) + 64 ≤ hbmTop ∧ supPacketOk s (Memory.readWords s.hbm ((s.host.mbox.arg 0).toNat) 8) (bits (s.host.mbox.arg 1) 13 0) = some hd ∧ (∀ c ∈ ((gangCores (bits (s.host.mbox.arg 1) 13 0) (Memory.readWords s.hbm ((s.host.mbox.arg 0).toNat) 8)).map (fun (c, _, _) => c)), ∀ d ∈ s.disp.parts, d.has c = true → d.tenant = pkTenant (Memory.readWords s.hbm ((s.host.mbox.arg 0).toNat) 8)) ∧ (∀ c ∈ ((gangCores (bits (s.host.mbox.arg 1) 13 0) (Memory.readWords s.hbm ((s.host.mbox.arg 0).toNat) 8)).map (fun (c, _, _) => c)), (∀ x ∈ (s.core c).ctxs, x.2.state = .free) ∧ coreFits s (Memory.readWords s.hbm ((s.host.mbox.arg 0).toNat) 8) c = true) ∧ s.host.tele.powerHold = false ∧ s.host.tele.tempHold = false ∧ pkDep (Memory.readWords s.hbm ((s.host.mbox.arg 0).toNat) 8) = 0 ∧ placeGang ((s.modHost (fun h => { h with mbox := { h.mbox with sup := some ({ mkRun s.host.mbox.run 0 0 s.host.mbox.run (Memory.readWords s.hbm ((s.host.mbox.arg 0).toNat) 8) hd with sup := true, inStore := false } : Run) } })).modDisp (fun d => { d with nextRun := SMap.put d.nextRun 0 (pkTenant (Memory.readWords s.hbm ((s.host.mbox.arg 0).toNat) 8)) (((SMap.get s.disp.nextRun (pkTenant (Memory.readWords s.hbm ((s.host.mbox.arg 0).toNat) 8)) 0) + 1) % 2 ^ 24), runs := d.runs ++ [{ ({ mkRun s.host.mbox.run 0 0 s.host.mbox.run (Memory.readWords s.hbm ((s.host.mbox.arg 0).toNat) 8) hd with sup := true, inStore := false } : Run) with runId := (SMap.get s.disp.nextRun (pkTenant (Memory.readWords s.hbm ((s.host.mbox.arg 0).toNat) 8)) 0) }] })) { ({ mkRun s.host.mbox.run 0 0 s.host.mbox.run (Memory.readWords s.hbm ((s.host.mbox.arg 0).toNat) 8) hd with sup := true, inStore := false } : Run) with runId := (SMap.get s.disp.nextRun (pkTenant (Memory.readWords s.hbm ((s.host.mbox.arg 0).toNat) 8)) 0) } (bits (s.host.mbox.arg 1) 13 0) = none) ∧
    (∃ (s : State) (n : _), s.host.phase = 2 ∧ cmdPending s 4 = true ∧ n < 8 ∧ sessionOf s n = none ∧ (∀ m, m < n → sessionOf s m ≠ none)) ∧
    (∃ (s : State) (tn : _), s.host.phase = 2 ∧ cmdPending s 5 = true ∧ sessionOf s (bits (s.host.mbox.arg 0) 2 0) = some tn) ∧
    (∃ (s : State) (tn : _), s.host.phase = 2 ∧ sessionOf s (dbgArg s).session = some tn ∧ dbgOk s (dbgArg s) = true ∧ cmdPending s 6 = true) ∧
    (∃ (s : State) (tn : _), s.host.phase = 2 ∧ sessionOf s (dbgArg s).session = some tn ∧ dbgOk s (dbgArg s) = true ∧ cmdPending s 7 = true ∧ (dbgArg s).kind ≠ 3) ∧
    (∃ (s : State) (tn : Nat) (d : DbgArg), d.kind = 0 ∧ genOwner (s.core d.core) ((s.core d.core).reg ((s.ctx d.core d.slot).wbase + d.index)).gen ≠ some tn) ∧
    (∃ (s : State) (tn : Nat) (d : DbgArg), d.kind = 0 ∧ genOwner (s.core d.core) ((s.core d.core).reg ((s.ctx d.core d.slot).wbase + d.index)).gen = some tn) ∧
    (∃ (s : State) (tn : Nat) (d : DbgArg), d.kind = 0 ∧ genOwner (s.core d.core) ((s.core d.core).reg ((s.ctx d.core d.slot).wbase + d.index)).gen = some tn ∧ d.index = 0) ∧
    (∃ (s : State) (tn : Nat) (d : DbgArg), d.kind = 0 ∧ genOwner (s.core d.core) ((s.core d.core).reg ((s.ctx d.core d.slot).wbase + d.index)).gen = some tn ∧ d.index ≠ 0) ∧
    (∃ (s : State) (path : Option Nat × Word), s.host.phase = 2 ∧ tierPath s = some path ∧ cmdPending s 8 = true ∧ s.host.ckpt = none ∧ (∀ w ∈ s.disp.switches, w.out = true)) ∧
    (∃ (s : State) (path : Option Nat × Word) (c : _), s.host.phase = 2 ∧ tierPath s = some path ∧ cmdPending s 8 = true ∧ s.host.ckpt = some c ∧ c.headerDone = false ∧ s.disp.switches = []) ∧
    (∃ (s : State) (path : Option Nat × Word) (ok : Bool) (im : _), s.host.phase = 2 ∧ tierPath s = some path ∧ cmdPending s 9 = true ∧ (∀ p ∈ s.disp.parts, isOut s p.tenant = true ∨ neverStarted s p.tenant = true) ∧ s.disp.switches = [] ∧ (imageAt s.draw.2 s.draw.1 ok path) = some im) ∧
    (∃ (s : State) (path : Option Nat × Word) (ok : Bool), s.host.phase = 2 ∧ tierPath s = some path ∧ cmdPending s 9 = true ∧ (∀ p ∈ s.disp.parts, isOut s p.tenant = true ∨ neverStarted s p.tenant = true) ∧ s.disp.switches = [] ∧ (imageAt s.draw.2 s.draw.1 ok path) = none) ∧
    (∃ (s : State) (path : Option Nat × Word), s.host.phase = 2 ∧ tierPath s = some path ∧ cmdPending s 9 = true ∧ (∀ p ∈ s.disp.parts, isOut s p.tenant = true ∨ neverStarted s p.tenant = true) ∧ s.disp.switches = [] ∧ path.1 = none) ∧
    (∃ n, n < hbmTop) ∧
    (∃ j, j < 1312) ∧
    (∃ (s : State) (c : Ckpt), s.host.phase = 2 ∧ cmdPending s 10 = true ∧ s.host.ckpt = some c ∧ c.headerDone = true ∧ c.stayOut = true ∧ c.resumeAt = none) ∧
    (∃ (s : State) (c : Ckpt), s.host.phase = 2 ∧ cmdPending s 10 = true ∧ s.host.ckpt = some c ∧ c.stayOut = false) ∧
    (∃ (s u : State) (c : Ckpt) (t : Nat), s.host.ckpt = some c ∧ c.resumeAt = some t ∧ c.headerDone = true ∧ t ≤ s.tstamp ∧ resumeAll c.tenants s = some u) ∧
    (∃ (s : State) (c : Ckpt) (t : Nat), s.host.ckpt = some c ∧ c.resumeAt = some t ∧ c.headerDone = true ∧ t ≤ s.tstamp ∧ resumeAll c.tenants s = none) ∧
    (∃ (s : State) (c : Ckpt) (t : Nat), s.host.ckpt = some c ∧ c.resumeAt = some t ∧ c.headerDone = true ∧ s.tstamp < t) :=
  ⟨⟨(State.modHost (State.reset) (fun h => { h with phase := 2, mbox := { h.mbox with cmd := 3, cur := some 3, busy := true, args := [0, 0, 0, 0] } })), 0x1000, by decide +kernel, by decide +kernel, by decide +kernel⟩,
   ⟨State.reset, by decide +kernel⟩,
   ⟨(State.modHost (State.reset) (fun h => { h with phase := 2, mbox := { h.mbox with cmd := 3, cur := some 3, busy := true, result := some (0, 4, 5), args := [0, 0, 0, 0] } })), _, _, _, _, some_of (by decide +kernel), some_of (by decide +kernel)⟩,
   ⟨_, (State.modHost (State.reset) (fun h => { h with phase := 1, mbox := { h.mbox with cmd := 4, cur := some 4, busy := true, args := [0, 0, 0, 0] } })), .head _, by decide +kernel, by decide +kernel⟩,
   ⟨(State.modHost (State.reset) (fun h => { h with phase := 2, mbox := { h.mbox with cmd := 1, cur := some 1, busy := true, args := [0x100000, 0, 0, 0] } })), by decide +kernel, by decide +kernel, by decide +kernel, by decide +kernel⟩,
   ⟨(State.modHost (State.reset) (fun h => { h with phase := 2, mbox := { h.mbox with cmd := 1, cur := some 1, busy := true, args := [0x1000, 0, 0, 0] } })), by decide +kernel, by decide +kernel⟩,
   ⟨(State.modHost (State.reset) (fun h => { h with phase := 2, mbox := { h.mbox with cmd := 2, cur := some 2, busy := true, args := [0x1000, 64, 0, 0] }, table := some 0x100000 })), by decide +kernel, by decide +kernel, by decide +kernel, by decide +kernel, by decide +kernel, by decide +kernel⟩,
   ⟨(State.modHost (State.reset) (fun h => { h with phase := 2, mbox := { h.mbox with cmd := 2, cur := some 2, busy := true, args := [0x1001, 64, 0, 0] }, table := some 0x100000 })), by decide +kernel, by decide +kernel⟩,
   ⟨(State.modHost (put8 24632 (0) (put8 24624 (0) (put8 24616 (0) (put8 24608 (0) (put8 24600 (1) (put8 24592 (2 ^ 12 + 2 ^ 19 + 2 ^ 54) (put8 24584 (0) (put8 24576 (0x400) (tabs State.reset))))))))) (fun h => { h with phase := 2, tele := { h.tele with powerHold := true }, mbox := { h.mbox with cmd := 3, cur := some 3, busy := true, args := [0x6000, 0, 0, 0] } })), _, _, by decide +kernel, some_of (by decide +kernel), by decide +kernel, by decide +kernel, by decide +kernel, some_of (by decide +kernel), by decide +kernel, by decide +kernel, by decide +kernel⟩,
   ⟨(State.modHost (put8 24632 (0) (put8 24624 (0) (put8 24616 (0) (put8 24608 (0) (put8 24600 (1) (put8 24592 (2 ^ 12 + 2 ^ 19 + 2 ^ 54) (put8 24584 (0) (put8 24576 (0x400) (tabs State.reset))))))))) (fun h => { h with phase := 2, mbox := { h.mbox with cmd := 3, cur := some 3, busy := true, args := [0x6000, 0, 0, 0] } })), _, _, _, by decide +kernel, some_of (by decide +kernel), by decide +kernel, by decide +kernel, by decide +kernel, some_of (by decide +kernel), by decide +kernel, by decide +kernel, by decide +kernel, by decide +kernel, by decide +kernel, some_of (by decide +kernel)⟩,
   ⟨(fun S : State => S.modCore 0 (fun K => { K with fold := [.fold] })) ((State.modHost (put8 24632 (0) (put8 24624 (0) (put8 24616 (0) (put8 24608 (0) (put8 24600 (1) (put8 24592 (2 ^ 12 + 2 ^ 19 + 2 ^ 54) (put8 24584 (0) (put8 24576 (0x400) (tabs State.reset))))))))) (fun h => { h with phase := 2, mbox := { h.mbox with cmd := 3, cur := some 3, busy := true, args := [0x6000, 0, 0, 0] } }))), _, _, by decide +kernel, some_of (by decide +kernel), by decide +kernel, by decide +kernel, by decide +kernel, some_of (by decide +kernel), by decide +kernel, by decide +kernel, by decide +kernel, by decide +kernel, by decide +kernel, by decide +kernel⟩,
   ⟨(State.modHost (State.reset) (fun h => { h with phase := 2, mbox := { h.mbox with cmd := 4, cur := some 4, busy := true, args := [3, 0, 0, 0] } })), 0, by decide +kernel, by decide +kernel, by decide +kernel, by decide +kernel, by decide +kernel⟩,
   ⟨(State.modHost (State.reset) (fun h => { h with phase := 2, mbox := { h.mbox with cmd := 5, cur := some 5, busy := true, args := [0, 0, 0, 0] }, sessions := [(0, (5, true))] })), _, by decide +kernel, by decide +kernel, some_of (by decide +kernel)⟩,
   ⟨(State.modHost (cpu (.add 5 6 7)) (fun h => { h with phase := 2, mbox := { h.mbox with cmd := 6, cur := some 6, busy := true, args := [0, 3, 0, 0] }, sessions := [(0, (0, true))] })), _, by decide +kernel, some_of (by decide +kernel), by decide +kernel, by decide +kernel⟩,
   ⟨(State.modHost (cpu (.add 5 6 7)) (fun h => { h with phase := 2, mbox := { h.mbox with cmd := 7, cur := some 7, busy := true, args := [0, 3, 5, 6] }, sessions := [(0, (0, true))] })), _, by decide +kernel, some_of (by decide +kernel), by decide +kernel, by decide +kernel, by decide +kernel⟩,
   ⟨cpu (.add 5 6 7), 7, { session := 0, kind := 0, core := 0, slot := 0, index := 5 }, by decide +kernel, by decide +kernel⟩,
   ⟨onReg 5 3 (cpu .nop), _, { session := 0, kind := 0, core := 0, slot := 0, index := 5 }, by decide +kernel, some_of (by decide +kernel)⟩,
   ⟨onCore (fun K => { K with regs := [(0, { val := 5, cnt := 1, inx := false, gen := 1 })] }) (cpu (.add 5 6 7)), _, { session := 0, kind := 0, core := 0, slot := 0, index := 0 }, by decide +kernel, some_of (by decide +kernel), by decide +kernel⟩,
   ⟨onReg 5 3 (cpu .nop), _, { session := 0, kind := 0, core := 0, slot := 0, index := 5 }, by decide +kernel, some_of (by decide +kernel), by decide +kernel⟩,
   ⟨(State.modHost ((State.modDisp (cpu (.add 5 6 7)) (fun D => { D with parts := [{ tenant := 0, words := [0x100000, 0, 0, 0, 0, 0, 0, 0xFFFFFFFFFFFFFFFF] }] }))) (fun h => { h with phase := 2, linkUp := [(2, true)], mbox := { h.mbox with cmd := 8, cur := some 8, busy := true, args := [5, 0x5000, 0, 0] } })), _, by decide +kernel, some_of (by decide +kernel), by decide +kernel, by decide +kernel, by decide +kernel⟩,
   ⟨(State.modHost (cpu (.add 5 6 7)) (fun h => { h with phase := 2, linkUp := [(2, true)], mbox := { h.mbox with cmd := 8, cur := some 8, busy := true, args := [5, 0x5000, 0, 0] }, ckpt := some { t := 5, stayOut := false, tenants := [], headerDone := false, resumeAt := none } })), _, _, by decide +kernel, some_of (by decide +kernel), by decide +kernel, some_of (by decide +kernel), by decide +kernel, by decide +kernel⟩,
   ⟨(State.modHost (cpu (.add 5 6 7)) (fun h => { h with phase := 2, linkUp := [(2, true)], mbox := { h.mbox with cmd := 9, cur := some 9, busy := true, args := [5, 0x5000, 0, 0] }, images := [{ peer := some 2, base := 0x5000, num := 0, len3 := 0, code := 0, t := 5, hbm := [(0x40, 5)], cores := [], squares := [], disp := Disp.reset }] })), _, true, _, by decide +kernel, some_of (by decide +kernel), by decide +kernel, by decide +kernel, by decide +kernel, some_of (by decide +kernel)⟩,
   ⟨(State.modHost (cpu (.add 5 6 7)) (fun h => { h with phase := 2, linkUp := [(2, true)], mbox := { h.mbox with cmd := 9, cur := some 9, busy := true, args := [5, 0x5000, 0, 0] }, images := [{ peer := some 2, base := 0x5000, num := 0, len3 := 0, code := 0, t := 5, hbm := [(0x40, 5)], cores := [], squares := [], disp := Disp.reset }] })), _, false, by decide +kernel, some_of (by decide +kernel), by decide +kernel, by decide +kernel, by decide +kernel, by decide +kernel⟩,
   ⟨(State.modHost (cpu (.add 5 6 7)) (fun h => { h with phase := 2, linkUp := [(2, true)], mbox := { h.mbox with cmd := 9, cur := some 9, busy := true, args := [0, 0x5000, 0, 0] }, images := [{ peer := some 2, base := 0x5000, num := 0, len3 := 0, code := 0, t := 5, hbm := [(0x40, 5)], cores := [], squares := [], disp := Disp.reset }] })), _, by decide +kernel, some_of (by decide +kernel), by decide +kernel, by decide +kernel, by decide +kernel, by decide +kernel⟩,
   ⟨0x40, by decide +kernel⟩,
   ⟨5, by decide +kernel⟩,
   ⟨(State.modHost (State.reset) (fun h => { h with phase := 2, mbox := { h.mbox with cmd := 10, cur := some 10, busy := true, args := [0, 0, 0, 0] }, ckpt := some { t := 5, stayOut := true, tenants := [0], headerDone := true, resumeAt := none } })), _, by decide +kernel, by decide +kernel, some_of (by decide +kernel), by decide +kernel, by decide +kernel, by decide +kernel⟩,
   ⟨(State.modHost (State.reset) (fun h => { h with phase := 2, mbox := { h.mbox with cmd := 10, cur := some 10, busy := true, args := [0, 0, 0, 0] }, ckpt := some { t := 5, stayOut := false, tenants := [0], headerDone := false, resumeAt := none } })), _, by decide +kernel, by decide +kernel, some_of (by decide +kernel), by decide +kernel⟩,
   ⟨(State.modHost (cpu (.add 5 6 7)) (fun h => { h with phase := 2, mbox := { h.mbox with cmd := 10, cur := some 10, busy := true, args := [0, 0, 0, 0] }, ckpt := some { t := 5, stayOut := false, tenants := [], headerDone := true, resumeAt := some 0 } })), _, _, _, some_of (by decide +kernel), some_of (by decide +kernel), by decide +kernel, by decide +kernel, some_of (by decide +kernel)⟩,
   ⟨(fun S : State => S.modCore 0 (fun K => { K with fold := [.fold] })) (State.modDisp ((State.modHost (cpu (.add 5 6 7)) (fun h => { h with phase := 2, mbox := { h.mbox with cmd := 10, cur := some 10, busy := true, args := [0, 0, 0, 0] }, ckpt := some { t := 5, stayOut := false, tenants := [0], headerDone := true, resumeAt := some 0 } }))) (fun d => { d with saved := [{ tenant := 0, area := 0x10000, check := 0, ckpt := false, cores := [(0, (onMe (fun X => { X with gen := 5 }) (cpu (.add 5 6 7))).core 0)], squares := [], ports := [], smps := [], ships := [] }] })), _, _, some_of (by decide +kernel), some_of (by decide +kernel), by decide +kernel, by decide +kernel, by decide +kernel⟩,
   ⟨(State.modHost (cpu (.add 5 6 7)) (fun h => { h with phase := 2, mbox := { h.mbox with cmd := 10, cur := some 10, busy := true, args := [0, 0, 0, 0] }, ckpt := some { t := 5, stayOut := false, tenants := [], headerDone := true, resumeAt := some 5 } })), _, _, some_of (by decide +kernel), some_of (by decide +kernel), by decide +kernel, by decide +kernel⟩⟩

theorem meets_EncodeThenDecode :
    ∃ (i : Instr) (w : IWord), i.wf = true ∧ encode i = some w :=
  ⟨.rep 15 1 100 27, _, by decide +kernel, some_of (by decide +kernel)⟩

theorem meets_DecodeThenEncode :
    ∃ (w : IWord) (i : Instr), decode w = .ok i :=
  ⟨0x042860E0, _, ok_of (by decide +kernel)⟩

theorem meets_NoInstructionStops :
    (∃ i : Instr, i.wf = true ∧ isEvent i = false) ∧ (∃ i : Instr, i.wf = true ∧ isEvent i = true) :=
  ⟨⟨.fma .b16x4 5 6 7, by decide +kernel⟩, ⟨.hostRead 4 { off := 0 }, by decide +kernel⟩⟩

theorem next_of {o : Host.Outcome State Fault Refusal} (h : goesOn o = true) : ∃ t, o = .next t := by
  cases o with
  | next t => exact ⟨t, rfl⟩
  | fault e => simp [goesOn] at h
  | refused r => simp [goesOn] at h

theorem meets_CanonicalKept :
    (∃ s t : State, s.canonical = true ∧ step s = .next t) ∧ (∃ s t : State, s.ordered = true ∧ step s = .next t) :=
  ⟨⟨State.reset.withFetchWord 32 0x042860E0, (next_of (by decide +kernel)).choose, by decide +kernel, (next_of (by decide +kernel)).choose_spec⟩,
   ⟨State.reset.withFetchWord 32 0x042860E0, (next_of (by decide +kernel)).choose, by decide +kernel, (next_of (by decide +kernel)).choose_spec⟩⟩

theorem meets_StepRunsDecoded :
    (∃ (s s2 : State) (c n : Nat) (w : IWord) (i : Instr), s.turn = some (.issue c) ∧ issuer { s with turn := none } c = some n ∧
      (let v : State := { ({ s with turn := none } : State) with cur := (c, n) }
       fetchWord v.who.pc (envOf v 0) v = .ok (w, s2)) ∧ decode w = .ok i) ∧
    (∃ (s s2 : State) (c n : Nat) (w : IWord) (r : Reject), s.turn = some (.issue c) ∧ issuer { s with turn := none } c = some n ∧
      (let v : State := { ({ s with turn := none } : State) with cur := (c, n) }
       fetchWord v.who.pc (envOf v 0) v = .ok (w, s2)) ∧ decode w = .error r) :=
  ⟨⟨State.reset.withFetchWord 32 0x042860E0, _, 0, 0, _, .add 5 6 7, by decide +kernel, by decide +kernel,
      ok_of (by decide +kernel), by decide +kernel⟩,
   ⟨State.reset.withFetchWord 32 0xFF000000, _, 0, 0, _, .major, by decide +kernel, by decide +kernel,
      ok_of (by decide +kernel), by decide +kernel⟩⟩

/-! A save area that holds what the save wrote -/

theorem word_congr {m m' : Memory} {a : Nat} (h : ∀ i, a ≤ i → i < a + 8 → Memory.byte m i = Memory.byte m' i) :
    Memory.word m a = Memory.word m' a := by
  unfold Memory.word
  rw [Memory.read_congr 8 m m' a h]

theorem word_write (m : Memory) (a : Nat) (v : Word) : Memory.word (Memory.write m a v.toNat 8) a = v := by
  unfold Memory.word
  rw [Memory.read_write]
  have := v.isLt
  rw [Nat.mod_eq_of_lt (show v.toNat < 256 ^ 8 by omega)]
  simp [w64]

theorem word_write_ne (m : Memory) (a b : Nat) (v : Word) (h : b + 8 ≤ a ∨ a + 8 ≤ b) :
    Memory.word (Memory.write m a v.toNat 8) b = Memory.word m b :=
  word_congr (fun i h1 h2 => Memory.byte_write_outside 8 m a v.toNat i (by omega))

/-- What a save leaves in HBM. -/
def savedBytes (area t n : Nat) : Memory → Nat → Nat → Memory
  | m, _, 0 => m
  | m, j, k + 1 => savedBytes area t n (Memory.write m (area + 8 * j) (areaWord t n j).toNat 8) (j + 1) k

/-- While no key is destroyed, a save changes HBM alone. -/
theorem writeArea_eq (area t n k : Nat) : ∀ (j : Nat) (s : State), s.host.dead = [] →
    writeArea s area t n j k = { s with hbm := savedBytes area t n s.hbm j k } := by
  induction k with
  | zero => intros; rfl
  | succ k ih =>
    intro j s h
    have hw : s.writeAt (.hbm (area + 8 * j)) 8 (areaWord t n j).toNat 0 =
        { s with hbm := Memory.write s.hbm (area + 8 * j) (areaWord t n j).toNat 8 } := by
      simp only [State.writeAt, h, List.contains_nil, Bool.false_eq_true, ↓reduceIte]
    rw [writeArea, hw]
    exact ih (j + 1) _ h

theorem savedBytes_below (area t n k : Nat) : ∀ (j i : Nat) (m : Memory), i < j →
    Memory.word (savedBytes area t n m j k) (area + 8 * i) = Memory.word m (area + 8 * i) := by
  induction k with
  | zero => intros; rfl
  | succ k ih =>
    intro j i m hij
    rw [savedBytes, ih (j + 1) i _ (by omega)]
    exact word_write_ne _ _ _ _ (by omega)

theorem savedBytes_word (area t n k : Nat) : ∀ (j i : Nat) (m : Memory), j ≤ i → i < j + k →
    Memory.word (savedBytes area t n m j k) (area + 8 * i) = areaWord t n i := by
  induction k with
  | zero => intro j i m h1 h2; omega
  | succ k ih =>
    intro j i m h1 h2
    rw [savedBytes]
    rcases Nat.eq_or_lt_of_le h1 with rfl | h
    · rw [savedBytes_below _ _ _ _ _ _ _ (by omega)]
      exact word_write _ _ _
    · exact ih (j + 1) i _ (by omega) (by omega)

/-- What a save writes passes the check of the area. -/
theorem areaHolds_saved (s : State) (area t n k : Nat) (m : Memory) (h : s.hbm = savedBytes area t n m 0 k) : areaHolds s area t n k = true := by
  suffices hj : ∀ j, j ≤ k → areaHolds s area t n j = true from hj k le_rfl
  intro j
  induction j with
  | zero => intro _; rfl
  | succ j ih =>
    intro hj
    rw [areaHolds, h, savedBytes_word area t n k 0 j m (by omega) (by omega), ih (by omega)]
    simp

def partOne : Machine.Part := { tenant := 0, words := [0x100000, 0, 0, 0, 0, 0, 0, 0] }
def switchIn : Switch :=
  { tenant := 0, part := partOne, out := false, t := 0, area := 0x10000, core := 0, slot := 0, phase := 0, ckpt := false }
/-- A saved partition without flits, its cores as given. -/
def savedWith (cores : SMap Core) : Saved :=
  { tenant := 0, area := 0x10000, check := 0, ckpt := false, cores := cores, squares := [], ports := [], smps := [], ships := [] }
/-- Core 0 saved with one region, which needs a generation. -/
def coreSaved : Core :=
  { Core.reset with regions := [{ off := 0, len := 32, trap := false, gen := 9, gang := 0, tenant := 0, retired := false }] }
/-- The machine after reset, core 0 as given, with that partition's area in HBM and a switch in requested. -/
def withArea (k : Core) (v : Saved) : State :=
  let s := (State.reset.modCore 0 (fun _ => k)).modDisp (fun d => { d with switches := [switchIn], saved := [v] })
  writeArea s 0x10000 0 0 0 (areaBytes partOne / 8)
def folding : Core := { Core.reset with fold := [.fold] }

/-- A core that folds gives no generation. -/
theorem restoreCore_stalled {s : State} {c t n : Nat} {sv : Core} (hl : (savedGens sv).length = n + 1) (h : mayTake s c (.switch t) = false) :
    restoreCore s c t sv = none := by
  simp only [restoreCore, hl, takeGens, takeGen, h, Bool.not_false, ↓reduceIte, Option.bind_none, Option.map_none]

theorem stalled_saved (s : State) (h : s.core 0 = folding) :
    bringBack s (savedWith [(0, coreSaved)]) = .error (stallFor 1 (.switch 0) s 0) := by
  have hm : mayTake (s.forget (fun pl => ([(0, coreSaved)] : SMap Core).any (fun c => pl.onCore c.1))) 0 (.switch 0) = false := by
    unfold mayTake
    rw [show (s.forget (fun pl => ([(0, coreSaved)] : SMap Core).any (fun c => pl.onCore c.1))).core 0 = s.core 0 from rfl, h]
    rfl
  have hr : restoreCores 0 [(0, coreSaved)] (s.forget (fun pl => ([(0, coreSaved)] : SMap Core).any (fun c => pl.onCore c.1))) = none := by
    rw [restoreCores, restoreCore_stalled (n := 0) rfl hm]
    rfl
  rw [bringBack, show (savedWith [(0, coreSaved)]).tenant = 0 from rfl, show (savedWith [(0, coreSaved)]).cores = [(0, coreSaved)] from rfl, hr]
  rfl

theorem withArea_hbm (k : Core) (v : Saved) : ∃ m, withArea k v =
    { (State.reset.modCore 0 (fun _ => k)).modDisp (fun d => { d with switches := [switchIn], saved := [v] }) with hbm := m } := by
  unfold withArea
  generalize areaBytes partOne / 8 = n
  exact ⟨_, writeArea_eq _ _ _ n _ _ rfl⟩

theorem withArea_holds (k : Core) (c : SMap Core) :
    (!(savedWith c).ckpt && areaHolds (withArea k (savedWith c)) switchIn.area 0 (savedWith c).check.toNat (areaBytes switchIn.part / 8)) = true := by
  rw [show (savedWith c).ckpt = false from rfl, show (savedWith c).check.toNat = 0 from rfl, show switchIn.area = 0x10000 from rfl,
    show switchIn.part = partOne from rfl]
  unfold withArea
  generalize areaBytes partOne / 8 = n
  rw [writeArea_eq _ _ _ n _ _ rfl]
  exact (Bool.true_and _).trans (areaHolds_saved _ _ _ _ n _ rfl)

/-- Of Obligations.GangSwitch: the restore of an image that its area still holds, and one whose core folds. -/
theorem meets_GangSwitch_restore :
    (∃ (tn : Nat) (s u : State) (w : Switch) (v : Saved), switchOf s tn = some w ∧ s.disp.saved.find? (fun v => v.tenant == tn) = some v ∧
      w.out = false ∧ w.phase = 0 ∧ (!v.ckpt && areaHolds s w.area tn v.check.toNat (areaBytes w.part / 8)) = true ∧ bringBack s v = .ok u) ∧
    (∃ (tn : Nat) (s u : State) (w : Switch) (v : Saved), switchOf s tn = some w ∧ s.disp.saved.find? (fun v => v.tenant == tn) = some v ∧
      w.out = false ∧ w.phase = 0 ∧ (!v.ckpt && areaHolds s w.area tn v.check.toNat (areaBytes w.part / 8)) = true ∧ bringBack s v = .error u) := by
  refine ⟨⟨0, withArea Core.reset (savedWith []), _, switchIn, savedWith [], ?_, ?_, rfl, rfl, withArea_holds _ _, rfl⟩,
    ⟨0, withArea folding (savedWith [(0, coreSaved)]), stallFor 1 (.switch 0) (withArea folding (savedWith [(0, coreSaved)])) 0, switchIn, savedWith [(0, coreSaved)], ?_, ?_, rfl, rfl, withArea_holds _ _, ?_⟩⟩
  · obtain ⟨m, h⟩ := withArea_hbm Core.reset (savedWith []); rw [h]; rfl
  · obtain ⟨m, h⟩ := withArea_hbm Core.reset (savedWith []); rw [h]; rfl
  · obtain ⟨m, h⟩ := withArea_hbm folding (savedWith [(0, coreSaved)]); rw [h]; rfl
  · obtain ⟨m, h⟩ := withArea_hbm folding (savedWith [(0, coreSaved)]); rw [h]; rfl
  · exact stalled_saved _ (by obtain ⟨m, h⟩ := withArea_hbm folding (savedWith [(0, coreSaved)]); rw [h]; rfl)

/-- Of Obligations.MemoryOrder (R230, R235): a context that acquires the flag of a release can no longer read an older value of the data; one that only reads the
flag can. -/
theorem test_message_passing :
    let a := (cpu .nop).commit ((cpu .nop).byCtx 0 1 0 0) (.hbm 0x40) 8 5 0
    let s := a.commit (a.byRelease 0 1 0 1 .device) (.hbm 0x80) 8 1 0
    let t := s.gain 2 (s.acquired (.ctx 2 1 0 0 0) .device (s.latest (.hbm 0x80) 8))
    let p := s.see 2 (s.latest (.hbm 0x80) 8)
    t.hasOlder (t.reader 2) 0 anyWr (.hbm 0x40) 8 = false ∧ p.hasOlder (p.reader 2) 0 anyWr (.hbm 0x40) 8 = true := by
  decide +kernel

/-- The same with fences (R236): the writer's fence before a plain store, the reader's after a plain read. -/
theorem test_message_passing_by_fences :
    let a := (cpu .nop).commit ((cpu .nop).byCtx 0 1 0 0) (.hbm 0x40) 8 5 0
    let f := fenced .rel .device 1 a
    let s := f.commit (f.byCtx 0 1 0 1) (.hbm 0x80) 8 1 0
    let t := fenced .acq .device 2 (s.see 2 (s.latest (.hbm 0x80) 8))
    let u := s.gain 2 (s.acquired (.ctx 2 1 0 0 0) .device (s.latest (.hbm 0x80) 8))
    t.hasOlder (t.reader 2) 0 anyWr (.hbm 0x40) 8 = false ∧ u.hasOlder (u.reader 2) 0 anyWr (.hbm 0x40) 8 = false := by
  decide +kernel

end Sys2Proof.Tests
end

section
/-! PROOF. No instruction and no event stops the machine (R11): every branch of every meaning answers a next state. What the meanings
share (an issue slot, a mailbox command) is settled once; an event with a meaning of its own is split along the branches of that meaning. -/

namespace Sys2Proof.Machine

/-! ### What the meanings share -/

@[simp] theorem goesOn_next (t : State) : goesOn (.next t) = true := rfl

/-- A trap, a park and a stall end an issue slot with a next state as a completion does. -/
@[simp] theorem finish_goesOn (e : Env) (s : State) (r : Except Stop (Unit × State)) : goesOn (finish e s r) = true := by
  rcases r with (t | ⟨w, keep⟩ | _) | ⟨_, t⟩ <;> rfl

/-- An instruction that a check of R105 refuses traps; any other ends as its body does. -/
theorem issue_goesOn (fm : Form) (word : IWord) (body : M Unit) (s : State) : goesOn (issue fm word body s) = true := by
  fun_cases issue fm word body s
  case case1 => rfl
  case case2 => exact finish_goesOn _ _ _

theorem run_goesOn (i : Instr) (body : M Unit) (s : State) : goesOn (run i body s) = true :=
  issue_goesOn (form i) ((encode i).getD 0) body s

theorem mailbox_goesOn (n : Nat) (f : State → State) (s : State) : goesOn (mailbox n f s) = true := by
  fun_cases mailbox n f s <;> rfl

/-- The event that `dbg` records changes the state of an outcome and not its kind. -/
theorem goesOn_noteDbg (core slot n : Nat) (o : Host.Outcome State Fault Refusal) : goesOn (noteDbg core slot n o) = goesOn o := by
  cases o <;> rfl

theorem execDbg_goesOn (n : BitVec 8) (s : State) : goesOn (execDbg n s) = true :=
  (goesOn_noteDbg ..).trans (run_goesOn ..)

/-! ### Stores, loads, records and landings -/

theorem execStoreBufferCommit_goesOn (core idx : Nat) (s : State) : goesOn (execStoreBufferCommit core idx s) = true := by
  fun_cases execStoreBufferCommit core idx s <;> rfl

theorem execLoadReply_goesOn (core slot idx : Nat) (s : State) : goesOn (execLoadReply core slot idx s) = true := by
  fun_cases execLoadReply core slot idx s <;> rfl

theorem execRecordArrival_goesOn (idx : Nat) (s : State) : goesOn (execRecordArrival idx s) = true := by
  fun_cases execRecordArrival idx s <;> rfl

theorem execLanding_goesOn (core : Nat) (s : State) : goesOn (execLanding core s) = true := by
  fun_cases execLanding core s <;> rfl

theorem execPostedStoreAccept_goesOn (core idx answer : Nat) (s : State) : goesOn (execPostedStoreAccept core idx answer s) = true := by
  fun_cases execPostedStoreAccept core idx answer s <;> rfl

theorem execGoDeliveryRetry_goesOn (core slot : Nat) (s : State) : goesOn (execGoDeliveryRetry core slot s) = true := by
  fun_cases execGoDeliveryRetry core slot s <;> rfl

theorem execLandingRingRedelivery_goesOn (tenant : Nat) (s : State) : goesOn (execLandingRingRedelivery tenant s) = true := by
  fun_cases execLandingRingRedelivery tenant s <;> rfl

/-! ### Tiles, runs and gangs -/

theorem execTakeAnswer_goesOn (idx : Nat) (s : State) : goesOn (execTakeAnswer idx s) = true := by
  fun_cases execTakeAnswer idx s <;> rfl

theorem execDoneWordRetry_goesOn (run : Nat) (s : State) : goesOn (execDoneWordRetry run s) = true := by
  fun_cases execDoneWordRetry run s <;> rfl

theorem execRunComplete_goesOn (run : Nat) (s : State) : goesOn (execRunComplete run s) = true := by
  fun_cases execRunComplete run s <;> rfl

theorem execLaunchSlotTake_goesOn (queue : Nat) (s : State) : goesOn (execLaunchSlotTake queue s) = true := by
  fun_cases execLaunchSlotTake queue s <;> rfl

theorem execLaunchRingReturn_goesOn (tenant : Nat) (s : State) : goesOn (execLaunchRingReturn tenant s) = true := by
  fun_cases execLaunchRingReturn tenant s <;> rfl

theorem execDepWordPoll_goesOn (run : Nat) (s : State) : goesOn (execDepWordPoll run s) = true := by
  fun_cases execDepWordPoll run s <;> rfl

theorem execGangFillEnd_goesOn (gang : Nat) (s : State) : goesOn (execGangFillEnd gang s) = true := by
  fun_cases execGangFillEnd gang s <;> rfl

theorem execGangRetire_goesOn (gang : Nat) (s : State) : goesOn (execGangRetire gang s) = true := by
  fun_cases execGangRetire gang s <;> rfl

theorem execStreamEntryReread_goesOn (core slot : Nat) (s : State) : goesOn (execStreamEntryReread core slot s) = true := by
  fun_cases execStreamEntryReread core slot s <;> rfl

theorem execAllAsleepSample_goesOn (tenant : Nat) (s : State) : goesOn (execAllAsleepSample tenant s) = true := by
  fun_cases execAllAsleepSample tenant s <;> rfl

/-! ### Passes over the local store, the copy engine, translation and ports -/

theorem execFoldEnd_goesOn (core : Nat) (s : State) : goesOn (execFoldEnd core s) = true := by
  fun_cases execFoldEnd core s <;> rfl

theorem execGscrubEnd_goesOn (core : Nat) (s : State) : goesOn (execGscrubEnd core s) = true := by
  fun_cases execGscrubEnd core s <;> rfl

theorem execCopyCommandStart_goesOn (core slot : Nat) (s : State) : goesOn (execCopyCommandStart core slot s) = true := by
  fun_cases execCopyCommandStart core slot s <;> rfl

theorem execCopyCommandComplete_goesOn (core slot : Nat) (s : State) : goesOn (execCopyCommandComplete core slot s) = true := by
  fun_cases execCopyCommandComplete core slot s <;> rfl

theorem execQfenComplete_goesOn (core slot : Nat) (s : State) : goesOn (execQfenComplete core slot s) = true := by
  fun_cases execQfenComplete core slot s <;> rfl

theorem execTlbiRemovalComplete_goesOn (idx : Nat) (s : State) : goesOn (execTlbiRemovalComplete idx s) = true := by
  fun_cases execTlbiRemovalComplete idx s <;> rfl

theorem execTranslationWalkEnd_goesOn (idx : Nat) (s : State) : goesOn (execTranslationWalkEnd idx s) = true := by
  fun_cases execTranslationWalkEnd idx s <;> rfl

theorem execPortWordArrival_goesOn (idx : Nat) (s : State) : goesOn (execPortWordArrival idx s) = true := by
  fun_cases execPortWordArrival idx s <;> rfl

/-! ### Issue outside `run`: words that do not decode, `one.` pairs, `rep` and its replays -/

theorem execIssueRefusalHolder_goesOn (w : IWord) (s : State) : goesOn (execIssueRefusalHolder w s) = true := by
  fun_cases execIssueRefusalHolder w s <;> rfl

theorem execOne_goesOn (s : State) : goesOn (execOne s) = true := by
  fun_cases execOne s <;> simp only [goesOn_next, finish_goesOn]

theorem execOneResultDelivery_goesOn (idx : Nat) (s : State) : goesOn (execOneResultDelivery idx s) = true := by
  fun_cases execOneResultDelivery idx s <;> rfl

theorem execRep_goesOn (nm1 : BitVec 4) (st : BitVec 7) (lo : BitVec 7) (span : BitVec 6) (s : State) : goesOn (execRep nm1 st lo span s) = true := by
  fun_cases execRep nm1 st lo span s <;> simp only [goesOn_next, finish_goesOn]

theorem execReplayWordIssue_goesOn (core slot : Nat) (s : State) : goesOn (execReplayWordIssue core slot s) = true := by
  fun_cases execReplayWordIssue core slot s <;> rfl

/-! ### The matrix, rope and sampling engines -/

theorem execMatrixCommandStart_goesOn (core : Nat) (s : State) : goesOn (execMatrixCommandStart core s) = true := by
  fun_cases execMatrixCommandStart core s <;> rfl

theorem execMatrixCommandComplete_goesOn (core : Nat) (s : State) : goesOn (execMatrixCommandComplete core s) = true := by
  fun_cases execMatrixCommandComplete core s <;> rfl

theorem execRopeCommandStart_goesOn (sq : Nat) (s : State) : goesOn (execRopeCommandStart sq s) = true := by
  fun_cases execRopeCommandStart sq s <;> rfl

theorem execRopeCommandComplete_goesOn (sq idx : Nat) (s : State) : goesOn (execRopeCommandComplete sq idx s) = true := by
  fun_cases execRopeCommandComplete sq idx s <;> rfl

theorem execLimboRelease_goesOn (sq idx : Nat) (s : State) : goesOn (execLimboRelease sq idx s) = true := by
  fun_cases execLimboRelease sq idx s <;> rfl

theorem execSampleInjectionArrival_goesOn (idx : Nat) (s : State) : goesOn (execSampleInjectionArrival idx s) = true := by
  fun_cases execSampleInjectionArrival idx s <;> rfl

/-! ### Gang switches, soft errors, boot, links and the host side -/

theorem execSwitchOutStop_goesOn (tenant : Nat) (s : State) : goesOn (execSwitchOutStop tenant s) = true := by
  fun_cases execSwitchOutStop tenant s <;> rfl

theorem execSwitchOutDrainEnd_goesOn (tenant : Nat) (s : State) : goesOn (execSwitchOutDrainEnd tenant s) = true := by
  fun_cases execSwitchOutDrainEnd tenant s <;> rfl

theorem execSwitchOutDone_goesOn (tenant : Nat) (s : State) : goesOn (execSwitchOutDone tenant s) = true := by
  fun_cases execSwitchOutDone tenant s <;> rfl

theorem execSwitchInRestoreEnd_goesOn (tenant : Nat) (ok : Bool) (s : State) : goesOn (execSwitchInRestoreEnd tenant ok s) = true := by
  fun_cases execSwitchInRestoreEnd tenant ok s <;> rfl

theorem execSwitchInResume_goesOn (tenant : Nat) (s : State) : goesOn (execSwitchInResume tenant s) = true := by
  fun_cases execSwitchInResume tenant s <;> rfl

theorem execLockstepForcedCompare_goesOn (core : Nat) (s : State) : goesOn (execLockstepForcedCompare core s) = true := by
  fun_cases execLockstepForcedCompare core s <;> rfl

theorem execSoftError_goesOn (site : ErrSite) (correctable : Bool) (s : State) : goesOn (execSoftError site correctable s) = true := by
  fun_cases execSoftError site correctable s <;> rfl

theorem execBoot_goesOn (imageOk blobOk fieldsOk : Bool) (blob : Blob) (s : State) : goesOn (execBoot imageOk blobOk fieldsOk blob s) = true := by
  fun_cases execBoot imageOk blobOk fieldsOk blob s <;> rfl

theorem execPeerAccessArrival_goesOn (link tenant : Nat) (acc : PeerAccess) (s : State) :
    goesOn (execPeerAccessArrival link tenant acc s) = true := by
  fun_cases execPeerAccessArrival link tenant acc s <;> rfl

theorem execTdispStateChange_goesOn (tenant : Nat) (new : TdispState) (pages : List Nat) (s : State) :
    goesOn (execTdispStateChange tenant new pages s) = true := by
  fun_cases execTdispStateChange tenant new pages s <;> rfl

theorem execMailboxCommandEnd_goesOn (s : State) : goesOn (execMailboxCommandEnd s) = true := by
  fun_cases execMailboxCommandEnd s <;> rfl

theorem execCheckpointResume_goesOn (s : State) : goesOn (execCheckpointResume s) = true := by
  fun_cases execCheckpointResume s <;> rfl

/-! ### Every instruction and every event -/

/-- Arms of one shape go together: what issues through `run`, the mailbox commands, and the events whose meaning is one next state without a branch. -/
theorem exec_goesOn (i : Instr) (s : State) : goesOn (exec i s) = true := by
  cases i with
  | add | sub | mul | mulh | mulhn | div | divn | rem | remn | and | or | xor | shl | shr | sra | min | max | minn | maxn | slt | sltn | seq | sel
  | clz | ctz | pop | perm | addi | andi | ori | xori | shli | shri | srai | slti | sltni | lui | addpc | bfx | bfi | beq | bne | blt | bge | bltn
  | bgen | bsig | b | bl | jr | ld | ldGo | st | ldt | stt | ldfe | ldff | stfe | sete | amo | cas | fence | spc | cvspLoc | cvspSq | cvspRem | fadd
  | fsub | fmul | fma | fnma | fdiv | fsqrt | fmin | fmax | fneg | fabs | fcmp | fcls | frcp | fex2 | flg2 | fcvt | fcvi | icvf | sigr | sigw | qblkI8
  | qblkI4 | fscl | exit | yield | pass | take | go | susp | spawn | spawnTry | spawnW | ctxnew | ctxkill | hold | wait | bar | barw | semp | semv
  | sbind | sfree | gnewZero | gnewTrap | gfree | gchk | cpy | cpym | deal | bkt | qfen | mld | mmul | mgrp | mzero | mout | mxa | rcat | rsplit
  | rsplice | rfind | rfold | rpin | rref | rdrop | smp | smpw | erd | ewr | nop | trap | eret | idle | csrr | csrw | csrs | csrc | cfgctx | tlbi
  | gscrub =>
    unfold exec; exact run_goesOn _ _ _
  | setDescriptorTable | setEventRing | startSupervisorGang | openDebugSession | closeDebugSession | debugRead | debugWrite | checkpoint | restore
  | resume =>
    unfold exec; exact mailbox_goesOn _ _ _
  | contextDrainEnd | holdRecordSend | holdDeliveryRetry | partitionScan | dispatchDecision | runBlock | switchRecordPoll | deviceReset | linkDown
  | linkUp | powerLimitHold | temperatureHigh | temperatureHalt | hostLocalWrite | hostFillAliasWrite | hostHbmWrite | hostRead | launchSlotWrite
  | launchSlotFull | registerWrite | powerLimitRelease | temperatureHoldRelease => rfl
  | one => exact execOne_goesOn s
  | rep nm1 s1 lo span => exact execRep_goesOn nm1 s1 lo span s
  | dbg n => exact execDbg_goesOn n s
  | replayWordIssue core slot => exact execReplayWordIssue_goesOn core slot s
  | oneResultDelivery idx => exact execOneResultDelivery_goesOn idx s
  | loadReply core slot idx => exact execLoadReply_goesOn core slot idx s
  | storeBufferCommit core idx => exact execStoreBufferCommit_goesOn core idx s
  | postedStoreAccept core idx answer => exact execPostedStoreAccept_goesOn core idx answer s
  | portWordArrival idx => exact execPortWordArrival_goesOn idx s
  | translationWalkEnd idx => exact execTranslationWalkEnd_goesOn idx s
  | tlbiRemovalComplete idx => exact execTlbiRemovalComplete_goesOn idx s
  | foldEnd core => exact execFoldEnd_goesOn core s
  | gscrubEnd core => exact execGscrubEnd_goesOn core s
  | copyCommandStart core slot => exact execCopyCommandStart_goesOn core slot s
  | copyCommandComplete core slot => exact execCopyCommandComplete_goesOn core slot s
  | qfenComplete core slot => exact execQfenComplete_goesOn core slot s
  | matrixCommandStart core => exact execMatrixCommandStart_goesOn core s
  | matrixCommandComplete core => exact execMatrixCommandComplete_goesOn core s
  | ropeCommandStart sq => exact execRopeCommandStart_goesOn sq s
  | ropeCommandComplete sq idx => exact execRopeCommandComplete_goesOn sq idx s
  | limboRelease sq idx => exact execLimboRelease_goesOn sq idx s
  | recordArrival idx => exact execRecordArrival_goesOn idx s
  | landing core => exact execLanding_goesOn core s
  | goDeliveryRetry core slot => exact execGoDeliveryRetry_goesOn core slot s
  | landingRingRedelivery tenant => exact execLandingRingRedelivery_goesOn tenant s
  | sampleInjectionArrival idx => exact execSampleInjectionArrival_goesOn idx s
  | launchSlotTake queue => exact execLaunchSlotTake_goesOn queue s
  | launchRingReturn tenant => exact execLaunchRingReturn_goesOn tenant s
  | depWordPoll run => exact execDepWordPoll_goesOn run s
  | gangFillEnd gang => exact execGangFillEnd_goesOn gang s
  | gangRetire gang => exact execGangRetire_goesOn gang s
  | runComplete run => exact execRunComplete_goesOn run s
  | doneWordRetry run => exact execDoneWordRetry_goesOn run s
  | streamEntryReread core slot => exact execStreamEntryReread_goesOn core slot s
  | allAsleepSample tenant => exact execAllAsleepSample_goesOn tenant s
  | switchOutStop tenant => exact execSwitchOutStop_goesOn tenant s
  | switchOutDrainEnd tenant => exact execSwitchOutDrainEnd_goesOn tenant s
  | switchOutDone tenant => exact execSwitchOutDone_goesOn tenant s
  | switchInResume tenant => exact execSwitchInResume_goesOn tenant s
  | lockstepForcedCompare core => exact execLockstepForcedCompare_goesOn core s
  | softError site correctable => exact execSoftError_goesOn site correctable s
  | boot imageOk blobOk fieldsOk blob => exact execBoot_goesOn imageOk blobOk fieldsOk blob s
  | tdispStateChange tenant new pages => exact execTdispStateChange_goesOn tenant new pages s
  | peerAccessArrival link tenant acc => exact execPeerAccessArrival_goesOn link tenant acc s
  | checkpointResume => exact execCheckpointResume_goesOn s
  | issueRefusalHolder w => exact execIssueRefusalHolder_goesOn w s
  | takeAnswer idx => exact execTakeAnswer_goesOn idx s
  | mailboxCommandEnd => exact execMailboxCommandEnd_goesOn s
  | switchInRestoreEnd tenant ok => exact execSwitchInRestoreEnd_goesOn tenant ok s

/-- Settles O57: no rule of the spec stops the machine, so every meaning answers a next state, whether or not the instruction is well formed. -/
theorem noInstructionStops : Obligations.NoInstructionStops := by
  unfold Obligations.NoInstructionStops
  intro i s _
  exact exec_goesOn i s

end Sys2Proof.Machine
end

section
/-! PROOF. What an update of one core or of one context keeps, read through any projection, and what a write of a general register does. -/

namespace Sys2Proof.Machine

/-! ### Frames of updates -/

theorem State.core_modCore (s : State) (c d : Nat) (f : Core → Core) : (s.modCore c f).core d = if d = c then f (s.core c) else s.core d :=
  SMap.get_put s.cores Core.reset c d _

/-- What an update of core c keeps of that core, it keeps of every core. -/
theorem State.core_modCore_keeps {β : Type} (p : Core → β) {s : State} {c : Nat} {f : Core → Core} (h : p (f (s.core c)) = p (s.core c)) (d : Nat) :
    p ((s.modCore c f).core d) = p (s.core d) := by
  rw [State.core_modCore]
  split
  · next hd => rw [h, hd]
  · rfl

theorem State.ctx_modCtx (s : State) (c i d j : Nat) (f : Ctx → Ctx) :
    (s.modCtx c i f).ctx d j = if d = c ∧ j = i then f (s.ctx c i) else s.ctx d j := by
  split
  · next h => rw [h.1, h.2, State.ctx_modCtx_same]
  · next h => exact State.ctx_modCtx_ne s f fun e => h ⟨e.1.symm, e.2.symm⟩

/-- What an update of one context keeps of that context, it keeps of every context. -/
theorem State.ctx_modCtx_keeps {β : Type} (p : Ctx → β) {s : State} {c i : Nat} {f : Ctx → Ctx} (h : p (f (s.ctx c i)) = p (s.ctx c i)) (d j : Nat) :
    p ((s.modCtx c i f).ctx d j) = p (s.ctx d j) := by
  rw [State.ctx_modCtx]
  split
  · next hd => rw [h, hd.1, hd.2]
  · rfl

/-- An update of a context keeps every part of a core but its contexts. -/
theorem State.core_modCtx_keeps {β : Type} (p : Core → β) (hp : ∀ k i x, p (Core.setCtx k i x) = p k) (s : State) (c i : Nat) (f : Ctx → Ctx) (d : Nat) :
    p ((s.modCtx c i f).core d) = p (s.core d) :=
  State.core_modCore_keeps p (hp _ _ _) d

/-- An update of a core that keeps its contexts keeps every context. -/
theorem State.ctx_modCore {s : State} {c : Nat} {f : Core → Core} (h : (f (s.core c)).ctxs = (s.core c).ctxs) (d i : Nat) :
    (s.modCore c f).ctx d i = s.ctx d i :=
  congrArg (fun m => SMap.get m i Ctx.reset) (State.core_modCore_keeps Core.ctxs h d)

theorem ctx_rotate (c i : Nat) (s : State) (d j : Nat) : (rotate c i s).ctx d j = s.ctx d j := by
  unfold rotate
  split <;> exact State.ctx_modCore rfl d j

/-- The place in the rotation is all that the end of an issue slot changes in a core beside its contexts. -/
theorem core_rotate_keeps {β : Type} (p : Core → β) (hp : ∀ k l, p { k with rot := l } = p k) (c i : Nat) (s : State) (d : Nat) :
    p ((rotate c i s).core d) = p (s.core d) := by
  unfold rotate
  split <;> exact State.core_modCore_keeps p (hp _ _) d

theorem ctx_clearFault_keeps {β : Type} (p : Ctx → β) (hp : ∀ x, p { x with xfault := none } = p x) (c i : Nat) (s : State) (d j : Nat) :
    p ((clearFault c i s).ctx d j) = p (s.ctx d j) := by
  unfold clearFault
  split
  · exact State.ctx_modCtx_keeps p (hp _) d j
  · rfl

theorem ctx_ended_keeps {β : Type} (p : Ctx → β) (hp : ∀ x, p { x with xfault := none } = p x) (s t : State) (d j : Nat) :
    p ((ended s t).ctx d j) = p (t.ctx d j) := by
  unfold ended
  rw [ctx_rotate, ctx_clearFault_keeps p hp]

theorem core_ended_keeps {β : Type} (p : Core → β) (hp : ∀ k i x, p (Core.setCtx k i x) = p k) (hr : ∀ k l, p { k with rot := l } = p k)
    (s t : State) (d : Nat) : p ((ended s t).core d) = p (t.core d) := by
  unfold ended
  rw [core_rotate_keeps p hr]
  unfold clearFault
  split
  · exact State.core_modCtx_keeps p hp _ _ _ _ d
  · rfl

theorem ctx_begun_keeps {β : Type} (p : Ctx → β) (hp : ∀ x a, p { x with pc := a, wait := none } = p x) (s : State) (d j : Nat) :
    p ((begun s).ctx d j) = p (s.ctx d j) :=
  State.ctx_modCtx_keeps p (hp _ _) d j

theorem core_begun_keeps {β : Type} (p : Core → β) (hp : ∀ k i x, p (Core.setCtx k i x) = p k) (s : State) (d : Nat) :
    p ((begun s).core d) = p (s.core d) :=
  State.core_modCtx_keeps p hp _ _ _ _ d

/-! ### Memory -/

theorem Core.gov_congr {k l : Core} (h : l.regions = k.regions) (own : BitVec 16) (off : Nat) : l.gov own off = k.gov own off := by
  unfold Core.gov Core.regionAt
  rw [h]

/-- What the bytes of a core's local store are read from. -/
def Core.store (k : Core) : Memory × SMap (BitVec 16) × List Region := (k.ls, k.lsGen, k.regions)

/-- HBM, the host's memory and every local store, with its stamps and regions, are the same. -/
structure SameStores (s t : State) : Prop where
  hbm : t.hbm = s.hbm
  hostMem : t.hostMem = s.hostMem
  store : ∀ c, (t.core c).store = (s.core c).store

theorem SameStores.refl (s : State) : SameStores s s := ⟨rfl, rfl, fun _ => rfl⟩

theorem SameStores.trans {s t u : State} (h : SameStores s t) (g : SameStores t u) : SameStores s u :=
  ⟨g.hbm.trans h.hbm, g.hostMem.trans h.hostMem, fun c => (g.store c).trans (h.store c)⟩

/-- Where the stores are the same, every byte reads as before. -/
theorem SameStores.sameMemory {s t : State} (h : SameStores s t) : sameMemory s t := by
  intro pl own hp
  cases pl with
  | ls c off =>
    obtain ⟨hl, hg, hr⟩ : (t.core c).ls = (s.core c).ls ∧ (t.core c).lsGen = (s.core c).lsGen ∧ (t.core c).regions = (s.core c).regions := by
      simpa [Core.store] using h.store c
    show (t.core c).lsRead ((t.core c).gov own off).1 off 1 = (s.core c).lsRead ((s.core c).gov own off).1 off 1
    rw [Core.gov_congr hr]
    unfold Core.lsRead Core.stamp
    rw [hl, hg]
  | hbm m => rw [State.readAt, State.readAt, h.hbm]
  | host a => rw [State.readAt, State.readAt, h.hostMem]
  | peer k a => exact absurd hp (by simp [Place.isPeer])

theorem SameStores.modCore {s : State} {c : Nat} {f : Core → Core} (h : (f (s.core c)).store = (s.core c).store) : SameStores s (s.modCore c f) :=
  ⟨rfl, rfl, State.core_modCore_keeps Core.store h⟩

theorem SameStores.modCtx (s : State) (c i : Nat) (f : Ctx → Ctx) : SameStores s (s.modCtx c i f) :=
  SameStores.modCore (f := fun k => k.setCtx i (f (s.ctx c i))) rfl

theorem SameStores.ended (s t : State) : SameStores t (ended s t) where
  hbm := by unfold Machine.ended rotate clearFault; split <;> split <;> rfl
  hostMem := by unfold Machine.ended rotate clearFault; split <;> split <;> rfl
  store := core_ended_keeps Core.store (fun _ _ _ => rfl) (fun _ _ => rfl) s t

/-! ### A write of a general register (R50, R72) -/

theorem Core.reg_writeReg (k : Core) (x : Ctx) (f : Nat) (v : TVal) (n : Nat) :
    (k.writeReg x f v).reg n =
      if n = x.wbase + f ∧ f ≠ 0 then { val := v.val, cnt := v.cnt, inx := v.inx, gen := x.gen } else k.reg n := by
  unfold Core.writeReg
  split
  · next h => simp [h]
  · next h =>
    refine (SMap.get_put k.regs RegEntry.reset (x.wbase + f) n _).trans ?_
    simp only [h, ne_eq, not_false_eq_true, and_true]
    rfl

/-- A write of a register keeps every part of the core but the register file and the log of a lockstep pair. -/
theorem Core.writeReg_keeps {β : Type} (p : Core → β) (hp : ∀ k r l, p { k with regs := r, lock := l } = p k) (k : Core) (x : Ctx) (f : Nat) (v : TVal) :
    p (k.writeReg x f v) = p k := by
  unfold Core.writeReg
  split
  · rfl
  · exact hp k _ _

end Sys2Proof.Machine
end

section
/-! PROOF. General registers: what reads and writes of them do, and when they park (R50, R64, R72, R74, R185, R261, R305); and the frame of the
instructions that read and write registers alone. -/

namespace Sys2Proof.Machine

/-! ### Registers that are not ready -/

/-- The request is an `smpw`'s. -/
def LoadReq.sampling (l : LoadReq) : Bool := match l.kind with | .smpw _ _ _ _ => true | _ => false

/-- The reasons for which a general register waits, in their order. -/
theorem waitReg_run (f : Nat) (e : Env) (s : State) : waitReg f e s =
    (if f ≠ 0 ∧ (s.ctx e.core e.slot).loads.any (fun l => l.rd == f && l.sampling) = true then M.park 5 0x1FFFFE0 (.sampled f)
    else if f ≠ 0 ∧ (s.ctx e.core e.slot).loads.any (fun l => l.rd == f) = true then M.park 1 f (.reg f)
    else if (s.ctx e.core e.slot).fill.any (fun p => p.1 == f) = true then M.park 1 f (.fill f)
    else waitReplay f) e s := rfl

/-- Some outstanding request of the context will write field f. -/
theorem any_rd_iff (x : Ctx) (f : Nat) : x.loads.any (fun l => l.rd == f) = true ↔ ∃ l ∈ x.loads, l.rd = f := by
  simp only [List.any_eq_true, beq_iff_eq]

/-- Some `smpw` of the context will write field f. -/
theorem any_sampling_iff (x : Ctx) (f : Nat) :
    x.loads.any (fun l => l.rd == f && l.sampling) = true ↔ ∃ l ∈ x.loads, l.rd = f ∧ l.sampling = true := by
  simp only [List.any_eq_true, Bool.and_eq_true, beq_iff_eq]

theorem waitReg_sampled {e : Env} {s : State} {f : Nat} (hf : f ≠ 0)
    (h : ∃ l ∈ (s.ctx e.core e.slot).loads, l.rd = f ∧ l.sampling = true) :
    waitReg f e s = M.park 5 0x1FFFFE0 (.sampled f) e s := by
  rw [waitReg_run]
  exact M.if_pos_run ⟨hf, (any_sampling_iff _ f).mpr h⟩ ..

theorem waitReg_pending {e : Env} {s : State} {f : Nat} (hf : f ≠ 0) (h : ∃ l ∈ (s.ctx e.core e.slot).loads, l.rd = f)
    (hs : ∀ l ∈ (s.ctx e.core e.slot).loads, l.rd = f → l.sampling = false) :
    waitReg f e s = M.park 1 f (.reg f) e s := by
  have hn : ¬(f ≠ 0 ∧ ((s.ctx e.core e.slot).loads.any
      (fun l => l.rd == f && l.sampling)) = true) := by
    rintro ⟨-, ha⟩
    obtain ⟨l, hm, hr, hk⟩ := (any_sampling_iff _ f).mp ha
    exact Bool.false_ne_true ((hs l hm hr).symm.trans hk)
  rw [waitReg_run, M.if_neg_run hn]
  exact M.if_pos_run ⟨hf, (any_rd_iff _ f).mpr h⟩ ..

/-- With no request for field f, a register waits for its fill, or else for the replays alone. -/
theorem waitReg_not_pending {e : Env} {s : State} {f : Nat} (h : ∀ l ∈ (s.ctx e.core e.slot).loads, l.rd = f → f = 0) :
    waitReg f e s = (if (s.ctx e.core e.slot).fill.any (fun p => p.1 == f) then M.park 1 f (.fill f) else waitReplay f) e s := by
  have hn : ¬(f ≠ 0 ∧ ((s.ctx e.core e.slot).loads.any (fun l => l.rd == f)) = true) := by
    rintro ⟨h0, ha⟩
    obtain ⟨l, hm, hr⟩ := (any_rd_iff _ f).mp ha
    exact h0 (h l hm hr)
  have hs : ¬(f ≠ 0 ∧ ((s.ctx e.core e.slot).loads.any
      (fun l => l.rd == f && l.sampling)) = true) := by
    rintro ⟨h0, ha⟩
    obtain ⟨l, hm, hr, -⟩ := (any_sampling_iff _ f).mp ha
    exact h0 (h l hm hr)
  rw [waitReg_run, M.if_neg_run hs, M.if_neg_run hn]

theorem waitReg_fill {e : Env} {s : State} {f : Nat} (h : ∀ l ∈ (s.ctx e.core e.slot).loads, l.rd = f → f = 0)
    (hf : ∃ p ∈ (s.ctx e.core e.slot).fill, p.1 = f) : waitReg f e s = M.park 1 f (.fill f) e s := by
  rw [waitReg_not_pending h]
  exact M.if_pos_run (by simpa [List.any_eq_true] using hf) ..

theorem waitReplay_parks {e : Env} {s : State} {f : Nat} (he : e.replay = none)
    (hb : ∃ b, (s.ctx e.core e.slot).body = some b ∧ b.stopped = false ∧ b.touches f = true) :
    waitReplay f e s = M.park 1 f .replays e s := by
  obtain ⟨b, hb, hst, ht⟩ := hb
  unfold waitReplay
  rw [M.bind_ok (M.env_run e s), M.bind_ok (M.me_run e s)]
  exact M.if_pos_run (by simp [he, hb, hst, ht]) ..

theorem waitReg_replays {e : Env} {s : State} {f : Nat} (h : ∀ l ∈ (s.ctx e.core e.slot).loads, l.rd = f → f = 0)
    (hf : ∀ p ∈ (s.ctx e.core e.slot).fill, p.1 ≠ f) (he : e.replay = none)
    (hb : ∃ b, (s.ctx e.core e.slot).body = some b ∧ b.stopped = false ∧ b.touches f = true) :
    waitReg f e s = M.park 1 f .replays e s := by
  rw [waitReg_not_pending h, M.if_neg_run, waitReplay_parks he hb]
  rintro ha
  obtain ⟨p, hm, hr⟩ := List.any_eq_true.mp ha
  exact hf p hm (beq_iff_eq.mp hr)

/-- Where a general register is not ready, its read parks as the wait says. -/
theorem readReg_parks {e : Env} {s : State} {f : RegF} {list object : Nat} {w : WaitCond} (hp : (s.ctx e.core e.slot).isPort f.toNat = false)
    (hc : (s.ctx e.core e.slot).isCarry f.toNat = false) (hb : (s.ctx e.core e.slot).bound? f.toNat = none)
    (h : waitReg f.toNat e s = M.park list object w e s) : readReg f e s = M.park list object w e s := by
  unfold readReg
  rw [M.bind_ok (M.me_run e s)]
  simp only [hp, hc, hb, Bool.false_eq_true, ↓reduceIte]
  exact M.bind_error h _

/-- So does its write. -/
theorem writeReg_parks {e : Env} {s : State} {f : RegF} {list object : Nat} {w : WaitCond} (v : TVal) (he : e.elect = false) (hd : e.dest = none)
    (hp : (s.ctx e.core e.slot).isPort f.toNat = false) (hb : (s.ctx e.core e.slot).bound? f.toNat = none)
    (h : waitReg f.toNat e s = M.park list object w e s) : writeReg f v e s = M.park list object w e s := by
  unfold writeReg
  rw [M.bind_ok (M.me_run e s), M.bind_ok (M.env_run e s)]
  simp only [he, hd, hp, hb, Bool.false_eq_true, ↓reduceIte]
  exact M.bind_error h _

/-! ### Reads and writes -/

theorem toNat_eq_zero_iff (f : RegF) : f.toNat = 0 ↔ f = 0 :=
  ⟨fun h => BitVec.eq_of_toNat_eq h, fun h => h ▸ rfl⟩

/-- The state after a write of the general register f of context e. -/
def wrote (e : Env) (f : RegF) (v : TVal) (s : State) : State :=
  s.modCore e.core (fun k => k.writeReg (s.ctx e.core e.slot) f.toNat v)

theorem wrote_core_keeps {β : Type} (p : Core → β) (hp : ∀ k r l, p { k with regs := r, lock := l } = p k) (e : Env) (f : RegF) (v : TVal) (s : State)
    (d : Nat) : p ((wrote e f v s).core d) = p (s.core d) :=
  State.core_modCore_keeps p (Core.writeReg_keeps p hp _ _ _ _) d

theorem wrote_reg (e : Env) (f : RegF) (v : TVal) (s : State) (d n : Nat) :
    ((wrote e f v s).core d).reg n = if d = e.core ∧ n = (s.ctx e.core e.slot).wbase + f.toNat ∧ f ≠ 0
      then { val := v.val, cnt := v.cnt, inx := v.inx, gen := (s.ctx e.core e.slot).gen } else (s.core d).reg n := by
  unfold wrote
  rw [State.core_modCore]
  by_cases hd : d = e.core
  · rw [if_pos hd, Core.reg_writeReg]
    simp only [hd, true_and, ne_eq, toNat_eq_zero_iff]
  · simp only [hd, false_and, ↓reduceIte]

theorem wrote_ctx (e : Env) (f : RegF) (v : TVal) (s : State) (d i : Nat) : (wrote e f v s).ctx d i = s.ctx d i :=
  State.ctx_modCore (Core.writeReg_keeps Core.ctxs (fun _ _ _ => rfl) _ _ _ _) d i

theorem wrote_sameStores (e : Env) (f : RegF) (v : TVal) (s : State) : SameStores s (wrote e f v s) :=
  .modCore (Core.writeReg_keeps Core.store (fun _ _ _ => rfl) _ _ _ _)

/-- Settles O24: a usable register is read and written alone, and one that is not ready parks by the first reason that holds. -/
theorem generalRegisters : Obligations.GeneralRegisters := by
  unfold Obligations.GeneralRegisters
  refine ⟨fun e s f v hu => ⟨?_, fun he hd => ⟨wrote e f v s, writeReg_usable v he hd hu, ?_, wrote_ctx e f v s,
    (wrote_sameStores e f v s).sameMemory, rfl, rfl, rfl⟩⟩, ?_⟩
  · refine (readReg_usable hu).trans ?_
    unfold Core.readReg
    simp only [toNat_eq_zero_iff]
  · exact fun d n => wrote_reg e f v s d n
  · intro e s f x smp hp hc hb
    refine ⟨fun hf hl => ?_, fun hf hl hs => ?_, fun hl hf => ?_, fun hl hf he hbody => ?_⟩
    · exact readReg_parks hp hc hb (waitReg_sampled (fun h => hf ((toNat_eq_zero_iff f).mp h)) hl)
    · have hw := waitReg_pending (fun h => hf ((toNat_eq_zero_iff f).mp h)) hl hs
      exact ⟨readReg_parks hp hc hb hw, fun v he hd => writeReg_parks v he hd hp hb hw⟩
    · exact readReg_parks hp hc hb (waitReg_fill (fun l hm hr => by rw [hl l hm hr]; rfl) hf)
    · exact readReg_parks hp hc hb (waitReg_replays (fun l hm hr => by rw [hl l hm hr]; rfl) hf he hbody)

/-! ### Programs that write one register -/

/-- From s the program writes general register d once and does nothing else. -/
def SetsOnly (e : Env) (d : RegF) (m : M Unit) (s : State) : Prop := ∃ v, m e s = .ok ((), wrote e d v s)

section
variable {e : Env} {s : State} {d a b : RegF}

/-- A read of a usable register before a program that writes one adds nothing. -/
theorem readReg_setsOnly {f : TVal → M Unit} (h : (s.ctx e.core e.slot).usable a = true) (hf : ∀ v, SetsOnly e d (f v) s) :
    SetsOnly e d (readReg a >>= f) s := by
  unfold SetsOnly
  rw [M.bind_ok (readReg_usable h)]
  exact hf _

theorem readVal_setsOnly {f : Word → M Unit} (h : (s.ctx e.core e.slot).usable a = true) (hf : ∀ w, SetsOnly e d (f w) s) :
    SetsOnly e d (readVal a >>= f) s := by
  unfold SetsOnly
  rw [M.bind_ok (readVal_of (readReg_usable h))]
  exact hf _

theorem ite_setsOnly {c : Prop} [Decidable c] {m n : M Unit} (hm : SetsOnly e d m s) (hn : SetsOnly e d n s) :
    SetsOnly e d (if c then m else n) s := by
  split
  · exact hm
  · exact hn

variable (he : e.elect = false) (hd : e.dest = none)
include he hd

theorem writeReg_setsOnly (v : TVal) (h : (s.ctx e.core e.slot).usable d = true) : SetsOnly e d (writeReg d v) s :=
  ⟨v, writeReg_usable v he hd h⟩

theorem alu2_setsOnly (f : Word → Word) (ha : (s.ctx e.core e.slot).usable a = true) (h : (s.ctx e.core e.slot).usable d = true) :
    SetsOnly e d (alu2 d a f) s :=
  readVal_setsOnly ha fun _ => writeReg_setsOnly he hd _ h

theorem alu3_setsOnly (f : Word → Word → Word) (ha : (s.ctx e.core e.slot).usable a = true) (hb : (s.ctx e.core e.slot).usable b = true)
    (h : (s.ctx e.core e.slot).usable d = true) : SetsOnly e d (alu3 d a b f) s :=
  readVal_setsOnly ha fun _ => readVal_setsOnly hb fun _ => writeReg_setsOnly he hd _ h

theorem alu4_setsOnly (f : Word → Word → Word → Word) (ha : (s.ctx e.core e.slot).usable a = true) (hb : (s.ctx e.core e.slot).usable b = true)
    (h : (s.ctx e.core e.slot).usable d = true) : SetsOnly e d (alu4 d a b f) s :=
  readVal_setsOnly ha fun _ => readVal_setsOnly hb fun _ => readVal_setsOnly h fun _ => writeReg_setsOnly he hd _ h

theorem bodyBfi_setsOnly (lo : BitVec 6) (w : BitVec 5) (ha : (s.ctx e.core e.slot).usable a = true) (h : (s.ctx e.core e.slot).usable d = true) :
    SetsOnly e d (bodyBfi d a lo w) s :=
  readVal_setsOnly ha fun _ => readVal_setsOnly h fun _ => writeReg_setsOnly he hd _ h

theorem bodySigr_setsOnly (ha : (s.ctx e.core e.slot).usable a = true) (h : (s.ctx e.core e.slot).usable d = true) : SetsOnly e d (bodySigr d a) s :=
  readReg_setsOnly ha fun _ => writeReg_setsOnly he hd _ h

theorem bodySigw_setsOnly (n : BitVec 7) (ha : (s.ctx e.core e.slot).usable a = true) (h : (s.ctx e.core e.slot).usable d = true) :
    SetsOnly e d (bodySigw d a n) s :=
  readReg_setsOnly ha fun _ => writeReg_setsOnly he hd _ h

/-- A converted pointer is written, or 0. -/
theorem convert_setsOnly (target : Nat) (src : List Nat) (f : Nat → Ctx → Word → Word) (ha : (s.ctx e.core e.slot).usable a = true)
    (h : (s.ctx e.core e.slot).usable d = true) : SetsOnly e d (convert d a target src f) s := by
  refine readVal_setsOnly ha fun p => ?_
  unfold SetsOnly
  rw [M.bind_ok (M.env_run e s), M.bind_ok (M.me_run e s), M.bind_ok (M.state_run e s)]
  exact ite_setsOnly (writeReg_setsOnly he hd _ h) (writeReg_setsOnly he hd _ h)

end

/-- What `IntegerFrame` says of one instruction, given its destination: it goes to the next word and changes register d alone. -/
theorem ended_wrote_frame {i : Instr} {s : State} (d : RegF) (v : TVal) (hr : s.who.state = .ready) :
    let t := ended s (wrote (doer i s) d v (begun s))
    (t.ctx s.cur.1 s.cur.2).pc = s.who.pc + 4 ∧ (t.ctx s.cur.1 s.cur.2).state = .ready ∧ sameMemory s t ∧
      sameBut s.cur.1 (s.who.wbase + d.toNat) s t := by
  intro t
  have hctx : ∀ {β : Type} (p : Ctx → β), (∀ x, p { x with xfault := none } = p x) → ∀ c j, p (t.ctx c j) = p ((begun s).ctx c j) :=
    fun p hp c j => (ctx_ended_keeps p hp _ _ c j).trans (congrArg p (wrote_ctx ..))
  have hcore : ∀ {β : Type} (p : Core → β), (∀ k i x, p (Core.setCtx k i x) = p k) → (∀ k l, p { k with rot := l } = p k) →
      (∀ k r l, p { k with regs := r, lock := l } = p k) → ∀ c, p (t.core c) = p (s.core c) :=
    fun p h1 h2 h3 c => ((core_ended_keeps p h1 h2 _ _ c).trans (wrote_core_keeps p h3 ..)).trans (core_begun_keeps p h1 s c)
  have hwho : (begun s).ctx s.cur.1 s.cur.2 = { s.who with pc := s.who.pc + 4, wait := none } := begun_who s
  refine ⟨?_, ?_, ?_, ?_, ?_, ?_⟩
  · rw [hctx (fun x => x.pc) (fun _ => rfl), hwho]
  · rw [hctx (fun x => x.state) (fun _ => rfl), hwho]; exact hr
  · exact (((SameStores.modCtx ..).trans (wrote_sameStores ..)).trans (SameStores.ended ..)).sameMemory
  · exact fun c j => (hctx Ctx.special (fun _ => rfl) c j).trans (ctx_begun_keeps Ctx.special (fun _ _ => rfl) s c j)
  · intro c m hm
    rw [core_ended_keeps (fun k => k.reg m) (fun _ _ _ => rfl) (fun _ _ => rfl), wrote_reg, if_neg, core_begun_keeps (fun k => k.reg m) fun _ _ _ => rfl]
    rintro ⟨hc, hn, -⟩
    rw [doer_core, doer_slot, hwho] at hn
    exact hm ⟨hc, hn⟩
  · exact fun c => ⟨hcore _ (fun _ _ _ => rfl) (fun _ _ => rfl) (fun _ _ _ => rfl) c, hcore _ (fun _ _ _ => rfl) (fun _ _ => rfl) (fun _ _ _ => rfl) c,
      hcore _ (fun _ _ _ => rfl) (fun _ _ => rfl) (fun _ _ _ => rfl) c, hcore _ (fun _ _ _ => rfl) (fun _ _ => rfl) (fun _ _ _ => rfl) c,
      hcore _ (fun _ _ _ => rfl) (fun _ _ => rfl) (fun _ _ _ => rfl) c, hcore _ (fun _ _ _ => rfl) (fun _ _ => rfl) (fun _ _ _ => rfl) c⟩

/-! ### The instructions that read and write registers alone -/

/-- The instruction's body, from the state in which it takes effect, writes the destination once and does nothing else. -/
def WritesOne (i : Instr) (s : State) : Prop :=
  ∃ d body, (form i).dst = some d ∧ exec i s = run i body s ∧ SetsOnly (doer i s) d body (begun s)

/-- Every register field of the instruction is usable. -/
def fieldsUsable (i : Instr) (s : State) : Prop := ∀ f ∈ (form i).src ++ (form i).dst.toList, s.who.usable f = true

theorem begun_usable (s : State) (f : RegF) : ((begun s).ctx s.cur.1 s.cur.2).usable f = s.who.usable f :=
  ctx_begun_keeps (fun x => x.usable f) (fun _ _ => rfl) s s.cur.1 s.cur.2

section
variable {i : Instr} {s : State} {d a b : RegF} {p : Option Pin}

theorem usable_formAD (hf : form i = formAD d a p) (hu : fieldsUsable i s) :
    ((begun s).ctx s.cur.1 s.cur.2).usable a = true ∧ ((begun s).ctx s.cur.1 s.cur.2).usable d = true := by
  unfold fieldsUsable at hu
  rw [hf] at hu
  rw [begun_usable, begun_usable]
  exact ⟨hu a (.head _), hu d (.tail _ (.head _))⟩

theorem usable_formABD (hf : form i = formABD d a b p) (hu : fieldsUsable i s) :
    ((begun s).ctx s.cur.1 s.cur.2).usable a = true ∧ ((begun s).ctx s.cur.1 s.cur.2).usable b = true ∧
      ((begun s).ctx s.cur.1 s.cur.2).usable d = true := by
  unfold fieldsUsable at hu
  rw [hf] at hu
  rw [begun_usable, begun_usable, begun_usable]
  exact ⟨hu a (.head _), hu b (.tail _ (.head _)), hu d (.tail _ (.tail _ (.head _)))⟩

theorem writesOne_alu2 {f : Word → Word} (hf : form i = formAD d a p) (hx : exec i s = run i (alu2 d a f) s) (hu : fieldsUsable i s) : WritesOne i s :=
  have ⟨ha, hd⟩ := usable_formAD hf hu
  ⟨d, _, congrArg Form.dst hf, hx, alu2_setsOnly rfl rfl f ha hd⟩

theorem writesOne_alu3 {f : Word → Word → Word} (hf : form i = formABD d a b p) (hx : exec i s = run i (alu3 d a b f) s) (hu : fieldsUsable i s) :
    WritesOne i s :=
  have ⟨ha, hb, hd⟩ := usable_formABD hf hu
  ⟨d, _, congrArg Form.dst hf, hx, alu3_setsOnly rfl rfl f ha hb hd⟩

theorem writesOne_convert {n : Nat} {l : List Nat} {f : Nat → Ctx → Word → Word} (hf : form i = formAD d a p)
    (hx : exec i s = run i (convert d a n l f) s) (hu : fieldsUsable i s) : WritesOne i s :=
  have ⟨ha, hd⟩ := usable_formAD hf hu
  ⟨d, _, congrArg Form.dst hf, hx, convert_setsOnly rfl rfl n l f ha hd⟩

end

theorem regOnly_writesOne {i : Instr} {s : State} (hi : regOnly i = true) (hu : fieldsUsable i s) : WritesOne i s := by
  cases i
  case add | sub | mul | mulh | mulhn | div | divn | rem | remn | and | or | xor | shl | shr | sra | min | max | minn | maxn | slt | sltn | seq | perm =>
    exact writesOne_alu3 rfl rfl hu
  case clz | ctz | pop | addi | andi | ori | xori | shli | shri | srai | slti | sltni | bfx => exact writesOne_alu2 rfl rfl hu
  case cvspLoc | cvspSq | cvspRem => exact writesOne_convert rfl rfl hu
  case sel d a b =>
    have ⟨ha, hb, hd⟩ := usable_formABD rfl hu
    exact ⟨d, _, rfl, rfl, alu4_setsOnly rfl rfl _ ha hb hd⟩
  case lui d imm => exact ⟨d, _, rfl, rfl, writeReg_setsOnly rfl rfl _ ((begun_usable s d).trans (hu d (.head _)))⟩
  case addpc d imm =>
    refine ⟨d, _, rfl, rfl, ?_⟩
    unfold SetsOnly bodyAddpc
    rw [M.bind_ok (M.env_run ..)]
    exact writeReg_setsOnly rfl rfl _ ((begun_usable s d).trans (hu d (.head _)))
  case bfi d a lo w =>
    have ⟨ha, hd⟩ := usable_formAD rfl hu
    exact ⟨d, _, rfl, rfl, bodyBfi_setsOnly rfl rfl lo w ha hd⟩
  case sigr d a =>
    have ⟨ha, hd⟩ := usable_formAD rfl hu
    exact ⟨d, _, rfl, rfl, bodySigr_setsOnly rfl rfl ha hd⟩
  case sigw d a n =>
    have ⟨ha, hd⟩ := usable_formAD rfl hu
    exact ⟨d, _, rfl, rfl, bodySigw_setsOnly rfl rfl n ha hd⟩
  case spc d a =>
    have ⟨ha, hd⟩ := usable_formAD rfl hu
    refine ⟨d, _, rfl, rfl, readVal_setsOnly ha fun p => ?_⟩
    unfold SetsOnly
    rw [M.bind_ok (M.env_run ..), M.bind_ok (M.me_run ..), M.bind_ok (M.state_run ..)]
    exact writeReg_setsOnly rfl rfl _ hd
  all_goals exact absurd hi Bool.false_ne_true

/-- Settles O6: each of these instructions writes its destination once, and the end of its issue slot moves the context in the rotation alone. -/
theorem integerFrame : Obligations.IntegerFrame := by
  unfold Obligations.IntegerFrame
  intro i s hi hs hu hr
  obtain ⟨d, body, hd, hx, v, hv⟩ := regOnly_writesOne hi hu
  refine ⟨_, hx.trans (run_completes hs hv), ?_⟩
  rw [hd]
  exact ended_wrote_frame d v hr

end Sys2Proof.Machine
end

section
/-! PROOF. Device reset, boot, links, trusted interfaces and limits (R49, R338 to R340, R347). What ends every context of a gang leaves the host's side and
the clock alone, and of the gangs it changes only their barriers and what ended last. -/

namespace Sys2Proof.Machine

/-! ### What the end of a context leaves alone -/

/-- What the end of a context keeps of a gang. -/
def Gang.key (g : Gang) : Nat × Nat × Bool := (g.uid, g.tenant, g.aborted)

/-- The host's side and the clock are the same, and so are the gangs with their tenants and whether they are aborted. -/
structure KeepsGangs (s t : State) : Prop where
  host : t.host = s.host
  cycle : t.cycle = s.cycle
  tsZero : t.tsZero = s.tsZero
  gangs : t.disp.gangs.map Gang.key = s.disp.gangs.map Gang.key

namespace KeepsGangs

theorem refl (s : State) : KeepsGangs s s := ⟨rfl, rfl, rfl, rfl⟩

theorem trans {s t u : State} (h : KeepsGangs s t) (g : KeepsGangs t u) : KeepsGangs s u :=
  ⟨g.host.trans h.host, g.cycle.trans h.cycle, g.tsZero.trans h.tsZero, g.gangs.trans h.gangs⟩

/-- The last of two steps first: what it starts from is read off the goal. -/
theorem after {s t u : State} (g : KeepsGangs t u) (h : KeepsGangs s t) : KeepsGangs s u := h.trans g

/-- A fold of steps that each keep them keeps them. -/
theorem foldl {α : Type} {f : State → α → State} (h : ∀ s a, KeepsGangs s (f s a)) (l : List α) (s : State) : KeepsGangs s (l.foldl f s) := by
  induction l generalizing s with
  | nil => exact refl s
  | cons a l ih => exact (h s a).trans (ih (f s a))

/-- A change of one gang that keeps its key. -/
theorem modGang (s : State) (u : Nat) {f : Gang → Gang} (hf : ∀ g, (f g).key = g.key) : KeepsGangs s (s.modGang u f) := by
  refine ⟨rfl, rfl, rfl, ?_⟩
  show (s.disp.gangs.map fun x => if x.uid == u then f x else x).map Gang.key = _
  rw [List.map_map]
  refine List.map_congr_left fun g _ => ?_
  dsimp only [Function.comp_apply]
  split
  · exact hf g
  · rfl

theorem tstamp {s t : State} (h : KeepsGangs s t) : t.tstamp = s.tstamp := by
  unfold State.tstamp
  rw [h.tsZero, h.cycle]

end KeepsGangs

theorem leaveElections_keepsGangs (s : State) (c i : Nat) : KeepsGangs s (leaveElections s c i) := by
  unfold leaveElections
  dsimp only
  split
  · exact .refl s
  · exact ⟨rfl, rfl, rfl, rfl⟩

theorem dropUnstarted_keepsGangs (s : State) (c i : Nat) : KeepsGangs s (dropUnstarted s c i) := ⟨rfl, rfl, rfl, rfl⟩

theorem endInline_keepsGangs (s : State) (x : Ctx) : KeepsGangs s (endInline s x) := by
  unfold endInline
  refine KeepsGangs.foldl ?_ x.inl s
  exact fun _ _ => ⟨rfl, rfl, rfl, rfl⟩

theorem observeParked_keepsGangs (s : State) (n : Nat) (done : BitVec 32) (l : List (Nat × Nat × Ctx)) : KeepsGangs s (observeParked s n done l) := by
  induction l generalizing s with
  | nil => exact .refl s
  | cons a l ih =>
    obtain ⟨c, i, x⟩ := a
    unfold observeParked
    refine (ih _).after ?_
    split
    · exact ⟨rfl, rfl, rfl, rfl⟩
    · exact .refl s

theorem completeBar_keepsGangs (g n f : Nat) (s : State) : KeepsGangs s (completeBar g n f s) := by
  induction f generalizing s with
  | zero => exact .refl s
  | succ f ih =>
    unfold completeBar
    split
    · exact .refl s
    · dsimp only
      split
      · exact .refl s
      · exact (ih _).after ((observeParked_keepsGangs _ _ _ _).after (KeepsGangs.modGang s g fun _ => rfl))

theorem recheckBars_keepsGangs (s : State) (g : Nat) : KeepsGangs s (recheckBars s g) :=
  KeepsGangs.foldl (fun s n => completeBar_keepsGangs g n 2 s) _ s

theorem endCtx_keepsGangs (kind : EndKind) (s : State) (c i : Nat) : KeepsGangs s (endCtx kind s c i) := by
  unfold endCtx
  extract_lets x s1 s2 s3 s4 s5
  have h1 : KeepsGangs s s1 := leaveElections_keepsGangs s c i
  have h2 : KeepsGangs s1 s2 := by
    simp only [s2]
    split
    · exact .refl s1
    · exact (endInline_keepsGangs _ _).after (dropUnstarted_keepsGangs _ c i)
  have h3 : KeepsGangs s2 s3 := by
    simp only [s3]
    split
    · split <;> exact ⟨rfl, rfl, rfl, rfl⟩
    · exact .refl s2
  have h5 : KeepsGangs s s5 := KeepsGangs.after (t := s3) ⟨rfl, rfl, rfl, rfl⟩ ((h1.trans h2).trans h3)
  split
  · exact .refl s
  · split
    · exact h5
    · refine (recheckBars_keepsGangs _ _).after (h5.trans (KeepsGangs.modGang s5 _ ?_))
      exact fun _ => rfl

theorem clearSems_keepsGangs (s : State) (c tenant : Nat) : KeepsGangs s (clearSems s c tenant) := by
  unfold clearSems
  dsimp only
  split
  · exact .refl s
  · exact ⟨rfl, rfl, rfl, rfl⟩

theorem freeCtx_keepsGangs (s : State) (c i : Nat) : KeepsGangs s (freeCtx s c i) :=
  (clearSems_keepsGangs _ c _).after ⟨rfl, rfl, rfl, rfl⟩

/-! ### Gangs that firmware ends (R169) -/

/-- The key of a gang once the gangs of l have been aborted. -/
def markAborted (l : List Nat) (k : Nat × Nat × Bool) : Nat × Nat × Bool := (k.1, k.2.1, k.2.2 || l.contains k.1)

/-- From s to t the gangs of l have been aborted; the host's side, the clock and the other gangs are as they were. -/
structure AbortsGangs (l : List Nat) (s t : State) : Prop where
  host : t.host = s.host
  cycle : t.cycle = s.cycle
  tsZero : t.tsZero = s.tsZero
  gangs : t.disp.gangs.map Gang.key = (s.disp.gangs.map Gang.key).map (markAborted l)

namespace AbortsGangs

theorem nil (s : State) : AbortsGangs [] s s := by
  refine ⟨rfl, rfl, rfl, ?_⟩
  have h : markAborted [] = id := by funext k; simp [markAborted]
  rw [h, List.map_id]

theorem append {l m : List Nat} {s t u : State} (h : AbortsGangs l s t) (g : AbortsGangs m t u) : AbortsGangs (l ++ m) s u := by
  refine ⟨g.host.trans h.host, g.cycle.trans h.cycle, g.tsZero.trans h.tsZero, ?_⟩
  rw [g.gangs, h.gangs, List.map_map]
  refine List.map_congr_left fun k _ => ?_
  simp only [markAborted, Function.comp_apply, List.contains_append, Bool.or_assoc]

theorem keeps {l : List Nat} {s t u : State} (h : AbortsGangs l s t) (g : KeepsGangs t u) : AbortsGangs l s u :=
  ⟨g.host.trans h.host, g.cycle.trans h.cycle, g.tsZero.trans h.tsZero, g.gangs.trans h.gangs⟩

/-- Every gang is one of those before, and counts as aborted where it is one of l. -/
theorem exists_before {l : List Nat} {s t : State} (h : AbortsGangs l s t) {g : Gang} (hg : g ∈ t.disp.gangs) :
    ∃ g0 ∈ s.disp.gangs, g0.tenant = g.tenant ∧ (g0.uid ∈ l → g.aborted = true) := by
  have hm : g.key ∈ (s.disp.gangs.map Gang.key).map (markAborted l) := h.gangs ▸ List.mem_map_of_mem hg
  rw [List.map_map] at hm
  obtain ⟨g0, h0, hk⟩ := List.mem_map.mp hm
  obtain ⟨-, ht, ha⟩ : g0.uid = g.uid ∧ g0.tenant = g.tenant ∧ (g0.aborted || l.contains g0.uid) = g.aborted := by
    simpa [markAborted, Gang.key] using hk
  exact ⟨g0, h0, ht, fun hl => ha ▸ by simp [hl]⟩

end AbortsGangs

theorem abortGang_aborts (s : State) (g : Nat) : AbortsGangs [g] s (abortGang s g) := by
  unfold abortGang
  extract_lets s1
  have h1 : AbortsGangs [g] s s1 := by
    refine ⟨rfl, rfl, rfl, ?_⟩
    show (s.disp.gangs.map fun x => if x.uid == g then { x with aborted := true } else x).map Gang.key = _
    rw [List.map_map, List.map_map]
    refine List.map_congr_left fun x _ => ?_
    by_cases hx : x.uid = g <;> simp [markAborted, Gang.key, hx]
  refine h1.keeps (KeepsGangs.foldl (fun u a => ?_) _ s1)
  obtain ⟨c, i, x⟩ := a
  dsimp only
  split
  · exact freeCtx_keepsGangs u c i
  · exact endCtx_keepsGangs .terminated u c i

theorem abortGangs_aborts (l : List Gang) (s : State) : AbortsGangs (l.map Gang.uid) s (l.foldl (fun s g => abortGang s g.uid) s) := by
  induction l generalizing s with
  | nil => exact .nil s
  | cons g l ih => exact (abortGang_aborts s g.uid).append (ih _)

theorem abortTenant_aborts (s : State) (tn : Nat) :
    AbortsGangs ((s.disp.gangs.filter (fun g => g.tenant == tn)).map Gang.uid) s (abortTenant s tn) :=
  abortGangs_aborts _ s

/-- Every gang of the tenant counts as aborted. -/
theorem abortTenant_aborted {s : State} {tn : Nat} {g : Gang} (hg : g ∈ (abortTenant s tn).disp.gangs) (ht : g.tenant = tn) : g.aborted = true := by
  obtain ⟨g0, h0, h1, h2⟩ := (abortTenant_aborts s tn).exists_before hg
  exact h2 (List.mem_map_of_mem (List.mem_filter.mpr ⟨h0, by simp [h1, ht]⟩))

/-! ### The host's side -/

/-- A change of the host's side changes no memory. -/
theorem SameStores.modHost (s : State) (f : HostSide → HostSide) : SameStores s (s.modHost f) := ⟨rfl, rfl, fun _ => rfl⟩

theorem SameStores.logEvent (s : State) (k tn c i : Nat) (d : Word) : SameStores s (Machine.logEvent s k tn c i d) :=
  ⟨rfl, rfl, fun _ => rfl⟩

/-- Where every entry at k has been left out, k reads as the default. -/
theorem SMap.get_filter_out {α : Type} (m : SMap α) (p : Nat × α → Bool) (k : Nat) (d : α) (h : ∀ v, p (k, v) = false) :
    SMap.get (m.filter p) k d = d := by
  induction m with
  | nil => rfl
  | cons e m ih =>
    rw [List.filter_cons]
    split
    · next hp =>
      rw [SMap.get_cons, if_neg, ih]
      rintro rfl
      exact Bool.false_ne_true ((h e.2).symm.trans hp)
    · exact ih

theorem SMap.mem_insert {α : Type} (m : SMap α) (k : Nat) (v : α) : (k, v) ∈ SMap.insert m k v := by
  induction m with
  | nil => exact .head _
  | cons e m ih =>
    rw [SMap.insert_cons]
    split
    · exact .head _
    · exact .tail _ ih

/-- A written value that is not the default is listed. -/
theorem SMap.mem_put {α : Type} [DecidableEq α] (m : SMap α) (d : α) (k : Nat) (v : α) (h : v ≠ d) : (k, v) ∈ SMap.put m d k v := by
  unfold SMap.put
  rw [if_neg h]
  exact SMap.mem_insert _ _ _

theorem execTdispStateChange_spec (tn : Nat) (st : TdispState) (pages : List Nat) (s : State) (htn : tn < 64) :
    ∃ t, exec (.tdispStateChange tn st pages) s = .next t ∧ SMap.get t.host.tdisp tn 0 = tdispCode st ∧
      t.host.evQ = s.host.evQ ++ [{ time := s.tstamp, kind := 3, tenant := tn, core := 0, slot := 0, detail := w64 (tdispCode st) }] ∧
      (SMap.get s.host.tdisp tn 0 = 2 → st ≠ .run → (∀ g ∈ t.disp.gangs, g.tenant = tn → g.aborted = true) ∧
        ∀ p, (tn, p) ∈ s.host.bound → ∀ a, a / 65536 = p → Memory.byte t.hbm a = 0) ∧
      ((SMap.get s.host.tdisp tn 0 ≠ 2 ∨ st = .run) → t.disp = s.disp ∧ sameMemory s t) := by
  have hx : exec (.tdispStateChange tn st pages) s = execTdispStateChange tn st pages s := rfl
  rw [hx]
  unfold execTdispStateChange
  rw [if_neg (by omega)]
  extract_lets leaves old s0 hostLeft s1 s2
  have hleaves : leaves = true ↔ SMap.get s.host.tdisp tn 0 = 2 ∧ st ≠ .run := by
    simp only [leaves, Bool.and_eq_true, beq_iff_eq, bne_iff_ne]
  have hab := abortTenant_aborts s tn
  have h1 : s1.host.evQ = s.host.evQ ∧ s1.tstamp = s.tstamp := by
    simp only [s1]
    split
    · refine ⟨show (abortTenant s tn).host.evQ = s.host.evQ by rw [hab.host], ?_⟩
      show (abortTenant s tn).tstamp = _
      unfold State.tstamp
      rw [hab.tsZero, hab.cycle]
    · exact ⟨rfl, rfl⟩
  have h2 : s2.host.evQ = s1.host.evQ ∧ s2.tstamp = s1.tstamp ∧ s2.disp = s1.disp ∧ SameStores s1 s2 := by
    simp only [s2]
    split
    · exact ⟨rfl, rfl, rfl, .modHost s1 _⟩
    · exact ⟨rfl, rfl, rfl, .refl s1⟩
  obtain ⟨hq, ht, hd, hs⟩ := h2
  refine ⟨_, rfl, SMap.get_put_same .., ?_, fun h h' => ?_, fun h => ?_⟩
  · show s2.host.evQ ++ [{ time := s2.tstamp, kind := 3, tenant := tn, core := 0, slot := 0, detail := w64 (tdispCode st) }] = _
    rw [hq, ht, h1.1, h1.2]
  · have hl : leaves = true := hleaves.mpr ⟨h, h'⟩
    have e1 : s1.disp = (abortTenant s tn).disp ∧ s1.hbm = s0.hbm.filter (fun (a, _) => !old.contains (a / 65536)) := by
      simp only [s1, if_pos hl]
      exact ⟨rfl, trivial⟩
    refine ⟨fun g hg hgt => ?_, fun p hp a ha => ?_⟩
    · have hg : g ∈ s2.disp.gangs := hg
      rw [hd, e1.1] at hg
      exact abortTenant_aborted hg hgt
    · show Memory.byte s2.hbm a = 0
      rw [hs.hbm, e1.2]
      refine SMap.get_filter_out _ _ _ _ fun v => ?_
      have : p ∈ old := List.mem_map.mpr ⟨(tn, p), List.mem_filter.mpr ⟨hp, beq_self_eq_true tn⟩, rfl⟩
      simpa [ha] using this
  · have e1 : s1 = s := by
      simp only [s1]
      rw [if_neg]
      rw [hleaves]
      rintro ⟨h2, hr⟩
      exact h.elim (fun h => h h2) hr
    rw [e1] at hd hs
    exact ⟨hd, ((hs.trans (.modHost _ _)).trans (.logEvent _ _ _ _ _ _)).sameMemory⟩

/-! ### Temperature (R347) -/

/-- A temperature halt ends every gang, and changes of the host's side the halt bit and the events alone. -/
theorem tempHalt_spec (s : State) : (tempHalt s).host.tele = { s.host.tele with haltSeen := true } ∧ ∀ g ∈ (tempHalt s).disp.gangs, g.aborted = true := by
  have hab := abortGangs_aborts s.disp.gangs s
  refine ⟨?_, fun g hg => ?_⟩
  · show ({ (s.disp.gangs.foldl (fun s g => abortGang s g.uid) s).host.tele with haltSeen := true } : Telemetry) = _
    rw [hab.host]
  · obtain ⟨g0, h0, -, h⟩ := hab.exists_before hg
    exact h (List.mem_map_of_mem h0)

/-- What `BootLinksAndLimits` says of a reading v of die n that leads from s to t. -/
def TempRead (n : Nat) (v : BitVec 16) (s t : State) : Prop :=
  let old := (SMap.get s.host.tele.temp n 0).toNat
  SMap.get t.host.tele.temp n 0 = v ∧ (380 ≤ v.toNat → t.host.tele.tempHold = true) ∧
    ((∀ x ∈ t.host.tele.temp, x.2.toNat < 380) → t.host.tele.tempHold = false) ∧
    (old < 420 → 420 ≤ v.toNat → t.host.tele.haltSeen = true ∧ ∀ g ∈ t.disp.gangs, g.aborted = true) ∧
    ((420 ≤ old ∨ v.toNat < 420) → t.disp = s.disp ∧ t.host.tele.haltSeen = s.host.tele.haltSeen ∧ sameMemory s t)

/-- The hold lasts while some die reads 95 °C or above. -/
theorem tempHold_iff (m : Telemetry) : m.tempHold = true ↔ ∃ x ∈ m.temp, 380 ≤ x.2.toNat := by
  simp only [Telemetry.tempHold, List.any_eq_true, decide_eq_true_eq]

theorem setTemp_read (s : State) (n : Nat) (v : BitVec 16) : TempRead n v s (setTemp s n v) := by
  unfold setTemp
  extract_lets old s1 s2
  have h2 : s2.host.tele = s1.host.tele ∧ s2.disp = s.disp ∧ SameStores s s2 := by
    simp only [s2]
    split
    · exact ⟨rfl, rfl, rfl, rfl, fun _ => rfl⟩
    · exact ⟨rfl, rfl, rfl, rfl, fun _ => rfl⟩
  obtain ⟨ht, hd, hs⟩ := h2
  have htemp : ∀ t : State, t.host.tele.temp = SMap.put s.host.tele.temp 0 n v → SMap.get t.host.tele.temp n 0 = v ∧
      (380 ≤ v.toNat → t.host.tele.tempHold = true) ∧ ((∀ x ∈ t.host.tele.temp, x.2.toNat < 380) → t.host.tele.tempHold = false) := by
    intro t e
    refine ⟨e ▸ SMap.get_put_same .., fun hv => (tempHold_iff _).mpr ⟨(n, v), ?_, hv⟩, fun h => ?_⟩
    · rw [e]
      refine SMap.mem_put _ _ _ _ ?_
      rintro rfl
      exact absurd hv (by decide)
    · rw [Bool.eq_false_iff, ne_eq, tempHold_iff]
      rintro ⟨x, hx, hl⟩
      exact absurd (h x hx) (by omega)
  split
  · next hc =>
    obtain ⟨hh, hg⟩ := tempHalt_spec s2
    have e : (tempHalt s2).host.tele.temp = SMap.put s.host.tele.temp 0 n v := by rw [hh, ht]; rfl
    obtain ⟨h1, h2, h3⟩ := htemp _ e
    refine ⟨h1, h2, h3, fun _ _ => ⟨by rw [hh], hg⟩, fun h => ?_⟩
    exact absurd hc (by simp only [old]; omega)
  · next hc =>
    obtain ⟨h1, h2, h3⟩ := htemp s2 (congrArg Telemetry.temp ht)
    exact ⟨h1, h2, h3, fun ho hv => absurd ⟨ho, hv⟩ hc, fun _ => ⟨hd, (congrArg Telemetry.haltSeen ht :), hs.sameMemory⟩⟩

/-! ### The statement -/

theorem execBoot_spec (a b f : Bool) (l : Blob) (s : State) :
    (s.host.phase = 0 → exec (.boot a b f l) s = .next { s with tsZero := some s.cycle, host := { s.host with phase := 1 } }) ∧
    (s.host.phase = 1 →
      (a = true → b = true → f = true → l.code ≠ 3 → exec (.boot a b f l) s =
        .next (s.modHost (fun h => { h with phase := 2, why := 0, code := l.code, links := l.links, limit := l.limit, sources := l.sources }))) ∧
      (a = false → exec (.boot a b f l) s = .next (s.modHost (fun h => { h with phase := 3, why := 1, code := l.code }))) ∧
      (a = true → b = false → exec (.boot a b f l) s = .next (s.modHost (fun h => { h with phase := 3, why := 2, code := l.code }))) ∧
      (a = true → b = true → f = false ∨ l.code = 3 → exec (.boot a b f l) s =
        .next (s.modHost (fun h => { h with phase := 3, why := 3, code := l.code })))) := by
  have hx : exec (.boot a b f l) s = execBoot a b f l s := rfl
  rw [hx]
  unfold execBoot
  refine ⟨fun h => if_pos h, fun h => ?_⟩
  have h0 : ¬s.host.phase = 0 := by rw [h]; decide
  simp only [if_neg h0, if_pos h]
  refine ⟨?_, ?_, ?_, ?_⟩
  · rintro rfl rfl rfl hc
    have hb : (l.code == 3) = false := beq_eq_false_iff_ne.mpr hc
    simp only [hb]
    rfl
  · rintro rfl
    rfl
  · rintro rfl rfl
    rfl
  · rintro rfl rfl (rfl | hc)
    · rfl
    · simp [State.modHost, hc]

/-- Settles O51: each event is split as its meaning is; what firmware ends is settled once, in `abortGangs_aborts`. -/
theorem bootLinksAndLimits : Obligations.BootLinksAndLimits := by
  unfold Obligations.BootLinksAndLimits
  refine ⟨fun s => ⟨_, rfl, rfl, rfl, rfl, rfl, rfl, rfl, rfl⟩, execBoot_spec, fun n s hn => ⟨?_, fun hl => ?_, fun hl => ?_⟩,
    execTdispStateChange_spec, fun mW s => ?_, fun s => ?_, fun n v s hn i hi => ?_⟩
  · exact congrArg Host.Outcome.next (if_pos hn)
  · exact congrArg Host.Outcome.next (if_pos ⟨hn, hl⟩)
  · exact congrArg Host.Outcome.next (if_neg fun h => Bool.false_ne_true (hl.symm.trans h.2))
  · refine ⟨_, rfl, ?_⟩
    split <;> exact ⟨rfl, by simp [logEvent, State.modHost], rfl, (SameStores.mk rfl rfl fun _ => rfl).sameMemory⟩
  · refine ⟨_, rfl, ?_⟩
    split
    · next h => exact ⟨by simp [State.modHost]; omega, (SameStores.modHost s _).sameMemory⟩
    · next h => exact ⟨⟨fun h' => ⟨h', by omega⟩, fun h' => h'.1⟩, (SameStores.refl s).sameMemory⟩
  · have hx : exec i s = .next (setTemp s n v) := by
      simp only [List.mem_cons, List.not_mem_nil, or_false] at hi
      rcases hi with rfl | rfl | rfl <;> exact congrArg Host.Outcome.next (if_pos hn)
    exact ⟨_, hx, setTemp_read s n v⟩

end Sys2Proof.Machine
end

section
/-! PROOF. A write of a granule (R73, R74, R76), and the reset state (R49, R54). -/

namespace Sys2Proof.Machine

/-! ### One granule -/

/-- Core k once granule off / 32 is current under generation g (R76 step 1). -/
def Core.current (k : Core) (g : BitVec 16) (off : Nat) : Core := if k.stamp off == g then k else k.zeroGranule (off / 32)

theorem Core.lsWrite_eq (k : Core) (g : BitVec 16) (off n v : Nat) :
    k.lsWrite g off n v = { k.current g off with
      ls := Memory.write (k.current g off).ls off v n, lsGen := SMap.put (k.current g off).lsGen 0 (off / 32) g } := rfl

theorem Core.current_of_stamp {k : Core} {g : BitVec 16} {off : Nat} (h : k.stamp off = g) : k.current g off = k :=
  if_pos (beq_iff_eq.mpr h)

theorem Core.current_of_stale {k : Core} {g : BitVec 16} {off : Nat} (h : k.stamp off ≠ g) : k.current g off = k.zeroGranule (off / 32) :=
  if_neg fun e => h (beq_iff_eq.mp e)

theorem Core.zeroGranule_lsGen (k : Core) (q : Nat) : (k.zeroGranule q).lsGen = k.lsGen := by
  unfold Core.zeroGranule
  dsimp only

theorem Core.zeroGranule_ls (k : Core) (q : Nat) : (k.zeroGranule q).ls = Memory.write k.ls (32 * q) 0 32 := by
  unfold Core.zeroGranule
  dsimp only

theorem Core.current_lsGen (k : Core) (g : BitVec 16) (off : Nat) : (k.current g off).lsGen = k.lsGen := by
  by_cases h : k.stamp off = g
  · rw [Core.current_of_stamp h]
  · rw [Core.current_of_stale h, Core.zeroGranule_lsGen]

/-- A write of 0 leaves 0. -/
theorem Memory.byte_write_zero (n : Nat) (m : Memory) (a i : Nat) (h : a ≤ i ∧ i < a + n) : Memory.byte (Memory.write m a 0 n) i = 0 := by
  obtain ⟨j, rfl⟩ := Nat.exists_eq_add_of_le h.1
  rw [Memory.byte_write_inside n m a 0 j (by omega), Nat.zero_div]
  rfl

/-- A granule that is zero-filled reads 0, and no other byte changes. -/
theorem Core.byte_zeroGranule (k : Core) (q a : Nat) :
    Memory.byte (k.zeroGranule q).ls a = if a / 32 = q then 0 else Memory.byte k.ls a := by
  rw [Core.zeroGranule_ls]
  split
  · next h => exact Memory.byte_write_zero 32 k.ls (32 * q) a (by omega)
  · next h => exact Memory.byte_write_outside 32 k.ls (32 * q) 0 a (by omega)

/-- Its four words are empty, and no other word changes. -/
theorem Core.full_zeroGranule (k : Core) (q a : Nat) : (k.zeroGranule q).full a = if a / 32 = q then false else k.full a := by
  unfold Core.zeroGranule Core.full
  dsimp only
  simp only [SMap.get_put]
  grind

theorem Core.stamp_lsWrite (k : Core) (g : BitVec 16) (off n v a : Nat) :
    (k.lsWrite g off n v).stamp a = if a / 32 = off / 32 then g else k.stamp a := by
  rw [Core.lsWrite_eq, Core.current_lsGen]
  exact SMap.get_put k.lsGen 0 (off / 32) (a / 32) g

theorem Core.full_lsWrite (k : Core) (g : BitVec 16) (off n v a : Nat) :
    (k.lsWrite g off n v).full a = (k.current g off).full a := rfl

/-- A byte outside the write is that of the current granule. -/
theorem Core.byte_lsWrite_outside (k : Core) (g : BitVec 16) {off n : Nat} (v : Nat) {a : Nat} (h : a < off ∨ off + n ≤ a) :
    Memory.byte (k.lsWrite g off n v).ls a = Memory.byte (k.current g off).ls a :=
  Memory.byte_write_outside n _ off v a h

theorem Core.lsRead_one (k : Core) (g : BitVec 16) (a : Nat) : k.lsRead g a 1 = if k.stamp a = g then (Memory.byte k.ls a).toNat else 0 := by
  unfold Core.lsRead
  simp only [beq_iff_eq]
  rfl

/-- Settles O15: a stale granule is zero-filled before the bytes are written, a current one is not. -/
theorem granuleWrite : Obligations.GranuleWrite := by
  unfold Obligations.GranuleWrite
  intro k g off n v hg hn
  have hstamp : (k.lsWrite g off n v).stamp off = g := by rw [Core.stamp_lsWrite, if_pos rfl]
  refine ⟨?_, hstamp, fun a ha ho => ?_, fun a h ha => ?_, fun a h hh ha => ?_, fun a ha => ?_, fun a b => ?_⟩
  · unfold Core.lsRead
    rw [if_pos (beq_iff_eq.mpr hstamp)]
    exact Memory.read_write n _ off v
  · have hs : k.stamp a = k.stamp off := by unfold Core.stamp; rw [ha]
    rw [Core.lsRead_one, Core.lsRead_one, Core.stamp_lsWrite, if_pos ha, if_pos rfl, Core.byte_lsWrite_outside k g v ho, hs]
    split
    · next h => rw [Core.current_of_stamp h]
    · next h => rw [Core.current_of_stale h, Core.byte_zeroGranule, if_pos ha]; rfl
  · rw [Core.lsRead_one, Core.lsRead_one, Core.stamp_lsWrite, if_neg ha, Core.byte_lsWrite_outside k g v (by omega)]
    by_cases h : k.stamp off = g
    · rw [Core.current_of_stamp h]
    · rw [Core.current_of_stale h, Core.byte_zeroGranule, if_neg ha]
  · rw [Core.lsRead_one, Core.stamp_lsWrite, if_pos ha, if_neg hh.symm]
  · rw [Core.full_lsWrite]
    by_cases h : k.stamp off = g
    · rw [Core.current_of_stamp h, decide_eq_true h, Bool.true_and]
    · rw [Core.current_of_stale h, Core.full_zeroGranule, if_pos ha, decide_eq_false h, Bool.false_and]
  · exact SMap.get_put (k.lsWrite g off 8 v).fe false (off / 8) (a / 8) b

/-! ### Reset -/

theorem reset_core (c : Nat) : State.reset.core c = Core.reset := rfl

/-- Settles O59: at reset no core is listed, and what an unlisted core holds is `Core.reset`, with nothing listed in its maps. -/
theorem resetState : Obligations.ResetState := by
  unfold Obligations.ResetState
  refine ⟨rfl, rfl, fun c => ?_⟩
  rw [reset_core]
  exact ⟨fun _ => rfl, fun _ => ⟨rfl, rfl, rfl⟩, fun _ => ⟨fun _ => rfl, fun _ => rfl⟩, rfl, fun _ => rfl⟩

end Sys2Proof.Machine
end

section
/-! PROOF. The park of `gscrub` notes what its instruction has taken from its sources (R14, R185), which the statement leaves out. -/

namespace Sys2Proof.Machine

/-- A supervisor context about to issue `gscrub`, with the note of a generator register that an earlier instruction stepped. -/
def notedScrub : State := State.reset.setCtx 0 0 { Ctx.reset with uid := 1, state := .ready, status := 1, taken := { gens := [(272, 5)] } }

/-- What context 0 of core 0 is noted to have taken from its sources. -/
def takenAfter : Host.Outcome State Fault Refusal → Taken
  | .next t => (t.ctx 0 0).taken
  | _ => {}

/-- Refutes O40: `gscrub` parks as every instruction that is not executed again does, and so notes afresh what it has taken from its sources, here
nothing; the state that the statement gives keeps the note of `notedScrub`. -/
theorem not_generationsAndPasses : ¬ Obligations.GenerationsAndPasses := by
  unfold Obligations.GenerationsAndPasses
  rintro ⟨-, -, -, -, hscrub, -⟩
  have hnote := congrArg takenAfter (hscrub notedScrub (by decide +kernel))
  have hparked : takenAfter (exec .gscrub notedScrub) = {} := by decide +kernel
  exact absurd (hparked.symm.trans hnote) (by decide +kernel)

end Sys2Proof.Machine
end

section
/-! PROOF. Fields that are no general registers: ports (R58 to R61), carry operands (R172, R177) and stream-bound registers (R262, R263, R429). -/

namespace Sys2Proof.Machine

/-- A field that no remaining replay uses does not wait for the replays. -/
theorem waitReplay_unused {e : Env} {s : State} {f : RegF} (h : (s.ctx e.core e.slot).usedByBody f = false) : waitReplay f.toNat e s = .ok ((), s) := by
  unfold waitReplay
  rw [M.bind_ok (M.env_run e s), M.bind_ok (M.me_run e s), M.if_neg_run]
  · rfl
  · rintro ⟨-, hb⟩
    exact Bool.false_ne_true (h.symm.trans hb)

/-! ### Ports -/

/-- The port register of queue n. -/
theorem isPort_of {x : Ctx} {f n : Nat} (hn : n < 8) (hf : f = 104 + n) (hp : x.port = true) : x.isPort f = true := by
  simp only [Ctx.isPort, hp, Bool.true_and, Bool.and_eq_true, decide_eq_true_eq]
  omega

theorem readReg_port {e : Env} {s : State} {f : RegF} (h : (s.ctx e.core e.slot).isPort f.toNat = true) :
    readReg f e s = popPort (f.toNat - 104) e s := by
  unfold readReg
  rw [M.bind_ok (M.me_run e s), M.if_pos_run h]

theorem writeReg_port {e : Env} {s : State} {f : RegF} (v : TVal) (he : e.elect = false) (hd : e.dest = none)
    (h : (s.ctx e.core e.slot).isPort f.toNat = true) : writeReg f v e s = sendPort (f.toNat - 104) v e s := by
  unfold writeReg
  rw [M.bind_ok (M.me_run e s), M.bind_ok (M.env_run e s)]
  simp only [he, hd, h, Bool.false_eq_true, ↓reduceIte]

theorem popPort_empty {e : Env} {s : State} {n : Nat} (hw : waitReplay (104 + n) e s = .ok ((), s))
    (h : SMap.get (s.ctx e.core e.slot).rxq n [] = []) : popPort n e s = M.park 3 n (.portRx n) e s := by
  unfold popPort
  rw [M.bind_ok hw, M.bind_ok (M.me_run e s)]
  simp only [h]

theorem popPort_pops {e : Env} {s : State} {n : Nat} {v : TVal} {t : List TVal} (hw : waitReplay (104 + n) e s = .ok ((), s))
    (h : SMap.get (s.ctx e.core e.slot).rxq n [] = v :: t) :
    popPort n e s = .ok (v, s.modCtx e.core e.slot (fun x => { x with rxq := SMap.put x.rxq [] n t })) := by
  unfold popPort
  rw [M.bind_ok hw, M.bind_ok (M.me_run e s)]
  simp only [h]
  exact M.bind_ok (M.modMe_run ..) _

theorem sendPort_run {e : Env} {s : State} {n : Nat} (v : TVal) (hw : waitReplay (104 + n) e s = .ok ((), s)) :
    let x := s.ctx e.core e.slot
    let q := SMap.get x.qdst n 0
    sendPort n v e s = (if (!portOk s x.tenant q) = true then M.trap 0x05 0 (w64 n)
      else if sendFull s e.core = true then M.park 4 n .portTx
      else M.modify (fun s => { s with ports := s.ports ++ [portMsg e.core x.tenant q v] })) e s := by
  unfold sendPort
  rw [M.bind_ok hw, M.bind_ok (M.env_run e s), M.bind_ok (M.me_run e s), M.bind_ok (M.state_run e s)]

theorem portOk_iff (s : State) (tenant : Nat) (q : Word) :
    portOk s tenant q = true ↔ q.getLsbD 23 = true ∧ bits q 22 9 < 12544 ∧ s.inPart tenant (bits q 22 9) = true := by
  simp only [portOk, coreUsed, Bool.and_eq_true, decide_eq_true_eq, and_assoc]

/-! ### Carry operands -/

theorem readReg_carry {e : Env} {s : State} {f : RegF} (hp : (s.ctx e.core e.slot).isPort f.toNat = false)
    (h : (s.ctx e.core e.slot).isCarry f.toNat = true) : readReg f e s = readCarry f.toNat e s := by
  unfold readReg
  rw [M.bind_ok (M.me_run e s)]
  simp only [hp, h, Bool.false_eq_true, ↓reduceIte]

section
variable {e : Env} {s : State} {k j f : Nat} {r : Run} (hk : 1 ≤ k) (hj : j < 4) (hf : f = 112 + 4 * (k - 1) + j)
  (hw : waitReplay f e s = .ok ((), s)) (hr : s.run? (s.ctx e.core e.slot).run = some r) (hi : k ≤ (s.ctx e.core e.slot).index)
include hk hj hf hw hr hi

/-- A slot that the item k before the context's own has published. -/
theorem readCarry_published {v : TVal} (hv : r.slot? ((s.ctx e.core e.slot).index - k) j = some v) :
    readCarry f e s = .ok (v, s.gain (s.ctx e.core e.slot).uid (s.chan (.carry r.uid ((s.ctx e.core e.slot).index - k) j))) := by
  have hk' : (f - 112) / 4 + 1 = k := by omega
  have hj' : (f - 112) % 4 = j := by omega
  unfold readCarry
  rw [M.bind_ok hw, M.bind_ok (M.me_run e s), M.bind_ok (M.state_run e s)]
  simp only [hr, hk', hj', if_pos hi, hv]
  exact M.bind_ok (M.modify_run ..) _

/-- A slot that it has not: the read faults where the item was aborted, and waits for it where it was not. -/
theorem readCarry_unpublished (hv : r.slot? ((s.ctx e.core e.slot).index - k) j = none) :
    readCarry f e s = (if r.abortedItems.contains ((s.ctx e.core e.slot).index - k) = true then M.trap 0x0C 0 (w64 (2 + 16 * j + 64 * k))
      else M.park 9 (4 * (k - 1) + j) (.carry (s.ctx e.core e.slot).run ((s.ctx e.core e.slot).index - k) j)) e s := by
  have hk' : (f - 112) / 4 + 1 = k := by omega
  have hj' : (f - 112) % 4 = j := by omega
  have ho : j + 4 * (k - 1) = 4 * (k - 1) + j := Nat.add_comm ..
  unfold readCarry
  rw [M.bind_ok hw, M.bind_ok (M.me_run e s), M.bind_ok (M.state_run e s)]
  simp only [hr, hk', hj', ho, if_pos hi, hv]

end

/-! ### Stream-bound registers -/

theorem waitBound_run {e : Env} {s : State} (f : Nat) (hr : (s.ctx e.core e.slot).replaying = false) : waitBound f e s = .ok ((), s) := by
  unfold waitBound
  rw [M.bind_ok (M.me_run e s), M.bind_ok (M.env_run e s), M.if_neg_run]
  · rfl
  · simp [hr]

section
variable {e : Env} {s : State} {f : RegF} {g : Nat} (hp : (s.ctx e.core e.slot).isPort f.toNat = false)
  (hb : (s.ctx e.core e.slot).bound? f.toNat = some g) (hr : (s.ctx e.core e.slot).replaying = false)
include hp hb hr

theorem readReg_bound (hc : (s.ctx e.core e.slot).isCarry f.toNat = false) : readReg f e s = popStream g e s := by
  unfold readReg
  rw [M.bind_ok (M.me_run e s)]
  simp only [hp, hc, hb, Bool.false_eq_true, ↓reduceIte]
  exact M.bind_ok (waitBound_run f.toNat hr) _

theorem writeReg_bound (v : TVal) (he : e.elect = false) (hd : e.dest = none) : writeReg f v e s = appendStream g v.val e s := by
  unfold writeReg
  rw [M.bind_ok (M.me_run e s), M.bind_ok (M.env_run e s)]
  simp only [he, hd, hp, hb, Bool.false_eq_true, ↓reduceIte]
  exact M.bind_ok (waitBound_run f.toNat hr) _

end
/-- The generator is at its end: a pop gives 0, and `sgend` notes it. -/
theorem popStream_end {e : Env} {s : State} {g : Nat} (h : sgLen (s.ctx e.core e.slot) g = 0) :
    popStream g e s = .ok (TVal.int 0, s.modCtx e.core e.slot (fun x => sgEnd x g)) := by
  unfold popStream
  rw [M.bind_ok (M.me_run e s), M.if_pos_run h, M.bind_ok (M.modMe_run ..)]
  rfl

/-- At its end an append is dropped, and `sgend` notes it. -/
theorem appendStream_end {e : Env} {s : State} {g : Nat} (v : Word) (h : sgLen (s.ctx e.core e.slot) g = 0) :
    appendStream g v e s = .ok ((), s.modCtx e.core e.slot (fun x => sgEnd x g)) := by
  have hp : promise g e s = .ok (none, s.modCtx e.core e.slot (fun x => sgEnd x g)) := by
    unfold promise
    rw [M.bind_ok (M.me_run e s), M.if_pos_run h, M.bind_ok (M.modMe_run ..)]
    rfl
  unfold appendStream
  rw [M.bind_ok hp, M.bind_ok (M.env_run ..)]
  rfl

/-- An operation that is done within its issue slot finds room in its class. -/
theorem classRoom_run {e : Env} {s : State} {k : Class} (h : (s.ctx e.core e.slot).cnt k < 63) : classRoom k e s = .ok ((), tested e k s) := by
  have hc : raiseCnt k e s = .ok ((), counted e k s) := by
    unfold raiseCnt
    rw [M.bind_ok (M.me_run e s), M.if_neg_run (by omega)]
    rfl
  unfold classRoom
  rw [M.bind_ok hc]
  rfl

/-- Before its end a pop reads the element at the pointer, and the generator moves on. -/
theorem popStream_next {e : Env} {s t : State} {g v : Nat} (h : 0 < sgLen (s.ctx e.core e.slot) g)
    (hl : loadNow (sgPtr (s.ctx e.core e.slot) g) (sgSize (s.ctx e.core e.slot) g) e s = .ok (v, t)) (hn : (t.ctx e.core e.slot).nL < 63) :
    popStream g e s = .ok (TVal.int (extend v (sgSize (s.ctx e.core e.slot) g) ((sgStep (s.ctx e.core e.slot) g).getLsbD 34)),
      (tested e .L t).modCtx e.core e.slot (fun y => sgNext y g)) := by
  unfold popStream
  rw [M.bind_ok (M.me_run e s), M.if_neg_run (by omega), M.bind_ok hl, M.bind_ok (classRoom_run (k := .L) hn), M.bind_ok (M.modMe_run ..)]
  rfl

/-- Settles O25: a field is a port, a carry operand or a bound register by its context's mode, and each has one meaning of its own. -/
theorem specialOperands : Obligations.SpecialOperands := by
  unfold Obligations.SpecialOperands
  refine ⟨?_, ?_, ?_⟩
  · intro e s n f v hn hf hp hu he hd x q
    have hport : (s.ctx e.core e.slot).isPort f.toNat = true := isPort_of hn hf hp
    have hw : waitReplay (104 + n) e s = .ok ((), s) := hf ▸ waitReplay_unused hu
    have hq : f.toNat - 104 = n := by omega
    have hread : readReg f e s = popPort n e s := hq ▸ readReg_port hport
    have hwrite : writeReg f v e s = sendPort n v e s := hq ▸ writeReg_port v he hd hport
    refine ⟨fun h t hx => ?_, fun hx => ?_, fun ho hs => ?_, fun ho hs => ?_, fun ho => ?_, portOk_iff s _ _⟩
    · exact hread.trans (popPort_pops hw hx)
    · exact hread.trans (popPort_empty hw hx)
    · refine hwrite.trans ((sendPort_run v hw).trans ?_)
      rw [M.if_neg_run (by rw [ho]; decide), M.if_neg_run (by rw [hs]; decide)]
      rfl
    · refine hwrite.trans ((sendPort_run v hw).trans ?_)
      rw [M.if_neg_run (by rw [ho]; decide), M.if_pos_run hs]
    · refine hwrite.trans ((sendPort_run v hw).trans ?_)
      rw [M.if_pos_run (by rw [ho]; rfl)]
  · intro e s k j f r hk hk4 hj hf x hc hu hr hi
    have hnport : (s.ctx e.core e.slot).isPort f.toNat = false := by
      have : ¬f.toNat ≤ 111 := by omega
      simp [Ctx.isPort, this]
    have hcarry : (s.ctx e.core e.slot).isCarry f.toNat = true := by
      have : 112 ≤ f.toNat := by omega
      simp [Ctx.isCarry, show (s.ctx e.core e.slot).chain = true from hc, this]
    have hread := readReg_carry hnport hcarry
    have hw := waitReplay_unused hu
    refine ⟨fun v hv => ?_, fun hv ha => ?_, fun hv ha => ?_⟩
    · exact hread.trans (readCarry_published hk hj hf hw hr hi hv)
    · exact hread.trans ((readCarry_unpublished hk hj hf hw hr hi hv).trans (M.if_pos_run ha ..))
    · exact hread.trans ((readCarry_unpublished hk hj hf hw hr hi hv).trans (M.if_neg_run (fun h => Bool.false_ne_true (ha.symm.trans h)) ..))
  · intro e s f g hg x hp hc hb hr he hd noted
    refine ⟨fun h0 => ⟨?_, fun v => ?_⟩, fun h0 v t hl hn => ?_⟩
    · exact (readReg_bound hp hb hr hc).trans (popStream_end h0)
    · exact (writeReg_bound hp hb hr v he hd).trans (appendStream_end v.val h0)
    · exact (readReg_bound hp hb hr hc).trans (popStream_next h0 hl hn)

end Sys2Proof.Machine
end

section
/-! PROOF. `spawn`, `spawn.try` and `spawn.w`: the packet is read once, and enters the store, the launch queue or the issuer's own context (R157, R195,
R200 to R202, R438). -/

namespace Sys2Proof.Machine

/-! ### The packet -/

theorem packetAt_kept {e : Env} {s : State} (p : Word) {ws : List Word} (h : (s.ctx e.core e.slot).packet = some ws) :
    packetAt p e s = .ok (ws, s.modCtx e.core e.slot (fun x => { x with packet := none })) := by
  unfold packetAt
  rw [M.bind_ok (M.me_run e s)]
  simp only [h]
  rw [M.bind_ok (M.modMe_run ..)]
  rfl

theorem packetAt_read {e : Env} {s : State} (p : Word) (h : (s.ctx e.core e.slot).packet = none) : packetAt p e s = loadBlock p 8 e s := by
  unfold packetAt
  rw [M.bind_ok (M.me_run e s)]
  simp only [h]

/-! ### Where the packet goes -/

section
variable {kind : SpawnKind} {d : RegF} {ws : List Word} {e : Env} {s : State} {q : Nat} (hq : spq s (s.ctx e.core e.slot).tenant = some q)
include hq

theorem launchPacket_store (hr : storeRoom s (s.ctx e.core e.slot).tenant q = true) :
    launchPacket kind d ws e s = writeInt d 1 e (enterStore s q ws (s.released (s.ctx e.core e.slot).uid .device)) := by
  unfold launchPacket
  rw [M.bind_ok (M.me_run e s), M.bind_ok (M.env_run e s), M.bind_ok (M.state_run e s)]
  simp only [hq, if_pos hr]
  exact M.bind_ok (M.modify_run ..) _

variable (hr : storeRoom s (s.ctx e.core e.slot).tenant q = false)
include hr

theorem launchPacket_slot {n : Nat} (hn : freeLaunchSlot s q = some n) :
    launchPacket kind d ws e s =
      writeInt d 1 e ((s.setLaunchSlot q n (ws, true)).setChan (.slot q n) (s.released (s.ctx e.core e.slot).uid .device)) := by
  unfold launchPacket
  rw [M.bind_ok (M.me_run e s), M.bind_ok (M.env_run e s), M.bind_ok (M.state_run e s)]
  simp only [hq, hr, hn, Bool.false_eq_true, ↓reduceIte]
  exact M.bind_ok (M.modify_run ..) _

variable (hn : freeLaunchSlot s q = none)
include hn

theorem launchPacket_full_plain : launchPacket .plain d ws e s = parkSpawn 10 .launch ws e s := by
  unfold launchPacket
  rw [M.bind_ok (M.me_run e s), M.bind_ok (M.env_run e s), M.bind_ok (M.state_run e s)]
  simp only [hq, hr, hn, Bool.false_eq_true, ↓reduceIte]

theorem launchPacket_full_try : launchPacket .try_ d ws e s = writeInt d 0 e s := by
  unfold launchPacket
  rw [M.bind_ok (M.me_run e s), M.bind_ok (M.env_run e s), M.bind_ok (M.state_run e s)]
  simp only [hq, hr, hn, Bool.false_eq_true, ↓reduceIte]

theorem launchPacket_full_wait_refused (hc : queueCheck s q ws = none) : launchPacket .wait d ws e s = writeInt d 2 e (refuseRun s q ws) := by
  unfold launchPacket
  rw [M.bind_ok (M.me_run e s), M.bind_ok (M.env_run e s), M.bind_ok (M.state_run e s)]
  simp only [hq, hr, hn, hc, Bool.false_eq_true, ↓reduceIte]
  exact M.bind_ok (M.modify_run ..) _

theorem launchPacket_full_wait (hc : queueCheck s q ws ≠ none) :
    launchPacket .wait d ws e s = (if inlineOk s e.core e.slot ws = true then M.modify (fun s => startInline s e.core e.slot q e.pc ws)
      else parkSpawn 10 .launch ws) e s := by
  obtain ⟨h, hc⟩ := Option.ne_none_iff_exists'.mp hc
  unfold launchPacket
  rw [M.bind_ok (M.me_run e s), M.bind_ok (M.env_run e s), M.bind_ok (M.state_run e s)]
  simp only [hq, hr, hn, hc, Bool.false_eq_true, ↓reduceIte]

end

/-! ### The instructions -/

/-- The number by which the statement calls a kind of `spawn`. -/
def SpawnKind.code : SpawnKind → Nat
  | .plain => 0 | .try_ => 1 | .wait => 2

theorem SpawnKind.code_inj : ∀ {k l : SpawnKind}, k.code = l.code → k = l
  | .plain, .plain, _ | .try_, .try_, _ | .wait, .wait, _ => rfl

theorem spawn_rows {row : (RegF → RegF → Instr) × Nat} (h : row ∈ [(Instr.spawn, 0), (Instr.spawnTry, 1), (Instr.spawnW, 2)]) :
    ∃ kind : SpawnKind, row.2 = kind.code ∧ ∀ d a s, exec (row.1 d a) s = run (row.1 d a) (spawnBody kind d a) s := by
  simp only [List.mem_cons, List.not_mem_nil, or_false] at h
  rcases h with rfl | rfl | rfl
  · exact ⟨.plain, rfl, fun _ _ _ => rfl⟩
  · exact ⟨.try_, rfl, fun _ _ _ => rfl⟩
  · exact ⟨.wait, rfl, fun _ _ _ => rfl⟩

theorem begun_result? (s : State) : ((begun s).ctx s.cur.1 s.cur.2).result? s.who.pc = s.who.result? s.who.pc :=
  ctx_begun_keeps (fun x => x.result? s.who.pc) (fun _ _ => rfl) s s.cur.1 s.cur.2

/-- With no result of an inline run at hand, a `spawn` reads its packet, and goes on once its context's earlier accesses have performed. -/
theorem spawnBody_run {kind : SpawnKind} {i : Instr} {d a : RegF} {s s1 s2 : State} {p : TVal} {ws : List Word}
    (hres : kind = .wait → s.who.result? s.who.pc = none) (hp : Reads (doer i s) a (begun s) p s1) (hw : packetAt p.val (doer i s) s1 = .ok (ws, s2)) :
    spawnBody kind d a (doer i s) (begun s) =
      (if (!performed (doer i s) s2) = true then parkSpawn 1 .performed ws else launchPacket kind d ws) (doer i s) s2 := by
  have hnone : (if kind = .wait then ((begun s).ctx s.cur.1 s.cur.2).result? s.who.pc else none) = none := by
    split
    · next hk => rw [begun_result?, hres hk]
    · rfl
  unfold spawnBody
  rw [M.bind_ok (M.me_run ..), M.bind_ok (M.env_run ..)]
  simp only [doer_core, doer_slot, doer_tpc, hnone]
  rw [M.bind_ok (readVal_of hp), M.bind_ok hw, M.bind_ok (M.myCore_run ..), M.bind_ok (M.me_run ..)]
  rfl

/-- A `spawn.w` that has run its child inline gives the result that waits for it. -/
theorem spawnBody_result {i : Instr} {d a : RegF} {s s1 : State} {v : Word} (hres : s.who.result? s.who.pc = some v)
    (hw : Writes (doer i s) d { val := v, cnt := 127, inx := false } (begun s) s1) :
    spawnBody .wait d a (doer i s) (begun s) = .ok ((), s1.modCtx s.cur.1 s.cur.2 (fun y => { y with results := y.results.tail })) := by
  have hsome : ((begun s).ctx s.cur.1 s.cur.2).result? s.who.pc = some v := (begun_result? s).trans hres
  unfold spawnBody
  rw [M.bind_ok (M.me_run ..), M.bind_ok (M.env_run ..)]
  simp only [doer_core, doer_slot, doer_tpc, hsome, ↓reduceIte]
  rw [M.bind_ok (show writeInt d v (doer i s) (begun s) = .ok ((), s1) from hw)]
  rfl

end Sys2Proof.Machine
end

section
/-! PROOF. `ctxnew`: what it reads, the blocks that it refuses, and the context that it makes (R52, R66, R149, R150, R309, R358). -/

namespace Sys2Proof.Machine

/-! ### `ctxnew` in parts -/

/-- The creation block is not one that R149 accepts from this creator. -/
def ctxnewBad (me : Ctx) (ws : List Word) : Bool :=
  let w2 := ws.getD 2 0
  bits w2 63 10 != 0 || ws.getD 3 0 != 0 || bits w2 9 5 == 0 || decide (16 < bits w2 9 5) || (w2.getLsbD 4 && w2.getLsbD 2) ||
    (!w2.getLsbD 4 && !codeOk (ws.getD 0 0)) || (w2.getLsbD 2 && !(me.chain && me.ordered))

/-- The image of a context that is created with none. -/
def noImage : Img := { first := 1, n := 0, tags := false, carry := none }

/-- Barrier phases that the gang has completed (R358). -/
def gangBars (s : State) (gang : Option Nat) : SMap (BitVec 32) :=
  (match gang.bind s.gang? with
    | some y => y.bars.map (fun ((n, b) : Nat × Barrier) => (n, b.done))
    | none => []).filter (fun (_, v) => v != 0)

/-- The context that creator `me` makes from a block and an image, in a core that stands as in s (R150). -/
def createdCtx (s : State) (c : Nat) (me : Ctx) (ws : List Word) (m : Img) (vs : List Word) (w uid : Nat) (g : BitVec 16) : Ctx :=
  let w2 := ws.getD 2 0
  let rank := freeRank (s.core c) me.gang me.tenant
  { newCtx uid g (pinOf (bits w2 1 0)) (w2.getLsbD 2) (w2.getLsbD 3) (w2.getLsbD 4) w (8 * bits w2 9 5) (ws.getD 0 0) with
    tenant := me.tenant, gang := me.gang, rank := rank, col := me.col, row := me.row,
    index := me.index, run := me.run, runId := me.runId, prio := me.prio, ordered := me.ordered, lock := me.lock,
    strm := me.strm, stream := me.stream, status := if me.level ≠ 0 ∧ w2.getLsbD 4 = false then 1 else 0,
    st := { TrapRegs.zero with vec := me.st.vec }, carry := m.carry, fill := m.fill vs, arr := gangBars s me.gang, obs := gangBars s me.gang,
    elect := lastRound s (serveSquare c) me.gang rank }

/-- A creation from a block and an image that are accepted, on core c that stands as in s. -/
def ctxnewMake (d : RegF) (c : Nat) (me : Ctx) (ws : List Word) (m : Img) (vs : List Word) (s : State) : M Unit :=
  match (s.core c).freeSlot, (s.core c).freeWindow (8 * bits (ws.getD 2 0) 9 5) with
  | some i, some w => do
    let g ← allocGen
    let s1 ← M.state
    M.modify (fun _ => placeCtx s1.fresh.2 c i (createdCtx s c me ws m vs w s1.fresh.1 g))
    writeInt d (w64 i)
  | _, _ => writeInt d (-1)

/-- What `ctxnew` does once the block and the image are read. -/
def ctxnewEnd (d : RegF) (c : Nat) (me : Ctx) (ws : List Word) (img : Option Img) (vs : List Word) (s : State) : M Unit :=
  match img with
  | none => writeInt d (-2)
  | some m =>
    if (ctxnewBad me ws || !m.tagsOk vs) = true then writeInt d (-2)
    else if bits (ws.getD 2 0) 1 0 = 2 ∧ isArray c = false then writeInt d (-3)
    else ctxnewMake d c me ws m vs s

/-- What `ctxnew` does once the block is read: it reads the image, as far as its header says (R66). -/
def ctxnewImage (d : RegF) (c : Nat) (me : Ctx) (ws : List Word) : M Unit := do
  let image := ws.getD 1 0
  let w2 := ws.getD 2 0
  let header ← if image = 0 then pure 0 else loadNow image 8
  let vs ← loadWords (image + 8) (if image = 0 then 0 else headerLen (w64 header))
  let s ← M.state
  ctxnewEnd d c me ws (if image = 0 then some noImage else imgOf (w64 header) (8 * bits w2 9 5) (w2.getLsbD 2) (w2.getLsbD 3)) vs s

/-- `ctxnew` reads its pointer and then the block. -/
theorem ctxnewBody_block {d a : RegF} {e : Env} {s s1 s2 : State} {p : TVal} {ws : List Word} (hp : Reads e a s p s1) (hwin : bits p.val 63 56 = 0xF2)
    (hcore : bits p.val 55 42 = e.core) (hb : loadBlock p.val 4 e s1 = .ok (ws, s2)) :
    ctxnewBody d a e s = ctxnewImage d e.core (s1.ctx e.core e.slot) ws e s2 := by
  unfold ctxnewBody
  rw [M.bind_ok (readVal_of hp), M.bind_ok (M.env_run ..), M.bind_ok (M.me_run ..), M.if_neg_run (not_not.mpr hwin), M.if_neg_run (not_not.mpr hcore),
    M.bind_ok hb]
  rfl

section
variable {d : RegF} {c : Nat} {me : Ctx} {ws : List Word} {e : Env} {s : State}

/-- With no image nothing more is read. -/
theorem ctxnewImage_none (hi : ws.getD 1 0 = 0) : ctxnewImage d c me ws e s = ctxnewEnd d c me ws (some noImage) [] s e s := by
  unfold ctxnewImage
  simp only [hi, ↓reduceIte]
  rw [M.bind_ok (M.pure_run ..), M.bind_ok (show loadWords (0 + 8) 0 e s = .ok ([], s) from rfl), M.bind_ok (M.state_run ..)]

variable (hi : ws.getD 1 0 ≠ 0) {h : Nat} {s4 : State} (hh : loadNow (ws.getD 1 0) 8 e s = .ok (h, s4))
include hi hh

theorem ctxnewImage_some {vs : List Word} {s5 : State} (hv : loadWords (ws.getD 1 0 + 8) (headerLen (w64 h)) e s4 = .ok (vs, s5)) :
    ctxnewImage d c me ws e s =
      ctxnewEnd d c me ws (imgOf (w64 h) (8 * bits (ws.getD 2 0) 9 5) ((ws.getD 2 0).getLsbD 2) ((ws.getD 2 0).getLsbD 3)) vs s5 e s5 := by
  unfold ctxnewImage
  simp only [if_neg hi]
  rw [M.bind_ok hh, M.bind_ok hv, M.bind_ok (M.state_run ..)]

/-- A fault of the image's reads is raised. -/
theorem ctxnewImage_fault {f : TrapInfo} (hv : loadWords (ws.getD 1 0 + 8) (headerLen (w64 h)) e s4 = .error (.trap f)) :
    ctxnewImage d c me ws e s = .error (.trap f) := by
  unfold ctxnewImage
  simp only [if_neg hi]
  rw [M.bind_ok hh, M.bind_error hv]

end

/-! ### The block (R149) -/

/-- What R149 refuses, as the statement writes it. -/
theorem ctxnewBad_iff (me : Ctx) (ws : List Word) :
    let w2 := ws.getD 2 0
    ctxnewBad me ws = true ↔ bits w2 63 10 ≠ 0 ∨ ws.getD 3 0 ≠ 0 ∨ bits w2 9 5 = 0 ∨ 16 < bits w2 9 5 ∨ (w2.getLsbD 4 = true ∧ w2.getLsbD 2 = true) ∨
      (w2.getLsbD 4 = false ∧ (bits (ws.getD 0 0) 1 0 ≠ 0 ∨ bits (ws.getD 0 0) 63 52 ≠ 0)) ∨ (w2.getLsbD 2 = true ∧ (me.chain && me.ordered) = false) := by
  have hcode : codeOk (ws.getD 0 0) = false ↔ bits (ws.getD 0 0) 1 0 ≠ 0 ∨ bits (ws.getD 0 0) 63 52 ≠ 0 := by
    rw [← Bool.not_eq_true, codeOk, Bool.and_eq_true, beq_iff_eq, beq_iff_eq, not_and_or]
  simp only [ctxnewBad, Bool.or_eq_true, Bool.and_eq_true, Bool.not_eq_true', bne_iff_ne, beq_iff_eq, decide_eq_true_eq, hcode, or_assoc]

theorem noImage_tagsOk (vs : List Word) : noImage.tagsOk vs = true := rfl

section
variable {d : RegF} {c : Nat} {me : Ctx} {ws : List Word} {img : Option Img} {vs : List Word} {s : State}

theorem ctxnewEnd_refused (h : ∀ m, img = some m → ctxnewBad me ws = true ∨ m.tagsOk vs = false) :
    ctxnewEnd d c me ws img vs s = writeInt d (-2) := by
  cases img with
  | none => rfl
  | some m => exact if_pos (by rcases h m rfl with hb | ht <;> simp [*])

/-- With an accepted block and no image only the pin and the room of the core are left to look at. -/
theorem ctxnewEnd_accepted (h : ctxnewBad me ws = false) : ctxnewEnd d c me ws (some noImage) [] s =
    if bits (ws.getD 2 0) 1 0 = 2 ∧ isArray c = false then writeInt d (-3) else ctxnewMake d c me ws noImage [] s :=
  if_neg (by rw [h, noImage_tagsOk]; decide)

theorem ctxnewMake_noRoom {m : Img} (h : (s.core c).freeSlot = none ∨ (s.core c).freeWindow (8 * bits (ws.getD 2 0) 9 5) = none) :
    ctxnewMake d c me ws m vs s = writeInt d (-1) := by
  unfold ctxnewMake
  rcases h with h | h
  · rw [h]
  · rw [h]
    cases (s.core c).freeSlot <;> rfl

end

/-! ### The new context (R150) -/

/-- Core c once a request has taken generation g (R70). -/
def tookGen (s : State) (c : Nat) (who : Stall) (g : Nat) : State :=
  s.modCore c (fun k => { k with genLast := g, genFrom := g, stalled := k.stalled.filter (fun w => w != who) })

theorem allocGen_run {e : Env} {s : State} {g : Nat} (hm : mayTake s e.core (.ctx e.slot (s.ctx e.core e.slot).uid e.tpc) = true)
    (hg : (s.core e.core).nextGen = some g) :
    allocGen e s = .ok (BitVec.ofNat 16 g, tookGen s e.core (.ctx e.slot (s.ctx e.core e.slot).uid e.tpc) g) := by
  unfold allocGen takeGen
  simp only [hm, hg, Bool.not_true, Bool.false_eq_true, ↓reduceIte, Option.map_some]
  rfl

theorem tookGen_ctx (s : State) (c : Nat) (who : Stall) (g d i : Nat) : (tookGen s c who g).ctx d i = s.ctx d i := State.ctx_modCore rfl d i

theorem placeCtx_ctx (s : State) (c n : Nat) (x : Ctx) (d i : Nat) : (placeCtx s c n x).ctx d i = if d = c ∧ i = n then x else s.ctx d i := by
  have h : (s.setCtx c n x).ctx d i = if d = c ∧ i = n then x else s.ctx d i := State.ctx_modCtx s c n d i fun _ => x
  unfold placeCtx
  dsimp only
  split
  · exact (State.ctx_modCore rfl d i).trans h
  · exact h

/-- The state in which context n of the core has been made, before its slot is written to xd. -/
def madeCtx (e : Env) (me : Ctx) (ws : List Word) (m : Img) (vs : List Word) (n w g : Nat) (s : State) : State :=
  let s1 := tookGen s e.core (.ctx e.slot (s.ctx e.core e.slot).uid e.tpc) g
  placeCtx s1.fresh.2 e.core n (createdCtx s e.core me ws m vs w s1.fresh.1 (BitVec.ofNat 16 g))

theorem ctxnewMake_makes {d : RegF} {me : Ctx} {ws : List Word} {m : Img} {vs : List Word} {e : Env} {s : State} {n w g : Nat}
    (hn : (s.core e.core).freeSlot = some n) (hw : (s.core e.core).freeWindow (8 * bits (ws.getD 2 0) 9 5) = some w)
    (hm : mayTake s e.core (.ctx e.slot (s.ctx e.core e.slot).uid e.tpc) = true) (hg : (s.core e.core).nextGen = some g) :
    ctxnewMake d e.core me ws m vs s e s = writeInt d (w64 n) e (madeCtx e me ws m vs n w g s) := by
  unfold ctxnewMake
  rw [hn, hw]
  dsimp only
  rw [M.bind_ok (allocGen_run hm hg), M.bind_ok (M.state_run ..), M.bind_ok (M.modify_run ..)]
  rfl

/-- The end of an issue slot changes no other context. -/
theorem ctx_ended_other {s t : State} {d j : Nat} (h : ¬(d = s.cur.1 ∧ j = s.cur.2)) : (ended s t).ctx d j = t.ctx d j := by
  unfold ended
  rw [ctx_rotate]
  unfold clearFault
  split
  · rw [State.ctx_modCtx, if_neg h]
  · rfl

/-- After an issue slot that wrote xd the context reads what was written. -/
theorem readReg_ended_wrote {i : Instr} {s u : State} {d : RegF} (v : TVal) (hd : d ≠ 0) :
    let t := ended s (wrote (doer i s) d v u)
    (t.core s.cur.1).readReg (t.ctx s.cur.1 s.cur.2) d.toNat = v := by
  intro t
  have hb : (t.ctx s.cur.1 s.cur.2).wbase = (u.ctx s.cur.1 s.cur.2).wbase :=
    (ctx_ended_keeps Ctx.wbase (fun _ => rfl) ..).trans (congrArg Ctx.wbase (wrote_ctx ..))
  have hg : (t.ctx s.cur.1 s.cur.2).gen = (u.ctx s.cur.1 s.cur.2).gen :=
    (ctx_ended_keeps Ctx.gen (fun _ => rfl) ..).trans (congrArg Ctx.gen (wrote_ctx ..))
  have hr : (t.core s.cur.1).reg ((u.ctx s.cur.1 s.cur.2).wbase + d.toNat) =
      { val := v.val, cnt := v.cnt, inx := v.inx, gen := (u.ctx s.cur.1 s.cur.2).gen } := by
    rw [core_ended_keeps (fun k => k.reg _) (fun _ _ _ => rfl) (fun _ _ => rfl), wrote_reg, doer_core, doer_slot]
    exact if_pos ⟨rfl, rfl, hd⟩
  unfold Core.readReg
  simp only [hb, hg, hr, toNat_eq_zero_iff, hd, ne_eq, not_true_eq_false, or_self, ↓reduceIte]

/-- The level of a new context: supervisor where its creator is, but for a landing one (R309). -/
theorem createdCtx_level (s : State) (c : Nat) (me : Ctx) (ws : List Word) (m : Img) (vs : List Word) (w uid : Nat) (g : BitVec 16) :
    (createdCtx s c me ws m vs w uid g).level = if me.level ≠ 0 ∧ (ws.getD 2 0).getLsbD 4 = false then 1 else 0 := by
  show bits (if me.level ≠ 0 ∧ (ws.getD 2 0).getLsbD 4 = false then 1 else 0) 1 0 = _
  split <;> rfl

/-- A `ctxnew` that is accepted with no image makes its context, and gives its slot in xd. -/
theorem ctxnew_makes {d a : RegF} {s s1 s2 : State} {ws : List Word} {n w g : Nat} (hs : starts (.ctxnew d a) s = true)
    (hrun : ctxnewBody d a (doer (.ctxnew d a) s) (begun s) =
      ctxnewMake d s.cur.1 (s1.ctx s.cur.1 s.cur.2) ws noImage [] s2 (doer (.ctxnew d a) s) s2)
    (hn : (s2.core s.cur.1).freeSlot = some n) (hw : (s2.core s.cur.1).freeWindow (8 * bits (ws.getD 2 0) 9 5) = some w)
    (hm : mayTake s2 s.cur.1 (.ctx s.cur.2 (s2.ctx s.cur.1 s.cur.2).uid s.who.pc) = true) (hg : (s2.core s.cur.1).nextGen = some g)
    (hne : n ≠ s.cur.2) (hu : (s2.ctx s.cur.1 s.cur.2).usable d = true) :
    ∃ t uid, exec (.ctxnew d a) s = .next t ∧
      t.ctx s.cur.1 n = createdCtx s2 s.cur.1 (s1.ctx s.cur.1 s.cur.2) ws noImage [] w uid (BitVec.ofNat 16 g) ∧
      (d ≠ 0 → ((t.core s.cur.1).readReg (t.ctx s.cur.1 s.cur.2) d.toNat).val = w64 n) := by
  let e := doer (.ctxnew d a) s
  let u := madeCtx e (s1.ctx s.cur.1 s.cur.2) ws noImage [] n w g s2
  have hself : u.ctx s.cur.1 s.cur.2 = s2.ctx s.cur.1 s.cur.2 :=
    ((placeCtx_ctx ..).trans (if_neg fun h => hne h.2.symm)).trans (tookGen_ctx ..)
  have hnew : u.ctx s.cur.1 n = createdCtx s2 s.cur.1 (s1.ctx s.cur.1 s.cur.2) ws noImage [] w s2.nextId (BitVec.ofNat 16 g) :=
    (placeCtx_ctx ..).trans (if_pos ⟨rfl, rfl⟩)
  have hwrite : writeInt d (w64 n) e u = .ok ((), wrote e d (TVal.int (w64 n)) u) :=
    writeReg_usable _ rfl rfl ((congrArg (fun x : Ctx => x.usable d) hself).trans hu)
  refine ⟨_, s2.nextId, run_completes hs (hrun.trans ((ctxnewMake_makes (e := e) hn hw hm hg).trans hwrite)), ?_, fun hd => ?_⟩
  · exact (ctx_ended_other fun h => hne h.2).trans ((wrote_ctx ..).trans hnew)
  · exact congrArg TVal.val (readReg_ended_wrote (TVal.int (w64 n)) hd)

/-! ### The statement -/

/-- Settles O35: `ctxnew` by what R149 and the core's room allow, `spawn` by where its packet finds room. -/
theorem contextCreation : Obligations.ContextCreation := by
  unfold Obligations.ContextCreation
  refine ⟨?_, ?_, ?_, ?_, fun e p s => ⟨fun ws h => packetAt_kept p h, fun h => packetAt_read p h⟩⟩
  · intro d a s s1 s2 s3 p ws i e w2 x k hs hp hwin hcore hb bad
    have hbad : ctxnewBad x ws = true ↔ bad := ctxnewBad_iff x ws
    have hblock := ctxnewBody_block (d := d) hp hwin hcore hb
    have haccept : ¬bad → ws.getD 1 0 = 0 → ctxnewBody d a e (begun s) =
        (if bits w2 1 0 = 2 ∧ isArray e.core = false then writeInt d (-3) else ctxnewMake d e.core x ws noImage [] s2) e s2 := fun h hi => by
      rw [hblock, ctxnewImage_none hi, ctxnewEnd_accepted (Bool.not_eq_true _ ▸ fun h' => h (hbad.mp h'))]
    refine ⟨fun h hi hw => ?_, fun hi h vs s4 s5 hh hv hm hw => ?_, fun hi h s4 f hh hv => ?_, fun h hi hpin ha hw => ?_, fun h hi hpin hroom hw => ?_,
      fun h hi hpin n w g hn hw hm hg hne hu hr => ?_⟩
    · refine run_completes hs (hblock.trans ((ctxnewImage_none hi).trans ?_))
      rw [ctxnewEnd_refused fun _ _ => .inl (hbad.mpr h)]
      exact hw
    · refine run_completes hs (hblock.trans ((ctxnewImage_some hi hh hv).trans ?_))
      rw [ctxnewEnd_refused fun m hm' => (hm m hm').imp_left hbad.mpr]
      exact hw
    · exact run_traps hs (hblock.trans (ctxnewImage_fault hi hh hv))
    · refine run_completes hs ((haccept h hi).trans ?_)
      rw [if_pos ⟨hpin, ha⟩]
      exact hw
    · refine run_completes hs ((haccept h hi).trans ?_)
      rw [if_neg fun h' => Bool.false_ne_true (h'.2.symm.trans (hpin h'.1)), ctxnewMake_noRoom hroom]
      exact hw
    · have hrun := haccept h hi
      rw [if_neg fun h' => Bool.false_ne_true (h'.2.symm.trans (hpin h'.1))] at hrun
      obtain ⟨t, uid, hx, hy, hd⟩ := ctxnew_makes hs hrun hn hw hm hg hne hu
      refine ⟨t, hx, ?_⟩
      have hy : t.ctx e.core n = createdCtx s2 s.cur.1 x ws noImage [] w uid (BitVec.ofNat 16 g) := hy
      simp only [hy]
      exact ⟨rfl, rfl, rfl, rfl, rfl, rfl, rfl, rfl, rfl, rfl, rfl, rfl, createdCtx_level .., rfl, rfl, rfl, rfl, rfl, rfl, hd⟩
  · intro row hrow d a s s1 s2 s3 p ws q i e x hs hres hp hw hperf hq
    obtain ⟨kind, hk, hx⟩ := spawn_rows hrow
    have hbody : spawnBody kind d a e (begun s) = launchPacket kind d ws e s2 :=
      (spawnBody_run (fun h => hres (by rw [hk, h]; rfl)) hp hw).trans (M.if_neg_run (by rw [hperf]; decide) ..)
    have hdone : ∀ t, launchPacket kind d ws e s2 = .ok ((), t) → exec i s = .next (ended s t) :=
      fun t h => (hx d a s).trans (run_completes hs (hbody.trans h))
    have hpark : launchPacket kind d ws e s2 = parkSpawn 10 .launch ws e s2 →
        exec i s = .next ((keepPacket e.core e.slot ws s s2).parkOn e.core e.slot { list := 10, object := 0, cond := .launch }) :=
      fun h => (hx d a s).trans (run_parks hs (hbody.trans h))
    refine ⟨fun hr h => hdone _ ((launchPacket_store hq hr).trans h), fun hr n hn h => hdone _ ((launchPacket_slot hq hr hn).trans h), fun hr hn => ?_⟩
    intro parks
    refine ⟨fun h0 h => ?_, fun h0 => ?_, fun h0 hc h => ?_, fun h0 hc => ⟨fun hin => ?_, fun hin => ?_⟩⟩
    · obtain rfl : kind = .try_ := SpawnKind.code_inj (hk.symm.trans h0)
      exact hdone _ ((launchPacket_full_try hq hr hn).trans h)
    · obtain rfl : kind = .plain := SpawnKind.code_inj (hk.symm.trans h0)
      exact hpark (launchPacket_full_plain hq hr hn)
    all_goals obtain rfl : kind = .wait := SpawnKind.code_inj (hk.symm.trans h0)
    · exact hdone _ ((launchPacket_full_wait_refused hq hr hn hc).trans h)
    · exact hdone _ ((launchPacket_full_wait hq hr hn hc).trans (M.if_pos_run hin ..))
    · exact hpark ((launchPacket_full_wait hq hr hn hc).trans (M.if_neg_run (by rw [hin]; decide) ..))
  · exact fun d a s s1 v hs hres hw => run_completes hs (spawnBody_result hres hw)
  · intro row hrow d a s s1 s2 p ws i e hs hres hp hw hperf
    obtain ⟨kind, hk, hx⟩ := spawn_rows hrow
    have hbody : spawnBody kind d a e (begun s) = parkSpawn 1 .performed ws e s2 :=
      (spawnBody_run (fun h => hres (by rw [hk, h]; rfl)) hp hw).trans (M.if_pos_run (by rw [hperf]; rfl) ..)
    exact (hx d a s).trans (run_parks hs hbody)

end Sys2Proof.Machine
end

section
/-! PROOF. The encoder and the decoder agree (R82 to R104). A word is made of fields, so that "w is the word of an instruction" is an equation for each
field of w: one lemma for each format, which both directions use. -/

namespace Sys2Proof
open Dec Enc

-- One proof at a time: side by side they would all wait for the equations of `encode` and `decode`, each on a thread of its own.
set_option Elab.async false

/-! ### The fields of a concatenation -/

/-- a + b bits are x above y where the upper a are x and the lower b are y. -/
theorem extractLsb'_eq_append {n a b : Nat} (w : BitVec n) (s : Nat) (x : BitVec a) (y : BitVec b) :
    w.extractLsb' s (a + b) = x ++ y ↔ w.extractLsb' (s + b) a = x ∧ w.extractLsb' s b = y := by
  constructor
  · intro h
    have upper : (w.extractLsb' s (a + b)).extractLsb' b a = w.extractLsb' (s + b) a := by
      ext i hi
      simp only [BitVec.getElem_extractLsb', BitVec.getLsbD_extractLsb', Nat.add_assoc]
      grind
    have lower : (w.extractLsb' s (a + b)).extractLsb' 0 b = w.extractLsb' s b := by
      ext i hi
      simp only [BitVec.getElem_extractLsb', BitVec.getLsbD_extractLsb', Nat.zero_add]
      grind
    rw [← upper, ← lower, h]
    exact ⟨BitVec.extractLsb'_append_eq_left, BitVec.extractLsb'_append_eq_right⟩
  · rintro ⟨rfl, rfl⟩
    exact (BitVec.extractLsb'_append_extractLsb'_eq_extractLsb' rfl).symm

/-- A field of one bit. -/
theorem extractLsb'_one_eq {n : Nat} (w : BitVec n) (s : Nat) (h : s < n) (y : BitVec 1) : w.extractLsb' s 1 = y ↔ w[s] = y[0] := by
  constructor
  · rintro rfl
    simp [BitVec.getLsbD_eq_getElem h]
  · intro hy
    ext i hi
    obtain rfl : i = 0 := by omega
    simpa [BitVec.getLsbD_eq_getElem h] using hy

/-- A reserved field is zero where both its parts are. -/
theorem extractLsb'_eq_zero_iff {n : Nat} (w : BitVec n) (s a b : Nat) :
    w.extractLsb' s (a + b) = 0 ↔ w.extractLsb' (s + b) a = 0 ∧ w.extractLsb' s b = 0 := by
  have h : (0 : BitVec (a + b)) = (0 : BitVec a) ++ (0 : BitVec b) := BitVec.zero_append_zero.symm
  rw [h, extractLsb'_eq_append]

/-! ### Formats (R83) -/

theorem fI_eq_iff {m : BitVec 6} {d a : RegF} {i : BitVec 12} {w : IWord} :
    fI m d a i = w ↔ major w = m.toNat ∧ fd w = d ∧ fa w = a ∧ imm12 w = i := by
  rw [major, BitVec.toNat_inj, eq_comm, ← BitVec.extractLsb'_eq_self (x := w)]
  unfold fI
  rw [extractLsb'_eq_append (a := 20) (b := 12), extractLsb'_eq_append (a := 13) (b := 7), extractLsb'_eq_append (a := 6) (b := 7)]
  simp only [BitVec.extractLsb'_eq_self, fd, fa, imm12, and_assoc, Nat.zero_add, Nat.reduceAdd]

theorem fA_eq_iff {m : BitVec 6} {d a b : RegF} {f : BitVec 5} {w : IWord} :
    fA m d a b f = w ↔ major w = m.toNat ∧ fd w = d ∧ fa w = a ∧ fb w = b ∧ func w = f.toNat := by
  rw [major, func, BitVec.toNat_inj, BitVec.toNat_inj, eq_comm, ← BitVec.extractLsb'_eq_self (x := w)]
  unfold fA
  rw [extractLsb'_eq_append (a := 27) (b := 5), extractLsb'_eq_append (a := 20) (b := 7), extractLsb'_eq_append (a := 13) (b := 7),
    extractLsb'_eq_append (a := 6) (b := 7)]
  simp only [BitVec.extractLsb'_eq_self, fd, fa, fb, and_assoc, Nat.zero_add, Nat.reduceAdd]

theorem fU_eq_iff {m : BitVec 6} {d : RegF} {i : BitVec 19} {w : IWord} : fU m d i = w ↔ major w = m.toNat ∧ fd w = d ∧ imm19 w = i := by
  rw [major, BitVec.toNat_inj, eq_comm, ← BitVec.extractLsb'_eq_self (x := w)]
  unfold fU
  rw [extractLsb'_eq_append (a := 13) (b := 19), extractLsb'_eq_append (a := 6) (b := 7)]
  simp only [BitVec.extractLsb'_eq_self, fd, imm19, and_assoc, Nat.zero_add, Nat.reduceAdd]

theorem fJ_eq_iff {m : BitVec 6} {o : BitVec 26} {w : IWord} : fJ m o = w ↔ major w = m.toNat ∧ off26 w = o := by
  rw [major, BitVec.toNat_inj, eq_comm, ← BitVec.extractLsb'_eq_self (x := w)]
  unfold fJ
  rw [extractLsb'_eq_append (a := 6) (b := 26)]
  simp only [BitVec.extractLsb'_eq_self, off26, Nat.zero_add]

theorem fM_eq_iff {m : BitVec 6} {d a : RegF} {z : BitVec 3} {o : BitVec 2} {i : BitVec 7} {w : IWord} :
    fM m d a z o i = w ↔ major w = m.toNat ∧ fd w = d ∧ fa w = a ∧ fsize w = z.toNat ∧ ford w = o.toNat ∧ imm7 w = i := by
  rw [major, fsize, ford, BitVec.toNat_inj, BitVec.toNat_inj, BitVec.toNat_inj, eq_comm, ← BitVec.extractLsb'_eq_self (x := w)]
  unfold fM
  rw [extractLsb'_eq_append (a := 25) (b := 7), extractLsb'_eq_append (a := 23) (b := 2), extractLsb'_eq_append (a := 20) (b := 3),
    extractLsb'_eq_append (a := 13) (b := 7), extractLsb'_eq_append (a := 6) (b := 7)]
  simp only [BitVec.extractLsb'_eq_self, fd, fa, imm7, and_assoc, Nat.zero_add, Nat.reduceAdd]

theorem fE_eq_iff {m : BitVec 6} {c : BitVec 4} {a b : RegF} {md cmd : BitVec 4} {w : IWord} :
    fE m c a b md cmd = w ↔ major w = m.toNat ∧ eclass w = c.toNat ∧ ea w = a ∧ eb w = b ∧ emod w = md ∧ ecmd w = cmd.toNat := by
  rw [major, eclass, ecmd, BitVec.toNat_inj, BitVec.toNat_inj, BitVec.toNat_inj, eq_comm, ← BitVec.extractLsb'_eq_self (x := w)]
  unfold fE
  rw [extractLsb'_eq_append (a := 28) (b := 4), extractLsb'_eq_append (a := 24) (b := 4), extractLsb'_eq_append (a := 17) (b := 7),
    extractLsb'_eq_append (a := 10) (b := 7), extractLsb'_eq_append (a := 6) (b := 4)]
  simp only [BitVec.extractLsb'_eq_self, ea, eb, emod, and_assoc, Nat.zero_add, Nat.reduceAdd]

theorem conv_eq_iff {k : BitVec 2} {r dst src : BitVec 3} {d a : RegF} {w : IWord} :
    Enc.conv k r dst src d a = w ↔ major w = 0x24 ∧ fd w = d ∧ fa w = a ∧ (w.extractLsb' 9 3).toNat = r.toNat ∧
      (w.extractLsb' 6 3).toNat = dst.toNat ∧ (w.extractLsb' 3 3).toNat = src.toNat ∧ (w.extractLsb' 1 2).toNat = k.toNat ∧ w[0] = false := by
  rw [major, show 0x24 = (0x24 : BitVec 6).toNat from rfl]
  simp only [BitVec.toNat_inj]
  rw [eq_comm, ← BitVec.extractLsb'_eq_self (x := w)]
  unfold Enc.conv
  rw [extractLsb'_eq_append (a := 31) (b := 1), extractLsb'_eq_append (a := 29) (b := 2), extractLsb'_eq_append (a := 26) (b := 3),
    extractLsb'_eq_append (a := 23) (b := 3), extractLsb'_eq_append (a := 20) (b := 3), extractLsb'_eq_append (a := 13) (b := 7),
    extractLsb'_eq_append (a := 6) (b := 7), extractLsb'_one_eq _ _ (by decide)]
  simp only [BitVec.extractLsb'_eq_self, fd, fa, and_assoc, Nat.zero_add, Nat.reduceAdd]
  rfl

theorem wait_eq_iff {l s c m q : BitVec 5} {w : IWord} :
    (0x28 : BitVec 6) ++ (0 : BitVec 1) ++ l ++ s ++ c ++ m ++ q = w ↔ major w = 0x28 ∧ w[25] = false ∧ w.extractLsb' 20 5 = l ∧
      w.extractLsb' 15 5 = s ∧ w.extractLsb' 10 5 = c ∧ w.extractLsb' 5 5 = m ∧ w.extractLsb' 0 5 = q := by
  rw [major, show 0x28 = (0x28 : BitVec 6).toNat from rfl, BitVec.toNat_inj, eq_comm, ← BitVec.extractLsb'_eq_self (x := w)]
  rw [extractLsb'_eq_append (a := 27) (b := 5), extractLsb'_eq_append (a := 22) (b := 5), extractLsb'_eq_append (a := 17) (b := 5),
    extractLsb'_eq_append (a := 12) (b := 5), extractLsb'_eq_append (a := 7) (b := 5), extractLsb'_eq_append (a := 6) (b := 1),
    extractLsb'_one_eq _ _ (by decide)]
  simp only [BitVec.extractLsb'_eq_self, and_assoc, Nat.zero_add, Nat.reduceAdd]
  rfl

theorem rep_eq_iff {n : BitVec 4} {s lo : BitVec 7} {span : BitVec 6} {w : IWord} :
    (0x2C : BitVec 6) ++ n ++ s ++ lo ++ span ++ (0 : BitVec 2) = w ↔ major w = 0x2C ∧ w.extractLsb' 22 4 = n ∧ w.extractLsb' 15 7 = s ∧
      w.extractLsb' 8 7 = lo ∧ w.extractLsb' 2 6 = span ∧ (w.extractLsb' 0 2).toNat = 0 := by
  rw [major, show 0x2C = (0x2C : BitVec 6).toNat from rfl, BitVec.toNat_inj, ← BitVec.toNat_zero, BitVec.toNat_inj, eq_comm,
    ← BitVec.extractLsb'_eq_self (x := w)]
  rw [extractLsb'_eq_append (a := 30) (b := 2), extractLsb'_eq_append (a := 24) (b := 6), extractLsb'_eq_append (a := 17) (b := 7),
    extractLsb'_eq_append (a := 10) (b := 7), extractLsb'_eq_append (a := 6) (b := 4)]
  simp only [BitVec.extractLsb'_eq_self, and_assoc, Nat.zero_add, Nat.reduceAdd]
  rfl

/-! ### The parts of a 12-bit field, and of the fields beside it (R88 to R104) -/

theorem extractLsb'_eq_append₃ {n a b c : Nat} (w : BitVec n) (s : Nat) (x : BitVec a) (y : BitVec b) (z : BitVec c) :
    w.extractLsb' s (a + b + c) = x ++ y ++ z ↔ w.extractLsb' (s + c + b) a = x ∧ w.extractLsb' (s + c) b = y ∧ w.extractLsb' s c = z := by
  rw [extractLsb'_eq_append, extractLsb'_eq_append, and_assoc]

section
variable {w : IWord}

/-- Where format I has no register (R98, R104), both its register fields are reserved. -/
theorem registers_reserved_iff : w.extractLsb' 12 14 = 0 ↔ fd w = 0 ∧ fa w = 0 := extractLsb'_eq_zero_iff w 12 7 7

theorem imm12_eq_shift {k : BitVec 2} {z : BitVec 4} {n : BitVec 6} :
    imm12 w = k ++ z ++ n ↔ (w.extractLsb' 10 2).toNat = k.toNat ∧ w.extractLsb' 6 4 = z ∧ w.extractLsb' 0 6 = n := by
  rw [BitVec.toNat_inj]
  exact extractLsb'_eq_append₃ w 0 k z n

theorem imm12_eq_compare {k : BitVec 1} {i : BitVec 11} : imm12 w = k ++ i ↔ w[11] = k[0] ∧ w.extractLsb' 0 11 = i := by
  rw [← extractLsb'_one_eq w _ (by decide)]
  exact extractLsb'_eq_append w 0 k i

theorem imm12_eq_bitfield {k : BitVec 1} {lo : BitVec 6} {n : BitVec 5} :
    imm12 w = k ++ lo ++ n ↔ w[11] = k[0] ∧ w.extractLsb' 5 6 = lo ∧ w.extractLsb' 0 5 = n := by
  rw [← extractLsb'_one_eq w _ (by decide)]
  exact extractLsb'_eq_append₃ w 0 k lo n

theorem imm12_eq_fence {z : BitVec 7} {k : BitVec 2} {s : BitVec 3} :
    imm12 w = z ++ k ++ s ↔ w.extractLsb' 5 7 = z ∧ (w.extractLsb' 3 2).toNat = k.toNat ∧ (w.extractLsb' 0 3).toNat = s.toNat := by
  rw [BitVec.toNat_inj, BitVec.toNat_inj]
  exact extractLsb'_eq_append₃ w 0 z k s

theorem imm12_eq_sigw {k : BitVec 1} {z : BitVec 4} {n : BitVec 7} :
    imm12 w = k ++ z ++ n ↔ w[11] = k[0] ∧ w.extractLsb' 7 4 = z ∧ imm7 w = n := by
  rw [← extractLsb'_one_eq w _ (by decide)]
  exact extractLsb'_eq_append₃ w 0 k z n

theorem imm12_eq_barrier {k : BitVec 1} {z : BitVec 8} {n : BitVec 3} :
    imm12 w = k ++ z ++ n ↔ w[11] = k[0] ∧ w.extractLsb' 3 8 = z ∧ w.extractLsb' 0 3 = n := by
  rw [← extractLsb'_one_eq w _ (by decide)]
  exact extractLsb'_eq_append₃ w 0 k z n

theorem imm12_eq_semaphore {k : BitVec 1} {z : BitVec 7} {n : BitVec 4} :
    imm12 w = k ++ z ++ n ↔ w[11] = k[0] ∧ w.extractLsb' 4 7 = z ∧ w.extractLsb' 0 4 = n := by
  rw [← extractLsb'_one_eq w _ (by decide)]
  exact extractLsb'_eq_append₃ w 0 k z n

theorem imm12_eq_bind {z : BitVec 10} {k : BitVec 2} : imm12 w = z ++ k ↔ w.extractLsb' 2 10 = z ∧ (w.extractLsb' 0 2).toNat = k.toNat := by
  rw [BitVec.toNat_inj]
  exact extractLsb'_eq_append w 0 z k

theorem imm12_eq_engine {k : BitVec 1} {e : BitVec 3} {n : BitVec 8} :
    imm12 w = k ++ e ++ n ↔ w[11] = k[0] ∧ (w.extractLsb' 8 3).toNat = e.toNat ∧ w.extractLsb' 0 8 = n := by
  rw [← extractLsb'_one_eq w _ (by decide), BitVec.toNat_inj]
  exact extractLsb'_eq_append₃ w 0 k e n

theorem imm12_eq_system {k : BitVec 4} {n : BitVec 8} : imm12 w = k ++ n ↔ (w.extractLsb' 8 4).toNat = k.toNat ∧ w.extractLsb' 0 8 = n := by
  rw [BitVec.toNat_inj]
  exact extractLsb'_eq_append w 0 k n

theorem imm12_eq_control {k : BitVec 2} {c : BitVec 10} : imm12 w = k ++ c ↔ (w.extractLsb' 10 2).toNat = k.toNat ∧ w.extractLsb' 0 10 = c := by
  rw [BitVec.toNat_inj]
  exact extractLsb'_eq_append w 0 k c

/-- The function field of an atomic: its operation and the bit of its scope (R91). -/
theorem func_eq_atomic {k : BitVec 4} {s : AScope} : func w = (k ++ Enc.aScope s).toNat ↔ (w.extractLsb' 1 4).toNat = k.toNat ∧ Dec.aScope w = s := by
  have scope : w.extractLsb' 0 1 = Enc.aScope s ↔ Dec.aScope w = s := by
    rw [extractLsb'_one_eq w _ (by decide)]
    cases s <;> simp [Dec.aScope, Enc.aScope]
  rw [func, BitVec.toNat_inj, BitVec.toNat_inj, ← scope]
  exact extractLsb'_eq_append w 0 k (Enc.aScope s)

/-- The mod field of a copy command: a reserved bit and the descriptor set, or the scope of `qfen` (R102). -/
theorem emod_eq_set {k : BitVec 1} {n : BitVec 3} : emod w = k ++ n ↔ w[7] = k[0] ∧ w.extractLsb' 4 3 = n := by
  rw [← extractLsb'_one_eq w _ (by decide)]
  exact extractLsb'_eq_append w 4 k n

end

/-! ### Fields that name a value -/

theorem size?_eq_some {n : Nat} {z : Size} : size? n = some z ↔ n = (size z).toNat :=
  ⟨by unfold size?; split <;> rintro ⟨⟩ <;> rfl, by rintro rfl; cases z <;> rfl⟩

theorem scope?_eq_some {n : Nat} {z : Scope} : scope? n = some z ↔ n = (scope z).toNat :=
  ⟨by unfold scope?; split <;> rintro ⟨⟩ <;> rfl, by rintro rfl; cases z <;> rfl⟩

theorem kind?_eq_some {n : Nat} {z : FenceKind} : kind? n = some z ↔ n = (kind z).toNat :=
  ⟨by unfold kind?; split <;> rintro ⟨⟩ <;> rfl, by rintro rfl; cases z <;> rfl⟩

theorem amoOp?_eq_some {n : Nat} {z : AmoOp} : amoOp? n = some z ↔ n = (amoOp z).toNat :=
  ⟨by unfold amoOp?; split <;> rintro ⟨⟩ <;> rfl, by rintro rfl; cases z <;> rfl⟩

theorem fpFmt?_eq_some {n : Nat} {z : FpFmt} : fpFmt? n = some z ↔ n = (fpFmt z).toNat :=
  ⟨by unfold fpFmt?; split <;> rintro ⟨⟩ <;> rfl, by rintro rfl; cases z <;> rfl⟩

theorem intFmt?_eq_some {n : Nat} {z : IntFmt} : intFmt? n = some z ↔ n = (intFmt z).toNat :=
  ⟨by unfold intFmt?; split <;> rintro ⟨⟩ <;> rfl, by rintro rfl; cases z <;> rfl⟩

theorem rnd?_eq_some {n : Nat} {z : Rnd} : rnd? n = some z ↔ n = (rnd z).toNat :=
  ⟨by unfold rnd?; split <;> rintro ⟨⟩ <;> rfl, by rintro rfl; cases z <;> rfl⟩

theorem engine?_eq_some {n : Nat} {z : Engine} : engine? n = some z ↔ n = (engine z).toNat :=
  ⟨by unfold engine?; split <;> rintro ⟨⟩ <;> rfl, by rintro rfl; cases z <;> rfl⟩

/-! ### A word that decodes -/

/-- What r answers for word w is well formed and written with that word. -/
def Encodes (w : IWord) (r : Except Reject Instr) : Prop := ∀ i, r = .ok i → i.wf = true ∧ encode i = some w

@[simp] theorem encodes_error (w : IWord) (r : Reject) : Encodes w (.error r) := fun _ h => nomatch h

@[simp] theorem encodes_ok {w : IWord} {i : Instr} : Encodes w (.ok i) ↔ i.wf = true ∧ encode i = some w := by simp [Encodes]

@[simp] theorem encodes_mk {w : IWord} {r v : Bool} {i : Instr} :
    Encodes w (mk r v i) ↔ (r = true → v = true → i.wf = true ∧ encode i = some w) := by
  cases r <;> cases v <;> simp [mk]

/-- A check that a word fails leaves nothing to show. -/
@[simp] theorem encodes_ite_error {w : IWord} {c : Prop} [Decidable c] {x : Except Reject Instr} {r : Reject} :
    Encodes w (if c then x else .error r) ↔ (c → Encodes w x) := by
  split <;> simp [*]

@[simp] theorem encodes_error_ite {w : IWord} {c : Prop} [Decidable c] {x : Except Reject Instr} {r : Reject} :
    Encodes w (if c then .error r else x) ↔ (¬c → Encodes w x) := by
  split <;> simp [*]

/-- The last value of a field of two bits. -/
theorem toNat_eq_three {k : BitVec 2} (h0 : k.toNat ≠ 0) (h1 : k.toNat ≠ 1) (h2 : k.toNat ≠ 2) : k.toNat = 3 := by
  have := k.isLt
  omega

section
variable {w : IWord}

theorem alu_encodes (hm : major w = 0x01) : Encodes w (alu w) := by
  unfold alu
  split <;> simp +contextual [Instr.wf, encode, fA_eq_iff, *]

theorem shifti_encodes (hm : major w = 0x06) : Encodes w (shifti w) := by
  unfold shifti
  split <;> simp +contextual [Instr.wf, encode, fI_eq_iff, imm12_eq_shift, -BitVec.reduceAppend, *]

theorem setlessi_encodes (hm : major w = 0x07) : Encodes w (setlessi w) := by
  unfold setlessi
  split <;> simp_all [Instr.wf, encode, fI_eq_iff, imm12_eq_compare]

theorem bitfield_encodes (hm : major w = 0x0A) : Encodes w (bitfield w) := by
  unfold bitfield
  split <;> simp_all [Instr.wf, encode, fI_eq_iff, imm12_eq_bitfield]

theorem load_encodes (hm : major w = 0x15) : Encodes w (load w) := by
  unfold load
  split <;> simp_all [Instr.wf, encode, fM_eq_iff, size?_eq_some, ldOrd]

theorem store_encodes (hm : major w = 0x16) : Encodes w (store w) := by
  unfold store
  split <;> simp_all [Instr.wf, encode, fM_eq_iff, size?_eq_some, stOrd]

theorem tagged_encodes (hm : major w = 0x17) : Encodes w (tagged w) := by
  unfold tagged
  split <;> simp +contextual [Instr.wf, encode, fM_eq_iff, *]

theorem fullEmpty_encodes (hm : major w = 0x18) : Encodes w (fullEmpty w) := by
  unfold fullEmpty
  split
  case h_4 h0 h1 h2 =>
    have h3 : ford w = 3 := toNat_eq_three h0 h1 h2
    simp +contextual [Instr.wf, encode, fM_eq_iff, hm, h3]
  all_goals simp +contextual [Instr.wf, encode, fM_eq_iff, *]

theorem amo_encodes (hm : major w = 0x19) : Encodes w (Dec.amo w) := by
  unfold Dec.amo
  split <;> simp_all [Instr.wf, encode, fA_eq_iff, func_eq_atomic, amoOp?_eq_some, -BitVec.toNat_append]

theorem cas_encodes (hm : major w = 0x1A) : Encodes w (Dec.cas w) := by
  unfold Dec.cas
  simp +contextual [Instr.wf, encode, fA_eq_iff, func_eq_atomic, -BitVec.toNat_append, *]

theorem fence_encodes (hm : major w = 0x1B) : Encodes w (Dec.fence w) := by
  refine encodes_ite_error.mpr fun hz => ?_
  obtain ⟨hda, hr⟩ := (extractLsb'_eq_zero_iff w 5 14 7).mp (beq_iff_eq.mp hz)
  obtain ⟨hd, ha⟩ := registers_reserved_iff.mp hda
  split
  · next hk hs =>
    exact encodes_ok.mpr ⟨rfl, congrArg some (fI_eq_iff.mpr ⟨hm, hd, ha, imm12_eq_fence.mpr ⟨hr, kind?_eq_some.mp hk, scope?_eq_some.mp hs⟩⟩)⟩
  · exact encodes_error _ _

theorem pointer_encodes (hm : major w = 0x1C) : Encodes w (pointer w) := by
  unfold pointer
  split <;> simp +contextual [Instr.wf, encode, fA_eq_iff, *]

theorem fp_encodes {t : FpType} (hm : major w = (fpMajor t).toNat) : Encodes w (fp t w) := by
  unfold fp
  split <;> simp +contextual [Instr.wf, encode, fA_eq_iff, *]

theorem conv_encodes (hm : major w = 0x24) : Encodes w (Dec.conv w) := by
  unfold Dec.conv
  dsimp only
  split
  case h_4 => exact encodes_error _ _
  all_goals
    refine encodes_ite_error.mpr fun hz => ?_
    split <;> simp_all [Instr.wf, encode, conv_eq_iff, rnd?_eq_some, fpFmt?_eq_some, intFmt?_eq_some]

theorem sig_encodes (hm : major w = 0x25) : Encodes w (sig w) := by
  unfold sig
  split
  · next h => simp +contextual [Instr.wf, encode, fI_eq_iff, imm12_eq_sigw, -BitVec.reduceAppend, hm, show w[11] = true from h]
  · next h =>
    refine encodes_mk.mpr fun hz _ => ⟨rfl, congrArg some (fI_eq_iff.mpr ⟨hm, rfl, rfl, ?_⟩)⟩
    exact imm12_eq_compare (k := 0) (i := 0) |>.mpr ⟨by simpa using h, beq_iff_eq.mp hz⟩

theorem quant_encodes (hm : major w = 0x26) : Encodes w (quant w) := by
  unfold quant
  split <;> simp [Instr.wf, encode, fA_eq_iff, *]

theorem execm_encodes (hm : major w = 0x27) : Encodes w (execm w) := by
  unfold execm
  split <;> simp +contextual [Instr.wf, encode, fA_eq_iff, *]

theorem wait_encodes (hm : major w = 0x28) : Encodes w (Dec.wait w) :=
  encodes_mk.mpr fun hz _ => ⟨rfl, congrArg some (wait_eq_iff.mpr ⟨hm, by simpa using hz, rfl, rfl, rfl, rfl, rfl⟩)⟩

theorem barrier_encodes (hm : major w = 0x29) : Encodes w (barrier w) := by
  refine encodes_mk.mpr fun hz _ => ?_
  obtain ⟨hda, hr⟩ := Bool.and_eq_true_iff.mp hz
  obtain ⟨hd, ha⟩ := registers_reserved_iff.mp (beq_iff_eq.mp hda)
  split
  · next h => exact ⟨rfl, congrArg some (fI_eq_iff.mpr ⟨hm, hd, ha, imm12_eq_barrier.mpr ⟨h, beq_iff_eq.mp hr, rfl⟩⟩)⟩
  · next h => exact ⟨rfl, congrArg some (fI_eq_iff.mpr ⟨hm, hd, ha, imm12_eq_barrier.mpr ⟨eq_false_of_ne_true h, beq_iff_eq.mp hr, rfl⟩⟩)⟩

theorem semaphore_encodes (hm : major w = 0x2A) : Encodes w (semaphore w) := by
  refine encodes_mk.mpr fun hz _ => ?_
  obtain ⟨hda, hr⟩ := Bool.and_eq_true_iff.mp hz
  obtain ⟨hd, ha⟩ := registers_reserved_iff.mp (beq_iff_eq.mp hda)
  split
  · next h => exact ⟨rfl, congrArg some (fI_eq_iff.mpr ⟨hm, hd, ha, imm12_eq_semaphore.mpr ⟨h, beq_iff_eq.mp hr, rfl⟩⟩)⟩
  · next h => exact ⟨rfl, congrArg some (fI_eq_iff.mpr ⟨hm, hd, ha, imm12_eq_semaphore.mpr ⟨eq_false_of_ne_true h, beq_iff_eq.mp hr, rfl⟩⟩)⟩

theorem one_encodes (hm : major w = 0x2B) : Encodes w (mk (w.extractLsb' 0 26 == 0) true .one) :=
  encodes_mk.mpr fun hz _ => ⟨rfl, congrArg some (fJ_eq_iff.mpr ⟨hm, beq_iff_eq.mp hz⟩)⟩

theorem repm_encodes (hm : major w = 0x2C) : Encodes w (repm w) := by
  unfold repm
  split
  · next h => exact encodes_mk.mpr fun _ hv => ⟨hv, congrArg some (rep_eq_iff.mpr ⟨hm, rfl, rfl, rfl, rfl, h⟩)⟩
  · next h =>
    refine encodes_mk.mpr fun hz _ => ⟨rfl, congrArg some (fI_eq_iff.mpr ⟨hm, rfl, rfl, ?_⟩)⟩
    exact imm12_eq_bind (z := 0) (k := 1) |>.mpr ⟨beq_iff_eq.mp hz, h⟩
  · next h =>
    refine encodes_mk.mpr fun hz _ => ?_
    obtain ⟨ha, hr⟩ := (extractLsb'_eq_zero_iff w 2 7 10).mp (beq_iff_eq.mp hz)
    exact ⟨rfl, congrArg some (fI_eq_iff.mpr ⟨hm, rfl, ha, imm12_eq_bind (z := 0) (k := 2) |>.mpr ⟨hr, h⟩⟩)⟩
  · exact encodes_error _ _

theorem gens_encodes (hm : major w = 0x2D) : Encodes w (gens w) := by
  unfold gens
  split <;> simp +contextual [Instr.wf, encode, fA_eq_iff, *]

theorem copym_encodes (hm : major w = 0x2E) : Encodes w (copym w) := by
  refine encodes_error_ite.mpr fun hc => ?_
  have hc : eclass w = 1 := by simpa using hc
  dsimp only
  split
  case h_5 h =>
    refine encodes_ite_error.mpr fun hb => ?_
    split
    · next s hs =>
      refine encodes_ite_error.mpr fun hz => encodes_ok.mpr ⟨rfl, congrArg some (fE_eq_iff.mpr ⟨hm, hc, rfl, beq_iff_eq.mp hb, ?_, h⟩)⟩
      exact emod_eq_set.mpr ⟨by simpa using hz, BitVec.eq_of_toNat_eq (scope?_eq_some.mp hs)⟩
    · exact encodes_error _ _
  all_goals simp +contextual [Instr.wf, encode, fE_eq_iff, emod_eq_set, *]

theorem matrixm_encodes (hm : major w = 0x2F) : Encodes w (matrixm w) := by
  refine encodes_error_ite.mpr fun hc => ?_
  have hc : eclass w = 2 := by simpa using hc
  dsimp only
  split <;> simp +contextual [Instr.wf, encode, fE_eq_iff, *]

theorem ropem_encodes (hm : major w = 0x30) : Encodes w (ropem w) := by
  refine encodes_error_ite.mpr fun hc => ?_
  have hc : eclass w = 3 := by simpa using hc
  dsimp only
  split <;> simp +contextual [Instr.wf, encode, fE_eq_iff, *]

theorem samplem_encodes (hm : major w = 0x31) : Encodes w (samplem w) := by
  refine encodes_error_ite.mpr fun hc => ?_
  have hc : eclass w = 4 := by simpa using hc
  dsimp only
  split <;> simp +contextual [Instr.wf, encode, fE_eq_iff, *]

theorem engreg_encodes (hm : major w = 0x32) : Encodes w (engreg w) := by
  unfold engreg
  dsimp only
  split
  all_goals
    refine encodes_ite_error.mpr fun hz => ?_
    split <;> simp_all [Instr.wf, encode, fI_eq_iff, imm12_eq_engine, engine?_eq_some]

/-- A word of major 0x33 whose two register fields are reserved. -/
theorem system_word {k : BitVec 4} {n : BitVec 8} (hm : major w = 0x33) (h : (w.extractLsb' 8 4).toNat = k.toNat)
    (hz : (w.extractLsb' 12 14 == 0) = true) (hn : w.extractLsb' 0 8 = n) : some (fI 0x33 0 0 (k ++ n)) = some w := by
  obtain ⟨hd, ha⟩ := registers_reserved_iff.mp (beq_iff_eq.mp hz)
  exact congrArg some (fI_eq_iff.mpr ⟨hm, hd, ha, imm12_eq_system.mpr ⟨h, hn⟩⟩)

theorem sys_encodes (hm : major w = 0x33) : Encodes w (Dec.sys w) := by
  have bare {z : Bool} {n : BitVec 8} (h : (z && n == 0) = true) : z = true ∧ n = 0 := by simpa using h
  unfold Dec.sys
  dsimp only
  split
  · next h => exact encodes_mk.mpr fun hz _ => ⟨rfl, system_word (k := 0) hm h (bare hz).1 (bare hz).2⟩
  · next h => exact encodes_mk.mpr fun hz _ => ⟨rfl, system_word (k := 1) hm h hz rfl⟩
  · next h => exact encodes_mk.mpr fun hz _ => ⟨rfl, system_word (k := 2) hm h (bare hz).1 (bare hz).2⟩
  · next h => exact encodes_mk.mpr fun hz _ => ⟨rfl, system_word (k := 3) hm h hz rfl⟩
  · next h => exact encodes_mk.mpr fun hz _ => ⟨rfl, system_word (k := 4) hm h (bare hz).1 (bare hz).2⟩
  · exact encodes_error _ _

theorem csr_encodes (hm : major w = 0x34) : Encodes w (csr w) := by
  unfold csr
  dsimp only
  split
  case h_4 h0 h1 h2 =>
    have h3 : (w.extractLsb' 10 2).toNat = 3 := toNat_eq_three h0 h1 h2
    simp +contextual [Instr.wf, encode, fI_eq_iff, imm12_eq_control, hm, h3]
  all_goals simp +contextual [Instr.wf, encode, fI_eq_iff, imm12_eq_control, *]

theorem priv_encodes (hm : major w = 0x35) : Encodes w (Dec.priv w) := by
  have low {k : BitVec 2} (h : (w.extractLsb' 10 2).toNat = k.toNat) (hz : w.extractLsb' 0 10 = 0) : imm12 w = k ++ (0 : BitVec 10) :=
    imm12_eq_control.mpr ⟨h, hz⟩
  unfold Dec.priv
  dsimp only
  split
  · next h => exact encodes_mk.mpr fun hz _ => ⟨rfl, congrArg some (fI_eq_iff.mpr ⟨hm, rfl, rfl, low (k := 0) h (beq_iff_eq.mp hz)⟩)⟩
  · next h =>
    refine encodes_mk.mpr fun hz _ => ?_
    obtain ⟨hz, hd⟩ : w.extractLsb' 0 10 = 0 ∧ fd w = 0 := by simpa using hz
    exact ⟨rfl, congrArg some (fI_eq_iff.mpr ⟨hm, hd, rfl, low (k := 1) h hz⟩)⟩
  · next h =>
    refine encodes_mk.mpr fun hz _ => ?_
    obtain ⟨⟨hz, hd⟩, ha⟩ : (w.extractLsb' 0 10 = 0 ∧ fd w = 0) ∧ fa w = 0 := by simpa using hz
    exact ⟨rfl, congrArg some (fI_eq_iff.mpr ⟨hm, hd, ha, low (k := 2) h hz⟩)⟩
  · exact encodes_error _ _

/-- The branches of two fields (R89): format B has ra and rb where format I has rd and ra. -/
theorem branch_word {m : BitVec 6} (hm : major w = m.toNat) : fI m (ba w) (bb w) (imm12 w) = w := fI_eq_iff.mpr ⟨hm, rfl, rfl, rfl⟩

/-- One arm for each major from 0x01 to 0x35, in the order of the decoder's table. -/
theorem decode_encodes (w : IWord) : Encodes w (decode w) := by
  unfold decode
  split
  · exact alu_encodes ‹_›
  · simp [Instr.wf, encode, fI_eq_iff, *]
  · simp [Instr.wf, encode, fI_eq_iff, *]
  · simp [Instr.wf, encode, fI_eq_iff, *]
  · simp [Instr.wf, encode, fI_eq_iff, *]
  · exact shifti_encodes ‹_›
  · exact setlessi_encodes ‹_›
  · simp [Instr.wf, encode, fU_eq_iff, *]
  · simp [Instr.wf, encode, fU_eq_iff, *]
  · exact bitfield_encodes ‹_›
  · exact encodes_ok.mpr ⟨rfl, congrArg some (branch_word ‹_›)⟩
  · exact encodes_ok.mpr ⟨rfl, congrArg some (branch_word ‹_›)⟩
  · exact encodes_ok.mpr ⟨rfl, congrArg some (branch_word ‹_›)⟩
  · exact encodes_ok.mpr ⟨rfl, congrArg some (branch_word ‹_›)⟩
  · exact encodes_ok.mpr ⟨rfl, congrArg some (branch_word ‹_›)⟩
  · exact encodes_ok.mpr ⟨rfl, congrArg some (branch_word ‹_›)⟩
  · exact encodes_ok.mpr ⟨rfl, congrArg some (branch_word ‹_›)⟩
  · simp [Instr.wf, encode, fJ_eq_iff, *]
  · simp [Instr.wf, encode, fJ_eq_iff, *]
  · simp [Instr.wf, encode, fI_eq_iff, *]
  · exact load_encodes ‹_›
  · exact store_encodes ‹_›
  · exact tagged_encodes ‹_›
  · exact fullEmpty_encodes ‹_›
  · exact amo_encodes ‹_›
  · exact cas_encodes ‹_›
  · exact fence_encodes ‹_›
  · exact pointer_encodes ‹_›
  · exact fp_encodes ‹_›
  · exact fp_encodes ‹_›
  · exact fp_encodes ‹_›
  · exact fp_encodes ‹_›
  · exact fp_encodes ‹_›
  · exact fp_encodes ‹_›
  · exact fp_encodes ‹_›
  · exact conv_encodes ‹_›
  · exact sig_encodes ‹_›
  · exact quant_encodes ‹_›
  · exact execm_encodes ‹_›
  · exact wait_encodes ‹_›
  · exact barrier_encodes ‹_›
  · exact semaphore_encodes ‹_›
  · exact one_encodes ‹_›
  · exact repm_encodes ‹_›
  · exact gens_encodes ‹_›
  · exact copym_encodes ‹_›
  · exact matrixm_encodes ‹_›
  · exact ropem_encodes ‹_›
  · exact samplem_encodes ‹_›
  · exact engreg_encodes ‹_›
  · exact sys_encodes ‹_›
  · exact csr_encodes ‹_›
  · exact priv_encodes ‹_›
  · exact encodes_error _ _

end

/-- Settles O56: in each arm of the decoder the fields that it has read, and the reserved ones that it has found zero, make up the whole word. -/
theorem decodeThenEncode : Obligations.DecodeThenEncode := by
  unfold Obligations.DecodeThenEncode
  exact decode_encodes

/-! ### The word of an instruction: the decoder by major (R86) -/

section
variable {w : IWord}

theorem decode_alu (hm : major w = 0x01) : decode w = alu w := by simp [decode, hm]
theorem decode_shifti (hm : major w = 0x06) : decode w = shifti w := by simp [decode, hm]
theorem decode_setlessi (hm : major w = 0x07) : decode w = setlessi w := by simp [decode, hm]
theorem decode_bitfield (hm : major w = 0x0A) : decode w = bitfield w := by simp [decode, hm]
theorem decode_load (hm : major w = 0x15) : decode w = load w := by simp [decode, hm]
theorem decode_store (hm : major w = 0x16) : decode w = store w := by simp [decode, hm]
theorem decode_tagged (hm : major w = 0x17) : decode w = tagged w := by simp [decode, hm]
theorem decode_fullEmpty (hm : major w = 0x18) : decode w = fullEmpty w := by simp [decode, hm]
theorem decode_amo (hm : major w = 0x19) : decode w = Dec.amo w := by simp [decode, hm]
theorem decode_cas (hm : major w = 0x1A) : decode w = Dec.cas w := by simp [decode, hm]
theorem decode_fence (hm : major w = 0x1B) : decode w = Dec.fence w := by simp [decode, hm]
theorem decode_pointer (hm : major w = 0x1C) : decode w = pointer w := by simp [decode, hm]
theorem decode_conv (hm : major w = 0x24) : decode w = Dec.conv w := by simp [decode, hm]
theorem decode_sig (hm : major w = 0x25) : decode w = sig w := by simp [decode, hm]
theorem decode_quant (hm : major w = 0x26) : decode w = quant w := by simp [decode, hm]
theorem decode_execm (hm : major w = 0x27) : decode w = execm w := by simp [decode, hm]
theorem decode_wait (hm : major w = 0x28) : decode w = Dec.wait w := by simp [decode, hm]
theorem decode_barrier (hm : major w = 0x29) : decode w = barrier w := by simp [decode, hm]
theorem decode_semaphore (hm : major w = 0x2A) : decode w = semaphore w := by simp [decode, hm]
theorem decode_repm (hm : major w = 0x2C) : decode w = repm w := by simp [decode, hm]
theorem decode_gens (hm : major w = 0x2D) : decode w = gens w := by simp [decode, hm]
theorem decode_copym (hm : major w = 0x2E) : decode w = copym w := by simp [decode, hm]
theorem decode_matrixm (hm : major w = 0x2F) : decode w = matrixm w := by simp [decode, hm]
theorem decode_ropem (hm : major w = 0x30) : decode w = ropem w := by simp [decode, hm]
theorem decode_samplem (hm : major w = 0x31) : decode w = samplem w := by simp [decode, hm]
theorem decode_engreg (hm : major w = 0x32) : decode w = engreg w := by simp [decode, hm]
theorem decode_sys (hm : major w = 0x33) : decode w = Dec.sys w := by simp [decode, hm]
theorem decode_csr (hm : major w = 0x34) : decode w = csr w := by simp [decode, hm]
theorem decode_priv (hm : major w = 0x35) : decode w = Dec.priv w := by simp [decode, hm]

theorem decode_fp {t : FpType} (hm : major w = (fpMajor t).toNat) : decode w = fp t w := by
  cases t <;> simp [decode, hm, fpMajor]

end

/-- The fields of the word of an instruction are what it was made of, and lead the decoder to the arm that reads them. -/
theorem decode_encode {i : Instr} {w : IWord} (hwf : i.wf = true) (h : encode i = some w) : decode w = .ok i := by
  cases i with
  | add d a b | sub d a b | mul d a b | mulh d a b | mulhn d a b | div d a b | divn d a b | rem d a b | remn d a b | and d a b | or d a b | xor d a b
  | shl d a b | shr d a b | sra d a b | min d a b | max d a b | minn d a b | maxn d a b | slt d a b | sltn d a b | seq d a b | sel d a b | perm d a b =>
    obtain ⟨hm, rfl, rfl, rfl, hf⟩ := fA_eq_iff.mp (Option.some.inj h)
    simp [decode_alu hm, alu, hf]
  | clz d a | ctz d a | pop d a =>
    obtain ⟨hm, rfl, rfl, hb, hf⟩ := fA_eq_iff.mp (Option.some.inj h)
    simp [decode_alu hm, alu, hf, hb, mk]
  | addi d a i | andi d a i | ori d a i | xori d a i | jr d a i =>
    obtain ⟨hm, rfl, rfl, rfl⟩ := fI_eq_iff.mp (Option.some.inj h)
    simp [decode, hm]
  | shli d a n | shri d a n | srai d a n =>
    obtain ⟨hm, rfl, rfl, hi⟩ := fI_eq_iff.mp (Option.some.inj h)
    obtain ⟨hk, hz, rfl⟩ := imm12_eq_shift.mp hi
    simp [decode_shifti hm, shifti, hk, hz, mk]
  | slti d a i | sltni d a i =>
    obtain ⟨hm, rfl, rfl, hi⟩ := fI_eq_iff.mp (Option.some.inj h)
    obtain ⟨hk, rfl⟩ := imm12_eq_compare.mp hi
    simp [decode_setlessi hm, setlessi, hk]
  | lui d i | addpc d i =>
    obtain ⟨hm, rfl, rfl⟩ := fU_eq_iff.mp (Option.some.inj h)
    simp [decode, hm]
  | bfx d a lo n | bfi d a lo n =>
    obtain ⟨hm, rfl, rfl, hi⟩ := fI_eq_iff.mp (Option.some.inj h)
    obtain ⟨hk, rfl, rfl⟩ := imm12_eq_bitfield.mp hi
    simp [decode_bitfield hm, bitfield, hk]
  | beq a b o | bne a b o | blt a b o | bge a b o | bltn a b o | bgen a b o | bsig a b o =>
    obtain ⟨hm, rfl, rfl, rfl⟩ := fI_eq_iff.mp (Option.some.inj h)
    simp [decode, hm, ba, bb, fd, fa]
  | b o | bl o =>
    obtain ⟨hm, rfl⟩ := fJ_eq_iff.mp (Option.some.inj h)
    simp [decode, hm]
  | ld d a z o i =>
    obtain ⟨hm, rfl, rfl, hz, ho, rfl⟩ := fM_eq_iff.mp (Option.some.inj h)
    cases o <;> simp [decode_load hm, load, size?_eq_some.mpr hz, ho, ldOrd]
  | ldGo d a z i =>
    obtain ⟨hm, rfl, rfl, hz, ho, rfl⟩ := fM_eq_iff.mp (Option.some.inj h)
    simp [decode_load hm, load, size?_eq_some.mpr hz, ho]
  | st d a z o i =>
    obtain ⟨hm, rfl, rfl, hz, ho, rfl⟩ := fM_eq_iff.mp (Option.some.inj h)
    have hv : storeSizeOk z = true := hwf
    cases o <;> simp [decode_store hm, store, size?_eq_some.mpr hz, ho, stOrd, hv, mk]
  | ldt d a i | stt d a i =>
    obtain ⟨hm, rfl, rfl, hz, ho, rfl⟩ := fM_eq_iff.mp (Option.some.inj h)
    simp [decode_tagged hm, tagged, hz, ho, mk]
  | ldfe d a i | ldff d a i | stfe d a i =>
    obtain ⟨hm, rfl, rfl, hz, ho, rfl⟩ := fM_eq_iff.mp (Option.some.inj h)
    simp [decode_fullEmpty hm, fullEmpty, hz, ho, mk]
  | sete a i =>
    obtain ⟨hm, hd, rfl, hz, ho, rfl⟩ := fM_eq_iff.mp (Option.some.inj h)
    simp [decode_fullEmpty hm, fullEmpty, hd, hz, ho, mk]
  | amo op s d a b =>
    obtain ⟨hm, rfl, rfl, rfl, hf⟩ := fA_eq_iff.mp (Option.some.inj h)
    obtain ⟨hop, rfl⟩ := func_eq_atomic.mp hf
    simp [decode_amo hm, Dec.amo, amoOp?_eq_some.mpr hop, -BitVec.extractLsb'_toNat]
  | cas s d a b =>
    obtain ⟨hm, rfl, rfl, rfl, hf⟩ := fA_eq_iff.mp (Option.some.inj h)
    obtain ⟨hz, rfl⟩ := func_eq_atomic.mp hf
    simp [decode_cas hm, Dec.cas, BitVec.eq_of_toNat_eq hz, mk]
  | fence k s =>
    obtain ⟨hm, hd, ha, hi⟩ := fI_eq_iff.mp (Option.some.inj h)
    obtain ⟨hr, hk, hs⟩ := imm12_eq_fence.mp hi
    have hz : w.extractLsb' 5 21 = 0 := (extractLsb'_eq_zero_iff w 5 14 7).mpr ⟨registers_reserved_iff.mpr ⟨hd, ha⟩, hr⟩
    simp [decode_fence hm, Dec.fence, hz, kind?_eq_some.mpr hk, scope?_eq_some.mpr hs, -BitVec.extractLsb'_toNat]
  | spc d a | cvspLoc d a | cvspSq d a | cvspRem d a =>
    obtain ⟨hm, rfl, rfl, hb, hf⟩ := fA_eq_iff.mp (Option.some.inj h)
    simp [decode_pointer hm, pointer, hf, hb, mk]
  | fadd t d a b | fsub t d a b | fmul t d a b | fma t d a b | fnma t d a b | fdiv t d a b | fmin t d a b | fmax t d a b | fcmp t d a b =>
    obtain ⟨hm, rfl, rfl, rfl, hf⟩ := fA_eq_iff.mp (Option.some.inj h)
    simp [decode_fp hm, fp, hf]
  | fsqrt t d a | fneg t d a | fabs t d a | fcls t d a | frcp t d a | fex2 t d a | flg2 t d a =>
    obtain ⟨hm, rfl, rfl, hb, hf⟩ := fA_eq_iff.mp (Option.some.inj h)
    simp [decode_fp hm, fp, hf, hb, mk]
  | fcvt x y r d a =>
    obtain ⟨hm, rfl, rfl, hr, hx, hy, hk, hz⟩ := conv_eq_iff.mp (Option.some.inj h)
    have hv : (x != y) = true := hwf
    simp [decode_conv hm, Dec.conv, hk, hz, rnd?_eq_some.mpr hr, fpFmt?_eq_some.mpr hx, fpFmt?_eq_some.mpr hy, bne_iff_ne.mp hv, -BitVec.extractLsb'_toNat]
  | fcvi x y r d a | icvf x y r d a =>
    obtain ⟨hm, rfl, rfl, hr, hx, hy, hk, hz⟩ := conv_eq_iff.mp (Option.some.inj h)
    simp [decode_conv hm, Dec.conv, hk, hz, rnd?_eq_some.mpr hr, fpFmt?_eq_some.mpr rfl, intFmt?_eq_some.mpr rfl, hx, hy, -BitVec.extractLsb'_toNat]
  | sigr d a =>
    obtain ⟨hm, rfl, rfl, hi⟩ := fI_eq_iff.mp (Option.some.inj h)
    obtain ⟨hk, hz⟩ := (imm12_eq_compare (k := 0) (i := 0)).mp hi
    simp [decode_sig hm, sig, hk, hz, mk]
  | sigw d a n =>
    obtain ⟨hm, rfl, rfl, hi⟩ := fI_eq_iff.mp (Option.some.inj h)
    obtain ⟨hk, hz, rfl⟩ := imm12_eq_sigw.mp hi
    have hv : sigwCountOk (imm7 w).toNat = true := hwf
    simp [decode_sig hm, sig, hk, hz, hv, mk]
  | qblkI8 d a b | qblkI4 d a b | fscl d a b =>
    obtain ⟨hm, rfl, rfl, rfl, hf⟩ := fA_eq_iff.mp (Option.some.inj h)
    simp [decode_quant hm, quant, hf]
  | exit | yield =>
    obtain ⟨hm, hd, ha, hb, hf⟩ := fA_eq_iff.mp (Option.some.inj h)
    simp [decode_execm hm, execm, hf, hd, ha, hb, mk]
  | pass a =>
    obtain ⟨hm, hd, rfl, hb, hf⟩ := fA_eq_iff.mp (Option.some.inj h)
    have hv : (decide (1 ≤ (fa w).toNat) && decide ((fa w).toNat ≤ 15)) = true := hwf
    simp [decode_execm hm, execm, hf, hd, hb, mk, -Bool.and_eq_true, hv]
  | take d =>
    obtain ⟨hm, rfl, ha, hb, hf⟩ := fA_eq_iff.mp (Option.some.inj h)
    simp [decode_execm hm, execm, hf, ha, hb, mk]
  | go a | susp a | ctxkill a | hold a =>
    obtain ⟨hm, hd, rfl, hb, hf⟩ := fA_eq_iff.mp (Option.some.inj h)
    simp [decode_execm hm, execm, hf, hd, hb, mk]
  | spawn d a | spawnTry d a | spawnW d a | ctxnew d a =>
    obtain ⟨hm, rfl, rfl, hb, hf⟩ := fA_eq_iff.mp (Option.some.inj h)
    simp [decode_execm hm, execm, hf, hb, mk]
  | wait l s c m q =>
    obtain ⟨hm, hz, rfl, rfl, rfl, rfl, rfl⟩ := wait_eq_iff.mp (Option.some.inj h)
    simp [decode_wait hm, Dec.wait, hz, mk]
  | bar n | barw n =>
    obtain ⟨hm, hd, ha, hi⟩ := fI_eq_iff.mp (Option.some.inj h)
    obtain ⟨hk, hz, rfl⟩ := imm12_eq_barrier.mp hi
    simp [decode_barrier hm, barrier, hk, hz, registers_reserved_iff.mpr ⟨hd, ha⟩, mk]
  | semp n | semv n =>
    obtain ⟨hm, hd, ha, hi⟩ := fI_eq_iff.mp (Option.some.inj h)
    obtain ⟨hk, hz, rfl⟩ := imm12_eq_semaphore.mp hi
    simp [decode_semaphore hm, semaphore, hk, hz, registers_reserved_iff.mpr ⟨hd, ha⟩, mk]
  | one =>
    obtain ⟨hm, hz⟩ := fJ_eq_iff.mp (Option.some.inj h)
    have hz : w.extractLsb' 0 26 = 0 := hz
    simp [decode, hm, hz, mk]
  | rep n s lo span =>
    obtain ⟨hm, rfl, rfl, rfl, rfl, hk⟩ := rep_eq_iff.mp (Option.some.inj h)
    have hv : (decide ((w.extractLsb' 8 7).toNat + (w.extractLsb' 2 6).toNat ≤ 127)) = true := hwf
    simp [decode_repm hm, repm, hk, mk, of_decide_eq_true hv, -BitVec.extractLsb'_toNat]
  | sbind d a =>
    obtain ⟨hm, rfl, rfl, hi⟩ := fI_eq_iff.mp (Option.some.inj h)
    obtain ⟨hz, hk⟩ := (imm12_eq_bind (z := 0) (k := 1)).mp hi
    simp [decode_repm hm, repm, hk, hz, mk]
  | sfree d =>
    obtain ⟨hm, rfl, ha, hi⟩ := fI_eq_iff.mp (Option.some.inj h)
    obtain ⟨hr, hk⟩ := (imm12_eq_bind (z := 0) (k := 2)).mp hi
    have hz : w.extractLsb' 2 17 = 0 := (extractLsb'_eq_zero_iff w 2 7 10).mpr ⟨ha, hr⟩
    simp [decode_repm hm, repm, hk, hz, mk]
  | gnewZero d a b | gnewTrap d a b =>
    obtain ⟨hm, rfl, rfl, rfl, hf⟩ := fA_eq_iff.mp (Option.some.inj h)
    simp [decode_gens hm, gens, hf]
  | gfree a =>
    obtain ⟨hm, hd, rfl, hb, hf⟩ := fA_eq_iff.mp (Option.some.inj h)
    simp [decode_gens hm, gens, hf, hd, hb, mk]
  | gchk d a =>
    obtain ⟨hm, rfl, rfl, hb, hf⟩ := fA_eq_iff.mp (Option.some.inj h)
    simp [decode_gens hm, gens, hf, hb, mk]
  | cpy a b n | cpym a b n | deal a b n | bkt a b n =>
    obtain ⟨hm, hc, rfl, rfl, he, hf⟩ := fE_eq_iff.mp (Option.some.inj h)
    obtain ⟨hz, rfl⟩ := emod_eq_set.mp he
    simp [decode_copym hm, copym, hc, hf, hz, mk]
  | qfen s a =>
    obtain ⟨hm, hc, rfl, hb, he, hf⟩ := fE_eq_iff.mp (Option.some.inj h)
    obtain ⟨hz, hs⟩ := emod_eq_set.mp he
    simp [decode_copym hm, copym, hc, hf, hz, hb, hs, scope?_eq_some.mpr rfl]
  | mld a b | mmul a b | mgrp a b | mout a b | mxa a b =>
    obtain ⟨hm, hc, rfl, rfl, he, hf⟩ := fE_eq_iff.mp (Option.some.inj h)
    simp [decode_matrixm hm, matrixm, hc, hf, he, mk]
  | mzero =>
    obtain ⟨hm, hc, ha, hb, he, hf⟩ := fE_eq_iff.mp (Option.some.inj h)
    simp [decode_matrixm hm, matrixm, hc, hf, ha, hb, he, mk]
  | rcat a b | rsplit a b | rsplice a b | rfind a b | rfold a b | rpin a b | rref a b | rdrop a b =>
    obtain ⟨hm, hc, rfl, rfl, he, hf⟩ := fE_eq_iff.mp (Option.some.inj h)
    simp [decode_ropem hm, ropem, hc, hf, he, mk]
  | smp a b =>
    obtain ⟨hm, hc, rfl, rfl, he, hf⟩ := fE_eq_iff.mp (Option.some.inj h)
    simp [decode_samplem hm, samplem, hc, hf, he, mk]
  | smpw d =>
    obtain ⟨hm, hc, rfl, hb, he, hf⟩ := fE_eq_iff.mp (Option.some.inj h)
    simp [decode_samplem hm, samplem, hc, hf, hb, he, mk]
  | erd e n d =>
    obtain ⟨hm, rfl, ha, hi⟩ := fI_eq_iff.mp (Option.some.inj h)
    obtain ⟨hk, he, rfl⟩ := imm12_eq_engine.mp hi
    have hv : engineRegOk e (w.extractLsb' 0 8).toNat = true := hwf
    simp [decode_engreg hm, engreg, hk, ha, engine?_eq_some.mpr he, hv, -BitVec.extractLsb'_toNat]
  | ewr e n a =>
    obtain ⟨hm, hd, rfl, hi⟩ := fI_eq_iff.mp (Option.some.inj h)
    obtain ⟨hk, he, rfl⟩ := imm12_eq_engine.mp hi
    have hv : engineRegOk e (w.extractLsb' 0 8).toNat = true := hwf
    simp [decode_engreg hm, engreg, hk, hd, engine?_eq_some.mpr he, hv, -BitVec.extractLsb'_toNat]
  | nop =>
    obtain ⟨hm, hd, ha, hi⟩ := fI_eq_iff.mp (Option.some.inj h)
    obtain ⟨hk, hn⟩ := (imm12_eq_system (k := 0) (n := 0)).mp hi
    simp [decode_sys hm, Dec.sys, hk, hn, registers_reserved_iff.mpr ⟨hd, ha⟩, mk]
  | eret =>
    obtain ⟨hm, hd, ha, hi⟩ := fI_eq_iff.mp (Option.some.inj h)
    obtain ⟨hk, hn⟩ := (imm12_eq_system (k := 2) (n := 0)).mp hi
    simp [decode_sys hm, Dec.sys, hk, hn, registers_reserved_iff.mpr ⟨hd, ha⟩, mk]
  | idle =>
    obtain ⟨hm, hd, ha, hi⟩ := fI_eq_iff.mp (Option.some.inj h)
    obtain ⟨hk, hn⟩ := (imm12_eq_system (k := 4) (n := 0)).mp hi
    simp [decode_sys hm, Dec.sys, hk, hn, registers_reserved_iff.mpr ⟨hd, ha⟩, mk]
  | trap n | dbg n =>
    obtain ⟨hm, hd, ha, hi⟩ := fI_eq_iff.mp (Option.some.inj h)
    obtain ⟨hk, rfl⟩ := imm12_eq_system.mp hi
    simp [decode_sys hm, Dec.sys, hk, registers_reserved_iff.mpr ⟨hd, ha⟩, mk]
  | csrr c d =>
    obtain ⟨hm, rfl, ha, hi⟩ := fI_eq_iff.mp (Option.some.inj h)
    obtain ⟨hk, rfl⟩ := imm12_eq_control.mp hi
    have hv : csrOk (w.extractLsb' 0 10).toNat = true := hwf
    simp [decode_csr hm, csr, hk, ha, hv, mk, -BitVec.extractLsb'_toNat]
  | csrw c a | csrs c a | csrc c a =>
    obtain ⟨hm, hd, rfl, hi⟩ := fI_eq_iff.mp (Option.some.inj h)
    obtain ⟨hk, rfl⟩ := imm12_eq_control.mp hi
    have hv : csrOk (w.extractLsb' 0 10).toNat = true := hwf
    simp [decode_csr hm, csr, hk, hd, hv, mk, -BitVec.extractLsb'_toNat]
  | cfgctx d a =>
    obtain ⟨hm, rfl, rfl, hi⟩ := fI_eq_iff.mp (Option.some.inj h)
    obtain ⟨hk, hz⟩ := (imm12_eq_control (k := 0) (c := 0)).mp hi
    simp [decode_priv hm, Dec.priv, hk, hz, mk]
  | tlbi a =>
    obtain ⟨hm, hd, rfl, hi⟩ := fI_eq_iff.mp (Option.some.inj h)
    obtain ⟨hk, hz⟩ := (imm12_eq_control (k := 1) (c := 0)).mp hi
    simp [decode_priv hm, Dec.priv, hk, hz, hd, mk]
  | gscrub =>
    obtain ⟨hm, hd, ha, hi⟩ := fI_eq_iff.mp (Option.some.inj h)
    obtain ⟨hk, hz⟩ := (imm12_eq_control (k := 2) (c := 0)).mp hi
    simp [decode_priv hm, Dec.priv, hk, hz, hd, ha, mk]
  | _ => exact nomatch h

/-- Settles O55: each instruction by the format of its word, in `decode_encode`. -/
theorem encodeThenDecode : Obligations.EncodeThenDecode := by
  unfold Obligations.EncodeThenDecode
  exact fun _ _ => decode_encode

/-- Settles O54: each of the words is the one that its instruction is written with. -/
theorem wordsDecode : Obligations.WordsDecode := by
  unfold Obligations.WordsDecode
  refine ⟨fun row hrow => ?_, rfl, rfl⟩
  have word : row.2.wf = true ∧ encode row.2 = some row.1 := by
    revert row
    decide
  exact decode_encode word.1 word.2

end Sys2Proof
end

section
/-! PROOF. The issue slot: which word a step executes (R182, R357), and what the word meets before it executes (R105). -/

namespace Sys2Proof.Machine

/-! ### The step of an issue slot -/

theorem fetch_ok {s t : State} {w : IWord} {i : Instr} (hw : fetchWord s.who.pc (envOf s 0) s = .ok (w, t)) (hd : decode w = .ok i) :
    fetch s = .ok (i, t) := by
  have hw : fetchWord (envOf s 0).pc (envOf s 0) s = .ok (w, t) := hw
  unfold fetch
  simp only [hw, hd]

/-- A word that decodes to nothing is fetched all the same, and refused in its issue slot. -/
theorem fetch_reject {s t : State} {w : IWord} {r : Reject} (hw : fetchWord s.who.pc (envOf s 0) s = .ok (w, t)) (hd : decode w = .error r) :
    fetch s = .ok (.issueRefusalHolder w, t) := by
  have hw : fetchWord (envOf s 0).pc (envOf s 0) s = .ok (w, t) := hw
  unfold fetch
  simp only [hw, hd]

/-- A forced turn of a core whose rotation has an eligible context executes what that context has fetched, and time passes with it. -/
theorem step_issue {s t : State} {c n : Nat} {i : Instr} (ht : s.turn = some (.issue c))
    (hn : issuer { s with turn := none } c = some n) (hf : fetch { s with turn := none, cur := (c, n) } = .ok (i, t)) :
    step s = after (settle { s with turn := none } (some (.issue c)) true) (exec i t) := by
  have turn : nextTurn s = (some (.issue c), true, { s with turn := none }) := by unfold nextTurn; rw [ht]
  unfold step
  rw [turn]
  unfold runTurn
  simp only [hn, hf]

/-- Settles O60: the turn is forced, and what is fetched is executed. -/
theorem stepRunsDecoded : Obligations.StepRunsDecoded := by
  unfold Obligations.StepRunsDecoded
  intro s s2 c n w ht u v hn hw
  exact ⟨fun i hd => step_issue ht hn (fetch_ok (s := v) hw hd), fun r hd => step_issue ht hn (fetch_reject (s := v) hw hd)⟩

/-! ### Steps 6 to 9 of R105 -/

section
variable {c : Nat} {x : Ctx} {fm : Form} {w : IWord}

/-- Field f is below the context's window, or is read as something other than a general register (R53). -/
def Ctx.inWindow (x : Ctx) (f : RegF) : Prop := f.toNat < x.wcount ∨ x.exempt f.toNat = true

theorem badField_cons_inWindow {f : RegF} {l : List RegF} (h : x.inWindow f) : x.badField (f :: l) = x.badField l := by
  refine if_neg fun hbad => ?_
  obtain ⟨hle, hex⟩ := Bool.and_eq_true_iff.mp hbad
  rcases h with hlt | h
  · exact Nat.not_lt.mpr (of_decide_eq_true hle) hlt
  · exact Bool.false_ne_true ((congrArg not h).symm.trans hex)

theorem badField_cons_outside {f : RegF} {l : List RegF} (hw : x.wcount ≤ f.toNat) (hx : x.exempt f.toNat = false) : x.badField (f :: l) = some f :=
  if_pos (Bool.and_eq_true_iff.mpr ⟨decide_eq_true hw, congrArg not hx⟩)

/-- The first field outside the window is the one that is reported. -/
theorem badField_append {l r : List RegF} (h : ∀ g ∈ l, x.inWindow g) : x.badField (l ++ r) = x.badField r := by
  induction l with
  | nil => rfl
  | cons g l ih =>
    rw [List.cons_append, badField_cons_inWindow (h g (List.mem_cons_self ..)), ih fun k hk => h k (List.mem_cons_of_mem _ hk)]

theorem badField_none {l : List RegF} (h : ∀ g ∈ l, x.inWindow g) : x.badField l = none := by
  rw [← List.append_nil l, badField_append h]
  rfl

theorem precheck_level (hs : fm.sup = true) (hx : x.level = 0) : precheck c x fm w = some { cause := 0x02, aux := w64 w.toNat } := by
  unfold precheck
  rw [hs, hx]
  rfl

theorem precheck_pin (hs : fm.sup = false ∨ x.level ≠ 0) (hp : pinOk c x fm.pin = false) :
    precheck c x fm w = some { cause := 0x03, aux := w64 w.toNat } := by
  unfold precheck
  rw [if_neg (by rcases hs with h | h <;> simp [h]), hp]
  rfl

theorem precheck_window {f : RegF} (hs : fm.sup = false ∨ x.level ≠ 0) (hp : pinOk c x fm.pin = true)
    (hf : x.badField (fm.src ++ fm.dst.toList) = some f) : precheck c x fm w = some { cause := 0x01, aux := w64 f.toNat } := by
  unfold precheck
  rw [if_neg (by rcases hs with h | h <;> simp [h]), hp, hf]
  rfl

theorem precheck_carry {d : RegF} (hs : fm.sup = false ∨ x.level ≠ 0) (hp : pinOk c x fm.pin = true)
    (hf : x.badField (fm.src ++ fm.dst.toList) = none) (hd : fm.dst = some d) (hc : x.chain = true) (h : 112 ≤ d.toNat) :
    precheck c x fm w = some { cause := 0x01, aux := w64 (5 * 2 ^ 32 + w.toNat) } := by
  unfold precheck
  rw [if_neg (by rcases hs with h | h <;> simp [h]), hp, hf, hd]
  simp only [hc, decide_eq_true h, Bool.and_self, Bool.not_true, Bool.false_eq_true, ↓reduceIte]

theorem pinOk_of_ne {p : Pin} (hl : x.landing = false) (hp : x.pin ≠ p) : pinOk c x (some p) = false := by
  simp [pinOk, hl, hp]

end

/-! ### A word that is refused takes effect in no other way -/

theorem run_refused {i : Instr} {body : M Unit} {s : State} {t : TrapInfo} (hp : precheck s.cur.1 s.who (form i) ((encode i).getD 0) = some t) :
    run i body s = .next (rotate s.cur.1 s.cur.2 (raise (doer i s) t s)) := by
  have hp : precheck s.cur.1 (s.ctx s.cur.1 s.cur.2) (form i) ((encode i).getD 0) = some t := hp
  unfold run issue
  dsimp only [envOf]
  rw [hp]
  rfl

theorem execRep_refused {n : BitVec 4} {st lo : BitVec 7} {span : BitVec 6} {s : State} {t : TrapInfo}
    (hp : precheck s.cur.1 s.who (form (.rep n st lo span)) ((encode (.rep n st lo span)).getD 0) = some t) :
    exec (.rep n st lo span) s = .next (rotate s.cur.1 s.cur.2 (raise (doer (.rep n st lo span) s) t s)) := by
  have hp : precheck s.cur.1 (s.ctx s.cur.1 s.cur.2) (form (.rep n st lo span)) ((encode (.rep n st lo span)).getD 0) = some t := hp
  show execRep n st lo span s = _
  unfold execRep
  dsimp only [envOf]
  rw [hp]
  rfl

/-- `one.` and `dbg` name no field, pin or level: there is nothing in steps 6 to 9 of R105 that they could fail. -/
theorem precheck_bare (c : Nat) (x : Ctx) (w : IWord) : precheck c x {} w = none := rfl

/-- What issues through `run` is refused by `run`; a pair and `dbg` are not refused here, a body is refused before it is captured. -/
theorem exec_refused {i : Instr} {w : IWord} {s : State} {t : TrapInfo} (hw : encode i = some w) (hp : precheck s.cur.1 s.who (form i) w = some t) :
    exec i s = .next (rotate s.cur.1 s.cur.2 (raise (doer i s) t s)) := by
  have hp : precheck s.cur.1 s.who (form i) ((encode i).getD 0) = some t := by rw [hw]; exact hp
  cases i with
  | add | sub | mul | mulh | mulhn | div | divn | rem | remn | and | or | xor | shl | shr | sra | min | max | minn | maxn | slt | sltn | seq | sel
  | clz | ctz | pop | perm | addi | andi | ori | xori | shli | shri | srai | slti | sltni | lui | addpc | bfx | bfi | beq | bne | blt | bge | bltn
  | bgen | bsig | b | bl | jr | ld | ldGo | st | ldt | stt | ldfe | ldff | stfe | sete | amo | cas | fence | spc | cvspLoc | cvspSq | cvspRem | fadd
  | fsub | fmul | fma | fnma | fdiv | fsqrt | fmin | fmax | fneg | fabs | fcmp | fcls | frcp | fex2 | flg2 | fcvt | fcvi | icvf | sigr | sigw | qblkI8
  | qblkI4 | fscl | exit | yield | pass | take | go | susp | spawn | spawnTry | spawnW | ctxnew | ctxkill | hold | wait | bar | barw | semp | semv
  | sbind | sfree | gnewZero | gnewTrap | gfree | gchk | cpy | cpym | deal | bkt | qfen | mld | mmul | mgrp | mzero | mout | mxa | rcat | rsplit
  | rsplice | rfind | rfold | rpin | rref | rdrop | smp | smpw | erd | ewr | nop | trap | eret | idle | csrr | csrw | csrs | csrc | cfgctx | tlbi
  | gscrub =>
    unfold exec; exact run_refused hp
  | one => exact nomatch (precheck_bare ..).symm.trans hp
  | dbg n => exact nomatch (precheck_bare ..).symm.trans hp
  | rep n st lo span => exact execRep_refused hp
  | _ => exact nomatch hw

theorem issueRefusalHolder_rejects {w : IWord} {r : Reject} {s : State} (hd : decode w = .error r) :
    exec (.issueRefusalHolder w) s = .next (rotate s.cur.1 s.cur.2 (raise (envOf s w) (reasonInfo r.reason w) s)) := by
  show execIssueRefusalHolder w s = _
  unfold execIssueRefusalHolder wordRefusal
  rw [hd]
  rfl

/-- Settles O26: the checks of steps 6 to 9 one behind the other, and the words that steps 1 to 4 refuse. -/
theorem checksAtIssue : Obligations.ChecksAtIssue := by
  unfold Obligations.ChecksAtIssue
  refine ⟨fun i w s t => exec_refused, fun c x fm w => ⟨precheck_level, fun hs p hp hl hne => ?_, fun hs hp f l r hl hlt hw hx => ?_,
    fun hs hp hin d hd hc h => ?_⟩, fun w r s hd => ?_⟩
  · exact precheck_pin hs (by rw [hp]; exact pinOk_of_ne hl hne)
  · exact precheck_window hs hp (by rw [hl, badField_append hlt]; exact badField_cons_outside hw hx)
  · exact precheck_carry hs hp (badField_none hin) hd hc h
  · rw [issueRefusalHolder_rejects hd]
    cases r <;> rfl

end Sys2Proof.Machine
end

section
/-! PROOF. `one.` pairs (R99, R411 to R414): who executes the pair, and how the others take the elected value. -/

namespace Sys2Proof.Machine

/-! ### A request of an issue slot -/

theorem nextSeq_run (e : Env) (s : State) : nextSeq e s = .ok ((s.ctx e.core e.slot).seq, numbered e s) := rfl

/-- Where its destination is ready, a request is outstanding, and its context waits for it or goes on (R186, R353, R60). -/
theorem request_ready {d : RegF} {kind : LoadKind} {l : Loc} {waits : Bool} {e : Env} {s t : State} {app : Option (Option Append)}
    (hd : Ready e d s app t) (he : e.elect = false) (hk : ∀ r, kind ≠ .take r) :
    let stay := waits || (app.isNone && (t.ctx e.core e.slot).isPort d.toNat)
    request d kind l waits e s = (if stay then M.parkKeep 1 d.toNat (.reg d.toNat) else pure ()) e (pended e d kind l app stay t) := by
  have hd : readyDest d e s = .ok (app, t) := hd
  have hx : (numbered e t).ctx e.core e.slot = { t.ctx e.core e.slot with seq := (t.ctx e.core e.slot).seq + 1 } := State.ctx_modCtx_same ..
  unfold request
  rw [M.bind_ok (M.env_run e s), M.bind_ok hd, M.bind_ok (nextSeq_run e t), M.bind_ok (M.me_run e _), M.bind_ok (M.modMe_run _ e _), hx, he]
  cases kind
  case take r => exact absurd rfl (hk r)
  all_goals rfl

/-- The end of the issue slot at s whose instruction has made a request from s1. -/
theorem finish_request {d : RegF} {kind : LoadKind} {l : Loc} {waits : Bool} {i : Instr} {s s1 t : State} {app : Option (Option Append)} {pc : Word}
    (hd : Ready { doer i s with pc := pc } d s1 app t) (hk : ∀ r, kind ≠ .take r) :
    finish (doer i s) s (request d kind l waits { doer i s with pc := pc } s1) = .next (requested { doer i s with pc := pc } d kind l app waits s t) := by
  rw [request_ready hd rfl hk]
  unfold requested afterRequest
  dsimp only
  split <;> rfl

/-! ### `one.` -/

@[simp] theorem envOf_core (s : State) (w : IWord) : (envOf s w).core = s.cur.1 := rfl
@[simp] theorem envOf_slot (s : State) (w : IWord) : (envOf s w).slot = s.cur.2 := rfl

section
variable {s s1 : State} {w : IWord} {i : Instr} {g : Nat}

/-- A context outside any gang executes its pair. -/
theorem execOne_alone (hp : pairOf (doer .one s) (advance s.cur.1 s.cur.2 8 s) = .ok ((w, i), s1)) (hg : (s1.ctx s.cur.1 s.cur.2).gang = none) :
    exec .one s = finish (doer .one s) s (electedBody w i (doer .one s) s1) := by
  have hp : pairOf (envOf s ((encode .one).getD 0)) (advance s.cur.1 s.cur.2 8 s) = .ok ((w, i), s1) := hp
  show execOne s = _
  unfold execOne
  simp only [envOf_core, envOf_slot, hp, hg]
  rfl

/-- The first member of its domain to come to a round that has room opens it, and executes its pair where it is the one on the lowest core. -/
theorem execOne_opens {t : State} (hp : pairOf (doer .one s) (advance s.cur.1 s.cur.2 8 s) = .ok ((w, i), s1)) :
    let x := s1.ctx s.cur.1 s.cur.2
    let q := serveSquare s.cur.1
    let k := x.elect + 1
    x.gang = some g → s1.round? q g x.rank k = none → ((s1.square q).elections.filter (fun el => el.gang == g && el.rank == x.rank)).length < 4 →
    (s1.domain q g x.rank).head?.map (fun m => m.1) = some s.cur.1 →
    electedBody w i (doer .one s) ((openRound s1 q g x.rank k s.cur.1).modCtx s.cur.1 s.cur.2 (fun x => { x with elect := k })) = .ok ((), t) →
    exec .one s = .next (ended s t) := by
  intro x q k hg hr hroom hfirst hb
  have hp : pairOf (envOf s ((encode .one).getD 0)) (advance s.cur.1 s.cur.2 8 s) = .ok ((w, i), s1) := hp
  show execOne s = _
  unfold execOne
  have hb : electedBody w i (envOf s ((encode .one).getD 0)) ((openRound s1 q g x.rank k s.cur.1).modCtx s.cur.1 s.cur.2 (fun x => { x with elect := k })) =
    .ok ((), t) := hb
  have hopen : ¬(true && decide (4 ≤ ((s1.square q).elections.filter (fun el => el.gang == g && el.rank == x.rank)).length)) = true := by
    simpa using hroom
  have hr : s1.round? (serveSquare s.cur.1) g (s1.ctx s.cur.1 s.cur.2).rank ((s1.ctx s.cur.1 s.cur.2).elect + 1) = none := hr
  simp only [envOf_core, envOf_slot, hp, show (s1.ctx s.cur.1 s.cur.2).gang = some g from hg, hr, Option.isNone_none, Option.isSome_none, hfirst,
    Option.getD_some, Option.elim_none, and_self, x, q, k, if_true, Bool.false_eq_true, if_false, hb]
  exact if_neg hopen

/-- In a round that is known, a member that is not elected, or comes after the result, receives. -/
theorem execOne_receives {el : Election} (hp : pairOf (doer .one s) (advance s.cur.1 s.cur.2 8 s) = .ok ((w, i), s1)) :
    let x := s1.ctx s.cur.1 s.cur.2
    let k := x.elect + 1
    x.gang = some g → s1.round? (serveSquare s.cur.1) g x.rank k = some el → ¬(el.elected = s.cur.1 ∧ el.result.isNone = true) →
    exec .one s = finish (doer .one s) s (receiverBody w i k el.result el.front { doer .one s with pc := s.who.pc + 4 }
      (s1.modCtx s.cur.1 s.cur.2 (fun x => { x with elect := k }))) := by
  intro x k hg hr hel
  have hp : pairOf (envOf s ((encode .one).getD 0)) (advance s.cur.1 s.cur.2 8 s) = .ok ((w, i), s1) := hp
  show execOne s = _
  unfold execOne
  have hr : s1.round? (serveSquare s.cur.1) g (s1.ctx s.cur.1 s.cur.2).rank ((s1.ctx s.cur.1 s.cur.2).elect + 1) = some el := hr
  simp only [envOf_core, envOf_slot, hp, show (s1.ctx s.cur.1 s.cur.2).gang = some g from hg, hr, Option.isNone_some, Option.isSome_some, Bool.false_and,
    Bool.false_eq_true, if_false, if_true, Option.elim_some, Option.bind_some, if_neg hel]
  rfl

/-- A result that the square already holds is taken at once, with its flags, as an acquire (R414). -/
theorem receiverBody_result {k : BitVec 32} {v : TVal} {fl : Word} {front : Front} {e : Env} {t u : State} {d : RegF} (hd : (form i).dst = some d)
    (hw : Writes e d v ((t.gain (t.ctx e.core e.slot).uid front).modCtx e.core e.slot (fun x => { x with fflags := x.fflags ||| w64 fl.toNat })) u) :
    receiverBody w i k (some (v, fl)) front e t = .ok ((), u) := by
  have hw : writeReg d v e ((t.gain (t.ctx e.core e.slot).uid front).modCtx e.core e.slot (fun x => orFlags x fl.toNat)) = .ok ((), u) := hw
  unfold receiverBody
  rw [hd, M.bind_ok (M.env_run e t), M.bind_ok (M.me_run e t)]
  dsimp only
  rw [M.bind_ok (M.modify_run _ e t), M.bind_ok (M.modMe_run _ e _)]
  exact hw

/-- Without a result yet, the destination becomes pending. -/
theorem receiverBody_open {k : BitVec 32} {front : Front} {e : Env} {t : State} {d : RegF} (hd : (form i).dst = some d) :
    receiverBody w i k none front e t = request d (.one k w) { place := .ls e.core 0, ptr := 0, win := .loc, size := 8 } false e t := by
  unfold receiverBody
  rw [hd, M.bind_ok (M.env_run e t), M.bind_ok (M.me_run e t)]
  dsimp only [Option.getD_some]

end

/-- A context outside any gang has nobody to deliver its result to. -/
theorem electedBody_alone {w : IWord} {i : Instr} {m : M Unit} {e : Env} {s t : State} (hm : bodyOf i = some m)
    (hb : m { e with pc := e.tpc + 4, word := w, elect := true } (s.modCtx e.core e.slot (fun x => { x with fflags := 0, eout := none })) = .ok ((), t))
    (hg : (t.ctx e.core e.slot).gang = none) :
    electedBody w i e s = .ok ((), t.modCtx e.core e.slot (fun x => { x with fflags := (s.ctx e.core e.slot).fflags ||| x.fflags, eout := none })) := by
  unfold electedBody
  simp only [hm, Option.getD_some, hb]
  cases hv : (t.ctx e.core e.slot).eout with
  | none => rfl
  | some v =>
    unfold electResult
    simp [hg]

/-- A delivery to a receiver that still waits completes its request, and closes the rounds that it was the last to wait for (R413, R414). -/
theorem oneResult_delivered {n : Nat} {s t : State} {d : Delivery} {l : LoadReq} (hn : s.gives[n]? = some d) (hu : (s.ctx d.core d.slot).uid = d.uid)
    (hl : (s.ctx d.core d.slot).loads.find? (fun l => l.isOne d.k) = some l) (hs : portShut s (s.ctx d.core d.slot) l.rd l.app = false)
    (hc : complete (({ s with gives := without s.gives n }.gain d.uid d.front).modCtx d.core d.slot (fun x => orFlags x d.flags.toNat)) d.core d.slot l d.v false =
      some t) :
    exec (.oneResultDelivery n) s = .next (closeRounds t (serveSquare d.core)) := by
  show execOneResultDelivery n s = _
  unfold execOneResultDelivery
  unfold without at hc
  simp only [hn, hu, if_true, hl, hs, Bool.false_eq_true, if_false, hc]

/-- Settles O39: who executes the pair, who waits for its result, who takes the result at once, and what a delivery does. -/
theorem elections : Obligations.Elections := by
  unfold Obligations.Elections
  refine ⟨?_, fun s s1 t w i g hp => execOne_opens hp, ?_, ?_, fun n s t d l => oneResult_delivered⟩
  · intro s s1 s2 w i m e hp hg hm hb hg2
    rw [execOne_alone hp hg, electedBody_alone (e := doer .one s) hm hb hg2]
    rfl
  · intro s s1 s2 w i d g el app hp e x k hg hr hne hres hd hready
    rw [execOne_receives hp hg hr fun h => hne h.1, hres, receiverBody_open hd]
    exact finish_request hready nofun
  · intro s s1 s2 w i d g el v fl hp x k hg hr hres hd hw
    have huid : ((s1.modCtx s.cur.1 s.cur.2 (fun x => { x with elect := k })).ctx s.cur.1 s.cur.2).uid = x.uid := by
      rw [State.ctx_modCtx_same]
    have late : ¬(el.elected = s.cur.1 ∧ el.result.isNone = true) := by
      rw [hres]
      exact fun h => Bool.false_ne_true h.2
    have taken := receiverBody_result (w := w) (k := k) (e := { doer .one s with pc := s.who.pc + 4 }) hd (u := s2) (by
      dsimp only [doer_core, doer_slot]
      rw [huid]
      exact hw)
    rw [execOne_receives hp hg hr late, hres, taken]
    rfl

end Sys2Proof.Machine
end

section
/-! PROOF. Rounding to a format (R113, R115 to R117): a magnitude in units of the last place is rounded to an integer, and no finite value of the format lies
between the two integers around it. -/

namespace Sys2Proof.Machine

/-! ### Magnitudes -/

/-- −1 or 1. -/
def sgn (neg : Bool) : ℚ := if neg then -1 else 1

theorem sgn_ne_zero (neg : Bool) : sgn neg ≠ 0 := by cases neg <;> simp [sgn]

theorem abs_sgn_mul (neg : Bool) (y : ℚ) : |sgn neg * y| = |y| := by cases neg <;> simp [sgn]

/-- The value of a magnitude. -/
def Mag.rat (x : Mag) : ℚ := x.num / x.den * (2 : ℚ) ^ x.e

/-- The magnitude in units of 2^q, to an integer by the mode, and whether it was one. -/
def Mag.roundAt (x : Mag) (mode : Mode) (neg : Bool) (q : Int) : Nat × Bool := roundQuot mode neg (x.scaled q).1 (x.scaled q).2

theorem scaled_den_pos {x : Mag} (hd : 0 < x.den) (q : Int) : 0 < (x.scaled q).2 := by
  unfold Mag.scaled
  dsimp only
  split
  · exact hd
  · rw [Nat.shiftLeft_eq]; positivity

theorem scaled_rat {x : Mag} (hd : 0 < x.den) (q : Int) : ((x.scaled q).1 : ℚ) / (x.scaled q).2 = x.rat / 2 ^ q := by
  have hd : (x.den : ℚ) ≠ 0 := by exact_mod_cast hd.ne'
  unfold Mag.scaled Mag.rat
  dsimp only
  rw [mul_div_assoc, ← zpow_sub₀ two_ne_zero]
  split
  · next h =>
    obtain ⟨k, hk⟩ := Int.eq_ofNat_of_zero_le h
    simp only [hk, Int.toNat_natCast, Nat.shiftLeft_eq, Nat.cast_mul, Nat.cast_pow, Nat.cast_ofNat, zpow_natCast]
    ring
  · next h =>
    obtain ⟨k, hk⟩ := Int.eq_ofNat_of_zero_le (Int.neg_nonneg_of_nonpos (not_le.mp h).le)
    rw [hk, ← neg_neg (x.e - q), hk, zpow_neg]
    simp only [Int.toNat_natCast, Nat.shiftLeft_eq, Nat.cast_mul, Nat.cast_pow, Nat.cast_ofNat, zpow_natCast]
    field_simp

theorem Mag.rat_pos {x : Mag} (hn : 0 < x.num) (hd : 0 < x.den) : 0 < x.rat := by
  unfold Mag.rat
  positivity

theorem log2_rat {n : Nat} (h : 0 < n) : (2 : ℚ) ^ (Nat.log2 n : Int) ≤ n ∧ (n : ℚ) < 2 ^ ((Nat.log2 n : Int) + 1) := by
  refine ⟨?_, ?_⟩
  · exact_mod_cast Nat.log2_self_le h.ne'
  · exact_mod_cast Nat.lt_log2_self

/-- A quotient lies within a factor of 2 of the power of two that the lengths of its terms give. -/
theorem div_log2_bounds {n d : Nat} (hn : 0 < n) (hd : 0 < d) :
    (2 : ℚ) ^ ((Nat.log2 n : Int) - Nat.log2 d - 1) < n / d ∧ (n : ℚ) / d < 2 ^ ((Nat.log2 n : Int) - Nat.log2 d + 1) := by
  obtain ⟨hn1, hn2⟩ := log2_rat hn
  obtain ⟨hd1, hd2⟩ := log2_rat hd
  have hdq : (0 : ℚ) < d := by exact_mod_cast hd
  constructor
  · rw [lt_div_iff₀ hdq]
    calc (2 : ℚ) ^ ((Nat.log2 n : Int) - Nat.log2 d - 1) * d < 2 ^ ((Nat.log2 n : Int) - Nat.log2 d - 1) * 2 ^ ((Nat.log2 d : Int) + 1) := by gcongr
      _ = 2 ^ (Nat.log2 n : Int) := by rw [← zpow_add₀ two_ne_zero]; congr 1; omega
      _ ≤ n := hn1
  · rw [div_lt_iff₀ hdq]
    calc (n : ℚ) < 2 ^ ((Nat.log2 n : Int) + 1) := hn2
      _ = 2 ^ ((Nat.log2 n : Int) - Nat.log2 d + 1) * 2 ^ (Nat.log2 d : Int) := by rw [← zpow_add₀ two_ne_zero]; congr 1; omega
      _ ≤ 2 ^ ((Nat.log2 n : Int) - Nat.log2 d + 1) * d := by gcongr

/-- Exp is the exponent of the magnitude's leading bit (R113). -/
theorem Mag.exp_spec {x : Mag} (hn : 0 < x.num) (hd : 0 < x.den) : (2 : ℚ) ^ x.exp ≤ x.rat ∧ x.rat < 2 ^ (x.exp + 1) := by
  obtain ⟨hlo, hhi⟩ := div_log2_bounds hn hd
  set k : Int := (Nat.log2 x.num : Int) - Nat.log2 x.den
  set y : Mag := { x with e := 0 } with hy
  have hs := scaled_rat (x := y) hd k
  have hpos : (0 : ℚ) < (y.scaled k).2 := by exact_mod_cast scaled_den_pos (x := y) hd k
  have hyr : y.rat = x.num / x.den := by simp [Mag.rat, hy]
  have he : x.exp = if (y.scaled k).1 ≥ (y.scaled k).2 then k + x.e else k - 1 + x.e := rfl
  have hcmp : (y.scaled k).1 ≥ (y.scaled k).2 ↔ (2 : ℚ) ^ k ≤ x.num / x.den := by
    rw [ge_iff_le, ← Nat.cast_le (α := ℚ), ← one_le_div hpos, hs, hyr, one_le_div (by positivity)]
  have hx : x.rat = x.num / x.den * 2 ^ x.e := rfl
  rw [he, hx]
  split
  · next h =>
    rw [add_right_comm, zpow_add₀ two_ne_zero, zpow_add₀ two_ne_zero (k + 1)]
    exact ⟨by gcongr; exact hcmp.mp h, by gcongr⟩
  · next h =>
    rw [show k - 1 + x.e + 1 = k + x.e by ring, zpow_add₀ two_ne_zero, zpow_add₀ two_ne_zero k]
    exact ⟨by gcongr, by gcongr; exact not_le.mp (mt hcmp.mpr h)⟩

/-! ### Rounding to an integer -/

/-- Whether the mode takes a quotient q with remainder r, not 0, by d to the integer above. -/
def roundsUp (mode : Mode) (neg : Bool) (q r d : Nat) : Bool :=
  match mode with
  | .rne => decide (2 * r > d) || (2 * r == d && q % 2 == 1)
  | .rtz => false
  | .rup => !neg
  | .rdn => neg

theorem roundQuot_eq (mode : Mode) (neg : Bool) (n d : Nat) : roundQuot mode neg n d =
    if n % d = 0 then (n / d, true) else (if roundsUp mode neg (n / d) (n % d) d then n / d + 1 else n / d, false) := by
  unfold roundQuot roundsUp
  rfl

theorem roundQuot_le {mode : Mode} {neg : Bool} {n d k : Nat} (h : n ≤ k * d) : (roundQuot mode neg n d).1 ≤ k := by
  have hk : n / d ≤ k := Nat.div_le_of_le_mul (by rwa [Nat.mul_comm])
  have hlt : n % d ≠ 0 → n / d < k := fun hr => by
    refine lt_of_le_of_ne hk fun e => hr ?_
    have := Nat.div_add_mod' n d
    rw [e] at this
    omega
  rw [roundQuot_eq]
  split
  · exact hk
  · next hr =>
    dsimp only
    split
    · exact hlt hr
    · exact hk

theorem le_roundQuot {mode : Mode} {neg : Bool} {n d k : Nat} (hd : 0 < d) (h : k * d ≤ n) : k ≤ (roundQuot mode neg n d).1 := by
  have hk : k ≤ n / d := (Nat.le_div_iff_mul_le hd).mpr h
  rw [roundQuot_eq]
  split
  · exact hk
  · dsimp only
    split
    · exact hk.trans (Nat.le_succ _)
    · exact hk

theorem signed_rat (neg : Bool) (m : Nat) : ((signed neg m : Int) : ℚ) = sgn neg * m := by
  cases neg <;> simp [signed, sgn]

theorem signed_emod_two (neg : Bool) (m : Nat) : signed neg m % 2 = 0 ↔ m % 2 = 0 := by
  cases neg
  · show (m : Int) % 2 = 0 ↔ _
    omega
  · show -(m : Int) % 2 = 0 ↔ _
    omega

/-- An integer rounds to itself. -/
theorem roundsToInt_self (mode : Mode) {x : ℚ} {i : Int} (h : (i : ℚ) = x) : RoundsToInt mode x i := by
  subst h
  cases mode
  · refine ⟨by simp, fun h => ?_⟩
    norm_num at h
  · exact ⟨le_rfl, by linarith, mul_self_nonneg _⟩
  · exact ⟨le_rfl, by linarith⟩
  · exact ⟨le_rfl, by linarith⟩

/-- A quotient q with remainder r, not 0, by d: the integer that the mode takes for it. -/
theorem roundsToInt_signed (mode : Mode) (neg : Bool) (q : Nat) {r d : Nat} (hr : 0 < r) (hrd : r < d) :
    RoundsToInt mode (sgn neg * (q + (r : ℚ) / d)) (signed neg (if roundsUp mode neg q r d then q + 1 else q)) := by
  have hd : (0 : ℚ) < d := by exact_mod_cast hr.trans hrd
  set t : ℚ := (r : ℚ) / d with ht
  have ht0 : 0 < t := by positivity
  have ht1 : t < 1 := (div_lt_one hd).mpr (by exact_mod_cast hrd)
  have hle : 2 * r ≤ d ↔ t ≤ 1 / 2 := by
    rw [ht, div_le_iff₀ hd, ← Nat.cast_le (α := ℚ)]; push_cast; constructor <;> intro h <;> linarith
  have hge : d ≤ 2 * r ↔ 1 / 2 ≤ t := by
    rw [ht, le_div_iff₀ hd, ← Nat.cast_le (α := ℚ)]; push_cast; constructor <;> intro h <;> linarith
  cases mode with
  | rne =>
    unfold RoundsToInt
    dsimp only
    rw [signed_rat, ← mul_sub, abs_sgn_mul, signed_emod_two]
    split
    · next hup =>
      have hup : d < 2 * r ∨ 2 * r = d ∧ q % 2 = 1 := by simpa [roundsUp] using hup
      rw [show ((q + 1 : Nat) : ℚ) - (q + t) = 1 - t by push_cast; ring, abs_of_pos (by linarith)]
      have hhalf := hge.mp (by omega)
      refine ⟨by linarith, fun he => ?_⟩
      have := hle.mpr (by linarith)
      omega
    · next hup =>
      have hup : 2 * r ≤ d ∧ (2 * r = d → q % 2 = 0) := by simpa [roundsUp] using hup
      rw [show (q : ℚ) - (q + t) = -t by ring, abs_neg, abs_of_pos ht0]
      exact ⟨hle.mp hup.1, fun he => hup.2 (le_antisymm hup.1 (hge.mpr he.ge))⟩
  | rtz =>
    have hq : (0 : ℚ) ≤ q := q.cast_nonneg
    unfold RoundsToInt
    dsimp only
    rw [signed_rat, abs_sgn_mul, abs_sgn_mul, abs_of_nonneg (show 0 ≤ q + t by linarith)]
    show |(q : ℚ)| ≤ q + t ∧ q + t < |(q : ℚ)| + 1 ∧ 0 ≤ sgn neg * q * (sgn neg * (q + t))
    rw [abs_of_nonneg hq]
    refine ⟨by linarith, by linarith, ?_⟩
    have hs : sgn neg * q * (sgn neg * (q + t)) = q * (q + t) := by cases neg <;> simp only [sgn, Bool.false_eq_true, if_true, if_false] <;> ring
    rw [hs]
    positivity
  | rup | rdn =>
    unfold RoundsToInt
    dsimp only
    rw [signed_rat]
    cases neg <;> simp only [roundsUp, sgn, Bool.not_false, Bool.not_true, Bool.false_eq_true, if_true, if_false, Nat.cast_add, Nat.cast_one] <;>
      constructor <;> linarith

/-- A signed quotient rounds as its mode says (R113, R116). -/
theorem roundQuot_roundsToInt (mode : Mode) (neg : Bool) (n : Nat) {d : Nat} (hd : 0 < d) :
    RoundsToInt mode (sgn neg * ((n : ℚ) / d)) (signed neg (roundQuot mode neg n d).1) := by
  have hdq : (d : ℚ) ≠ 0 := by exact_mod_cast hd.ne'
  have hn : (n : ℚ) / d = (n / d : Nat) + ((n % d : Nat) : ℚ) / d := by
    rw [eq_comm, ← sub_eq_zero]
    have : (n : ℚ) = (n / d : Nat) * d + (n % d : Nat) := by exact_mod_cast (Nat.div_add_mod' n d).symm
    rw [this]
    field_simp
    ring
  rw [roundQuot_eq, hn]
  split
  · next hr => exact roundsToInt_self mode (by rw [signed_rat, hr]; simp)
  · next hr => exact roundsToInt_signed mode neg _ (Nat.pos_of_ne_zero hr) (Nat.mod_lt n hd)

theorem roundQuot_exact {mode : Mode} {neg : Bool} {n d : Nat} (hd : 0 < d) :
    (roundQuot mode neg n d).2 = true ↔ ((roundQuot mode neg n d).1 : ℚ) = (n : ℚ) / d := by
  have hdq : (d : ℚ) ≠ 0 := by exact_mod_cast hd.ne'
  have hk : ∀ k : Nat, (k : ℚ) = n / d ↔ k * d = n := fun k => by rw [eq_div_iff hdq]; exact_mod_cast Iff.rfl
  rw [hk, roundQuot_eq]
  split
  · next hr => exact iff_of_true rfl (Nat.div_mul_cancel (Nat.dvd_of_mod_eq_zero hr))
  · next hr => exact iff_of_false Bool.false_ne_true fun h => hr (h ▸ Nat.mul_mod_left _ d)

section
variable {x : Mag} {mode : Mode} {neg : Bool} {q : Int}

theorem roundAt_le {k : Nat} (hd : 0 < x.den) (h : x.rat ≤ k * 2 ^ q) : (x.roundAt mode neg q).1 ≤ k := by
  have hp : (0 : ℚ) < (x.scaled q).2 := by exact_mod_cast scaled_den_pos hd q
  refine roundQuot_le ?_
  rw [← Nat.cast_le (α := ℚ), Nat.cast_mul, ← div_le_iff₀ hp, scaled_rat hd, div_le_iff₀ (by positivity)]
  exact h

theorem le_roundAt {k : Nat} (hd : 0 < x.den) (h : k * 2 ^ q ≤ x.rat) : k ≤ (x.roundAt mode neg q).1 := by
  have hp : (0 : ℚ) < (x.scaled q).2 := by exact_mod_cast scaled_den_pos hd q
  refine le_roundQuot (scaled_den_pos hd q) ?_
  rw [← Nat.cast_le (α := ℚ), Nat.cast_mul, ← le_div_iff₀ hp, scaled_rat hd, le_div_iff₀ (by positivity)]
  exact h

theorem roundAt_roundsToInt (hd : 0 < x.den) : RoundsToInt mode (sgn neg * (x.rat / 2 ^ q)) (signed neg (x.roundAt mode neg q).1) := by
  rw [← scaled_rat hd]
  exact roundQuot_roundsToInt mode neg _ (scaled_den_pos hd q)

theorem roundAt_exact (hd : 0 < x.den) : (x.roundAt mode neg q).2 = true ↔ ((x.roundAt mode neg q).1 : ℚ) = x.rat / 2 ^ q := by
  rw [← scaled_rat hd]
  exact roundQuot_exact (scaled_den_pos hd q)

end

/-! ### Finite encodings -/

/-- The largest exponent of a finite value. -/
def Fmt.maxE (f : Fmt) : Int := if f.ieee then f.topE - 1 - f.bias else f.topE - f.bias

/-- What the six formats have in common: a fraction, and exponents between the least and the top one. -/
structure Fmt.Regular (f : Fmt) : Prop where
  mant : 1 ≤ f.mant
  topE : 3 ≤ f.topE

theorem formats_regular {f : Fmt} (h : f ∈ formats) : f.Regular := by
  simp only [formats, List.mem_cons, List.not_mem_nil, or_false] at h
  rcases h with rfl | rfl | rfl | rfl | rfl | rfl <;> exact ⟨by decide, by decide⟩

/-- m × 2^q is a finite value of the format, in the form in which the format encodes it. -/
structure Fmt.Fits (f : Fmt) (m : Nat) (q : Int) : Prop where
  lt : m < 2 ^ f.p
  least : f.eminSub ≤ q
  normal : m < 2 ^ f.mant → q = f.eminSub
  top : q + f.mant ≤ f.maxE
  nan : f.ieee = false → q + f.mant = f.maxE → m + 2 ≤ 2 ^ f.p

theorem two_pow_p (f : Fmt) : 2 ^ f.p = 2 * 2 ^ f.mant := Nat.pow_succ'

theorem two_dvd_mant {f : Fmt} (hf : f.Regular) : 2 ∣ 2 ^ f.mant := dvd_pow_self 2 (Nat.one_le_iff_ne_zero.mp hf.mant)

theorem topE_succ (f : Fmt) : f.topE + 1 = 2 ^ f.ebits := Nat.sub_add_cancel Nat.one_le_two_pow

theorem fits_of_finite {f : Fmt} (hf : f.Regular) {c : Nat} (hc : f.finite c) : ∃ neg m q, f.dec c = .fin neg m q ∧ f.Fits m q := by
  obtain ⟨-, hnan, hinf⟩ := hc
  have hfr : c % 2 ^ f.mant < 2 ^ f.mant := Nat.mod_lt _ (by positivity)
  have hE : c / 2 ^ f.mant % 2 ^ f.ebits < 2 ^ f.ebits := Nat.mod_lt _ (by positivity)
  have htop := topE_succ f
  have hp := two_pow_p f
  have hreg := hf.topE
  unfold Fmt.dec at hnan hinf ⊢
  dsimp only at hnan hinf ⊢
  generalize c % 2 ^ f.mant = fr at hfr hnan hinf ⊢
  generalize c / 2 ^ f.mant % 2 ^ f.ebits = E at hE hnan hinf ⊢
  split at hnan
  · split at hnan
    · next h h0 => simp [h, h0, FVal.isInf] at hinf
    · exact absurd hnan (by simp [FVal.isNan])
  split at hnan
  · exact absurd hnan (by simp [FVal.isNan])
  next h1 h2 => 
  rw [if_neg h1, if_neg h2]
  split
  · refine ⟨_, _, _, rfl, by omega, le_rfl, fun _ => rfl, ?_, ?_⟩ <;> unfold Fmt.maxE Fmt.eminSub <;> split <;> omega
  · refine ⟨_, _, _, rfl, by omega, ?_, fun _ => by omega, ?_, ?_⟩ 
    · unfold Fmt.eminSub; omega
    · unfold Fmt.maxE
      split
      · have : E ≠ f.topE := by simp_all
        omega
      · omega
    · intro hi ht
      have : E = f.topE → fr ≠ 2 ^ f.mant - 1 := by simp_all
      unfold Fmt.maxE at ht
      rw [if_neg (by simp [hi])] at ht
      omega

/-- The encoding with the three fields. -/
def Fmt.pack (f : Fmt) (neg : Bool) (E fr : Nat) : Nat := f.signBit neg + E * 2 ^ f.mant + fr

theorem pack_eq (f : Fmt) (neg : Bool) (E fr : Nat) : f.pack neg E fr = fr + 2 ^ f.mant * (E + 2 ^ f.ebits * neg.toNat) := by
  unfold Fmt.pack Fmt.signBit
  cases neg <;> simp only [Bool.false_eq_true, if_true, if_false, Bool.toNat_true, Bool.toNat_false] <;> ring

section
variable {f : Fmt} {neg : Bool} {E fr : Nat} (hE : E < 2 ^ f.ebits) (hfr : fr < 2 ^ f.mant)

include hfr in
theorem pack_fr : f.pack neg E fr % 2 ^ f.mant = fr := by
  rw [pack_eq, Nat.add_mul_mod_self_left, Nat.mod_eq_of_lt hfr]

include hfr in
theorem pack_div : f.pack neg E fr / 2 ^ f.mant = E + 2 ^ f.ebits * neg.toNat := by
  rw [pack_eq, Nat.add_mul_div_left _ _ (by positivity), Nat.div_eq_of_lt hfr, Nat.zero_add]

include hE hfr

theorem pack_E : f.pack neg E fr / 2 ^ f.mant % 2 ^ f.ebits = E := by
  rw [pack_div hfr, Nat.add_mul_mod_self_left, Nat.mod_eq_of_lt hE]

theorem pack_sign : (f.pack neg E fr / 2 ^ (f.mant + f.ebits) % 2 == 1) = neg := by
  rw [Nat.pow_add, ← Nat.div_div_eq_div_mul, pack_div hfr, Nat.add_mul_div_left _ _ (by positivity), Nat.div_eq_of_lt hE]
  cases neg <;> rfl

theorem pack_lt : f.pack neg E fr < 2 ^ f.width := by
  have h1 : E + 2 ^ f.ebits * neg.toNat + 1 ≤ 2 * 2 ^ f.ebits := by cases neg <;> simp <;> omega
  calc f.pack neg E fr < 2 ^ f.mant * (E + 2 ^ f.ebits * neg.toNat + 1) := by rw [pack_eq]; linarith
    _ ≤ 2 ^ f.mant * (2 * 2 ^ f.ebits) := Nat.mul_le_mul_left _ h1
    _ = 2 ^ f.width := by unfold Fmt.width; ring

/-- Val(F, b) of an encoding that is neither an infinity nor a NaN (R107). -/
theorem dec_pack (hfin : f.ieee = true → E ≠ f.topE) (hnan : f.ieee = false → E = f.topE → fr ≠ 2 ^ f.mant - 1) :
    f.dec (f.pack neg E fr) = if E = 0 then .fin neg fr f.eminSub else .fin neg (2 ^ f.mant + fr) ((E : Int) - f.bias - f.mant) := by
  unfold Fmt.dec
  dsimp only
  rw [pack_fr hfr, pack_E hE hfr, pack_sign hE hfr, if_neg (by simpa using hfin), if_neg (by simpa [and_assoc] using hnan)]

end

/-- The fields of an encoded value. -/
theorem encodeFin_pack {f : Fmt} (hf : f.Regular) (neg : Bool) {m : Nat} {q : Int} (h : f.Fits m q) : ∃ E fr, encodeFin f neg m q = f.pack neg E fr ∧
    E < 2 ^ f.ebits ∧ fr < 2 ^ f.mant ∧ fr % 2 = m % 2 ∧ f.dec (f.pack neg E fr) = .fin neg m q := by
  have htop := topE_succ f
  have hp := two_pow_p f
  have hreg := hf.topE
  obtain ⟨hm, hq, hn, ht, hnan⟩ := h
  unfold Fmt.maxE at ht hnan
  unfold Fmt.eminSub at hq
  unfold encodeFin
  split
  · next hlt =>
    refine ⟨0, m, by rw [Fmt.pack, Nat.zero_mul]; rfl, by positivity, hlt, rfl, ?_⟩
    rw [dec_pack (by positivity) hlt (fun _ => by omega) (fun _ => by omega), if_pos rfl, hn hlt]
  · next hge =>
    obtain ⟨E, hE⟩ := Int.eq_ofNat_of_zero_le (a := q + f.mant + f.bias) (by omega)
    have heven := two_dvd_mant hf
    rw [hE, Int.toNat_natCast]
    refine ⟨E, m - 2 ^ f.mant, rfl, by split at ht <;> omega, by omega, by omega, ?_⟩
    rw [dec_pack (by split at ht <;> omega) (by omega), if_neg (by omega), Nat.add_sub_cancel' (by omega)]
    · congr 1; omega
    · intro hi
      rw [if_pos hi] at ht
      omega
    · intro hi he
      rw [if_neg (by simp [hi])] at hnan
      have := hnan hi (by omega)
      omega

section
variable {f : Fmt} (hf : f.Regular) (neg : Bool) {m : Nat} {q : Int} (h : f.Fits m q)
include hf h

/-- What is encoded is what the encoding stands for. -/
theorem dec_encodeFin : f.dec (encodeFin f neg m q) = .fin neg m q := by
  obtain ⟨E, fr, he, -, -, -, hd⟩ := encodeFin_pack hf neg h
  rw [he, hd]

theorem encodeFin_finite : f.finite (encodeFin f neg m q) := by
  obtain ⟨E, fr, he, hE, hfr, -, hd⟩ := encodeFin_pack hf neg h
  rw [Fmt.finite, he, hd]
  exact ⟨pack_lt hE hfr, rfl, rfl⟩

theorem encodeFin_mod_two : encodeFin f neg m q % 2 = m % 2 := by
  obtain ⟨E, fr, he, -, hfr, hm, -⟩ := encodeFin_pack hf neg h
  rw [he, ← hm, ← Nat.mod_mod_of_dvd _ (two_dvd_mant hf), pack_fr hfr]

end

theorem rat_fin (neg : Bool) (m : Nat) (q : Int) : (FVal.fin neg m q).rat = sgn neg * m * 2 ^ q := rfl

/-! ### Rounding to a unit -/

/-- No number z of units is between y and the integers around it. -/
def Clear (y z : ℚ) : Prop := z ≤ ⌊y⌋ ∨ (⌈y⌉ : ℚ) ≤ z

theorem Clear.ceil_le {y z : ℚ} (h : Clear y z) (hz : y ≤ z) : (⌈y⌉ : ℚ) ≤ z := by
  rcases h with h | h
  · have : ⌈y⌉ ≤ ⌊y⌋ := Int.ceil_le.mpr (hz.trans h)
    calc (⌈y⌉ : ℚ) ≤ ⌊y⌋ := by exact_mod_cast this
      _ ≤ y := Int.floor_le y
      _ ≤ z := hz
  · exact h

theorem Clear.neg {y z : ℚ} (h : Clear y z) : Clear (-y) (-z) := by
  unfold Clear at *
  rw [Int.floor_neg, Int.ceil_neg]
  push_cast
  exact h.symm.imp neg_le_neg neg_le_neg

theorem Clear.le_floor {y z : ℚ} (h : Clear y z) (hz : z ≤ y) : z ≤ ⌊y⌋ := by
  have := h.neg.ceil_le (neg_le_neg hz)
  rw [Int.ceil_neg] at this
  push_cast at this
  linarith

/-- The integer nearest to y is as near as any z that stands clear, and where z is as near, y is midway between two integers. -/
theorem nearest_of_clear {y z : ℚ} {i : Int} (hi : |(i : ℚ) - y| ≤ 1 / 2) (h : Clear y z) :
    |y - i| ≤ |y - z| ∧ (z ≠ i → |y - z| = |y - i| → |(i : ℚ) - y| = 1 / 2) := by
  wlog hy : (i : ℚ) ≤ y generalizing y z i
  · have hneg : ∀ a b : ℚ, |-a - -b| = |a - b| := fun a b => by rw [neg_sub_neg, abs_sub_comm]
    have := this (y := -y) (z := -z) (i := -i) (by push_cast; rwa [hneg]) h.neg (by push_cast; linarith)
    push_cast at this
    simpa only [hneg, ne_eq, neg_inj] using this
  rw [abs_sub_comm (i : ℚ) y, abs_of_nonneg (sub_nonneg.mpr hy)] at *
  have hfl : ⌊y⌋ = i := Int.floor_eq_iff.mpr ⟨hy, by linarith⟩
  rcases le_total z y with hz | hz
  · have hzi := h.le_floor hz
    rw [hfl] at hzi
    rw [abs_of_nonneg (sub_nonneg.mpr hz)]
    exact ⟨by linarith, fun hne he => absurd (by linarith) hne⟩
  · rw [abs_sub_comm y z, abs_of_nonneg (sub_nonneg.mpr hz)]
    have hzi := h.ceil_le hz
    rcases hy.eq_or_lt with he | hlt
    · exact ⟨by linarith, fun hne h2 => absurd (by linarith) hne⟩
    · have hce : (i : ℚ) + 1 ≤ ⌈y⌉ := by exact_mod_cast Int.lt_ceil.mpr hlt
      exact ⟨by linarith, fun _ _ => by linarith⟩

/-- y truncated: of what stands clear and lies between 0 and y nothing is farther from 0. -/
theorem truncated_of_clear {y z : ℚ} {i : Int} (hi : RoundsToInt .rtz y i) (h : Clear y z) (hz : |z| ≤ |y|) (hs : 0 ≤ y * z) : |z| ≤ |(i : ℚ)| := by
  obtain ⟨h1, h2, h3⟩ := hi
  wlog hy : 0 ≤ y generalizing y z i
  · have := this (y := -y) (z := -z) (i := -i) h.neg (by simpa using hz) (by linarith) (by simpa using h1) (by simpa using h2)
      (by push_cast; linarith) (by linarith)
    simpa using this
  rcases hy.eq_or_lt with rfl | hy
  · simpa using hz.trans (abs_zero.trans_le (abs_nonneg _))
  have hz0 : 0 ≤ z := nonneg_of_mul_nonneg_right hs hy
  have hi0 : 0 ≤ (i : ℚ) := nonneg_of_mul_nonneg_left h3 hy
  rw [abs_of_nonneg hz0, abs_of_pos hy, abs_of_nonneg hi0] at *
  have hfl : ⌊y⌋ = i := Int.floor_eq_iff.mpr ⟨h1, h2⟩
  exact hfl ▸ h.le_floor hz

/-- Rounding to an integer number of units 2^q rounds to the format, where no finite value of it is between two such numbers around x. -/
theorem rounds_of_roundsToInt {f : Fmt} {mode : Mode} {x : ℚ} {q i : Int} {b : Nat} (hb : f.finite b) (hr : (f.dec b).rat = i * 2 ^ q)
    (hi : RoundsToInt mode (x / 2 ^ q) i) (heven : i % 2 = 0 → b % 2 = 0)
    (hgap : ∀ c, f.finite c → Clear (x / 2 ^ q) ((f.dec c).rat / 2 ^ q)) : Rounds f mode x b := by
  have hu : (0 : ℚ) < 2 ^ q := by positivity
  obtain ⟨y, rfl⟩ : ∃ y, x = y * 2 ^ q := ⟨x / 2 ^ q, by field_simp⟩
  rw [mul_div_cancel_right₀ _ hu.ne'] at hi hgap
  have hgap : ∀ c, f.finite c → ∃ z, (f.dec c).rat = z * 2 ^ q ∧ Clear y z :=
    fun c hc => ⟨_, (div_mul_cancel₀ _ hu.ne').symm, hgap c hc⟩
  have habs : ∀ z, |z * (2 : ℚ) ^ q| = |z| * 2 ^ q := fun z => by rw [abs_mul, abs_of_pos hu]
  have hle : ∀ z w : ℚ, z * 2 ^ q ≤ w * 2 ^ q ↔ z ≤ w := fun z w => mul_le_mul_iff_left₀ hu
  refine ⟨hb, ?_⟩
  rw [hr]
  cases mode with
  | rne =>
    obtain ⟨hhalf, htie⟩ := hi
    refine ⟨fun c hc => ?_, fun c hc hne he => ?_⟩
    · obtain ⟨z, hz, h⟩ := hgap c hc
      rw [hz, ← sub_mul, ← sub_mul, habs, habs, hle]
      exact (nearest_of_clear hhalf h).1
    · obtain ⟨z, hz, h⟩ := hgap c hc
      rw [hz] at hne he
      rw [← sub_mul, ← sub_mul, habs, habs] at he
      exact heven (htie ((nearest_of_clear hhalf h).2 (fun e => hne (by rw [e])) (mul_right_cancel₀ hu.ne' he)))
  | rtz =>
    refine ⟨by rw [habs, habs, hle]; exact hi.1, ?_, fun c hc h1 h2 => ?_⟩
    · have := mul_nonneg hi.2.2 (mul_self_nonneg ((2 : ℚ) ^ q))
      linarith
    · obtain ⟨z, hz, h⟩ := hgap c hc
      rw [hz] at h1 h2 ⊢
      rw [habs, habs, hle] at *
      refine truncated_of_clear hi h h1 (nonneg_of_mul_nonneg_left ?_ (mul_pos hu hu))
      linarith
  | rup =>
    refine ⟨(hle ..).mpr hi.1, fun c hc hx => ?_⟩
    obtain ⟨z, hz, h⟩ := hgap c hc
    rw [hz, hle] at hx ⊢
    have hce : ⌈y⌉ = i := Int.ceil_eq_iff.mpr ⟨by linarith [hi.2], hi.1⟩
    exact hce ▸ h.ceil_le hx
  | rdn =>
    refine ⟨(hle ..).mpr hi.1, fun c hc hx => ?_⟩
    obtain ⟨z, hz, h⟩ := hgap c hc
    rw [hz, hle] at hx ⊢
    have hfl : ⌊y⌋ = i := Int.floor_eq_iff.mpr hi
    exact hfl ▸ h.le_floor hx

/-! ### The one rounding (R113, R115, R117) -/

/-- What a rounding with an unbounded exponent gives is larger than every finite value. -/
def Fmt.tooBig (f : Fmt) (e : Int) (m : Nat) : Bool :=
  decide (e > f.maxE) || (!f.ieee && decide (e = f.maxE) && decide (m > 2 ^ f.p - 2) && m != 2 ^ f.p)

/-- The magnitude rounded to p bits with an unbounded exponent. -/
def Mag.sig (x : Mag) (f : Fmt) (mode : Mode) (neg : Bool) : Nat := (x.roundAt mode neg (x.exp - f.mant)).1

/-- Its exponent. -/
def Mag.sigExp (x : Mag) (f : Fmt) (mode : Mode) (neg : Bool) : Int := if x.sig f mode neg = 2 ^ f.p then x.exp + 1 else x.exp

/-- The exponent of the unit to which the magnitude is rounded. -/
def Mag.unit (x : Mag) (f : Fmt) : Int := max (x.exp - f.mant) f.eminSub

/-- p bits and a carry out of them, as p bits. -/
def carried (f : Fmt) (m : Nat) (q : Int) : Nat × Int := if m = 2 ^ f.p then (2 ^ f.mant, q + 1) else (m, q)

theorem roundMag_eq (f : Fmt) (mode : Mode) (neg : Bool) (x : Mag) (sticky : Bool) : roundMag f mode neg x sticky =
    if f.tooBig (x.sigExp f mode neg) (x.sig f mode neg) then { bits := overflow f mode neg, flags := OF ||| NX, inexact := true }
    else
      let r := x.roundAt mode neg (x.unit f)
      let m := carried f r.1 (x.unit f)
      let inexact := !r.2 || sticky
      { bits := encodeFin f neg m.1 m.2
        flags := (if inexact then NX else 0) ||| (if decide (x.sigExp f mode neg < f.emin) && inexact then UF else 0)
        inexact := inexact } := rfl

theorem carried_rat (f : Fmt) (m : Nat) (q : Int) : ((carried f m q).1 : ℚ) * 2 ^ (carried f m q).2 = m * 2 ^ q := by
  unfold carried
  split
  · next h =>
    rw [h, two_pow_p, zpow_add_one₀ two_ne_zero]
    push_cast
    ring
  · rfl

theorem carried_even {f : Fmt} (hf : f.Regular) (m : Nat) (q : Int) : (carried f m q).1 % 2 = m % 2 := by
  have heven := two_dvd_mant hf
  have hp := two_pow_p f
  unfold carried
  split
  · dsimp only; omega
  · rfl

theorem tooBig_iff (f : Fmt) (e : Int) (m : Nat) :
    f.tooBig e m = true ↔ e > f.maxE ∨ f.ieee = false ∧ e = f.maxE ∧ m > 2 ^ f.p - 2 ∧ m ≠ 2 ^ f.p := by
  simp [Fmt.tooBig, and_assoc]

/-- An integer stands clear of every number. -/
theorem clear_intCast (y : ℚ) (k : Int) : Clear y k := by
  rcases le_total (k : ℚ) y with h | h
  · exact .inl (by exact_mod_cast Int.le_floor.mpr h)
  · exact .inr (by exact_mod_cast Int.ceil_le.mpr h)

/-- What is nearer to 0 than an integer that is nearer than y stands clear of y. -/
theorem clear_of_small {y z : ℚ} {k : Nat} (hz : |z| ≤ k) (hy : (k : ℚ) ≤ |y|) : Clear y z := by
  wlog h : 0 ≤ y generalizing y z
  · have := this (y := -y) (z := -z) (by rwa [abs_neg]) (by rwa [abs_neg]) (by linarith)
    simpa using this.neg
  rw [abs_of_nonneg h] at hy
  refine .inl ((le_abs_self z).trans (hz.trans ?_))
  exact_mod_cast Int.le_floor.mpr hy

section
variable {f : Fmt} {x : Mag} (hn : 0 < x.num) (hd : 0 < x.den) {mode : Mode} {neg : Bool}
include hn hd

/-- The magnitude in units of its own exponent. -/
theorem rat_bounds (f : Fmt) : (2 ^ f.mant : Nat) * (2 : ℚ) ^ (x.exp - f.mant) ≤ x.rat ∧ x.rat < (2 ^ f.p : Nat) * (2 : ℚ) ^ (x.exp - f.mant) := by
  obtain ⟨h1, h2⟩ := Mag.exp_spec hn hd
  have e1 : (2 ^ f.mant : Nat) * (2 : ℚ) ^ (x.exp - f.mant) = 2 ^ x.exp := by
    push_cast
    rw [← zpow_natCast, ← zpow_add₀ two_ne_zero]
    congr 1
    omega
  refine ⟨e1.trans_le h1, h2.trans_eq ?_⟩
  rw [two_pow_p, zpow_add_one₀ two_ne_zero, ← e1]
  push_cast
  ring

theorem sig_bounds : 2 ^ f.mant ≤ x.sig f mode neg ∧ x.sig f mode neg ≤ 2 ^ f.p :=
  have ⟨h1, h2⟩ := rat_bounds hn hd f
  ⟨le_roundAt hd h1, roundAt_le hd h2.le⟩

/-- What overflows is larger than every finite value (R113, R117). -/
theorem lt_of_tooBig {m : Nat} {q : Int} (h : f.Fits m q) (hb : f.tooBig (x.sigExp f mode neg) (x.sig f mode neg) = true) :
    (m : ℚ) * 2 ^ q < x.rat := by
  by_contra hle
  have hle := not_lt.mp hle
  have hexp : x.exp < q + f.p := by
    rw [← zpow_lt_zpow_iff_right₀ (one_lt_two (α := ℚ))]
    calc (2 : ℚ) ^ x.exp ≤ x.rat := (Mag.exp_spec hn hd).1
      _ ≤ m * 2 ^ q := hle
      _ < 2 ^ f.p * 2 ^ q := by gcongr; exact_mod_cast h.lt
      _ = 2 ^ (q + f.p) := by rw [zpow_add₀ two_ne_zero, zpow_natCast, mul_comm]
  have hp : (f.p : Int) = f.mant + 1 := rfl
  have htop := h.top
  have hbig := (tooBig_iff ..).mp hb
  unfold Mag.sigExp at hbig
  have hsame : x.exp = f.maxE := by
    rcases hbig with hb | ⟨-, he, -, hne⟩
    · split at hb <;> omega
    · rw [if_neg hne] at he; exact he
  have hq : q = x.exp - f.mant := by omega
  have hsig : x.sig f mode neg ≤ m := roundAt_le hd (hq ▸ hle)
  have hlt := h.lt
  rcases hbig with hb | ⟨hi, -, hgt, -⟩
  · rw [if_neg (by omega)] at hb
    omega
  · have := h.nan hi (by omega)
    omega

/-- What does not overflow is rounded to a finite value. -/
theorem carried_fits (hf : f.Regular) (hb : f.tooBig (x.sigExp f mode neg) (x.sig f mode neg) = false) :
    f.Fits (carried f (x.roundAt mode neg (x.unit f)).1 (x.unit f)).1 (carried f (x.roundAt mode neg (x.unit f)).1 (x.unit f)).2 := by
  have hp := two_pow_p f
  have hpos : 0 < 2 ^ f.mant := by positivity
  have heven := two_dvd_mant hf
  have hreg := hf.topE
  have hemin : f.eminSub + f.mant < f.maxE := by unfold Fmt.eminSub Fmt.maxE; split <;> omega
  rcases le_or_gt f.eminSub (x.exp - f.mant) with hq | hq
  · obtain ⟨hlo, hhi⟩ := sig_bounds hn hd (f := f) (mode := mode) (neg := neg)
    have hbig := mt (tooBig_iff f (x.sigExp f mode neg) (x.sig f mode neg)).mpr (by rw [hb]; exact Bool.false_ne_true)
    push Not at hbig
    obtain ⟨hmax, hnan⟩ := hbig
    have hu : x.unit f = x.exp - f.mant := max_eq_left hq
    rw [hu]
    change f.Fits (carried f (x.sig f mode neg) _).1 (carried f (x.sig f mode neg) _).2
    unfold carried
    unfold Mag.sigExp at hmax hnan
    split
    · next hm =>
      rw [if_pos hm] at hmax
      exact ⟨by omega, by dsimp only; omega, by dsimp only; omega, by dsimp only; omega, by dsimp only; omega⟩
    · next hm =>
      rw [if_neg hm] at hmax hnan
      refine ⟨by dsimp only; omega, hq, by dsimp only; omega, by dsimp only; omega, fun hi he => ?_⟩
      dsimp only at he ⊢
      by_contra hgt
      exact hm (hnan hi (by omega) (by omega))
  · have hu : x.unit f = f.eminSub := max_eq_right hq.le
    rw [hu]
    have hm : (x.roundAt mode neg f.eminSub).1 ≤ 2 ^ f.mant := by
      refine roundAt_le hd ((Mag.exp_spec hn hd).2.le.trans ?_)
      push_cast
      rw [← zpow_natCast, ← zpow_add₀ two_ne_zero]
      exact zpow_le_zpow_right₀ one_le_two (by omega)
    rw [carried, if_neg (by omega)]
    exact ⟨by dsimp only; omega, le_rfl, fun _ => rfl, by dsimp only; omega, fun _ he => by dsimp only at he; omega⟩

/-- No finite value of the format is between two neighbours of the magnitude in its unit. -/
theorem clear_of_finite (hf : f.Regular) {c : Nat} (hc : f.finite c) :
    Clear (sgn neg * (x.rat / 2 ^ x.unit f)) ((f.dec c).rat / 2 ^ x.unit f) := by
  obtain ⟨n, m, q, hdec, h⟩ := fits_of_finite hf hc
  rw [hdec, rat_fin, mul_div_assoc, ← zpow_sub₀ two_ne_zero]
  rcases le_or_gt (x.unit f) q with hq | hq
  · obtain ⟨k, hk⟩ := Int.eq_ofNat_of_zero_le (sub_nonneg.mpr hq)
    rw [hk, zpow_natCast]
    convert clear_intCast _ (signed n m * 2 ^ k)
    push_cast
    rw [signed_rat]
  · have hleast := h.least
    have hu : x.unit f = x.exp - f.mant := max_eq_left (by unfold Mag.unit at hq; omega)
    refine clear_of_small (k := 2 ^ f.mant) ?_ ?_
    · rw [mul_assoc, abs_sgn_mul, abs_of_nonneg (by positivity)]
      calc (m : ℚ) * 2 ^ (q - x.unit f) ≤ (2 ^ f.p : Nat) * 2 ^ (-1 : Int) := by
            gcongr
            · exact h.lt.le
            · exact one_le_two
            · omega
        _ = (2 ^ f.mant : Nat) := by rw [two_pow_p, zpow_neg_one]; push_cast; ring
    · rw [abs_sgn_mul, abs_of_nonneg (div_nonneg (Mag.rat_pos hn hd).le (by positivity)), le_div_iff₀ (by positivity), hu]
      exact (rat_bounds hn hd f).1

/-- A finite result is the magnitude rounded once (R113, R115). -/
theorem encodeFin_rounds (hf : f.Regular) (hb : f.tooBig (x.sigExp f mode neg) (x.sig f mode neg) = false) :
    let m := carried f (x.roundAt mode neg (x.unit f)).1 (x.unit f)
    Rounds f mode (sgn neg * x.rat) (encodeFin f neg m.1 m.2) ∧
      ((x.roundAt mode neg (x.unit f)).2 = true ↔ (f.dec (encodeFin f neg m.1 m.2)).rat = sgn neg * x.rat) := by
  intro m
  have hfit := carried_fits hn hd (mode := mode) (neg := neg) hf hb
  have hu : (0 : ℚ) < 2 ^ x.unit f := by positivity
  have hrat : (f.dec (encodeFin f neg m.1 m.2)).rat = (signed neg (x.roundAt mode neg (x.unit f)).1 : Int) * 2 ^ x.unit f := by
    rw [dec_encodeFin hf neg hfit, rat_fin, signed_rat, mul_assoc, carried_rat, mul_assoc]
  refine ⟨rounds_of_roundsToInt (encodeFin_finite hf neg hfit) hrat ?_ ?_ ?_, ?_⟩
  · rw [mul_div_assoc]
    exact roundAt_roundsToInt hd
  · rw [signed_emod_two, encodeFin_mod_two hf neg hfit, carried_even hf]
    exact id
  · rw [mul_div_assoc]
    exact fun c => clear_of_finite hn hd hf
  · rw [roundAt_exact hd, hrat, signed_rat, mul_assoc, eq_div_iff hu.ne']
    exact (mul_right_inj' (sgn_ne_zero neg)).symm

end

theorem overflow_eq {f : Fmt} (hf : f ∈ formats) (mode : Mode) (neg : Bool) : overflow f mode neg = overflowBits f mode neg := by
  simp only [formats, List.mem_cons, List.not_mem_nil, or_false] at hf
  rcases hf with rfl | rfl | rfl | rfl | rfl | rfl <;> cases mode <;> cases neg <;> decide

theorem sgn_mul_neg_iff (neg : Bool) {y : ℚ} (hy : 0 < y) : decide (sgn neg * y < 0) = neg := by
  cases neg
  · simpa [sgn] using hy.le
  · simpa [sgn] using hy

/-- The one rounding (R113, R115, R117): a signed magnitude rounded once, or overflowed. -/
theorem roundMag_roundedOnce {f : Fmt} (hf : f ∈ formats) (mode : Mode) (neg : Bool) {x : Mag} (hn : 0 < x.num) (hd : 0 < x.den) :
    RoundedOnce f mode (sgn neg * x.rat) (roundMag f mode neg x false).bits (roundMag f mode neg x false).flags := by
  have hreg := formats_regular hf
  rw [roundMag_eq]
  split
  · next hb =>
    have hflags : (OF ||| NX) &&& OF ≠ 0 ∧ (OF ||| NX) &&& NX ≠ 0 := by decide
    refine ⟨fun h => absurd h hflags.1, fun _ => ⟨fun c hc => ?_, ?_, hflags.2⟩⟩
    · obtain ⟨n, m, q, hdec, h⟩ := fits_of_finite hreg hc
      rw [hdec, rat_fin, mul_assoc, abs_sgn_mul, abs_sgn_mul, abs_of_nonneg (by positivity), abs_of_pos (Mag.rat_pos hn hd)]
      exact lt_of_tooBig hn hd h hb
    · rw [sgn_mul_neg_iff neg (Mag.rat_pos hn hd)]
      exact overflow_eq hf mode neg
  · next hb =>
    obtain ⟨hround, hexact⟩ := encodeFin_rounds hn hd hreg (mode := mode) (neg := neg) (Bool.eq_false_iff.mpr hb)
    have hflags : ∀ i t : Bool, let fl := (if i then NX else 0) ||| (if t && i then UF else 0)
      fl &&& OF = 0 ∧ (fl &&& NX = 0 ↔ i = false) := by decide
    obtain ⟨hof, hnx⟩ := hflags (!(x.roundAt mode neg (x.unit f)).2 || false) (decide (x.sigExp f mode neg < f.emin))
    refine ⟨fun _ => ⟨hround, hnx.trans ?_⟩, fun h => absurd hof h⟩
    rw [Bool.or_false, Bool.not_eq_false', hexact]

/-- Settles O19: the magnitude is rounded to an integer number of units of its format, and no finite value lies between two such numbers. -/
theorem roundingIsCorrect : Obligations.RoundingIsCorrect := by
  unfold Obligations.RoundingIsCorrect
  intro f hf mode neg num den e hn hd
  exact roundMag_roundedOnce hf mode neg (x := { num := num, den := den, e := e }) hn hd

end Sys2Proof.Machine
end

section
/-! PROOF. Lanes of finite operands (R113, R114, R116 to R119, R382, R383): each is the exact result rounded once, or a comparison of exact values. -/

namespace Sys2Proof.Machine

/-! ### Integers and sums rounded once -/

@[simp] theorem lane_bits (f : Fmt) (ops : List Opd) (r : Rounded) (rule : Nat) : (lane f ops r rule).bits = r.bits := rfl
@[simp] theorem lane_flags (f : Fmt) (ops : List Opd) (r : Rounded) (rule : Nat) : (lane f ops r rule).flags = r.flags := rfl

theorem sgn_natAbs (v : Int) : sgn (decide (v < 0)) * v.natAbs = v := by
  rcases lt_or_ge v 0 with h | h
  · have : ((v.natAbs : Int) : ℚ) = ((-v : Int) : ℚ) := by rw [Int.ofNat_natAbs_of_nonpos h.le]
    rw [decide_eq_true h, ← Int.cast_natCast, this]
    simp [sgn]
  · have : ((v.natAbs : Int) : ℚ) = v := by rw [Int.natAbs_of_nonneg h]
    rw [decide_eq_false (not_lt.mpr h), ← Int.cast_natCast, this]
    simp [sgn]

theorem sgn_bne (a b : Bool) : sgn (a != b) = sgn a * sgn b := by
  cases a <;> cases b <;> norm_num [sgn]

section
variable {f : Fmt} (hf : f ∈ formats) {mode : Mode}
include hf

/-- An integer times a power of two, not 0, rounded once. -/
theorem roundInt_roundedOnce {v : Int} (hv : v ≠ 0) (e : Int) (z : Bool) {x : ℚ} (hx : v * 2 ^ e = x) :
    RoundedOnce f mode x (roundInt f mode v e z).bits (roundInt f mode v e z).flags := by
  have h := roundMag_roundedOnce hf mode (decide (v < 0)) (x := { num := v.natAbs, den := 1, e := e }) (Int.natAbs_pos.mpr hv) one_pos
  rw [Mag.rat, Nat.cast_one, div_one, ← mul_assoc, sgn_natAbs, hx] at h
  rw [roundInt, if_neg hv]
  exact h

omit hf in
theorem alignTo_rat (v : Int) {e q : Int} (h : q ≤ e) : (alignTo v e q : ℚ) * 2 ^ q = v * 2 ^ e := by
  obtain ⟨k, hk⟩ := Int.eq_ofNat_of_zero_le (sub_nonneg.mpr h)
  rw [alignTo, hk, Int.toNat_natCast, show e = k + q by omega, zpow_add₀ two_ne_zero, zpow_natCast]
  push_cast
  ring

/-- The sum of two finite values in units of the lesser exponent. -/
def sumUnits (n1 : Bool) (m1 : Nat) (e1 : Int) (n2 : Bool) (m2 : Nat) (e2 : Int) : Int :=
  alignTo (signed n1 m1) e1 (min e1 e2) + alignTo (signed n2 m2) e2 (min e1 e2)

variable {n1 n2 : Bool} {m1 m2 : Nat} {e1 e2 : Int}

omit hf in
theorem sumUnits_rat : (sumUnits n1 m1 e1 n2 m2 e2 : ℚ) * 2 ^ min e1 e2 = (FVal.fin n1 m1 e1).rat + (FVal.fin n2 m2 e2).rat := by
  rw [sumUnits, Int.cast_add, add_mul, alignTo_rat _ (min_le_left ..), alignTo_rat _ (min_le_right ..), signed_rat, signed_rat, rat_fin, rat_fin]

omit hf in
theorem sumUnits_eq_zero : sumUnits n1 m1 e1 n2 m2 e2 = 0 ↔ (FVal.fin n1 m1 e1).rat + (FVal.fin n2 m2 e2).rat = 0 := by
  have hu : (2 : ℚ) ^ min e1 e2 ≠ 0 := by positivity
  rw [← sumUnits_rat, mul_eq_zero, or_iff_left hu, Int.cast_eq_zero]

theorem sumRound_roundedOnce {x : ℚ} (hx : (FVal.fin n1 m1 e1).rat + (FVal.fin n2 m2 e2).rat = x) (h0 : x ≠ 0) :
    RoundedOnce f mode x (sumRound f mode n1 m1 e1 n2 m2 e2).1.bits (sumRound f mode n1 m1 e1 n2 m2 e2).1.flags :=
  roundInt_roundedOnce hf (mt sumUnits_eq_zero.mp (hx ▸ h0)) _ _ (sumUnits_rat.trans hx)

omit hf in
/-- An exact zero sum of numbers of unlike sign (R113). -/
theorem sumRound_zero (hx : (FVal.fin n1 m1 e1).rat + (FVal.fin n2 m2 e2).rat = 0) (hn : n1 ≠ n2) :
    (sumRound f mode n1 m1 e1 n2 m2 e2).1.bits = f.signBit (mode == .rdn) := by
  have hz : sumUnits n1 m1 e1 n2 m2 e2 = 0 := sumUnits_eq_zero.mpr hx
  show (roundInt f mode (sumUnits n1 m1 e1 n2 m2 e2) _ (if n1 == n2 then n1 else mode == .rdn)).bits = _
  rw [hz, if_neg (by simpa using hn)]
  rfl

end

/-! ### Lanes of finite operands -/

/-- A finite operand. -/
theorem fin_of_finite {f : Fmt} {o : Opd} (ho : o.v = f.dec o.b) (h : f.finite o.b) : ∃ n m e, o.v = .fin n m e := by
  obtain ⟨-, hnan, hinf⟩ := h
  rw [← ho] at hnan hinf
  cases hv : o.v with
  | nan s => rw [hv] at hnan; exact absurd hnan (by simp [FVal.isNan])
  | inf n => rw [hv] at hinf; exact absurd hinf (by simp [FVal.isInf])
  | fin n m e => exact ⟨n, m, e, rfl⟩

theorem rat_flip (flip n : Bool) (m : Nat) (e : Int) :
    (FVal.fin (n != flip) m e).rat = if flip then -(FVal.fin n m e).rat else (FVal.fin n m e).rat := by
  rw [rat_fin, rat_fin, sgn_bne]
  cases flip <;> simp [sgn]

theorem rat_ne_zero {n : Bool} {m : Nat} {e : Int} : (FVal.fin n m e).rat ≠ 0 ↔ m ≠ 0 := by
  have hu : (2 : ℚ) ^ e ≠ 0 := by positivity
  rw [rat_fin, ne_eq, mul_eq_zero, mul_eq_zero, or_iff_left hu, or_iff_right (sgn_ne_zero n), Nat.cast_eq_zero]

/-- Two values that are not 0 and add up to 0 have unlike signs. -/
theorem sign_ne_of_add_eq_zero {n1 n2 : Bool} {m1 m2 : Nat} {e1 e2 : Int} (h0 : (FVal.fin n1 m1 e1).rat ≠ 0)
    (h : (FVal.fin n1 m1 e1).rat + (FVal.fin n2 m2 e2).rat = 0) : n1 ≠ n2 := by
  rintro rfl
  have hm : (0 : ℚ) < m1 := by exact_mod_cast Nat.pos_of_ne_zero (rat_ne_zero.mp h0)
  rw [rat_fin, rat_fin, mul_assoc, mul_assoc, ← mul_add, mul_eq_zero, or_iff_right (sgn_ne_zero n1)] at h
  have : 0 < (m1 : ℚ) * 2 ^ e1 + m2 * 2 ^ e2 := by positivity
  exact this.ne' h

theorem rat_mul (n1 n2 : Bool) (m1 m2 : Nat) (e1 e2 : Int) :
    (FVal.fin (n1 != n2) (m1 * m2) (e1 + e2)).rat = (FVal.fin n1 m1 e1).rat * (FVal.fin n2 m2 e2).rat := by
  rw [rat_fin, rat_fin, rat_fin, sgn_bne, zpow_add₀ two_ne_zero]
  push_cast
  ring

section
variable {f : Fmt} {mode : Mode} {a b d : Opd} {n1 n2 n3 : Bool} {m1 m2 m3 : Nat} {e1 e2 e3 : Int}
variable (ha : a.v = .fin n1 m1 e1) (hb : b.v = .fin n2 m2 e2) (hd : d.v = .fin n3 m3 e3)

include ha hb in
theorem addLane_fin (flip : Bool) : ∃ c, addLane f mode flip a b = lane f [a, b] (sumRound f mode n1 m1 e1 (n2 != flip) m2 e2).1 c := by
  rw [addLane, ha, hb]
  exact ⟨_, rfl⟩

include ha hb in
theorem mulLane_fin : ∃ c, mulLane f mode a b = lane f [a, b] (roundInt f mode (signed (n1 != n2) (m1 * m2)) (e1 + e2) (n1 != n2)) c := by
  rw [mulLane, ha, hb]
  exact ⟨_, rfl⟩

include ha hb in
theorem divLane_fin (h1 : m1 ≠ 0) (h2 : m2 ≠ 0) :
    ∃ c, divLane f mode a b = lane f [a, b] (roundMag f mode (n1 != n2) { num := m1, den := m2, e := e1 - e2 } false) c := by
  rw [divLane, ha, hb]
  dsimp only
  rw [if_neg h2, if_neg h1]
  exact ⟨_, rfl⟩

include ha hb hd in
theorem fmaLane_fin (negate : Bool) : ∃ c, fmaLane f mode negate a b d =
    lane f [a, b, d] (sumRound f mode ((n1 != n2) != negate) (m1 * m2) (e1 + e2) n3 m3 e3).1 c := by
  simp only [fmaLane, ha, hb, hd, FVal.isNan, FVal.isInf, FVal.neg, Bool.and_false, Bool.false_and, Bool.or_false, Bool.false_eq_true, if_false]
  exact ⟨_, rfl⟩

include ha in
theorem rcpLane_fin (h : m1 ≠ 0) : ∃ c, rcpLane f mode a = lane f [a] (roundMag f mode n1 { num := 1, den := m1, e := -e1 } false) c := by
  rw [rcpLane, ha]
  dsimp only
  rw [if_neg h]
  exact ⟨_, rfl⟩

end

section
variable {f : Fmt} {mode : Mode} {a b d : Opd} {n1 n2 n3 : Bool} {m1 m2 m3 : Nat} {e1 e2 e3 : Int}
variable (ha : a.v = .fin n1 m1 e1) (hb : b.v = .fin n2 m2 e2) (hd : d.v = .fin n3 m3 e3)
include ha

section
include hb

theorem addLane_roundedOnce (flip : Bool) (h : a.v.rat + (if flip then -b.v.rat else b.v.rat) ≠ 0) (hf : f ∈ formats) :
    RoundedOnce f mode (a.v.rat + (if flip then -b.v.rat else b.v.rat)) (addLane f mode flip a b).bits (addLane f mode flip a b).flags := by
  obtain ⟨c, hc⟩ := addLane_fin (f := f) (mode := mode) ha hb flip
  rw [hc, lane_bits, lane_flags]
  exact sumRound_roundedOnce hf (by rw [rat_flip, ← ha, ← hb]) h

theorem addLane_zero (flip : Bool) (h0 : a.v.rat ≠ 0) (h : a.v.rat + (if flip then -b.v.rat else b.v.rat) = 0) :
    (addLane f mode flip a b).bits = f.signBit (mode == .rdn) := by
  obtain ⟨c, hc⟩ := addLane_fin (f := f) (mode := mode) ha hb flip
  rw [ha] at h0
  rw [ha, hb, ← rat_flip] at h
  rw [hc, lane_bits]
  exact sumRound_zero h (sign_ne_of_add_eq_zero h0 h)

theorem mulLane_roundedOnce (h : a.v.rat * b.v.rat ≠ 0) (hf : f ∈ formats) :
    RoundedOnce f mode (a.v.rat * b.v.rat) (mulLane f mode a b).bits (mulLane f mode a b).flags := by
  obtain ⟨c, hc⟩ := mulLane_fin (f := f) (mode := mode) ha hb
  have hx : ((signed (n1 != n2) (m1 * m2) : Int) : ℚ) * 2 ^ (e1 + e2) = a.v.rat * b.v.rat := by rw [signed_rat, ← rat_fin, rat_mul, ha, hb]
  rw [hc, lane_bits, lane_flags]
  exact roundInt_roundedOnce hf (fun hz => h (by rw [← hx, hz, Int.cast_zero, zero_mul])) _ _ hx

theorem divLane_roundedOnce (h1 : a.v.rat ≠ 0) (h2 : b.v.rat ≠ 0) (hf : f ∈ formats) :
    RoundedOnce f mode (a.v.rat / b.v.rat) (divLane f mode a b).bits (divLane f mode a b).flags := by
  rw [ha, rat_ne_zero] at h1
  rw [hb, rat_ne_zero] at h2
  obtain ⟨c, hc⟩ := divLane_fin (f := f) (mode := mode) ha hb h1 h2
  have hx : sgn (n1 != n2) * Mag.rat { num := m1, den := m2, e := e1 - e2 } = a.v.rat / b.v.rat := by
    rw [ha, hb, rat_fin, rat_fin, sgn_bne, Mag.rat, zpow_sub₀ two_ne_zero]
    have hm : (m2 : ℚ) ≠ 0 := by exact_mod_cast h2
    cases n1 <;> cases n2 <;> simp only [sgn, Bool.false_eq_true, if_true, if_false] <;> field_simp
  rw [hc, lane_bits, lane_flags, ← hx]
  exact roundMag_roundedOnce hf mode _ (Nat.pos_of_ne_zero h1) (Nat.pos_of_ne_zero h2)

include hd in
theorem fmaLane_roundedOnce (negate : Bool) (h : (if negate then -(a.v.rat * b.v.rat) else a.v.rat * b.v.rat) + d.v.rat ≠ 0) (hf : f ∈ formats) :
    RoundedOnce f mode ((if negate then -(a.v.rat * b.v.rat) else a.v.rat * b.v.rat) + d.v.rat) (fmaLane f mode negate a b d).bits
      (fmaLane f mode negate a b d).flags := by
  obtain ⟨c, hc⟩ := fmaLane_fin (f := f) (mode := mode) ha hb hd negate
  rw [hc, lane_bits, lane_flags]
  exact sumRound_roundedOnce hf (by rw [rat_flip, rat_mul, ← ha, ← hb, ← hd]) h

end

theorem rcpLane_roundedOnce (h : a.v.rat ≠ 0) (hf : f ∈ formats) :
    RoundedOnce f mode (1 / a.v.rat) (rcpLane f mode a).bits (rcpLane f mode a).flags := by
  rw [ha, rat_ne_zero] at h
  obtain ⟨c, hc⟩ := rcpLane_fin (f := f) (mode := mode) ha h
  have hx : sgn n1 * Mag.rat { num := 1, den := m1, e := -e1 } = 1 / a.v.rat := by
    rw [ha, rat_fin, Mag.rat, zpow_neg, Nat.cast_one]
    have hm : (m1 : ℚ) ≠ 0 := by exact_mod_cast h
    cases n1 <;> simp only [sgn, Bool.false_eq_true, if_true, if_false] <;> field_simp
  rw [hc, lane_bits, lane_flags, ← hx]
  exact roundMag_roundedOnce hf mode _ one_pos (Nat.pos_of_ne_zero h)

theorem cvtLane_roundedOnce (h : a.v.rat ≠ 0) (hf : f ∈ formats) : RoundedOnce f mode a.v.rat (cvtLane f mode a).bits (cvtLane f mode a).flags := by
  rw [ha] at h ⊢
  rw [cvtLane, ha]
  refine roundInt_roundedOnce hf (fun hz => h ?_) _ _ (by rw [signed_rat, rat_fin])
  rw [rat_fin, ← signed_rat, hz, Int.cast_zero, zero_mul]

theorem fsclLane_roundedOnce {c : Nat} (hc : c < 510) (h : a.v.rat ≠ 0) :
    RoundedOnce f32 mode (a.v.rat * ((2 + c % 2 : Nat) : ℚ) * (2 : ℚ) ^ (((c / 2 : Nat) : Int) - 128)) (fsclLane mode a c).bits (fsclLane mode a c).flags := by
  rw [ha, rat_ne_zero] at h
  rw [fsclLane, if_neg (by omega), ha]
  refine roundInt_roundedOnce (.tail _ (.head _)) (fun hz => ?_) _ _ ?_
  · have hm : m1 * (2 + c % 2) ≠ 0 := Nat.mul_ne_zero h (by omega)
    have hz : signed n1 (m1 * (2 + c % 2)) = 0 := hz
    unfold signed at hz
    split at hz <;> omega
  · show ((signed n1 (m1 * (2 + c % 2)) : Int) : ℚ) * 2 ^ (e1 + (((c / 2 : Nat) : Int) - 128)) = _
    rw [signed_rat, rat_fin, zpow_add₀ two_ne_zero]
    push_cast
    ring

end

/-! ### Comparisons (R382, R383) -/

/-- Of two finite values of which not both are 0 the lesser is less. -/
theorem fltLt_fin (z : Bool) {n1 n2 : Bool} {m1 m2 : Nat} {e1 e2 : Int} (h : ¬(m1 = 0 ∧ m2 = 0)) :
    fltLt z (.fin n1 m1 e1) (.fin n2 m2 e2) = decide ((FVal.fin n1 m1 e1).rat < (FVal.fin n2 m2 e2).rat) := by
  have hu : (0 : ℚ) < 2 ^ min e1 e2 := by positivity
  unfold fltLt
  dsimp only
  rw [if_neg h, decide_eq_decide, rat_fin, rat_fin, ← signed_rat, ← signed_rat, ← alignTo_rat _ (min_le_left e1 e2), ← alignTo_rat _ (min_le_right e1 e2),
    mul_lt_mul_iff_left₀ hu, Int.cast_lt]

section
variable {a b : Opd} {n1 n2 : Bool} {m1 m2 : Nat} {e1 e2 : Int} (ha : a.v = .fin n1 m1 e1) (hb : b.v = .fin n2 m2 e2)
include ha hb

theorem fltLt_of_lt (z : Bool) (h : a.v.rat < b.v.rat) : fltLt z a.v b.v = true ∧ fltLt z b.v a.v = false := by
  have h0 : ¬(m1 = 0 ∧ m2 = 0) := by
    rintro ⟨rfl, rfl⟩
    rw [ha, hb, rat_fin, rat_fin] at h
    simp at h
  rw [ha, hb] at h ⊢
  rw [fltLt_fin z h0, fltLt_fin z fun h => h0 h.symm]
  exact ⟨decide_eq_true h, decide_eq_false h.not_gt⟩

theorem fltLt_of_eq (h : a.v.rat = b.v.rat) : fltLt false a.v b.v = false := by
  rw [ha, hb] at h ⊢
  by_cases h0 : m1 = 0 ∧ m2 = 0
  · exact if_pos h0
  · rw [fltLt_fin false h0]
    exact decide_eq_false h.not_lt

theorem cmpNibble_fin : (cmpNibble a b).1 = if fltLt false a.v b.v then 1 else if fltLt false b.v a.v then 4 else 2 := by
  have hna : a.v.isNan = false := by rw [ha]; rfl
  have hnb : b.v.isNan = false := by rw [hb]; rfl
  simp only [cmpNibble, hna, hnb, Bool.or_false, Bool.false_eq_true, if_false, apply_ite Prod.fst]

theorem minmaxLane_fin (f : Fmt) (big : Bool) :
    (minmaxLane f big a b).bits = if (if big then fltLt true a.v b.v else fltLt true b.v a.v) then b.b else a.b := by
  have hna : a.v.isNan = false := by rw [ha]; rfl
  have hnb : b.v.isNan = false := by rw [hb]; rfl
  simp only [minmaxLane, hna, hnb, Bool.and_false, Bool.false_eq_true, if_false, apply_ite Lane.bits]

end

/-- Settles O20: each lane is the one rounding of its exact value, and a comparison is that of the values. -/
theorem finiteLanes : Obligations.FiniteLanes := by
  unfold Obligations.FiniteLanes
  intro f hf mode a b d hav hbv hdv hfa hfb hfd
  have hf : f ∈ formats := List.mem_append_left [e4m3, e5m2] hf
  obtain ⟨n1, m1, e1, ha⟩ := fin_of_finite hav hfa
  obtain ⟨n2, m2, e2, hb⟩ := fin_of_finite hbv hfb
  obtain ⟨n3, m3, e3, hd⟩ := fin_of_finite hdv hfd
  refine ⟨fun flip h => addLane_roundedOnce ha hb flip h hf, fun flip => addLane_zero ha hb flip, fun h => mulLane_roundedOnce ha hb h hf,
    fun h1 h2 => divLane_roundedOnce ha hb h1 h2 hf, fun negate h => fmaLane_roundedOnce ha hb hd negate h hf, fun h => rcpLane_roundedOnce ha h hf,
    fun h => ?_, fun h => ?_, fun h => ?_, fun g hg h => cvtLane_roundedOnce ha h hg, fun _ c hc h => fsclLane_roundedOnce ha hc h,
    fun n hn => roundInt_roundedOnce hf hn 0 false (by rw [zpow_zero, mul_one])⟩
  · obtain ⟨h1, h2⟩ := fltLt_of_lt ha hb true h
    rw [minmaxLane_fin ha hb, minmaxLane_fin ha hb, cmpNibble_fin ha hb, h1, h2, (fltLt_of_lt ha hb false h).1]
    exact ⟨rfl, rfl, rfl⟩
  · rw [cmpNibble_fin ha hb, fltLt_of_eq ha hb h, fltLt_of_eq hb ha h.symm]
    rfl
  · obtain ⟨h1, h2⟩ := fltLt_of_lt hb ha false h
    rw [cmpNibble_fin ha hb, h1, h2]
    rfl

end Sys2Proof.Machine
end

section
/-! PROOF. Floating-point instructions (R110, R134, R139, R379 to R387, R396): what they read, the lanes joined, and the write of a result, a mask or an integer. -/

namespace Sys2Proof.Machine

/-! ### Results (R134, R139, R381) -/

theorem effCount_eq (f : Fmt) (v : TVal) : effCount v.cnt.toNat f.p = effOf f v := by
  have h : v.cnt.toNat = 127 ↔ v.cnt = 127 := ⟨fun h => BitVec.eq_of_toNat_eq h, fun h => h ▸ rfl⟩
  unfold effCount effOf
  simp only [h]

theorem threshold_iff {n c : Nat} {counts : List Nat} : threshold n c counts = true ↔ 0 < n ∧ c ≠ 127 ∧ c < n ∧ ∀ k ∈ counts, n ≤ k := by
  simp [threshold, and_assoc]

theorem writeFp_fires {d : RegF} {v c fl : Nat} {inx : Bool} {counts : List Nat} {e : Env} {s : State}
    (h : threshold (bits (s.ctx e.core e.slot).sigmin 6 0) c counts = true) :
    writeFp d v c inx fl counts e s = .error (.trap { cause := 0x0B, aux := w64 (c + 256 * counts.foldl min 127) }) := by
  unfold writeFp
  rw [M.bind_ok (M.me_run e s), M.if_pos_run h, Nat.mul_comm 256]
  rfl

theorem writeFp_passes {d : RegF} {v c fl : Nat} {inx : Bool} {counts : List Nat} {e : Env} {s : State}
    (h : ¬threshold (bits (s.ctx e.core e.slot).sigmin 6 0) c counts = true) :
    writeFp d v c inx fl counts e s =
      writeReg d { val := w64 v, cnt := BitVec.ofNat 7 c, inx := inx } e (s.modCtx e.core e.slot (fun x => { x with fflags := x.fflags ||| w64 fl })) := by
  unfold writeFp
  rw [M.bind_ok (M.me_run e s), M.if_neg_run h]
  rfl

section
variable {i : Instr} {body : M Unit} {s u : State} {d : RegF} (hx : exec i s = run i body s) (hs : starts i s = true)
include hx hs

/-- An instruction whose body ends with the write of a floating-point result passes the threshold test with it or traps. -/
theorem fpEnds_of {r : Nat × Nat × Bool × Nat} {counts : List Nat}
    (hb : body (doer i s) (begun s) = writeFp d r.1 r.2.1 r.2.2.1 r.2.2.2 counts (doer i s) u) : FpEnds i s d u r counts := by
  refine ⟨fun hf v hv => ?_, fun hf => ?_⟩
  · exact hx.trans (run_completes hs ((hb.trans (writeFp_passes (mt threshold_iff.mp hf))).trans hv))
  · exact hx.trans (run_traps hs (hb.trans (writeFp_fires (threshold_iff.mpr hf))))

theorem flagsThenWrite_of {flags : Nat} {v : TVal}
    (hb : body (doer i s) (begun s) = (M.modMe (fun x => orFlags x flags) >>= fun _ => writeReg d v) (doer i s) u) : FlagsThenWrite i s d u flags v :=
  fun _ ht => hx.trans (run_completes hs (hb.trans ht))

end

/-- The lanes of a result, joined and written. -/
theorem fpResult_run (t : FpType) (d : RegF) (ops : List TVal) (g : Mode → Nat → Lane) (e : Env) (s : State) :
    let r := fpJoin t (s.ctx e.core e.slot) g
    fpResult t d ops g e s =
      writeFp d r.1 r.2.1 (r.2.2.1 || ops.any (fun o => o.inx)) r.2.2.2 (ops.map (effOf (typeFmt t))) e s := by
  intro r
  rw [← funext (effCount_eq (typeFmt t))]
  rfl

section
variable {i : Instr} {t : FpType} {d a b : RegF} {s s1 s2 s3 : State} {x y z : TVal} (hs : starts i s = true)
variable (ha : Reads (doer i s) a (begun s) x s1) (hb : Reads (doer i s) b s1 y s2) (hd : Reads (doer i s) d s2 z s3)
include hs ha

theorem fp1_ends {g : Fmt → Mode → Opd → Lane} (hx : exec i s = run i (fp1 t d a g) s) :
    let f := typeFmt t
    let r := fpJoin t (s1.ctx s.cur.1 s.cur.2) (fun m l => g f m (opdOf f x l))
    FpEnds i s d s1 (r.1, r.2.1, r.2.2.1 || x.inx, r.2.2.2) [effOf f x] := by
  refine fpEnds_of hx hs ?_
  unfold fp1
  rw [M.bind_ok ha, fpResult_run]
  simp only [List.any_cons, List.any_nil, Bool.or_false, List.map_cons, List.map_nil]
  rfl

include hb in
theorem fp2_ends {g : Fmt → Mode → Opd → Opd → Lane} (hx : exec i s = run i (fp2 t d a b g) s) :
    let f := typeFmt t
    let r := fpJoin t (s2.ctx s.cur.1 s.cur.2) (fun m l => g f m (opdOf f x l) (opdOf f y l))
    FpEnds i s d s2 (r.1, r.2.1, r.2.2.1 || x.inx || y.inx, r.2.2.2) [effOf f x, effOf f y] := by
  refine fpEnds_of hx hs ?_
  unfold fp2
  rw [M.bind_ok ha, M.bind_ok hb, fpResult_run]
  simp only [List.any_cons, List.any_nil, Bool.or_false, List.map_cons, List.map_nil, Bool.or_assoc]
  rfl

include hb hd in
theorem fp3_ends {g : Fmt → Mode → Opd → Opd → Opd → Lane} (hx : exec i s = run i (fp3 t d a b g) s) :
    let f := typeFmt t
    let r := fpJoin t (s3.ctx s.cur.1 s.cur.2) (fun m l => g f m (opdOf f x l) (opdOf f y l) (opdOf f z l))
    FpEnds i s d s3 (r.1, r.2.1, r.2.2.1 || x.inx || y.inx || z.inx, r.2.2.2) [effOf f x, effOf f y, effOf f z] := by
  refine fpEnds_of hx hs ?_
  unfold fp3
  rw [M.bind_ok ha, M.bind_ok hb, M.bind_ok hd, fpResult_run]
  simp only [List.any_cons, List.any_nil, Bool.or_false, List.map_cons, List.map_nil, Bool.or_assoc]
  rfl

end

/-! ### Comparison and class (R383, R384) -/

theorem foldl_zipIdx_add {α : Type} (g : Nat → α → Nat) (l : List α) : l.zipIdx.foldl (fun acc (r, i) => acc + g i r) 0 = (l.mapIdx g).sum := by
  rw [List.mapIdx_eq_zipIdx_map, List.sum_eq_foldl, List.foldl_map]

theorem foldl_add_eq_sum {α : Type} (g : α → Nat) (l : List α) : l.foldl (fun acc r => acc + g r) 0 = (l.map g).sum := by
  rw [List.sum_eq_foldl, List.foldl_map]

theorem fcmp_writes {t : FpType} {d a b : RegF} {s s1 s2 : State} {x y : TVal} (hs : starts (.fcmp t d a b) s = true)
    (ha : Reads (doer (.fcmp t d a b) s) a (begun s) x s1) (hb : Reads (doer (.fcmp t d a b) s) b s1 y s2) :
    let f := typeFmt t
    let r := (List.range (typeLanes t)).map (fun l => cmpNibble (opdOf f x l) (opdOf f y l))
    FlagsThenWrite (.fcmp t d a b) s d s2 (r.foldl (fun c q => c ||| q.2) 0)
      { val := w64 ((r.mapIdx (fun l q => q.1 * 16 ^ l)).sum), cnt := 127, inx := false } := by
  refine flagsThenWrite_of (body := bodyFcmp t d a b) rfl hs ?_
  unfold bodyFcmp
  rw [M.bind_ok ha, M.bind_ok hb, ← foldl_zipIdx_add]
  rfl

/-- The place of the bit of a value's class (R384). -/
def classPlace (f : Fmt) : FVal → Nat
  | .inf true => 0
  | .inf false => 7
  | .nan true => 8
  | .nan false => 9
  | .fin n m _ => if m = 0 then (if n then 3 else 4) else if m < 2 ^ f.mant then (if n then 2 else 5) else if n then 1 else 6

theorem clsBits_eq (f : Fmt) (o : Opd) : clsBits f o = 2 ^ classPlace f o.v := by
  unfold clsBits
  cases o.v with
  | nan s | inf s => cases s <;> rfl
  | fin n m e =>
    simp only [classPlace, apply_ite (2 ^ ·)]
    rfl

/-- Settles O21: each body reads its fields in their order, joins its lanes, and ends with the write of a result or of a mask. -/
theorem floatArithmetic : Obligations.FloatArithmetic := by
  unfold Obligations.FloatArithmetic
  refine ⟨fun row hrow t d a b s s1 s2 x y hs ha hb => ?_, fun row hrow t d a b s s1 s2 s3 x y z hs ha hb hd => ?_,
    fun row hrow t d a s s1 x hs ha => ?_, fun t d a b s s1 s2 x y hs ha hb => fcmp_writes hs ha hb, fun t d a s s1 x hs ha => ?_⟩
  · simp only [List.mem_cons, List.not_mem_nil, or_false] at hrow
    rcases hrow with rfl | rfl | rfl | rfl | rfl | rfl <;> exact fp2_ends hs ha hb rfl
  · simp only [List.mem_cons, List.not_mem_nil, or_false] at hrow
    rcases hrow with rfl | rfl <;> exact fp3_ends hs ha hb hd rfl
  · simp only [List.mem_cons, List.not_mem_nil, or_false] at hrow
    rcases hrow with rfl | rfl | rfl | rfl | rfl | rfl <;> exact fp1_ends hs ha rfl
  · refine flagsThenWrite_of (body := bodyFcls t d a) rfl hs ?_
    unfold bodyFcls
    rw [M.bind_ok ha, foldl_add_eq_sum]
    simp only [clsBits_eq]
    rfl

/-! ### `fcvi` (R116, R118) -/

section
variable {mode : Mode} {n : Bool} {m : Nat} {e : Int}

theorem roundToInt_eq : roundToInt mode n m e =
    (signed n (Mag.roundAt { num := m, den := 1, e := e } mode n 0).1, (Mag.roundAt { num := m, den := 1, e := e } mode n 0).2) := rfl

theorem sgn_mul_mag : sgn n * Mag.rat { num := m, den := 1, e := e } = (FVal.fin n m e).rat := by
  rw [Mag.rat, Nat.cast_one, div_one, rat_fin, mul_assoc]

theorem roundToInt_roundsToInt : RoundsToInt mode (FVal.fin n m e).rat (roundToInt mode n m e).1 := by
  have h := roundAt_roundsToInt (x := { num := m, den := 1, e := e }) (mode := mode) (neg := n) (q := 0) one_pos
  rw [zpow_zero, div_one, sgn_mul_mag] at h
  exact h

theorem roundToInt_exact : (roundToInt mode n m e).2 = true ↔ ((roundToInt mode n m e).1 : ℚ) = (FVal.fin n m e).rat := by
  rw [roundToInt_eq, signed_rat, ← sgn_mul_mag, mul_right_inj' (sgn_ne_zero n), roundAt_exact one_pos, zpow_zero, div_one]

/-- What is larger than every integer of the format rounds to such an integer. -/
theorem roundToInt_large (hm : m ≠ 0) (h : (Nat.log2 m : Int) + e > 70) :
    if n then (roundToInt mode n m e).1 ≤ -2 ^ 71 else 2 ^ 71 ≤ (roundToInt mode n m e).1 := by
  have hbig : 2 ^ 71 ≤ (Mag.roundAt { num := m, den := 1, e := e } mode n 0).1 := by
    refine le_roundAt one_pos ?_
    rw [zpow_zero, mul_one, Mag.rat, Nat.cast_one, div_one]
    calc ((2 ^ 71 : Nat) : ℚ) = 2 ^ (71 : Int) := by norm_num
      _ ≤ 2 ^ ((Nat.log2 m : Int) + e) := zpow_le_zpow_right₀ one_le_two (by omega)
      _ = 2 ^ (Nat.log2 m : Int) * 2 ^ e := zpow_add₀ two_ne_zero ..
      _ ≤ m * 2 ^ e := by gcongr; exact (log2_rat (Nat.pos_of_ne_zero hm)).1
  rw [roundToInt_eq]
  cases n
  · simp only [signed, Bool.false_eq_true, if_false]; omega
  · simp only [signed, if_true]; omega

theorem intFmt_bounds (g : IntFmt) : -2 ^ 71 < intMin g ∧ intMin g ≤ intMax g ∧ intMax g < 2 ^ 71 := by cases g <;> decide

/-- R118: the rounded integer, saturated to the integer format. -/
theorem fcviOf_fin (g : IntFmt) :
    let i := (roundToInt mode n m e).1
    fcviOf g mode (.fin n m e) =
      if intMax g < i then (intMax g, NV) else if i < intMin g then (intMin g, NV) else (i, if (i : ℚ) = (FVal.fin n m e).rat then 0 else NX) := by
  intro i
  obtain ⟨h1, h2, h3⟩ := intFmt_bounds g
  unfold fcviOf
  dsimp only
  split
  · next h =>
    have hl := roundToInt_large (mode := mode) (n := n) h.2 h.1
    cases n
    · have hl : 2 ^ 71 ≤ i := hl
      exact (if_pos (h3.trans_le hl)).symm
    · have hl : i ≤ -2 ^ 71 := hl
      have hmin : i < intMin g := hl.trans_lt h1
      exact ((if_neg (hmin.trans_le h2).not_gt).trans (if_pos hmin)).symm
  · simp only [roundToInt_exact]
    rfl

end

/-! ### The conversions and `fscl` -/

theorem fcvt_ends {g h : FpFmt} {rnd : Rnd} {d a : RegF} {s s1 : State} {x : TVal} (hs : starts (.fcvt g h rnd d a) s = true)
    (ha : Reads (doer (.fcvt g h rnd d a) s) a (begun s) x s1) :
    let r := cvtLane (fmtOf g) (convMode rnd (s1.ctx s.cur.1 s.cur.2)) (opdOf (fmtOf h) x 0)
    FpEnds (.fcvt g h rnd d a) s d s1 (r.bits, r.cnt, r.inexact || x.inx, r.flags) [effOf (fmtOf h) x] := by
  refine fpEnds_of (body := bodyFcvt g h rnd d a) rfl hs ?_
  unfold bodyFcvt
  rw [M.bind_ok ha, M.bind_ok (M.me_run ..), effCount_eq]
  rfl

theorem fscl_ends {d a b : RegF} {s s1 s2 : State} {x y : TVal} (hs : starts (.fscl d a b) s = true)
    (ha : Reads (doer (.fscl d a b) s) a (begun s) x s1) (hb : Reads (doer (.fscl d a b) s) b s1 y s2) :
    let r := fsclLane (curMode (s2.ctx s.cur.1 s.cur.2)) (opdOf f32 x 0) (bits y.val 8 0)
    FpEnds (.fscl d a b) s d s2 (r.bits, r.cnt, r.inexact || x.inx, r.flags) [effOf f32 x] := by
  refine fpEnds_of (body := bodyFscl d a b) rfl hs ?_
  unfold bodyFscl
  rw [M.bind_ok ha, M.bind_ok hb, M.bind_ok (M.me_run ..), ← effCount_eq]
  rfl

/-- Settles O22: what each conversion reads and writes, and that `fcvi` saturates the one integer that the mode takes. -/
theorem conversions : Obligations.Conversions := by
  unfold Obligations.Conversions
  refine ⟨fun g h rnd d a s s1 x hs ha => fcvt_ends hs ha, fun g h rnd d a s s1 x hs ha => ?_,
    fun g mode n m e => ⟨_, roundToInt_roundsToInt, fcviOf_fin g⟩, fun g mode q => ⟨rfl, rfl⟩, fun g h rnd d a s s1 x hs ha => ?_,
    fun d a b s s1 s2 x y hs ha hb => fscl_ends hs ha hb⟩
  · refine flagsThenWrite_of (body := bodyFcvi g h rnd d a) rfl hs ?_
    unfold bodyFcvi
    rw [M.bind_ok ha, M.bind_ok (M.me_run ..)]
    rfl
  · refine flagsThenWrite_of (body := bodyIcvf g h rnd d a) rfl hs ?_
    unfold bodyIcvf
    rw [M.bind_ok ha, M.bind_ok (M.me_run ..)]
    cases h <;> rfl

end Sys2Proof.Machine
end

section
/-! PROOF. A context that is updated twice, the journal entries that a core's contexts are promised (R264), and room in a class (R186). -/

namespace Sys2Proof.Machine

/-! ### Repeated updates -/

theorem SMap.erase_insert {α : Type} (m : SMap α) (k : Nat) (v : α) : SMap.erase (SMap.insert m k v) k = SMap.erase m k := by
  induction m with
  | nil => exact SMap.erase_cons .. |>.trans (if_pos rfl)
  | cons e m ih =>
    rw [SMap.insert_cons]
    split
    · rw [SMap.erase_cons, if_pos rfl]
    · rw [SMap.erase_cons, SMap.erase_cons, ih]

theorem SMap.erase_erase {α : Type} (m : SMap α) (k : Nat) : SMap.erase (SMap.erase m k) k = SMap.erase m k := by
  unfold SMap.erase
  rw [List.filter_filter]
  simp only [Bool.and_self]

/-- Of two writes at one index the second holds. -/
theorem SMap.put_put {α : Type} [DecidableEq α] (m : SMap α) (d : α) (k : Nat) (v w : α) : SMap.put (SMap.put m d k v) d k w = SMap.put m d k w := by
  have h : SMap.erase (SMap.put m d k v) k = SMap.erase m k := by
    unfold SMap.put
    split
    · exact SMap.erase_erase m k
    · rw [SMap.erase_insert, SMap.erase_erase]
  rw [SMap.put, h]
  rfl

theorem Core.setCtx_setCtx (k : Core) (i : Nat) (x y : Ctx) : (k.setCtx i x).setCtx i y = k.setCtx i y :=
  congrArg (fun m => { k with ctxs := m }) (SMap.put_put k.ctxs Ctx.reset i x y)

theorem State.setCore_setCore (s : State) (c : Nat) (k l : Core) : (s.setCore c k).setCore c l = s.setCore c l :=
  congrArg (fun m => { s with cores := m }) (SMap.put_put s.cores Core.reset c k l)

/-- Two updates of one context are one. -/
theorem State.modCtx_modCtx (s : State) (c i : Nat) (f g : Ctx → Ctx) : (s.modCtx c i f).modCtx c i g = s.modCtx c i (fun x => g (f x)) := by
  unfold State.modCtx
  rw [State.ctx_setCtx_same]
  unfold State.setCtx State.modCore
  rw [State.core_setCore_same, State.setCore_setCore]
  exact congrArg (s.setCore c) (Core.setCtx_setCtx ..)

/-! ### The promises of a core's contexts (R264) -/

/-- What the entries of a map weigh in all, by their values. -/
def SMap.weight {α : Type} (w : α → Nat) (m : SMap α) : Nat := (m.map (fun e => w e.2)).sum

theorem SMap.weight_cons {α : Type} (w : α → Nat) (e : Nat × α) (m : SMap α) : SMap.weight w (e :: m) = w e.2 + SMap.weight w m := by
  simp [SMap.weight]

theorem SMap.weight_insert {α : Type} (w : α → Nat) (m : SMap α) (k : Nat) (v : α) : SMap.weight w (SMap.insert m k v) = w v + SMap.weight w m := by
  induction m with
  | nil => exact SMap.weight_cons ..
  | cons e m ih =>
    rw [SMap.insert_cons]
    split
    · rw [SMap.weight_cons]
    · rw [SMap.weight_cons, ih, SMap.weight_cons, Nat.add_left_comm]

/-- The entries at an index weigh at least what a read there gives, where the default weighs nothing. -/
theorem SMap.weight_erase_le {α : Type} {w : α → Nat} {d : α} (hd : w d = 0) (m : SMap α) (k : Nat) :
    SMap.weight w (SMap.erase m k) + w (SMap.get m k d) ≤ SMap.weight w m := by
  induction m with
  | nil => exact (congrArg _ hd).le
  | cons e m ih =>
    rw [SMap.erase_cons, SMap.get_cons, SMap.weight_cons]
    split
    · omega
    · rw [SMap.weight_cons]; omega

theorem SMap.weight_put_le {α : Type} [DecidableEq α] {w : α → Nat} {d : α} (hd : w d = 0) (m : SMap α) {k : Nat} {v : α}
    (hv : w v = w (SMap.get m k d)) : SMap.weight w (SMap.put m d k v) ≤ SMap.weight w m := by
  have h := SMap.weight_erase_le hd m k
  unfold SMap.put
  split
  · omega
  · rw [SMap.weight_insert]; omega

/-- An update of a context that keeps its requests promises no more of the journal. -/
theorem promised_modCtx_le {s : State} {c i : Nat} {f : Ctx → Ctx} (h : (f (s.ctx c i)).loads = (s.ctx c i).loads) :
    ((s.modCtx c i f).core c).promised ≤ (s.core c).promised := by
  unfold State.modCtx State.setCtx State.modCore
  rw [State.core_setCore_same]
  exact SMap.weight_put_le (w := fun x : Ctx => ((x.loads.flatMap LoadReq.stores).filter (fun a => a.rem)).length) rfl (s.core c).ctxs
    (congrArg (fun l => ((List.flatMap LoadReq.stores l).filter (fun a => a.rem)).length) h)

/-! ### Counters (R186) -/

theorem raiseCnt_room {e : Env} {s : State} {k : Class} (h : (s.ctx e.core e.slot).cnt k < 63) : raiseCnt k e s = .ok ((), counted e k s) := by
  unfold raiseCnt
  rw [M.bind_ok (M.me_run e s), M.if_neg_run (by omega)]
  rfl

end Sys2Proof.Machine
end

section
/-! PROOF. `qblk` (R122, R126 to R128, R419): the code of a block, the stores of its bytes, its reply and its issue. -/

namespace Sys2Proof.Machine

/-! ### The code of a block (R122, R126) -/

theorem unit149_rat {v : FVal} (h : ∃ b, b < 2 ^ 32 ∧ v = f32.dec b ∧ f32.finite b) : (unit149 v : ℚ) = v.rat * 2 ^ 149 := by
  obtain ⟨b, -, rfl, hb⟩ := h
  obtain ⟨n, m, e, hdec, hfit⟩ := fits_of_finite (formats_regular (.tail _ (.head _))) hb
  have hle : -149 ≤ e := hfit.least
  obtain ⟨k, hk⟩ := Int.eq_ofNat_of_zero_le (show 0 ≤ e + 149 by omega)
  rw [hdec, unit149, hk, Int.toNat_natCast, rat_fin, ← signed_rat, mul_assoc, ← zpow_natCast (2 : ℚ) 149, ← zpow_add₀ two_ne_zero,
    show e + ((149 : Nat) : Int) = k from hk, zpow_natCast]
  push_cast
  rfl

/-- The largest magnitude of a block, in units. -/
theorem foldl_natAbs_rat {vs : List FVal} (h : ∀ v ∈ vs, (unit149 v : ℚ) = v.rat * 2 ^ 149) (k : Nat) (y : ℚ) (hk : (k : ℚ) = y * 2 ^ 149) :
    (((vs.map unit149).foldl (fun m u => max m u.natAbs) k : Nat) : ℚ) = vs.foldl (fun m v => max m |v.rat|) y * 2 ^ 149 := by
  induction vs generalizing k y with
  | nil => exact hk
  | cons v vs ih =>
    rw [List.map_cons, List.foldl_cons, List.foldl_cons]
    refine ih (fun w hw => h w (.tail _ hw)) _ _ ?_
    have hv : ((unit149 v).natAbs : ℚ) = |v.rat| * 2 ^ 149 := by
      rw [Nat.cast_natAbs, Int.cast_abs, h v (.head _), abs_mul, abs_of_pos (show (0 : ℚ) < 2 ^ 149 by positivity)]
    rw [Nat.cast_max, hk, hv, max_mul_of_nonneg _ _ (by positivity)]

theorem xs9_eq (c : Nat) : xs9 c = (2 + c % 2, ((c / 2 : Nat) : Int) - 128) := rfl

/-- Val(XS9, c) ≥ max / Q. -/
theorem scaleCovers_iff {k q c : Nat} {y : ℚ} (hk : (k : ℚ) = y * 2 ^ 149) :
    scaleCovers k q c = true ↔ y ≤ ((xs9 c).1 : ℚ) * (2 : ℚ) ^ (xs9 c).2 * q := by
  have hu : (0 : ℚ) < 2 ^ 149 := by positivity
  obtain ⟨j, hj⟩ := Int.eq_ofNat_of_zero_le (show 0 ≤ (xs9 c).2 + 149 by rw [xs9_eq]; dsimp only; omega)
  have hpow : (2 : ℚ) ^ j = 2 ^ (xs9 c).2 * 2 ^ 149 := by
    rw [← zpow_natCast, ← hj, zpow_add₀ two_ne_zero]
    rfl
  show decide (k ≤ (xs9 c).1 * q * 2 ^ ((xs9 c).2 + 149).toNat) = true ↔ _
  rw [decide_eq_true_iff, hj, Int.toNat_natCast, ← Nat.cast_le (α := ℚ), hk, Nat.cast_mul, Nat.cast_mul, Nat.cast_pow, Nat.cast_ofNat, hpow,
    show ((xs9 c).1 : ℚ) * q * (2 ^ (xs9 c).2 * 2 ^ 149) = (xs9 c).1 * 2 ^ (xs9 c).2 * q * 2 ^ 149 by ring, mul_le_mul_iff_left₀ hu]

/-- The first code from c on that covers the block, or the last one tried. -/
theorem firstCover_spec (k q c n : Nat) : firstCover k q c n ≤ c + n ∧ (∀ d, c ≤ d → d < firstCover k q c n → scaleCovers k q d = false) ∧
    (firstCover k q c n < c + n → scaleCovers k q (firstCover k q c n) = true) := by
  induction n generalizing c with
  | zero => exact ⟨le_rfl, fun d h1 h2 => absurd h2 h1.not_gt, fun h => absurd h (lt_irrefl _)⟩
  | succ n ih =>
    unfold firstCover
    split
    · next h => exact ⟨Nat.le_add_right .., fun d h1 h2 => absurd h2 h1.not_gt, fun _ => h⟩
    · next h =>
      obtain ⟨h1, h2, h3⟩ := ih (c + 1)
      refine ⟨by omega, fun d hd hlt => ?_, fun hlt => h3 (by omega)⟩
      rcases hd.eq_or_lt with rfl | hd
      · exact Bool.eq_false_iff.mpr h
      · exact h2 d hd hlt

theorem quantize_invalid {q : Nat} {vs : List FVal} (h : vs.any (fun v => v.isNan || v.isInf) = true) :
    quantize q vs = { code := 510, q := vs.map (fun _ => 0), flags := NV, underflow := false } := if_pos h

/-- The code of a block of finite elements that are not all 0. -/
theorem quantize_code {q : Nat} {vs : List FVal} (h : ∀ v ∈ vs, ∃ b, b < 2 ^ 32 ∧ v = f32.dec b ∧ f32.finite b)
    (h0 : vs.foldl (fun m v => max m |v.rat|) 0 ≠ 0) :
    (quantize q vs).code = firstCover ((vs.map unit149).foldl (fun m u => max m u.natAbs) 0) q 0 509 := by
  have hk := foldl_natAbs_rat (fun v hv => unit149_rat (h v hv)) 0 0 (by simp)
  have hne : (vs.map unit149).foldl (fun m u => max m u.natAbs) 0 ≠ 0 := fun h => by
    rw [h, Nat.cast_zero, eq_comm, mul_eq_zero, or_iff_left (by positivity)] at hk
    exact h0 hk
  have hfin : ¬vs.any (fun v => v.isNan || v.isInf) = true := by
    rw [List.any_eq_true]
    rintro ⟨v, hv, hb⟩
    obtain ⟨b, -, rfl, -, hnan, hinf⟩ := h v hv
    rw [hnan, hinf] at hb
    exact Bool.false_ne_true hb
  unfold quantize
  rw [if_neg hfin]
  dsimp only
  rw [if_neg hne]

theorem quantOne_le (q c : Nat) (v : Int) : -(q : Int) ≤ (quantOne q c v).1 ∧ (quantOne q c v).1 ≤ q := by
  have h : ∀ (n : Bool) (m : Nat), m ≤ q → -(q : Int) ≤ signed n m ∧ signed n m ≤ q := fun n m hm => by
    unfold signed
    split <;> omega
  exact h _ _ (Nat.min_le_right ..)

theorem quantize_le {q : Nat} {vs : List FVal} {i : Int} (h : i ∈ (quantize q vs).q) : -(q : Int) ≤ i ∧ i ≤ q := by
  have hzero : ∀ {i : Int}, i ∈ vs.map (fun _ => (0 : Int)) → -(q : Int) ≤ i ∧ i ≤ q := fun h => by
    obtain ⟨v, -, rfl⟩ := List.mem_map.mp h
    omega
  unfold quantize at h
  split at h
  · exact hzero h
  · dsimp only at h
    split at h
    · exact hzero h
    · obtain ⟨r, hr, rfl⟩ := List.mem_map.mp h
      obtain ⟨u, -, rfl⟩ := List.mem_map.mp hr
      exact quantOne_le ..

/-! ### The stores of a block (R264, R419) -/

theorem lateStore_sameMemory (s : State) (c i : Nat) (a : Append) (v : Word) : sameMemory s (lateStore s c i a v) := by
  refine (SameStores.modCore ?_).sameMemory
  split <;> rfl

theorem lateStore_buffered (s : State) (c i : Nat) (a : Append) (v : Word) (ha : a.rem = false) : ∃ o ∈ ((lateStore s c i a v).core c).storeBuf,
    o.uid = (s.ctx c i).uid ∧ o.seq = a.seq ∧ o.place = a.place ∧ o.size = a.size ∧ o.value = v := by
  unfold lateStore
  rw [ha, State.core_modCore_same]
  exact ⟨_, List.mem_append_right _ (List.mem_cons_self ..), rfl, rfl, rfl, rfl, rfl⟩

theorem lateStore_journalled (s : State) (c i : Nat) (a : Append) (v : Word) (ha : a.rem = true) : ∃ o ∈ ((lateStore s c i a v).core c).journal,
    o.uid = (s.ctx c i).uid ∧ o.seq = a.seq ∧ o.place = a.place ∧ o.size = a.size ∧ o.value = v := by
  unfold lateStore
  rw [ha, State.core_modCore_same]
  exact ⟨_, List.mem_append_right _ (List.mem_cons_self ..), rfl, rfl, rfl, rfl, rfl⟩

/-! ### The reply (R126 to R128, R419) -/

/-- Outside a body the fault of a reply is taken as any load's. -/
theorem blockFault_eq {s : State} {c i : Nat} {x : Ctx} {l : LoadReq} {b : Block} (hk : l.kind = .qblk b) (hb : b.body = false) (f : TrapInfo) :
    blockFault s c i x l f = failReply s c i l f := by
  unfold blockFault
  rw [hk]
  cases b with
  | mk body q srcs vals outs =>
    cases hb
    rfl

/-- Outside a body a block that completes stores its bytes after its code. -/
theorem blockDone_eq {s t : State} {c i : Nat} {x : Ctx} {l : LoadReq} {b : Block} (hb : b.body = false) :
    let v := readWordsOf c x l b.srcs s
    let r := quantize b.q ((b.vals ++ v.1).map f32.dec)
    let u := v.2.modCtx c i (fun x => { x with fflags := x.fflags ||| w64 r.flags })
    complete (if r.underflow then u.bump c 4 else u) c i l { val := w64 r.code, cnt := 127, inx := false } true = some t →
    blockDone s c i x l b = some ((b.outs.zip (if b.q = 7 then pack4 r.q else pack8 r.q)).foldl (fun s o => lateStore s c i o.1 (w64 o.2)) t) := by
  intro v r u hc
  unfold blockDone
  dsimp only
  refine (congrArg _ hc).trans ?_
  rw [hb]
  rfl

section
variable {c i idx : Nat} {s : State} {l : LoadReq} (hl : (s.ctx c i).loads[idx]? = some l) (hr : replyReady (s.core c) (s.ctx c i) l = true)
include hl hr

theorem loadReply_fault {f : TrapInfo} (hf : replyFault s c (s.ctx c i) l = some f) :
    exec (.loadReply c i idx) s = .next (blockFault s c i (s.ctx c i) l f).draw.2 := by
  show execLoadReply c i idx s = _
  unfold execLoadReply
  simp only [hl, hr, hf, Bool.not_true, Bool.false_eq_true, if_false]

theorem loadReply_block {b : Block} (hk : l.kind = .qblk b) (hf : replyFault s c (s.ctx c i) l = none) :
    exec (.loadReply c i idx) s = .next ((blockDone s c i (s.ctx c i) l b).getD s) := by
  show execLoadReply c i idx s = _
  unfold execLoadReply
  simp only [hl, hr, hf, hk, Bool.not_true, Bool.false_eq_true, if_false]

end

/-! ### Issue (R419) -/

/-- Room for the stores of a block: they count from issue on (log 66). -/
theorem blockRoom_free {e : Env} {s : State} {outs : List Loc} (hS : (s.ctx e.core e.slot).nS + outs.length ≤ 63)
    (hj : (s.core e.core).journal.length + (s.core e.core).promised + (outs.filter (fun l => l.win == .rem)).length ≤ 64) :
    blockRoom outs e s = .ok ((), s.modCtx e.core e.slot (fun x => { x with nS := x.nS + outs.length })) := by
  unfold blockRoom
  rw [M.bind_ok (M.me_run e s), M.bind_ok (M.myCore_run e s), M.if_neg_run (by omega), M.if_neg_run (by omega)]
  rfl

/-- The request of a `qblk` that is issued by context e at s: its reads, its stores with their order numbers, and whether its context waits for it. -/
def blockReq (e : Env) (d : RegF) (q : Nat) (srcs outs : List Loc) (vals : List Nat) (app : Option (Option Append)) (s : State) : LoadReq :=
  let n := (s.ctx e.core e.slot).seq
  { seq := n, pc := e.tpc, next := e.pc + 4, rd := d.toNat
    kind := .qblk { body := false, q := q, srcs := if vals.isEmpty then srcs.map (fun l => (l.place, l.ptr)) else [], vals := vals
                    outs := outs.mapIdx (fun j l => { place := l.place, ptr := l.ptr, size := 1, rem := l.win == .rem, seq := n + 1 + j }) }
    place := .ls e.core 0, ptr := 0, lv := 0, elect := none, waits := app.isNone && (s.ctx e.core e.slot).isPort d.toNat, app := app
    taken := takenOf e.was (s.ctx e.core e.slot) }

/-- Where its destination is ready the request is outstanding, with the order numbers of its stores behind it. -/
theorem blockRequest_ready {e : Env} {d : RegF} {q : Nat} {srcs outs : List Loc} {vals : List Nat} {s t : State} {app : Option (Option Append)}
    (hd : Ready e d s app t) (he : e.replay = none) :
    blockRequest d q srcs outs vals e s =
      (if app.isNone && (t.ctx e.core e.slot).isPort d.toNat then M.parkKeep 1 d.toNat (.reg d.toNat) else pure ()) e
        (t.modCtx e.core e.slot (fun x => { x with
          seq := (t.ctx e.core e.slot).seq + 1 + outs.length, loads := x.loads ++ [blockReq e d q srcs outs vals app t] })) := by
  have hd : readyDest d e s = .ok (app, t) := hd
  have hx : (numbered e t).ctx e.core e.slot = { t.ctx e.core e.slot with seq := (t.ctx e.core e.slot).seq + 1 } := State.ctx_modCtx_same ..
  unfold blockRequest
  rw [M.bind_ok (M.env_run e s), M.bind_ok hd, M.bind_ok (nextSeq_run e t), M.bind_ok (M.me_run e _), M.bind_ok (M.modMe_run _ e _), hx, he]
  unfold numbered
  rw [State.modCtx_modCtx]
  rfl

/-- The end of the issue slot at s whose instruction has made a request at u. -/
theorem finish_afterRequest (i : Instr) (d : RegF) (stay : Bool) (s u : State) :
    finish (doer i s) s ((if stay then M.parkKeep 1 d.toNat (.reg d.toNat) else pure ()) (doer i s) u) = .next (afterRequest (doer i s) d stay s u) := by
  cases stay <;> rfl

section
variable {i : Instr} {d a b : RegF} {q k : Nat} {s s1 s2 s3 s4 s5 s6 : State} {p o : TVal} {srcs outs : List Loc} {vals : List Nat}
  {app : Option (Option Append)}

/-- A `qblk` whose checks pass and that finds room reads what is in its core's own store, and leaves its request outstanding. -/
theorem qblk_issued (hx : exec i s = run i (qblk d a b q k) s) (hs : starts i s = true) (ha : Reads (doer i s) a (begun s) p s1)
    (hb : Reads (doer i s) b s1 o s2) (hsrcs : checkWords p.val 32 (doer i s) s2 = .ok (srcs, s3)) (houts : checkBytes o.val k (doer i s) s3 = .ok (outs, s4))
    (hL : (s4.ctx s.cur.1 s.cur.2).nL < 63) (hS : (s4.ctx s.cur.1 s.cur.2).nS + outs.length ≤ 63)
    (hj : (s4.core s.cur.1).journal.length + (s4.core s.cur.1).promised + (outs.filter (fun l => l.win == .rem)).length ≤ 64) :
    let t := (counted (doer i s) .L s4).modCtx s.cur.1 s.cur.2 (fun x => { x with nS := x.nS + outs.length })
    (if srcs.all (fun l => l.ownLs s.cur.1) then readLocs srcs (doer i s) t = .ok (vals, s5) else vals = [] ∧ s5 = t) →
    Ready (doer i s) d s5 app s6 →
    exec i s = .next (afterRequest (doer i s) d (app.isNone && (s6.ctx s.cur.1 s.cur.2).isPort d.toNat) s
      (s6.modCtx s.cur.1 s.cur.2 (fun x => { x with
        seq := (s6.ctx s.cur.1 s.cur.2).seq + 1 + outs.length, loads := x.loads ++ [blockReq (doer i s) d q srcs outs vals app s6] }))) := by
  intro t hv hd
  have hctx : (counted (doer i s) .L s4).ctx s.cur.1 s.cur.2 = { s4.ctx s.cur.1 s.cur.2 with nL := (s4.ctx s.cur.1 s.cur.2).nL + 1 } :=
    State.ctx_modCtx_same ..
  have hjournal : ((counted (doer i s) .L s4).core s.cur.1).journal = (s4.core s.cur.1).journal :=
    State.core_modCtx_keeps Core.journal (fun _ _ _ => rfl) ..
  have hpromised : ((counted (doer i s) .L s4).core s.cur.1).promised ≤ (s4.core s.cur.1).promised := promised_modCtx_le rfl
  have hroom : blockRoom outs (doer i s) (counted (doer i s) .L s4) = .ok ((), t) := by
    refine blockRoom_free ?_ ?_
    · rw [doer_core, doer_slot, hctx]
      exact hS
    · rw [doer_core, hjournal]
      omega
  rw [hx, run_starts _ hs, ← finish_afterRequest]
  refine congrArg (finish (doer i s) s) ?_
  unfold qblk
  rw [M.bind_ok (readVal_of ha), M.bind_ok (readVal_of hb), M.bind_ok hsrcs, M.bind_ok houts, M.bind_ok (raiseCnt_room (e := doer i s) (k := .L) hL),
    M.bind_ok hroom, M.bind_ok (M.env_run ..)]
  refine Eq.trans ?_ (blockRequest_ready hd rfl)
  by_cases hall : srcs.all (fun l => l.ownLs s.cur.1) = true
  · rw [if_pos hall] at hv
    rw [doer_core, M.if_pos_run hall, M.bind_ok hv]
  · rw [if_neg hall] at hv
    obtain ⟨rfl, rfl⟩ := hv
    rw [doer_core, M.if_neg_run hall, M.bind_ok (M.pure_run ..)]

end

/-- Settles O23: the issue, the reply and the stores of a block, and its code as the first that covers its largest magnitude. -/
theorem blockQuantization : Obligations.BlockQuantization := by
  unfold Obligations.BlockQuantization
  refine ⟨fun row hrow d a b s s1 s2 s3 s4 s5 s6 p o srcs outs vals app => ?_, fun c i idx s l b hl hk hr => ⟨fun t hf => ?_, fun f hf hb => ?_⟩,
    fun s c i a v => ⟨lateStore_sameMemory s c i a v, lateStore_buffered s c i a v, lateStore_journalled s c i a v⟩,
    fun q vs hq => ⟨fun h => ?_, fun h h0 => ?_, xs9_eq, fun i => quantize_le⟩⟩
  · simp only [List.mem_cons, List.not_mem_nil, or_false] at hrow
    rcases hrow with rfl | rfl <;> exact qblk_issued rfl
  · intro v r u hc hb
    rw [loadReply_block hl hr hk hf, blockDone_eq hb hc]
    rfl
  · rw [loadReply_fault hl hr hf, blockFault_eq hk hb]
  · rw [quantize_invalid h]
    exact ⟨rfl, rfl, rfl⟩
  · have hk := foldl_natAbs_rat (fun v hv => unit149_rat (h v hv)) 0 0 (by simp)
    obtain ⟨hle, hbelow, hat⟩ := firstCover_spec ((vs.map unit149).foldl (fun m u => max m u.natAbs) 0) q 0 509
    rw [quantize_code h h0]
    refine ⟨by simpa using hle, fun c hc => ?_, fun hlt => (scaleCovers_iff hk).mp (hat (by simpa using hlt))⟩
    exact not_le.mp (mt (scaleCovers_iff hk).mpr (Bool.eq_false_iff.mp (hbelow c (Nat.zero_le c) hc)))

end Sys2Proof.Machine
end

section
/-! PROOF. Tags and pointers (R141, R211, R212): what is read, and the one write that follows. -/

namespace Sys2Proof.Machine

section
variable {i : Instr} {d a : RegF} {s s1 s2 : State} {x : TVal}

/-- An instruction that reads a and writes what it makes of the value into d completes with that write. -/
theorem exec_readReg_writeReg {g : TVal → TVal} (hx : exec i s = run i (readReg a >>= fun v => writeReg d (g v)) s) (hs : starts i s = true)
    (ha : Reads (doer i s) a (begun s) x s1) (hw : Writes (doer i s) d (g x) s1 s2) : exec i s = .next (ended s s2) :=
  hx.trans (run_completes hs ((M.bind_ok ha _).trans hw))

theorem isPeer_iff {p : Word} : isPeer p = true ↔ bits p 63 56 = 0 ∧ p.getLsbD 51 = true := by
  unfold isPeer
  rw [Bool.and_eq_true, beq_iff_eq]

/-- R211: the validity that `spc` reports is that of the state behind its read. -/
theorem spc_completes {p : TVal} (hs : starts (.spc d a) s = true) (ha : Reads (doer (.spc d a) s) a (begun s) p s1)
    (hw : Writes (doer (.spc d a) s) d
      (TVal.int (w64 (bits p.val 63 56 + (if ptrValid s1 s.cur.1 (s1.ctx s.cur.1 s.cur.2).pvbase p.val then 256 else 0) +
        (if isPeer p.val then 512 else 0)))) s1 s2) : exec (.spc d a) s = .next (ended s s2) := by
  refine run_completes hs ?_
  rw [M.bind_ok (readVal_of ha), M.bind_ok (M.env_run ..), M.bind_ok (M.me_run ..), M.bind_ok (M.state_run ..)]
  exact hw

/-- R212: a conversion reads the pointer and writes it converted, or 0. -/
theorem convert_run {target : Nat} {src : List Nat} {f : Nat → Ctx → Word → Word} {e : Env} {p : TVal} (ha : Reads e a s p s1) :
    let x := s1.ctx e.core e.slot
    let w := bits p.val 63 56
    let r := if w = target then p.val else f e.core x p.val
    convert d a target src f e s =
      writeInt d (if (w = target ∨ src.contains w = true) ∧ ptrValid s1 e.core x.pvbase r = true then r else 0) e s1 := by
  intro x w r
  unfold convert
  rw [M.bind_ok (readVal_of ha), M.bind_ok (M.env_run ..), M.bind_ok (M.me_run ..), M.bind_ok (M.state_run ..)]
  by_cases h : (w = target ∨ src.contains w = true) ∧ ptrValid s1 e.core x.pvbase r = true
  · exact (M.if_pos_run h ..).trans (by rw [if_pos h])
  · exact (M.if_neg_run h ..).trans (by rw [if_neg h])

end

/-- Settles O5: each of these instructions reads xa once and writes xd once, with a value of what is read and of the state behind the read. -/
theorem tagsAndPointers : Obligations.TagsAndPointers := by
  unfold Obligations.TagsAndPointers
  refine ⟨fun d a s s1 s2 x hs ha hw => ?_, fun d a n s s1 s2 x hs ha hw => ?_, fun d a s s1 s2 p hs ha hw => ?_,
    fun row hrow d a s s1 s2 p hs ha => ?_⟩
  · exact exec_readReg_writeReg (g := fun v => TVal.int (w64 (v.cnt.toNat + if v.inx then 128 else 0))) rfl hs ha hw
  · exact exec_readReg_writeReg (g := fun v => { val := v.val, cnt := n, inx := false }) rfl hs ha hw
  · simp only [← isPeer_iff] at hw
    exact spc_completes hs ha hw
  · simp only [List.mem_cons, List.not_mem_nil, or_false] at hrow
    rcases hrow with rfl | rfl | rfl <;> exact fun hw => run_completes hs ((convert_run ha).trans hw)

end Sys2Proof.Machine
end

section
/-! PROOF. `pass`, and `take` with its answers (R171, R203, R204, R416, R447). -/

namespace Sys2Proof.Machine

theorem waitPerformed_done {e : Env} {s : State} (h : performed e s = true) : waitPerformed e s = .ok ((), s) := by
  unfold waitPerformed
  rw [M.bind_ok (M.me_run e s), M.bind_ok (M.myCore_run e s), M.if_neg_run]
  · rfl
  · rw [show allPerformed (s.core e.core) (s.ctx e.core e.slot) (s.ctx e.core e.slot).seq = true from h]
    decide

/-! ### `pass` -/

/-- The slots that a mask names. -/
def maskSlots (m : Nat) : List Nat := (List.range 4).filter (fun j => m / 2 ^ j % 2 == 1)

/-- A chain-mode context with a binding publishes slots that are not published, once its accesses have performed. -/
theorem passBody_publishes {m : Nat} {e : Env} {s t : State} {x : Ctx} {vs : List (Nat × TVal)} (hx : s.ctx e.core e.slot = x) (hc : x.chain = true)
    (hb : x.carry.isSome = true) (hi : x.inl = []) (hv : slotValues x (maskSlots m) e s = .ok (vs, t)) (ho : ∀ j ∈ maskSlots m, j ∈ openSlots t x)
    (hp : performed e t = true) : passBody m e s = .ok ((), publishBy t x.uid x.run (t.ctx e.core e.slot).index vs) := by
  have hmode : ¬(x.chain = false ∨ x.carry = none ∨ x.inl ≠ []) := by
    simp [hc, Option.isSome_iff_ne_none.mp hb, hi]
  have hnone : (maskSlots m).filter (fun j => !(openSlots t x).contains j) = [] := by
    simpa [List.filter_eq_nil_iff] using ho
  unfold passBody
  rw [M.bind_ok (M.me_run e s), M.bind_ok (M.env_run e s), hx, M.if_neg_run hmode]
  unfold maskSlots at hv hnone
  rw [M.bind_ok hv, M.bind_ok (M.state_run e t), M.if_neg_run (by rw [hnone]; decide), M.bind_ok (waitPerformed_done hp)]
  rfl

/-! ### `take` -/

/-- The dispensers have these requests. -/
def State.withTakes (s : State) (l : List (Nat × Nat × Nat × Nat × Nat)) : State := { s with takes := l }

theorem rotate_withTakes (c i : Nat) (s : State) (l : List (Nat × Nat × Nat × Nat × Nat)) : rotate c i (s.withTakes l) = (rotate c i s).withTakes l := by
  unfold rotate
  rw [apply_ite (fun t : State => t.withTakes l)]
  rfl

theorem clearFault_withTakes (c i : Nat) (s : State) (l : List (Nat × Nat × Nat × Nat × Nat)) :
    clearFault c i (s.withTakes l) = (clearFault c i s).withTakes l := by
  unfold clearFault
  rw [apply_ite (fun t : State => t.withTakes l)]
  rfl

theorem afterRequest_withTakes (e : Env) (d : RegF) (stay : Bool) (s u : State) (l : List (Nat × Nat × Nat × Nat × Nat)) :
    afterRequest e d stay s (u.withTakes l) = (afterRequest e d stay s u).withTakes l := by
  cases stay with
  | true => rfl
  | false =>
    show ended s (u.withTakes l) = (ended s u).withTakes l
    unfold ended
    rw [clearFault_withTakes, rotate_withTakes]

/-- Where its destination is ready, the request of a `take` is outstanding and its square's dispenser has it. -/
theorem request_take {d : RegF} {r : Nat} {l : Loc} {e : Env} {s t : State} {app : Option (Option Append)} (hd : Ready e d s app t) (he : e.elect = false) :
    let x := t.ctx e.core e.slot
    let stay := app.isNone && x.isPort d.toNat
    request d (.take r) l false e s = (if stay then M.parkKeep 1 d.toNat (.reg d.toNat) else pure ()) e
      ((pended e d (.take r) l app stay t).withTakes (t.takes ++ [(e.core, e.slot, x.uid, r, x.seq)])) := by
  have hd : readyDest d e s = .ok (app, t) := hd
  have hx : (numbered e t).ctx e.core e.slot = { t.ctx e.core e.slot with seq := (t.ctx e.core e.slot).seq + 1 } := State.ctx_modCtx_same ..
  unfold request
  rw [M.bind_ok (M.env_run e s), M.bind_ok hd, M.bind_ok (nextSeq_run e t), M.bind_ok (M.me_run e _), M.bind_ok (M.modMe_run _ e _), hx, he]
  rfl

/-- A `take` leaves its request outstanding, and the square's dispenser has it. -/
theorem take_requested {d : RegF} {s s1 : State} {app : Option (Option Append)} (hs : starts (.take d) s = true)
    (hd : Ready (doer (.take d) s) d (begun s) app s1) :
    let e := doer (.take d) s
    let x := s1.ctx e.core e.slot
    exec (.take d) s = .next ((requested e d (.take s.who.run) { place := .ls e.core 0, ptr := 0, win := .loc, size := 8 } app false s s1).withTakes
      (s1.takes ++ [(e.core, e.slot, x.uid, s.who.run, x.seq)])) := by
  intro e x
  have hrun : ((begun s).ctx e.core e.slot).run = s.who.run := ctx_begun_keeps Ctx.run (fun _ _ => rfl) ..
  refine (run_starts (bodyTake d) hs).trans ?_
  unfold bodyTake
  rw [M.bind_ok (M.env_run ..), M.bind_ok (M.me_run ..), hrun, request_take hd rfl, finish_afterRequest, afterRequest_withTakes]
  rfl

/-! ### The answer of the dispenser -/

section
variable {pools : List (Nat × Nat × Nat)} {q a b : Nat}

/-- A square whose own pool holds tiles gives its first. -/
theorem takeTile_own (h : pools.find? (fun p => p.1 == q) = some (q, a, b)) (hab : a < b) : takeTile pools q = (some a, setPool pools q (a + 1) b) := by
  have h : pools.find? (fun (p, _, _) => p == q) = some (q, a, b) := h
  unfold takeTile
  rw [h]
  exact if_pos hab

theorem fullest_empty (ok : Nat → Bool) (h : ∀ p ∈ pools, p.2.2 ≤ p.2.1) : fullest pools ok = none := by
  unfold fullest
  induction pools with
  | nil => rfl
  | cons p l ih =>
    obtain ⟨q, a, b⟩ := p
    have hab : ¬a < b := not_lt.mpr (h _ (List.mem_cons_self ..))
    rw [List.foldl_cons]
    simp only [hab, decide_false, Bool.and_false, Bool.false_eq_true, ↓reduceIte]
    exact ih fun p hp => h p (List.mem_cons_of_mem _ hp)

/-- With no tile in any pool there is none to give. -/
theorem takeTile_empty (h : ∀ p ∈ pools, p.2.2 ≤ p.2.1) : takeTile pools q = (none, pools) := by
  unfold takeTile
  split
  · rw [fullest_empty _ h]
  · next a b hp =>
    have hab : ¬a < b := not_lt.mpr (h _ (List.mem_of_find?_eq_some hp))
    rw [if_neg hab, fullest_empty _ h, fullest_empty _ h]

end

/-- The first request in its square completes with the tile that the dispenser gives, or with −1. -/
theorem takeAnswer_completes {n c i uid r seq : Nat} {s t : State} {l : LoadReq} {y : Run} {tile : Option Nat} {pools : List (Nat × Nat × Nat)}
    (hn : s.takes[n]? = some (c, i, uid, r, seq)) (hfirst : ∀ w ∈ s.takes.take n, serveSquare w.1 ≠ serveSquare c) (hu : (s.ctx c i).uid = uid)
    (hl : (s.ctx c i).loads.find? (fun m => m.seq == seq) = some l) (hp : portShut s (s.ctx c i) l.rd l.app = false) (hy : s.run? r = some y)
    (ht : takeTile y.pools (serveSquare c) = (tile, pools))
    (hc : complete (({ s with takes := without s.takes n } : State).modRun r (fun z => { z with pools := pools })) c i l
      (TVal.int (tile.elim (-1) w64)) false = some t) :
    exec (.takeAnswer n) s = .next t := by
  have hfirst : (s.takes.take n).any (fun (d, _) => serveSquare d == serveSquare c) = false := by
    simpa [List.any_eq_false] using fun d i u r q h => hfirst (d, i, u, r, q) h
  unfold without at hc
  show execTakeAnswer n s = _
  unfold execTakeAnswer
  cases tile <;> simp only [Option.elim] at hc <;> simp only [hn, hfirst, hy, ht, hu, hl, hp, hc, Bool.false_eq_true, ↓reduceIte]

/-- Settles O36: `pass` publishes the slots of its mask, `take` asks its square's dispenser, and the answer is a tile or −1. -/
theorem passAndTake : Obligations.PassAndTake := by
  unfold Obligations.PassAndTake
  refine ⟨?_, fun d s s1 app hs hd => take_requested hs hd, fun n c i uid r seq s t l y hn hfirst hu hl hp hy => ⟨fun a b hf hab hc => ?_, fun he hc => ?_⟩⟩
  · intro m s s1 vs i e x want hs hch hca hi hv ho hp item
    exact run_completes hs (passBody_publishes (m := m.toNat) (x := { x with pc := x.pc + 4, wait := none }) (begun_who s) hch hca hi hv ho hp)
  · exact takeAnswer_completes hn hfirst hu hl hp hy (takeTile_own hf hab) hc
  · exact takeAnswer_completes hn hfirst hu hl hp hy (takeTile_empty he) hc

end Sys2Proof.Machine
end

section
/-! PROOF. The end of a context (R148, R151, R169, R192) in its parts: it ends no byte of memory, and leaves its context draining, out of the rotation. -/

namespace Sys2Proof.Machine

/-! ### The parts -/

/-- A record that the context has taken and not yet handed on goes on its way (R162). -/
def handedOver (x : Ctx) (c : Nat) (s : State) : State :=
  match x.ship with
  | some (d, ws) => if !x.landing && ws.length == 9 then { s with ships := s.ships ++
      [({ words := ws.take 8, dest := d, src := 0, tenant := x.tenant, sender := c, front := SMap.get s.ord.fronts x.uid {} } : Shipment)] } else s
  | none => s

/-- What a context that ends holds from then on. -/
def endedCtx (kind : EndKind) (y : Ctx) : Ctx :=
  { y with
    state := .draining, wait := none, body := none, mtrap := none, bwait := none, taken := {}, packet := none, fill := [], results := [], ship := none,
    held := [], recC := false, recQ := false, inl := [], ended := some kind,
    loads := y.loads.filter (fun l => match l.kind with | .one _ _ => false | .amo _ _ _ => false | .cas _ _ _ => false | .smpw _ _ _ _ => false | _ => true),
    nQ := y.nQ - (y.loads.filter (fun l => match l.kind with | .smpw _ _ _ _ => true | _ => false)).length,
    nL := y.nL - (y.loads.filter (fun l => match l.kind with | .amo _ _ _ => true | .cas _ _ _ => true | _ => false)).length
    nS := y.nS - storesOf (y.loads.filter (fun l => match l.kind with
      | .one _ _ => true | .amo _ _ _ => true | .cas _ _ _ => true | _ => false)) }

/-- The context leaves its elections; killed, it gives up its inline run and its commands that have not started. -/
def endBefore (kind : EndKind) (x : Ctx) (c i : Nat) (s : State) : State :=
  if kind = .exited then leaveElections s c i else endInline (dropUnstarted (leaveElections s c i) c i) x

/-- The context drains, out of the rotation, with no refusal left to raise. -/
def endSlot (kind : EndKind) (x : Ctx) (c i : Nat) (s : State) : State :=
  (s.modCtx c i (endedCtx kind)).modCore c
    (fun k => { (k.leaveRot i).dropJrec x.uid with rounds := k.rounds.filter (fun r => r.uid != x.uid) })

/-- Its gang knows how it ended, and its barriers wait for it no more. -/
def endMember (kind : EndKind) (x : Ctx) (s : State) : State :=
  match x.gang with
  | none => s
  | some g => recheckBars (s.modGang g (fun y => { y with
      lastEnd := if x.landing then y.lastEnd else some kind
      lastChain := if x.chain then some kind else y.lastChain })) g

/-- A context that is neither free nor draining ends in these parts. -/
theorem endCtx_live {kind : EndKind} {s : State} {c i : Nat} (hf : (s.ctx c i).state ≠ .free) (hd : (s.ctx c i).state ≠ .draining) :
    endCtx kind s c i =
      endMember kind (s.ctx c i) (endSlot kind (s.ctx c i) c i (handedOver (s.ctx c i) c (endBefore kind (s.ctx c i) c i s))) := by
  unfold endCtx
  exact if_neg fun h => h.elim hf hd

theorem endCtx_gone {kind : EndKind} {s : State} {c i : Nat} (h : (s.ctx c i).state = .free ∨ (s.ctx c i).state = .draining) : endCtx kind s c i = s := by
  unfold endCtx
  exact if_pos h

/-! ### No byte of memory changes -/

/-- The last of two steps first: what it starts from is read off the goal. -/
theorem SameStores.after {s t u : State} (g : SameStores t u) (h : SameStores s t) : SameStores s u := h.trans g

theorem SameStores.foldl {α : Type} {f : State → α → State} (h : ∀ s a, SameStores s (f s a)) (l : List α) (s : State) : SameStores s (l.foldl f s) := by
  induction l generalizing s with
  | nil => exact .refl s
  | cons a l ih => exact (h s a).trans (ih (f s a))

/-- Cores that are the same, and memories. -/
theorem SameStores.of_cores {s t : State} (hc : t.cores = s.cores) (hh : t.hbm = s.hbm) (hm : t.hostMem = s.hostMem) : SameStores s t :=
  ⟨hh, hm, fun c => by unfold State.core; rw [hc]⟩

theorem leaveElections_sameStores (s : State) (c i : Nat) : SameStores s (leaveElections s c i) := by
  unfold leaveElections
  dsimp only
  split
  · exact .refl s
  · exact .of_cores rfl rfl rfl

theorem dropUnstarted_sameStores (s : State) (c i : Nat) : SameStores s (dropUnstarted s c i) := by
  unfold dropUnstarted
  refine (SameStores.modCore ?_).after ((SameStores.modCtx _ c i _).after (.of_cores rfl rfl rfl))
  rfl

theorem endInline_sameStores (s : State) (x : Ctx) : SameStores s (endInline s x) := by
  unfold endInline
  refine SameStores.foldl ?_ x.inl s
  exact fun _ _ => .of_cores rfl rfl rfl

theorem endBefore_sameStores (kind : EndKind) (x : Ctx) (c i : Nat) (s : State) : SameStores s (endBefore kind x c i s) := by
  unfold endBefore
  split
  · exact leaveElections_sameStores s c i
  · exact ((leaveElections_sameStores s c i).trans (dropUnstarted_sameStores _ c i)).trans (endInline_sameStores _ x)

theorem handedOver_sameStores (x : Ctx) (c : Nat) (s : State) : SameStores s (handedOver x c s) := by
  unfold handedOver
  split
  · split
    · exact .of_cores rfl rfl rfl
    · exact .refl s
  · exact .refl s

theorem Core.dropJrec_keeps {β : Type} (p : Core → β) (hp : ∀ k r, p { k with jrec := r } = p k) (k : Core) (uid : Nat) : p (k.dropJrec uid) = p k := by
  unfold Core.dropJrec
  split
  · split
    · exact hp k _
    · rfl
  · rfl

/-- What the end of a context in its core changes of the core. -/
theorem endSlot_core_keeps {β : Type} (p : Core → β) (hx : ∀ k j y, p (Core.setCtx k j y) = p k) (hr : ∀ k l, p { k with rot := l } = p k)
    (hj : ∀ k r, p { k with jrec := r } = p k) (ho : ∀ k l, p { k with rounds := l } = p k) (kind : EndKind) (x : Ctx) (c i : Nat) (s : State) (d : Nat) :
    p ((endSlot kind x c i s).core d) = p (s.core d) := by
  unfold endSlot
  refine (State.core_modCore_keeps p ?_ d).trans (State.core_modCtx_keeps p hx s c i _ d)
  rw [ho, Core.dropJrec_keeps p hj]
  exact hr _ _

theorem endSlot_sameStores (kind : EndKind) (x : Ctx) (c i : Nat) (s : State) : SameStores s (endSlot kind x c i s) :=
  ⟨rfl, rfl, endSlot_core_keeps Core.store (fun _ _ _ => rfl) (fun _ _ => rfl) (fun _ _ => rfl) (fun _ _ => rfl) kind x c i s⟩

/-! ### Barriers are tested again: a context's observed phases are all that changes of it -/

/-- Memory and the rotations are the same, and of every context all but the phases that it has observed. -/
structure ChangesObs (s t : State) : Prop where
  stores : SameStores s t
  rot : ∀ d, (t.core d).rot = (s.core d).rot
  ctx : ∀ d j, ∃ o, t.ctx d j = { s.ctx d j with obs := o }

namespace ChangesObs

theorem refl (s : State) : ChangesObs s s := ⟨.refl s, fun _ => rfl, fun _ _ => ⟨_, rfl⟩⟩

theorem trans {s t u : State} (h : ChangesObs s t) (g : ChangesObs t u) : ChangesObs s u := by
  refine ⟨h.stores.trans g.stores, fun d => (g.rot d).trans (h.rot d), fun d j => ?_⟩
  obtain ⟨o, ho⟩ := h.ctx d j
  obtain ⟨p, hp⟩ := g.ctx d j
  exact ⟨p, by rw [hp, ho]⟩

/-- The last of two steps first: what it starts from is read off the goal. -/
theorem after {s t u : State} (g : ChangesObs t u) (h : ChangesObs s t) : ChangesObs s u := h.trans g

theorem of_cores {s t : State} (hc : t.cores = s.cores) (hh : t.hbm = s.hbm) (hm : t.hostMem = s.hostMem) : ChangesObs s t :=
  ⟨.of_cores hc hh hm, fun d => by unfold State.core; rw [hc], fun d j => ⟨_, by unfold State.ctx State.core; rw [hc]⟩⟩

theorem modCtx (s : State) (c i : Nat) (o : Ctx → SMap (BitVec 32)) : ChangesObs s (s.modCtx c i (fun y => { y with obs := o y })) := by
  refine ⟨.modCtx s c i _, State.core_modCtx_keeps Core.rot (fun _ _ _ => rfl) s c i _, fun d j => ?_⟩
  rw [State.ctx_modCtx]
  split
  · next h => exact ⟨_, by rw [h.1, h.2]⟩
  · exact ⟨_, rfl⟩

end ChangesObs

theorem observeParked_changesObs (s : State) (n : Nat) (done : BitVec 32) (l : List (Nat × Nat × Ctx)) : ChangesObs s (observeParked s n done l) := by
  induction l generalizing s with
  | nil => exact .refl s
  | cons a l ih =>
    obtain ⟨c, i, x⟩ := a
    unfold observeParked
    refine (ih _).after ?_
    split
    · exact ChangesObs.modCtx s c i _
    · exact .refl s

theorem completeBar_changesObs (g n f : Nat) (s : State) : ChangesObs s (completeBar g n f s) := by
  induction f generalizing s with
  | zero => exact .refl s
  | succ f ih =>
    unfold completeBar
    split
    · exact .refl s
    · dsimp only
      split
      · exact .refl s
      · exact (ih _).after ((observeParked_changesObs _ _ _ _).after (.of_cores rfl rfl rfl))

theorem recheckBars_changesObs (s : State) (g : Nat) : ChangesObs s (recheckBars s g) := by
  unfold recheckBars
  generalize List.range 8 = l
  induction l generalizing s with
  | nil => exact .refl s
  | cons n l ih => exact (ih _).after (completeBar_changesObs g n 2 s)

theorem endMember_changesObs (kind : EndKind) (x : Ctx) (s : State) : ChangesObs s (endMember kind x s) := by
  unfold endMember
  split
  · exact .refl s
  · exact (recheckBars_changesObs _ _).after (.of_cores rfl rfl rfl)

/-! ### What the end leaves -/

theorem endCtx_sameStores (kind : EndKind) (s : State) (c i : Nat) : SameStores s (endCtx kind s c i) := by
  by_cases h : (s.ctx c i).state = .free ∨ (s.ctx c i).state = .draining
  · rw [endCtx_gone h]
    exact .refl s
  · rw [not_or] at h
    rw [endCtx_live h.1 h.2]
    exact (endMember_changesObs _ _ _).stores.after ((endSlot_sameStores _ _ c i _).after
      ((handedOver_sameStores _ c _).after (endBefore_sameStores _ _ c i s)))

/-- A context that ends drains, ended as it did, and leaves its core's rotation. -/
theorem endCtx_drains {kind : EndKind} {s : State} {c i : Nat} (hf : (s.ctx c i).state ≠ .free) (hd : (s.ctx c i).state ≠ .draining) :
    ((endCtx kind s c i).ctx c i).state = .draining ∧ ((endCtx kind s c i).ctx c i).ended = some kind ∧ i ∉ ((endCtx kind s c i).core c).rot := by
  rw [endCtx_live hf hd]
  generalize handedOver (s.ctx c i) c (endBefore kind (s.ctx c i) c i s) = u
  have hslot : (endSlot kind (s.ctx c i) c i u).ctx c i = endedCtx kind (u.ctx c i) := by
    unfold endSlot
    rw [State.ctx_modCore (Core.dropJrec_keeps Core.ctxs (fun _ _ => rfl) _ _), State.ctx_modCtx_same]
  have hrot : i ∉ ((endSlot kind (s.ctx c i) c i u).core c).rot := by
    unfold endSlot
    rw [State.core_modCore_same]
    dsimp only
    rw [Core.dropJrec_keeps Core.rot (fun _ _ => rfl)]
    simp [Core.leaveRot]
  have hbars := endMember_changesObs kind (s.ctx c i) (endSlot kind (s.ctx c i) c i u)
  obtain ⟨o, ho⟩ := hbars.ctx c i
  rw [ho, hbars.rot c, hslot]
  exact ⟨rfl, rfl, hrot⟩

end Sys2Proof.Machine
end

section
/-! PROOF. `exit`, `ctxkill` and the end of a drained context (R148, R151, R169, R173, R374). -/

namespace Sys2Proof.Machine

/-! ### A landing may end (R392) -/

theorem waitDrained_drained {e : Env} {s : State} (h : (s.ctx e.core e.slot).drained = true) : waitDrained e s = .ok ((), s) := by
  unfold waitDrained
  rw [M.bind_ok (M.me_run e s), M.if_pos_run h]
  rfl

/-- With no failure record of the context there is none to raise. -/
theorem raisePending_none {e : Env} {s : State} (hc : (s.ctx e.core e.slot).recC = false) (hq : (s.ctx e.core e.slot).recQ = false)
    (hr : (s.core e.core).myRefusal e.slot (s.ctx e.core e.slot) = none) : raisePending true true true e s = .ok ((), s) := by
  unfold raisePending
  rw [M.bind_ok (M.me_run e s), M.bind_ok (M.myCore_run e s), M.bind_ok (M.env_run e s), M.if_neg_run (by rw [hc]; decide),
    M.if_neg_run (by rw [hq]; decide), if_pos rfl, hr]
  rfl

theorem landingMayEnd_iff (e : Env) (s : State) : landingMayEnd e s = true ↔ (s.ctx e.core e.slot).drained = true ∧
    (s.ctx e.core e.slot).recC = false ∧ (s.ctx e.core e.slot).recQ = false ∧ (s.core e.core).myRefusal e.slot (s.ctx e.core e.slot) = none ∧
    performed e s = true := by
  simp [landingMayEnd, Option.isNone_iff_eq_none, and_assoc]

theorem landingEnd_may {e : Env} {s : State} (h : landingMayEnd e s = true) : landingEnd e s = .ok ((), s) := by
  obtain ⟨hd, hc, hq, hr, hp⟩ := (landingMayEnd_iff e s).mp h
  unfold landingEnd
  rw [M.bind_ok (waitDrained_drained hd), M.bind_ok (raisePending_none hc hq hr)]
  exact waitPerformed_done hp

/-! ### `exit` -/

/-- Whatever waits for the run's end will have seen what the context has (R245). -/
def handsOn (x : Ctx) (s : State) : State := s.joinChan (.ended x.run) (s.front x.uid)

theorem handsOn_sameStores (x : Ctx) (s : State) : SameStores s (handsOn x s) := .of_cores rfl rfl rfl

theorem begun_sameStores (s : State) : SameStores s (begun s) := by
  unfold begun advance
  exact .modCtx s _ _ _

section
variable {e : Env} {s : State} (hb : (s.ctx e.core e.slot).replaying = false) (hi : (s.ctx e.core e.slot).inl = [])
include hb hi

/-- Outside a landing and with no chain mode, `exit` ends its context. -/
theorem exitBody_ends (hl : (s.ctx e.core e.slot).hasRec = false) (hc : (s.ctx e.core e.slot).chain = false) :
    exitBody e s = .ok ((), endCtx .exited (handsOn (s.ctx e.core e.slot) s) e.core e.slot) := by
  unfold exitBody
  rw [M.bind_ok (M.me_run e s), M.bind_ok (M.env_run e s), M.if_neg_run (by rw [hb]; decide), hi]
  dsimp only
  rw [M.if_neg_run (by rw [hl, Bool.and_false]; decide), M.bind_ok (M.state_run e s)]
  simp only [hc, Bool.false_and, Bool.false_eq_true, ↓reduceIte]
  rfl

/-- In a landing whose work is done, `exit` ends the landing. -/
theorem exitBody_endsLanding (hl : (s.ctx e.core e.slot).landing = true) (hr : (s.ctx e.core e.slot).hasRec = true) (hm : landingMayEnd e s = true) :
    exitBody e s = .ok ((), endLanding s e.core e.slot) := by
  obtain ⟨hd, hc, hq, hf, -⟩ := (landingMayEnd_iff e s).mp hm
  unfold exitBody
  rw [M.bind_ok (M.me_run e s), M.bind_ok (M.env_run e s), M.if_neg_run (by rw [hb]; decide), hi]
  dsimp only
  rw [M.if_pos_run (by rw [hl, hr]; decide), M.bind_ok (waitDrained_drained hd), M.bind_ok (raisePending_none hc hq hf)]
  rfl

end

/-! ### `ctxkill` (R151) -/

section
variable {a : RegF} {e : Env} {s s1 : State} {v : TVal} (ha : Reads e a s v s1)
include ha

/-- A slot that the core has not, or that is free, is left alone. -/
theorem ctxkillBody_free (h : (s1.core e.core).slots ≤ bits v.val 5 0 ∨ ((s1.core e.core).ctx (bits v.val 5 0)).state = .free) :
    ctxkillBody a e s = .ok ((), s1) := by
  unfold ctxkillBody
  rw [M.bind_ok (readVal_of ha), M.bind_ok (M.env_run ..), M.bind_ok (M.me_run ..), M.bind_ok (M.myCore_run ..)]
  exact M.if_pos_run h ..

variable (hi : bits v.val 5 0 < (s1.core e.core).slots) (hf : ((s1.core e.core).ctx (bits v.val 5 0)).state ≠ .free)
include hi hf

/-- What is asked of a context that is there. -/
theorem ctxkillBody_there : let y := (s1.core e.core).ctx (bits v.val 5 0)
    let x := s1.ctx e.core e.slot
    ctxkillBody a e s = (if x.level = 0 ∧ (y.gang ≠ x.gang ∨ y.tenant ≠ x.tenant) then M.trap 0x09 0 1
      else M.modify (fun t => endCtx .killed t e.core (bits v.val 5 0))) e s1 := by
  unfold ctxkillBody
  rw [M.bind_ok (readVal_of ha), M.bind_ok (M.env_run ..), M.bind_ok (M.me_run ..), M.bind_ok (M.myCore_run ..)]
  exact M.if_neg_run (fun h => h.elim (Nat.not_le.mpr hi) hf) ..

end

/-! ### The rotation at the end of an issue slot -/

/-- Only the issuer can join its core's rotation, where it is still ready. -/
theorem mem_rot_ended {s t : State} {d j : Nat} (h : j ∈ ((ended s t).core d).rot) :
    j ∈ (t.core d).rot ∨ (d = s.cur.1 ∧ j = s.cur.2 ∧ (t.ctx s.cur.1 s.cur.2).state = .ready) := by
  have hs : ((clearFault s.cur.1 s.cur.2 t).ctx s.cur.1 s.cur.2).state = (t.ctx s.cur.1 s.cur.2).state :=
    ctx_clearFault_keeps Ctx.state (fun _ => rfl) ..
  have hr : ((clearFault s.cur.1 s.cur.2 t).core d).rot = (t.core d).rot := by
    unfold clearFault
    split
    · exact State.core_modCtx_keeps Core.rot (fun _ _ _ => rfl) ..
    · rfl
  unfold ended rotate at h
  split at h
  · next hready =>
    rw [State.core_modCore] at h
    split at h
    · next hd =>
      subst hd
      rcases List.mem_append.mp h with h | h
      · exact .inl (hr ▸ (List.mem_filter.mp h).1)
      · exact .inr ⟨rfl, List.mem_singleton.mp h, hs.symm.trans hready⟩
    · exact .inl (hr ▸ h)
  · rw [State.core_modCore] at h
    split at h
    · next hd =>
      subst hd
      exact .inl (hr ▸ (List.mem_filter.mp h).1)
    · exact .inl (hr ▸ h)

/-- After an issue slot that ended a context of its core, the context drains, out of the rotation, and no byte of memory has changed. -/
theorem ended_endCtx {kind : EndKind} {s u : State} {i : Nat} (hf : (u.ctx s.cur.1 i).state ≠ .free) (hd : (u.ctx s.cur.1 i).state ≠ .draining) :
    let t := ended s (endCtx kind u s.cur.1 i)
    (t.ctx s.cur.1 i).state = .draining ∧ (t.ctx s.cur.1 i).ended = some kind ∧ i ∉ (t.core s.cur.1).rot ∧ sameMemory u t := by
  obtain ⟨hst, hend, hrot⟩ := endCtx_drains (kind := kind) hf hd
  refine ⟨(ctx_ended_keeps Ctx.state (fun _ => rfl) ..).trans hst, (ctx_ended_keeps Ctx.ended (fun _ => rfl) ..).trans hend, fun h => ?_,
    ((endCtx_sameStores kind u s.cur.1 i).trans (SameStores.ended s _)).sameMemory⟩
  rcases mem_rot_ended h with h | ⟨-, rfl, hready⟩
  · exact hrot h
  · exact absurd (hst.symm.trans hready) (by decide)

/-! ### A drained context (R148, R189) -/

theorem State.core_modOrd (s : State) (f : Order → Order) (d : Nat) : (s.modOrd f).core d = s.core d := rfl

/-- Only semaphores and their channels change when the last context that shares them is free. -/
theorem clearSems_core_keeps {β : Type} (p : Core → β) (hp : ∀ k m, p { k with sems := m } = p k) (s : State) (c tenant d : Nat) :
    p ((clearSems s c tenant).core d) = p (s.core d) := by
  unfold clearSems
  dsimp only
  split
  · rfl
  · rw [State.core_modOrd]
    exact State.core_modCore_keeps p (hp _ _) d

theorem freeCtx_core_keeps {β : Type} (p : Core → β) (hx : ∀ k j y, p (Core.setCtx k j y) = p k) (hp : ∀ k m, p { k with sems := m } = p k)
    (s : State) (c i d : Nat) : p ((freeCtx s c i).core d) = p (s.core d) :=
  (clearSems_core_keeps p hp ..).trans (State.core_modCore_keeps p (hx _ _ _) d)

theorem freeCtx_ctx (s : State) (c i d j : Nat) : (freeCtx s c i).ctx d j = if d = c ∧ j = i then Ctx.reset else s.ctx d j :=
  (congrArg (fun m => SMap.get m j Ctx.reset) (clearSems_core_keeps Core.ctxs (fun _ _ => rfl) ..)).trans (State.ctx_modCtx s c i d j fun _ => Ctx.reset)

theorem freeCtx_sameStores (s : State) (c i : Nat) : SameStores s (freeCtx s c i) where
  hbm := by unfold freeCtx clearSems; dsimp only; split <;> rfl
  hostMem := by unfold freeCtx clearSems; dsimp only; split <;> rfl
  store := freeCtx_core_keeps Core.store (fun _ _ _ => rfl) (fun _ _ => rfl) s c i

theorem contextDrainEnd_frees {c i : Nat} {s : State} (hd : (s.ctx c i).state = .draining) (hl : (s.ctx c i).nL = 0) (hm : (s.ctx c i).nM = 0)
    (hq : (s.ctx c i).nQ = 0) (hc : (s.ctx c i).copyQ = []) : exec (.contextDrainEnd c i) s = .next (freeCtx s c i) := by
  show execContextDrainEnd c i s = _
  unfold execContextDrainEnd
  rw [if_pos (by simp [Ctx.drainDone, hd, hl, hm, hq, hc])]

/-- Settles O34: `exit` and `ctxkill` end a context through `endCtx`, and a drained context becomes a free slot. -/
theorem contextsEnd : Obligations.ContextsEnd := by
  unfold Obligations.ContextsEnd
  refine ⟨fun s hs hb hi hl hc hready => ?_, fun s hs hb hi hl hr hm => ?_, fun a s s1 v hs ha => ⟨fun h => ?_, fun hi hf hd hx => ?_, fun hi hf hl hx => ?_⟩, ?_⟩
  · have hx := begun_who s
    have hst : ((begun s).ctx s.cur.1 s.cur.2).state = .ready := (congrArg Ctx.state hx).trans hready
    have hlive : ∀ st, st ≠ CtxState.ready → ((handsOn ((begun s).ctx s.cur.1 s.cur.2) (begun s)).ctx s.cur.1 s.cur.2).state ≠ st :=
      fun st hne h => hne (h.symm.trans hst)
    have hmem : SameStores s (handsOn ((begun s).ctx s.cur.1 s.cur.2) (begun s)) := (begun_sameStores s).trans (handsOn_sameStores _ _)
    obtain ⟨h1, h2, h3, h4⟩ := ended_endCtx (kind := .exited) (hlive .free (by decide)) (hlive .draining (by decide))
    exact ⟨_, run_completes hs (exitBody_ends ((congrArg Ctx.replaying hx).trans hb) ((congrArg Ctx.inl hx).trans hi) ((congrArg Ctx.hasRec hx).trans hl)
        ((congrArg Ctx.chain hx).trans hc)), h1, h2, h3, fun pl own hp => (h4 pl own hp).trans (hmem.sameMemory pl own hp)⟩
  · have hx := begun_who s
    exact run_completes hs (exitBody_endsLanding ((congrArg Ctx.replaying hx).trans hb) ((congrArg Ctx.inl hx).trans hi) ((congrArg Ctx.landing hx).trans hl)
      ((congrArg Ctx.hasRec hx).trans hr) hm)
  · exact run_completes hs (ctxkillBody_free ha h)
  · refine ⟨_, run_completes hs ((ctxkillBody_there ha hi hf).trans (M.if_neg_run ?_ ..)), ended_endCtx hf hd⟩
    rintro ⟨hl, hg⟩
    rcases hx with hx | hx
    · exact hx hl
    · exact hg.elim (fun h => h hx.1) (fun h => h hx.2)
  · exact run_traps hs ((ctxkillBody_there ha hi hf).trans (M.if_pos_run ⟨hl, hx⟩ ..))
  · intro c i s hd hl hm hq hc
    refine ⟨_, contextDrainEnd_frees hd hl hm hq hc, (freeCtx_ctx ..).trans (if_pos ⟨rfl, rfl⟩), fun d j h => (freeCtx_ctx ..).trans (if_neg ?_),
      freeCtx_core_keeps Core.regs (fun _ _ _ => rfl) (fun _ _ => rfl) s c i, (freeCtx_sameStores s c i).sameMemory⟩
    rintro ⟨rfl, rfl⟩
    exact h rfl

end Sys2Proof.Machine
end

section
/-! PROOF. The dispatcher's record of sleeping partitions (R205, R206) plays no part in the delivery of a cause: what delivers one does the same whatever the
record is, and leaves it. -/

namespace Sys2Proof.Machine

/-- The samples and traps of sleeping partitions that the dispatcher has on record. -/
def State.sleeping (s : State) (slept asleep : List Nat) : State := s.modDisp (fun d => { d with slept := slept, asleep := asleep })

section
variable (s : State) (a b : List Nat)

theorem foldl_sleeping {α : Type} {f : State → α → State} (h : ∀ s x, f (s.sleeping a b) x = (f s x).sleeping a b) (l : List α) :
    l.foldl f (s.sleeping a b) = (l.foldl f s).sleeping a b := by
  induction l generalizing s with
  | nil => rfl
  | cons x l ih => rw [List.foldl_cons, List.foldl_cons, h, ih]

/-! ### The end of a context -/

theorem leaveElections_sleeping (c i : Nat) : leaveElections (s.sleeping a b) c i = (leaveElections s c i).sleeping a b := by
  unfold leaveElections
  have h : ((s.sleeping a b).ctx c i).gang = (s.ctx c i).gang := rfl
  simp only [h]
  cases (s.ctx c i).gang <;> rfl

theorem endInline_sleeping (x : Ctx) : endInline (s.sleeping a b) x = (endInline s x).sleeping a b := by
  unfold endInline
  refine foldl_sleeping s a b ?_ x.inl
  exact fun _ _ => rfl

theorem endBefore_sleeping (kind : EndKind) (x : Ctx) (c i : Nat) : endBefore kind x c i (s.sleeping a b) = (endBefore kind x c i s).sleeping a b := by
  have h : dropUnstarted ((leaveElections s c i).sleeping a b) c i = (dropUnstarted (leaveElections s c i) c i).sleeping a b := rfl
  unfold endBefore
  rw [leaveElections_sleeping, h, endInline_sleeping]
  split <;> rfl

theorem handedOver_sleeping (x : Ctx) (c : Nat) : handedOver x c (s.sleeping a b) = (handedOver x c s).sleeping a b := by
  unfold handedOver
  cases x.ship with
  | none => rfl
  | some w => dsimp only; split <;> rfl

theorem observeParked_sleeping (n : Nat) (done : BitVec 32) (l : List (Nat × Nat × Ctx)) :
    observeParked (s.sleeping a b) n done l = (observeParked s n done l).sleeping a b := by
  induction l generalizing s with
  | nil => rfl
  | cons m l ih =>
    obtain ⟨c, i, x⟩ := m
    unfold observeParked
    rw [← ih]
    split <;> rfl

theorem modGang_sleeping (g : Nat) (f : Gang → Gang) : (s.sleeping a b).modGang g f = (s.modGang g f).sleeping a b := rfl

theorem members_sleeping (g : Nat) : (s.sleeping a b).members g = s.members g := rfl

theorem completeBar_sleeping (g n f : Nat) : completeBar g n f (s.sleeping a b) = (completeBar g n f s).sleeping a b := by
  induction f generalizing s with
  | zero => rfl
  | succ f ih =>
    have h : (s.sleeping a b).gang? g = s.gang? g := rfl
    unfold completeBar
    rw [h]
    cases s.gang? g with
    | none => rfl
    | some y =>
      dsimp only
      rw [members_sleeping, modGang_sleeping, members_sleeping, observeParked_sleeping, ih]
      split <;> rfl

theorem recheckBars_sleeping (g : Nat) : recheckBars (s.sleeping a b) g = (recheckBars s g).sleeping a b := by
  unfold recheckBars
  exact foldl_sleeping s a b (fun s n => completeBar_sleeping s a b g n 2) _

theorem endMember_sleeping (kind : EndKind) (x : Ctx) : endMember kind x (s.sleeping a b) = (endMember kind x s).sleeping a b := by
  unfold endMember
  cases x.gang with
  | none => rfl
  | some g =>
    dsimp only
    rw [modGang_sleeping, recheckBars_sleeping]

theorem endCtx_sleeping (kind : EndKind) (c i : Nat) : endCtx kind (s.sleeping a b) c i = (endCtx kind s c i).sleeping a b := by
  have hx : (s.sleeping a b).ctx c i = s.ctx c i := rfl
  by_cases h : (s.ctx c i).state = .free ∨ (s.ctx c i).state = .draining
  · rw [endCtx_gone h, endCtx_gone (by rw [hx]; exact h)]
  · rw [not_or] at h
    rw [endCtx_live h.1 h.2, endCtx_live (by rw [hx]; exact h.1) (by rw [hx]; exact h.2), hx, endBefore_sleeping, handedOver_sleeping,
      ← endMember_sleeping]
    rfl

/-! ### Traps and their delivery -/

theorem markRaised_sleeping (c i cause : Nat) : markRaised c i cause (s.sleeping a b) = (markRaised c i cause s).sleeping a b := by
  unfold markRaised
  split
  · rfl
  · split
    · rfl
    · split <;> rfl

theorem bump_sleeping (p : Prop) [Decidable p] (c n : Nat) :
    (if p then (s.sleeping a b).bump c n else s.sleeping a b) = (if p then s.bump c n else s).sleeping a b := by
  split <;> rfl

theorem takeTrap_sleeping (c i : Nat) (pc : Word) (replay : Option Nat) (t : TrapInfo) :
    takeTrap c i pc replay t (s.sleeping a b) = (takeTrap c i pc replay t s).sleeping a b := by
  unfold takeTrap
  dsimp only
  rw [bump_sleeping, bump_sleeping, markRaised_sleeping]
  generalize markRaised c i t.cause _ = v
  have hv : (v.sleeping a b).ctx c i = v.ctx c i := rfl
  rw [hv]
  cases trapTarget (v.ctx c i) t with
  | some sup => rfl
  | none => exact endCtx_sleeping (v.bump c 3) a b .terminated c i

theorem gain_sleeping (u : Nat) (f : Front) : (s.sleeping a b).gain u f = (s.gain u f).sleeping a b := by
  unfold State.gain
  split <;> rfl

theorem leaveBar_sleeping (x : Ctx) : leaveBar (s.sleeping a b) x = (leaveBar s x).sleeping a b := by
  unfold leaveBar
  split
  · exact gain_sleeping ..
  · rfl

theorem dropSusp_sleeping (c i : Nat) : dropSusp (s.sleeping a b) c i = (dropSusp s c i).sleeping a b := by
  unfold dropSusp
  have hx : (s.sleeping a b).ctx c i = s.ctx c i := rfl
  have hk : (s.sleeping a b).core c = s.core c := rfl
  simp only [hx, hk]
  split <;> rfl

theorem retakeRound_sleeping (c i : Nat) (l : LoadReq) : retakeRound (s.sleeping a b) c i l = (retakeRound s c i l).sleeping a b := by
  unfold retakeRound
  split <;> rfl

theorem unpark_sleeping (c i : Nat) : unpark (s.sleeping a b) c i = (unpark s c i).sleeping a b := by
  unfold unpark
  have hx : ∀ s : State, (s.sleeping a b).ctx c i = s.ctx c i := fun _ => rfl
  have hmod : ∀ (s : State) (f : Ctx → Ctx), (s.sleeping a b).modCtx c i f = (s.modCtx c i f).sleeping a b := fun _ _ => rfl
  dsimp only
  rw [hx, leaveBar_sleeping, dropSusp_sleeping, hx, hmod, foldl_sleeping _ a b fun s l => retakeRound_sleeping s a b c i l]
  generalize List.foldl _ _ _ = u
  rfl

theorem unparkIf_sleeping (p : Prop) [Decidable p] (c i : Nat) :
    (if p then unpark (s.sleeping a b) c i else s.sleeping a b) = (if p then unpark s c i else s).sleeping a b := by
  rw [unpark_sleeping]
  split <;> rfl

theorem interrupt_sleeping (c i : Nat) (t : TrapInfo) : interrupt (s.sleeping a b) c i t = (interrupt s c i t).sleeping a b := by
  have hx : ∀ s : State, (s.sleeping a b).ctx c i = s.ctx c i := fun _ => rfl
  have hmod : ∀ (s : State) (f : Ctx → Ctx), (s.sleeping a b).modCtx c i f = (s.modCtx c i f).sleeping a b := fun _ _ => rfl
  unfold interrupt
  rcases h : (s.ctx c i).mtrap with _ | ⟨p, tr⟩
  all_goals
    simp only [hx, h, hmod, unparkIf_sleeping]
    split <;> exact takeTrap_sleeping ..

theorem deliverCause_sleeping (c i tenant : Nat) (t : TrapInfo) : deliverCause (s.sleeping a b) c i tenant t = (deliverCause s c i tenant t).sleeping a b := by
  unfold deliverCause
  have hx : (s.sleeping a b).ctx c i = s.ctx c i := rfl
  simp only [hx]
  split
  · rfl
  · split
    · rfl
    · rfl
    · rfl
    · rfl
    · split
      · rfl
      · exact interrupt_sleeping ..
    · split
      · rfl
      · exact interrupt_sleeping ..

theorem toSupervisor_sleeping (tenant : Nat) (t : TrapInfo) : toSupervisor (s.sleeping a b) tenant t = (toSupervisor s tenant t).sleeping a b := by
  unfold toSupervisor
  have hp : (s.sleeping a b).part? tenant = s.part? tenant := rfl
  rw [hp]
  cases s.part? tenant with
  | none => rfl
  | some p => exact deliverCause_sleeping ..

end

/-! ### The all-asleep trap (R205, R206) -/

/-- A second sample that finds the partition asleep raises 0x14 in its supervisor context, and has it on record: as taken, or as dropped. -/
theorem allAsleepSample_raises {tn : Nat} {s : State} {p : Machine.Part} (hp : s.part? tn = some p) (hst : stopped s tn = false)
    (ha : partAsleep s tn = true) (hin : tn ∈ s.disp.asleep) (h0 : tn ∉ s.disp.slept) (h1 : 64 + tn ∉ s.disp.slept) :
    ∃ n, (n = tn ∨ n = 64 + tn) ∧ exec (.allAsleepSample tn) s = .next (toSupervisor
      ((s.sleeping (s.disp.slept ++ [n]) (s.disp.asleep.filter (fun t => t != tn))).bump p.supervisor.1 11) tn { cause := 0x14 }) := by
  let s1 := toSupervisor (s.bump p.supervisor.1 11) tn { cause := 0x14 }
  let x := s1.ctx p.supervisor.1 p.supervisor.2
  let n := if x.tenant == tn && (x.in14 || x.held.any (fun h => h.cause == 0x14)) then tn else 64 + tn
  have hrec : s1 = s1.sleeping s.disp.slept s.disp.asleep :=
    toSupervisor_sleeping (s.bump p.supervisor.1 11) s.disp.slept s.disp.asleep tn { cause := 0x14 }
  have hslept : s1.disp.slept = s.disp.slept := by
    rw [hrec]
    rfl
  have hasleep : s1.disp.asleep = s.disp.asleep := by
    rw [hrec]
    rfl
  refine ⟨n, ?_, ?_⟩
  · simp only [n]
    split
    · exact .inl rfl
    · exact .inr rfl
  · have hx : exec (.allAsleepSample tn) s = .next (s1.sleeping (s1.disp.slept ++ [n]) (s1.disp.asleep.filter (fun t => t != tn))) := by
      show execAllAsleepSample tn s = _
      unfold execAllAsleepSample
      simp only [hp, hst, ha, List.contains_iff_mem.mpr hin, Bool.eq_false_iff.mpr (mt List.contains_iff_mem.mp h0),
        Bool.eq_false_iff.mpr (mt List.contains_iff_mem.mp h1), Bool.not_true, Bool.or_self, Bool.false_eq_true, ↓reduceIte]
      rfl
    rw [hx, hslept, hasleep]
    exact congrArg _ (toSupervisor_sleeping ..).symm

/-- A sample that finds the partition awake, or stopped, drops the sample before it; a first one that finds it asleep is noted. -/
theorem allAsleepSample_notes {tn : Nat} {s : State} {p : Machine.Part} (hp : s.part? tn = some p) :
    ((stopped s tn = true ∨ partAsleep s tn = false) →
      exec (.allAsleepSample tn) s = .next (s.modDisp (fun d => { d with asleep := d.asleep.filter (fun t => t != tn) }))) ∧
    (stopped s tn = false → partAsleep s tn = true → tn ∉ s.disp.asleep →
      exec (.allAsleepSample tn) s = .next (s.modDisp (fun d => { d with asleep := d.asleep ++ [tn] }))) := by
  have hx : exec (.allAsleepSample tn) s = execAllAsleepSample tn s := rfl
  rw [hx]
  unfold execAllAsleepSample
  rw [hp]
  refine ⟨fun h => if_pos ?_, fun hst ha hn => (if_neg ?_).trans (if_pos ?_)⟩
  · rcases h with h | h <;> simp [h]
  · simp [hst, ha]
  · simpa using hn

/-! ### The end of a run (R158, R159, R180) -/

section
variable {s s1 : State} {r : Run} {o : Nat}

theorem runComplete_finishes {n : Nat} (hr : s.run? n = some r) (he : runEnded s r = true) :
    (r.aborts ≠ 0 → exec (.runComplete n) s = .next (finishRun s r 4)) ∧
    (r.aborts = 0 → pkStrm r.packet = false → exec (.runComplete n) s = .next (finishRun s r 1)) ∧
    (r.aborts = 0 → pkStrm r.packet = true →
      exec (.runComplete n) s = .next (finishRun (writeBack s r).1 r (if (writeBack s r).2 then 1 else 8))) := by
  have hx : exec (.runComplete n) s = execRunComplete n s := rfl
  rw [hx]
  unfold execRunComplete
  refine ⟨fun ha => ?_, fun ha hs => ?_, fun ha hs => ?_⟩
  · simp only [hr, he, ha, Bool.not_true, Bool.false_eq_true, ne_eq, not_false_eq_true, ↓reduceIte]
  · simp only [hr, he, ha, hs, Bool.not_true, Bool.false_eq_true, ne_eq, not_true_eq_false, ↓reduceIte]
  · simp only [hr, he, ha, hs, Bool.not_true, Bool.false_eq_true, ne_eq, not_true_eq_false, ↓reduceIte]

section
variable {base w1 : Word} {old : List TVal} (hb : sysRead s r.tenant (streamEntry s r) = some base)
  (hw : sysRead s r.tenant (streamEntry s r + 8) = some w1) (ho : r.snap = some old)
include hb hw ho

/-- The write-back stops at the first write that cannot be made. -/
theorem writeBack_fails {p : Word} (h : sysStores r.tenant (backWrites r old base) s = (s1, some p)) :
    writeBack s r = (logEvent s1 11 r.tenant 0 0 p, false) := by
  unfold writeBack
  simp only [hb, hw, ho, h]

/-- Once its entries are written, the write-back adds the items to `last`, as a release. -/
theorem writeBack_succeeds {pl : Place} (h : sysStores r.tenant (backWrites r old base) s = (s1, none))
    (hp : sysPlace s1 r.tenant (streamEntry s r + 8) .ewrite = .ok pl) :
    writeBack s r = (s1.commit (s1.byDisp pl 8 (s1.chan (.ended r.uid))) pl 8 (setBits w1 63 32 ((bits w1 63 32 + r.count) % 2 ^ 32)).toNat 0, true) := by
  unfold writeBack
  simp only [hb, hw, ho, h, hp]

end

/-- The dispatcher has run r no more. -/
def ranOut (r : Run) (s : State) : State := s.modDisp (fun d => { d with runs := d.runs.filter (fun x => x.uid != r.uid) })

theorem finishRun_writes {t : State} (h : writeDone s r o = some t) : finishRun s r o = ranOut r t := by
  unfold finishRun
  rw [h]
  rfl

theorem finishRun_waits (h : writeDone s r o = none) : finishRun s r o = s.modRun r.uid (fun x => { x with outcome := some o, pools := [] }) := by
  unfold finishRun
  rw [h]

theorem writeDone_none (hp : pkDone r.packet = 0) : writeDone s r o = some s := by
  unfold writeDone
  exact if_pos hp

section
variable (hp : pkDone r.packet ≠ 0)
include hp

/-- A completion word in global memory is written as a release (R245). -/
theorem writeDone_global {pl : Place} (hg : bits (pkDone r.packet) 63 56 = 0) (hl : sysPlace s r.tenant (pkDone r.packet) .ewrite = .ok pl) :
    writeDone s r o = some (s.commit (doneBy s r) pl 8 (doneStatus r o).toNat 0) := by
  unfold writeDone
  dsimp only
  rw [if_neg hp, if_pos hg, hl]

/-- A completion word in local store waits while it is full, and is written full. -/
theorem writeDone_local {c0 off : Nat} {g : Region} (hg : bits (pkDone r.packet) 63 56 ≠ 0) (hw : wordPtr (pkDone r.packet) = some (c0, off))
    (hr : wordRegion s r.tenant (s.leadAt c0 off) off = some g) :
    writeDone s r o = if (s.core (s.leadAt c0 off)).seenFull g.gen off then none
      else some ((s.record (doneBy s r) (.ls (s.leadAt c0 off) off) 8 (doneStatus r o).toNat g.gen).modCore (s.leadAt c0 off)
        (fun k => k.lsWriteFe g.gen off (doneStatus r o).toNat true)) := by
  unfold writeDone
  dsimp only
  rw [if_neg hp, if_neg hg, hw]
  dsimp only
  rw [hr]

end

/-- A parked reader goes on once its stream entry can be read. -/
theorem streamEntryReread_wakes {c i : Nat} (hr : s.run? (s.ctx c i).run = some r)
    (hp : (s.ctx c i).parkedOn (fun w => match w with | .stream _ => true | _ => false) = true) :
    exec (.streamEntryReread c i) s = .next (if (streamRead s r).isSome then s.ready c i else s) := by
  show execStreamEntryReread c i s = _
  unfold execStreamEntryReread
  dsimp only
  split
  · next y _ hy => rw [Option.some.inj (hy.symm.trans hr)]
  · next h => exact (h r hp hr).elim

end

/-- Settles O48: how a run ends, its write-back and completion word, the readers of a busy entry, and the samples of a sleeping partition. -/
theorem runEnds : Obligations.RunEnds := by
  unfold Obligations.RunEnds
  refine ⟨fun n s r => runComplete_finishes, ?_, ?_, ?_, fun c i s r => streamEntryReread_wakes, ?_⟩
  · intro s s1 r base w1 old o a hb hw ho hs
    refine ⟨fun p hp => writeBack_fails hb hw ho (hp ▸ hs), fun pl hn hl => ⟨_, rfl, ⟨_, rfl⟩, writeBack_succeeds hb hw ho (hn ▸ hs) hl⟩⟩
  · intro n o s r hr ho
    show execDoneWordRetry n s = _
    unfold execDoneWordRetry
    simp only [hr, ho]
  · intro s r o v p k
    refine ⟨fun hp => ?_, fun pl hp hg hl => finishRun_writes (writeDone_global hp hg hl), fun c0 off g hp hg hw => ?_⟩
    · rw [finishRun_writes (writeDone_none hp)]
      exact ⟨rfl, (SameStores.of_cores rfl rfl rfl).sameMemory⟩
    · exact fun hr => ⟨fun hf => finishRun_waits ((writeDone_local hp hg hw hr).trans (if_pos hf)),
        fun hf => finishRun_writes ((writeDone_local hp hg hw hr).trans (if_neg (by rw [hf]; decide)))⟩
  · exact fun tn s p hp => ⟨(allAsleepSample_notes hp).1, (allAsleepSample_notes hp).2, allAsleepSample_raises hp⟩

end Sys2Proof.Machine
end

section
/-! PROOF. What becomes of a record (R162, R163, R167, R196, R307, R394): its arrival, its landing, held blocks, parked senders and the overflow ring. -/

namespace Sys2Proof.Machine

/-! ### `status` at user level (R310) -/

/-- With bits [7:0] of `status` 0 a context is at user level and in no handler (R310). -/
theorem getLsbD_setBits_low (w : Word) {k : Nat} (hk : k < 8) : (setBits w 7 0 0).getLsbD k = false := by
  have h : (255#64).getLsbD k = true := by interval_cases k <;> rfl
  unfold setBits
  simp only [Nat.reducePow, Nat.reduceSub, Nat.reduceAdd, Nat.shiftLeft_zero, Nat.zero_mod, BitVec.getLsbD_or, BitVec.getLsbD_and, BitVec.getLsbD_not]
  rw [show BitVec.ofNat 64 255 = 255#64 from rfl, h]
  simp

theorem bits_setBits_low (w : Word) : bits (setBits w 7 0 0) 1 0 = 0 := by
  have h : (setBits w 7 0 0).extractLsb' 0 2 = 0 := by
    ext k hk
    rw [BitVec.getElem_extractLsb', Nat.zero_add, getLsbD_setBits_low w (by omega)]
    simp
  have h := congrArg BitVec.toNat h
  simpa [bits] using h

/-! ### Arrival (R162) -/

section
variable {s t : State} {h : Shipment}

/-- The first record on its way from its sender to its destination arrives as it can be delivered. -/
theorem recordArrival_delivers {n : Nat} {way : Delivered} (hn : s.ships[n]? = some h)
    (hfirst : ∀ x ∈ s.ships.take n, x.sender = h.sender → x.dest ≠ h.dest) (hst : stopped s h.tenant = false)
    (hd : deliverRecord { s with ships := without s.ships n } h = some (way, t)) : exec (.recordArrival n) s = .next t := by
  have hf : (s.ships.take n).any (fun x => x.sender == h.sender && x.dest == h.dest) = false := by
    simpa [List.any_eq_false] using hfirst
  unfold without at hd
  show execRecordArrival n s = _
  unfold execRecordArrival
  simp only [hn, hst, hf, hd, Bool.or_self, Bool.false_eq_true, ↓reduceIte, Option.map_some, Option.getD_some]

/-- A queue that takes the record, past no other of its sender, has it. -/
theorem deliverRecord_queue (hq : queueTakes s h.dest h.tenant 0 = true) (hr : ringHolds s h.tenant h.sender h.dest = false) :
    deliverRecord s h = some (.queue, enqueueRecord s h) := by
  unfold deliverRecord
  rw [if_pos (by simp [mayQueue, hq, hr])]

end

/-! ### Landing (R163, R164) -/

/-- The first place below m at which f gives something. -/
theorem findSome?_range_first {α : Type} {f : Nat → Option α} {n m : Nat} {v : α} (hn : n < m) (hf : f n = some v) (hb : ∀ j < n, f j = none) :
    (List.range m).findSome? f = some v := by
  obtain ⟨k, rfl⟩ := Nat.exists_eq_add_of_lt hn
  have hr : List.range (n + k + 1) = List.range n ++ n :: (List.range k).map (fun j => n + (j + 1)) := by
    rw [Nat.add_assoc, List.range_add, List.range_succ_eq_map]
    simp
  rw [List.findSome?_eq_some_iff]
  exact ⟨_, n, _, hr, hf, fun j hj => hb j (List.mem_range.mp hj)⟩

/-- The first record whose tenant may land and has an idle landing context is the next to land. -/
theorem nextLanding_first {s : State} {c n i : Nat} {h : Shipment} (hn : (s.core c).landq[n]? = some h) (hc : landClosed s c h.tenant = false)
    (hi : idleFor s c h.tenant = some i)
    (hfirst : ∀ x ∈ (s.core c).landq.take n, landClosed s c x.tenant = true ∨ idleFor s c x.tenant = none) : nextLanding s c = some (n, h, i) := by
  unfold nextLanding
  have hlen : n < (s.core c).landq.length := (List.getElem?_eq_some_iff.mp hn).1
  refine findSome?_range_first hlen ?_ fun j hj => ?_
  · simp only [hn, hc, hi, Bool.false_eq_true, ↓reduceIte, Option.map_some]
  · have hjn : (s.core c).landq[j]? = some ((s.core c).landq[j]'(hj.trans hlen)) := List.getElem?_eq_getElem _
    have hmem : (s.core c).landq[j]'(hj.trans hlen) ∈ (s.core c).landq.take n := List.mem_take_iff_getElem.mpr ⟨j, by omega, rfl⟩
    simp only [hjn]
    rcases hfirst _ hmem with h | h <;> simp [h]

/-- Core c and context i once record n of its queue has landed there with generation g. -/
def landed (s : State) (c n : Nat) (h : Shipment) (i g : Nat) : State :=
  let s1 := tookGen s c .landing g
  let x := landedCtx (s.ctx c i) (BitVec.ofNat 16 g) s1.nextId (runNamed s h.tenant (recRun h.words)) h.words
  let s3 := (s1.fresh.2.gain x.uid h.front).modCore c (fun k => { k with landq := without k.landq n })
  (s3.setCtx c i x).modCore c (fun k => (writeRegs x (recRegs h.words) 1 k).joinRot i)

theorem land_lands {s : State} {c n i g : Nat} {h : Shipment} (hm : mayTake s c .landing = true) (hg : (s.core c).nextGen = some g) :
    land s c n h i = landed s c n h i g := by
  unfold land takeGen
  simp only [hm, hg, Bool.not_true, Bool.false_eq_true, ↓reduceIte, Option.map_some]
  rfl

/-! ### The registers of a record -/

theorem writeRegs_keeps {β : Type} (p : Core → β) (hp : ∀ k r l, p { k with regs := r, lock := l } = p k) (x : Ctx) (l : List TVal) (n : Nat) (k : Core) :
    p (writeRegs x l n k) = p k := by
  induction l generalizing n k with
  | nil => rfl
  | cons v l ih => exact (ih (n + 1) _).trans (Core.writeReg_keeps p hp k x n v)

/-- Registers before the first one written are as they were. -/
theorem reg_writeRegs_before (x : Ctx) (l : List TVal) {j n : Nat} (k : Core) (hj : j < n) :
    (writeRegs x l n k).reg (x.wbase + j) = k.reg (x.wbase + j) := by
  induction l generalizing n k with
  | nil => rfl
  | cons v l ih =>
    refine (ih _ (Nat.lt_succ_of_lt hj)).trans ?_
    rw [Core.reg_writeReg, if_neg (by omega)]

/-- Each value is in its register, stamped with the context's generation. -/
theorem reg_writeRegs {x : Ctx} {l : List TVal} {m n : Nat} {v : TVal} (k : Core) (hn : n ≠ 0) (hv : l[m]? = some v) :
    (writeRegs x l n k).reg (x.wbase + (n + m)) = { val := v.val, cnt := v.cnt, inx := v.inx, gen := x.gen } := by
  induction l generalizing m n k with
  | nil => exact nomatch hv
  | cons w l ih =>
    cases m with
    | zero =>
      obtain rfl : w = v := Option.some.inj hv
      exact (reg_writeRegs_before x l _ (Nat.lt_succ_self n)).trans ((Core.reg_writeReg ..).trans (if_pos ⟨rfl, hn⟩))
    | succ m =>
      have h := ih (m := m) (k.writeReg x n w) (Nat.succ_ne_zero n) hv
      rwa [show n + (m + 1) = n + 1 + m by omega]

theorem recRegs_val (w : List Word) {j : Nat} (hj : j < 6) : ∃ v, (recRegs w)[j]? = some v ∧ v.val = w.getD (j + 2) 0 := by
  interval_cases j <;> exact ⟨_, rfl, rfl⟩

section
variable (s : State) (c n : Nat) (h : Shipment) (i g : Nat)

/-- The context that has landed. -/
def landedAt : Ctx :=
  landedCtx (s.ctx c i) (BitVec.ofNat 16 g) (tookGen s c .landing g).nextId (runNamed s h.tenant (recRun h.words)) h.words

theorem State.core_gain (s : State) (u : Nat) (f : Front) (d : Nat) : (s.gain u f).core d = s.core d := by
  unfold State.core
  rw [State.gain_cores]

/-- The core once the record has left its queue and landed. -/
theorem landed_core : (landed s c n h i g).core c = (writeRegs (landedAt s c h i g) (recRegs h.words) 1
    (({ s.core c with genLast := g, genFrom := g, stalled := (s.core c).stalled.filter (fun w => w != .landing),
                      landq := without (s.core c).landq n } : Core).setCtx i (landedAt s c h i g))).joinRot i := by
  have hk : ((tookGen s c .landing g).fresh.2).core c =
      { s.core c with genLast := g, genFrom := g, stalled := (s.core c).stalled.filter (fun w => w != .landing) } := by
    show (tookGen s c .landing g).core c = _
    unfold tookGen
    exact State.core_modCore_same ..
  unfold landed
  dsimp only
  rw [State.core_modCore_same, State.core_setCtx_same, State.core_modCore_same, State.core_gain, hk]
  rfl

theorem Core.reg_joinRot (k : Core) (j m : Nat) : (k.joinRot j).reg m = k.reg m := rfl

theorem landed_ctx : (landed s c n h i g).ctx c i = landedAt s c h i g := by
  unfold State.ctx
  rw [landed_core, Core.ctx_joinRot]
  exact (congrArg (fun m => SMap.get m i Ctx.reset) (writeRegs_keeps Core.ctxs (fun _ _ _ => rfl) ..)).trans (Core.ctx_setCtx_same ..)

theorem landed_landq : ((landed s c n h i g).core c).landq = without (s.core c).landq n := by
  rw [landed_core]
  exact writeRegs_keeps Core.landq (fun _ _ _ => rfl) ..

theorem landed_genLast : ((landed s c n h i g).core c).genLast = g := by
  rw [landed_core]
  exact writeRegs_keeps Core.genLast (fun _ _ _ => rfl) ..

theorem landed_rot : i ∈ ((landed s c n h i g).core c).rot := by
  rw [landed_core]
  simp [Core.joinRot]

/-- x1 to x6 hold the record's values. -/
theorem landed_readReg {j : Nat} (h1 : 1 ≤ j) (h6 : j ≤ 6) :
    (((landed s c n h i g).core c).readReg ((landed s c n h i g).ctx c i) j).val = h.words.getD (j + 1) 0 := by
  obtain ⟨m, rfl⟩ := Nat.exists_eq_add_of_le h1
  obtain ⟨v, hv, hval⟩ := recRegs_val h.words (j := m) (by omega)
  have hr : ((landed s c n h i g).core c).reg ((landedAt s c h i g).wbase + (1 + m)) =
      { val := v.val, cnt := v.cnt, inx := v.inx, gen := (landedAt s c h i g).gen } := by
    rw [landed_core, Core.reg_joinRot]
    exact reg_writeRegs _ Nat.one_ne_zero hv
  rw [landed_ctx]
  unfold Core.readReg
  dsimp only
  rw [hr, if_neg (by simp), hval, Nat.add_comm 1 m]

end

/-! ### Held blocks (R167, R307, R394) -/

section
variable {s s1 : State} {c n : Nat} {h : HoldEntry} {way : Delivered}

/-- A full mailbox sends the record on; its word is emptied, and its entry leaves the hold table. -/
theorem holdSend_full (hn : (s.core c).hold[n]? = some h) (hf : (s.core c).seenFull ((s.core c).gov 0 h.off).1 (h.off + 64) = true)
    (hd : deliverRecord s.draw.2
      { words := holdRecord s c h (Config.freeChoice s.free), dest := c, src := 1, tenant := h.tenant, sender := c,
        front := h.front.join (s.emptiedAt (.ctx 0 c h.tenant 0 0) (.ls c (h.off + 64)) 8) } = some (way, s1)) :
    holdSend s c n = s1.modCore c (fun k => dropRetired { k.setFe ((s.core c).gov 0 h.off).1 (h.off + 64) false with
      hold := k.hold.filter (fun x => x.off != h.off) }) := by
  have hdraw : s.draw.1 = s.free := rfl
  unfold holdSend
  simp only [hn, hf, hd, hdraw, Bool.not_true, Bool.false_eq_true, ↓reduceIte]

theorem heldBefore_eq (hn : (s.core c).hold[n]? = some h) : heldBefore s c n = h.tried := by
  unfold heldBefore
  rw [hn]
  rfl

end

/-! ### Parked senders and the overflow ring (R162, R196) -/

section
variable {s : State} {c i d : Nat} {w : List Word} (hp : (s.ctx c i).parkedOn (fun v => v == .delivery) = true) (hs : (s.ctx c i).ship = some (d, w))
  (hd : d ≠ ringMark)
include hp hs hd

/-- A parked sender's record is offered again. -/
theorem goDeliveryRetry_offers :
    let h : Shipment := { words := w.take 8, dest := d, src := 0, tenant := (s.ctx c i).tenant, sender := c, front := s.released (s.ctx c i).uid .device }
    ((s.ctx c i).landing = true → canShip s h = true → exec (.goDeliveryRetry c i) s = .next (endLanding { s with ships := s.ships ++ [h] } c i)) ∧
    ((s.ctx c i).landing = false → ∀ t, deliverRecord s h = some (.queue, t) → exec (.goDeliveryRetry c i) s = .next (goDone t c i)) := by
  intro h
  have hx : exec (.goDeliveryRetry c i) s = execGoDeliveryRetry c i s := rfl
  rw [hx]
  unfold execGoDeliveryRetry
  dsimp only
  rw [if_pos hp, hs]
  split
  · next heq => exact absurd (congrArg Prod.fst (Option.some.inj heq)) hd
  · next heq => exact nomatch heq
  · next d' w' _ heq =>
    obtain ⟨rfl, rfl⟩ := Prod.mk.inj (Option.some.inj heq)
    refine ⟨fun hl hc => ?_, fun hl t ht => ?_⟩
    · rw [if_pos hl, if_pos hc]
    · rw [if_neg (by rw [hl]; decide), ht]

end

/-- The record at the head of a tenant's ring enters the queue of its core, and who waits for its entry goes on. -/
theorem landingRing_redelivers {tn : Nat} {s s1 : State} {p : Machine.Part} {w : List Word} {x tail head : Word} (hp : s.part? tn = some p)
    (hc : ringCounts s tn (p.word 2) = some (tail, head)) (hh : ringHead s tn (p.word 2) (p.word 3) = some (w, x))
    (hq : queueTakes s (bits x 13 0) tn 0 = true) (ht : ringTake s tn (p.word 2) = some s1) :
    exec (.landingRingRedelivery tn) s = .next (ringLeft (enqueueRecord s1
      { words := w, dest := bits x 13 0, src := bits x 15 14, tenant := tn, sender := bits x 13 0, front := ringFront s tn (p.word 2) }) tn head.toNat) := by
  show execLandingRingRedelivery tn s = _
  unfold execLandingRingRedelivery
  simp only [hp, hc, hh, hq, ht, Bool.not_true, Bool.false_eq_true, ↓reduceIte, Option.map_some, Option.getD_some]

/-- Settles O33: an arrival delivers, the first record that may land lands, and a held block, a parked sender and the ring's head hand theirs on. -/
theorem recordEvents : Obligations.RecordEvents := by
  unfold Obligations.RecordEvents
  refine ⟨fun n s t h way => recordArrival_delivers, fun s h => deliverRecord_queue, ?_, ?_, fun c i d w s hp hs hd => goDeliveryRetry_offers hp hs hd,
    fun tn s s1 p w x tail head hp hc hh hq ht => landingRing_redelivers hp hc hh hq ht⟩
  · intro c n i g s h hn hc hi hfirst hm hg
    refine ⟨landed s c n h i g, ?_, ?_, landed_landq s c n h i g, ?_, landed_genLast s c n h i g, landed_rot s c n h i g,
      fun _ j h1 h6 => landed_readReg s c n h i g h1 h6⟩
    · show execLanding c s = _
      unfold execLanding
      rw [nextLanding_first hn hc hi hfirst]
      dsimp only
      rw [land_lands hm hg]
    · rw [landed_ctx]
      exact ⟨rfl, rfl, rfl, rfl, rfl, rfl, rfl, rfl, rfl, rfl, rfl, getLsbD_setBits_low _ (by decide), rfl, rfl⟩
    · rw [landed_ctx]
      rfl
  · intro c n s s1 h way hn hf f hd t
    refine ⟨fun ht => ?_, fun ht => ?_⟩
    · show Host.Outcome.next (if heldBefore s c n then s else holdSend s c n) = _
      rw [heldBefore_eq hn, ht, holdSend_full hn hf hd]
      rfl
    · show Host.Outcome.next (if heldBefore s c n then holdSend s c n else s) = _
      rw [heldBefore_eq hn, ht, holdSend_full hn hf hd]
      rfl

end Sys2Proof.Machine
end

section
/-! PROOF. The dispatcher (R152 to R154, R158, R169, R197 to R199): a decision with one waiting run, the contexts of a placed gang, the end of a fill, and
retirement. -/

namespace Sys2Proof.Machine

/-! ### A decision for the only waiting run (R197, R199) -/

/-- The run has failed to be placed once more. -/
def failsOnce (r : Run) (s : State) : State :=
  s.modDisp (fun d => { d with runs := d.runs.map (fun x => if x.uid = r.uid then { x with fails := x.fails + 1 } else x) })

/-- The placement that the decision made: its queue was the last taken at its level, and no placement of the partition stalls. -/
def decided (tn : Nat) (r : Run) (s : State) : State :=
  s.modDisp (fun d => { d with lastQueue := SMap.put d.lastQueue 63 (4 * tn + pkPrio r.packet) r.queue, placing := d.placing.filter (fun p => p.1 != tn) })

section
variable {s : State} {tn : Nat} {r : Run} (hw : waiting s tn = [r])
include hw

theorem countFails_placed : countFails s tn (some r.uid) = s := by
  have h : ∀ x : Run, ([r.uid].contains x.uid && some r.uid != some x.uid) = false := by
    intro x
    by_cases hx : x.uid = r.uid <;> simp [hx]
  unfold countFails State.modDisp
  rw [hw]
  simp only [List.map_cons, List.map_nil, h, Bool.false_eq_true, ↓reduceIte, List.map_id']

theorem countFails_none : countFails s tn none = failsOnce r s := by
  unfold countFails failsOnce
  rw [hw]
  simp

theorem placeOrStall_eq (o : Nat) :
    (∀ v, placeGang s r o = some v → placeOrStall s tn r o = decided tn r v) ∧
    (placeGang s r o = none → placeOrStall s tn r o = stallPlace (failsOnce r s) r o) := by
  unfold placeOrStall
  rw [countFails_placed hw, countFails_none hw]
  refine ⟨fun v h => ?_, fun h => ?_⟩ <;> rw [h]
  rfl

/-- The only waiting run is picked where its gang fits. -/
theorem pick_only (n : Nat) : pick s tn n = if (findOrigin s r).isSome then some r else none := by
  have hfree : [r].filter (fun x => !heldBack [r] x) = [r] := by simp [heldBack]
  unfold pick
  dsimp only
  rw [hw, hfree]
  by_cases h : (findOrigin s r).isSome = true
  · have hnext : nextPick s tn [r] = some r := by simp [nextPick, best]
    simp [h, hnext, best]
  · have hnext : nextPick s tn [] = none := rfl
    simp [h, hnext]

end

/-- A decision has been counted. -/
def counts (tn : Nat) (s : State) : State :=
  s.modDisp (fun d => { d with decisions := SMap.put d.decisions 0 tn (SMap.get s.disp.decisions tn 0 + 1) })

/-- No placement of the partition stalls. -/
def unstalled (tn : Nat) (s : State) : State := s.modDisp (fun d => { d with placing := d.placing.filter (fun p => p.1 != tn) })

section
variable {s : State} {tn : Nat} {r : Run}

theorem dispatchDecision_decides {d : Machine.Part} (hw : waiting s tn = [r]) (hst : stopped s tn = false) (hp : s.part? tn = some d)
    (hh : (s.host.tele.powerHold || s.host.tele.tempHold) = false) : exec (.dispatchDecision tn) s = .next (decide1 s tn) := by
  obtain ⟨h1, h2⟩ := Bool.or_eq_false_iff.mp hh
  show execDispatchDecision tn s = _
  unfold execDispatchDecision
  rw [if_neg (by simp [hst, h1, h2, hp, hw])]

theorem dispatchDecision_held (hh : (s.host.tele.powerHold || s.host.tele.tempHold) = true) : exec (.dispatchDecision tn) s = .next s := by
  show execDispatchDecision tn s = _
  unfold execDispatchDecision
  rw [if_pos]
  rcases Bool.or_eq_true_iff.mp hh with h | h <;> simp [h]

/-- A placement that stalls is tried again. -/
theorem decide1_stalled {o : Nat} (h : stalledPlace (counts tn s) tn = some (r, o)) : decide1 s tn = placeOrStall (counts tn s) tn r o := by
  unfold counts at h ⊢
  unfold decide1
  dsimp only
  rw [h]

/-- With no placement stalled, the only waiting run is placed where it fits, or has failed to be. -/
theorem decide1_picks (hw : waiting s tn = [r]) (h : stalledPlace (counts tn s) tn = none) :
    decide1 s tn = match findOrigin s r with
      | some o => placeOrStall (unstalled tn (counts tn s)) tn r o
      | none => countFails (unstalled tn (counts tn s)) tn none := by
  have hw' : waiting (unstalled tn (counts tn s)) tn = [r] := hw
  have ho : findOrigin (unstalled tn (counts tn s)) r = findOrigin s r := rfl
  have hpick := pick_only hw' (SMap.get s.disp.decisions tn 0 + 1)
  rw [ho] at hpick
  unfold counts at h
  unfold counts unstalled at hpick ho ⊢
  unfold decide1
  dsimp only
  rw [h]
  dsimp only
  rw [hpick]
  cases hf : findOrigin s r with
  | none => rfl
  | some o =>
    rw [hf] at ho
    simp only [Option.isSome_some, ↓reduceIte, ho]

end

/-- A decision with one waiting run places its next gang, or counts that it has not. -/
theorem dispatchDecision_places {s : State} {tn : Nat} {r : Run} {d : Machine.Part} (hw : waiting s tn = [r]) (hst : stopped s tn = false)
    (hp : s.part? tn = some d) (hh : (s.host.tele.powerHold || s.host.tele.tempHold) = false) :
    (stalledPlace (counts tn s) tn = none →
      (∀ o, findOrigin s r = some o →
        (∀ v, placeGang (unstalled tn (counts tn s)) r o = some v → exec (.dispatchDecision tn) s = .next (decided tn r v)) ∧
        (placeGang (unstalled tn (counts tn s)) r o = none →
          exec (.dispatchDecision tn) s = .next (stallPlace (failsOnce r (unstalled tn (counts tn s))) r o))) ∧
      (findOrigin s r = none → exec (.dispatchDecision tn) s = .next (failsOnce r (unstalled tn (counts tn s))))) ∧
    (∀ o, stalledPlace (counts tn s) tn = some (r, o) →
      (∀ v, placeGang (counts tn s) r o = some v → exec (.dispatchDecision tn) s = .next (decided tn r v)) ∧
      (placeGang (counts tn s) r o = none → exec (.dispatchDecision tn) s = .next (stallPlace (failsOnce r (counts tn s)) r o))) := by
  have hwu : waiting (unstalled tn (counts tn s)) tn = [r] := hw
  have hwc : waiting (counts tn s) tn = [r] := hw
  rw [dispatchDecision_decides hw hst hp hh]
  refine ⟨fun h => ⟨fun o ho => ?_, fun ho => ?_⟩, fun o h => ?_⟩
  · have hd : decide1 s tn = placeOrStall (unstalled tn (counts tn s)) tn r o := by rw [decide1_picks hw h, ho]
    obtain ⟨hsome, hnone⟩ := placeOrStall_eq hwu o
    exact ⟨fun v hv => congrArg _ (hd.trans (hsome v hv)), fun hv => congrArg _ (hd.trans (hnone hv))⟩
  · have hd : decide1 s tn = countFails (unstalled tn (counts tn s)) tn none := by rw [decide1_picks hw h, ho]
    exact congrArg _ (hd.trans (countFails_none hwu))
  · obtain ⟨hsome, hnone⟩ := placeOrStall_eq hwc o
    exact ⟨fun v hv => congrArg _ ((decide1_stalled h).trans (hsome v hv)), fun hv => congrArg _ ((decide1_stalled h).trans (hnone hv))⟩

/-! ### Placing a gang (R158, R64): of the dispatcher's lists only the gangs and the run change -/

theorem takeGen_disp {s t : State} {c : Nat} {who : Stall} {g : BitVec 16} (h : takeGen s c who = some (g, t)) : t.disp = s.disp := by
  unfold takeGen at h
  split at h
  · cases h
  · obtain ⟨n, -, hn⟩ := Option.map_eq_some_iff.mp h
    cases hn
    rfl

theorem placeCtx_disp (s : State) (c i : Nat) (x : Ctx) : (placeCtx s c i x).disp = s.disp := by
  unfold placeCtx
  split <;> rfl

theorem addRegion_disp {s t : State} {c off len gang tenant run : Nat} {trap : Bool} (h : addRegion s c off len trap gang tenant run = some t) :
    t.disp = s.disp := by
  unfold addRegion at h
  split at h
  · cases h
  next hg =>
    have hd := takeGen_disp hg
    cases h
    exact hd

theorem addCtxs_disp {r : Run} {g index c col row : Nat} : ∀ {l : List ((Nat × Pin × Bool) × (Nat × Nat))} {s t : State},
    addCtxs r g index c col row l s = some t → t.disp = s.disp
  | [], s, t, h => by cases h; rfl
  | ((rank, pin, landing), (i, w)) :: l, s, t, h => by
    unfold addCtxs at h
    split at h
    · cases h
    next hg =>
      have hd := takeGen_disp hg
      exact (addCtxs_disp h).trans ((State.gain_disp ..).trans ((placeCtx_disp ..).trans hd))

theorem placeCore_disp {r : Run} {g index : Nat} {s t : State} {at_ : Nat × Nat × Nat} (h : placeCore r g index s at_ = some t) : t.disp = s.disp := by
  unfold placeCore at h
  dsimp only at h
  split at h
  · cases h
  · obtain ⟨u, hu, rfl⟩ := Option.map_eq_some_iff.mp h
    obtain ⟨v, hv, hu⟩ := Option.bind_eq_some_iff.mp hu
    have hvs : v.disp = s.disp := by
      split at hv
      · cases hv; rfl
      · exact addRegion_disp hv
    refine Eq.trans ?_ ((addCtxs_disp hu).trans hvs)
    split <;> rfl

theorem foldl_bind_none {α β : Type} (f : α → β → Option α) (l : List β) : l.foldl (fun o b => o.bind (fun a => f a b)) none = none := by
  induction l with
  | nil => rfl
  | cons b l ih => exact ih

/-- What every step of a fold that may fail keeps, the whole fold keeps. -/
theorem foldl_bind_keeps {α β γ : Type} {f : α → β → Option α} {p : α → γ} (hf : ∀ a b a', f a b = some a' → p a' = p a) :
    ∀ (l : List β) {a a' : α}, l.foldl (fun o b => o.bind (fun a => f a b)) (some a) = some a' → p a' = p a
  | [], a, a', h => by cases h; rfl
  | b :: l, a, a', h => by
    rw [List.foldl_cons, Option.bind_some] at h
    cases hb : f a b with
    | none => rw [hb, foldl_bind_none] at h; cases h
    | some a1 => rw [hb] at h; exact (foldl_bind_keeps hf l h).trans (hf a b a1 hb)

/-- The gang that a placement adds. -/
def gangOf (s : State) (r : Run) (o : Nat) : Gang :=
  { uid := s.nextId, run := r.uid, index := r.next, tenant := r.tenant, origin := o, w := pkW r.packet, h := pkH r.packet,
    lock := pkLock r.packet, chain := pkChain r.packet, sup := r.sup, filling := pkImage r.packet != 0, bars := [], lastEnd := none,
    lastChain := none, aborted := false }

theorem placeGang_gangs {s u : State} {r : Run} {o : Nat} (h : placeGang s r o = some u) : u.disp.gangs = s.disp.gangs ++ [gangOf s r o] := by
  unfold placeGang at h
  obtain ⟨v, hv, rfl⟩ := Option.map_eq_some_iff.mp h
  exact congrArg Disp.gangs (foldl_bind_keeps (p := State.disp) (fun a b a' => placeCore_disp) _ hv)

/-! ### The contexts of a gang, and the end of its fill (R64) -/

theorem Core.mem_joinRot (k : Core) (i : Nat) : i ∈ (k.joinRot i).rot := List.mem_append_right _ (List.mem_singleton_self i)

theorem State.mem_modCore_joinRot (s : State) (c i : Nat) : i ∈ ((s.modCore c (fun k => k.joinRot i)).core c).rot := by
  rw [State.core_modCore_same]
  exact Core.mem_joinRot _ i

theorem placeCtx_rot {s : State} {c i : Nat} {x : Ctx} (h : x.state = .ready) : i ∈ ((placeCtx s c i x).core c).rot := by
  unfold placeCtx
  dsimp only
  rw [if_pos h]
  exact State.mem_modCore_joinRot _ c i

theorem deliverHeld_none {s : State} {c i : Nat} (h : (s.ctx c i).held = []) : deliverHeld s c i = s := by
  unfold deliverHeld
  dsimp only
  rw [h]

theorem State.ctx_ready (s : State) (c i : Nat) : (s.ready c i).ctx c i = { s.ctx c i with state := .ready, wait := none, bwait := none, taken := {} } :=
  (State.ctx_modCore rfl c i).trans (State.ctx_modCtx_same ..)

theorem endFill_ready {m : Img} {l : List (Nat × TVal)} {s : State} {c i : Nat} {x : Ctx} (hx : x.landing = false) (hh : (s.ctx c i).held = []) :
    ((endFill m l s (c, i, x)).ctx c i).state = .ready ∧ ((endFill m l s (c, i, x)).ctx c i).fill = l ∧
    i ∈ ((endFill m l s (c, i, x)).core c).rot := by
  have he : endFill m l s (c, i, x) = (s.modCtx c i (fun y => { y with fill := l, carry := if y.chain then m.carry else none })).ready c i := by
    unfold endFill
    dsimp only
    rw [if_neg (by simp [hx])]
    exact deliverHeld_none (by rw [State.ctx_ready, State.ctx_modCtx_same]; exact hh)
  rw [he]
  refine ⟨?_, ?_, State.mem_modCore_joinRot _ c i⟩
  · rw [State.ctx_ready]
  · rw [State.ctx_ready, State.ctx_modCtx_same]

theorem gangFillEnd_eq {g : Nat} {s : State} {y : Gang} (hg : s.gang? g = some y) (hf : y.filling = true) (hs : stopped s y.tenant = false) :
    (∀ m l, (s.run? y.run).bind (readFill s) = some (m, l) → exec (.gangFillEnd g) s =
      .next ((s.allCtxs.filter (fun (_, _, x) => x.gang == some g && x.state == .filling)).foldl (endFill m l)
        (s.modGang g (fun y => { y with filling := false })))) ∧
    ((s.run? y.run).bind (readFill s) = none → exec (.gangFillEnd g) s = .next (abortGang (s.modGang g (fun y => { y with filling := false })) g)) := by
  have hif : ¬((!y.filling || stopped s y.tenant) = true) := by simp [hf, hs]
  refine ⟨fun m l h => ?_, fun h => ?_⟩ <;>
  · show execGangFillEnd g s = _
    unfold execGangFillEnd
    rw [hg]
    dsimp only
    rw [if_neg hif, h]

/-! ### Retirement (R153, R169): the gang's contexts are free, and its run counts it -/

theorem SMap.mem_get {α : Type} {m : SMap α} {k : Nat} {d : α} (h : SMap.get m k d ≠ d) : (k, SMap.get m k d) ∈ m := by
  induction m with
  | nil => exact absurd rfl h
  | cons e m ih =>
    rw [SMap.get_cons] at h ⊢
    by_cases hk : e.1 = k
    · rw [if_pos hk, ← hk]
      exact List.mem_cons_self
    · rw [if_neg hk] at h ⊢
      exact List.mem_cons_of_mem _ (ih h)

theorem mem_allCtxs {s : State} {c i : Nat} (h : (s.ctx c i).state ≠ .free) : (c, i, s.ctx c i) ∈ s.allCtxs := by
  have hi : s.ctx c i ≠ Ctx.reset := fun he => h (by rw [he]; rfl)
  have hc : s.core c ≠ Core.reset := fun he => hi (congrArg (fun k => Core.ctx k i) he)
  exact List.mem_flatMap.mpr ⟨(c, s.core c), SMap.mem_get hc, List.mem_filterMap.mpr ⟨(i, s.ctx c i), SMap.mem_get hi, if_neg h⟩⟩

theorem freeCtx_disp (s : State) (c i : Nat) : (freeCtx s c i).disp = s.disp := by
  unfold freeCtx clearSems
  dsimp only
  split <;> rfl

/-- The contexts of a list become free. -/
def freeAll (l : List (Nat × Nat × Ctx)) (s : State) : State := l.foldl (fun s (c, i, _) => freeCtx s c i) s

theorem freeAll_disp (l : List (Nat × Nat × Ctx)) (s : State) : (freeAll l s).disp = s.disp := by
  induction l generalizing s with
  | nil => rfl
  | cons a l ih => exact (ih _).trans (freeCtx_disp ..)

theorem freeAll_free {l : List (Nat × Nat × Ctx)} {s : State} {c i : Nat} (h : (s.ctx c i).state = .free ∨ ∃ x, (c, i, x) ∈ l) :
    ((freeAll l s).ctx c i).state = .free := by
  induction l generalizing s with
  | nil => exact h.elim id fun ⟨_, hx⟩ => absurd hx List.not_mem_nil
  | cons a l ih =>
    refine ih (s := freeCtx s a.1 a.2.1) ?_
    rw [freeCtx_ctx]
    by_cases ha : c = a.1 ∧ i = a.2.1
    · exact .inl (by rw [if_pos ha]; rfl)
    · rw [if_neg ha]
      refine h.imp id fun ⟨x, hx⟩ => ⟨x, (List.mem_cons.mp hx).resolve_left ?_⟩
      rintro rfl
      exact ha ⟨rfl, rfl⟩

theorem dropRegions_ctx (s : State) (c g d i : Nat) : (dropRegions s c g).ctx d i = s.ctx d i := by
  unfold dropRegions
  exact State.ctx_modCore rfl d i

theorem dropPair_disp (s : State) (c : Nat) : (dropPair s c).disp = s.disp := by
  unfold dropPair
  dsimp only
  split
  · rfl
  · split <;> rfl

theorem dropPair_ctx (s : State) (c d i : Nat) : (dropPair s c).ctx d i = s.ctx d i := by
  unfold dropPair
  dsimp only
  split
  · rfl
  · split
    · rfl
    · exact (State.ctx_modCore rfl d i).trans (State.ctx_modCore rfl d i)

/-- The regions of a gang end on its cores, and a pair without lockstep contexts is one no more. -/
def dropCores (g : Nat) (l : List Nat) (s : State) : State := l.foldl (fun s c => dropPair (dropRegions s c g) c) s

theorem dropCores_disp (g : Nat) (l : List Nat) (s : State) : (dropCores g l s).disp = s.disp := by
  induction l generalizing s with
  | nil => rfl
  | cons c l ih => exact (ih _).trans ((dropPair_disp ..).trans rfl)

theorem dropCores_ctx (g : Nat) (l : List Nat) (s : State) (d i : Nat) : (dropCores g l s).ctx d i = s.ctx d i := by
  induction l generalizing s with
  | nil => rfl
  | cons c l ih => exact (ih _).trans ((dropPair_ctx ..).trans (dropRegions_ctx ..))

/-- What a change of a run that keeps its number makes of it. -/
theorem State.run?_modRun {s : State} {n : Nat} {r : Run} {f : Run → Run} (hf : ∀ x, (f x).uid = x.uid) (h : s.run? n = some r) :
    (s.modRun n f).run? n = some (f r) := by
  have hr : (r.uid == n) = true := List.find?_some (p := fun x : Run => x.uid == n) h
  have hp : ((fun x : Run => x.uid == n) ∘ fun x => if x.uid == n then f x else x) = fun x => x.uid == n := by
    funext x
    simp only [Function.comp_apply]
    split
    · rw [hf]
    · rfl
  show List.find? _ (List.map _ _) = _
  rw [List.find?_map, hp]
  exact (congrArg _ h).trans (congrArg some (if_pos hr))

/-- A run has counted the end of a gang. -/
def Run.counted (y : Gang) (r : Run) : Run :=
  { r with
    ended := r.ended + 1, aborts := if gangAborted y then r.aborts + 1 else r.aborts,
    abortedItems := if gangAborted y && y.chain then r.abortedItems ++ [y.index] else r.abortedItems }

theorem gangRetire_next {g : Nat} {s : State} {y : Gang} (hg : s.gang? g = some y) (hy : canRetire s y = true) :
    ∃ t, exec (.gangRetire g) s = .next t ∧ t.disp.gangs = s.disp.gangs.filter (fun x => x.uid != g) ∧
      t.disp.runs = (s.modRun y.run (Run.counted y)).disp.runs ∧
      t.cores = (dropCores g y.cores (freeAll (s.allCtxs.filter (fun (_, _, x) => x.gang == some g)) s)).cores := by
  have hu : (dropCores g y.cores (freeAll (s.allCtxs.filter (fun (_, _, x) => x.gang == some g)) s)).disp = s.disp :=
    (dropCores_disp ..).trans (freeAll_disp ..)
  have hgangs := congrArg (fun d : Disp => d.gangs.filter (fun x : Gang => x.uid != g)) hu
  have hruns := congrArg (fun d : Disp => d.runs.map (fun x : Run => if x.uid == y.run then Run.counted y x else x)) hu
  show ∃ t, execGangRetire g s = .next t ∧ _
  unfold execGangRetire
  rw [hg]
  dsimp only
  rw [if_neg (by simp [hy])]
  exact ⟨_, rfl, hgangs, hruns, rfl⟩

theorem gangRetire_retires {g : Nat} {s : State} {y : Gang} (hg : s.gang? g = some y) (hy : canRetire s y = true) :
    ∃ t, exec (.gangRetire g) s = .next t ∧ t.gang? g = none ∧
      (∀ c i, (s.ctx c i).gang = some g → (s.ctx c i).state ≠ .free → (t.ctx c i).state = .free) ∧
      ∀ r, s.run? y.run = some r → t.run? y.run = some (Run.counted y r) := by
  obtain ⟨t, ht, hgangs, hruns, hcores⟩ := gangRetire_next hg hy
  refine ⟨t, ht, ?_, fun c i hgang hs => ?_, fun r hr => ?_⟩
  · show t.disp.gangs.find? _ = none
    rw [hgangs]
    simp
  · have hc : t.ctx c i = (freeAll (s.allCtxs.filter (fun (_, _, x) => x.gang == some g)) s).ctx c i :=
      (congrArg (fun m => (SMap.get m c Core.reset).ctx i) hcores).trans (dropCores_ctx ..)
    rw [hc]
    exact freeAll_free (.inr ⟨_, List.mem_filter.mpr ⟨mem_allCtxs hs, by simp [hgang]⟩⟩)
  · show t.disp.runs.find? _ = _
    rw [hruns]
    exact State.run?_modRun (fun _ => rfl) hr

/-- Settles O47: the waiting run's gang is placed whole or fails once more, its contexts start as their packet says, a fill ends for all of them together,
and retirement frees every one of them and counts in the run. -/
theorem placement : Obligations.Placement := by
  unfold Obligations.Placement
  refine ⟨fun tn s r d hw hst hp => ?_, fun o s u r h => ?_, ?_, fun n s r hr hf => ?_, fun g s y hg hf hs => ?_, fun m l s c i x hx hh => ?_,
    fun g s y hg hy => ?_⟩
  · exact ⟨dispatchDecision_held, fun hh => (dispatchDecision_places hw hst hp hh).1, fun hh => (dispatchDecision_places hw hst hp hh).2⟩
  · refine ⟨gangOf s r o, placeGang_gangs h, rfl, rfl, rfl, rfl, rfl, rfl, rfl, ?_⟩
    simp [gangOf]
  · rintro s _ r g c i w index col row rank uid pin gen rfl
    have hx := (placeCtx_ctx s c i (gangCtx s r g index col row rank pin false uid gen w) c i).trans (if_pos ⟨rfl, rfl⟩)
    dsimp only
    rw [hx]
    refine ⟨rfl, rfl, rfl, rfl, rfl, rfl, rfl, rfl, rfl, rfl, rfl, rfl, rfl, rfl, rfl, ?_, fun him => ?_, fun him => if_neg him⟩
    · cases hr : r.sup <;> simp [gangCtx, Ctx.level, hr, bits]
    · exact ⟨if_pos him, placeCtx_rot (if_pos him)⟩
  · show execRunBlock n s = _
    unfold execRunBlock
    rw [hr]
    exact congrArg _ (if_pos hf)
  · exact gangFillEnd_eq hg hf hs
  · exact endFill_ready hx hh
  · obtain ⟨t, ht, hnone, hfree, hrun⟩ := gangRetire_retires hg hy
    exact ⟨t, ht, hnone, hfree, fun r hr => ⟨_, hrun r hr, rfl, rfl⟩⟩

end Sys2Proof.Machine
end

section
/-! PROOF. Records that leave their core (R160 to R168, R392 to R394, R400, R446): the end of a landing, `go` and `ld.go`. -/

namespace Sys2Proof.Machine

/-! ### The end of a landing (R161, R163, R374) -/

/-- The landing of a context that has left its elections and its inline run. -/
def landingOver (u : State) (c i : Nat) : State :=
  (u.modCtx c i (fun x => { x.leaveInline with
      state := .idleLanding, wait := none, bwait := none, hasRec := false, body := none, mtrap := none, recC := false, recQ := false, ship := none,
      packet := none, taken := {}, status := setBits x.status 7 0 0, in14 := false, results := [], held := [], fill := [], loads := []
      nS := x.nS - storesOf x.loads })).modCore c
    (fun k => { (k.leaveRot i).dropJrec (u.ctx c i).uid with rounds := k.rounds.filter (fun r => r.uid != (u.ctx c i).uid) })

theorem endLanding_eq (s : State) (c i : Nat) : endLanding s c i = landingOver (endInline (leaveElections s c i) (s.ctx c i)) c i := rfl

theorem landingOver_ctx (u : State) (c i : Nat) : (landingOver u c i).ctx c i = { (u.ctx c i).leaveInline with
      state := .idleLanding, wait := none, bwait := none, hasRec := false, body := none, mtrap := none, recC := false, recQ := false, ship := none,
      packet := none, taken := {}, status := setBits (u.ctx c i).status 7 0 0, in14 := false, results := [], held := [], fill := [], loads := []
      nS := (u.ctx c i).nS - storesOf (u.ctx c i).loads } :=
  (State.ctx_modCore (Core.dropJrec_keeps Core.ctxs (fun _ _ => rfl) ..) c i).trans (State.ctx_modCtx_same ..)

theorem landingOver_sameStores (u : State) (c i : Nat) : SameStores u (landingOver u c i) :=
  (SameStores.modCore (Core.dropJrec_keeps Core.store (fun _ _ => rfl) ..)).after (.modCtx u c i _)

theorem endLanding_sameStores (s : State) (c i : Nat) : SameStores s (endLanding s c i) :=
  ((landingOver_sameStores _ c i).after (endInline_sameStores ..)).after (leaveElections_sameStores s c i)

/-- Elections and inline runs are not of the cores. -/
theorem leaveElections_cores (s : State) (c i : Nat) : (leaveElections s c i).cores = s.cores := by
  unfold leaveElections
  dsimp only
  split <;> rfl

theorem endInline_cores (s : State) (x : Ctx) : (endInline s x).cores = s.cores := by
  unfold endInline
  generalize x.inl = l
  induction l generalizing s with
  | nil => rfl
  | cons n l ih => exact ih _

theorem leaveInline_inl (x : Ctx) : x.leaveInline.inl = [] := by
  unfold Ctx.leaveInline
  split
  · next h => exact List.getLast?_eq_none_iff.mp h
  · rfl

theorem leaveInline_landing (x : Ctx) : x.leaveInline.landing = x.landing := by
  unfold Ctx.leaveInline
  split <;> rfl

/-- What the context is after its landing. -/
theorem endLanding_ends (s : State) (c i : Nat) : let y := (endLanding s c i).ctx c i
    y.state = .idleLanding ∧ y.hasRec = false ∧ y.wait = none ∧ y.loads = [] ∧ y.held = [] ∧ y.packet = none ∧ y.landing = (s.ctx c i).landing ∧
    y.level = 0 ∧ y.uin = false ∧ y.sin = false ∧ y.inl = [] := by
  have hu : (endInline (leaveElections s c i) (s.ctx c i)).ctx c i = s.ctx c i :=
    congrArg (fun m => (SMap.get m c Core.reset).ctx i) ((endInline_cores ..).trans (leaveElections_cores ..))
  have hy := (congrArg (fun u => State.ctx u c i) (endLanding_eq s c i)).trans (landingOver_ctx ..)
  rw [hu] at hy
  dsimp only at hy ⊢
  rw [hy]
  exact ⟨rfl, rfl, rfl, rfl, rfl, rfl, leaveInline_landing _, bits_setBits_low _, getLsbD_setBits_low _ (by decide),
    getLsbD_setBits_low _ (by decide), leaveInline_inl _⟩

/-! ### A record leaves (R162, R166) -/

/-- Where there is room for its record, the landing ends and the record is on its way. -/
theorem shipAndEnd_ships {e : Env} {s : State} {d : Nat} {pc : Word} (h : canShip s (shipmentOf e s pc d) = true) :
    shipAndEnd d pc e s = .ok ((), shipped e pc d s) := by
  unfold shipAndEnd
  rw [M.bind_ok (M.env_run e s), M.bind_ok (M.me_run e s), M.bind_ok (M.myCore_run e s), M.bind_ok (M.state_run e s)]
  exact M.if_pos_run h ..

/-- The core that a global address leads to: the one beside its channel, or any for a host page, and the state that the choice leaves. -/
def channelCore (q : Place) (s : State) : Nat × State :=
  match q with
  | .hbm m => (kerbOf m, s)
  | _ => (12288 + Config.freePick s.free % 256, s.draw.2)

theorem goGlobal_leads {p : Word} {op : Op} {e : Env} {s t : State} {q : Place} {lv : Nat} (h : translate p op e s = .ok ((q, lv), t)) :
    goGlobal p op e s = .ok (channelCore q t) := by
  unfold goGlobal
  rw [M.bind_ok h]
  cases q <;> rfl

/-- `go` in a landing that may end, to a core that its pointer names. -/
theorem goLanding_ships {p : Word} {e : Env} {s : State} {d : Nat} (hm : landingMayEnd e s = true)
    (hp : ¬(bits p 63 56 = 0 ∧ p.getLsbD 51 = false)) (hd : goCore s e.core (s.ctx e.core e.slot) p = .ok d)
    (hs : canShip s (shipmentOf e s (e.pc + 4) d) = true) : goLanding p e s = .ok ((), shipped e (e.pc + 4) d s) := by
  unfold goLanding
  rw [M.bind_ok (M.env_run e s), M.bind_ok (M.state_run e s), M.bind_ok (M.me_run e s), M.bind_ok (landingEnd_may hm), M.if_neg_run hp, hd]
  exact shipAndEnd_ships hs

theorem go_ships {a : RegF} {s s1 : State} {p : TVal} {d : Nat} (hs : starts (.go a) s = true) (ha : Reads (doer (.go a) s) a (begun s) p s1)
    (hl : (s1.ctx s.cur.1 s.cur.2).landing = true) (hm : landingMayEnd (doer (.go a) s) s1 = true)
    (hp : ¬(bits p.val 63 56 = 0 ∧ p.val.getLsbD 51 = false)) (hd : goCore s1 s.cur.1 (s1.ctx s.cur.1 s.cur.2) p.val = .ok d)
    (hc : canShip s1 (shipmentOf (doer (.go a) s) s1 (s.who.pc + 4) d) = true) :
    exec (.go a) s = .next (ended s (shipped (doer (.go a) s) (s.who.pc + 4) d s1)) := by
  refine run_completes hs ?_
  rw [M.bind_ok (readVal_of ha), M.bind_ok (M.me_run ..)]
  exact (M.if_pos_run hl ..).trans (goLanding_ships hm hp hd hc)

/-! ### `ld.go` (R168, R400) -/

theorem sxImm_mul (imm : BitVec 7) (n : Nat) : sxImm 7 imm * w64 n = BitVec.ofInt 64 (imm.toInt * n) := by
  unfold sxImm w64
  rw [BitVec.ofInt_mul]
  rfl

theorem loadPtr_run {a : RegF} {z : Size} {imm : BitVec 7} {e : Env} {s t : State} {base : TVal} (h : Reads e a s base t) :
    loadPtr a z imm e s = .ok (operandPtr base.val imm (sizeBytes z), t) := by
  unfold loadPtr operandPtr
  rw [M.bind_ok (readVal_of h), ← sxImm_mul]
  rfl

/-- The channel of the place is the issuing core's own: a kerb core has one. -/
def ownChannel (core : Nat) : Place → Bool
  | .hbm h => isKerb core && kerbOf h == core
  | _ => isKerb core

section
variable {d a : RegF} {z : Size} {imm : BitVec 7} {s s1 s2 s3 : State} {base : TVal} {l : Loc} {q : Place} {lv : Nat}

/-- `ld.go` of another channel ends its landing, and its record starts with it again beside that channel. -/
theorem ldGo_ships (hs : starts (.ldGo d a z imm) s = true) (ha : Reads (doer (.ldGo d a z imm) s) a (begun s) base s1)
    (hl : (s1.ctx s.cur.1 s.cur.2).landing = true) (hp : bits (operandPtr base.val imm (sizeBytes z)) 63 56 = 0)
    (hp' : (operandPtr base.val imm (sizeBytes z)).getLsbD 51 = false)
    (hf : Finds (doer (.ldGo d a z imm) s) (operandPtr base.val imm (sizeBytes z)) (sizeBytes z) .ld false s1 l s2)
    (ho : ownChannel s.cur.1 l.place = false) (hm : landingMayEnd (doer (.ldGo d a z imm) s) s2 = true)
    (ht : translate (operandPtr base.val imm (sizeBytes z)) .ld (doer (.ldGo d a z imm) s) s2 = .ok ((q, lv), s3))
    (hc : canShip (channelCore q s3).2 (shipmentOf (doer (.ldGo d a z imm) s) (channelCore q s3).2 s.who.pc (channelCore q s3).1) = true) :
    exec (.ldGo d a z imm) s = .next (ended s (shipped (doer (.ldGo d a z imm) s) s.who.pc (channelCore q s3).1 (channelCore q s3).2)) := by
  refine run_completes hs ?_
  rw [M.bind_ok (loadPtr_run ha), M.bind_ok (M.me_run ..), M.bind_ok (M.env_run ..), M.if_neg_run, M.bind_ok hf]
  · dsimp only
    refine Eq.trans (M.if_neg_run ?_ ..) ?_
    · exact ne_true_of_eq_false ho
    · rw [M.bind_ok (landingEnd_may hm), M.bind_ok (goGlobal_leads ht)]
      exact shipAndEnd_ships hc
  · rw [hp, hp']
    have hl : (s1.ctx (doer (.ldGo d a z imm) s).core (doer (.ldGo d a z imm) s).slot).landing = true := hl
    rw [hl]
    decide

end

/-! ### `susp` and `hold` outside a landing -/

theorem needLanding_none {e : Env} {s : State} (h : (s.ctx e.core e.slot).landing = false) :
    needLanding e s = .error (.trap { cause := 0x01, aux := w64 (4 * 2 ^ 32 + e.word.toNat) }) := by
  unfold needLanding
  rw [M.bind_ok (M.me_run e s), M.if_neg_run (by rw [h]; decide)]
  rfl

theorem needLanding_landing {e : Env} {s : State} (h : (s.ctx e.core e.slot).landing = true) : needLanding e s = .ok ((), s) := by
  unfold needLanding
  rw [M.bind_ok (M.me_run e s), M.if_pos_run h]
  rfl

theorem begun_landing (s : State) : ((begun s).ctx s.cur.1 s.cur.2).landing = s.who.landing := ctx_begun_keeps Ctx.landing (fun _ _ => rfl) ..

theorem susp_refused {a : RegF} {s : State} (hl : s.who.landing = false) (hs : starts (.susp a) s = true) :
    exec (.susp a) s = .next (rotate s.cur.1 s.cur.2
      (raise (doer (.susp a) s) { cause := 0x01, aux := w64 (4 * 2 ^ 32 + (doer (.susp a) s).word.toNat) } s)) :=
  run_traps hs (M.bind_error (needLanding_none ((begun_landing s).trans hl)) _)

theorem hold_refused {a : RegF} {s : State} (hl : s.who.landing = false) (hs : starts (.hold a) s = true) :
    exec (.hold a) s = .next (rotate s.cur.1 s.cur.2
      (raise (doer (.hold a) s) { cause := 0x01, aux := w64 (4 * 2 ^ 32 + (doer (.hold a) s).word.toNat) } s)) :=
  run_traps hs (M.bind_error (needLanding_none ((begun_landing s).trans hl)) _)

end Sys2Proof.Machine
end

section
/-! PROOF. `go` outside a landing, `ld.go` as a plain load, and `hold` (R166, R167, R168, R393, R394, R400). -/

namespace Sys2Proof.Machine

/-! ### The checks of an access (R208, R223, R224) -/

theorem boardCheck_clear {e : Env} {s : State} {l : Loc} {write : Bool} (h : clear e l write s = true) : boardCheck l write e s = .ok ((), s) := by
  obtain ⟨hr, hb⟩ := Bool.and_eq_true_iff.mp h
  unfold boardCheck
  rw [M.bind_ok (M.env_run e s), M.bind_ok (M.me_run e s), M.bind_ok (M.state_run e s), M.if_neg_run (ne_true_of_eq_false (Bool.not_eq_true' _ ▸ hr))]
  cases hl : l.place with
  | ls c off =>
    rw [hl] at hb
    refine M.if_neg_run ?_ ..
    rintro ⟨rfl, hm⟩
    simp [hm] at hb
  | hbm m => rfl
  | host m => rfl
  | peer k m => rfl

theorem Finds.size {e : Env} {p : Word} {n : Nat} {op : Op} {plainD : Bool} {s t : State} {l : Loc} (h : Finds e p n op plainD s l t) : l.size = n := by
  unfold Finds resolve at h
  dsimp only at h
  repeat' split at h
  all_goals cases h
  all_goals rfl

/-- A pointer whose bits [63:56] are neither 0 nor those of the private window leads through one of the windows of local store. -/
theorem checkPtr_near {s : State} {core size : Nat} {pv p : Word} {w : Win} {g : Target} (h : checkPtr s core pv p size = .ok (w, g))
    (h0 : bits p 63 56 ≠ 0) (h1 : bits p 63 56 ≠ 0xF1) : w = .loc ∨ w = .sq ∨ w = .rem := by
  have hn : ∀ {v : Win} {t : Nat}, checkNear s p v t = .ok (w, g) → w = v := by
    intro v t hv
    unfold checkNear at hv
    dsimp only at hv
    repeat' split at hv
    all_goals cases hv
    all_goals rfl
  unfold checkPtr at h
  dsimp only at h
  split at h
  · next hw => exact absurd hw h0
  · next hw => exact absurd hw h1
  · split at h
    · exact .inl (hn h)
    · cases h
  · split at h
    · exact .inr (.inl (hn h))
    · cases h
  · split at h
    · exact .inr (.inr (hn h))
    · cases h
  · cases h

theorem Finds.checked {e : Env} {p : Word} {n : Nat} {op : Op} {plainD : Bool} {s t : State} {l : Loc} (h : Finds e p n op plainD s l t) :
    ∃ w g, checkPtr s e.core (s.ctx e.core e.slot).pvbase p n = .ok (w, g) := by
  unfold Finds resolve at h
  dsimp only at h
  split at h
  · cases h
  · next w g hw => exact ⟨w, g, hw⟩

/-! ### `go` outside a landing (R166, R393) -/

theorem State.ctx_gain (s : State) (u : Nat) (f : Front) (d j : Nat) : (s.gain u f).ctx d j = s.ctx d j :=
  congrArg (fun k => Core.ctx k j) (State.core_gain s u f d)

/-- A write to local store changes bytes, full/empty states and stamps. -/
theorem Core.lsWrite_keeps {β : Type} (p : Core → β) (hp : ∀ k m f g, p { k with ls := m, fe := f, lsGen := g } = p k) (k : Core) (g : BitVec 16)
    (off n v : Nat) : p (k.lsWrite g off n v) = p k := by
  rw [Core.lsWrite_eq]
  by_cases h : k.stamp off = g
  · rw [Core.current_of_stamp h]
    exact hp k _ _ _
  · rw [Core.current_of_stale h]
    unfold Core.zeroGranule
    exact hp k _ _ _

theorem State.ctx_writeAt (s : State) (pl : Place) (n v : Nat) (own : BitVec 16) (d j : Nat) : (s.writeAt pl n v own).ctx d j = s.ctx d j := by
  cases pl with
  | ls c off => exact State.ctx_modCore (f := fun k => k.lsWrite (k.gov own off).1 off n v) (Core.lsWrite_keeps Core.ctxs (fun _ _ _ _ => rfl) ..) d j
  | hbm m => unfold State.writeAt; dsimp only; split <;> rfl
  | host m => rfl
  | peer k m => rfl

/-- No context changes where bytes are committed. -/
theorem State.ctx_commit (s : State) (k : Commit) (pl : Place) (n v : Nat) (own : BitVec 16) (d j : Nat) :
    (s.commit k pl n v own).ctx d j = s.ctx d j := by
  unfold State.commit
  cases pl with
  | ls c off => exact State.ctx_writeAt ..
  | hbm m =>
    dsimp only
    split
    · rfl
    · exact State.ctx_writeAt ..
  | host m => exact State.ctx_writeAt ..
  | peer k m => rfl

/-- The record that a `go` outside a landing has taken, for its own core. -/
def takenRecord (e : Env) (s : State) (w : List Word) (f : Front) : Shipment :=
  { words := w, dest := e.core, src := 0, tenant := (s.ctx e.core e.slot).tenant, sender := e.core, front := f }

/-- The end of an issue slot at s whose `go` has handed its record on: it goes on from the queue, and waits while the record is in the ring. -/
def handedOn (i : Instr) (s t : State) (way : Delivered) : State :=
  let e := doer i s
  match way with
  | .queue => ended s (t.modCtx e.core e.slot (fun y => { y with ship := none }))
  | .ring n => ((t.modCtx e.core e.slot (fun y => { y with ship := some (ringMark, [w64 n, s.who.pc]) })).modCtx e.core e.slot
      (fun y => { y.noteTaken s.who with pc := s.who.pc })).parkOn e.core e.slot { list := 10, object := 0, cond := .delivery }

theorem finish_handOn {i : Instr} {s u t : State} {w : List Word} {f : Front} {way : Delivered}
    (h : deliverRecord u (takenRecord (doer i s) u w f) = some (way, t)) : finish (doer i s) s (handOn w f (doer i s) u) = .next (handedOn i s t way) := by
  unfold handOn
  rw [M.bind_ok (M.env_run ..), M.bind_ok (M.me_run ..), M.bind_ok (M.state_run ..)]
  unfold takenRecord at h
  rw [h]
  cases way <;> rfl

/-- The record at l is taken: its context has seen it and acquired with it, and its state in memory is idle. -/
def took (e : Env) (l : Loc) (w : List Word) (s : State) : State :=
  let x := s.ctx e.core e.slot
  let u := s.see x.uid (s.latest l.place 64)
  numbered e ((u.commit (u.byRelease e.core x.uid x.tenant x.seq .device) l.place 8 (setBits (w.getD 0 0) 47 46 0).toNat x.gen).gain x.uid
    (s.acquiredAt (.ctx x.uid e.core x.tenant 0 0) l.place 64))

theorem took_tenant (e : Env) (l : Loc) (w : List Word) (s : State) : ((took e l w s).ctx e.core e.slot).tenant = (s.ctx e.core e.slot).tenant := by
  refine (State.ctx_modCtx_keeps Ctx.tenant (f := fun x => { x with seq := x.seq + 1 }) rfl ..).trans (congrArg Ctx.tenant ?_)
  exact (State.ctx_gain ..).trans ((State.ctx_commit ..).trans (State.ctx_gain ..))

theorem takeRecord_takes {e : Env} {s s1 : State} {p : Word} {l : Loc} {x : Ctx} {w : List Word} (hf : Finds e p 64 .atom false s l s1)
    (hb : clear e l true s1 = true) (hp : performed e s1 = true) (hx : s1.ctx e.core e.slot = x)
    (hw : (List.range 8).map (fun j => w64 (s1.readAt (l.place.plus (8 * j)) 8 x.gen)) = w)
    (hh : homeFault s1 e.core (.cas 0 0 .device) l.place p l.lv x.gen = none) (ht : recTenant w = x.tenant) (hst : recState w = 1)
    (hz : bits (w.getD 1 0) 63 62 = 0) (hs : s1.staleTrap (l.place.plus 32) x.gen = false) :
    takeRecord p e s = handOn w ((s1.released x.uid .device).join (s1.acquiredAt (.ctx x.uid e.core x.tenant 0 0) l.place 64)) e (took e l w s1) := by
  unfold takeRecord
  rw [M.bind_ok hf]
  dsimp only
  rw [M.bind_ok (boardCheck_clear hb), M.bind_ok (waitPerformed_done hp), M.bind_ok (M.env_run ..), M.bind_ok (M.me_run ..), M.bind_ok (M.state_run ..),
    hx, hh]
  dsimp only
  rw [hw, M.if_neg_run (not_not.mpr ht), M.if_neg_run (not_not.mpr hst), M.if_neg_run (not_not.mpr hz), M.if_neg_run (ne_true_of_eq_false hs),
    M.bind_ok (M.modify_run ..), M.bind_ok (m := countAccess) (M.modMe_run ..)]
  unfold took numbered
  rw [hx]

/-- Outside a landing `go` takes the record at its pointer and hands it on. -/
theorem go_takes {a : RegF} {s s1 s2 t : State} {p : TVal} {l : Loc} {way : Delivered} (hs : starts (.go a) s = true)
    (ha : Reads (doer (.go a) s) a (begun s) p s1) (hl : (s1.ctx s.cur.1 s.cur.2).landing = false) (hn : (s1.ctx s.cur.1 s.cur.2).ship = none)
    {w : List Word} {f : Front}
    (ht : takeRecord p.val (doer (.go a) s) s1 = handOn w f (doer (.go a) s) (took (doer (.go a) s) l w s2))
    (hd : deliverRecord (took (doer (.go a) s) l w s2) (takenRecord (doer (.go a) s) s2 w f) = some (way, t)) :
    exec (.go a) s = .next (handedOn (.go a) s t way) := by
  have hx : ((took (doer (.go a) s) l w s2).ctx (doer (.go a) s).core (doer (.go a) s).slot).tenant = _ := took_tenant ..
  have hr : takenRecord (doer (.go a) s) (took (doer (.go a) s) l w s2) w f = takenRecord (doer (.go a) s) s2 w f := by
    unfold takenRecord
    rw [hx]
  have hg : goTake p.val (doer (.go a) s) s1 = takeRecord p.val (doer (.go a) s) s1 := by
    have hn : (s1.ctx (doer (.go a) s).core (doer (.go a) s).slot).ship = none := hn
    unfold goTake
    rw [M.bind_ok (M.env_run ..), M.bind_ok (M.me_run ..), M.bind_ok (M.state_run ..), hn]
  refine (run_starts _ hs).trans ?_
  rw [M.bind_ok (readVal_of ha), M.bind_ok (M.me_run ..)]
  refine Eq.trans (congrArg _ ((M.if_neg_run (ne_true_of_eq_false hl) ..).trans (hg.trans ht))) ?_
  exact finish_handOn (hr ▸ hd)

/-! ### `ld.go` as a plain load (R400) -/

section
variable {d a : RegF} {z : Size} {imm : BitVec 7} {s s1 s2 s3 s4 : State} {base : TVal} {l : Loc} {app : Option (Option Append)}

/-- Outside a landing, through another window than the global one, and for its own channel, `ld.go` goes on as `ld` does. -/
theorem ldGo_loads (ha : Reads (doer (.ldGo d a z imm) s) a (begun s) base s1) {p : Word} (hp : p = operandPtr base.val imm (sizeBytes z))
    (hs : if (s1.ctx s.cur.1 s.cur.2).landing = true ∧ bits p 63 56 = 0 ∧ p.getLsbD 51 = false
      then ∃ m, Finds (doer (.ldGo d a z imm) s) p (sizeBytes z) .ld false s1 m s2 ∧ ownChannel s.cur.1 m.place = true else s2 = s1)
    (hst : starts (.ldGo d a z imm) s = true) :
    exec (.ldGo d a z imm) s = finish (doer (.ldGo d a z imm) s) s (loadFrom d p z false true (doer (.ldGo d a z imm) s) s2) := by
  subst hp
  refine (run_starts _ hst).trans (congrArg _ ?_)
  rw [M.bind_ok (loadPtr_run ha), M.bind_ok (M.me_run ..), M.bind_ok (M.env_run ..)]
  split at hs
  · next h =>
    obtain ⟨hl, hb, h51⟩ := h
    have hl : (s1.ctx (doer (.ldGo d a z imm) s).core (doer (.ldGo d a z imm) s).slot).landing = true := hl
    obtain ⟨m, hm, ho⟩ := hs
    rw [M.if_neg_run (by rw [hl, hb, h51]; decide), M.bind_ok hm]
    exact M.if_pos_run ho ..
  · next h =>
    rw [hs]
    refine M.if_pos_run ?_ ..
    have h : ¬((s1.ctx (doer (.ldGo d a z imm) s).core (doer (.ldGo d a z imm) s).slot).landing = true ∧ _) := h
    simp only [Bool.or_eq_true, Bool.not_eq_true', bne_iff_ne, ne_eq]
    by_contra hc
    push Not at hc
    exact h ⟨by simpa using hc.1.1, hc.1.2, by simpa using hc.2⟩

theorem loadFrom_requests {i : Instr} {p : Word} (hf : Finds (doer i s) p (sizeBytes z) .ld (z == .d) s2 l s3) (hb : clear (doer i s) l false s3 = true)
    (ho : l.ownLs (doer i s).core = false) (hn : (s3.ctx (doer i s).core (doer i s).slot).nL < 63) (hr : Ready (doer i s) d (counted (doer i s) .L s3) app s4) :
    finish (doer i s) s (loadFrom d p z false true (doer i s) s2) =
      .next (requested (doer i s) d (.ld (sizeBytes z) (sizeSigned z) false) l app false s s4) := by
  have hf : resolve p (sizeBytes z) .ld (true && z == .d) (doer i s) s2 = .ok ((l, none), s3) := hf
  unfold loadFrom
  dsimp only
  rw [M.bind_ok hf]
  dsimp only
  rw [M.bind_ok (boardCheck_clear hb), M.bind_ok (M.env_run ..), M.if_neg_run (ne_true_of_eq_false ho), M.bind_ok (raiseCnt_room (k := .L) hn)]
  exact finish_request (pc := s.who.pc) hr (fun r h => nomatch h)

theorem mustFollow_may {e : Env} {s : State} {l : Loc} (h : mayPerform e l s = true) : mustFollow l e s = .ok ((), s) := by
  obtain ⟨ha, ho⟩ := Bool.and_eq_true_iff.mp h
  unfold mustFollow
  rw [M.bind_ok (M.env_run e s), M.bind_ok (M.me_run e s), M.bind_ok (M.myCore_run e s), M.if_neg_run (by rw [ha]; decide),
    M.if_neg_run (ne_true_of_eq_false (Bool.not_eq_true' _ ▸ ho))]
  rfl

/-- A plain Read in the issue slot (R226, R230). -/
theorem readAs_reads {e : Env} {s : State} {l : Loc} (h : mayPerform e l s = true) :
    let x := s.ctx e.core e.slot
    (s.staleTrap l.place x.gen && !granuleBuffered (ownBuf e s) l.place) = false →
    readAs none l e s = .ok (s.ctxRead e.core x x.seq none l.place l.size) := by
  intro x ht
  unfold readAs
  rw [M.bind_ok (mustFollow_may h), M.bind_ok (M.env_run e s), M.bind_ok (M.state_run e s), M.bind_ok (M.me_run e s)]
  exact M.if_neg_run (ne_true_of_eq_false ht) ..

theorem loadFrom_reads {e : Env} {p : Word} (hf : Finds e p (sizeBytes z) .ld (z == .d) s2 l s3) (hb : clear e l false s3 = true)
    (ho : l.ownLs e.core = true) (hm : mayPerform e l s3 = true) :
    let x := s3.ctx e.core e.slot
    (s3.staleTrap l.place x.gen && !granuleBuffered (ownBuf e s3) l.place) = false →
    let r := s3.ctxRead e.core x x.seq none l.place (sizeBytes z)
    Writes e d { val := extend r.1 (sizeBytes z) (sizeSigned z), cnt := 127, inx := false } r.2 s4 → loadFrom d p z false true e s2 = .ok ((), s4) := by
  intro x ht r hw
  have hr : readAs none l e s3 = .ok r := by
    have hr := readAs_reads hm ht
    rw [hf.size] at hr
    exact hr
  have hf : resolve p (sizeBytes z) .ld (true && z == .d) e s2 = .ok ((l, none), s3) := hf
  unfold loadFrom
  dsimp only
  rw [M.bind_ok hf]
  dsimp only
  rw [M.bind_ok (boardCheck_clear hb), M.bind_ok (M.env_run ..), M.if_pos_run ho]
  exact (M.bind_ok (show readAs _ l e s3 = _ from hr) _).trans hw

end

/-! ### `hold` (R166, R167, R394) -/

/-- A landing that may end registers its block where the region and the hold table have room for it. -/
theorem hold_registers {a : RegF} {s s1 s2 : State} {p : TVal} {l : Loc} {c off : Nat} {r : Region} (hs : starts (.hold a) s = true)
    (hl : s.who.landing = true) (ha : Reads (doer (.hold a) s) a (begun s) p s1) (hm : landingMayEnd (doer (.hold a) s) s1 = true)
    (h0 : bits p.val 63 56 ≠ 0) (h1 : bits p.val 63 56 ≠ 0xF1) (hf : Finds (doer (.hold a) s) p.val 128 .st false s1 l s2)
    (hp : l.place = .ls c off) (hrec : recordTarget l (doer (.hold a) s) s2 = .ok ((), s2)) (hb : clear (doer (.hold a) s) l true s2 = true)
    (hr : (s2.core c).regionAt off = some r) (hfit : off + 128 ≤ r.off + r.len) (hnew : ∀ g ∈ (s2.core c).hold, g.off ≠ off)
    (hroom : (s2.core c).hold.length < 32) :
    let e := doer (.hold a) s
    let x := s1.ctx e.core e.slot
    let w := buildRecord (s2.core e.core) x (s.who.pc + 4) 2
    exec (.hold a) s = .next (ended s (endLanding (numbered e ((writeRecord s2 e.core x l.place w).modCore c
      (fun k => { k with hold := k.hold ++ [{ off := off, tenant := x.tenant, words := w, front := s2.released x.uid .device }] }))) e.core e.slot)) := by
  intro e x w
  obtain ⟨win, g, hw⟩ := hf.checked
  have hold_new : (s2.core c).hold.any (fun h => h.off == off) = false := by simpa [List.any_eq_false] using hnew
  refine run_completes hs ?_
  rw [M.bind_ok (needLanding_landing ((begun_landing s).trans hl)), M.bind_ok (readVal_of ha), M.bind_ok (M.env_run ..), M.bind_ok (M.me_run ..),
    M.bind_ok (landingEnd_may hm), M.bind_ok (M.state_run ..), hw]
  rcases checkPtr_near hw h0 h1 with rfl | rfl | rfl
  all_goals
    dsimp only
    rw [M.bind_ok hf]
    dsimp only
    rw [M.bind_ok hrec, M.bind_ok (boardCheck_clear hb), hp]
    dsimp only
    rw [M.bind_ok (M.state_run ..), hr, M.if_neg_run (by simpa using hfit), M.if_neg_run (ne_true_of_eq_false hold_new),
      M.if_neg_run (Nat.not_le.mpr hroom), M.bind_ok (M.myCore_run ..), M.bind_ok (M.modify_run ..)]
    rfl

/-! ### `susp` to a place on this side of the mesh (R446) -/

/-- A `susp` to a place on this side stores its record in its issue slot, and the landing ends. -/
theorem susp_stores {a : RegF} {s s1 s2 : State} {p : TVal} {l : Loc} (hs : starts (.susp a) s = true) (hl : s.who.landing = true)
    (ha : Reads (doer (.susp a) s) a (begun s) p s1) (hm : landingMayEnd (doer (.susp a) s) s1 = true)
    (hf : Finds (doer (.susp a) s) p.val 64 .st false s1 l s2) (hrec : recordTarget l (doer (.susp a) s) s2 = .ok ((), s2))
    (hb : clear (doer (.susp a) s) l true s2 = true) (hw : l.win ≠ .rem) :
    let e := doer (.susp a) s
    let w := buildRecord (s2.core e.core) (s2.ctx e.core e.slot) (s.who.pc + 4) 1
    exec (.susp a) s = .next (ended s (endLanding (numbered e (writeRecord s2 e.core (s2.ctx e.core e.slot) l.place w)) e.core e.slot)) := by
  intro e w
  refine run_completes hs ?_
  rw [M.bind_ok (needLanding_landing ((begun_landing s).trans hl)), M.bind_ok (M.env_run ..), M.bind_ok (readVal_of ha),
    M.bind_ok (landingEnd_may hm), M.bind_ok hf]
  dsimp only
  rw [M.bind_ok hrec, M.bind_ok (boardCheck_clear hb), M.bind_ok (M.myCore_run ..), M.bind_ok (M.me_run ..), M.if_neg_run hw, M.bind_ok (M.modify_run ..)]
  rfl

end Sys2Proof.Machine
end

section
/-! PROOF. `susp` through the remote window (R166, R446): its eight stores, and the acceptance or refusal of one of them. -/

namespace Sys2Proof.Machine

/-! ### A context parks -/

theorem parkOn_ctx (s : State) (c i : Nat) (w : Wait) :
    (s.parkOn c i w).ctx c i = { s.ctx c i with state := .parked, wait := some { w with seq := s.nextId } } :=
  (State.ctx_modCore rfl c i).trans (State.ctx_modCtx_same ..)

theorem State.fresh_sameStores (s : State) : SameStores s s.fresh.2 := .of_cores rfl rfl rfl

theorem parkOn_sameStores (s : State) (c i : Nat) (w : Wait) : SameStores s (s.parkOn c i w) := by
  unfold State.parkOn
  exact ((SameStores.modCore rfl).after (.modCtx _ c i _)).after s.fresh_sameStores

theorem parkOn_journal (s : State) (c i : Nat) (w : Wait) (d : Nat) : ((s.parkOn c i w).core d).journal = (s.core d).journal :=
  (State.core_modCore_keeps Core.journal rfl d).trans (State.core_modCtx_keeps Core.journal (fun _ _ _ => rfl) s.fresh.2 c i _ d)

/-! ### The eight stores -/

/-- A store of a record in the journal. -/
def suspEntry (e : Env) (l : Loc) (v : Word) (rel : Bool) (x : Ctx) (k : Core) : JEntry :=
  { ent := freeEnt k.journal k.jnext 64, slot := e.slot, uid := x.uid, land := x.land, tenant := x.tenant, seq := x.seq, pair := 0, place := l.place,
    ptr := l.ptr, size := l.size, value := v, rel := rel, gen := x.gen, susp := true }

/-- The context has issued a store of its record. -/
def suspStored (e : Env) (l : Loc) (v : Word) (rel : Bool) (s : State) : State :=
  (numbered e s).modCore e.core (fun k => { k with
    jnext := freeEnt (s.core e.core).journal (s.core e.core).jnext 64 + 1
    journal := k.journal ++ [suspEntry e l v rel (s.ctx e.core e.slot) (s.core e.core)] })

theorem journalStore_susp {e : Env} {l : Loc} {v : Word} {rel : Bool} {s : State} (h : (s.core e.core).journal.length + (s.core e.core).promised < 64) :
    journalStore l v rel 0 true e s = .ok ((), suspStored e l v rel s) := by
  have hk : (numbered e s).core e.core = (s.core e.core).setCtx e.slot { s.ctx e.core e.slot with seq := (s.ctx e.core e.slot).seq + 1 } := by
    exact State.core_modCore_same ..
  unfold journalStore
  rw [M.bind_ok (M.env_run e s), M.bind_ok (M.me_run e s), M.bind_ok (M.myCore_run e s), M.if_neg_run (Nat.not_le.mpr h), M.bind_ok (nextSeq_run e s)]
  refine (M.modMyCore_run ..).trans ?_
  unfold suspStored State.modCore
  rw [hk]
  rfl

theorem suspStored_ctx (e : Env) (l : Loc) (v : Word) (rel : Bool) (s : State) :
    (suspStored e l v rel s).ctx e.core e.slot = { s.ctx e.core e.slot with seq := (s.ctx e.core e.slot).seq + 1 } :=
  (State.ctx_modCore rfl e.core e.slot).trans (State.ctx_modCtx_same ..)

theorem suspStored_journal (e : Env) (l : Loc) (v : Word) (rel : Bool) (s : State) :
    ((suspStored e l v rel s).core e.core).journal = (s.core e.core).journal ++ [suspEntry e l v rel (s.ctx e.core e.slot) (s.core e.core)] := by
  have hj : ((numbered e s).core e.core).journal = (s.core e.core).journal := State.core_modCtx_keeps Core.journal (fun _ _ _ => rfl) s e.core e.slot _ e.core
  unfold suspStored
  rw [State.core_modCore_same]
  exact congrArg (· ++ _) hj

theorem suspStored_sameStores (e : Env) (l : Loc) (v : Word) (rel : Bool) (s : State) : SameStores s (suspStored e l v rel s) :=
  (SameStores.modCore (s := numbered e s) (c := e.core) rfl).after (.modCtx s e.core e.slot _)

theorem suspStored_promised (e : Env) (l : Loc) (v : Word) (rel : Bool) (s : State) :
    ((suspStored e l v rel s).core e.core).promised ≤ (s.core e.core).promised := by
  have h : ((suspStored e l v rel s).core e.core).promised = ((numbered e s).core e.core).promised := State.core_modCore_keeps Core.promised rfl e.core
  exact h.trans_le (promised_modCtx_le rfl)

/-- With room for all of its stores, a record stands in the journal behind what stood there, in order. -/
theorem journalRecord_journals {e : Env} {l : Loc} {w : List Word} : ∀ (js : List Nat) (s : State),
    (s.ctx e.core e.slot).nS + js.length ≤ 63 → (s.core e.core).journal.length + (s.core e.core).promised + js.length ≤ 64 →
    ∃ t ents, journalRecord l w js e s = .ok ((), t) ∧ (t.ctx e.core e.slot).nS = (s.ctx e.core e.slot).nS + js.length ∧ SameStores s t ∧
      (t.core e.core).journal = (s.core e.core).journal ++ ents ∧
      ents.map (fun y => (y.place, y.value, y.rel, y.susp)) = js.map (fun j => (l.place.plus (8 * j), w.getD j 0, j == 0, true))
  | [], s, _, _ => ⟨s, [], rfl, rfl, .refl s, (List.append_nil _).symm, rfl⟩
  | j :: js, s, hn, hr => by
    let m : Loc := { l with place := l.place.plus (8 * j), ptr := l.ptr + w64 (8 * j), size := 8 }
    let u := suspStored e m (w.getD j 0) (j == 0) (counted e .S s)
    rw [List.length_cons] at hn hr
    have hx : (counted e .S s).ctx e.core e.slot = (s.ctx e.core e.slot).setCnt .S ((s.ctx e.core e.slot).nS + 1) := State.ctx_modCtx_same ..
    have hj : ((counted e .S s).core e.core).journal = (s.core e.core).journal :=
      State.core_modCtx_keeps Core.journal (fun _ _ _ => rfl) s e.core e.slot _ e.core
    have hp : ((counted e .S s).core e.core).promised ≤ (s.core e.core).promised := promised_modCtx_le rfl
    have hun : (u.ctx e.core e.slot).nS = (s.ctx e.core e.slot).nS + 1 := congrArg Ctx.nS ((suspStored_ctx ..).trans (by rw [hx]))
    have huj : (u.core e.core).journal = _ := suspStored_journal e m (w.getD j 0) (j == 0) (counted e .S s)
    have hup : (u.core e.core).promised ≤ _ := suspStored_promised e m (w.getD j 0) (j == 0) (counted e .S s)
    obtain ⟨t, ents, ht, htn, hts, htj, hte⟩ := journalRecord_journals (e := e) (l := l) (w := w) js u (by omega) (by
      rw [huj, List.length_append, hj, List.length_singleton]
      omega)
    refine ⟨t, suspEntry e m (w.getD j 0) (j == 0) ((counted e .S s).ctx e.core e.slot) ((counted e .S s).core e.core) :: ents, ?_, ?_, ?_, ?_, ?_⟩
    · unfold journalRecord
      rw [M.bind_ok (raiseCnt_room (k := .S) (by show (s.ctx e.core e.slot).nS < 63; omega)), M.bind_ok (journalStore_susp (by rw [hj]; omega))]
      exact ht
    · rw [htn, hun, List.length_cons]
      omega
    · exact hts.after ((suspStored_sameStores ..).after (.modCtx s e.core e.slot _))
    · rw [htj, huj, hj, List.append_assoc]
      rfl
    · rw [List.map_cons, List.map_cons, hte]
      rfl

theorem noteTaken_keeps {β : Type} (p : Ctx → β) (ht : ∀ x l, p { x with taken := l } = p x) (hl : ∀ x l, p { x with loads := l } = p x) (x old : Ctx) :
    p (x.noteTaken old) = p x := by
  unfold Ctx.noteTaken
  dsimp only
  split
  · exact ht x _
  · exact hl x _

/-- A context whose record stands in the journal waits for it. -/
def suspWaits (e : Env) (s t : State) : State :=
  ((t.modCtx e.core e.slot (fun x => { x with ship := some (suspMark, []) })).modCtx e.core e.slot
    (fun x => { x.noteTaken (s.ctx e.core e.slot) with pc := e.tpc })).parkOn e.core e.slot { list := 1, object := 0, cond := .performed }

theorem suspWaits_ctx (e : Env) (s t : State) : let y := (suspWaits e s t).ctx e.core e.slot
    y.state = .parked ∧ y.ship = some (suspMark, []) ∧ y.nS = (t.ctx e.core e.slot).nS := by
  dsimp only
  unfold suspWaits
  rw [parkOn_ctx, State.ctx_modCtx_same, State.ctx_modCtx_same]
  exact ⟨rfl, noteTaken_keeps Ctx.ship (fun _ _ => rfl) (fun _ _ => rfl) .., noteTaken_keeps Ctx.nS (fun _ _ => rfl) (fun _ _ => rfl) ..⟩

theorem suspWaits_sameStores (e : Env) (s t : State) : SameStores t (suspWaits e s t) :=
  ((parkOn_sameStores ..).after (.modCtx _ e.core e.slot _)).after (.modCtx t e.core e.slot _)

theorem suspWaits_journal (e : Env) (s t : State) : ((suspWaits e s t).core e.core).journal = (t.core e.core).journal := by
  unfold suspWaits
  rw [parkOn_journal]
  exact (State.core_modCtx_keeps Core.journal (fun _ _ _ => rfl) ..).trans (State.core_modCtx_keeps Core.journal (fun _ _ _ => rfl) ..)

/-- Through the remote window `susp` journals its record, word 0 last, and its context waits for it. -/
theorem susp_journals {a : RegF} {s s1 s2 : State} {p : TVal} {l : Loc} (hs : starts (.susp a) s = true) (hl : s.who.landing = true)
    (ha : Reads (doer (.susp a) s) a (begun s) p s1) (hm : landingMayEnd (doer (.susp a) s) s1 = true)
    (hf : Finds (doer (.susp a) s) p.val 64 .st false s1 l s2) (hrec : recordTarget l (doer (.susp a) s) s2 = .ok ((), s2))
    (hb : clear (doer (.susp a) s) l true s2 = true) (hw : l.win = .rem) :
    let e := doer (.susp a) s
    let w := buildRecord (s2.core e.core) (s2.ctx e.core e.slot) (s.who.pc + 4) 1
    (s2.ctx e.core e.slot).nS + 8 ≤ 63 → (s2.core e.core).journal.length + (s2.core e.core).promised ≤ 56 →
    ∃ t js, exec (.susp a) s = .next t ∧ (t.ctx e.core e.slot).state = .parked ∧ (t.ctx e.core e.slot).ship = some (65535, []) ∧
      (t.ctx e.core e.slot).nS = (s2.ctx e.core e.slot).nS + 8 ∧ sameMemory s2 t ∧ (t.core e.core).journal = (s2.core e.core).journal ++ js ∧
      js.map (fun y => (y.place, y.value, y.rel, y.susp)) = [1, 2, 3, 4, 5, 6, 7, 0].map (fun n => (l.place.plus (8 * n), w.getD n 0, n == 0, true)) := by
  intro e w hn hr
  obtain ⟨t, js, ht, htn, hts, htj, hjs⟩ := journalRecord_journals (l := l) (e := doer (.susp a) s)
    (w := buildRecord (s2.core (doer (.susp a) s).core) (s2.ctx (doer (.susp a) s).core (doer (.susp a) s).slot) ((doer (.susp a) s).pc + 4) 1)
    [1, 2, 3, 4, 5, 6, 7, 0] s2 hn (Nat.add_le_add_right hr 8)
  obtain ⟨hstate, hship, hnS⟩ := suspWaits_ctx e s t
  refine ⟨suspWaits e s t, js, ?_, hstate, hship, hnS.trans htn, (hts.trans (suspWaits_sameStores e s t)).sameMemory, (suspWaits_journal e s t).trans htj, hjs⟩
  refine (run_starts _ hs).trans ?_
  rw [M.bind_ok (needLanding_landing ((begun_landing s).trans hl)), M.bind_ok (M.env_run ..), M.bind_ok (readVal_of ha),
    M.bind_ok (landingEnd_may hm), M.bind_ok hf]
  dsimp only
  rw [M.bind_ok hrec, M.bind_ok (boardCheck_clear hb), M.bind_ok (M.myCore_run ..), M.bind_ok (M.me_run ..), M.if_pos_run hw,
    M.if_neg_run (Nat.not_lt.mpr hr), M.bind_ok ht, M.bind_ok (M.modMe_run ..)]
  rfl

end Sys2Proof.Machine
end

section
/-! PROOF. The acceptance of a store of a record (R166, R244, R319, R446), and what its commit leaves in memory. -/

namespace Sys2Proof.Machine

/-! ### What a write leaves of the other bytes (R73, R76) -/

/-- A byte outside the write, in another granule or under the same allocation, reads as before. -/
theorem Core.lsRead_lsWrite_outside (k : Core) {g h : BitVec 16} {off n a : Nat} (v : Nat) (ha : a < off ∨ off + n ≤ a) (hg : a / 32 = off / 32 → h = g) :
    (k.lsWrite g off n v).lsRead h a 1 = k.lsRead h a 1 := by
  rw [Core.lsRead_one, Core.lsRead_one, Core.stamp_lsWrite, Core.byte_lsWrite_outside k g v ha]
  by_cases hq : a / 32 = off / 32
  · have hs : k.stamp a = k.stamp off := by unfold Core.stamp; rw [hq]
    rw [if_pos hq, if_pos (hg hq).symm, hg hq, hs]
    by_cases hst : k.stamp off = g
    · rw [if_pos hst, Core.current_of_stamp hst]
    · rw [if_neg hst, Core.current_of_stale hst, Core.byte_zeroGranule, if_pos hq]
      rfl
  · rw [if_neg hq]
    by_cases hst : k.stamp off = g
    · rw [Core.current_of_stamp hst]
    · rw [Core.current_of_stale hst, Core.byte_zeroGranule, if_neg hq]

theorem readAt_writeAt_outside {s : State} {own : BitVec 16} {pl q : Place} {n : Nat} (v : Nat) (h : outsideStore s own pl n q) :
    (s.writeAt pl n v own).readAt q 1 own = s.readAt q 1 own := by
  obtain ⟨ho, hp, hg⟩ := h
  cases pl with
  | peer k m => rfl
  | hbm m =>
    unfold State.writeAt
    dsimp only
    split
    · rfl
    · cases q with
      | hbm a =>
        have ha : a < m ∨ m + n ≤ a := by simp [Place.overlaps] at ho; omega
        exact Memory.read_congr 1 _ _ a fun i hi hj => Memory.byte_write_outside n _ m v i (by omega)
      | ls d b => rfl
      | host b => rfl
      | peer k b => exact absurd hp (by simp [Place.isPeer])
  | host m =>
    cases q with
    | host a =>
      have ha : a < m ∨ m + n ≤ a := by simp [Place.overlaps] at ho; omega
      exact State.readAt_writeAt_host s m n v a own own ha
    | ls d b => rfl
    | hbm b => rfl
    | peer k b => exact absurd hp (by simp [Place.isPeer])
  | ls c off =>
    cases q with
    | ls d b =>
      by_cases hd : c = d
      · subst hd
        have hb : b < off ∨ off + n ≤ b := by simp [Place.overlaps] at ho; omega
        have hk : (s.writeAt (.ls c off) n v own).core c = (s.core c).lsWrite ((s.core c).gov own off).1 off n v := State.core_modCore_same ..
        have hr : ((s.core c).lsWrite ((s.core c).gov own off).1 off n v).regions = (s.core c).regions :=
          Core.lsWrite_keeps Core.regions (fun _ _ _ _ => rfl) ..
        show Core.lsRead (State.core _ c) (Core.gov (State.core _ c) own b).1 b 1 = (s.core c).lsRead ((s.core c).gov own b).1 b 1
        rw [hk, Core.gov_congr hr]
        exact Core.lsRead_lsWrite_outside _ v hb fun hq => hg rfl hq.symm
      · have hk : (s.writeAt (.ls c off) n v own).core d = s.core d := State.core_modCore_ne s _ hd
        show Core.lsRead (State.core _ d) (Core.gov (State.core _ d) own b).1 b 1 = (s.core d).lsRead ((s.core d).gov own b).1 b 1
        rw [hk]
    | hbm b => rfl
    | host b => rfl
    | peer k b => exact absurd hp (by simp [Place.isPeer])

/-! ### The bytes of a commit (R232) -/

/-- Every byte reads the same, a peer's too. -/
def ReadsSame (s t : State) : Prop := ∀ (q : Place) (own : BitVec 16), t.readAt q 1 own = s.readAt q 1 own

theorem SameStores.readsSame {s t : State} (h : SameStores s t) (hf : t.free = s.free) : ReadsSame s t := by
  intro q own
  cases q with
  | peer k a =>
    show (Config.peerWord t.free k a).toNat % 256 ^ 1 = (Config.peerWord s.free k a).toNat % 256 ^ 1
    rw [hf]
  | ls c off => exact h.sameMemory _ own rfl
  | hbm m => exact h.sameMemory _ own rfl
  | host m => exact h.sameMemory _ own rfl

/-- A commit leaves in memory what it settles on. -/
theorem commit_readsSame (s : State) (k : Commit) (pl : Place) (n v : Nat) (own : BitVec 16) :
    ReadsSame (s.writeAt pl n (s.settled k pl v own n) own) (s.commit k pl n v own) := by
  intro q g
  unfold State.commit
  dsimp only
  generalize s.settled k pl v own n = kept
  cases pl with
  | peer j a => rfl
  | ls c off => cases q <;> rfl
  | host a => cases q <;> rfl
  | hbm m =>
    unfold State.writeAt
    dsimp only
    split
    · rfl
    · next h =>
      have hd : ¬((s.record k (.hbm m) n v 0).host.dead.contains (m / 65536) = true) := h
      rw [if_neg hd]
      cases q <;> rfl

theorem Core.lsWrite_store {k l : Core} (h : l.store = k.store) (g : BitVec 16) (off n v : Nat) : (l.lsWrite g off n v).store = (k.lsWrite g off n v).store := by
  obtain ⟨hl, hg, hr⟩ : l.ls = k.ls ∧ l.lsGen = k.lsGen ∧ l.regions = k.regions := by simpa [Core.store] using h
  have hs : l.stamp off = k.stamp off := by unfold Core.stamp; rw [hg]
  rw [Core.lsWrite_eq, Core.lsWrite_eq]
  by_cases hst : k.stamp off = g
  · rw [Core.current_of_stamp hst, Core.current_of_stamp (hs.trans hst)]
    unfold Core.store
    dsimp only
    rw [hl, hg, hr]
  · rw [Core.current_of_stale hst, Core.current_of_stale (hs ▸ hst)]
    unfold Core.store Core.zeroGranule
    dsimp only
    rw [hl, hg, hr]

/-- The same write to the same stores leaves the same stores. -/
theorem SameStores.writeAt {s t : State} (h : SameStores s t) (hh : t.host.dead = s.host.dead) (pl : Place) (n v : Nat) (own : BitVec 16) :
    SameStores (s.writeAt pl n v own) (t.writeAt pl n v own) := by
  cases pl with
  | peer k a => exact h
  | host a => exact ⟨h.hbm, congrArg (fun m => Memory.write m a v n) h.hostMem, h.store⟩
  | hbm m =>
    unfold State.writeAt
    dsimp only
    rw [hh]
    split
    · exact h
    · exact ⟨congrArg (fun x => Memory.write x m v n) h.hbm, h.hostMem, h.store⟩
  | ls c off =>
    refine ⟨h.hbm, h.hostMem, fun d => ?_⟩
    by_cases hd : c = d
    · subst hd
      have hr : (t.core c).regions = (s.core c).regions := congrArg (fun x => x.2.2) (h.store c)
      show (State.core (State.modCore t c _) c).store = (State.core (State.modCore s c _) c).store
      rw [State.core_modCore_same, State.core_modCore_same, Core.gov_congr hr]
      exact Core.lsWrite_store (h.store c) ..
    · show (State.core (State.modCore t c _) d).store = (State.core (State.modCore s c _) d).store
      rw [State.core_modCore_ne t _ hd, State.core_modCore_ne s _ hd]
      exact h.store d

theorem Place.plus_plus (pl : Place) (i j : Nat) : (pl.plus i).plus j = pl.plus (i + j) := by
  cases pl <;> exact congrArg _ (Nat.add_assoc ..)

theorem Place.plus_zero (pl : Place) : pl.plus 0 = pl := by cases pl <;> rfl

/-- Where no byte is overtaken the value settles as it was stored. -/
theorem write_settled {s : State} {k : Commit} {own : BitVec 16} : ∀ (n v : Nat) (pl : Place) (m : Memory) (a : Nat),
    (∀ i < n, s.overtaken k (pl.plus i) = false) → Memory.write m a (s.settled k pl v own n) n = Memory.write m a v n
  | 0, _, _, _, _, _ => rfl
  | n + 1, v, pl, m, a, h => by
    have h0 : s.overtaken k pl = false := by simpa [Place.plus_zero] using h 0 (Nat.succ_pos n)
    have hn : ∀ i < n, s.overtaken k ((pl.plus 1).plus i) = false := fun i hi => by
      rw [Place.plus_plus, Nat.add_comm]
      exact h (i + 1) (Nat.succ_lt_succ hi)
    unfold State.settled Memory.write
    rw [if_neg (ne_true_of_eq_false h0), show (v % 256 + 256 * s.settled k (pl.plus 1) (v / 256) own n) / 256 = s.settled k (pl.plus 1) (v / 256) own n by omega,
      show BitVec.ofNat 8 (v % 256 + 256 * s.settled k (pl.plus 1) (v / 256) own n) = BitVec.ofNat 8 v by
        apply BitVec.eq_of_toNat_eq
        simp only [BitVec.toNat_ofNat]
        omega]
    exact write_settled n (v / 256) (pl.plus 1) _ (a + 1) hn

theorem writeAt_settled {s : State} {k : Commit} {pl : Place} {n v : Nat} {own : BitVec 16} (h : ∀ i < n, s.overtaken k (pl.plus i) = false) (t : State) :
    t.writeAt pl n (s.settled k pl v own n) own = t.writeAt pl n v own := by
  have hw := fun m a => write_settled (own := own) n v pl m a h
  unfold State.writeAt Core.lsWrite
  cases pl <;> simp only [hw]

/-! ### The end of a store of a record (R244, R319) -/

theorem lowerS_ctx_keeps {β : Type} (p : Ctx → β) (hp : ∀ x n, p { x with nS := n } = p x) (s : State) (c i u d j : Nat) :
    p ((lowerS s c i u).ctx d j) = p (s.ctx d j) := by
  unfold lowerS
  split
  · exact State.ctx_modCtx_keeps p (hp _ _) d j
  · rfl

theorem lowerS_sameStores (s : State) (c i u : Nat) : SameStores s (lowerS s c i u) := by
  unfold lowerS
  split
  · exact .modCtx ..
  · exact .refl s

/-- The store has left the journal, and its class has fallen unless its pair is still there (R444). -/
def leftJournal (s : State) (c : Nat) (j : JEntry) : State :=
  let u := s.modCore c (fun k => { k with journal := k.journal.filter (fun o => o.ent != j.ent) })
  if j.pair ≠ 0 ∧ (u.core c).journal.any (fun o => o.uid == j.uid && o.pair == j.pair) then u else lowerS u c j.slot j.uid

theorem leftJournal_sameStores (s : State) (c : Nat) (j : JEntry) : SameStores s (leftJournal s c j) := by
  unfold leftJournal
  dsimp only
  split
  · exact .modCore rfl
  · exact (lowerS_sameStores ..).after (.modCore rfl)

theorem leftJournal_ctx_keeps {β : Type} (p : Ctx → β) (hp : ∀ x n, p { x with nS := n } = p x) (s : State) (c : Nat) (j : JEntry) (d i : Nat) :
    p ((leftJournal s c j).ctx d i) = p (s.ctx d i) := by
  unfold leftJournal
  dsimp only
  split
  · exact congrArg p (State.ctx_modCore rfl d i)
  · exact (lowerS_ctx_keeps p hp ..).trans (congrArg p (State.ctx_modCore rfl d i))

/-- Beside the cores it is as it was. -/
theorem leftJournal_keeps (s : State) (c : Nat) (j : JEntry) :
    (leftJournal s c j).ord = s.ord ∧ (leftJournal s c j).host = s.host ∧ (leftJournal s c j).free = s.free := by
  unfold leftJournal lowerS
  dsimp only
  split
  · exact ⟨rfl, rfl, rfl⟩
  · split <;> exact ⟨rfl, rfl, rfl⟩

theorem leftJournal_suspends {s : State} {c : Nat} {j : JEntry} (h : (s.ctx c j.slot).suspends j = true) :
    ((leftJournal s c j).ctx c j.slot).suspends j = true :=
  (leftJournal_ctx_keeps (fun x => x.suspends j) (fun _ _ => rfl) s c j c j.slot).trans h

section
variable {s : State} {c idx answer : Nat} {j : JEntry} (hj : (s.core c).journal[idx]? = some j) (ha : acceptReady s c j = true)
include hj ha

/-- An accepted store is committed, as a release where it is one. -/
theorem postedStoreAccept_accepted (hr : refusal s j answer = 0) :
    exec (.postedStoreAccept c idx answer) s = .next (suspEnds ((leftJournal s c j).commit
      (if j.rel then s.byRelease c j.uid j.tenant j.seq .device else s.byCtx c j.uid j.tenant j.seq) j.place j.size j.value.toNat j.gen) c j) := by
  show execPostedStoreAccept c idx answer s = _
  unfold execPostedStoreAccept
  rw [hj]
  dsimp only
  rw [if_neg (by rw [ha]; decide), hr]
  rfl

theorem postedStoreAccept_refused (hr : refusal s j answer ≠ 0) :
    exec (.postedStoreAccept c idx answer) s = .next (recordRefusal (suspFails (leftJournal s c j) c j) c j (refusal s j answer)) := by
  show execPostedStoreAccept c idx answer s = _
  unfold execPostedStoreAccept
  rw [hj]
  dsimp only
  rw [if_neg (by rw [ha]; decide)]
  split
  · next h => exact absurd h hr
  · rfl

end

theorem ReadsSame.trans {s t u : State} (h : ReadsSame s t) (g : ReadsSame t u) : ReadsSame s u := fun q own => (g q own).trans (h q own)

theorem writeAt_free (s : State) (pl : Place) (n v : Nat) (own : BitVec 16) : (s.writeAt pl n v own).free = s.free := by
  unfold State.writeAt
  cases pl with
  | hbm m => dsimp only; split <;> rfl
  | ls c off => rfl
  | host a => rfl
  | peer k a => rfl

theorem endInline_free (s : State) (x : Ctx) : (endInline s x).free = s.free := by
  unfold endInline
  generalize x.inl = l
  induction l generalizing s with
  | nil => rfl
  | cons n l ih => exact ih _

theorem endLanding_free (s : State) (c i : Nat) : (endLanding s c i).free = s.free := by
  have hl : (leaveElections s c i).free = s.free := by
    unfold leaveElections
    dsimp only
    split <;> rfl
  exact (endInline_free (leaveElections s c i) (s.ctx c i)).trans hl

/-- Word 0 of the record is committed, and with it the landing ends. -/
theorem susp_accepted {s : State} {c : Nat} {j : JEntry} (hs : (s.ctx c j.slot).suspends j = true) (hr : j.rel = true) {k : Commit} :
    let t := suspEnds ((leftJournal s c j).commit k j.place j.size j.value.toNat j.gen) c j
    (t.ctx c j.slot).state = .idleLanding ∧ (t.ctx c j.slot).hasRec = false ∧
    ReadsSame (s.writeAt j.place j.size ((leftJournal s c j).settled k j.place j.value.toNat j.gen j.size) j.gen) t := by
  obtain ⟨-, hhost, hfree⟩ := leftJournal_keeps s c j
  have ht : suspEnds ((leftJournal s c j).commit k j.place j.size j.value.toNat j.gen) c j =
      endLanding ((leftJournal s c j).commit k j.place j.size j.value.toNat j.gen) c j.slot := by
    refine if_pos ?_
    rw [State.ctx_commit, leftJournal_suspends hs, hr]
    rfl
  obtain ⟨hstate, hrec, -⟩ := endLanding_ends ((leftJournal s c j).commit k j.place j.size j.value.toNat j.gen) c j.slot
  dsimp only
  rw [ht]
  refine ⟨hstate, hrec, ?_⟩
  have hw := (leftJournal_sameStores s c j).writeAt (congrArg HostSide.dead hhost) j.place j.size
    ((leftJournal s c j).settled k j.place j.value.toNat j.gen j.size) j.gen
  exact ReadsSame.trans (hw.readsSame (by rw [writeAt_free, writeAt_free, hfree]))
    (ReadsSame.trans (commit_readsSame _ _ _ _ _ _) ((endLanding_sameStores ..).readsSame (endLanding_free ..)))

/-! ### A refused store of a record -/

theorem recordRefusal_sameStores (s : State) (c : Nat) (j : JEntry) (r : Nat) : SameStores s (recordRefusal s c j r) := by
  unfold recordRefusal
  refine (SameStores.modCore ?_).after (.modCore rfl)
  split
  · rfl
  · split <;> rfl

theorem recordRefusal_core_keeps {β : Type} (p : Core → β) (hb : ∀ k n, p (Core.bump k n) = p k) (hp : ∀ k o, p { k with jrec := o } = p k)
    (s : State) (c : Nat) (j : JEntry) (r d : Nat) : p ((recordRefusal s c j r).core d) = p (s.core d) := by
  unfold recordRefusal
  refine (State.core_modCore_keeps p ?_ d).trans (State.core_modCore_keeps p (hb _ _) d)
  split
  · exact hp _ _
  · split
    · exact hp _ _
    · rfl

theorem dropSusp_sameStores (s : State) (c i : Nat) : SameStores s (dropSusp s c i) := by
  unfold dropSusp
  dsimp only
  split
  · exact .refl s
  · exact (SameStores.modCtx ..).after (.modCore rfl)

theorem dropSusp_ctx_keeps {β : Type} (p : Ctx → β) (hp : ∀ x n, p { x with nS := n } = p x) (s : State) (c i d j : Nat) :
    p ((dropSusp s c i).ctx d j) = p (s.ctx d j) := by
  unfold dropSusp
  dsimp only
  split
  · rfl
  · exact (State.ctx_modCtx_keeps p (hp _ _) d j).trans (congrArg p (State.ctx_modCore rfl d j))

/-- No store of a record of the context is left in the journal. -/
theorem dropSusp_journal {s : State} {c i : Nat} {o : JEntry} (h : o ∈ ((dropSusp s c i).core c).journal) (hs : o.susp = true) :
    o.uid ≠ (s.ctx c i).uid := by
  intro hu
  have hmine : (o.susp && o.uid == (s.ctx c i).uid) = true := by simp [hs, hu]
  unfold dropSusp at h
  dsimp only at h
  split at h
  · next hn =>
    have ho : o ∈ (s.core c).journal.filter (fun y => y.susp && y.uid == (s.ctx c i).uid) := List.mem_filter.mpr ⟨h, hmine⟩
    rw [List.eq_nil_of_length_eq_zero hn] at ho
    exact absurd ho List.not_mem_nil
  · rw [State.core_modCtx_keeps Core.journal (fun _ _ _ => rfl), State.core_modCore_same] at h
    have hno := (List.mem_filter.mp h).2
    rw [hmine] at hno
    exact absurd hno (by decide)

/-- A refused store of a record leaves the context at its `susp` again, with none of the record left. -/
theorem susp_failed {s : State} {c r : Nat} {j : JEntry} (hs : (s.ctx c j.slot).suspends j = true) :
    let t := recordRefusal (suspFails (leftJournal s c j) c j) c j r
    (t.ctx c j.slot).ship = none ∧ sameMemory s t ∧ (t.ctx c j.slot).state = (s.ctx c j.slot).state ∧
    ∀ o ∈ (t.core c).journal, o.susp = true → o.uid ≠ j.uid := by
  have hf : suspFails (leftJournal s c j) c j = (dropSusp (leftJournal s c j) c j.slot).modCtx c j.slot (fun x => { x with ship := none }) :=
    if_pos (leftJournal_suspends hs)
  have huid : ((leftJournal s c j).ctx c j.slot).uid = j.uid := by
    have hl := leftJournal_suspends hs
    simp only [Ctx.suspends, Bool.and_eq_true, beq_iff_eq] at hl
    exact hl.1.2
  dsimp only
  rw [hf]
  have hx : (recordRefusal ((dropSusp (leftJournal s c j) c j.slot).modCtx c j.slot (fun x => { x with ship := none })) c j r).ctx c j.slot =
      { (dropSusp (leftJournal s c j) c j.slot).ctx c j.slot with ship := none } :=
    (congrArg (fun m => SMap.get m j.slot Ctx.reset) (recordRefusal_core_keeps Core.ctxs (fun _ _ => rfl) (fun _ _ => rfl) ..)).trans
      (State.ctx_modCtx_same ..)
  have hjournal : ((recordRefusal ((dropSusp (leftJournal s c j) c j.slot).modCtx c j.slot (fun x => { x with ship := none })) c j r).core c).journal =
      ((dropSusp (leftJournal s c j) c j.slot).core c).journal :=
    (recordRefusal_core_keeps Core.journal (fun _ _ => rfl) (fun _ _ => rfl) ..).trans (State.core_modCtx_keeps Core.journal (fun _ _ _ => rfl) ..)
  refine ⟨?_, ?_, ?_, fun o ho hsusp => ?_⟩
  · rw [hx]
  · exact ((recordRefusal_sameStores ..).after ((SameStores.modCtx ..).after ((dropSusp_sameStores ..).after (leftJournal_sameStores s c j)))).sameMemory
  · rw [hx]
    exact (dropSusp_ctx_keeps Ctx.state (fun _ _ => rfl) ..).trans (leftJournal_ctx_keeps Ctx.state (fun _ _ => rfl) ..)
  · rw [hjournal] at ho
    exact huid ▸ dropSusp_journal ho hsusp

/-- What has overtaken a byte does not depend on what the write carries as a release. -/
theorem leftJournal_overtaken (s : State) (c : Nat) (j : JEntry) (q : Place) :
    (leftJournal s c j).overtaken (s.byRelease c j.uid j.tenant j.seq .device) q = s.overtaken (s.byCtx c j.uid j.tenant j.seq) q := by
  obtain ⟨hord, -, -⟩ := leftJournal_keeps s c j
  unfold State.overtaken State.wset
  rw [hord]
  rfl

/-- Settles O32: in each of its forms a record leaves with the end of its landing, or is taken and handed on, and a refused store of one leaves none of it. -/
theorem recordsLeave : Obligations.RecordsLeave := by
  unfold Obligations.RecordsLeave
  refine ⟨fun a s s1 p d => go_ships, ?_, ?_, ?_, ?_, ?_, ?_, fun a s hl => ⟨susp_refused hl, hold_refused hl⟩, fun s c i => endLanding_ends s c i⟩
  · intro a s s1 s2 t p l way i e x w hs ha hl hf hn hb hp hh ht hst hz hstale s3 got hd
    refine (go_takes hs ha hl hn (takeRecord_takes hf hb hp rfl rfl hh ht hst hz hstale) hd).trans ?_
    cases way <;> rfl
  · intro d a z imm s s1 s2 s3 s4 base l app i e n p x stays hs ha hstay hf hb
    have hgo := ldGo_loads (p := p) ha rfl hstay hs
    refine ⟨fun ho hn hr => hgo.trans (loadFrom_requests hf hb ho hn hr), ?_⟩
    intro ho hm ht r hw
    rw [hgo, loadFrom_reads hf hb ho hm ht hw]
    rfl
  · intro d a z imm s s1 s2 s3 base l q lv i e p u far hs ha hl hp hp' hf ho hm ht hc
    have hu : u = (channelCore q s3).2 := by cases q <;> rfl
    have hfar : far = (channelCore q s3).1 := by cases q <;> rfl
    rw [hu, hfar] at hc ⊢
    exact ldGo_ships hs ha hl hp hp' hf ho hm ht hc
  · intro a s s1 s2 p l i e w hs hl ha hm hf hrec hb
    exact ⟨susp_stores hs hl ha hm hf hrec hb, susp_journals hs hl ha hm hf hrec hb⟩
  · intro c idx answer s j hj ha hs
    refine ⟨fun hr hrel => ?_, fun hr => ⟨_, postedStoreAccept_refused hj ha hr, susp_failed hs⟩⟩
    obtain ⟨hstate, hrec, hmem⟩ := susp_accepted (k := s.byRelease c j.uid j.tenant j.seq .device) hs hrel
    have hx := postedStoreAccept_accepted hj ha hr
    rw [if_pos hrel] at hx
    refine ⟨_, hx, hstate, hrec, fun q hq => (hmem q _).trans (readAt_writeAt_outside _ hq), fun ho q => ?_⟩
    rw [writeAt_settled fun n hn => (leftJournal_overtaken ..).trans (ho n hn)] at hmem
    exact hmem q _
  · intro a s s1 s2 p l c off r i e w x h hs hl ha hm h0 h1 hf hp hrec hb hr hfit hnew hroom
    exact hold_registers hs hl ha hm h0 h1 hf hp hrec hb hr hfit hnew hroom

end Sys2Proof.Machine
end

section
/-! PROOF. What only advances the PC, or gives up the issue slot (R184, R315, R410, R451). -/

namespace Sys2Proof.Machine

theorem SMap.filter_insert_out {α : Type} (m : SMap α) (p : Nat × α → Bool) (k : Nat) (v : α) (h : p (k, v) = false) :
    (SMap.insert m k v).filter p = m.filter p := by
  induction m with
  | nil => exact List.filter_cons_of_neg (by rw [h]; decide)
  | cons e m ih =>
    rw [SMap.insert_cons]
    split
    · exact List.filter_cons_of_neg (by rw [h]; decide)
    · rw [List.filter_cons, List.filter_cons, ih]

/-- What leaves out every entry at k sees no write there. -/
theorem SMap.filter_put_out {α : Type} [DecidableEq α] (m : SMap α) (d : α) (p : Nat × α → Bool) (k : Nat) (v : α) (h : ∀ w, p (k, w) = false) :
    (SMap.put m d k v).filter p = m.filter p := by
  have he : (SMap.erase m k).filter p = m.filter p := by
    rw [SMap.erase, List.filter_filter]
    refine List.filter_congr fun e _ => ?_
    by_cases hk : e.1 = k
    · subst hk
      rw [h e.2, Bool.false_and]
    · rw [bne_iff_ne.mpr hk, Bool.and_true]
  unfold SMap.put
  split
  · exact he
  · rw [SMap.filter_insert_out _ p k v (h v), he]

/-- The contexts that a `yield` lets go first: every other one of its core that is ready. -/
def yieldsTo (i : Nat) (m : SMap Ctx) : List Nat := (m.filter (fun p => p.1 != i && p.2.state == .ready)).map (fun p => p.1)

/-- The body of `yield`. -/
def yieldBody : M Unit := do
  let e ← M.env
  let k ← M.myCore
  M.modMe (fun x => { x with skip := yieldsTo e.slot k.ctxs })

/-- The start of its issue slot makes no other context ready. -/
theorem yieldsTo_begun (s : State) : yieldsTo s.cur.2 ((begun s).core s.cur.1).ctxs = yieldsTo s.cur.2 s.home.ctxs := by
  unfold begun advance
  rw [State.core_modCtx_same]
  exact congrArg (List.map _) (SMap.filter_put_out _ _ _ _ _ fun w => by rw [bne_self_eq_false, Bool.false_and])

/-- Settles O31: the body of `nop` is empty, that of `yield` notes whom it lets go first, and that of `idle` parks for good. -/
theorem nopYieldIdle : Obligations.NopYieldIdle := by
  unfold Obligations.NopYieldIdle
  refine ⟨fun s hs => ?_, fun s hs => ?_, fun s hs => ?_⟩
  · have hx : exec .nop s = run .nop (pure ()) s := rfl
    exact hx.trans (run_completes hs rfl)
  · have hx : exec .yield s = run .yield yieldBody s := rfl
    rw [hx, run_completes hs rfl, doer_core, doer_slot, yieldsTo_begun]
    rfl
  · have hx : exec .idle s = run .idle (fun _ t => .error (.park { list := 5, object := 0x1FFFFFF, cond := .never } (fun _ => t))) s := rfl
    exact hx.trans (run_parks (keep := fun _ => begun s) hs rfl)

end Sys2Proof.Machine
end

section
/-! PROOF. `wait`, barriers and semaphores (R187 to R192, R318, R358, R359, R432, R450). -/

namespace Sys2Proof.Machine

/-! ### The contexts of the machine after an update of one -/

/-- What a write leaves listed: the new entry, and what stands at other indexes. -/
theorem SMap.of_mem_put {α : Type} [DecidableEq α] {m : SMap α} {d : α} {k : Nat} {v : α} {e : Nat × α} (h : e ∈ SMap.put m d k v) :
    e = (k, v) ∨ (e ∈ m ∧ e.1 ≠ k) := by
  have herase : ∀ e ∈ SMap.erase m k, e ∈ m ∧ e.1 ≠ k := fun e he => ⟨List.mem_of_mem_filter he, SMap.erase_lacks m k e he⟩
  have hinsert : ∀ m : SMap α, e ∈ SMap.insert m k v → e = (k, v) ∨ e ∈ m := by
    intro m
    induction m with
    | nil => exact fun h => .inl (List.mem_singleton.mp h)
    | cons a m ih =>
      intro h
      rw [SMap.insert_cons] at h
      split at h
      · exact List.mem_cons.mp h
      · rcases List.mem_cons.mp h with rfl | h
        · exact .inr List.mem_cons_self
        · exact (ih h).imp id (List.mem_cons_of_mem a)
  unfold SMap.put at h
  split at h
  · exact .inr (herase e h)
  · exact (hinsert _ h).imp id (herase e)

/-- Which contexts are listed: those that are held under an index of a core that is held. -/
theorem mem_allCtxs_iff {s : State} {a : Nat × Nat × Ctx} :
    a ∈ s.allCtxs ↔ ∃ k, (a.1, k) ∈ s.cores ∧ (a.2.1, a.2.2) ∈ k.ctxs ∧ a.2.2.state ≠ .free := by
  obtain ⟨c, i, x⟩ := a
  unfold State.allCtxs
  constructor
  · intro h
    obtain ⟨⟨d, k⟩, hk, hx⟩ := List.mem_flatMap.mp h
    obtain ⟨⟨j, y⟩, hy, he⟩ := List.mem_filterMap.mp hx
    dsimp only at he
    split at he
    · exact absurd he (by simp)
    · next hf =>
      obtain ⟨rfl, rfl, rfl⟩ : d = c ∧ j = i ∧ y = x := by simpa using he
      exact ⟨k, hk, hy, hf⟩
  · rintro ⟨k, hk, hx, hf⟩
    exact List.mem_flatMap.mpr ⟨(c, k), hk, List.mem_filterMap.mpr ⟨(i, x), hx, if_neg hf⟩⟩

/-- After an update of one context only that one is listed at its slot, and the others are listed as before. -/
theorem of_mem_allCtxs_modCtx {s : State} {c i : Nat} {f : Ctx → Ctx} {a : Nat × Nat × Ctx} (h : a ∈ (s.modCtx c i f).allCtxs) :
    a = (c, i, f (s.ctx c i)) ∨ (a ∈ s.allCtxs ∧ ¬(a.1 = c ∧ a.2.1 = i)) := by
  obtain ⟨d, j, y⟩ := a
  obtain ⟨k, hk, hy, hf⟩ := mem_allCtxs_iff.mp h
  rcases SMap.of_mem_put hk with hk | ⟨hk, hd⟩
  · obtain ⟨rfl, rfl⟩ : d = c ∧ k = (s.core c).setCtx i (f (s.ctx c i)) := by simpa using hk
    rcases SMap.of_mem_put hy with hy | ⟨hy, hj⟩
    · obtain ⟨rfl, rfl⟩ : j = i ∧ y = f (s.ctx d i) := by simpa using hy
      exact .inl rfl
    · have hc : s.core d ≠ Core.reset := fun he => by
        rw [he] at hy
        exact List.not_mem_nil hy
      exact .inr ⟨mem_allCtxs_iff.mpr ⟨s.core d, SMap.mem_get hc, hy, hf⟩, fun hi => hj hi.2⟩
  · exact .inr ⟨mem_allCtxs_iff.mpr ⟨k, hk, hy, hf⟩, fun hi => hd hi.1⟩

/-! ### How many members a gang has -/

theorem SMap.erase_above {α : Type} {m : SMap α} {k : Nat} (h : SMap.above k m) : SMap.erase m k = m :=
  List.filter_eq_self.mpr fun e he => by simpa using Nat.ne_of_gt (h e he)

/-- In canonical form an index is listed once: what is read there and the rest weigh the whole. -/
theorem SMap.weight_erase {α : Type} [DecidableEq α] {w : α → Nat} {d : α} (hd : w d = 0) (k : Nat) :
    ∀ m : SMap α, SMap.wf m d = true → SMap.weight w (SMap.erase m k) + w (SMap.get m k d) = SMap.weight w m
  | [], _ => congrArg _ hd
  | e :: m, h => by
    obtain ⟨-, ha, hm⟩ := (SMap.wf_cons d m e).mp h
    rw [SMap.erase_cons, SMap.get_cons, SMap.weight_cons]
    split
    · next hk => rw [← hk, SMap.erase_above ha, Nat.add_comm]
    · rw [SMap.weight_cons, Nat.add_assoc, SMap.weight_erase hd k m hm]

/-- A write of what weighs the same keeps the weight. -/
theorem SMap.weight_put {α : Type} [DecidableEq α] {w : α → Nat} {d : α} (hd : w d = 0) {m : SMap α} (hm : SMap.wf m d = true) {k : Nat} {v : α}
    (hv : w v = w (SMap.get m k d)) : SMap.weight w (SMap.put m d k v) = SMap.weight w m := by
  have h := SMap.weight_erase hd k m hm
  unfold SMap.put
  split
  · next he => rw [← h, ← hv, he, hd, Nat.add_zero]
  · rw [SMap.weight_insert, hv, Nat.add_comm, h]

/-- What a context counts as a member of gang g. -/
def Ctx.memberCount (g : Nat) (x : Ctx) : Nat := if x.member g then 1 else 0

/-- How many members of gang g a core has. -/
def Core.memberCount (g : Nat) (k : Core) : Nat := SMap.weight (Ctx.memberCount g) k.ctxs

theorem members_length (s : State) (g : Nat) : (s.members g).length = SMap.weight (Core.memberCount g) s.cores := by
  have hcore : ∀ (c : Nat) (m : SMap Ctx), ((m.filterMap (fun (i, x) => if x.state = .free then none else some (c, i, x))).filter
      (fun (_, _, x) => x.member g)).length = SMap.weight (Ctx.memberCount g) m := by
    intro c m
    induction m with
    | nil => rfl
    | cons e m ih =>
      obtain ⟨i, x⟩ := e
      rw [SMap.weight_cons, ← ih, List.filterMap_cons]
      unfold Ctx.memberCount
      by_cases hf : x.state = .free
      · simp [Ctx.member, hf]
      · simp only [hf, ↓reduceIte, List.filter_cons]
        by_cases hx : x.member g = true
        · simp [hx, Nat.add_comm]
        · simp [hx]
  unfold State.members State.allCtxs SMap.weight
  rw [List.filter_flatMap, List.length_flatMap]
  exact congrArg List.sum (List.map_congr_left fun e _ => hcore e.1 e.2.ctxs)

/-- An update that makes no member of a context and no stranger of a member keeps their number. -/
theorem members_length_modCtx {s : State} (hs : s.canonical = true) {c i g : Nat} {f : Ctx → Ctx} (h : (f (s.ctx c i)).member g = (s.ctx c i).member g) :
    ((s.modCtx c i f).members g).length = (s.members g).length := by
  obtain ⟨-, -, hcores, -⟩ := (State.canonical_iff s).mp hs
  obtain ⟨hctxs, -⟩ := (Core.canonical_iff _).mp (State.core_canonical s c hs)
  rw [members_length, members_length]
  have hctx : Ctx.memberCount g (f (s.ctx c i)) = Ctx.memberCount g (s.ctx c i) := by
    unfold Ctx.memberCount
    rw [h]
  have hcore : Core.memberCount g ((s.core c).setCtx i (f (s.ctx c i))) = Core.memberCount g (s.core c) :=
    SMap.weight_put (w := Ctx.memberCount g) rfl hctxs hctx
  exact SMap.weight_put (w := Core.memberCount g) rfl hcores hcore

theorem State.modGang_canonical {s : State} (hs : s.canonical = true) (g : Nat) (f : Gang → Gang) : (s.modGang g f).canonical = true := hs

theorem members_modGang (s : State) (h : Nat) (f : Gang → Gang) (g : Nat) : ((s.modGang h f).members g).length = (s.members g).length := rfl

theorem members_length_pos {s : State} {c i g : Nat} (h : (s.ctx c i).member g = true) : (s.members g).length ≠ 0 := by
  have hf : (s.ctx c i).state ≠ .free := by
    intro hf
    simp [Ctx.member, hf] at h
  exact List.length_pos_of_mem (List.mem_filter.mpr ⟨mem_allCtxs hf, h⟩) |>.ne'

/-! ### Phases complete (R191) -/

/-- The barrier after its phase under way has completed. -/
def Barrier.next (b : Barrier) : Barrier := { b.setSlot b.done 0 with done := b.done + 1 }

theorem gang?_modGang {s : State} {g : Nat} {f : Gang → Gang} (hf : ∀ y, (f y).uid = y.uid) : (s.modGang g f).gang? g = (s.gang? g).map f := by
  unfold State.gang? State.modGang State.modDisp
  dsimp only
  rw [List.find?_map]
  have hp : (fun x : Gang => x.uid == g) ∘ (fun x : Gang => if x.uid == g then f x else x) = fun x => x.uid == g := by
    funext x
    dsimp only [Function.comp_apply]
    split
    · rw [hf]
    · rfl
  rw [hp]
  cases h : s.disp.gangs.find? (fun x => x.uid == g) with
  | none => rfl
  | some y =>
    have hy : (y.uid == g) = true := List.find?_some (p := fun x : Gang => x.uid == g) h
    rw [Option.map_some, Option.map_some, if_pos hy]

theorem Gang.bar_setBar (y : Gang) (n : Nat) (b : Barrier) : (y.setBar n b).bar n = b := SMap.get_put_same ..

/-- What an update of a context's observed phases keeps, the members' observation keeps. -/
theorem observeParked_induction {P : State → Prop} (h : ∀ s c i (o : Ctx → SMap (BitVec 32)), P s → P (s.modCtx c i (fun y => { y with obs := o y })))
    {s : State} (hs : P s) (n : Nat) (done : BitVec 32) (l : List (Nat × Nat × Ctx)) : P (observeParked s n done l) := by
  induction l generalizing s with
  | nil => exact hs
  | cons a l ih =>
    obtain ⟨c, i, x⟩ := a
    unfold observeParked
    refine ih ?_
    split
    · exact h s c i _ hs
    · exact hs

/-- What that and an update of the gang keep, the completion loop keeps. -/
theorem completeBar_induction {P : State → Prop} {g : Nat}
    (h : ∀ s c i (o : Ctx → SMap (BitVec 32)), P s → P (s.modCtx c i (fun y => { y with obs := o y })))
    (hg : ∀ s f, P s → P (s.modGang g f)) {s : State} (hs : P s) (n f : Nat) : P (completeBar g n f s) := by
  induction f generalizing s with
  | zero => exact hs
  | succ f ih =>
    unfold completeBar
    split
    · exact hs
    · dsimp only
      split
      · exact hs
      · exact ih (observeParked_induction h (hg s _ hs) n _ _)

/-- One more phase of barrier n completes: the parked members observe it. -/
def phaseDone (g n : Nat) (b : Barrier) (s : State) : State :=
  observeParked (s.modGang g (fun y => y.setBar n b.next)) n b.next.done ((s.modGang g (fun y => y.setBar n b.next)).members g)

/-- A round of the completion loop of a gang that has members. -/
theorem completeBar_round {s : State} {g n f : Nat} {y : Gang} (hg : s.gang? g = some y) (hm : (s.members g).length ≠ 0) :
    completeBar g n (f + 1) s =
      if (s.members g).length ≤ ((y.bar n).slot (y.bar n).done).toNat then completeBar g n f (phaseDone g n (y.bar n) s) else s := by
  rw [completeBar, hg]
  dsimp only
  split
  · next h => rw [if_neg (by omega)]
  · next h => rw [if_pos (by omega)]; rfl

/-- The barrier n of gang g stands at b, in a canonical state in which the gang has m members. -/
structure StandsAt (g n m : Nat) (b : Barrier) (s : State) : Prop where
  canonical : s.canonical = true
  bar : (s.gang? g).map (fun y => y.bar n) = some b
  members : (s.members g).length = m

theorem StandsAt.phaseDone {g n m : Nat} {b : Barrier} {s : State} (h : StandsAt g n m b s) : StandsAt g n m b.next (phaseDone g n b s) := by
  obtain ⟨hcanon, hbar, hmembers⟩ := h
  unfold Machine.phaseDone
  refine observeParked_induction (P := StandsAt g n m b.next) (s := s.modGang g _) ?_ ⟨hcanon, ?_, hmembers⟩ n _ _
  · rintro t c i o ⟨ht, hb, hm⟩
    exact ⟨State.modCtx_canonical t c i _ ht, hb, (members_length_modCtx ht rfl).trans hm⟩
  · obtain ⟨y, hy, -⟩ := Option.map_eq_some_iff.mp hbar
    rw [gang?_modGang (f := fun z => z.setBar n b.next) fun _ => rfl, hy]
    exact congrArg some (Gang.bar_setBar y n b.next)

theorem StandsAt.round {g n m f : Nat} {b : Barrier} {s : State} (h : StandsAt g n m b s) (hm : m ≠ 0) :
    completeBar g n (f + 1) s = if m ≤ (b.slot b.done).toNat then completeBar g n f (Machine.phaseDone g n b s) else s := by
  obtain ⟨-, hbar, hmembers⟩ := h
  obtain ⟨y, hy, hb⟩ := Option.map_eq_some_iff.mp hbar
  rw [completeBar_round hy (hmembers ▸ hm), hmembers, ← hb]

/-- Each phase in turn completes whose slot holds as many arrivals as the gang has members. -/
theorem completeBar_completes {g n m : Nat} {b : Barrier} {s : State} (h : StandsAt g n m b s) (hm : m ≠ 0) :
    let full := fun z : Barrier => m ≤ (z.slot z.done).toNat
    let left := ((completeBar g n 2 s).gang? g).map (fun z => z.bar n)
    (¬full b → left = some b) ∧ (full b → ¬full b.next → left = some b.next) ∧ (full b → full b.next → left = some b.next.next) := by
  dsimp only
  rw [h.round hm, h.phaseDone.round hm]
  refine ⟨fun h0 => ?_, fun h0 h1 => ?_, fun h0 h1 => ?_⟩
  · rw [if_neg h0]; exact h.bar
  · rw [if_pos h0, if_neg h1]; exact h.phaseDone.bar
  · rw [if_pos h0, if_pos h1]; exact h.phaseDone.phaseDone.bar

/-! ### What the completion loop leaves of a context that is not parked -/

/-- No context listed at slot i of core c is parked. -/
def Unparked (c i : Nat) (s : State) : Prop := ∀ x, (c, i, x) ∈ s.allCtxs → x.state ≠ .parked

theorem modCtx_unparked {s : State} {c i : Nat} {f : Ctx → Ctx} (h : (f (s.ctx c i)).state ≠ .parked) : Unparked c i (s.modCtx c i f) := by
  intro x hx
  rcases of_mem_allCtxs_modCtx hx with he | ⟨-, hne⟩
  · obtain rfl : x = f (s.ctx c i) := congrArg (fun a => a.2.2) he
    exact h
  · exact absurd ⟨rfl, rfl⟩ hne

theorem observeParked_unparked {s : State} {c i n : Nat} {done : BitVec 32} {l : List (Nat × Nat × Ctx)} (hs : Unparked c i s)
    (hl : ∀ x, (c, i, x) ∈ l → x.state ≠ .parked) :
    Unparked c i (observeParked s n done l) ∧ (observeParked s n done l).ctx c i = s.ctx c i := by
  induction l generalizing s with
  | nil => exact ⟨hs, rfl⟩
  | cons a l ih =>
    obtain ⟨d, j, x⟩ := a
    have hl' : ∀ x, (c, i, x) ∈ l → x.state ≠ .parked := fun x hx => hl x (List.mem_cons_of_mem _ hx)
    unfold observeParked
    split
    · next hp =>
      have hne : ¬(c = d ∧ i = j) := by
        rintro ⟨rfl, rfl⟩
        refine hl x List.mem_cons_self ?_
        unfold Ctx.parkedOn at hp
        simpa using (Bool.and_eq_true_iff.mp hp).1
      have hmod : ∀ f, Unparked c i (s.modCtx d j f) := fun f y hy =>
        (of_mem_allCtxs_modCtx hy).elim (fun he => absurd ⟨congrArg Prod.fst he, congrArg (fun a => a.2.1) he⟩ hne) fun h => hs y h.1
      refine (ih (hmod _) hl').imp id fun hx => hx.trans ?_
      rw [State.ctx_modCtx, if_neg hne]
    · exact ih hs hl'

theorem completeBar_unparked {s : State} {c i g n f : Nat} (hs : Unparked c i s) : (completeBar g n f s).ctx c i = s.ctx c i := by
  induction f generalizing s with
  | zero => rfl
  | succ f ih =>
    unfold completeBar
    split
    · rfl
    · dsimp only
      split
      · rfl
      · obtain ⟨hu, hx⟩ := observeParked_unparked (s := s.modGang g _) hs fun x hx => hs x (List.mem_of_mem_filter hx)
        exact (ih hu).trans hx

/-! ### Frontiers -/

/-- The frontier holds all that p's writers have committed up to count n. -/
def Front.covers (f : Front) (p : Parties) (n : Nat) : Prop := ∃ m ∈ f.marks, m.1 = p ∧ n ≤ m.2

theorem Front.covers_mark_same (f : Front) (p : Parties) (n : Nat) : (f.mark p n).covers p n := by
  unfold Front.covers Front.mark
  dsimp only
  split
  · next h =>
    obtain ⟨m, hm, hp⟩ := List.any_eq_true.mp h
    exact ⟨(p, max m.2 n), List.mem_map.mpr ⟨m, hm, if_pos hp⟩, rfl, le_max_right _ _⟩
  · exact ⟨(p, n), List.mem_append_right _ List.mem_cons_self, rfl, le_rfl⟩

/-- A mark lowers no other. -/
theorem Front.covers.mark {f : Front} {p : Parties} {n : Nat} (h : f.covers p n) (q : Parties) (k : Nat) : (f.mark q k).covers p n := by
  obtain ⟨m, hm, hp, hn⟩ := h
  unfold Front.covers Front.mark
  dsimp only
  split
  · by_cases hq : m.1 = q
    · exact ⟨(q, max m.2 k), List.mem_map.mpr ⟨m, hm, if_pos (beq_iff_eq.mpr hq)⟩, hq.symm.trans hp, hn.trans (le_max_left _ _)⟩
    · exact ⟨m, List.mem_map.mpr ⟨m, hm, if_neg (by simpa using hq)⟩, hp, hn⟩
  · exact ⟨m, List.mem_append_left _ hm, hp, hn⟩

theorem Front.covers.mono {f : Front} {p : Parties} {n k : Nat} (h : f.covers p k) (hk : n ≤ k) : f.covers p n := by
  obtain ⟨m, hm, hp, hn⟩ := h
  exact ⟨m, hm, hp, hk.trans hn⟩

/-- A frontier that joins others keeps what it holds, and gains what they hold. -/
theorem Front.covers_join {f g : Front} {p : Parties} {n : Nat} (h : f.covers p n ∨ g.covers p n) : (f.join g).covers p n := by
  have hfold : ∀ (l : List (Parties × Nat)) (f : Front), (f.covers p n ∨ ∃ m ∈ l, m.1 = p ∧ n ≤ m.2) →
      (l.foldl (fun (h : Front) m => h.mark m.1 m.2) f).covers p n := by
    intro l
    induction l with
    | nil => exact fun f h => h.resolve_right fun ⟨_, hm, _⟩ => List.not_mem_nil hm
    | cons a l ih =>
      rintro f (h | ⟨m, hm, hp, hn⟩)
      · exact ih _ (.inl (h.mark _ _))
      · rcases List.mem_cons.mp hm with rfl | hm
        · exact ih _ (.inl (hp ▸ (Front.covers_mark_same f m.1 m.2).mono hn))
        · exact ih _ (.inr ⟨m, hm, hp, hn⟩)
  exact hfold g.marks f h

/-! ### An arrival (R191) -/

section
variable {s : State} {c i g n : Nat} {y : Gang}

/-- What an arriving context observes, and what it releases to those that observe its phase. -/
def observesAndReleases (c i g n : Nat) (y : Gang) (s : State) : State :=
  let q := SMap.get (s.ctx c i).arr n 0
  let u := s.gain (s.ctx c i).uid (s.observed g n (minCnt (y.bar n).done q))
  u.joinChan (.bar g n q.toNat) ((u.released (s.ctx c i).uid (.cores y.cores)).join (u.chan (.bar g n (q - 2).toNat)))

/-- The context has arrived at phase q of barrier n, and has observed the phases below o. -/
def Ctx.arrives (n : Nat) (o q : BitVec 32) (x : Ctx) : Ctx :=
  { x with obs := SMap.put x.obs 0 n o, arr := SMap.put x.arr 0 n (q + 1) }

/-- The barrier holds one more arrival at phase q. -/
def Barrier.arrived (b : Barrier) (q : BitVec 32) : Barrier := b.setSlot q (b.slot q + 1)

/-- An arrival before the phases are tested. -/
def arrivedAt (c i g n : Nat) (y : Gang) (s : State) : State :=
  let q := SMap.get (s.ctx c i).arr n 0
  ((observesAndReleases c i g n y s).modCtx c i (Ctx.arrives n (minCnt (y.bar n).done q) q)).modGang g (fun z => z.setBar n ((y.bar n).arrived q))

theorem State.gain_eq (s : State) (u : Nat) (f : Front) : s.gain u f = { s with ord := (s.gain u f).ord } := by
  unfold State.gain
  split <;> rfl

/-- Observing and releasing concern the order alone. -/
theorem observesAndReleases_eq (c i g n : Nat) (y : Gang) (s : State) :
    observesAndReleases c i g n y s = { s with ord := (observesAndReleases c i g n y s).ord } := by
  unfold observesAndReleases
  dsimp only
  rw [State.gain_eq s]
  rfl

theorem observesAndReleases_ctx (d j : Nat) : (observesAndReleases c i g n y s).ctx d j = s.ctx d j := by
  rw [observesAndReleases_eq]
  rfl

theorem arrive_eq (hg : s.gang? g = some y) : arrive s c i g n = completeBar g n 2 (arrivedAt c i g n y s) := by
  unfold arrive
  rw [hg]
  rfl

/-- The phase that the context's next arrival at barrier n is for. -/
def Ctx.phase (n : Nat) (x : Ctx) : BitVec 32 := SMap.get x.arr n 0

theorem State.ctx_modGang (s : State) (g : Nat) (f : Gang → Gang) (c i : Nat) : (s.modGang g f).ctx c i = s.ctx c i := rfl

theorem arrivedAt_ctx :
    (arrivedAt c i g n y s).ctx c i = (s.ctx c i).arrives n (minCnt (y.bar n).done ((s.ctx c i).phase n)) ((s.ctx c i).phase n) := by
  unfold arrivedAt
  dsimp only
  rw [State.ctx_modGang, State.ctx_modCtx_same, observesAndReleases_ctx]
  rfl

theorem arrivedAt_unparked (hr : (s.ctx c i).state = .ready) : Unparked c i (arrivedAt c i g n y s) := by
  refine modCtx_unparked (s := observesAndReleases c i g n y s) ?_
  rw [observesAndReleases_ctx]
  exact fun h => absurd (hr.symm.trans h) (by decide)

theorem arrive_ctx (hg : s.gang? g = some y) (hr : (s.ctx c i).state = .ready) : (arrive s c i g n).ctx c i = (arrivedAt c i g n y s).ctx c i := by
  rw [arrive_eq hg, completeBar_unparked (arrivedAt_unparked hr)]

/-- The arrival is a release at the scope of the gang's cores. -/
theorem arrive_releases (hg : s.gang? g = some y) :
    ((arrive s c i g n).chan (.bar g n (SMap.get (s.ctx c i).arr n 0).toNat)).covers (.cores y.cores) s.ord.commits := by
  have hord : (arrive s c i g n).ord = (arrivedAt c i g n y s).ord := by
    rw [arrive_eq hg]
    exact completeBar_induction (P := fun t => t.ord = (arrivedAt c i g n y s).ord) (fun _ _ _ _ h => h) (fun _ _ h => h) rfl n 2
  have hcommits : ∀ (u : Nat) (f : Front), (s.gain u f).ord.commits = s.ord.commits := by
    intro u f
    unfold State.gain
    split <;> rfl
  have hchan : ∀ (u : State) (h : Chan) (f : Front), f.covers (.cores y.cores) s.ord.commits →
      ((u.joinChan h f).chan h).covers (.cores y.cores) s.ord.commits := fun u h f hf =>
    (State.chan_setChan u h _).symm ▸ Front.covers_join (.inr hf)
  unfold State.chan
  rw [hord]
  refine hchan _ _ _ (Front.covers_join (.inl ?_))
  unfold State.released
  rw [hcommits]
  exact Front.covers_mark_same _ _ _

theorem arrive_sameMemory (hg : s.gang? g = some y) : sameMemory s (arrive s c i g n) := by
  have h : SameStores s (observesAndReleases c i g n y s) := by
    rw [observesAndReleases_eq]
    exact .of_cores rfl rfl rfl
  have hgang : SameStores ((observesAndReleases c i g n y s).modCtx c i (Ctx.arrives n _ _)) (arrivedAt c i g n y s) := .of_cores rfl rfl rfl
  rw [arrive_eq hg]
  exact ((completeBar_changesObs g n 2 _).stores.after (hgang.after ((SameStores.modCtx ..).after h))).sameMemory

/-- Once it has counted, the barrier stands with one arrival more. -/
theorem arrivedAt_standsAt (hs : s.canonical = true) (hg : s.gang? g = some y) :
    StandsAt g n (s.members g).length ((y.bar n).arrived (SMap.get (s.ctx c i).arr n 0)) (arrivedAt c i g n y s) := by
  unfold arrivedAt
  rw [observesAndReleases_eq]
  generalize (observesAndReleases c i g n y s).ord = o
  have hcanon : ({ s with ord := o } : State).canonical = true := hs
  refine ⟨State.modGang_canonical (State.modCtx_canonical _ c i _ hcanon) g _, ?_, (members_modGang ..).trans (members_length_modCtx hcanon rfl)⟩
  have hgang : ∀ f, (({ s with ord := o } : State).modCtx c i f).gang? g = some y := fun _ => hg
  dsimp only
  rw [gang?_modGang (f := fun z => z.setBar n _) fun _ => rfl, hgang]
  exact congrArg some (Gang.bar_setBar ..)

end

/-- The issuing context at the start of its issue slot. -/
theorem begun_ctx_who (s : State) : (begun s).ctx s.cur.1 s.cur.2 = { s.who with pc := s.who.pc + 4, wait := none } := begun_who s

/-! ### `wait` (R187, R318, R319, R450) -/

section
variable {e : Env} {s : State} {c q st : Bool}

/-- With no failure of a named class to raise, nothing happens. -/
theorem raisePending_calm (hc : (c && (s.ctx e.core e.slot).recC) = false) (hq : (q && (s.ctx e.core e.slot).recQ) = false)
    (hr : (if st then (s.core e.core).myRefusal e.slot (s.ctx e.core e.slot) else none) = none) : raisePending c q st e s = .ok ((), s) := by
  unfold raisePending
  rw [M.bind_ok (M.me_run e s), M.bind_ok (M.myCore_run e s), M.bind_ok (M.env_run e s), M.if_neg_run (by rw [hc]; decide),
    M.if_neg_run (by rw [hq]; decide), hr]
  rfl

theorem raisePending_copy (hc : (c && (s.ctx e.core e.slot).recC) = true) :
    raisePending c q st e s = M.trap 0x11 ((s.ctx e.core e.slot).er 0 0x81) ((s.ctx e.core e.slot).er 0 0x80) e s := by
  unfold raisePending
  rw [M.bind_ok (M.me_run e s), M.bind_ok (M.myCore_run e s), M.bind_ok (M.env_run e s), M.if_pos_run hc]

theorem raisePending_rope (hc : (c && (s.ctx e.core e.slot).recC) = false) (hq : (q && (s.ctx e.core e.slot).recQ) = true) :
    raisePending c q st e s = M.trap 0x12 ((s.ctx e.core e.slot).er 3 9) ((s.ctx e.core e.slot).er 3 8) e s := by
  unfold raisePending
  rw [M.bind_ok (M.me_run e s), M.bind_ok (M.myCore_run e s), M.bind_ok (M.env_run e s), M.if_neg_run (by rw [hc]; decide), M.if_pos_run hq]

theorem raisePending_store {p aux : Word} (hc : (c && (s.ctx e.core e.slot).recC) = false) (hq : (q && (s.ctx e.core e.slot).recQ) = false)
    (hr : (if st then (s.core e.core).myRefusal e.slot (s.ctx e.core e.slot) else none) = some (p, aux)) :
    raisePending c q st e s = M.trap 0x13 p aux e s := by
  unfold raisePending
  rw [M.bind_ok (M.me_run e s), M.bind_ok (M.myCore_run e s), M.bind_ok (M.env_run e s), M.if_neg_run (by rw [hc]; decide),
    M.if_neg_run (by rw [hq]; decide), hr]

end

theorem myRefusal_some {k : Core} {i : Nat} {x : Ctx} {r : JRec} (h : k.jrec = some r) (hu : r.uid = x.uid) (hi : r.slot = i) (hl : r.land = x.land)
    (hr : r.raised = false) : k.myRefusal i x = some (r.ptr, w64 (r.ent + r.rsn * 64 + r.sizeCode * 1024)) := by
  unfold Core.myRefusal
  rw [h]
  exact if_pos ⟨hu, hi, hl, hr⟩

/-- What a context has to raise is the same at the start of its issue slot. -/
theorem myRefusal_begun (s : State) :
    ((begun s).core s.cur.1).myRefusal s.cur.2 ((begun s).ctx s.cur.1 s.cur.2) = s.home.myRefusal s.cur.2 s.who := by
  have hj : ((begun s).core s.cur.1).jrec = s.home.jrec := core_begun_keeps Core.jrec (fun _ _ _ => rfl) s s.cur.1
  rw [begun_ctx_who]
  unfold Core.myRefusal
  rw [hj]

/-- The counters of the named classes are at most the fields. -/
def Ctx.met (x : Ctx) (l t c m q : BitVec 5) : Prop :=
  (l = 31 ∨ x.nL ≤ l.toNat) ∧ (t = 31 ∨ x.nS ≤ t.toNat) ∧ (c = 31 ∨ x.nC ≤ c.toNat) ∧ (m = 31 ∨ x.nM ≤ m.toNat) ∧
    (q = 31 ∨ x.nQ ≤ q.toNat)

/-- The field 31 names no class (R187). -/
theorem unnamed_iff (f : BitVec 5) : f.toNat = 31 ↔ f = 31 :=
  ⟨fun h => BitVec.eq_of_toNat_eq h, fun h => h ▸ rfl⟩

theorem atMost_iff (x : Ctx) (l t c m q : BitVec 5) : x.atMost l.toNat t.toNat c.toNat m.toNat q.toNat = true ↔ x.met l t c m q := by
  unfold Ctx.atMost Ctx.met
  simp only [Bool.and_eq_true, Bool.or_eq_true, beq_iff_eq, decide_eq_true_eq, unnamed_iff, and_assoc]

theorem waitObject_fields (l t c m q : BitVec 5) : BitVec.ofNat 48 (waitObject l.toNat t.toNat c.toNat m.toNat q.toNat) =
    l.setWidth 48 <<< 20 ||| t.setWidth 48 <<< 15 ||| c.setWidth 48 <<< 10 ||| m.setWidth 48 <<< 5 ||| q.setWidth 48 := by
  apply BitVec.eq_of_toNat_eq
  simp only [waitObject, BitVec.toNat_ofNat, BitVec.toNat_or, BitVec.toNat_shiftLeft, BitVec.toNat_setWidth, Nat.or_mod_two_pow, Nat.shiftLeft_eq,
    Nat.mod_mul_mod]

section
variable {l t c m q : BitVec 5} {s : State}

/-- Of the named classes none has a failure to raise. -/
def calm (t c q : BitVec 5) (s : State) : Prop :=
  (c ≠ 31 → s.who.recC = false) ∧ (q ≠ 31 → s.who.recQ = false) ∧ (t ≠ 31 → s.home.myRefusal s.cur.2 s.who = none)

theorem named_and_eq_false {f : BitVec 5} {b : Bool} : (f != 31 && b) = false ↔ (f ≠ 31 → b = false) := by
  cases b <;> simp

theorem named_and_eq_true {f : BitVec 5} {b : Bool} : (f != 31 && b) = true ↔ f ≠ 31 ∧ b = true := by simp

theorem exec_wait : exec (.wait l t c m q) s = run (.wait l t c m q) (waitBody l t c m q) s := rfl

theorem waitBody_calm (h : calm t c q s) : waitBody l t c m q (doer (.wait l t c m q) s) (begun s) =
    (if s.who.atMost l.toNat t.toNat c.toNat m.toNat q.toNat then M.modify (waited s.who.uid (c != 31) (m != 31) (q != 31))
      else M.park 5 (heldObject s.who l.toNat t.toNat c.toNat m.toNat q.toNat) (.counters l.toNat t.toNat c.toNat m.toNat q.toNat) : M Unit)
      (doer (.wait l t c m q) s) (begun s) := by
  obtain ⟨hc, hq, hr⟩ := h
  have hpend : raisePending (c != 31) (q != 31) (t != 31) (doer (.wait l t c m q) s) (begun s) = .ok ((), begun s) := by
    refine raisePending_calm ?_ ?_ ?_
    · rw [doer_core, doer_slot, begun_ctx_who]; exact named_and_eq_false.mpr hc
    · rw [doer_core, doer_slot, begun_ctx_who]; exact named_and_eq_false.mpr hq
    · rw [doer_core, doer_slot, myRefusal_begun]
      split
      · next ht => exact hr (by simpa using ht)
      · rfl
  unfold waitBody
  rw [M.bind_ok hpend, M.bind_ok (M.me_run ..), doer_core, doer_slot, begun_ctx_who]
  rfl

/-- The object of a parked `wait`. -/
theorem heldObject_fields (x : Ctx) : BitVec.ofNat 48 (heldObject x l.toNat t.toNat c.toNat m.toNat q.toNat) =
    if q ≠ 31 ∧ q.toNat < x.nQ ∧ x.loads.any LoadReq.sampling = true then (0x1FFFFE0 : BitVec 48)
    else l.setWidth 48 <<< 20 ||| t.setWidth 48 <<< 15 ||| c.setWidth 48 <<< 10 ||| m.setWidth 48 <<< 5 ||| q.setWidth 48 := by
  have hq : q.toNat ≠ 31 ↔ q ≠ 31 := not_congr (unnamed_iff q)
  have hif : (q.toNat < x.nQ ∧ q.toNat ≠ 31 ∧ x.loads.any LoadReq.sampling = true) ↔
      (q ≠ 31 ∧ q.toNat < x.nQ ∧ x.loads.any LoadReq.sampling = true) := by
    rw [hq]
    exact and_left_comm
  have hobj : heldObject x l.toNat t.toNat c.toNat m.toNat q.toNat =
      if q.toNat < x.nQ ∧ q.toNat ≠ 31 ∧ x.loads.any LoadReq.sampling = true then waitObject 31 31 31 31 0
      else waitObject l.toNat t.toNat c.toNat m.toNat q.toNat := rfl
  rw [hobj, if_congr hif rfl rfl, apply_ite (BitVec.ofNat 48), waitObject_fields]
  rfl

variable (hs : starts (.wait l t c m q) s = true)
include hs

theorem wait_completes (h : calm t c q s) (hm : s.who.met l t c m q) : exec (.wait l t c m q) s =
    .next (ended s (waited s.who.uid (c != 31) (m != 31) (q != 31) (begun s))) :=
  exec_wait.trans (run_completes hs ((waitBody_calm h).trans (M.if_pos_run ((atMost_iff ..).mpr hm) ..)))

theorem wait_parks (h : calm t c q s) (hm : ¬s.who.met l t c m q) : exec (.wait l t c m q) s = .next (s.parkOn s.cur.1 s.cur.2
    { list := 5, object := BitVec.ofNat 48 (heldObject s.who l.toNat t.toNat c.toNat m.toNat q.toNat),
      cond := .counters l.toNat t.toNat c.toNat m.toNat q.toNat }) :=
  exec_wait.trans (run_parks (keep := id) hs ((waitBody_calm h).trans (M.if_neg_run (fun h => hm ((atMost_iff ..).mp h)) ..)))

/-- A failure that is pending is raised, and the counters play no part. -/
theorem wait_raises {cause : Nat} {addr aux : Word}
    (h : raisePending (c != 31) (q != 31) (t != 31) (doer (.wait l t c m q) s) (begun s) = M.trap cause addr aux (doer (.wait l t c m q) s) (begun s)) :
    exec (.wait l t c m q) s = .next (rotate s.cur.1 s.cur.2 (raise (doer (.wait l t c m q) s) { cause := cause, addr := addr, aux := aux } s)) :=
  exec_wait.trans (run_traps hs (M.bind_error h _))

theorem wait_raises_copy (hc : c ≠ 31) (hr : s.who.recC = true) : exec (.wait l t c m q) s =
    .next (rotate s.cur.1 s.cur.2 (raise (doer (.wait l t c m q) s) { cause := 0x11, addr := s.who.er 0 0x81, aux := s.who.er 0 0x80 } s)) := by
  refine wait_raises hs ((raisePending_copy ?_).trans ?_) <;> rw [doer_core, doer_slot, begun_ctx_who]
  · exact named_and_eq_true.mpr ⟨hc, hr⟩
  · rfl

theorem wait_raises_rope (hc : ¬(c ≠ 31 ∧ s.who.recC = true)) (hq : q ≠ 31) (hr : s.who.recQ = true) : exec (.wait l t c m q) s =
    .next (rotate s.cur.1 s.cur.2 (raise (doer (.wait l t c m q) s) { cause := 0x12, addr := s.who.er 3 9, aux := s.who.er 3 8 } s)) := by
  refine wait_raises hs ((raisePending_rope ?_ ?_).trans ?_) <;> rw [doer_core, doer_slot, begun_ctx_who]
  · exact Bool.eq_false_iff.mpr fun h => hc (named_and_eq_true.mp h)
  · exact named_and_eq_true.mpr ⟨hq, hr⟩
  · rfl

theorem wait_raises_store {r : JRec} (hc : ¬(c ≠ 31 ∧ s.who.recC = true)) (hq : ¬(q ≠ 31 ∧ s.who.recQ = true)) (ht : t ≠ 31)
    (hj : s.home.jrec = some r) (hu : r.uid = s.who.uid) (hi : r.slot = s.cur.2) (hl : r.land = s.who.land) (hr : r.raised = false) :
    exec (.wait l t c m q) s = .next (rotate s.cur.1 s.cur.2 (raise (doer (.wait l t c m q) s)
      { cause := 0x13, addr := r.ptr, aux := w64 (r.ent + r.rsn * 64 + r.sizeCode * 1024) } s)) := by
  refine wait_raises hs (raisePending_store ?_ ?_ ?_) <;> rw [doer_core, doer_slot]
  · rw [begun_ctx_who]; exact Bool.eq_false_iff.mpr fun h => hc (named_and_eq_true.mp h)
  · rw [begun_ctx_who]; exact Bool.eq_false_iff.mpr fun h => hq (named_and_eq_true.mp h)
  · rw [myRefusal_begun, if_pos (bne_iff_ne.mpr ht)]
    exact myRefusal_some hj hu hi hl hr

end

/-- Updates that do the same to a context are the same. -/
theorem State.modCtx_congr {s : State} {c i : Nat} {f f' : Ctx → Ctx} (h : f (s.ctx c i) = f' (s.ctx c i)) : s.modCtx c i f = s.modCtx c i f' :=
  congrArg (s.setCtx c i) h

/-! ### `bar` and `barw` (R191, R358, R359) -/

section
variable {n : BitVec 3} {s : State} {g : Nat} (hg : s.who.gang = some g) (hi : s.who.inl = [])

theorem exec_bar : exec (.bar n) s = run (.bar n) (barBody n.toNat) s := rfl
theorem exec_barw : exec (.barw n) s = run (.barw n) (barwBody n.toNat) s := rfl

theorem landing_has_no_barrier (hl : s.who.landing = true) :
    (starts (.bar n) s = true → exec (.bar n) s = .next (rotate s.cur.1 s.cur.2 (raise (doer (.bar n) s) { cause := 0x09, aux := 5 } s))) ∧
    (starts (.barw n) s = true → exec (.barw n) s = .next (rotate s.cur.1 s.cur.2 (raise (doer (.barw n) s) { cause := 0x09, aux := 5 } s))) := by
  have hx : ((begun s).ctx s.cur.1 s.cur.2).landing = true := (begun_landing s).trans hl
  refine ⟨fun hs => exec_bar.trans (run_traps hs ?_), fun hs => exec_barw.trans (run_traps hs ?_)⟩
  · unfold barBody
    rw [M.bind_ok (M.me_run ..), M.bind_ok (M.env_run ..)]
    exact M.if_pos_run hx ..
  · unfold barwBody
    rw [M.bind_ok (M.me_run ..)]
    exact M.if_pos_run hx ..

variable (hl : s.who.landing = false)
include hg hi hl

theorem barBody_run : barBody n.toNat (doer (.bar n) s) (begun s) =
    (if barBlocked (begun s) s.who g n.toNat || !performed (doer (.bar n) s) (begun s) then M.park 6 (barObject s.who n.toNat) (.bar n.toNat)
      else M.modify (fun t => arrive t s.cur.1 s.cur.2 g n.toNat) : M Unit) (doer (.bar n) s) (begun s) := by
  unfold barBody performed
  rw [M.bind_ok (M.me_run ..), M.bind_ok (M.env_run ..), doer_core, doer_slot, begun_ctx_who, M.if_neg_run (by rw [hl]; decide)]
  dsimp only
  rw [hi, hg]
  rfl

theorem bar_arrives (hs : starts (.bar n) s = true) (hp : performed (doer (.bar n) s) (begun s) = true) (hb : barBlocked (begun s) s.who g n.toNat = false) :
    exec (.bar n) s = .next (ended s (arrive (begun s) s.cur.1 s.cur.2 g n.toNat)) := by
  exact exec_bar.trans (run_completes hs ((barBody_run hg hi hl).trans (M.if_neg_run (by rw [hp, hb]; decide) ..)))

theorem bar_parks (hs : starts (.bar n) s = true) (hb : performed (doer (.bar n) s) (begun s) = false ∨ barBlocked (begun s) s.who g n.toNat = true) :
    exec (.bar n) s = .next (s.parkOn s.cur.1 s.cur.2
      { list := 6, object := BitVec.ofNat 48 (barObject s.who n.toNat), cond := .bar n.toNat }) := by
  have hif : (barBlocked (begun s) s.who g n.toNat || !performed (doer (.bar n) s) (begun s)) = true :=
    Bool.or_eq_true_iff.mpr (hb.symm.imp id fun h => by rw [h]; rfl)
  exact exec_bar.trans (run_parks (keep := id) hs ((barBody_run hg hi hl).trans (M.if_pos_run hif ..)))

theorem barwBody_run {y : Gang} (hy : s.gang? g = some y) : barwBody n.toNat (doer (.barw n) s) (begun s) =
    (if before (y.bar n.toNat).done (SMap.get s.who.arr n.toNat 0) = true then M.park 6 (barObject s.who n.toNat) (.barw n.toNat)
      else do
        M.modify (fun u => u.gain s.who.uid (u.observed g n.toNat (SMap.get s.who.arr n.toNat 0)))
        M.modMe (fun x => { x with obs := SMap.put x.obs 0 n.toNat (SMap.get x.arr n.toNat 0) }) : M Unit) (doer (.barw n) s) (begun s) := by
  have hyb : (begun s).gang? g = some y := hy
  unfold barwBody
  rw [M.bind_ok (M.me_run ..), doer_core, doer_slot, begun_ctx_who, M.if_neg_run (by rw [hl]; decide)]
  dsimp only
  rw [hi, hg]
  dsimp only
  rw [M.bind_ok (M.state_run ..), hyb]
  rfl

theorem barw_completes {y : Gang} (hy : s.gang? g = some y) (hs : starts (.barw n) s = true)
    (hb : before (y.bar n.toNat).done (SMap.get s.who.arr n.toNat 0) = false) : exec (.barw n) s =
      .next (ended s (((begun s).gain s.who.uid (s.observed g n.toNat (SMap.get s.who.arr n.toNat 0))).modCtx s.cur.1 s.cur.2
        (fun x => { x with obs := SMap.put x.obs 0 n.toNat (SMap.get s.who.arr n.toNat 0) }))) := by
  have hctx : ((begun s).gain s.who.uid (s.observed g n.toNat (SMap.get s.who.arr n.toNat 0))).ctx s.cur.1 s.cur.2 =
      { s.who with pc := s.who.pc + 4, wait := none } := (State.ctx_gain ..).trans (begun_ctx_who s)
  refine exec_barw.trans (run_completes hs ((barwBody_run hg hi hl hy).trans ((M.if_neg_run (by rw [hb]; decide) ..).trans ?_)))
  rw [M.bind_ok (M.modify_run ..), M.modMe_run]
  refine congrArg (fun t => Except.ok ((), t)) (State.modCtx_congr ?_)
  rw [doer_core, doer_slot, show (begun s).observed g n.toNat (SMap.get s.who.arr n.toNat 0) = s.observed g n.toNat (SMap.get s.who.arr n.toNat 0) from rfl,
    hctx]

theorem barw_parks {y : Gang} (hy : s.gang? g = some y) (hs : starts (.barw n) s = true)
    (hb : before (y.bar n.toNat).done (SMap.get s.who.arr n.toNat 0) = true) : exec (.barw n) s =
      .next (s.parkOn s.cur.1 s.cur.2 { list := 6, object := BitVec.ofNat 48 (barObject s.who n.toNat), cond := .barw n.toNat }) := by
  exact exec_barw.trans (run_parks (keep := id) hs ((barwBody_run hg hi hl hy).trans (M.if_pos_run hb ..)))

end

/-! ### Semaphores (R189, R190, R432) -/

section
variable {n : BitVec 4} {s : State}

/-- The semaphore n of the issuing context's tenant on its core. -/
def semOf (n : BitVec 4) (s : State) : Nat := semKey s.cur.1 s.who.tenant n.toNat

/-- Its count. -/
def semCount (n : BitVec 4) (s : State) : BitVec 16 := SMap.get s.home.sems (semOf n s) 0

/-- The contexts parked on it. -/
def waitsOn (n : BitVec 4) (s : State) (y : Ctx) : Bool := y.tenant == s.who.tenant && y.parkedOn (fun w => w == .sem n.toNat)

/-- What a `semv` has released before it counts. -/
def semReleased (n : BitVec 4) (s : State) : State := (begun s).joinChan (.sem s.cur.1 (semOf n s)) (s.released s.who.uid (.cores [s.cur.1]))

/-- The core's semaphore at key holds v. -/
def Core.setSem (key : Nat) (v : BitVec 16) (k : Core) : Core := { k with sems := SMap.put k.sems 0 key v }

/-- A count raised by one, up to 65,535. -/
def oneMore (v : BitVec 16) : BitVec 16 := if v = 0xFFFF then v else v + 1

theorem begun_sems (s : State) : ((begun s).core s.cur.1).sems = s.home.sems := core_begun_keeps Core.sems (fun _ _ _ => rfl) s s.cur.1

theorem exec_semp : exec (.semp n) s = run (.semp n) (sempBody n.toNat) s := rfl
theorem exec_semv : exec (.semv n) s = run (.semv n) (semvBody n.toNat) s := rfl

theorem sempBody_run : sempBody n.toNat (doer (.semp n) s) (begun s) =
    (if semCount n s = 0 then M.park 7 n.toNat (.sem n.toNat)
      else do
        M.modify (semGain s.cur.1 (semOf n s) s.who.uid)
        M.modMyCore (Core.setSem (semOf n s) (semCount n s - 1)) : M Unit) (doer (.semp n) s) (begun s) := by
  unfold sempBody
  rw [M.bind_ok (M.env_run ..), M.bind_ok (M.me_run ..), doer_core, doer_slot, begun_ctx_who]
  dsimp only
  rw [M.bind_ok (M.myCore_run ..), doer_core, begun_sems]
  rfl

theorem semp_takes (hs : starts (.semp n) s = true) (hv : semCount n s ≠ 0) : exec (.semp n) s =
    .next (ended s (((begun s).gain s.who.uid (s.chan (.sem s.cur.1 (semOf n s)))).modCore s.cur.1 (Core.setSem (semOf n s) (semCount n s - 1)))) := by
  exact exec_semp.trans (run_completes hs (sempBody_run.trans ((M.if_neg_run hv ..).trans rfl)))

theorem semp_parks (hs : starts (.semp n) s = true) (hv : semCount n s = 0) :
    exec (.semp n) s = .next (s.parkOn s.cur.1 s.cur.2 { list := 7, object := BitVec.ofNat 48 n.toNat, cond := .sem n.toNat }) := by
  exact exec_semp.trans (run_parks (keep := id) hs (sempBody_run.trans (M.if_pos_run hv ..)))

/-- The context parked longest so far, with its place in the order of parks, once one more has been looked at. -/
def parkedLonger (p : Ctx → Bool) (best : Option (Nat × Nat)) (e : Nat × Ctx) : Option (Nat × Nat) :=
  match e.2.wait with
  | some w =>
    if p e.2 then
      (match best with
        | some (_, n) => if w.seq < n then some (e.1, w.seq) else best
        | none => some (e.1, w.seq))
    else best
  | none => best

theorem longestParked_eq (k : Core) (p : Ctx → Bool) : longestParked k p = (k.ctxs.foldl (parkedLonger p) none).map (fun e => e.1) := rfl

theorem parkedLonger_other {p : Ctx → Bool} {e : Nat × Ctx} (h : p e.2 = false) (best : Option (Nat × Nat)) : parkedLonger p best e = best := by
  unfold parkedLonger
  rw [h]
  split <;> rfl

/-- Where no context waits, none has been parked longest. -/
theorem longestParked_none {k : Core} {p : Ctx → Bool} (h : k.ctxs.all (fun e => !p e.2) = true) : longestParked k p = none := by
  rw [longestParked_eq]
  generalize k.ctxs = m at h ⊢
  induction m with
  | nil => rfl
  | cons e m ih =>
    obtain ⟨he, hm⟩ := Bool.and_eq_true_iff.mp h
    rw [List.foldl_cons, parkedLonger_other (by simpa using he)]
    exact ih hm

/-- How a `semv` ends: the context parked longest is given the count, or the semaphore keeps it. -/
def semvEnd (c key : Nat) (v : BitVec 16) : Option Nat → M Unit
  | some j => M.modify (fun t => grantSem t c j key)
  | none => M.modMyCore (Core.setSem key (oneMore v))

theorem semvBody_run (hp : performed (doer (.semv n) s) (begun s) = true) : semvBody n.toNat (doer (.semv n) s) (begun s) =
    semvEnd s.cur.1 (semOf n s) (semCount n s) (longestParked ((semReleased n s).core s.cur.1) (waitsOn n s)) (doer (.semv n) s) (semReleased n s) := by
  unfold semvBody
  rw [M.bind_ok (waitPerformed_done hp), M.bind_ok (M.env_run ..), M.bind_ok (M.me_run ..), doer_core, doer_slot, begun_ctx_who]
  dsimp only
  rw [M.bind_ok (M.myCore_run ..), M.bind_ok (M.modify_run ..), doer_core, begun_sems]
  rfl

theorem grantSem_eq (t : State) (c j key : Nat) : grantSem t c j key =
    ((t.modCtx c j (fun y => { y with pc := y.pc + 4 })).gain (t.ctx c j).uid (t.chan (.sem c key))).endWait c j := rfl

variable (hs : starts (.semv n) s = true) (hp : performed (doer (.semv n) s) (begun s) = true)
include hs hp

theorem semv_counts (h : ((semReleased n s).core s.cur.1).ctxs.all (fun p => !waitsOn n s p.2) = true) : exec (.semv n) s =
    .next (ended s ((semReleased n s).modCore s.cur.1 (Core.setSem (semOf n s) (oneMore (semCount n s))))) := by
  refine exec_semv.trans (run_completes hs ((semvBody_run hp).trans ?_))
  rw [longestParked_none h]
  rfl

theorem semv_hands {j : Nat} (h : longestParked ((semReleased n s).core s.cur.1) (waitsOn n s) = some j) :
    exec (.semv n) s = .next (ended s (grantSem (semReleased n s) s.cur.1 j (semOf n s))) := by
  refine exec_semv.trans (run_completes hs ((semvBody_run hp).trans ?_))
  rw [h]
  rfl

end

/-! ### The statement -/

/-- Settles O37: `wait` raises, completes or parks by its named classes, an arrival counts and completes phases in turn, and a semaphore's count goes to the
context that has been parked longest. -/
theorem waitsAndBarriers : Obligations.WaitsAndBarriers := by
  unfold Obligations.WaitsAndBarriers
  refine ⟨?_, ?_, ?_, ?_⟩
  · intro l t c m q s i e x quiet met hs sampling done
    refine ⟨wait_completes hs, fun hc hm => (wait_parks hs hc hm).trans ?_, wait_raises_copy hs, wait_raises_rope hs, fun r => wait_raises_store hs⟩
    rw [heldObject_fields]
    rfl
  · intro n s g y hg hy hi q
    refine ⟨bar_arrives hg hi, bar_parks hg hi, fun hl => barw_completes hg hi hl hy, fun hl => barw_parks hg hi hl hy, landing_has_no_barrier, ?_, ?_⟩
    · intro hr
      rw [arrive_ctx hy hr, arrivedAt_ctx]
      exact ⟨SMap.get_put_same .., SMap.get_put_same .., arrive_releases hy, arrive_sameMemory hy⟩
    · intro hcanon hr hl
      have hmember : s.who.member g = true := by simp [Ctx.member, hg, hl, hr]
      have hstands := arrivedAt_standsAt (n := n.toNat) (c := s.cur.1) (i := s.cur.2) hcanon hy
      rw [arrive_eq hy]
      exact completeBar_completes hstands (members_length_pos hmember)
  · exact fun n s hs => ⟨semp_takes hs, semp_parks hs⟩
  · intro n s hs hp key b v waits
    refine ⟨semv_counts hs hp, fun j hj => (semv_hands hs hp hj).trans ?_⟩
    rw [grantSem_eq]
    rfl

end Sys2Proof.Machine
end

section
/-! PROOF. Host and peer accesses (R194, R304, R335 to R337): what they read and write, and what is refused. -/

namespace Sys2Proof.Machine

/-! ### Accesses of the host (R335) -/

/-- The last access was an Unsupported Request, or was none. -/
def State.urNow (s : State) (b : Bool) : State := s.modHost (fun h => { h with ur := b })

theorem hostAccess_refused {size off : Nat} {named : Bool} (f : State → State) (s : State) (h : size < 8 ∨ off % 8 ≠ 0 ∨ named = false) :
    hostAccess size off named f s = s.urNow true := if_pos h

/-- An access of 8 bytes on the grid that names something takes place. -/
theorem hostAccess_named {off : Nat} {named : Bool} (f : State → State) (s : State) (ho : off % 8 = 0) (hn : named = true) :
    hostAccess 8 off named f s = f (s.urNow false) := by
  refine if_neg ?_
  rintro (h | h | h)
  · exact absurd h (by decide)
  · exact h ho
  · exact Bool.false_ne_true (h.symm.trans hn)

theorem sameStores_urNow (s : State) (b : Bool) : SameStores s (s.urNow b) := SameStores.modHost s _

theorem localOk_iff (c off : Nat) : localOk c off = true ↔ coreUsed c = true ∧ off < lsSize c ∧ off % 8 = 0 := by
  simp only [localOk, Bool.and_eq_true, decide_eq_true_eq, beq_iff_eq, and_assoc]

theorem localOk_eq_false {c off : Nat} (h : coreUsed c = false ∨ lsSize c ≤ off) : localOk c off = false := by
  refine Bool.eq_false_iff.mpr fun hk => ?_
  obtain ⟨hu, hl, -⟩ := (localOk_iff c off).mp hk
  exact h.elim (fun h => Bool.false_ne_true (h.symm.trans hu)) fun h => absurd hl (Nat.not_lt.mpr h)

section
variable {c off req : Nat} {v : Word} {s : State}

theorem hostLocal_dropped (full : Bool) (h : hostRegion s c off = none) : hostLocal req c off v full s = s.bump (s.lead c) 8 := by
  unfold hostLocal
  rw [h]

theorem hostLocal_written (full : Bool) {r : Region} (h : hostRegion s c off = some r) : hostLocal req c off v full s =
    (s.record (byHost s req full) (.ls (s.leadAt c off) off) 8 v.toNat r.gen).modCore (s.leadAt c off) (fun k =>
      if full then k.lsWriteFe r.gen off v.toNat true else k.lsWrite r.gen off 8 v.toNat) := by
  unfold hostLocal
  rw [h]

/-- A local store word takes the host's write where a region holds it; else the write is dropped and counted. -/
theorem hostLocalWrite_writes (hc : coreUsed c = true) (hl : off < lsSize c) (ho : off % 8 = 0) :
    let d := s.leadAt c off
    let u := s.urNow false
    (hostRegion s c off = none → exec (.hostLocalWrite c { off := off, req := req } v) s = .next (u.bump (s.lead c) 8) ∧
      exec (.hostFillAliasWrite c { off := off, req := req } v) s = .next (u.bump (s.lead c) 8)) ∧
    (∀ r, hostRegion s c off = some r →
      exec (.hostLocalWrite c { off := off, req := req } v) s =
        .next ((u.record (byHost u req false) (.ls d off) 8 v.toNat r.gen).modCore d (fun k => k.lsWrite r.gen off 8 v.toNat)) ∧
      exec (.hostFillAliasWrite c { off := off, req := req } v) s =
        .next ((u.record (byHost u req true) (.ls d off) 8 v.toNat r.gen).modCore d (fun k => k.lsWriteFe r.gen off v.toNat true))) := by
  have hok : localOk c off = true := (localOk_iff c off).mpr ⟨hc, hl, ho⟩
  have hplain : exec (.hostLocalWrite c { off := off, req := req } v) s = .next (hostLocal req c off v false (s.urNow false)) :=
    congrArg Host.Outcome.next (hostAccess_named _ s ho hok)
  have hfill : exec (.hostFillAliasWrite c { off := off, req := req } v) s = .next (hostLocal req c off v true (s.urNow false)) :=
    congrArg Host.Outcome.next (hostAccess_named _ s ho hok)
  have hregion : hostRegion (s.urNow false) c off = hostRegion s c off := rfl
  refine ⟨fun h => ?_, fun r h => ?_⟩
  · rw [hplain, hfill, hostLocal_dropped false (hregion.trans h), hostLocal_dropped true (hregion.trans h)]
    exact ⟨rfl, rfl⟩
  · rw [hplain, hfill, hostLocal_written false (hregion.trans h), hostLocal_written true (hregion.trans h)]
    exact ⟨rfl, rfl⟩

/-- A write to HBM is a commit of the requester's, and leaves every other byte alone. -/
theorem hostHbmWrite_writes (ho : off % 8 = 0) (ht : off < hbmTop) :
    let t := (s.urNow false).commit { by_ := .port req } (.hbm off) 8 v.toNat 0
    exec (.hostHbmWrite { off := off, req := req } v) s = .next t ∧ ∀ q, outsideStore s 0 (.hbm off) 8 q → t.readAt q 1 0 = s.readAt q 1 0 := by
  refine ⟨congrArg Host.Outcome.next (hostAccess_named _ s ho (decide_eq_true ht)), fun q hq => ?_⟩
  rw [commit_readsSame]
  exact (readAt_writeAt_outside (s := s.urNow false) _ hq).trans ((sameStores_urNow s false).readsSame rfl q 0)

end

/-! ### Launch slots (R194) -/

section
variable {q i : Nat} {s : State}

theorem launchSlot_setSlot (s : State) (q i : Nat) (l : LaunchSlot) : (s.setSlot q i l).launchSlot q i = (l.words, l.full) := by
  unfold State.launchSlot State.slot State.setSlot State.modDisp
  rw [SMap.get_put_same]

/-- Of a list that is made of eight words. -/
theorem getD_eight (f : Nat → Word) {j : Nat} (hj : j < 8) : ((List.range 8).map f).getD j 0 = f j := by
  simp [List.getD_eq_getElem?_getD, hj]

theorem fillSlot_full (req : Nat) (h : (s.slot q i).full = true) : fillSlot req q i s = s := by
  unfold fillSlot
  exact if_pos h

/-- A slot that is filled keeps its packet and has its full word set. -/
theorem fillSlot_fills (req q i : Nat) (s : State) : ((fillSlot req q i s).launchSlot q i).2 = true ∧
    ∀ j, j < 8 → ((fillSlot req q i s).launchSlot q i).1.getD j 0 = (s.launchSlot q i).1.getD j 0 := by
  by_cases h : (s.slot q i).full = true
  · rw [fillSlot_full req h]
    exact ⟨h, fun _ _ => rfl⟩
  · have hx : (fillSlot req q i s).launchSlot q i = ((List.range 8).map (fun j => (s.slot q i).words.getD j 0), true) := by
      unfold fillSlot
      dsimp only
      rw [if_neg h]
      exact launchSlot_setSlot s q i _
    rw [hx]
    exact ⟨rfl, fun j hj => getD_eight (fun j => (s.slot q i).words.getD j 0) hj⟩

theorem writeSlot_shut {req off : Nat} {v : Word} (h : (s.slot q i).full = true ∨ 64 < off) : writeSlot req q i off v s = s := by
  unfold writeSlot
  by_cases h64 : off = 64
  · rw [if_pos h64]
    exact fillSlot_full req (h.resolve_right (by omega))
  · rw [if_neg h64]
    exact if_pos h

/-- A write of one word of an empty slot's packet. -/
theorem writeSlot_writes {req off : Nat} {v : Word} (ho : off < 64) (h : (s.slot q i).full = false) :
    ((writeSlot req q i off v s).launchSlot q i).2 = false ∧ ∀ j, j < 8 →
      ((writeSlot req q i off v s).launchSlot q i).1.getD j 0 = if 8 * j = off then v else (s.slot q i).words.getD j 0 := by
  have hx : (writeSlot req q i off v s).launchSlot q i =
      ((List.range 8).map (fun j => if 8 * j = off then v else (s.slot q i).words.getD j 0), false) := by
    unfold writeSlot
    dsimp only
    rw [if_neg (by omega), if_neg (by simp [h]; omega)]
    exact launchSlot_setSlot s q i _
  rw [hx]
  exact ⟨rfl, fun j hj => getD_eight (fun j => if 8 * j = off then v else (s.slot q i).words.getD j 0) hj⟩

variable {off req : Nat} {v : Word} (hq : q < 64) (hi : i < 16)
include hq hi

theorem launchSlotWrite_eq (ho : off < 128) (h8 : off % 8 = 0) :
    exec (.launchSlotWrite q i { off := off, req := req } v) s = .next (writeSlot req q i off v (s.urNow false)) :=
  congrArg Host.Outcome.next ((if_pos ⟨hq, hi, ho⟩).trans (hostAccess_named _ s h8 rfl))

theorem launchSlotFull_eq : exec (.launchSlotFull q { off := i, req := req }) s = .next (fillSlot req q i (s.urNow false)) :=
  congrArg Host.Outcome.next ((if_pos ⟨hq, hi⟩).trans (hostAccess_named _ s rfl rfl))

end

/-! ### Reads (R194, R230, R340) -/

theorem weakRead_sameStores (s : State) (r : Reader) (own : BitVec 16) (also : Place → Wr → Bool) (pl : Place) (n : Nat) :
    SameStores s (s.weakRead r own also pl n).2.2 := by
  rcases State.weakRead_state s r own also pl n with h | h <;> rw [h]
  · exact .refl s
  · exact .of_cores rfl rfl rfl

theorem hostRead_reads {bar a req : Nat} {s t : State} {w : Word} (ha : a % 8 = 0) (h : barRead s bar a = some (w, t)) :
    exec (.hostRead bar { off := a, req := req }) s = .next (t.modHost (fun h => { h with lastRead := w, ur := false })) := by
  refine congrArg Host.Outcome.next ((hostAccess_named _ s ha ?_).trans ?_)
  · rw [h]; rfl
  · dsimp only
    rw [h]

/-- What the three windows show: HBM, the launch slots, and the status of the boot. -/
theorem hostRead_windows {a req : Nat} {s : State} (ha : a % 8 = 0) :
    (a < hbmTop → ∃ t, exec (.hostRead 4 { off := a, req := req }) s = .next t ∧
      t.host.lastRead = w64 (s.weakRead {} 0 anyWr (.hbm a) 8).1 ∧ sameMemory s t) ∧
    (a < 131072 → ∃ t, exec (.hostRead 2 { off := a, req := req }) s = .next t ∧ t.disp = s.disp ∧
      (a % 128 < 64 → t.host.lastRead = (s.launchSlot (a / 2048) (a / 128 % 16)).1.getD (a % 128 / 8) 0)) ∧
    (a = 0 → ∃ t, exec (.hostRead 0 { off := a, req := req }) s = .next t ∧
      t.host.lastRead = w64 (s.host.phase.toNat + s.host.why.toNat * 8 + s.host.code.toNat * 64)) := by
  refine ⟨fun ht => ?_, fun ht => ?_, fun h0 => ?_⟩
  · have hr : barRead s 4 a = some (w64 (s.weakRead {} 0 anyWr (.hbm a) 8).1, (s.weakRead {} 0 anyWr (.hbm a) 8).2.2) := if_pos ht
    exact ⟨_, hostRead_reads ha hr, rfl, ((SameStores.modHost ..).after (weakRead_sameStores ..)).sameMemory⟩
  · have hr : barRead s 2 a = some (bar2 s a, s) := if_pos ht
    refine ⟨_, hostRead_reads ha hr, rfl, fun ho => ?_⟩
    exact if_pos ho
  · subst h0
    have hr : barRead s 0 0 = some (bar0 s 0, s) := rfl
    exact ⟨_, hostRead_reads ha hr, rfl⟩

/-! ### Peers (R304) -/

/-- What an access of a tenant that comes over a link does: a place that the tenant's tables refuse is left alone. -/
def peerTakes (tn : Nat) (acc : PeerAccess) (s : State) : State :=
  match acc with
  | .write a n v =>
    match peerPlace s.draw.2 tn a n .ewrite (Config.freeChoice s.free) with
    | some pl => s.draw.2.commit { by_ := .link } pl n v.toNat 0
    | none => s.draw.2
  | .read a n =>
    match peerPlace s.draw.2 tn a n .eread (Config.freeChoice s.free) with
    | some pl =>
      let r := s.draw.2.weakRead {} 0 anyWr pl n
      r.2.2.modHost (fun h => { h with peerReply := w64 r.1 })
    | none => s.draw.2
  | .sample core slot tree step cls value index count =>
    let m : SmpMsg :=
      { core := core, slot := slot, tree := tree, step := step, tenant := tn, peer := none,
        inj := { cls := cls, value := value, index := index }, count := count, from_ := none, id := s.nextId, seq := 0 }
    { s with nextId := s.nextId + 1, smps := s.smps ++ [m] }

/-- An access over a link that is up, of a tenant that there is, takes place. -/
theorem peerAccess_arrives {l tn : Nat} {s : State} (hl : l < 12) (htn : tn < 64) (hup : SMap.get s.host.linkUp l false = true) (acc : PeerAccess) :
    exec (.peerAccessArrival l tn acc) s = .next (peerTakes tn acc s) := by
  have hx : exec (.peerAccessArrival l tn acc) s = execPeerAccessArrival l tn acc s := rfl
  rw [hx]
  unfold execPeerAccessArrival peerTakes
  rw [if_neg (by rw [decide_eq_true hl, decide_eq_true htn]; decide), if_neg (by rw [hup]; decide)]
  cases acc with
  | write a n v =>
    cases hp : peerPlace s.draw.2 tn a n .ewrite (Config.freeChoice s.free) <;>
    · dsimp only [State.draw] at hp ⊢
      rw [hp]
  | read a n =>
    cases hp : peerPlace s.draw.2 tn a n .eread (Config.freeChoice s.free) <;>
    · dsimp only [State.draw] at hp ⊢
      rw [hp]
  | sample => rfl

theorem peerTakes_read (tn n : Nat) (a : Word) (s : State) : sameMemory s (peerTakes tn (.read a n) s) ∧
    ∀ pl, peerPlace s.draw.2 tn a n .eread (Config.freeChoice s.free) = some pl →
      (peerTakes tn (.read a n) s).host.peerReply = w64 (s.draw.2.weakRead {} 0 anyWr pl n).1 := by
  have hdraw : SameStores s s.draw.2 := .of_cores rfl rfl rfl
  unfold peerTakes
  dsimp only
  cases hp : peerPlace s.draw.2 tn a n .eread (Config.freeChoice s.free) with
  | none => exact ⟨hdraw.sameMemory, fun pl h => absurd h (by simp)⟩
  | some pl =>
    refine ⟨((SameStores.modHost ..).after ((weakRead_sameStores ..).after hdraw)).sameMemory, fun pl' h => ?_⟩
    obtain rfl : pl = pl' := Option.some.inj h
    rfl

/-- Settles O52: each access is refused, or reads and writes what it names and nothing else. -/
theorem hostAccesses : Obligations.HostAccesses := by
  unfold Obligations.HostAccesses
  refine ⟨?_, ?_, ?_, ?_, ?_, ?_⟩
  · exact fun c off req v s hc hl ho => hostLocalWrite_writes hc hl ho
  · intro c bar q i h v s r
    have hrefused : ∀ {named : Bool} (f : State → State), h.size < 8 ∨ h.off % 8 ≠ 0 ∨ named = false →
        Host.Outcome.next (hostAccess h.size h.off named f s) = (.next r : Host.Outcome State Fault Refusal) :=
      fun f hu => congrArg Host.Outcome.next (hostAccess_refused f s hu)
    refine ⟨fun hu => ?_, fun hu => ?_, fun hu => ?_, fun hu => ?_, fun hu hq hi ho => ?_⟩
    · have hu' : h.size < 8 ∨ h.off % 8 ≠ 0 ∨ localOk c h.off = false := hu.imp id (Or.imp id localOk_eq_false)
      exact ⟨hrefused _ hu', hrefused _ hu'⟩
    · exact hrefused _ (hu.imp id (Or.imp id fun ht => decide_eq_false (Nat.not_lt.mpr ht)))
    · exact hrefused _ (hu.imp id (Or.imp id fun ht => decide_eq_false (Nat.not_lt.mpr ht)))
    · exact hrefused _ (hu.imp id (Or.imp id fun hn => by rw [hn]; rfl))
    · refine Eq.trans ?_ (hrefused (named := true) (writeSlot h.req q i h.off v) (hu.imp id .inl))
      exact congrArg Host.Outcome.next (if_pos ⟨hq, hi, ho⟩)
  · exact fun a req v s ha ht => hostHbmWrite_writes ha ht
  · intro q i off req v s p hq hi ho h8 h u
    refine ⟨fun hlow hp => ?_, fun hshut => ?_, fun h64 => ?_, ⟨_, launchSlotFull_eq hq hi, fillSlot_fills req q i u⟩⟩
    · obtain ⟨rfl, hfull⟩ : (s.slot q i).words = p ∧ (s.slot q i).full = false := by simpa [State.launchSlot] using hp
      exact ⟨_, launchSlotWrite_eq hq hi ho h8, writeSlot_writes (s := u) hlow hfull⟩
    · rw [launchSlotWrite_eq hq hi ho h8]
      exact congrArg Host.Outcome.next (writeSlot_shut (s := u) (hshut.imp (fun hp => congrArg Prod.snd hp) id))
    · subst h64
      rw [launchSlotWrite_eq hq hi ho h8, launchSlotFull_eq hq hi]
      rfl
  · exact fun a req s ha => hostRead_windows ha
  · intro l tn acc s hl htn hup sup
    refine ⟨?_, ?_, ?_⟩
    · rintro a n v rfl
      exact peerAccess_arrives hl htn hup _
    · rintro a n rfl
      exact ⟨_, peerAccess_arrives hl htn hup _, peerTakes_read tn n a s⟩
    · rintro c i tree step cls value index count rfl
      exact ⟨_, _, peerAccess_arrives hl htn hup _, rfl, rfl, rfl, rfl, rfl, rfl⟩

end Sys2Proof.Machine
end

section
/-! PROOF. The poll of a dependence word (R158) changes every run that is listed under the number polled, each by its own packet; the statement gives all of
them what the packet of the first says. -/

namespace Sys2Proof.Machine

/-- A run numbered 3 that waits for the word of core 0's local store at this offset. -/
def waitingRun (off : Nat) : Run := mkRun 3 0 0 0 [0, 0, 0, 0, 0, 0xF200000000000000 ||| w64 off, 0, 0] 0

/-- Two runs are listed under one number; the word that the first waits for is empty, and that of the second is full. -/
def sharedNumber : State :=
  (State.reset.modCore 0 (fun k => { k.lsWriteFe 9 0x40 7 true with
    regions := [{ off := 0, len := 1024, trap := false, gen := 9, gang := 0, tenant := 0, retired := false }] })).modDisp
      (fun d => { d with runs := [waitingRun 0x48, waitingRun 0x40] })

/-- Which runs are ready. -/
def readyRuns : Host.Outcome State Fault Refusal → List Bool
  | .next t => t.disp.runs.map (fun r => r.ready)
  | _ => []

/-- Refutes O46: where two runs are listed under one number, as in `sharedNumber`, the poll of an empty word of the first makes the second ready by its own
full word, and the last clause says that nothing changes. -/
theorem not_launching : ¬ Obligations.Launching := by
  unfold Obligations.Launching
  rintro ⟨-, -, -, -, -, hpoll⟩
  have hfirst : sharedNumber.run? 3 = some (waitingRun 0x48) := rfl
  have hempty : depFull sharedNumber (waitingRun 0x48).packet = none := by decide +kernel
  have hsame := congrArg readyRuns ((hpoll 3 sharedNumber (waitingRun 0x48) hfirst rfl rfl).2 hempty)
  have hpolled : readyRuns (exec (.depWordPoll 3) sharedNumber) = [false, true] := by decide +kernel
  exact absurd (hpolled.symm.trans hsame) (by decide +kernel)

end Sys2Proof.Machine
end

section
/-! PROOF. Translation (R217, R220 to R222, R448): hits and misses of a lookup, the end of a walk and what it brings its requesters, `tlbi` and the removal of
the entries that it names; and the arrival of a port word (R58, R60). -/

namespace Sys2Proof.Machine

/-! ### Hits and misses (R217, R220, R221) -/

section
variable {e : Env} {s : State} {p : Word} {op : Op} (hx : (s.ctx e.core e.slot).xfault = none)
include hx

/-- With no fault of a walk to take, an access is translated through the caches. -/
theorem translate_calm : translate p op e s = translate.go p op (s.ctx e.core e.slot) (bits p 50 16) e s := by
  unfold translate
  dsimp only
  rw [hx]

theorem translate_hit {t : TlbEntry} {s1 : State} {pl : Place} (ht : tlbLookup s e.core (s.ctx e.core e.slot).tenant (bits p 50 16) = (some t, s1))
    (hg : grant t.leaf t.big p op (s.ctx e.core e.slot).level = .ok pl) : translate p op e s = .ok ((pl, leafLevel t.big), s1) := by
  rw [translate_calm hx]
  unfold translate.go
  rw [ht]
  dsimp only
  rw [hg]

theorem translate_miss (ht : (tlbLookup s e.core (s.ctx e.core e.slot).tenant (bits p 50 16)).1 = none) : translate p op e s = .error (.park
    { list := 8, object := BitVec.ofNat 48 (bits p 51 4), cond := .walk (bits p 50 16) }
    (fun t => requestWalk (tlbLookup t e.core (s.ctx e.core e.slot).tenant (bits p 50 16)).2 (.ctx e.core e.slot) (s.ctx e.core e.slot).tenant (bits p 50 16))) := by
  have hn : tlbLookup s e.core (s.ctx e.core e.slot).tenant (bits p 50 16) = (none, (tlbLookup s e.core (s.ctx e.core e.slot).tenant (bits p 50 16)).2) :=
    Prod.ext ht rfl
  rw [translate_calm hx]
  unfold translate.go
  rw [hn]

end

/-! ### What the end of a walk does to the state (R221) -/

/-- A context that no body word holds keeps its place at its wait, or it is ready and in the rotation. -/
def keepsOrWakes (i : Nat) (x y : Ctx) (rot : List Nat) : Prop :=
  y.bwait = none ∧ ((y.state = x.state ∧ y.wait = x.wait) ∨ (y.state = .ready ∧ i ∈ rot))

/-- A command goes on with its number, and waits for the page in y only where it did in x. -/
def CopyCmd.follows (page : Nat) (x y : CopyCmd) : Prop := y.id = x.id ∧ (y.walks.page = some page → x.walks.page = some page)

/-- What the end of a walk of the page keeps, entry e filled into a cache or not: memory, the walks in progress, entry e where it is cached, the
rotations, and every context and copy command, but that it may be woken. -/
structure WalkKeeps (page : Nat) (e : TlbEntry) (s t : State) : Prop where
  stores : SameStores s t
  walks : t.walks = s.walks
  misses : t.missWait = s.missWait
  cached : ∀ c, e ∈ (s.core c).tlb → e ∈ (t.core c).tlb
  rot : ∀ c i, i ∈ (s.core c).rot → i ∈ (t.core c).rot
  tenant : ∀ c i, (t.ctx c i).tenant = (s.ctx c i).tenant
  wait : ∀ c i, (s.ctx c i).bwait = none → keepsOrWakes i (s.ctx c i) (t.ctx c i) (t.core c).rot
  copies : ∀ c i, ∀ y ∈ (t.ctx c i).copyQ, ∃ x ∈ (s.ctx c i).copyQ, x.follows page y

/-- A context stays in the rotation when another joins. -/
theorem Core.mem_rot_joinRot {k : Core} {j : Nat} (i : Nat) (h : j ∈ k.rot) : j ∈ (k.joinRot i).rot := by
  by_cases hj : j = i
  · exact hj ▸ Core.mem_joinRot k i
  · exact List.mem_append_left _ (List.mem_filter.mpr ⟨h, by simpa using hj⟩)

theorem State.ready_keeps {β : Type} (p : Core → β) (hp : ∀ k i x, p (Core.setCtx k i x) = p k) (hr : ∀ k l, p { k with rot := l } = p k)
    (s : State) (c i d : Nat) : p ((s.ready c i).core d) = p (s.core d) :=
  (State.core_modCore_keeps p (hr _ _) d).trans (State.core_modCtx_keeps p hp s c i _ d)

theorem State.ctx_ready_ne (s : State) {c i d j : Nat} (h : ¬(d = c ∧ j = i)) : (s.ready c i).ctx d j = s.ctx d j :=
  (State.ctx_modCore rfl d j).trans ((State.ctx_modCtx s c i d j _).trans (if_neg h))

theorem State.ctx_ready_keeps {β : Type} (p : Ctx → β) (hp : ∀ x a b w t, p { x with state := a, wait := b, bwait := w, taken := t } = p x)
    (s : State) (c i d j : Nat) : p ((s.ready c i).ctx d j) = p (s.ctx d j) :=
  (congrArg p (State.ctx_modCore rfl d j)).trans (State.ctx_modCtx_keeps p (hp _ _ _ _ _) d j)

namespace WalkKeeps

variable {page : Nat} {e : TlbEntry}

/-- Contexts that are the same in cores that keep e and their rotation. -/
theorem of_ctx {s t : State} (hs : SameStores s t) (hw : t.walks = s.walks) (hm : t.missWait = s.missWait)
    (hc : ∀ c, e ∈ (s.core c).tlb → e ∈ (t.core c).tlb) (hr : ∀ c i, i ∈ (s.core c).rot → i ∈ (t.core c).rot) (hx : ∀ c i, t.ctx c i = s.ctx c i) :
    WalkKeeps page e s t where
  stores := hs
  walks := hw
  misses := hm
  cached := hc
  rot := hr
  tenant c i := by rw [hx]
  wait c i h := by rw [hx]; exact ⟨h, .inl ⟨rfl, rfl⟩⟩
  copies c i y hy := ⟨y, by rwa [hx] at hy, rfl, id⟩

theorem refl (s : State) : WalkKeeps page e s s := of_ctx (.refl s) rfl rfl (fun _ h => h) (fun _ _ h => h) (fun _ _ => rfl)

theorem trans {s t u : State} (h : WalkKeeps page e s t) (g : WalkKeeps page e t u) : WalkKeeps page e s u where
  stores := h.stores.trans g.stores
  walks := g.walks.trans h.walks
  misses := g.misses.trans h.misses
  cached c hc := g.cached c (h.cached c hc)
  rot c i hi := g.rot c i (h.rot c i hi)
  tenant c i := (g.tenant c i).trans (h.tenant c i)
  wait c i hb := by
    obtain ⟨hb1, h1⟩ := h.wait c i hb
    obtain ⟨hb2, h2⟩ := g.wait c i hb1
    refine ⟨hb2, ?_⟩
    rcases h2 with ⟨hs2, hw2⟩ | h2
    · rcases h1 with ⟨hs1, hw1⟩ | ⟨hs1, hr1⟩
      · exact .inl ⟨hs2.trans hs1, hw2.trans hw1⟩
      · exact .inr ⟨hs2.trans hs1, g.rot c i hr1⟩
    · exact .inr h2
  copies c i z hz := by
    obtain ⟨y, hy, hid, hp⟩ := g.copies c i z hz
    obtain ⟨x, hx, hid', hp'⟩ := h.copies c i y hy
    exact ⟨x, hx, hid.trans hid', hp' ∘ hp⟩

theorem foldl {α : Type} {f : State → α → State} (h : ∀ s a, WalkKeeps page e s (f s a)) (l : List α) (s : State) : WalkKeeps page e s (l.foldl f s) := by
  induction l generalizing s with
  | nil => exact refl s
  | cons a l ih => exact (h s a).trans (ih (f s a))

/-- An update of a core that keeps its contexts, its store, e and its rotation. -/
theorem modCore {s : State} {c : Nat} {f : Core → Core} (hs : (f (s.core c)).store = (s.core c).store) (hx : (f (s.core c)).ctxs = (s.core c).ctxs)
    (hc : e ∈ (s.core c).tlb → e ∈ (f (s.core c)).tlb) (hr : ∀ i, i ∈ (s.core c).rot → i ∈ (f (s.core c)).rot) :
    WalkKeeps page e s (s.modCore c f) := by
  refine of_ctx (.modCore hs) rfl rfl (fun d hd => ?_) (fun d i hd => ?_) (fun d i => State.ctx_modCore hx d i)
  · rw [State.core_modCore]
    split
    · next h => exact hc (h ▸ hd)
    · exact hd
  · rw [State.core_modCore]
    split
    · next h => exact hr i (h ▸ hd)
    · exact hd

/-- Cores, memories and walks that are the same. -/
theorem of_cores {s t : State} (hc : t.cores = s.cores) (hh : t.hbm = s.hbm) (hm : t.hostMem = s.hostMem) (hw : t.walks = s.walks)
    (hq : t.missWait = s.missWait) : WalkKeeps page e s t := by
  have hcore : ∀ c, t.core c = s.core c := fun c => by unfold State.core; rw [hc]
  exact of_ctx (.of_cores hc hh hm) hw hq (fun c h => by rwa [hcore]) (fun c i h => by rwa [hcore]) fun c i => by unfold State.ctx; rw [hcore]

/-- An update of one context that keeps its tenant, and its waits or ends them where it is in the rotation. -/
theorem modCtx {s : State} {c i : Nat} {f : Ctx → Ctx} (ht : (f (s.ctx c i)).tenant = (s.ctx c i).tenant)
    (hw : (s.ctx c i).bwait = none → keepsOrWakes i (s.ctx c i) (f (s.ctx c i)) (s.core c).rot)
    (hq : ∀ y ∈ (f (s.ctx c i)).copyQ, ∃ x ∈ (s.ctx c i).copyQ, x.follows page y) : WalkKeeps page e s (s.modCtx c i f) where
  stores := .modCtx s c i f
  walks := rfl
  misses := rfl
  cached d h := by rwa [State.core_modCtx_keeps Core.tlb (fun _ _ _ => rfl)]
  rot d j h := by rwa [State.core_modCtx_keeps Core.rot (fun _ _ _ => rfl)]
  tenant d j := State.ctx_modCtx_keeps Ctx.tenant ht d j
  wait d j h := by
    rw [State.ctx_modCtx, State.core_modCtx_keeps Core.rot (fun _ _ _ => rfl)]
    split
    · next hd => obtain ⟨rfl, rfl⟩ := hd; exact hw h
    · exact ⟨h, .inl ⟨rfl, rfl⟩⟩
  copies d j y hy := by
    rw [State.ctx_modCtx] at hy
    split at hy
    · next hd => obtain ⟨rfl, rfl⟩ := hd; exact hq y hy
    · exact ⟨y, hy, rfl, id⟩

/-- A context that becomes ready joins the rotation. -/
theorem ready (s : State) (c i : Nat) : WalkKeeps page e s (s.ready c i) where
  stores := (SameStores.modCore rfl).after (.modCtx s c i _)
  walks := rfl
  misses := rfl
  cached d h := by rwa [State.ready_keeps Core.tlb (fun _ _ _ => rfl) (fun _ _ => rfl)]
  rot d j h := by
    unfold State.ready
    rw [State.core_modCore]
    split
    · next hd => exact Core.mem_rot_joinRot i (by rwa [← hd, State.core_modCtx_keeps Core.rot (fun _ _ _ => rfl)])
    · rwa [State.core_modCtx_keeps Core.rot (fun _ _ _ => rfl)]
  tenant d j := State.ctx_ready_keeps Ctx.tenant (fun _ _ _ _ _ => rfl) s c i d j
  wait d j h := by
    by_cases hd : d = c ∧ j = i
    · obtain ⟨rfl, rfl⟩ := hd
      rw [State.ctx_ready]
      exact ⟨rfl, .inr ⟨rfl, State.mem_modCore_joinRot _ d j⟩⟩
    · rw [State.ctx_ready_ne s hd]
      exact ⟨h, .inl ⟨rfl, rfl⟩⟩
  copies d j y hy := ⟨y, by rwa [State.ctx_ready_keeps Ctx.copyQ (fun _ _ _ _ _ => rfl)] at hy, rfl, id⟩

/-- So does the end of the waits of one context. -/
theorem wakeFor (s : State) (c i : Nat) (p : WaitCond → Bool) : WalkKeeps page e s (s.wakeFor c i p) := by
  unfold State.wakeFor
  split
  · next w hb =>
    have hsome : ∀ {x : Prop}, (s.ctx c i).bwait = none → x := fun h => absurd (h.symm.trans hb) (by simp)
    split
    · have hbody : WalkKeeps page e s (s.wakeBody c i) := by
        unfold State.wakeBody
        split
        · exact modCtx rfl hsome fun y hy => ⟨y, hy, rfl, id⟩
        · exact ready s c i
      dsimp only
      split
      · exact hbody.trans (ready _ c i)
      · exact hbody
    · unfold State.endWait
      rw [hb]
      exact modCtx rfl hsome fun y hy => ⟨y, hy, rfl, id⟩
  · exact ready s c i

end WalkKeeps

/-! ### The end of a walk (R220, R221) -/

/-- The entry that is touched is the first of the cache. -/
theorem mem_tlbTouch (l : List TlbEntry) (e : TlbEntry) (n : Nat) : e ∈ tlbTouch l e (n + 1) := List.mem_cons_self

section
variable {w : Walk} {r : WalkEnd} {e : TlbEntry} (he : w.entry r = some e)
include he

theorem fillCore_entry (s : State) (c : Nat) : fillCore w r s c = s.modCore c (fun k => { k with tlb := tlbTouch k.tlb e 32 }) := by
  unfold fillCore
  rw [he]

theorem fillCore_keeps (s : State) (c : Nat) : WalkKeeps w.page e s (fillCore w r s c) := by
  rw [fillCore_entry he]
  exact .modCore rfl rfl (fun _ => mem_tlbTouch ..) fun _ h => h

theorem mem_fillCore (s : State) (c : Nat) : e ∈ ((fillCore w r s c).core c).tlb := by
  rw [fillCore_entry he, State.core_modCore_same]
  exact mem_tlbTouch ..

theorem fillSquares_keeps (s : State) : WalkKeeps w.page e s (fillSquares w r s) := by
  unfold fillSquares
  rw [he]
  exact WalkKeeps.foldl (f := fun t q => t.modSquare q (fun y => { y with tlb := tlbTouch y.tlb e 1024 })) (fun t q => .of_cores rfl rfl rfl rfl rfl) _ s

end

/-- The context asked for the page and is parked until the walk ends. -/
def Ctx.awaits (w : Walk) (x : Ctx) : Bool := x.tenant == w.tenant && x.parkedOn (fun k => k == .walk w.page)

theorem Ctx.awaits_congr {w : Walk} {x y : Ctx} (ht : y.tenant = x.tenant) (hs : y.state = x.state) (hw : y.wait = x.wait) (hb : y.bwait = x.bwait) :
    y.awaits w = x.awaits w := by
  unfold Ctx.awaits Ctx.parkedOn
  rw [ht, hs, hw, hb]

/-- The end of a walk at a context that awaits it: the fault that it will take, and it goes on. -/
def wakeAsker (w : Walk) (r : WalkEnd) (c i : Nat) (s : State) : State :=
  (s.modCtx c i (fun x => { x with xfault := match r with
    | .fault cause aux => some (w.page, cause, aux)
    | .leaf _ _ => x.xfault })).wakeFor c i (fun k => k == .walk w.page)

theorem endWalk_ctx (w : Walk) (r : WalkEnd) (s : State) (c i : Nat) : endWalk w r s (.ctx c i) =
    if ((fillCore w r s c).ctx c i).awaits w = true then wakeAsker w r c i (fillCore w r s c) else fillCore w r s c := rfl

theorem wakeAsker_keeps (w : Walk) (r : WalkEnd) (e : TlbEntry) (c i : Nat) (s : State) : WalkKeeps w.page e s (wakeAsker w r c i s) := by
  unfold wakeAsker
  exact (WalkKeeps.modCtx rfl (fun h => ⟨h, .inl ⟨rfl, rfl⟩⟩) fun y hy => ⟨y, hy, rfl, id⟩).trans (.wakeFor _ c i _)

/-- A command takes the end of a walk by its number. -/
def CopyCmd.walkEnded (id page : Nat) (r : WalkEnd) (q : CopyCmd) : CopyCmd := if q.id == id then { q with walks := q.walks.end_ page r } else q

theorem endWalk_copy (w : Walk) (r : WalkEnd) (s : State) (c i id : Nat) : endWalk w r s (.copy c i id) =
    (fillCore w r s c).modCtx c i (fun x => { x with copyQ := x.copyQ.map (CopyCmd.walkEnded id w.page r) }) := rfl

/-- A command that has taken the end of the walk of a page does not wait for that page. -/
theorem CmdWalks.end_page (k : CmdWalks) (page : Nat) (r : WalkEnd) : (k.end_ page r).page ≠ some page := by
  unfold CmdWalks.end_
  split
  · simp
  · next h => exact h

theorem CopyCmd.walkEnded_follows (id page : Nat) (r : WalkEnd) (q : CopyCmd) : q.follows page (q.walkEnded id page r) := by
  unfold CopyCmd.walkEnded
  split
  · exact ⟨rfl, fun h => absurd h (CmdWalks.end_page q.walks page r)⟩
  · exact ⟨rfl, fun h => h⟩

theorem CopyCmd.walkEnded_page {id page : Nat} {r : WalkEnd} {q : CopyCmd} (h : (q.walkEnded id page r).id = id) :
    (q.walkEnded id page r).walks.page ≠ some page := by
  have hq : q.id = id := (q.walkEnded_follows id page r).1.symm.trans h
  unfold CopyCmd.walkEnded
  rw [if_pos (by simpa using hq)]
  exact CmdWalks.end_page q.walks page r

section
variable {w : Walk} {r : WalkEnd} {e : TlbEntry} (he : w.entry r = some e)
include he

theorem endWalk_keeps (s : State) (a : Asker) : WalkKeeps w.page e s (endWalk w r s a) := by
  cases a with
  | ctx c i =>
    rw [endWalk_ctx]
    split
    · exact (fillCore_keeps he s c).trans (wakeAsker_keeps ..)
    · exact fillCore_keeps he s c
  | copy c i id =>
    rw [endWalk_copy]
    refine (fillCore_keeps he s c).trans (.modCtx rfl (fun h => ⟨h, .inl ⟨rfl, rfl⟩⟩) fun y hy => ?_)
    obtain ⟨x, hx, rfl⟩ := List.mem_map.mp hy
    exact ⟨x, hx, x.walkEnded_follows ..⟩
  | rope q id => exact .of_cores rfl rfl rfl rfl rfl

/-- The leaf is in the cache of the core of a context that asked, -/
theorem endWalk_fills_ctx (s : State) (c i : Nat) : e ∈ ((endWalk w r s (.ctx c i)).core c).tlb := by
  rw [endWalk_ctx]
  split
  · exact (wakeAsker_keeps ..).cached c (mem_fillCore he s c)
  · exact mem_fillCore he s c

/-- and of one whose command asked. -/
theorem endWalk_fills_copy (s : State) (c i id : Nat) : e ∈ ((endWalk w r s (.copy c i id)).core c).tlb := by
  rw [endWalk_copy, State.core_modCtx_keeps Core.tlb (fun _ _ _ => rfl)]
  exact mem_fillCore he s c

/-- A context that awaits the walk, and that no body word holds, is ready. -/
theorem endWalk_wakes {s : State} {c i : Nat} (hx : (s.ctx c i).awaits w = true) (hb : (s.ctx c i).bwait = none) :
    ((endWalk w r s (.ctx c i)).ctx c i).state = .ready ∧ i ∈ ((endWalk w r s (.ctx c i)).core c).rot := by
  have hf : (fillCore w r s c).ctx c i = s.ctx c i := by rw [fillCore_entry he]; exact State.ctx_modCore rfl c i
  rw [endWalk_ctx, hf, if_pos hx]
  unfold wakeAsker State.wakeFor
  rw [State.ctx_modCtx_same, hf, hb]
  exact ⟨by rw [State.ctx_ready], State.mem_modCore_joinRot _ c i⟩

end

theorem endWalk_continues (w : Walk) (r : WalkEnd) (s : State) (c i id : Nat) :
    ∀ q ∈ ((endWalk w r s (.copy c i id)).ctx c i).copyQ, q.id = id → q.walks.page ≠ some w.page := by
  rw [endWalk_copy, State.ctx_modCtx_same]
  intro q hq hid
  obtain ⟨x, -, rfl⟩ := List.mem_map.mp hq
  exact CopyCmd.walkEnded_page hid

section
variable {n : Nat} {s : State} {w : Walk} {big : Bool} {leaf : Word} (hw : s.walks[n]? = some w)
  (hn : ((s.walks.take n).filter (fun x => x.die == w.die)).length < 256) (ht : walkTables s w.tenant (w.page * 65536) = .ok (big, leaf))
  (hm : s.missWait = [])

/-- The entry of a leaf that a walk has found. -/
def Walk.leafEntry (w : Walk) (big : Bool) (leaf : Word) : TlbEntry := { tenant := w.tenant, page := w.page, big := big, leaf := leaf }

/-- Walk n is no longer in progress, and the squares' caches are filled. -/
def walkLeft (n : Nat) (w : Walk) (r : WalkEnd) (s : State) : State := fillSquares w r { s with walks := without s.walks n }

/-- All who asked have the end of walk n. -/
def walkOver (n : Nat) (w : Walk) (r : WalkEnd) (s : State) : State := w.reqs.foldl (endWalk w r) (walkLeft n w r s)

theorem walkOver_keeps : WalkKeeps w.page (w.leafEntry big leaf) { s with walks := without s.walks n } (walkOver n w (.leaf big leaf) s) :=
  (fillSquares_keeps rfl _).trans (.foldl (endWalk_keeps rfl) _ _)

/-- The state in which a requester has its end of the walk: what comes before and what comes after keep what they keep. -/
theorem walkOver_split (n : Nat) (s : State) (big : Bool) (leaf : Word) {a : Asker} (ha : a ∈ w.reqs) :
    ∃ u, WalkKeeps w.page (w.leafEntry big leaf) { s with walks := without s.walks n } u ∧
      WalkKeeps w.page (w.leafEntry big leaf) (endWalk w (.leaf big leaf) u a) (walkOver n w (.leaf big leaf) s) := by
  obtain ⟨l, m, hl⟩ := List.append_of_mem ha
  refine ⟨l.foldl (endWalk w (.leaf big leaf)) (walkLeft n w (.leaf big leaf) s), (fillSquares_keeps rfl _).trans (.foldl (endWalk_keeps rfl) _ _), ?_⟩
  unfold walkOver
  rw [hl, List.foldl_append, List.foldl_cons]
  exact .foldl (endWalk_keeps rfl) _ _

include hw hn ht hm in
theorem translationWalkEnd_eq : exec (.translationWalkEnd n) s = .next (walkOver n w (.leaf big leaf) s) := by
  have hmiss : (walkOver n w (.leaf big leaf) s).missWait = [] := walkOver_keeps.misses.trans hm
  have hwalk : s.walking n w.die = true := decide_eq_true hn
  show execTranslationWalkEnd n s = _
  unfold execTranslationWalkEnd
  rw [hw]
  dsimp only
  rw [hwalk, ht]
  show Host.Outcome.next (admitMisses { walkOver n w (.leaf big leaf) s with missWait := [] } (walkOver n w (.leaf big leaf) s).missWait) = _
  rw [hmiss]
  exact congrArg (fun l => Host.Outcome.next { walkOver n w (.leaf big leaf) s with missWait := l }) hmiss.symm

theorem walkOver_fills_ctx {c i : Nat} (ha : .ctx c i ∈ w.reqs) : w.leafEntry big leaf ∈ ((walkOver n w (.leaf big leaf) s).core c).tlb := by
  obtain ⟨u, -, hu⟩ := walkOver_split n s big leaf ha
  exact hu.cached c (endWalk_fills_ctx rfl u c i)

theorem walkOver_fills_copy {c i id : Nat} (ha : .copy c i id ∈ w.reqs) : w.leafEntry big leaf ∈ ((walkOver n w (.leaf big leaf) s).core c).tlb := by
  obtain ⟨u, -, hu⟩ := walkOver_split n s big leaf ha
  exact hu.cached c (endWalk_fills_copy rfl u c i id)

/-- A context that is ready stays so while the other requesters have their ends. -/
theorem WalkKeeps.stays_ready {page : Nat} {e : TlbEntry} {s t : State} (h : WalkKeeps page e s t) {c i : Nat} (hb : (s.ctx c i).bwait = none)
    (hr : (s.ctx c i).state = .ready ∧ i ∈ (s.core c).rot) : (t.ctx c i).state = .ready ∧ i ∈ (t.core c).rot := by
  obtain ⟨-, ⟨hs, -⟩ | ht⟩ := h.wait c i hb
  · exact ⟨hs.trans hr.1, h.rot c i hr.2⟩
  · exact ht

theorem walkOver_wakes {c i : Nat} (ha : .ctx c i ∈ w.reqs) (hx : (s.ctx c i).awaits w = true) (hb : (s.ctx c i).bwait = none) :
    ((walkOver n w (.leaf big leaf) s).ctx c i).state = .ready ∧ i ∈ ((walkOver n w (.leaf big leaf) s).core c).rot := by
  obtain ⟨u, hbefore, hafter⟩ := walkOver_split n s big leaf ha
  obtain ⟨hub, hu⟩ := hbefore.wait c i hb
  have hend := endWalk_keeps (w := w) (r := .leaf big leaf) rfl u (.ctx c i)
  refine hafter.stays_ready (hend.wait c i hub).1 ?_
  rcases hu with ⟨hstate, hwait⟩ | hready
  · refine endWalk_wakes rfl ?_ hub
    have htn := hbefore.tenant c i
    exact (Ctx.awaits_congr htn hstate hwait (hub.trans hb.symm)).trans hx
  · exact hend.stays_ready hub hready

theorem walkOver_continues {c i id : Nat} (ha : .copy c i id ∈ w.reqs) :
    ∀ q ∈ ((walkOver n w (.leaf big leaf) s).ctx c i).copyQ, q.id = id → q.walks.page ≠ some w.page := by
  obtain ⟨u, -, hu⟩ := walkOver_split n s big leaf ha
  intro q hq hid hp
  obtain ⟨x, hx, hxid, hxp⟩ := hu.copies c i q hq
  exact endWalk_continues w _ u c i id x hx (hxid.symm.trans hid) (hxp hp)

end

/-! ### `tlbi` (R222, R448) -/

/-- A `tlbi` of context i of core c with operand v waits for its end. -/
def tlbiAsked (c i : Nat) (v : Word) (s : State) : State := { s with nextId := s.nextId + 1, tlbiOps := s.tlbiOps ++ [(s.nextId, c, i, v)] }

theorem tlbi_parks {a : RegF} {s s1 : State} {v : TVal} (hs : starts (.tlbi a) s = true) (ha : Reads (doer (.tlbi a) s) a (begun s) v s1)
    (hv : bits v.val 15 7 = 0) : exec (.tlbi a) s =
      .next (((tlbiAsked s.cur.1 s.cur.2 v.val s1).modCtx s.cur.1 s.cur.2 (fun x => { x.noteTaken s.who with pc := s.who.pc })).parkOn s.cur.1 s.cur.2
          { list := 8, object := BitVec.ofNat 48 (bits v.val 51 4), cond := .tlbi s1.nextId }) := by
  show execTlbi a s = _
  unfold execTlbi
  refine run_parks (keep := fun s0 => (tlbiAsked s.cur.1 s.cur.2 v.val s1).modCtx s.cur.1 s.cur.2
    (fun x => { x.noteTaken (s0.ctx s.cur.1 s.cur.2) with pc := s.who.pc })) hs ?_
  rw [M.bind_ok (readVal_of ha), M.bind_ok (M.env_run _ _), M.if_neg_run (not_not.mpr hv), M.bind_ok (M.state_run _ _)]
  rfl

/-! ### The removal of the entries that a `tlbi` names (R222) -/

/-- A map whose entries are updated, those that have become the default left out: an index whose value does not become the default has the updated value. -/
theorem SMap.get_updated {α : Type} [DecidableEq α] {m : SMap α} {k : Nat} {d : α} {g : α → α} (hd : g d = d) (h : g (SMap.get m k d) ≠ d) :
    SMap.get (m.filterMap (fun e => if g e.2 = d then none else some (e.1, g e.2))) k d = g (SMap.get m k d) := by
  induction m with
  | nil => exact absurd hd h
  | cons e m ih =>
    rw [SMap.get_cons] at h ⊢
    rw [List.filterMap_cons]
    by_cases hk : e.1 = k
    · rw [if_pos hk] at h ⊢
      rw [if_neg h]
      exact if_pos hk
    · rw [if_neg hk] at h ⊢
      split
      · exact ih h
      · next y hy =>
        obtain rfl : (e.1, g e.2) = y := by
          split at hy
          · cases hy
          · exact Option.some.inj hy
        rw [SMap.get_cons, if_neg hk]
        exact ih h

/-- What holds of the default and of every updated value holds of what any index has. -/
theorem SMap.get_updated_all {α : Type} [DecidableEq α] (m : SMap α) (k : Nat) {d : α} {g : α → α} {p : α → Prop} (hd : p d) (hg : ∀ x, p (g x)) :
    p (SMap.get (m.filterMap (fun e => if g e.2 = d then none else some (e.1, g e.2))) k d) := by
  by_cases h : SMap.get (m.filterMap (fun e => if g e.2 = d then none else some (e.1, g e.2))) k d = d
  · rw [h]; exact hd
  · obtain ⟨e, -, he⟩ := List.mem_filterMap.mp (SMap.mem_get h)
    split at he
    · cases he
    · have hv := congrArg Prod.snd (Option.some.inj he)
      dsimp only at hv
      exact hv ▸ hg e.2

/-- Core k without the entries that a `tlbi` names. -/
def Core.dropTlb (v : Word) (k : Core) : Core :=
  { k with
    tlb := k.tlb.filter (fun e => !tlbiMatches v e)
    ctxs := k.ctxs.filterMap (fun e => if dropCtxWalks v e.2 = Ctx.reset then none else some (e.1, dropCtxWalks v e.2)) }

/-- Square y without them. -/
def Square.dropTlb (v : Word) (y : Square) : Square :=
  { y with
    tlb := y.tlb.filter (fun e => !tlbiMatches v e)
    ropeQ := y.ropeQ.map (fun r => { r with walks := r.walks.drop v r.tenant })
    limbo := y.limbo.map (fun l => { l with cmd := { l.cmd with walks := l.cmd.walks.drop v l.cmd.tenant } }) }

theorem dropTlb_eq (v : Word) (s : State) : dropTlb v s = { s with
    cores := s.cores.filterMap (fun e => if e.2.dropTlb v = Core.reset then none else some (e.1, e.2.dropTlb v))
    squares := s.squares.filterMap (fun e => if e.2.dropTlb v = Square.reset then none else some (e.1, e.2.dropTlb v)) } := rfl

/-- No entry that the `tlbi` names is left in a core's cache, -/
theorem dropTlb_core (v : Word) (s : State) (d : Nat) : ∀ l ∈ ((dropTlb v s).core d).tlb, tlbiMatches v l = false := by
  rw [dropTlb_eq]
  refine SMap.get_updated_all s.cores d (p := fun k : Core => ∀ l ∈ k.tlb, tlbiMatches v l = false) ?_ fun k l hl => ?_
  · exact fun l hl => absurd hl List.not_mem_nil
  · simpa using (List.mem_filter.mp hl).2

/-- nor in a square's. -/
theorem dropTlb_square (v : Word) (s : State) (q : Nat) : ∀ l ∈ ((dropTlb v s).square q).tlb, tlbiMatches v l = false := by
  rw [dropTlb_eq]
  refine SMap.get_updated_all s.squares q (p := fun y : Square => ∀ l ∈ y.tlb, tlbiMatches v l = false) ?_ fun y l hl => ?_
  · exact fun l hl => absurd hl List.not_mem_nil
  · simpa using (List.mem_filter.mp hl).2

/-- A context that is not free loses the ends of its walks alone. -/
theorem dropTlb_ctx {v : Word} {s : State} {c i : Nat} (h : (s.ctx c i).state ≠ .free) : (dropTlb v s).ctx c i = dropCtxWalks v (s.ctx c i) := by
  have hx : dropCtxWalks v (s.ctx c i) ≠ Ctx.reset := fun he => h (congrArg Ctx.state he)
  have hi : ((s.core c).dropTlb v).ctx i = dropCtxWalks v (s.ctx c i) := SMap.get_updated rfl hx
  have hk : (s.core c).dropTlb v ≠ Core.reset := fun he => hx (hi.symm.trans (congrArg (fun k => Core.ctx k i) he))
  have hc : (dropTlb v s).core c = (s.core c).dropTlb v := SMap.get_updated rfl hk
  exact (congrArg (fun k => Core.ctx k i) hc).trans hi

theorem State.endWait_keeps {β : Type} (p : Core → β) (hp : ∀ k i x, p (Core.setCtx k i x) = p k) (hr : ∀ k l, p { k with rot := l } = p k)
    (s : State) (c i d : Nat) : p ((s.endWait c i).core d) = p (s.core d) := by
  unfold State.endWait
  split
  · exact State.core_modCtx_keeps p hp s c i _ d
  · exact State.ready_keeps p hp hr s c i d

theorem State.endWait_squares (s : State) (c i : Nat) : (s.endWait c i).squares = s.squares := by
  unfold State.endWait
  split <;> rfl

theorem State.endWait_tlbiOps (s : State) (c i : Nat) : (s.endWait c i).tlbiOps = s.tlbiOps := by
  unfold State.endWait
  split <;> rfl

/-- The state without `tlbi` n and without the entries that it names. -/
def tlbiRemoved (n : Nat) (v : Word) (s : State) : State := dropTlb v { s with tlbiOps := without s.tlbiOps n }

/-- The context goes on behind its `tlbi`. -/
def tlbiPassed (c i : Nat) (s : State) : State := (s.modCtx c i (fun x => { x with pc := x.pc + 4 })).endWait c i

/-- Where no body word holds it, it is ready. -/
theorem tlbiPassed_ctx {c i : Nat} {s : State} (hb : (s.ctx c i).bwait = none) : (tlbiPassed c i s).ctx c i =
    { s.ctx c i with pc := (s.ctx c i).pc + 4, state := .ready, wait := none, bwait := none, taken := {} } := by
  unfold tlbiPassed State.endWait
  rw [State.ctx_modCtx_same]
  dsimp only
  rw [hb]
  dsimp only
  rw [State.ctx_ready, State.ctx_modCtx_same]

section
variable {n id c i : Nat} {v : Word} {s : State} (h : s.tlbiOps[n]? = some (id, c, i, v))
include h

theorem tlbiRemovalComplete_eq : exec (.tlbiRemovalComplete n) s =
    .next (if ((tlbiRemoved n v s).ctx c i).parkedOn (fun w => w == .tlbi id) = true then tlbiPassed c i (tlbiRemoved n v s) else tlbiRemoved n v s) := by
  show execTlbiRemovalComplete n s = _
  unfold execTlbiRemovalComplete
  rw [h]
  rfl

theorem tlbiRemovalComplete_removes : ∃ t, exec (.tlbiRemovalComplete n) s = .next t ∧ t.tlbiOps = without s.tlbiOps n ∧
    (∀ d, ∀ l ∈ (t.core d).tlb, tlbiMatches v l = false) ∧ (∀ q, ∀ l ∈ (t.square q).tlb, tlbiMatches v l = false) := by
  refine ⟨_, tlbiRemovalComplete_eq h, ?_⟩
  split
  · refine ⟨State.endWait_tlbiOps _ c i, fun d => ?_, fun q => ?_⟩
    · unfold tlbiPassed
      rw [State.endWait_keeps Core.tlb (fun _ _ _ => rfl) (fun _ _ => rfl), State.core_modCtx_keeps Core.tlb (fun _ _ _ => rfl)]
      exact dropTlb_core v _ d
    · unfold tlbiPassed State.square
      rw [State.endWait_squares]
      exact dropTlb_square v _ q
  · exact ⟨rfl, dropTlb_core v _, dropTlb_square v _⟩

theorem tlbiRemovalComplete_wakes {t : State} (ht : exec (.tlbiRemovalComplete n) s = .next t) (hb : (s.ctx c i).bwait = none)
    (hp : (s.ctx c i).parkedOn (fun w => w == .tlbi id) = true) : (t.ctx c i).state = .ready ∧ (t.ctx c i).pc = (s.ctx c i).pc + 4 := by
  have hs : (s.ctx c i).state = .parked := by
    unfold Ctx.parkedOn at hp
    exact beq_iff_eq.mp (Bool.and_eq_true_iff.mp hp).1
  have hx : (tlbiRemoved n v s).ctx c i = dropCtxWalks v (s.ctx c i) :=
    dropTlb_ctx (s := { s with tlbiOps := without s.tlbiOps n }) (hs.trans_ne (by decide))
  have hparked : ((tlbiRemoved n v s).ctx c i).parkedOn (fun w => w == .tlbi id) = true := hx ▸ hp
  have hfree : ((tlbiRemoved n v s).ctx c i).bwait = none := hx ▸ hb
  rw [tlbiRemovalComplete_eq h, if_pos hparked] at ht
  cases ht
  rw [tlbiPassed_ctx hfree, hx]
  exact ⟨rfl, rfl⟩

end

/-! ### The arrival of a port word (R58, R60) -/

section
variable {n : Nat} {s : State} {m : PortMsg} (hm : s.ports[n]? = some m) (hs : stopped s m.tenant = false)
  (hfirst : ∀ p ∈ s.ports.take n, ¬(p.srcCore = m.srcCore ∧ p.core = m.core ∧ p.slot = m.slot ∧ p.queue = m.queue))
include hm hs hfirst

/-- A word of a tenant that is not stopped, with no earlier word of its core to its queue under way, arrives. -/
theorem portWordArrival_eq : exec (.portWordArrival n) s =
    (let c := s.leadSlot m.core m.slot
     let x := s.ctx c m.slot
     let q := SMap.get x.rxq m.queue []
     let u : State := { s with ports := without s.ports n }
     if (s.core c).slots ≤ m.slot ∨ x.state = .free ∨ x.tenant ≠ m.tenant then .next (u.bump c 2)
     else if 8 ≤ q.length + x.lent m.queue then .next s
     else .next (u.modCtx c m.slot (fun x => { x with rxq := SMap.put x.rxq [] m.queue (q ++ [m.v]) }))) := by
  have hgo : (stopped s m.tenant || (s.ports.take n).any (fun p => p.srcCore == m.srcCore && p.core == m.core && p.slot == m.slot && p.queue == m.queue)) =
      false := by
    rw [hs, Bool.false_or]
    exact List.any_eq_false.mpr fun p hp he => hfirst p hp (by simpa [and_assoc] using he)
  show execPortWordArrival n s = _
  unfold execPortWordArrival
  rw [hm]
  dsimp only
  rw [hgo]
  rfl

end

/-- Settles O45, clause by clause: a hit, a miss, the end of a walk, `tlbi`, the removal that it waits for, and the arrival of a port word. -/
theorem translation : Obligations.Translation := by
  unfold Obligations.Translation
  refine ⟨?_, fun e s p op hx ht => translate_miss hx ht, ?_, fun a s s1 v hs ha hv => tlbi_parks hs ha hv, ?_, ?_⟩
  · rintro _ _ _ e s s1 p op t pl rfl rfl rfl hx ht hg
    exact translate_hit hx ht hg
  · intro n s w big leaf hw hn ht hm _ _
    refine ⟨_, translationWalkEnd_eq hw hn ht hm, walkOver_keeps.walks, walkOver_keeps.stores.sameMemory, fun c i ha => ⟨?_, fun hten hb hp => ?_⟩,
      fun c i id ha => ⟨?_, walkOver_continues ha⟩⟩
    · exact ⟨_, walkOver_fills_ctx ha, rfl, rfl, rfl, rfl⟩
    · exact walkOver_wakes ha (Bool.and_eq_true_iff.mpr ⟨beq_iff_eq.mpr hten, hp⟩) hb
    · exact ⟨_, walkOver_fills_copy ha, rfl, rfl, rfl, rfl⟩
  · intro n id c i v s h
    obtain ⟨t, ht, hops, hcore, hsquare⟩ := tlbiRemovalComplete_removes h
    exact ⟨t, ht, hops, fun _ => hcore, fun _ => hsquare, fun _ hb hp => tlbiRemovalComplete_wakes h ht hb hp⟩
  · intro n s m hm hs hfirst c x q u
    rw [portWordArrival_eq hm hs hfirst]
    have hthere : m.slot < (s.core c).slots → x.state ≠ .free → x.tenant = m.tenant →
        ¬((s.core c).slots ≤ m.slot ∨ x.state = .free ∨ x.tenant ≠ m.tenant) :=
      fun hslot hstate hten hgone => hgone.elim (Nat.not_le.mpr hslot) fun hgone => hgone.elim hstate (absurd hten)
    refine ⟨fun hslot hstate hten hroom => ?_, fun hslot hstate hten hfull => ?_, fun hgone => if_pos hgone⟩
    · exact (if_neg (hthere hslot hstate hten)).trans (if_neg (Nat.not_le.mpr hroom))
    · exact (if_neg (hthere hslot hstate hten)).trans (if_pos hfull)

end Sys2Proof.Machine
end

section
/-! PROOF. The copy engine (R79, R223, R239 to R242, R248 to R254, R364, R370, R371, R420): the issue of its commands and of `qfen`, their Start, the units of a
`cpy` in the core's own store, and Completion. -/

namespace Sys2Proof.Machine

/-! ### Issue (R248, R254, R370) -/

/-- A command has entered the issuer's copy queue with its frontiers, and its ranges the scoreboard. -/
def enqueued (e : Env) (q : CopyCmd) (rs : List (Nat × Nat × Bool)) (s : State) : State :=
  ((s.setChan (.cmd q.id) (s.front (s.ctx e.core e.slot).uid)).modCtx e.core e.slot (fun y => { y with copyQ := y.copyQ ++ [q] })).modCore e.core
    (fun k => { k with board := k.board ++ rs.map (fun r => Board.mk q.id r.1 r.2.1 r.2.2) })

theorem enqueueCopy_run (e : Env) (q : CopyCmd) (rs : List (Nat × Nat × Bool)) (s : State) : enqueueCopy q rs e s = .ok ((), enqueued e q rs s) := rfl

theorem enqueued_ctx (e : Env) (q : CopyCmd) (rs : List (Nat × Nat × Bool)) (s : State) :
    (enqueued e q rs s).ctx e.core e.slot = { s.ctx e.core e.slot with copyQ := (s.ctx e.core e.slot).copyQ ++ [q] } :=
  (State.ctx_modCore rfl e.core e.slot).trans (State.ctx_modCtx_same ..)

theorem enqueued_board (e : Env) (q : CopyCmd) (rs : List (Nat × Nat × Bool)) (s : State) :
    ((enqueued e q rs s).core e.core).board = (s.core e.core).board ++ rs.map (fun r => Board.mk q.id r.1 r.2.1 r.2.2) := by
  unfold enqueued
  rw [State.core_modCore_same, State.core_modCtx_same]
  rfl

theorem enqueued_sameStores (e : Env) (q : CopyCmd) (rs : List (Nat × Nat × Bool)) (s : State) : SameStores s (enqueued e q rs s) :=
  ((SameStores.modCore rfl).after (.modCtx _ e.core e.slot _)).after (.of_cores rfl rfl rfl)

theorem counted_ctx (e : Env) (k : Class) (s : State) :
    (counted e k s).ctx e.core e.slot = (s.ctx e.core e.slot).setCnt k ((s.ctx e.core e.slot).cnt k + 1) := State.ctx_modCtx_same ..

theorem counted_sameStores (e : Env) (k : Class) (s : State) : SameStores s (counted e k s) := .modCtx s _ _ _

/-- The state with the next order number given out. -/
def numberTaken (s : State) : State := { s with nextId := s.nextId + 1 }

section
variable {e : Env} {a b : RegF} {s s1 s2 : State} {src dst : TVal}

/-- The command that an issue makes. -/
def newCopy (e : Env) (cmd set : Nat) (src dst : Word) (u : State) : CopyCmd :=
  mkCopy (u.core e.core) e.core (u.ctx e.core e.slot) u.nextId cmd set src dst (recordGen u e.core (u.ctx e.core e.slot))

/-- Its ranges in the core's own store. -/
def newRanges (e : Env) (q : CopyCmd) (u : State) : List (Nat × Nat × Bool) := cmdRanges u e.core (u.ctx e.core e.slot) q

theorem copyBody_run {cmd set : Nat} (ha : Reads e a s src s1) (hb : Reads e b s1 dst s2) (hc : (s2.ctx e.core e.slot).nC < 63)
    (hr : let u := counted e .C s2
      (u.core e.core).board.length + (newRanges e (newCopy e cmd set src.val dst.val u) u).length ≤ 16) :
    let u := counted e .C s2
    let q := newCopy e cmd set src.val dst.val u
    copyBody cmd a b set e s = .ok ((), enqueued e q (newRanges e q u) (numberTaken u)) := by
  unfold copyBody
  rw [M.bind_ok (readVal_of ha), M.bind_ok (readVal_of hb), M.bind_ok (raiseCnt_room (k := .C) hc)]
  rw [M.bind_ok (M.env_run _ _), M.bind_ok (M.me_run _ _), M.bind_ok (M.myCore_run _ _), M.bind_ok (M.state_run _ _)]
  exact M.if_neg_run (Nat.not_lt.mpr hr) ..

/-- The `qfen` that an issue makes. -/
def newQfen (e : Env) (sc : Scope) (v : Word) (u : State) : CopyCmd :=
  { mkCopy (u.core e.core) e.core (u.ctx e.core e.slot) u.nextId 4 0 v 0 (fun _ => (u.ctx e.core e.slot).gen) with
    join := joined u e.core e.slot v, scope := some (scopeSet u sc (u.ctx e.core e.slot) e.core) }

theorem qfenBody_run {sc : Scope} (ha : Reads e a s src s1) (hc : (s1.ctx e.core e.slot).nC < 63) :
    let u := counted e .C s1
    qfenBody sc a e s = .ok ((), enqueued e (newQfen e sc src.val u) [] (numberTaken u)) := by
  unfold qfenBody
  rw [M.bind_ok (readVal_of ha), M.bind_ok (raiseCnt_room (k := .C) hc)]
  rfl

end

/-- The rows of the copy commands run the body with their number. -/
theorem exec_copy {row : (RegF → RegF → BitVec 3 → Instr) × Nat}
    (h : row ∈ ([(Instr.cpy, 0), (Instr.cpym, 1), (Instr.deal, 2), (Instr.bkt, 3)] : List ((RegF → RegF → BitVec 3 → Instr) × Nat)))
    (a b : RegF) (set : BitVec 3) (s : State) : exec (row.1 a b set) s = run (row.1 a b set) (copyBody row.2 a b set.toNat) s := by
  simp only [List.mem_cons, List.not_mem_nil, or_false] at h
  rcases h with rfl | rfl | rfl | rfl <;> rfl

/-- A command's registers are those of its set, on a kerb core of its tenant's (R247, R252). -/
theorem setReg_eq (k : Core) (c tenant n : Nat) : setReg k c tenant n = SMap.get k.copySets (128 * (if isArray c then 0 else tenant) + n) 0 := rfl

theorem scopeSet_counted (e : Env) (k : Class) (s : State) (sc : Scope) :
    scopeSet (counted e k s) sc ((counted e k s).ctx e.core e.slot) e.core = scopeSet s sc (s.ctx e.core e.slot) e.core := by
  rw [counted_ctx]
  cases k <;> rfl

/-- A `qfen` that selects copy queues joins every command in its issuer's own (R242). -/
theorem mem_joined_copy {s : State} {c i : Nat} {v : Word} (hv : v.getLsbD 0 = true) (hx : (s.ctx c i).state ≠ .free) {p : CopyCmd}
    (hp : p ∈ (s.ctx c i).copyQ) : p.id ∈ joined s c i v := by
  have hmem : (i, s.ctx c i) ∈ (s.core c).ctxs := SMap.mem_get (m := (s.core c).ctxs) (d := Ctx.reset) fun he => hx (congrArg Ctx.state he)
  unfold joined
  dsimp only
  rw [if_pos hv]
  refine List.mem_append_left _ (List.mem_append_left _ (List.mem_append_left _ ?_))
  refine List.mem_flatMap.mpr ⟨s.ctx c i, List.mem_map.mpr ⟨_, List.mem_filter.mpr ⟨hmem, ?_⟩, rfl⟩, List.mem_map.mpr ⟨p, hp, rfl⟩⟩
  simp [hx]

/-! ### Start (R240, R250, R251) -/

theorem setCopyHead_sameStores (s : State) (c i : Nat) (q : CopyCmd) : SameStores s (setCopyHead s c i q) := .modCtx s c i _

theorem setCopyHead_copyQ {s : State} {c i : Nat} {q p : CopyCmd} {r : List CopyCmd} (h : (s.ctx c i).copyQ = q :: r) :
    ((setCopyHead s c i p).ctx c i).copyQ = p :: r := by
  unfold setCopyHead
  rw [State.ctx_modCtx_same, h]
  rfl

/-- The failure that a command meets at its Start. -/
def CopyCmd.failAt (s : State) (x : Ctx) (q : CopyCmd) : Option (Nat × Word) := if q.cmd = 4 then none else startFail s x q

/-- The command in progress. -/
def CopyCmd.begun (s : State) (c : Nat) (x : Ctx) (q : CopyCmd) : CopyCmd :=
  { q with started := true, fail := q.failAt s x, orig := if (q.failAt s x).isSome ∨ q.cmd ≥ 3 then [] else keepOrig s c x q }

theorem copyCommandStart_eq {c i : Nat} {s : State} {q : CopyCmd} {r : List CopyCmd} (h : (s.ctx c i).copyQ = q :: r) (hs : q.started = false)
    (hd : storesDone (s.core c) (s.ctx c i).uid q.seq = true) :
    exec (.copyCommandStart c i) s = .next (setCopyHead s c i (q.begun s c (s.ctx c i))) := by
  show execCopyCommandStart c i s = _
  unfold execCopyCommandStart
  dsimp only
  rw [h]
  dsimp only
  rw [hs, hd]
  rfl

theorem failAt_none {s : State} {x : Ctx} {q : CopyCmd} (h : q.cmd = 4 ∨ (q.badSet = false ∧ q.cmd = 0)) : q.failAt s x = none := by
  unfold CopyCmd.failAt
  rcases h with h | ⟨hb, h⟩
  · exact if_pos h
  · unfold startFail
    simp [h, hb]

theorem failAt_badSet {s : State} {x : Ctx} {q : CopyCmd} (h : q.cmd ≠ 4) (hb : q.badSet = true) : q.failAt s x = some (1, 0) := by
  unfold CopyCmd.failAt startFail
  rw [if_neg h, if_pos hb]

/-! ### A unit is read (R226, R230, R253, R371) -/

/-- A lookup touches the caches and counts. -/
theorem tlbLookup_sameStores (s : State) (c tenant page : Nat) : SameStores s (tlbLookup s c tenant page).2 := by
  have hmiss : SameStores s (s.bump c 0) := .modCore rfl
  unfold tlbLookup
  split
  · dsimp only
    exact .modCore rfl
  · dsimp only
    split
    · split
      · dsimp only
        exact (SameStores.modCore rfl).after (hmiss.trans (.of_cores rfl rfl rfl))
      · exact (SameStores.modCore (f := fun k => k.bump 1) rfl).after hmiss
    · exact hmiss

theorem engTouch_sameStores (s : State) (a : Agent) (p : Word) (n : Nat) (op : Op) : SameStores s (engTouch s a p n op) := by
  unfold engTouch
  split
  · dsimp only
    split
    · exact tlbLookup_sameStores ..
    · exact .of_cores rfl rfl rfl
    · exact .refl s
  · exact .refl s

theorem cmdRead_sameStores (s : State) (uid seq id queue : Nat) (own : BitVec 16) (pl : Place) (n : Nat) :
    SameStores s (s.cmdRead uid seq id queue own pl n).2 := by
  unfold State.cmdRead
  dsimp only
  split
  · exact weakRead_sameStores ..
  · exact (weakRead_sameStores ..).trans (.of_cores rfl rfl rfl)

/-- Where no older write may be read, a Read returns what memory holds. -/
theorem weakRead_newest {s : State} {r : Reader} {own : BitVec 16} {also : Place → Wr → Bool} {pl : Place} {n : Nat}
    (h : s.hasOlder r own also pl n = false) : (s.weakRead r own also pl n).1 = s.readAt pl n own := by
  unfold State.weakRead State.viewRead
  dsimp only
  rw [if_neg (by simp [h])]

theorem SameStores.readAt_ls {s t : State} (h : SameStores s t) (c off n : Nat) (own : BitVec 16) :
    t.readAt (.ls c off) n own = s.readAt (.ls c off) n own := by
  obtain ⟨hl, hg, hr⟩ : (t.core c).ls = (s.core c).ls ∧ (t.core c).lsGen = (s.core c).lsGen ∧ (t.core c).regions = (s.core c).regions := by
    simpa [Core.store] using h.store c
  unfold State.readAt
  dsimp only
  rw [Core.gov_congr hr]
  unfold Core.lsRead Core.stamp
  rw [hl, hg]

/-- A unit of at most 8 bytes is one piece, and so one Read, -/
theorem readUnit_small (s : State) (x : Ctx) (q : CopyCmd) (c off : Nat) {n : Nat} (hn : n ≤ 8) :
    readUnit s x q (.ls c off) n = s.cmdRead x.uid q.seq q.id 1 x.gen (.ls c off) n := by
  unfold readUnit pieces
  rw [if_pos hn]
  simp [readPieces, Place.plus]

/-- A place in the issuing core's own store is refused for its own reason alone, -/
theorem unitPlace_local {a : Agent} {n : Nat} {op : Op} {bad : State → Place → Option Nat} {p : Word} {s : State} {c off : Nat}
    (h : engResolve s a p n op = .ok (.ls c off)) (hb : bad s (.ls c off) = none) :
    unitPlace a n op bad p s = (.ok (.ls c off), engTouch s a p n op) := by
  unfold unitPlace
  dsimp only
  rw [h]
  dsimp only [peerRefuses]
  rw [hb]

/-- which for a source is a stale granule, -/
theorem fetchUnit_local {a : Agent} {own : BitVec 16} {n : Nat} {p : Word} {s : State} {c off : Nat}
    (h : engResolve s a p n .eread = .ok (.ls c off)) (hs : staleUnit s (.ls c off) n own = false) :
    fetchUnit a own p n s = (.ok (.ls c off), engTouch s a p n .eread) :=
  unitPlace_local h (if_neg (by simp [hs]))

theorem outsideRegion_own (s : State) (c off n : Nat) : outsideRegion s c (.ls c off) n = false := by
  unfold outsideRegion
  simp

/-- and for a destination none. -/
theorem destPlaces_local {a : Agent} {n : Nat} {p : Word} {s : State} {off : Nat}
    (h : engResolve s a p n .ewrite = .ok (.ls a.core off)) :
    destPlaces a n [p] s = (.ok [(p, .ls a.core off)], engTouch s a p n .ewrite) := by
  unfold destPlaces
  rw [List.foldl_cons, List.foldl_nil]
  dsimp only
  rw [unitPlace_local h (if_neg (by simp [outsideRegion_own]))]
  rfl

theorem stepUnit_begins {s : State} {c : Nat} {x : Ctx} {q : CopyCmd} (hf : q.fail = none) (hd : q.done < q.total) (hh : q.held = []) :
    stepUnit s c x q = beginUnit s.draw.2 c x q := by
  unfold stepUnit
  exact if_pos ⟨by rw [hf]; rfl, hd, .inl hh⟩

theorem beginUnit_local {s : State} {c : Nat} {x : Ctx} {q : CopyCmd} {a b : Nat} (hcmd : q.cmd = 0) (horig : q.orig = []) (hheld : q.held = []) :
    let g := copyAgent x c q
    let p := q.dst + BitVec.ofInt 64 (indexOff Dim.ds q.shape q.done * q.unit)
    let v := readUnit (engTouch s g (srcPtr q q.done) q.unit .eread) x q (.ls c a) q.unit
    engResolve s g (srcPtr q q.done) q.unit .eread = .ok (.ls c a) → staleUnit s (.ls c a) q.unit x.gen = false →
    engResolve v.2 g p q.unit .ewrite = .ok (.ls c b) →
    beginUnit s c x q = ((engTouch v.2 g p q.unit .ewrite).draw.2, { q with done := q.done + 1, held := [(q.done, [(p, .ls c b)], v.1)] }) := by
  intro g p v hsrc hstale hdst
  have hptr : destPtrs q q.done = [p] := by
    unfold destPtrs
    rw [hcmd]
    rfl
  unfold beginUnit
  dsimp only
  rw [fetchUnit_local hsrc hstale]
  dsimp only
  rw [hptr, destPlaces_local (a := g) hdst]
  dsimp only
  rw [horig, hheld]
  rfl

/-! ### A unit is written (R76, R79, R253, R371) -/

theorem stepUnit_ends {s : State} {c : Nat} {x : Ctx} {q : CopyCmd}
    (h : ¬(q.fail = none ∧ q.done < q.total ∧ (q.held = [] ∨ Config.freePick s.free % 2 = 0))) :
    stepUnit s c x q = endUnit s.draw.2 c x q (Config.freePick s.free / 2 % q.held.length) := by
  unfold stepUnit
  exact if_neg fun hn => h ⟨Option.isNone_iff_eq_none.mp hn.1, hn.2⟩

/-- A unit of at most 8 bytes in the issuing core's own store is one write under the generation recorded at issue. -/
theorem writeUnit_own (s : State) (c : Nat) (k : Commit) (off v : Nat) (g : BitVec 16) {n : Nat} (hn : n ≤ 8) :
    writeUnit s c k (.ls c off) n v g =
      (s.record k (.ls c off) n (v % 256 ^ n) g).modCore c (fun y => y.lsWrite g off n (v % 256 ^ n)) := by
  unfold writeUnit pieces
  rw [if_pos hn]
  simp [Place.plus]

theorem endUnit_own {s : State} {c : Nat} {x : Ctx} {q : CopyCmd} {m i b v : Nat} {p : Word} (h : q.held[m]? = some (i, [(p, .ls c b)], v))
    (hn : q.unit ≤ 8) : endUnit s c x q m =
      ((s.record (s.byCmd c x.uid x.tenant q.seq q.id 1) (.ls c b) q.unit (v % 256 ^ q.unit) q.dstGen).modCore c
        (fun y => y.lsWrite q.dstGen b q.unit (v % 256 ^ q.unit)), { q with held := q.held.filter (fun h => h.1 != i) }) := by
  unfold endUnit
  rw [h]
  dsimp only
  rw [List.find?_cons_of_neg (by simp [outsideRegion_own]), List.find?_nil]
  dsimp only
  unfold writeDests
  rw [List.foldl_cons, List.foldl_nil, writeUnit_own _ _ _ _ _ _ hn]

/-- A unit of at most 8 bytes has 1, 2, 4 or 8. -/
theorem CopyCmd.unit_small {q : CopyCmd} (h : q.unit ≤ 8) : q.unit = 1 ∨ q.unit = 2 ∨ q.unit = 4 ∨ q.unit = 8 := by
  have hk : bits q.hdr 6 4 ≤ 3 := by
    by_contra hk
    have := Nat.pow_le_pow_right (n := 2) (by omega) (Nat.lt_of_not_le hk)
    unfold CopyCmd.unit at h
    omega
  unfold CopyCmd.unit
  generalize bits q.hdr 6 4 = k at hk
  interval_cases k <;> simp

/-- One that is aligned lies in one granule. -/
theorem unit_in_granule {q : CopyCmd} {b m : Nat} (hn : q.unit ≤ 8) (hb : b % q.unit = 0) (hm : m / 32 ≠ b / 32) : m < b ∨ b + q.unit ≤ m := by
  rcases CopyCmd.unit_small hn with h | h | h | h <;> rw [h] at hb ⊢ <;> omega

section
variable {s : State} {c : Nat} {x : Ctx} {q : CopyCmd} {m i b v : Nat} {p : Word} (h : q.held[m]? = some (i, [(p, .ls c b)], v)) (hn : q.unit ≤ 8)
include h hn

/-- The core that a unit is written to. -/
theorem endUnit_core : (endUnit s c x q m).1.core c = (s.core c).lsWrite q.dstGen b q.unit (v % 256 ^ q.unit) := by
  rw [endUnit_own h hn]
  exact State.core_modCore_same ..

/-- The unit's bytes are at its place, which is stamped with the generation recorded at issue (R79). -/
theorem endUnit_writes : ((endUnit s c x q m).1.core c).lsRead q.dstGen b q.unit = v % 256 ^ q.unit ∧ ((endUnit s c x q m).1.core c).stamp b = q.dstGen := by
  have hstamp : ((endUnit s c x q m).1.core c).stamp b = q.dstGen := by rw [endUnit_core h hn, Core.stamp_lsWrite, if_pos rfl]
  refine ⟨?_, hstamp⟩
  unfold Core.lsRead
  rw [if_pos (beq_iff_eq.mpr hstamp), endUnit_core h hn]
  exact (Memory.read_write q.unit _ b _).trans (Nat.mod_mod ..)

/-- No byte outside its granule changes. -/
theorem endUnit_keeps (hb : b % q.unit = 0) {d m' : Nat} (g : BitVec 16) (hd : d ≠ c ∨ m' / 32 ≠ b / 32) :
    ((endUnit s c x q m).1.core d).lsRead g m' 1 = (s.core d).lsRead g m' 1 := by
  by_cases hc : d = c
  · have hm : m' / 32 ≠ b / 32 := hd.resolve_left (not_not.mpr hc)
    rw [hc, endUnit_core h hn]
    exact Core.lsRead_lsWrite_outside _ _ (unit_in_granule hn hb hm) fun he => absurd he hm
  · rw [endUnit_own h hn]
    exact congrArg (fun k => Core.lsRead k g m' 1) (State.core_modCore_ne _ _ (Ne.symm hc))

end

/-! ### Completion (R241, R242, R250, R251) -/

/-- A command has left its queue and the scoreboard. -/
def copyLeft (c i : Nat) (q : CopyCmd) (s : State) : State :=
  ((completeFront (s.ctx c i).uid q.id 1 (joinedFront s q) s).modCore c (fun k => k.dropBoards [q.id])).modCtx c i
    (fun x => { x with copyQ := x.copyQ.tail, nC := x.nC - 1 })

/-- The value of `cstat` after a failure (R251). -/
def CopyCmd.stat (q : CopyCmd) (code : Nat) : Word := w64 (code + q.cmd * 256 + q.set * 2 ^ 12 + 2 ^ 15 + q.done % 2 ^ 32 * 2 ^ 16)

/-- A context with the record of a failure and its pointer. -/
def Ctx.copyFailed (q : CopyCmd) (code : Nat) (p : Word) (x : Ctx) : Ctx :=
  { (x.setEr 0 0x80 (q.stat code)).setEr 0 0x81 p with recC := x.state != .draining }

/-- The failure is recorded and counted. -/
def copyFailed (c i : Nat) (q : CopyCmd) (code : Nat) (p : Word) (s : State) : State := (s.modCtx c i (Ctx.copyFailed q code p)).bump c 14

theorem completeCopy_done {s : State} {c i : Nat} {q : CopyCmd} (h : q.fail = none) : completeCopy s c i q = copyLeft c i q s := by
  unfold completeCopy
  rw [h]
  rfl

theorem completeCopy_failed {s : State} {c i : Nat} {q : CopyCmd} {code : Nat} {p : Word} (h : q.fail = some (code, p)) :
    completeCopy s c i q = copyFailed c i q code p (copyLeft c i q s) := by
  unfold completeCopy
  rw [h]
  rfl

section
variable (s : State) (c i : Nat) (q : CopyCmd)

theorem copyLeft_ctx : (copyLeft c i q s).ctx c i = { s.ctx c i with copyQ := (s.ctx c i).copyQ.tail, nC := (s.ctx c i).nC - 1 } := by
  unfold copyLeft
  rw [State.ctx_modCtx_same, State.ctx_modCore rfl]
  rfl

theorem copyLeft_board : ((copyLeft c i q s).core c).board = (s.core c).board.filter (fun b => b.cmd != q.id) := by
  unfold copyLeft
  rw [State.core_modCtx_keeps Core.board (fun _ _ _ => rfl), State.core_modCore_same]
  exact List.filter_congr fun b _ => Bool.eq_iff_iff.mpr (by simp)

theorem copyLeft_sameStores : SameStores s (copyLeft c i q s) :=
  ((SameStores.modCtx _ c i _).after (.modCore rfl)).after (.of_cores rfl rfl rfl)

theorem copyFailed_ctx (code : Nat) (p : Word) : (copyFailed c i q code p s).ctx c i = (s.ctx c i).copyFailed q code p := by
  unfold copyFailed State.bump
  rw [State.ctx_modCore (f := fun k => k.bump 14) rfl, State.ctx_modCtx_same]

theorem Ctx.copyFailed_er (x : Ctx) (code : Nat) (p : Word) : (x.copyFailed q code p).er 0 0x80 = q.stat code ∧ (x.copyFailed q code p).er 0 0x81 = p := by
  unfold Ctx.copyFailed Ctx.setEr Ctx.er
  simp only [SMap.get_put, Nat.reduceAdd, Nat.reduceMul, Nat.reduceEqDiff, ↓reduceIte, and_self]

theorem copyFailed_board (code : Nat) (p : Word) : ((copyFailed c i q code p s).core c).board = (s.core c).board := by
  unfold copyFailed State.bump
  rw [State.core_modCore_same, Core.bump_board, State.core_modCtx_keeps Core.board fun _ _ _ => rfl]

theorem copyFailed_sameStores (code : Nat) (p : Word) : SameStores s (copyFailed c i q code p s) :=
  (SameStores.modCore (f := fun k => k.bump 14) rfl).after (.modCtx s c i _)

end

/-- The fields of `cstat`: code, command, the record's bit, and the units done (R251). -/
theorem CopyCmd.stat_fields {q : CopyCmd} {code : Nat} (hcode : code < 16) (hcmd : q.cmd < 16) (hset : q.set < 8) :
    bits (q.stat code) 7 0 = code ∧ bits (q.stat code) 11 8 = q.cmd ∧ (q.stat code).getLsbD 15 = true ∧ bits (q.stat code) 47 16 = q.done % 2 ^ 32 := by
  have hnat : (q.stat code).toNat = code + q.cmd * 256 + q.set * 4096 + 32768 + q.done % 4294967296 * 65536 := by
    unfold CopyCmd.stat w64
    rw [BitVec.toNat_ofNat]
    omega
  refine ⟨?_, ?_, ?_, ?_⟩
  · unfold bits
    rw [hnat, Nat.shiftRight_eq_div_pow]
    omega
  · unfold bits
    rw [hnat, Nat.shiftRight_eq_div_pow]
    omega
  · rw [BitVec.getLsbD, hnat, Nat.testBit_eq_decide_div_mod_eq]
    exact decide_eq_true (by omega)
  · unfold bits
    rw [hnat, Nat.shiftRight_eq_div_pow]
    omega

/-- What a `qfen` brings has all that its scope's writers had committed. -/
theorem joinedFront_covers {s : State} {q : CopyCmd} {p : Parties} (h : q.scope = some p) : (joinedFront s q).covers p s.ord.commits := by
  unfold joinedFront
  rw [h]
  exact Front.covers_mark_same _ p _

/-- What the completed commands of the queue leave, for the `wait` and for the commands behind, has it. -/
theorem copyLeft_releases {s : State} {c i : Nat} {q : CopyCmd} {p : Parties} (h : q.scope = some p) :
    ((copyLeft c i q s).chan (.done (s.ctx c i).uid 1)).covers p s.ord.commits := by
  show ((completeFront (s.ctx c i).uid q.id 1 (joinedFront s q) s).chan (.done (s.ctx c i).uid 1)).covers p s.ord.commits
  unfold completeFront State.joinChan
  dsimp only
  rw [State.chan_setChan]
  exact Front.covers_join (.inr ((Front.covers_join (.inr (joinedFront_covers h))).mark _ _))

theorem copyCommandComplete_eq {c i : Nat} {s : State} {q : CopyCmd} {r : List CopyCmd} (h : (s.ctx c i).copyQ = q :: r) (hcmd : q.cmd ≠ 4)
    (hf : q.finished = true) : exec (.copyCommandComplete c i) s = .next (completeCopy s c i q) := by
  show execCopyCommandComplete c i s = _
  unfold execCopyCommandComplete
  rw [h]
  exact if_pos (by simp [hf, hcmd])

theorem qfenComplete_eq {c i : Nat} {s : State} {q : CopyCmd} {r : List CopyCmd} (h : (s.ctx c i).copyQ = q :: r) (hcmd : q.cmd = 4)
    (hs : q.started = true) (hj : ∀ id ∈ q.join, cmdLive s id = false) : exec (.qfenComplete c i) s = .next (completeCopy s c i q) := by
  show execQfenComplete c i s = _
  unfold execQfenComplete
  rw [h]
  refine if_pos (Bool.and_eq_true_iff.mpr ⟨by simp [hcmd, hs], List.all_eq_true.mpr fun id hid => ?_⟩)
  rw [hj id hid]
  rfl

/-! ### The clauses of the statement -/

theorem copy_issues {row : (RegF → RegF → BitVec 3 → Instr) × Nat}
    (hrow : row ∈ ([(Instr.cpy, 0), (Instr.cpym, 1), (Instr.deal, 2), (Instr.bkt, 3)] : List ((RegF → RegF → BitVec 3 → Instr) × Nat)))
    {a b : RegF} {set : BitVec 3} {s s1 s2 : State} {src dst : TVal} (hs : starts (row.1 a b set) s = true)
    (ha : Reads (doer (row.1 a b set) s) a (begun s) src s1) (hb : Reads (doer (row.1 a b set) s) b s1 dst s2) :
    let e := doer (row.1 a b set) s
    let u := counted e .C s2
    let q := newCopy e row.2 set.toNat src.val dst.val u
    (s2.ctx e.core e.slot).nC < 63 → (u.core e.core).board.length + (newRanges e q u).length ≤ 16 →
    exec (row.1 a b set) s = .next (ended s (enqueued e q (newRanges e q u) (numberTaken u))) ∧
      sameMemory s2 (ended s (enqueued e q (newRanges e q u) (numberTaken u))) := by
  intro e u q hc hr
  have hnumber : SameStores u (numberTaken u) := .of_cores rfl rfl rfl
  refine ⟨(exec_copy hrow a b set s).trans (run_completes hs (copyBody_run ha hb hc hr)), SameStores.sameMemory ?_⟩
  exact (((counted_sameStores e .C s2).trans hnumber).trans (enqueued_sameStores ..)).trans (.ended s _)

/-- The new command, its registers written out. -/
theorem newCopy_eq (e : Env) (cmd set : Nat) (src dst : Word) (u : State) : newCopy e cmd set src dst u =
    (let x := u.ctx e.core e.slot
     let reg := fun n => SMap.get (u.core e.core).copySets (128 * (if isArray e.core then 0 else x.tenant) + 16 * set + n) 0
     { id := u.nextId, cmd := cmd, set := set, src := src, dst := dst, hdr := reg 0, dims := (List.range 14).map (fun j => reg (1 + j)), aux := reg 15,
       priv := x.level, pv := x.pvbase, seq := x.seq, started := false, done := 0, join := [],
       dstGen := recordGen u e.core x (if cmd = 1 ∨ cmd = 2 then remotePtr e.core (bits dst 19 0) else dst), auxGen := recordGen u e.core x (reg 15),
       fail := none, orig := [], ids := [] }) := by
  unfold newCopy mkCopy ownDest
  simp only [setReg_eq, Nat.add_assoc, Nat.add_zero]

theorem qfen_issues {sc : Scope} {a : RegF} {s s1 : State} {v : TVal} (hs : starts (.qfen sc a) s = true) :
    let e := doer (.qfen sc a) s
    Reads e a (begun s) v s1 → (s1.ctx e.core e.slot).nC < 63 →
    ∃ (t : State) (q : CopyCmd), exec (.qfen sc a) s = .next t ∧ (t.ctx e.core e.slot).copyQ = (s1.ctx e.core e.slot).copyQ ++ [q] ∧
      q.cmd = 4 ∧ q.started = false ∧ q.scope = some (scopeSet s1 sc (s1.ctx e.core e.slot) e.core) ∧ q.seq = (s1.ctx e.core e.slot).seq ∧
      (t.ctx e.core e.slot).nC = (s1.ctx e.core e.slot).nC + 1 ∧ (t.core e.core).board = (s1.core e.core).board ∧
      (v.val.getLsbD 0 = true → ∀ p ∈ (s1.ctx e.core e.slot).copyQ, (s1.ctx e.core e.slot).state ≠ .free → p.id ∈ q.join) ∧ sameMemory s1 t := by
  intro e ha hc
  let u := counted e .C s1
  let q := newQfen e sc v.val u
  have hu : u.ctx e.core e.slot = { s1.ctx e.core e.slot with nC := (s1.ctx e.core e.slot).nC + 1 } := counted_ctx e .C s1
  have hctx : (enqueued e q [] (numberTaken u)).ctx e.core e.slot =
      { s1.ctx e.core e.slot with nC := (s1.ctx e.core e.slot).nC + 1, copyQ := (s1.ctx e.core e.slot).copyQ ++ [q] } := by
    rw [enqueued_ctx]
    show { u.ctx e.core e.slot with copyQ := (u.ctx e.core e.slot).copyQ ++ [q] } = _
    rw [hu]
  have hboard : (u.core e.core).board = (s1.core e.core).board := State.core_modCtx_keeps Core.board (fun _ _ _ => rfl) s1 e.core e.slot _ e.core
  have hnumber : SameStores u (numberTaken u) := .of_cores rfl rfl rfl
  refine ⟨_, q, run_completes hs (qfenBody_run ha hc), ?_, rfl, rfl, ?_, ?_, ?_, ?_, fun hv p hp hx => ?_, SameStores.sameMemory ?_⟩
  · rw [ctx_ended_keeps Ctx.copyQ fun _ => rfl]
    exact congrArg Ctx.copyQ hctx
  · exact congrArg some (scopeSet_counted e .C s1 sc)
  · show (u.ctx e.core e.slot).seq = _
    rw [hu]
  · rw [ctx_ended_keeps Ctx.nC fun _ => rfl]
    exact congrArg Ctx.nC hctx
  · rw [core_ended_keeps Core.board (fun _ _ _ => rfl) fun _ _ => rfl, enqueued_board]
    exact (List.append_nil _).trans hboard
  · exact mem_joined_copy (s := u) hv (by rwa [hu]) (by rwa [hu])
  · exact (((counted_sameStores e .C s1).trans hnumber).trans (enqueued_sameStores ..)).trans (.ended s _)

section
variable {c i : Nat} {s : State} {q : CopyCmd} {r : List CopyCmd} (h : (s.ctx c i).copyQ = q :: r)
include h

theorem copyCommandStart_starts (hs : q.started = false) (hd : storesDone (s.core c) (s.ctx c i).uid q.seq = true) :
    ∃ (t : State) (p : CopyCmd), exec (.copyCommandStart c i) s = .next t ∧ (t.ctx c i).copyQ = p :: r ∧ p.started = true ∧
      p.id = q.id ∧ p.done = q.done ∧ (q.cmd = 4 ∨ (q.badSet = false ∧ q.cmd = 0) → p.fail = none) ∧ (q.cmd ≠ 4 → q.badSet = true → p.fail = some (1, 0)) ∧ sameMemory s t :=
  ⟨_, q.begun s c (s.ctx c i), copyCommandStart_eq h hs hd, setCopyHead_copyQ h, rfl, rfl, rfl, failAt_none, failAt_badSet,
    (setCopyHead_sameStores ..).sameMemory⟩

theorem copyCommandComplete_completes (hcmd : q.cmd ≠ 4) (hf : q.finished = true) :
    ∃ t, exec (.copyCommandComplete c i) s = .next t ∧ (t.ctx c i).copyQ = r ∧ (t.ctx c i).nC = (s.ctx c i).nC - 1 ∧
      (t.core c).board = (s.core c).board.filter (fun b => b.cmd != q.id) ∧ sameMemory s t ∧
      (q.fail = none → (t.ctx c i).recC = (s.ctx c i).recC) ∧
      (∀ code p, q.fail = some (code, p) → code < 16 → q.cmd < 16 → q.set < 8 → (s.ctx c i).state ≠ .draining → (t.ctx c i).recC = true ∧
        bits ((t.ctx c i).er 0 0x80) 7 0 = code ∧ bits ((t.ctx c i).er 0 0x80) 11 8 = q.cmd ∧ ((t.ctx c i).er 0 0x80).getLsbD 15 = true ∧
        bits ((t.ctx c i).er 0 0x80) 47 16 = q.done % 2 ^ 32 ∧ (t.ctx c i).er 0 0x81 = p) := by
  have htail : (s.ctx c i).copyQ.tail = r := by rw [h]; rfl
  refine ⟨_, copyCommandComplete_eq h hcmd hf, ?_⟩
  cases hfail : q.fail with
  | none =>
    rw [completeCopy_done hfail, copyLeft_ctx]
    exact ⟨htail, rfl, copyLeft_board s c i q, (copyLeft_sameStores s c i q).sameMemory, fun _ => rfl, fun _ _ he => absurd he (by simp)⟩
  | some f =>
    obtain ⟨code, p⟩ := f
    rw [completeCopy_failed hfail, copyFailed_ctx, copyLeft_ctx]
    refine ⟨htail, rfl, (copyFailed_board ..).trans (copyLeft_board s c i q),
      ((copyLeft_sameStores s c i q).trans (copyFailed_sameStores ..)).sameMemory, fun he => absurd he (by simp), ?_⟩
    intro code' p' he hcode hcmd' hset hstate
    obtain ⟨rfl, rfl⟩ := Prod.mk.inj (Option.some.inj he)
    obtain ⟨hcstat, hcaddr⟩ := Ctx.copyFailed_er q { s.ctx c i with copyQ := (s.ctx c i).copyQ.tail, nC := (s.ctx c i).nC - 1 } code p
    obtain ⟨hfcode, hfcmd, hfrec, hfdone⟩ := CopyCmd.stat_fields hcode hcmd' hset
    rw [hcstat, hcaddr]
    exact ⟨bne_iff_ne.mpr hstate, hfcode, hfcmd, hfrec, hfdone, rfl⟩

theorem qfenComplete_completes (hcmd : q.cmd = 4) (hs : q.started = true) (hf : q.fail = none) (hj : ∀ id ∈ q.join, cmdLive s id = false) :
    ∃ t, exec (.qfenComplete c i) s = .next t ∧ (t.ctx c i).copyQ = r ∧ (t.ctx c i).nC = (s.ctx c i).nC - 1 ∧ sameMemory s t ∧
      ∀ p, q.scope = some p → ∃ m ∈ (t.chan (.done (s.ctx c i).uid 1)).marks, m.1 = p ∧ s.ord.commits ≤ m.2 := by
  refine ⟨_, qfenComplete_eq h hcmd hs hj, ?_⟩
  rw [completeCopy_done hf, copyLeft_ctx]
  exact ⟨by rw [h]; rfl, rfl, (copyLeft_sameStores s c i q).sameMemory, fun p hp => copyLeft_releases hp⟩

end

/-- Settles O41: the issue of the copy commands and of `qfen`, their Start, the read and the write of a unit of a `cpy`, and Completion. -/
theorem copyEngine : Obligations.CopyEngine := by
  unfold Obligations.CopyEngine
  refine ⟨?_, fun sc a s s1 v hs ha hc => qfen_issues hs ha hc, fun c i s q r h hs hd => copyCommandStart_starts h hs hd, ?_, ?_,
    fun c i s q r h hcmd hf _ => copyCommandComplete_completes h hcmd hf, fun c i s q r h hcmd hs hf hj => qfenComplete_completes h hcmd hs hf hj⟩
  · intro row hrow a b set s s1 s2 src dst i e u x reg q rs t hs ha hb hc hr
    have hq : newCopy e row.2 set.toNat src.val dst.val u = q := newCopy_eq ..
    have hissue := copy_issues hrow hs ha hb hc
    rw [hq] at hissue
    exact hissue hr
  · intro c s x q a b hcmd hunit horig hheld hfail hdone g p hsrc hstale u v hdst
    have hstep : stepUnit s c x q = ((engTouch v.2 g p q.unit .ewrite).draw.2, { q with done := q.done + 1, held := [(q.done, [(p, .ls c b)], v.1)] }) :=
      (stepUnit_begins hfail hdone hheld).trans (beginUnit_local hcmd horig hheld hsrc hstale hdst)
    have hu : SameStores s u := (engTouch_sameStores s.draw.2 g (srcPtr q q.done) q.unit .eread).after (.of_cores rfl rfl rfl)
    have hv : v = u.cmdRead x.uid q.seq q.id 1 x.gen (.ls c a) q.unit := readUnit_small u x q c a hunit
    rw [hstep]
    refine ⟨fun holder => ?_, rfl, SameStores.sameMemory ?_⟩
    · rw [← hu.readAt_ls, hv]
      exact weakRead_newest holder
    · have hread : SameStores u v.2 := by rw [hv]; exact cmdRead_sameStores ..
      exact ((hu.trans hread).trans (engTouch_sameStores ..)).trans (.of_cores rfl rfl rfl)
  · intro c s x q i b v p hunit n hend hheld hb t
    have hstep : stepUnit s c x q = endUnit s.draw.2 c x q (n / 2 % q.held.length) := stepUnit_ends hend
    obtain ⟨hval, hstamp⟩ := endUnit_writes (s := s.draw.2) (c := c) (x := x) hheld hunit
    refine ⟨?_, ?_, ?_, fun d g m hd => ?_⟩
    · rw [hstep, endUnit_own hheld hunit]
    · rwa [← hstep] at hval
    · rwa [← hstep] at hstamp
    · show ((stepUnit s c x q).1.core d).lsRead g m 1 = _
      rw [hstep]
      exact endUnit_keeps hheld hunit hb g hd

end Sys2Proof.Machine
end

section
/-! PROOF. What keeps the canonical form: updates of a core and of a state, commits, meanings (O58). -/

namespace Sys2Proof.Machine

-- One proof at a time: side by side they would wait for each other, each on a thread of its own.
set_option Elab.async false

/-! ### Maps of which entries change -/

/-- A map whose entries keep their indices, and of which no entry becomes the default, keeps the canonical form. -/
theorem SMap.filterMap_wf {α β : Type} [DecidableEq α] [DecidableEq β] {d : α} {b : β} {f : Nat × α → Option (Nat × β)}
    (hf : ∀ e e', f e = some e' → e'.1 = e.1 ∧ e'.2 ≠ b) : ∀ {m : SMap α}, SMap.wf m d = true → SMap.wf (m.filterMap f) b = true
  | [], _ => rfl
  | e :: m, h => by
    obtain ⟨-, ha, hm⟩ := (SMap.wf_cons d m e).1 h
    have ih := SMap.filterMap_wf hf hm
    rw [List.filterMap_cons]
    split
    · exact ih
    · next e' he =>
      obtain ⟨h1, h2⟩ := hf e e' he
      refine (SMap.wf_cons b _ e').2 ⟨h2, fun x hx => ?_, ih⟩
      obtain ⟨y, hy, hx⟩ := List.mem_filterMap.1 hx
      rw [h1, (hf y x hx).1]
      exact ha y hy

/-- So does a memory of which bytes are written one by one. -/
theorem Memory.foldl_put_wf {α : Type} {f : α → Nat} {g : α → Byte} (l : List α) {m : Memory} (h : Memory.wf m = true) :
    Memory.wf (l.foldl (fun m a => Memory.put m (f a) (g a)) m) = true := by
  induction l generalizing m with
  | nil => exact h
  | cons a l ih => exact ih (Memory.put_wf m _ _ h)

/-- An entry that is dropped where it has become the default. -/
theorem entry_of_ite {α : Type} [DecidableEq α] {d v : α} {n : Nat} {e : Nat × α} (h : (if v = d then none else some (n, v)) = some e) :
    e.1 = n ∧ e.2 ≠ d := by
  split at h
  · exact nomatch h
  · next hv =>
    obtain rfl := Option.some.inj h
    exact ⟨rfl, hv⟩

theorem value_of_ite {α : Type} [DecidableEq α] {d v : α} {n : Nat} {e : Nat × α} (h : (if v = d then none else some (n, v)) = some e) :
    e = (n, v) := by
  split at h
  · exact nomatch h
  · exact (Option.some.inj h).symm

/-! ### The form of a core -/

/-- The maps of a core are in canonical form. -/
structure Sound (k : Core) : Prop where
  canonical : k.canonical = true

namespace Sound

variable {k l : Core}

theorem ite {p : Prop} [Decidable p] (h : Sound k) (g : Sound l) : Sound (if p then k else l) := by
  split
  · exact h
  · exact g

/-- What a core has beside its contexts, its registers, its local store and its weight banks plays no part. -/
theorem upd {slots acc genLast genFrom fold foldAt stalled regions storeBuf journal jnext jrec board events sems copySets landq hold rot issued joined repTurn
      cpyTurn tlb rounds lim lock twinOf matCur matTurn} (h : Sound k) :
    Sound { k with
      slots := slots, acc := acc, genLast := genLast, genFrom := genFrom, fold := fold, foldAt := foldAt, stalled := stalled, regions := regions
      storeBuf := storeBuf, journal := journal, jnext := jnext, jrec := jrec, board := board, events := events, sems := sems, copySets := copySets
      landq := landq, hold := hold, rot := rot, issued := issued, joined := joined, repTurn := repTurn, cpyTurn := cpyTurn, tlb := tlb, rounds := rounds
      lim := lim, lock := lock, twinOf := twinOf, matCur := matCur, matTurn := matTurn } := ⟨h.1⟩

/-- A fold of steps that each keep it keeps it. -/
theorem foldl {α : Type} {f : Core → α → Core} {l : List α} (h : Sound k) (hf : ∀ k a, Sound k → Sound (f k a)) : Sound (l.foldl f k) := by
  induction l generalizing k with
  | nil => exact h
  | cons a l ih => exact ih (hf k a h)

/-- A core of maps in canonical form. -/
theorem of (hc : SMap.wf k.ctxs Ctx.reset = true) (hr : SMap.wf k.regs RegEntry.reset = true) (hl : Memory.wf k.ls = true)
    (hf : SMap.wf k.fe false = true) (hg : SMap.wf k.lsGen 0 = true) (hb : Memory.wf k.banks = true) : Sound k :=
  ⟨(Core.canonical_iff k).2 ⟨hc, hr, hl, hf, hg, hb⟩⟩

theorem parts (h : Sound k) : SMap.wf k.ctxs Ctx.reset = true ∧ SMap.wf k.regs RegEntry.reset = true ∧ Memory.wf k.ls = true ∧
    SMap.wf k.fe false = true ∧ SMap.wf k.lsGen 0 = true ∧ Memory.wf k.banks = true := (Core.canonical_iff k).1 h.1

theorem lsWrite {g : BitVec 16} {off n v : Nat} (h : Sound k) : Sound (k.lsWrite g off n v) := ⟨Core.lsWrite_canonical k g off n v h.1⟩

theorem lsWriteFe {g : BitVec 16} {off v : Nat} {b : Bool} (h : Sound k) : Sound (k.lsWriteFe g off v b) := ⟨Core.lsWriteFe_canonical k g off v b h.1⟩

theorem setFe {g : BitVec 16} {off : Nat} {b : Bool} (h : Sound k) : Sound (k.setFe g off b) := ⟨Core.setFe_canonical k g off b h.1⟩

theorem setCtx {i : Nat} {x : Ctx} (h : Sound k) : Sound (k.setCtx i x) := ⟨Core.setCtx_canonical k i x h.1⟩

theorem writeReg {x : Ctx} {f : Nat} {v : TVal} (h : Sound k) : Sound (k.writeReg x f v) := by
  unfold Core.writeReg
  refine ite h ⟨?_⟩
  have h := h.1
  rw [Core.canonical_iff] at h ⊢
  obtain ⟨hc, hr, hl⟩ := h
  exact ⟨hc, SMap.put_wf _ _ _ _ hr, hl⟩

end Sound

/-! ### The form of a state, and what keeps it -/

/-- What r has of the canonical form of its memories and maps, and of the order of its commit counts, s has too. -/
structure Kept (r s : State) : Prop where
  canonical : r.canonical = true → s.canonical = true
  ordered : r.ordered = true → s.ordered = true

/-- No write of o has a commit count, or is ordered after one, that o has not given out. -/
def Order.sound (o : Order) : Prop := ∀ e ∈ o.wsets, ∀ w ∈ e.2, w.n ≤ o.commits ∧ ∀ n ∈ w.after, n ≤ o.commits

theorem State.ordered_iff (s : State) : s.ordered = true ↔ s.ord.sound := by
  simp [State.ordered, Order.sound]

namespace Kept

variable {r s t : State}

theorem refl (s : State) : Kept s s := ⟨id, id⟩

theorem ite {p : Prop} [Decidable p] (h : Kept r s) (g : Kept r t) : Kept r (if p then s else t) := by
  split
  · exact h
  · exact g

/-- What a state has beside its memories, its cores, its squares, the dispatcher, the host's side and the recorded writes plays no part. -/
theorem upd {cycle tsZero walks missWait tlbiOps ships ports smps gives takes nextId free cur turn due inputs} (h : Kept r s) :
    Kept r { s with
      cycle := cycle, tsZero := tsZero, walks := walks, missWait := missWait, tlbiOps := tlbiOps, ships := ships, ports := ports, smps := smps, gives := gives
      takes := takes, nextId := nextId, free := free, cur := cur, turn := turn, due := due, inputs := inputs } := ⟨h.1, h.2⟩

theorem fresh (h : Kept r s) : Kept r s.fresh.2 := h.upd

theorem draw (h : Kept r s) : Kept r s.draw.2 := h.upd

/-- The state that comes with a value. -/
theorem snd {α : Type} {q : α × State} {a : α} (h : Kept r q.2) (hq : q = (a, s)) : Kept r s := by rwa [hq] at h

theorem fst {α : Type} {q : State × α} {a : α} (h : Kept r q.1) (hq : q = (s, a)) : Kept r s := by rwa [hq] at h

/-- A fold of steps that each keep it keeps it. -/
theorem foldl {α : Type} {f : State → α → State} {l : List α} (h : Kept r s) (hf : ∀ s a, Kept r s → Kept r (f s a)) : Kept r (l.foldl f s) := by
  induction l generalizing s with
  | nil => exact h
  | cons a l ih => exact ih (hf s a h)

/-! ### Updates of a part -/

theorem setCore {c : Nat} {k : Core} (h : Kept r s) (hk : r.canonical = true → Sound k) : Kept r (s.setCore c k) :=
  ⟨fun hr => State.setCore_canonical s c k (hk hr).1 (h.1 hr), h.2⟩

protected theorem core (h : Kept r s) (c : Nat) (hr : r.canonical = true) : Sound (s.core c) := ⟨State.core_canonical s c (h.1 hr)⟩

/-- An update of a core that touches none of its maps, where nothing else is said. -/
theorem modCore {c : Nat} {f : Core → Core} (h : Kept r s) (hf : ∀ k, Sound k → Sound (f k) := by exact fun _ hk => hk.upd) :
    Kept r (s.modCore c f) :=
  h.setCore fun hr => hf _ (h.core c hr)

theorem setCtx {c i : Nat} {x : Ctx} (h : Kept r s) : Kept r (s.setCtx c i x) := h.modCore fun _ hk => hk.setCtx

theorem modCtx {c i : Nat} {f : Ctx → Ctx} (h : Kept r s) : Kept r (s.modCtx c i f) :=
  ⟨fun hr => State.modCtx_canonical s c i f (h.1 hr), h.2⟩

theorem modSquare {q : Nat} {f : Square → Square} (h : Kept r s) : Kept r (s.modSquare q f) :=
  ⟨fun hr => State.modSquare_canonical s q f (h.1 hr), h.2⟩

/-- An update of the dispatcher that leaves the partitions that are switched out alone, or keeps their form. -/
theorem modDisp {f : Disp → Disp} (h : Kept r s) (hf : ∀ d : Disp, d.canonical = true → (f d).canonical = true := by exact fun _ hd => hd) :
    Kept r (s.modDisp f) := by
  refine ⟨fun hr => ?_, h.2⟩
  obtain ⟨h1, h2, h3, h4, h5, h6, h7⟩ := (State.canonical_iff s).1 (h.1 hr)
  exact (State.canonical_iff _).2 ⟨h1, h2, h3, h4, h5, hf _ h6, h7⟩

/-- An update of the host's side that leaves the checkpoint images alone. -/
theorem modHost {f : HostSide → HostSide} (h : Kept r s) (hf : ∀ x, (f x).images = x.images := by exact fun _ => rfl) : Kept r (s.modHost f) := by
  refine ⟨fun hr => ?_, h.2⟩
  obtain ⟨h1, h2, h3, h4, h5, h6, h7⟩ := (State.canonical_iff s).1 (h.1 hr)
  exact (State.canonical_iff _).2 ⟨h1, h2, h3, h4, h5, h6, by rw [show (s.modHost f).host.images = s.host.images from hf _]; exact h7⟩

theorem modGang {g : Nat} {f : Gang → Gang} (h : Kept r s) : Kept r (s.modGang g f) := h.modDisp

theorem modRun {n : Nat} {f : Run → Run} (h : Kept r s) : Kept r (s.modRun n f) := h.modDisp

theorem writeAt {pl : Place} {n v : Nat} {own : BitVec 16} (h : Kept r s) : Kept r (s.writeAt pl n v own) := by
  refine ⟨fun hr => State.writeAt_canonical s pl n v own (h.1 hr), fun hr => ?_⟩
  cases pl with
  | ls | host | peer => exact h.2 hr
  | hbm m =>
    unfold State.writeAt
    dsimp only
    split <;> exact h.2 hr

/-! ### Memory ordering -/

/-- The memories of one state and the memory order of another. -/
theorem withOrd (h : Kept r s) (g : Kept r t) : Kept r { s with ord := t.ord } := by
  refine ⟨fun hr => ?_, g.2⟩
  have h := (State.canonical_iff s).1 (h.1 hr)
  exact (State.canonical_iff _).2 h

/-- An update that leaves the write sets and the commit count alone. -/
theorem modOrd {f : Order → Order} (h : Kept r s) (hf : ∀ o, (f o).wsets = o.wsets ∧ (f o).commits = o.commits := by exact fun _ => ⟨rfl, rfl⟩) :
    Kept r (s.modOrd f) := by
  refine ⟨h.1, fun hr => ?_⟩
  have hs := (State.ordered_iff s).1 (h.2 hr)
  rw [State.ordered_iff]
  unfold Order.sound
  rw [State.modOrd_ord, (hf s.ord).1, (hf s.ord).2]
  exact hs

theorem gain {u : Nat} {f : Front} (h : Kept r s) : Kept r (s.gain u f) := by
  unfold State.gain
  exact ite h h.modOrd

theorem see {u : Nat} {l : List (Place × Wr)} (h : Kept r s) : Kept r (s.see u l) := h.gain

theorem setChan {c : Chan} {f : Front} (h : Kept r s) : Kept r (s.setChan c f) := h.modOrd

theorem joinChan {c : Chan} {f : Front} (h : Kept r s) : Kept r (s.joinChan c f) := h.setChan

theorem forget {p : Place → Bool} (h : Kept r s) : Kept r (s.forget p) := by
  refine ⟨h.1, fun hr => ?_⟩
  have hs := (State.ordered_iff s).1 (h.2 hr)
  rw [State.ordered_iff]
  exact fun e he => hs e (List.mem_of_mem_filter he)

end Kept

theorem mem_insertWr {w v : Wr} {l : List Wr} : v ∈ insertWr w l ↔ v = w ∨ v ∈ l := by
  induction l with
  | nil => simp [insertWr]
  | cons u l ih =>
    unfold insertWr
    split
    · simp only [List.mem_cons, ih]; tauto
    · simp only [List.mem_cons]

/-- The writes of a byte before one joins them: those recorded, or else the one that memory holds. -/
theorem Order.sound.wset {o : Order} (h : o.sound) (pl : Place) : ∀ w ∈ o.wset pl, w.n ≤ o.commits ∧ ∀ n ∈ w.after, n ≤ o.commits := by
  unfold Order.wset
  split
  · next e he => exact h e (List.mem_of_find?_eq_some he)
  · simp

/-- A write that joins a write set has a commit count that has been given out, and comes after such counts alone. -/
theorem addWr_sound {s : State} {k : Commit} {g : BitVec 16} {o : Order} (h : o.sound) (b : Place × Byte) : (s.addWr k g o b).sound := by
  have hws : ∀ w ∈ (match o.wset b.1 with | [] => [s.initial b.1] | l => l), w.n ≤ o.commits ∧ ∀ n ∈ w.after, n ≤ o.commits := by
    split
    · simp [State.initial]
    · exact h.wset b.1
  unfold State.addWr
  extract_lets ws prior w
  have hw : w.n ≤ o.commits ∧ ∀ n ∈ w.after, n ≤ o.commits := by
    refine ⟨le_rfl, fun n hn => ?_⟩
    simp only [w, List.mem_eraseDups, List.mem_flatMap, List.mem_cons] at hn
    obtain ⟨v, hv, hn⟩ := hn
    obtain ⟨hvn, hva⟩ := hws v (List.mem_of_mem_filter hv)
    rcases hn with rfl | hn
    · exact hvn
    · exact hva n hn
  intro e he v hv
  rcases List.mem_append.1 he with he | he
  · exact h e (List.mem_of_mem_filter he) v hv
  · rw [List.mem_singleton.1 he] at hv
    rcases mem_insertWr.1 hv with rfl | hv
    · exact hw
    · obtain ⟨u, hu, rfl⟩ := List.mem_map.1 hv
      obtain ⟨hun, hua⟩ := hws u hu
      unfold Wr.follow
      split
      · refine ⟨hun, fun n hn => ?_⟩
        simp only [List.mem_eraseDups, List.mem_append, List.mem_cons] at hn
        rcases hn with hn | rfl | hn
        · exact hua n hn
        · exact hw.1
        · exact hw.2 n hn
      · exact ⟨hun, hua⟩

theorem foldl_addWr_sound {s : State} {k : Commit} {g : BitVec 16} (l : List (Place × Byte)) {o : Order} (h : o.sound) :
    (l.foldl (s.addWr k g) o).sound := by
  induction l generalizing o with
  | nil => exact h
  | cons b l ih => exact ih (addWr_sound h b)

namespace Kept

variable {r s t : State}

theorem record {k : Commit} {pl : Place} {n v : Nat} {g : BitVec 16} (h : Kept r s) : Kept r (s.record k pl n v g) := by
  refine ⟨fun hr => State.record_canonical s k pl n v g (h.1 hr), fun hr => ?_⟩
  have hs := (State.ordered_iff s).1 (h.2 hr)
  rw [State.ordered_iff]
  refine foldl_addWr_sound _ fun e he w hw => ?_
  obtain ⟨hn, ha⟩ := hs e he w hw
  exact ⟨Nat.le_succ_of_le hn, fun n hn => Nat.le_succ_of_le (ha n hn)⟩

theorem commit {k : Commit} {pl : Place} {n v : Nat} {own : BitVec 16} (h : Kept r s) : Kept r (s.commit k pl n v own) := by
  unfold State.commit
  extract_lets kept
  split
  · exact h
  · exact h.record.writeAt
  · exact h.record.writeAt
  · exact ite h h.record.writeAt

theorem viewRead {v : View} {pl : Place} {n : Nat} (h : Kept r s) : Kept r (s.viewRead v pl n).2.2 := by
  unfold State.viewRead
  extract_lets d f
  split
  · exact h.draw
  · exact h

end Kept

/-! ### Meanings -/

/-- What a meaning answers from a state that keeps the form of r keeps it: the state that it ends in, and the one that a park of it leaves. -/
def Answers {α : Type} (r : State) : Except Stop (α × State) → Prop
  | .ok (_, t) => Kept r t
  | .error (.park _ keep) => ∀ u, Kept r u → Kept r (keep u)
  | .error _ => True

def Keeps {α : Type} (r : State) (m : M α) : Prop := ∀ e s, Kept r s → Answers r (m e s)

namespace Keeps

variable {α β : Type} {r : State} {m n : M α}

theorem pure {a : α} : Keeps r (Pure.pure a) := fun _ _ h => h

theorem bind {f : α → M β} (hm : Keeps r m) (hf : ∀ a, Keeps r (f a)) : Keeps r (m >>= f) := by
  intro e s h
  have hm := hm e s h
  rw [M.bind_run]
  rcases hr : m e s with x | ⟨a, t⟩ <;> rw [hr] at hm
  · cases x with
    | trap | stall => trivial
    | park => exact hm
  · exact hf a e t hm

/-- What follows a look at the state may use that state. -/
theorem withState {f : State → M β} (hf : ∀ s, Kept r s → Keeps r (f s)) : Keeps r (M.state >>= f) := fun e s h => hf s h e s h

theorem ite {p : Prop} [Decidable p] (hm : Keeps r m) (hn : Keeps r n) : Keeps r (if p then m else n) := by
  split
  · exact hm
  · exact hn

theorem env : Keeps r M.env := fun _ _ h => h
theorem state : Keeps r M.state := fun _ _ h => h
theorem me : Keeps r M.me := fun _ _ h => h
theorem myCore : Keeps r M.myCore := fun _ _ h => h
theorem draw : Keeps r M.draw := fun _ _ h => h.draw
theorem trap {c : Nat} {a x : Word} : Keeps r (M.trap c a x : M α) := fun _ _ _ => trivial
theorem illegal {n : Nat} : Keeps r (M.illegal n : M α) := fun _ _ _ => trivial
theorem stall : Keeps r (M.stop .stall : M α) := fun _ _ _ => trivial
theorem stopTrap {t : TrapInfo} : Keeps r (M.stop (.trap t) : M α) := fun _ _ _ => trivial
theorem park {l o : Nat} {w : WaitCond} : Keeps r (M.park l o w : M α) := fun _ _ _ _ h => h
theorem parkKeep {l o : Nat} {w : WaitCond} : Keeps r (M.parkKeep l o w : M α) := fun _ _ h _ _ => Kept.ite h.modCtx h
theorem modify {f : State → State} (hf : ∀ s, Kept r s → Kept r (f s)) : Keeps r (M.modify f) := fun _ s h => hf s h
theorem modMe {f : Ctx → Ctx} : Keeps r (M.modMe f) := fun _ _ h => h.modCtx
theorem modMyCore {f : Core → Core} (hf : ∀ k, Sound k → Sound (f k) := by exact fun _ hk => hk.upd) :
    Keeps r (M.modMyCore f) := fun _ _ h => h.modCore hf

end Keeps

/-! ### Results that may be missing, and outcomes -/

/-- What is there has the property. -/
def Opt {α : Type} (p : α → Prop) : Option α → Prop
  | some a => p a
  | none => True

namespace Opt

variable {α β : Type} {p : α → Prop} {q : β → Prop} {o : Option α}

theorem of_eq {a : α} (h : Opt p o) (ho : o = some a) : p a := by
  rw [ho] at h
  exact h

theorem getD {a : α} (h : Opt p o) (ha : p a) : p (o.getD a) := by
  cases o with
  | none => exact ha
  | some b => exact h

theorem map {f : α → β} (h : Opt p o) (hf : ∀ a, p a → q (f a)) : Opt q (o.map f) := by
  cases o with
  | none => trivial
  | some b => exact hf b h

theorem of_map {f : α → β} (hf : ∀ a, q (f a)) : Opt q (o.map f) := by
  cases o with
  | none => trivial
  | some b => exact hf b

theorem bind {f : α → Option β} (h : Opt p o) (hf : ∀ a, p a → Opt q (f a)) : Opt q (o.bind f) := by
  cases o with
  | none => trivial
  | some b => exact hf b h

theorem some_iff {a : α} : Opt p (some a) ↔ p a := .rfl

/-- A fold of steps that each keep what is there. -/
theorem foldl {f : Option α → β → Option α} {l : List β} (h : Opt p o)
    (hf : ∀ o b, Opt p o → Opt p (f o b)) : Opt p (l.foldl f o) := by
  induction l generalizing o with
  | nil => exact h
  | cons b l ih => exact ih (hf o b h)

end Opt

/-- A next state keeps the form of r. -/
def Next (r : State) : Host.Outcome State Fault Refusal → Prop
  | .next t => Kept r t
  | _ => True

theorem Next.branch {r : State} {p : Prop} [Decidable p] {o o' : Host.Outcome State Fault Refusal} (h : Next r o) (h' : Next r o') :
    Next r (if p then o else o') := by
  split
  · exact h
  · exact h'

end Sys2Proof.Machine
end

section
/-! PROOF. Counters, wake-ups, traps, translation and memory accesses keep the canonical form (O58). -/

namespace Sys2Proof.Machine

-- One proof at a time: side by side they would wait for each other, each on a thread of its own.
set_option Elab.async false

variable {r s t old : State} {k : Core} {c core i n tenant slot idx sq u g off queue uid page origin die link pair list object req size kind : Nat}
  {a d b : RegF} {p v value : Word} {x : Ctx} {pl : Place} {l : Loc} {own : BitVec 16} {op : Op} {e : Env} {f : Front}

/-! ### Event counters (R321) -/

theorem Kept.bump (h : Kept r s) : Kept r (s.bump c n) := h.modCore

/-! ### Rotation and wait lists (R182, R185) -/

theorem Kept.ready (h : Kept r s) : Kept r (s.ready c i) := h.modCtx.modCore

theorem Kept.wake (h : Kept r s) : Kept r (s.wake c i) := by
  unfold State.wake
  dsimp only
  split
  · exact .ite h.modCtx.modCore h.ready
  · exact h.ready

theorem Kept.parkOn {w : Wait} (h : Kept r s) : Kept r (s.parkOn c i w) := by
  unfold State.parkOn
  exact h.fresh.modCtx.modCore

theorem Kept.parkBody {w : Wait} (h : Kept r s) : Kept r (s.parkBody c i w) := by
  unfold State.parkBody
  exact h.fresh.modCtx.modCore

theorem Kept.wakeBody (h : Kept r s) : Kept r (s.wakeBody c i) := by
  unfold State.wakeBody
  split
  · exact h.modCtx
  · exact h.ready

theorem Kept.endWait (h : Kept r s) : Kept r (s.endWait c i) := by
  unfold State.endWait
  split
  · exact h.modCtx
  · exact h.ready

theorem Kept.wakeFor {p : WaitCond → Bool} (h : Kept r s) : Kept r (s.wakeFor c i p) := by
  unfold State.wakeFor
  split
  · exact .ite (.ite h.wakeBody.ready h.wakeBody) h.endWait
  · exact h.ready

/-! ### Phase barriers (R191, R192, R358, R359) -/

theorem Kept.observeParked {done : BitVec 32} {l : List (Nat × Nat × Ctx)} (h : Kept r s) : Kept r (Machine.observeParked s n done l) := by
  induction l generalizing s with
  | nil => exact h
  | cons a l ih =>
    unfold Machine.observeParked
    exact ih (.ite h.modCtx h)

theorem Kept.completeBar {m : Nat} (h : Kept r s) : Kept r (Machine.completeBar g n m s) := by
  induction m generalizing s with
  | zero => exact h
  | succ m ih =>
    unfold Machine.completeBar
    split
    · exact h
    · exact .ite h (ih h.modGang.observeParked)

theorem Kept.recheckBars (h : Kept r s) : Kept r (Machine.recheckBars s g) := h.foldl fun _ _ h => h.completeBar

/-! ### Elections (R411 to R413) -/

theorem Kept.closeRounds (h : Kept r s) : Kept r (Machine.closeRounds s sq) := .ite h h.modSquare

theorem Kept.leaveElections (h : Kept r s) : Kept r (Machine.leaveElections s c i) := by
  unfold Machine.leaveElections
  dsimp only
  split
  · exact h
  · exact h.modSquare

/-! ### Ending a context (R148, R151, R169, R192, R303, R318) -/

theorem Sound.dropJrec (h : Sound k) : Sound (k.dropJrec uid) := by
  unfold Core.dropJrec
  split
  · exact .ite h.upd h
  · exact h

theorem Kept.dropUnstarted (h : Kept r s) : Kept r (Machine.dropUnstarted s c i) := by
  unfold Machine.dropUnstarted
  exact h.modSquare.modCtx.modCore

theorem Kept.endInline (h : Kept r s) : Kept r (Machine.endInline s x) := h.foldl fun _ _ h => h.modRun.upd

theorem Kept.endCtx {kind : EndKind} (h : Kept r s) : Kept r (Machine.endCtx kind s c i) := by
  unfold Machine.endCtx
  refine .ite h ?_
  dsimp only
  split
  · refine Kept.modCore ?_ fun _ hk => ?_
    · refine Kept.modCtx ?_
      split
      · exact .ite (Kept.upd (.ite h.leaveElections h.leaveElections.dropUnstarted.endInline)) (.ite h.leaveElections h.leaveElections.dropUnstarted.endInline)
      · exact .ite h.leaveElections h.leaveElections.dropUnstarted.endInline
    · exact hk.upd.dropJrec.upd
  · refine Kept.recheckBars ?_
    refine Kept.modGang ?_
    refine Kept.modCore ?_ fun _ hk => ?_
    · refine Kept.modCtx ?_
      split
      · exact .ite (Kept.upd (.ite h.leaveElections h.leaveElections.dropUnstarted.endInline)) (.ite h.leaveElections h.leaveElections.dropUnstarted.endInline)
      · exact .ite h.leaveElections h.leaveElections.dropUnstarted.endInline
    · exact hk.upd.dropJrec.upd

/-! ### Taking a trap and returning from one (R311 to R313, R317) -/

theorem Kept.markRaised {cause : Nat} (h : Kept r s) : Kept r (Machine.markRaised c i cause s) := .ite h.modCtx (.ite h.modCtx (.ite h.modCore h))

theorem Kept.takeTrap {pc : Word} {replay : Option Nat} {t : TrapInfo} (h : Kept r s) : Kept r (Machine.takeTrap c i pc replay t s) := by
  unfold Machine.takeTrap
  dsimp only
  split
  · exact (Kept.markRaised (.ite (Kept.bump (.ite h.bump h)) (.ite h.bump h))).modCtx
  · exact (Kept.markRaised (.ite (Kept.bump (.ite h.bump h)) (.ite h.bump h))).bump.endCtx

/-! ### The frame of an instruction -/

theorem Kept.rotate (h : Kept r s) : Kept r (Machine.rotate c i s) := .ite h.modCore h.modCore

theorem Kept.raise {t : TrapInfo} (h : Kept r s) : Kept r (Machine.raise e t s) := .ite h.modCtx h.takeTrap

theorem Kept.clearFault (h : Kept r s) : Kept r (Machine.clearFault c i s) := .ite h.modCtx h

theorem Kept.finish {o : Except Stop (Unit × State)} (h : Kept r s) (ho : Answers r o) : Next r (Machine.finish e s o) := by
  unfold Machine.finish
  split
  · exact Kept.rotate (Kept.clearFault ho)
  · exact h.raise.rotate
  · exact (ho s h).parkOn
  · exact h.rotate

theorem Kept.advance (h : Kept r s) : Kept r (Machine.advance c i n s) := h.modCtx

theorem Kept.issue {fm : Form} {word : IWord} {body : M Unit} (h : Kept r s) (hb : Keeps r body) : Next r (Machine.issue fm word body s) := by
  unfold Machine.issue
  dsimp only
  split
  · exact h.raise.rotate
  · exact h.finish (hb _ _ h.advance)

/-! ### Write sets, and the writes a Read may return (R229, R230) -/

theorem Kept.weakRead {r1 : Reader} {also : Place → Wr → Bool} (h : Kept r s) : Kept r (s.weakRead r1 own also pl n).2.2 := h.viewRead

/-! ### Translation (R213 to R217) -/

theorem Kept.tlbLookup (h : Kept r s) : Kept r (Machine.tlbLookup s core tenant page).2 := by
  unfold Machine.tlbLookup
  split
  · dsimp only
    exact h.modCore
  · dsimp only
    split
    · split
      · dsimp only
        exact h.bump.modSquare.modCore
      · dsimp only
        exact h.bump.bump
    · dsimp only
      exact h.bump

theorem Kept.addWalk {a : Asker} (h : Kept r s) : Kept r (Machine.addWalk s a tenant page) := by
  unfold Machine.addWalk
  split <;> exact h.upd

theorem Kept.requestWalk {a : Asker} (h : Kept r s) : Kept r (Machine.requestWalk s a tenant page) := by
  unfold Machine.requestWalk
  exact .ite h.upd h.addWalk

theorem Keeps.translateGo {page : Nat} (h : Kept r s) : Answers r (translate.go p op x page e s) := by
  unfold translate.go
  split
  · next ht =>
    split
    · exact h.tlbLookup.snd ht
    · trivial
  · exact fun _ h => h.tlbLookup.requestWalk

theorem Keeps.translate : Keeps r (Machine.translate p op) := by
  intro e s h
  unfold Machine.translate
  dsimp only
  split
  · split
    · trivial
    · exact translateGo h
  · exact translateGo h

theorem Keeps.resolve {plainD : Bool} : Keeps r (Machine.resolve p size op plainD) := by
  intro e s h
  unfold Machine.resolve
  dsimp only
  split
  · trivial
  · split
    · trivial
    · split
      · trivial
      · split
        · exact h
        · split
          · exact h
          · trivial
        · exact h
        · have ht := Keeps.translate (p := p) (op := op) e s h
          split
          · next hr => rwa [hr] at ht
          · next f hr =>
            rw [hr] at ht
            cases f with
            | trap | stall => trivial
            | park => exact ht

/-! ### Accesses of engines and of the dispatcher (R217, R220, R221). The dispatcher reads the tables at the access (DESIGN CHOICE, log 8) -/

theorem Kept.engTouch {a : Agent} (h : Kept r s) : Kept r (Machine.engTouch s a p size op) := by
  unfold Machine.engTouch
  split
  · dsimp only
    split
    · exact h.tlbLookup
    · exact h.modSquare
    · exact h
  · exact h

theorem Kept.askWalk {a : Agent} {by_ : Asker} (h : Kept r s) : Kept r (Machine.askWalk s a by_ page) := by
  unfold Machine.askWalk
  refine Kept.requestWalk ?_
  split
  · exact h.tlbLookup
  · exact .ite h.bump h

/-! ### Store buffer (R231) -/

theorem Kept.commitEntry {e : SbEntry} (h : Kept r s) : Kept r (Machine.commitEntry s core e) := h.commit

theorem Kept.lowerS (h : Kept r s) : Kept r (Machine.lowerS s core slot uid) := .ite h.modCtx h

theorem Kept.dropBuffered {e : SbEntry} (h : Kept r s) : Kept r (Machine.dropBuffered s core e) := by
  unfold Machine.dropBuffered
  exact .ite h.modCore h.modCore.lowerS

theorem Kept.commitAt {e : SbEntry} (h : Kept r s) : Kept r (Machine.commitAt s core e) := h.dropBuffered.commitEntry

/-! ### Counters (R186) -/

theorem Keeps.raiseCnt {k : Class} : Keeps r (Machine.raiseCnt k) := .bind .me fun _ => .ite .park .modMe

theorem Keeps.classRoom {k : Class} : Keeps r (Machine.classRoom k) := .bind .raiseCnt fun _ => .modMe

theorem Kept.lowerCnt {k : Class} (h : Kept r s) : Kept r (Machine.lowerCnt s c i k) := h.modCtx

theorem Keeps.countAccess : Keeps r (Machine.countAccess) := .modMe

theorem Keeps.nextSeq : Keeps r (Machine.nextSeq) := .bind .me fun _ => .bind .modMe fun _ => .pure

/-! ### The range scoreboard (R223, R224) -/

theorem Keeps.boardCheck {write : Bool} : Keeps r (Machine.boardCheck l write) := by
  unfold Machine.boardCheck
  refine .bind .env fun _ => .bind .me fun _ => .bind .state fun _ => .ite .park ?_
  split
  · exact .ite .park .pure
  · exact .pure

/-! ### Ordering of an access that would perform now (R233) -/

theorem Keeps.mustFollow : Keeps r (Machine.mustFollow l) :=
  .bind .env fun _ => .bind .me fun _ => .bind .myCore fun _ => .ite .park (.ite .park .pure)

theorem Keeps.waitPerformed : Keeps r (Machine.waitPerformed) := .bind .me fun _ => .bind .myCore fun _ => .ite .park .pure

/-! ### Reads that perform in the issue slot -/

theorem Kept.ctxRead {before : Nat} {acq : Option Parties} (h : Kept r s) : Kept r (s.ctxRead core x before acq pl n).2 := by
  unfold State.ctxRead
  dsimp only
  split
  · exact h.viewRead.see.gain
  · exact h.viewRead.see.gain.gain

theorem Keeps.readAs {acq : Option Parties} : Keeps r (Machine.readAs acq l) :=
  .bind .mustFollow fun _ => .bind .env fun _ => .withState fun _ hs => .bind .me fun _ => .ite .trap (.bind (.modify fun _ _ => hs.ctxRead) fun _ => .pure)

theorem Keeps.readNow : Keeps r (Machine.readNow l) := .readAs

theorem Keeps.loadAs {acq : Option Parties} : Keeps r (Machine.loadAs acq p size) := .bind .resolve fun _ => .bind .boardCheck fun _ => .readAs

theorem Keeps.loadNow : Keeps r (Machine.loadNow p size) := .loadAs

theorem Keeps.loadWords : Keeps r (Machine.loadWords p n) := by
  induction n generalizing p with
  | zero => exact .pure
  | succ n ih => exact .bind .loadNow fun _ => .bind ih fun _ => .pure

theorem Keeps.readWordsAt : Keeps r (Machine.readWordsAt l n) := by
  induction n generalizing l with
  | zero => exact .pure
  | succ n ih => exact .bind .readNow fun _ => .bind ih fun _ => .pure

theorem Keeps.loadBlock : Keeps r (Machine.loadBlock p n) := .bind .resolve fun _ => .bind .boardCheck fun _ => .readWordsAt

/-! ### Stores -/

theorem Keeps.bufferStore : Keeps r (Machine.bufferStore l v pair) := .bind .env fun _ => .bind .me fun _ => .bind .nextSeq fun _ => .modMyCore

theorem Keeps.journalStore {rel susp : Bool} : Keeps r (Machine.journalStore l v rel pair susp) :=
  .bind .env fun _ => .bind .me fun _ => .bind .myCore fun _ => .ite .park (.bind .nextSeq fun _ => .modMyCore)

theorem Keeps.storePlain : Keeps r (Machine.storePlain l v pair) := .ite .journalStore .bufferStore

theorem Kept.lateStore {a : Append} (h : Kept r s) : Kept r (Machine.lateStore s c i a v) := by
  unfold Machine.lateStore
  exact h.modCore fun _ hk => .ite hk.upd hk.upd

theorem Keeps.storeNow : Keeps r (Machine.storeNow l v) :=
  .bind .env fun _ => .bind .me fun _ => .bind (.modify fun _ h => h.commit) fun _ => .countAccess

/-! ### Registers that are not ready (R64, R182, R261) -/

theorem Keeps.waitReplay {f : Nat} : Keeps r (Machine.waitReplay f) := .bind .env fun _ => .bind .me fun _ => .ite .park .pure

theorem Keeps.waitReg {f : Nat} : Keeps r (Machine.waitReg f) := .bind .me fun _ => .ite .park (.ite .park (.ite .park .waitReplay))

/-! ### Port registers (R58 to R60) -/

theorem Keeps.popPort : Keeps r (Machine.popPort n) := by
  unfold Machine.popPort
  refine .bind .waitReplay fun _ => .bind .me fun _ => ?_
  split
  · exact .park
  · exact .bind .modMe fun _ => .pure

theorem Keeps.sendPort {v : TVal} : Keeps r (Machine.sendPort n v) :=
  .bind .waitReplay fun _ => .bind .env fun _ => .bind .me fun _ => .bind .state fun _ => .ite .trap (.ite .park (.modify fun _ h => h.upd))

/-! ### Stream-bound registers (R262 to R264) -/

theorem Keeps.popStream : Keeps r (Machine.popStream g) :=
  .bind .me fun _ => .ite (.bind .modMe fun _ => .pure) (.bind .loadNow fun _ => .bind .classRoom fun _ => .bind .modMe fun _ => .pure)

theorem Keeps.promise : Keeps r (Machine.promise g) :=
  .bind .me fun _ => .ite (.bind .modMe fun _ => .pure) (.bind .resolve fun _ => .bind .boardCheck fun _ => .bind .myCore fun _ =>
    .ite .park (.bind .raiseCnt fun _ => .bind .nextSeq fun _ => .bind .modMe fun _ => .pure))

theorem Keeps.appendStream : Keeps r (Machine.appendStream g v) := by
  unfold Machine.appendStream
  refine .bind .promise fun _ => .bind .env fun _ => ?_
  split
  · exact .modify fun _ h => h.lateStore
  · exact .pure

/-! ### Carry operands (R170 to R179) -/

theorem Kept.streamRead {r1 : Run} (h : Kept r s) : Opt (fun t => Kept r t.2.2) (Machine.streamRead s r1) := by
  unfold Machine.streamRead
  split
  · exact h
  · dsimp only
    split
    · exact trivial
    · split
      · exact trivial
      · split
        · split
          · exact trivial
          · exact h.commit.modRun
        · split
          · exact h.modRun
          · exact trivial

theorem Keeps.defaultEntry {base : Word} {m j : Nat} : Keeps r (Machine.defaultEntry base m j) :=
  .ite .pure (.bind .loadAs fun _ => .bind .loadAs fun _ => .pure)

theorem Keeps.readCarry {f : Nat} : Keeps r (Machine.readCarry f) := by
  unfold Machine.readCarry
  refine .bind .waitReplay fun _ => .bind .me fun _ => .withState fun _ hs => ?_
  dsimp only
  split
  · exact .pure
  · refine .ite ?_ ?_
    · split
      · exact .bind (.modify fun _ h => h.gain) fun _ => .pure
      · exact .ite .trap .park
    · refine .ite .defaultEntry ?_
      split
      · next _ _ t ht => exact .bind .env fun _ => .bind (.modify fun _ _ => (hs.streamRead.of_eq ht).see.gain) fun _ => .pure
      · exact .park

/-! ### Operands by R63 -/

theorem Keeps.waitBound {f : Nat} : Keeps r (Machine.waitBound f) := .bind .me fun _ => .bind .env fun _ => .ite .park .pure

theorem Keeps.readReg {f : RegF} : Keeps r (Machine.readReg f) := by
  unfold Machine.readReg
  refine .bind .me fun _ => .ite .popPort <| .ite .readCarry ?_
  split
  · exact .bind .waitBound fun _ => .popStream
  · exact .bind .waitReg fun _ => .bind .myCore fun _ => .pure

theorem Keeps.readVal {f : RegF} : Keeps r (Machine.readVal f) := .bind .readReg fun _ => .pure

theorem Keeps.writeReg {f : RegF} {v : TVal} : Keeps r (Machine.writeReg f v) := by
  unfold Machine.writeReg
  refine .bind .me fun _ => .bind .env fun _ => ?_
  refine .ite ?_ ?_
  · refine .bind .modMe fun _ => ?_
    split
    · exact .modify fun _ h => h.lateStore
    · exact .pure
    · refine .ite .sendPort ?_
      split
      · exact .bind .waitBound fun _ => .appendStream
      · exact .bind .waitReg fun _ => .modMyCore fun _ hk => hk.writeReg
  · split
    · exact .modify fun _ h => h.lateStore
    · exact .pure
    · refine .ite .sendPort ?_
      split
      · exact .bind .waitBound fun _ => .appendStream
      · exact .bind .waitReg fun _ => .modMyCore fun _ hk => hk.writeReg

theorem Keeps.writeInt {f : RegF} {w : Word} : Keeps r (Machine.writeInt f w) := .writeReg

theorem Keeps.readyDest {f : RegF} : Keeps r (Machine.readyDest f) := by
  unfold Machine.readyDest
  refine .bind .me fun _ => .bind .env fun _ => .ite .pure <| .ite (.bind .waitReplay fun _ => .bind .state fun _ => .ite .trap .pure) ?_
  split
  · exact .bind .waitBound fun _ => .bind .promise fun _ => .pure
  · exact .bind .waitReg fun _ => .pure

theorem Kept.deliver {rd : Nat} {app : Option (Option Append)} {v : TVal} (h : Kept r s) : Opt (Kept r) (Machine.deliver s c i rd app v) := by
  unfold Machine.deliver
  dsimp only
  split
  · exact h.lateStore
  · exact h
  · split
    · split
      · exact trivial
      · exact h.upd
    · exact h.modCore fun _ hk => hk.writeReg

end Sys2Proof.Machine
end

section
/-! PROOF. Arithmetic, branches, loads and stores keep the canonical form (O58). -/

namespace Sys2Proof.Machine

-- One proof at a time: side by side they would wait for each other, each on a thread of its own.
set_option Elab.async false

variable {r s t old : State} {k : Core} {c core i n tenant slot idx sq u g off queue uid page origin die link pair list object req size kind : Nat}
  {a d b : RegF} {p v value : Word} {x : Ctx} {pl : Place} {l : Loc} {own : BitVec 16} {op : Op} {e : Env} {f : Front}

/-! ### Operands by R63 -/

theorem Kept.run {i : Instr} {body : M Unit} (h : Kept r s) (hb : Keeps r body) : Next r (Machine.run i body s) := h.issue hb

/-! ### Shared bodies: sources in the order ra, rb, then the destination (R13, R348) -/

theorem Keeps.alu3 {f : Word → Word → Word} : Keeps r (Machine.alu3 d a b f) := .bind .readVal fun _ => .bind .readVal fun _ => .writeInt

theorem Keeps.alu2 {f : Word → Word} : Keeps r (Machine.alu2 d a f) := .bind .readVal fun _ => .writeInt

theorem Keeps.alu4 {f : Word → Word → Word → Word} : Keeps r (Machine.alu4 d a b f) :=
  .bind .readVal fun _ => .bind .readVal fun _ => .bind .readVal fun _ => .writeInt

/-! ### Immediate forms (R84, R88) -/

theorem Keeps.bodyAddpc {imm : BitVec 19} : Keeps r (Machine.bodyAddpc d imm) := .bind .env fun _ => .writeInt

theorem Keeps.bodyBfi {lo : BitVec 6} {wm1 : BitVec 5} : Keeps r (Machine.bodyBfi d a lo wm1) :=
  .bind .readVal fun _ => .bind .readVal fun _ => .writeInt

/-! ### Tags (R96, R141, R435) -/

theorem Keeps.bodySigr : Keeps r (Machine.bodySigr d a) := .bind .readReg fun _ => .writeInt

theorem Keeps.bodySigw {n : BitVec 7} : Keeps r (Machine.bodySigw d a n) := .bind .readReg fun _ => .writeReg

/-! ### Pointers (R211, R212, R375, R439) -/

theorem Kept.execSpc (h : Kept r s) : Next r (Machine.execSpc d a s) :=
  h.run (.bind .readVal fun _ => .bind .env fun _ => .bind .me fun _ => .bind .state fun _ => .writeInt)

theorem Keeps.convert {target : Nat} {src : List Nat} {f : Nat → Ctx → Word → Word} : Keeps r (Machine.convert d a target src f) :=
  .bind .readVal fun _ => .bind .env fun _ => .bind .me fun _ => .bind .state fun _ => .ite .writeInt .writeInt

/-! ### Writing a floating-point result (R134, R139, R381) -/

theorem Keeps.writeFp {value cnt : Nat} {inx : Bool} {flags : Nat} {opCounts : List Nat} : Keeps r (Machine.writeFp d value cnt inx flags opCounts) :=
  .bind .me fun _ => .ite .trap (.bind .modMe fun _ => .writeReg)

theorem Keeps.writeMask {value flags : Nat} : Keeps r (Machine.writeMask d value flags) := .bind .modMe fun _ => .writeInt

theorem Keeps.branchTo {off : Word} : Keeps r (Machine.branchTo off) := .bind .env fun _ => .modMe

theorem Keeps.condBranch {off : BitVec 12} {f : Word → Word → Bool} : Keeps r (Machine.condBranch a b off f) :=
  .bind .readVal fun _ => .bind .readVal fun _ => .ite .branchTo .pure

theorem Keeps.checkTarget {t : Word} : Keeps r (Machine.checkTarget t) := .ite .trap (.ite .trap .pure)

theorem Kept.execJr {imm : BitVec 12} (h : Kept r s) : Next r (Machine.execJr d a imm s) :=
  h.run (.bind .readVal fun _ => .bind .env fun _ => .bind .checkTarget fun _ => .bind .writeInt fun _ => .modMe)

/-! ### Pending requests -/

theorem Keeps.request {kind : LoadKind} {waits : Bool} : Keeps r (Machine.request d kind l waits) := by
  unfold Machine.request
  refine .bind .env fun _ => .bind .readyDest fun _ => .bind .nextSeq fun _ => .bind .me fun _ => .bind .modMe fun _ => ?_
  dsimp only
  split
  · exact .bind (.modify fun _ h => h.upd) fun _ => .ite .parkKeep .pure
  · exact .ite .parkKeep .pure

/-! ### ld -/

theorem Keeps.loadFrom {size : Size} {acq plain : Bool} : Keeps r (Machine.loadFrom d p size acq plain) := by
  unfold Machine.loadFrom
  refine .bind .resolve fun _ => .bind .boardCheck fun _ => .bind .env fun _ => ?_
  split
  · exact .ite (.bind .state fun _ => .bind .me fun _ => .writeInt) (.bind .raiseCnt fun _ => .request)
  · exact .ite (.bind .readAs fun _ => .writeInt) (.bind .raiseCnt fun _ => .request)

theorem Keeps.loadPtr {size : Size} {imm : BitVec 7} : Keeps r (Machine.loadPtr a size imm) := .bind .readVal fun _ => .pure

theorem Keeps.bodyLd {size : Size} {ord : LdOrd} {imm : BitVec 7} : Keeps r (Machine.bodyLd d a size ord imm) := .bind .loadPtr fun _ => .loadFrom

/-! ### Refused stores (R319) -/

theorem Kept.recordRefusal {e : JEntry} {rsn : Nat} (h : Kept r s) : Kept r (Machine.recordRefusal s core e rsn) := by
  unfold Machine.recordRefusal
  refine h.bump.modCore fun _ hk => ?_
  split
  · exact hk.upd
  · exact .ite hk.upd hk

theorem Keeps.refuseStore {rsn : Nat} : Keeps r (Machine.refuseStore l v rsn) :=
  .bind .env fun _ => .bind .me fun _ => .bind .draw fun _ => .modify fun _ h => h.recordRefusal

/-! ### st -/

theorem Keeps.storeBody {x : RegF} {size : Size} {ord : StOrd} {imm : BitVec 7} : Keeps r (Machine.storeBody x a size ord imm) :=
  .bind .readVal fun _ => .bind .readVal fun _ => .bind .resolve fun _ => .bind .boardCheck fun _ => .bind .raiseCnt fun _ => .bind .me fun _ =>
    .bind .env fun _ => .ite .park (.ite .journalStore (.ite .journalStore (.ite (.bind .waitPerformed fun _ => .bind .state fun _ => .bind .me fun _ =>
    .ite (.bind .refuseStore fun _ => .modMe) (.bind .storeNow fun _ => .modMe)) .bufferStore)))

/-! ### ldt, stt (R142 to R144) -/

theorem Keeps.resolveTag {a : Word} : Keeps r (Machine.resolveTag a op) := .bind .me fun _ => .bind .resolve fun _ => .ite .trap .pure

theorem Kept.execLdt {imm : BitVec 7} (h : Kept r s) : Next r (Machine.execLdt d a imm s) :=
  h.run (.bind .readVal fun _ => .bind .resolve fun _ => .bind .resolveTag fun _ => .bind .boardCheck fun _ => .bind .boardCheck fun _ => .bind .env fun _ =>
    .ite (.bind .classRoom fun _ => .bind .readNow fun _ => .bind .readNow fun _ => .writeReg) (.bind .raiseCnt fun _ => .request))

theorem Kept.execStt {x : RegF} {imm : BitVec 7} (h : Kept r s) : Next r (Machine.execStt x a imm s) :=
  h.run (.bind .readVal fun _ => .bind .readReg fun _ => .bind .resolve fun _ => .bind .resolveTag fun _ => .bind .boardCheck fun _ =>
    .bind .boardCheck fun _ => .bind .raiseCnt fun _ => .bind .myCore fun _ => .ite .park (.bind .nextSeq fun _ => .bind .storePlain fun _ => .storePlain))

/-! ### Full/empty words (R238, R401, R443) -/

theorem Keeps.feStep {op : FeOp} : Keeps r (Machine.feStep op l c off v) := by
  unfold Machine.feStep
  refine .bind .env fun _ => .bind .me fun _ => .withState fun _ hs => .ite .trap <| .ite .park ?_
  refine .bind ?_ fun _ => ?_
  · refine .modify fun _ h => ?_
    split
    · exact hs.see.record.gain.modCore fun _ hk => hk.setFe
    · exact hs.see.gain
    · exact hs.see.record.modCore fun _ hk => hk.lsWriteFe
    · exact h.record.modCore fun _ hk => hk.setFe
  · exact .ite .pure (.bind .countAccess fun _ => .pure)

theorem Keeps.waitSame : Keeps r (Machine.waitSame l) := .bind .mustFollow fun _ => .bind .me fun _ => .bind .myCore fun _ => .ite .park .pure

theorem Keeps.feBody {op : FeOp} {imm : BitVec 7} : Keeps r (Machine.feBody op d a imm) := by
  unfold Machine.feBody
  refine .bind .readVal fun _ => ?_
  refine .ite ?_ ?_
  · refine .bind .readVal fun _ => .bind .resolve fun _ => .bind .boardCheck fun _ => ?_
    refine .ite ?_ ?_
    · refine .bind .waitPerformed fun _ => ?_
      split
      · refine .bind .env fun _ => ?_
        split
        · exact .bind .me fun _ => .ite (.bind .classRoom fun _ => .bind .feStep fun _ => .writeInt) (.bind .raiseCnt fun _ => .bind .waitReg fun _ =>
            .bind .feStep fun _ => .request)
        · exact .bind .me fun _ => .ite (.bind .classRoom fun _ => .bind .feStep fun _ => .writeInt) (.bind .raiseCnt fun _ => .bind .waitReg fun _ =>
            .bind .feStep fun _ => .request)
        · exact .bind .raiseCnt fun _ => .bind .state fun _ => .bind .me fun _ => .ite (.bind .refuseStore fun _ => .modMe) (.bind .feStep fun _ => .modMe)
        · exact .bind .raiseCnt fun _ => .bind .state fun _ => .bind .me fun _ => .ite (.bind .refuseStore fun _ => .modMe) (.bind .feStep fun _ => .modMe)
      · exact .pure
    · refine .bind .waitSame fun _ => ?_
      split
      · refine .bind .env fun _ => ?_
        split
        · exact .bind .me fun _ => .ite (.bind .classRoom fun _ => .bind .feStep fun _ => .writeInt) (.bind .raiseCnt fun _ => .bind .waitReg fun _ =>
            .bind .feStep fun _ => .request)
        · exact .bind .me fun _ => .ite (.bind .classRoom fun _ => .bind .feStep fun _ => .writeInt) (.bind .raiseCnt fun _ => .bind .waitReg fun _ =>
            .bind .feStep fun _ => .request)
        · exact .bind .raiseCnt fun _ => .bind .state fun _ => .bind .me fun _ => .ite (.bind .refuseStore fun _ => .modMe) (.bind .feStep fun _ => .modMe)
        · exact .bind .raiseCnt fun _ => .bind .state fun _ => .bind .me fun _ => .ite (.bind .refuseStore fun _ => .modMe) (.bind .feStep fun _ => .modMe)
      · exact .pure
  · refine .bind .pure fun _ => .bind .resolve fun _ => .bind .boardCheck fun _ => ?_
    refine .ite ?_ ?_
    · refine .bind .waitPerformed fun _ => ?_
      split
      · refine .bind .env fun _ => ?_
        split
        · exact .bind .me fun _ => .ite (.bind .classRoom fun _ => .bind .feStep fun _ => .writeInt) (.bind .raiseCnt fun _ => .bind .waitReg fun _ =>
            .bind .feStep fun _ => .request)
        · exact .bind .me fun _ => .ite (.bind .classRoom fun _ => .bind .feStep fun _ => .writeInt) (.bind .raiseCnt fun _ => .bind .waitReg fun _ =>
            .bind .feStep fun _ => .request)
        · exact .bind .raiseCnt fun _ => .bind .state fun _ => .bind .me fun _ => .ite (.bind .refuseStore fun _ => .modMe) (.bind .feStep fun _ => .modMe)
        · exact .bind .raiseCnt fun _ => .bind .state fun _ => .bind .me fun _ => .ite (.bind .refuseStore fun _ => .modMe) (.bind .feStep fun _ => .modMe)
      · exact .pure
    · refine .bind .waitSame fun _ => ?_
      split
      · refine .bind .env fun _ => ?_
        split
        · exact .bind .me fun _ => .ite (.bind .classRoom fun _ => .bind .feStep fun _ => .writeInt) (.bind .raiseCnt fun _ => .bind .waitReg fun _ =>
            .bind .feStep fun _ => .request)
        · exact .bind .me fun _ => .ite (.bind .classRoom fun _ => .bind .feStep fun _ => .writeInt) (.bind .raiseCnt fun _ => .bind .waitReg fun _ =>
            .bind .feStep fun _ => .request)
        · exact .bind .raiseCnt fun _ => .bind .state fun _ => .bind .me fun _ => .ite (.bind .refuseStore fun _ => .modMe) (.bind .feStep fun _ => .modMe)
        · exact .bind .raiseCnt fun _ => .bind .state fun _ => .bind .me fun _ => .ite (.bind .refuseStore fun _ => .modMe) (.bind .feStep fun _ => .modMe)
      · exact .pure

/-! ### amo, cas (R237, R352 to R354, R366, R367) -/

theorem Kept.atomStep {kind : LoadKind} {seq : Nat} (h : Kept r s) : Kept r (Machine.atomStep s core x kind seq pl).2 := by
  unfold Machine.atomStep
  refine Kept.gain ?_
  split
  · exact h.weakRead.see.commit
  · exact h.weakRead.see

theorem Keeps.atomBody {kind : LoadKind} : Keeps r (Machine.atomBody d p kind) := by
  unfold Machine.atomBody
  refine .bind .resolve fun _ => .bind .boardCheck fun _ => .bind .env fun _ => ?_
  refine .ite ?_ (.bind .raiseCnt fun _ => .request)
  refine .bind .classRoom fun _ => .bind .waitPerformed fun _ => .withState fun _ hs => .bind .me fun _ => ?_
  split
  · exact .stopTrap
  · exact .bind (.modify fun _ _ => hs.atomStep) fun _ => .bind .countAccess fun _ => .writeInt

theorem Keeps.bodyAmo {op : AmoOp} {scope : AScope} : Keeps r (Machine.bodyAmo op scope d a b) :=
  .bind .readVal fun _ => .bind .readVal fun _ => .bind .env fun _ => .atomBody

theorem Keeps.bodyCas {scope : AScope} : Keeps r (Machine.bodyCas scope d a b) :=
  .bind .readVal fun _ => .bind .readVal fun _ => .bind .readVal fun _ => .bind .env fun _ => .atomBody

/-! ### fence (R236, R386) -/

theorem Kept.fenced {kind : FenceKind} {p : Parties} (h : Kept r s) : Kept r (Machine.fenced kind p u s) := by
  unfold Machine.fenced
  exact .ite (Kept.modOrd (.ite (.ite h h.gain) (Kept.modOrd (.ite h h.gain)))) (.ite (.ite h h.gain) (Kept.modOrd (.ite h h.gain)))

theorem Kept.execFence {kind : FenceKind} {scope : Scope} (h : Kept r s) : Next r (Machine.execFence kind scope s) :=
  h.run (.bind .env fun _ => .bind .me fun _ => .bind .myCore fun _ => .ite (.modify fun _ h => h.fenced) .stall)

/-! ### STORE_BUFFER_COMMIT (R231 to R233) -/

theorem Kept.refuseBuffered {e : SbEntry} (h : Kept r s) : Kept r (Machine.refuseBuffered s core e) := by
  unfold Machine.refuseBuffered
  exact h.draw.dropBuffered.recordRefusal

theorem Kept.execStoreBufferCommit (h : Kept r s) : Next r (Machine.execStoreBufferCommit core idx s) := by
  unfold Machine.execStoreBufferCommit
  split
  · exact h
  · split
    · exact h
    · split
      · exact h.refuseBuffered
      · exact h.commitAt

/-! ### LOAD_REPLY (R186, R398) -/

theorem Kept.electResult {k : BitVec 32} {v : TVal} {flags : Word} (h : Kept r s) : Kept r (Machine.electResult s c i k v flags) := by
  unfold Machine.electResult
  dsimp only
  split
  · exact h
  · exact .ite h h.modSquare.upd.closeRounds

theorem Kept.markRound {k : BitVec 32} {pc : Word} {sup : Bool} (h : Kept r s) : Kept r (Machine.markRound s c i k pc sup) := by
  unfold Machine.markRound
  exact h.modSquare.modCtx

theorem Kept.retakeRound {l : LoadReq} (h : Kept r s) : Kept r (Machine.retakeRound s c i l) := by
  unfold Machine.retakeRound
  split
  · exact h.markRound
  · exact h.modCtx
  · exact h

theorem Kept.dropSusp (h : Kept r s) : Kept r (Machine.dropSusp s c i) := by
  unfold Machine.dropSusp
  exact .ite h h.modCore.modCtx

theorem Kept.leaveBar (h : Kept r s) : Kept r (Machine.leaveBar s x) := by
  unfold Machine.leaveBar
  split
  · exact h.gain
  · exact h

theorem Kept.unpark (h : Kept r s) : Kept r (Machine.unpark s c i) := by
  unfold Machine.unpark
  exact (h.leaveBar.dropSusp.modCtx.foldl fun _ _ h => h.retakeRound).upd.ready

theorem Kept.complete {l : LoadReq} {v : TVal} {counted : Bool} (h : Kept r s) : Opt (Kept r) (Machine.complete s c i l v counted) := by
  unfold Machine.complete
  refine h.modCtx.deliver.map fun _ h => ?_
  dsimp only
  split
  · exact Kept.electResult (.ite h.modCtx.endWait h)
  · exact .ite h.modCtx.endWait h

theorem Kept.failReply {l : LoadReq} {t : TrapInfo} (h : Kept r s) : Kept r (Machine.failReply s c i l t) := by
  unfold Machine.failReply
  refine .ite h.modCtx ?_
  refine .ite ?_ ?_
  · refine Kept.modCtx ?_
    refine .ite ?_ ?_
    · refine Kept.ready ?_
      split
      · exact h.modCtx.markRound
      · exact h.modCtx
    · refine .ite ?_ ?_
      · refine Kept.unpark ?_
        split
        · exact h.modCtx.markRound
        · exact h.modCtx
      · split
        · exact h.modCtx.markRound
        · exact h.modCtx
  · refine Kept.takeTrap ?_
    refine .ite ?_ ?_
    · refine Kept.ready ?_
      split
      · exact h.modCtx.markRound
      · exact h.modCtx
    · refine .ite ?_ ?_
      · refine Kept.unpark ?_
        split
        · exact h.modCtx.markRound
        · exact h.modCtx
      · split
        · exact h.modCtx.markRound
        · exact h.modCtx

/-! ### The end of a body word (R261, R317) -/

theorem Kept.advanceBody (h : Kept r s) : Kept r (Machine.advanceBody s c i) := by
  unfold Machine.advanceBody
  dsimp only
  split
  · exact h
  · refine .ite h.modCtx ?_
    refine .ite h.modCtx ?_
    split
    · exact Kept.takeTrap (.ite h.modCtx.unpark h.modCtx)
    · exact h.modCtx

theorem Kept.replayTrap {r1 : Nat} {t : TrapInfo} (h : Kept r s) : Kept r (Machine.replayTrap s c i p r1 t) := by
  unfold Machine.replayTrap
  exact (Kept.modCtx (.ite h.unpark h)).takeTrap

/-! ### Replies -/

theorem Kept.replyRead {l : LoadReq} (h : Kept r s) : Kept r (Machine.replyRead s c x l pl n).2 := h.ctxRead

theorem Kept.replyValue {l : LoadReq} (h : Kept r s) : Kept r (Machine.replyValue s core x l).2 := by
  unfold Machine.replyValue
  split
  · dsimp only
    split
    · dsimp only
      exact h
    · dsimp only
      exact h.replyRead
  · exact h.replyRead.replyRead
  · dsimp only
    exact h
  · dsimp only
    exact h
  · dsimp only
    exact h.atomStep.draw
  · dsimp only
    exact h.atomStep.draw
  · dsimp only
    exact h

theorem Kept.readWordsOf {l : LoadReq} {ps : List (Place × Word)} (h : Kept r s) : Kept r (Machine.readWordsOf core x l ps s).2 := by
  induction ps generalizing s with
  | nil => exact h
  | cons a ps ih => exact ih h.replyRead

theorem Kept.blockDone {l : LoadReq} {b : Block} (h : Kept r s) : Opt (Kept r) (Machine.blockDone s core slot x l b) := by
  unfold Machine.blockDone
  exact (Kept.complete (.ite h.readWordsOf.modCtx.bump h.readWordsOf.modCtx)).map fun _ h => .ite (h.foldl fun _ _ h => h.lateStore).advanceBody (h.foldl fun _ _ h => h.lateStore)

theorem Kept.blockFault {l : LoadReq} {t : TrapInfo} (h : Kept r s) : Kept r (Machine.blockFault s core slot x l t) := by
  unfold Machine.blockFault
  split
  · exact h.modCtx.replayTrap
  · exact h.failReply

theorem Kept.execLoadReply (h : Kept r s) : Next r (Machine.execLoadReply core slot idx s) := by
  unfold Machine.execLoadReply
  dsimp only
  split
  · exact h
  · split
    · exact h
    · split
      · exact h.blockFault.draw
      · split
        · exact (h.blockDone.getD h)
        · exact (h.replyValue.complete.getD h)

/-! ### Lanes (R110, R134) -/

theorem Keeps.fpResult {t : FpType} {ops : List TVal} {f : Mode → Nat → Lane} : Keeps r (Machine.fpResult t d ops f) := .bind .me fun _ => .writeFp

theorem Keeps.fp2 {t : FpType} {f : Fmt → Mode → Opd → Opd → Lane} : Keeps r (Machine.fp2 t d a b f) :=
  .bind .readReg fun _ => .bind .readReg fun _ => .fpResult

theorem Keeps.fp1 {t : FpType} {f : Fmt → Mode → Opd → Lane} : Keeps r (Machine.fp1 t d a f) := .bind .readReg fun _ => .fpResult

theorem Keeps.fp3 {t : FpType} {f : Fmt →   Mode →     Opd → Opd → Opd → Lane} : Keeps r (Machine.fp3 t d a b f) :=
  .bind .readReg fun _ => .bind .readReg fun _ => .bind .readReg fun _ => .fpResult

theorem Keeps.signOp {t : FpType} {g : Nat → Nat → Nat} : Keeps r (Machine.signOp t d a g) := .fp1

theorem Keeps.bodyFcmp {t : FpType} : Keeps r (Machine.bodyFcmp t d a b) := .bind .readReg fun _ => .bind .readReg fun _ => .writeMask

theorem Keeps.bodyFcls {t : FpType} : Keeps r (Machine.bodyFcls t d a) := .bind .readReg fun _ => .writeMask

/-! ### Conversions (R95, R116 to R119, R135) -/

theorem Keeps.bodyFcvt {dst src : FpFmt} {rnd : Rnd} : Keeps r (Machine.bodyFcvt dst src rnd d a) :=
  .bind .readReg fun _ => .bind .me fun _ => .writeFp

theorem Keeps.bodyFcvi {dst : IntFmt} {src : FpFmt} {rnd : Rnd} : Keeps r (Machine.bodyFcvi dst src rnd d a) :=
  .bind .readReg fun _ => .bind .me fun _ => .bind .modMe fun _ => .writeInt

theorem Keeps.bodyIcvf {dst : FpFmt} {src : IntFmt} {rnd : Rnd} : Keeps r (Machine.bodyIcvf dst src rnd d a) :=
  .bind .readReg fun _ => .bind .me fun _ => .bind .modMe fun _ => .writeReg

/-! ### XS9 scales (R122, R125) -/

theorem Keeps.bodyFscl : Keeps r (Machine.bodyFscl d a b) := .bind .readReg fun _ => .bind .readReg fun _ => .bind .me fun _ => .writeFp

/-! ### qblk (R126 to R128, R419) -/

theorem Keeps.checkWords : Keeps r (Machine.checkWords p n) := by
  induction n generalizing p with
  | zero => exact .pure
  | succ n ih => exact .bind .resolve fun _ => .bind .boardCheck fun _ => .bind ih fun _ => .pure

theorem Keeps.checkBytes : Keeps r (Machine.checkBytes p n) := by
  induction n generalizing p with
  | zero => exact .pure
  | succ n ih => exact .bind .resolve fun _ => .bind .boardCheck fun _ => .bind ih fun _ => .pure

theorem Keeps.readLocs {ls : List Loc} : Keeps r (Machine.readLocs ls) := by
  induction ls with
  | nil => exact .pure
  | cons a ls ih => exact .bind .readNow fun _ => .bind ih fun _ => .pure

theorem Keeps.blockRoom {outs : List Loc} : Keeps r (Machine.blockRoom outs) :=
  .bind .me fun _ => .bind .myCore fun _ => .ite .park (.ite .park .modMe)

theorem Keeps.blockRequest {q : Nat} {srcs outs : List Loc} {vals : List Nat} : Keeps r (Machine.blockRequest d q srcs outs vals) :=
  .bind .env fun _ => .bind .readyDest fun _ => .bind .nextSeq fun _ => .bind .me fun _ => .bind .modMe fun _ => .ite .parkKeep .pure

theorem Keeps.qblk {q : Nat} : Keeps r (Machine.qblk d a b q n) :=
  .bind .readVal fun _ => .bind .readVal fun _ => .bind .checkWords fun _ => .bind .checkBytes fun _ => .bind .raiseCnt fun _ => .bind .blockRoom fun _ =>
    .bind .env fun _ => .ite (.bind .readLocs fun _ => .blockRequest) (.bind .pure fun _ => .blockRequest)

end Sys2Proof.Machine
end

section
/-! PROOF. Contexts, landing and synchronisation keep the canonical form (O58). -/

namespace Sys2Proof.Machine

-- One proof at a time: side by side they would wait for each other, each on a thread of its own.
set_option Elab.async false

variable {r s t old : State} {k : Core} {c core i n tenant slot idx sq u g off queue uid page origin die link pair list object req size kind : Nat}
  {a d b : RegF} {p v value : Word} {x : Ctx} {pl : Place} {l : Loc} {own : BitVec 16} {op : Op} {e : Env} {f : Front}

/-! ### Allocation (R70, R78) -/

theorem Kept.startFold (h : Kept r s) : Kept r (Machine.startFold s c) := h.modCore fun _ hk => .ite hk hk.upd

theorem Kept.takeGen {w : Stall} (h : Kept r s) : Opt (fun t => Kept r t.2) (Machine.takeGen s c w) := by
  unfold Machine.takeGen
  split
  · trivial
  · refine Opt.of_map fun g => ?_
    dsimp only
    exact h.modCore

theorem Kept.stall {who : Stall} (h : Kept r s) : Kept r (Machine.stall s c n who) := by
  unfold Machine.stall
  exact .ite h.modCore.startFold h.modCore

theorem Keeps.allocGen : Keeps r Machine.allocGen := by
  intro e s h
  unfold Machine.allocGen
  dsimp only
  split
  · next ht => exact h.takeGen.of_eq ht
  · exact fun _ h => h.stall

/-! ### A new context (R150, R309, R358) -/

theorem Kept.placeCtx (h : Kept r s) : Kept r (Machine.placeCtx s c i x) := by
  unfold Machine.placeCtx
  exact .ite h.setCtx.modCore h.setCtx

theorem Keeps.ctxnewBody : Keeps r (Machine.ctxnewBody d a) := by
  unfold Machine.ctxnewBody
  refine .bind .readVal fun _ => .bind .env fun _ => .bind .me fun _ => .ite .trap <| .ite .trap <| .bind .loadBlock fun _ => ?_
  refine .ite ?_ ?_
  · refine .bind .pure fun _ => .bind .loadWords fun _ => .withState fun _ hs => ?_
    split
    · exact .writeInt
    · refine .ite .writeInt ?_
      refine .ite .writeInt ?_
      dsimp only
      split
      · exact .bind .allocGen fun _ => .withState fun _ hs => .bind (.modify fun _ _ => hs.fresh.placeCtx) fun _ => .writeInt
      · exact .writeInt
  · refine .bind .loadNow fun _ => .bind .loadWords fun _ => .withState fun _ hs => ?_
    split
    · exact .writeInt
    · refine .ite .writeInt ?_
      refine .ite .writeInt ?_
      dsimp only
      split
      · exact .bind .allocGen fun _ => .withState fun _ hs => .bind (.modify fun _ _ => hs.fresh.placeCtx) fun _ => .writeInt
      · exact .writeInt

/-! ### Failure records raised at an instruction (R318, R319) -/

theorem Keeps.raisePending {c q st : Bool} : Keeps r (Machine.raisePending c q st) := by
  unfold Machine.raisePending
  refine .bind .me fun _ => .bind .myCore fun _ => .bind .env fun _ => .ite .trap <| .ite .trap ?_
  split
  · exact .trap
  · exact .pure

theorem Keeps.waitDrained : Keeps r (Machine.waitDrained) := .bind .me fun _ => .ite .pure .park

/-! ### The end of a landing (R148, R163, R166) -/

theorem Kept.endLanding (h : Kept r s) : Kept r (Machine.endLanding s c i) := by
  unfold Machine.endLanding
  exact h.leaveElections.endInline.modCtx.modCore fun _ hk => hk.upd.dropJrec.upd

/-! ### Publication (R171, R173, R243) -/

theorem Kept.publish {run item : Nat} {vs : List (Nat × TVal)} (h : Kept r s) : Kept r (Machine.publish s run item vs) := h.modRun

theorem Kept.publishBy {run item : Nat} {vs : List (Nat × TVal)} (h : Kept r s) : Kept r (Machine.publishBy s uid run item vs) := h.publish.modOrd

theorem Keeps.slotValue {j : Nat} : Keeps r (Machine.slotValue x j) := by
  unfold Machine.slotValue
  split
  · exact .readReg
  · exact .pure

theorem Keeps.slotValues {l : List Nat} : Keeps r (Machine.slotValues x l) := by
  induction l with
  | nil => exact .pure
  | cons a l ih => exact .bind .slotValue fun _ => .bind ih fun _ => .pure

/-! ### ctxkill (R151) -/

theorem Keeps.ctxkillBody : Keeps r (Machine.ctxkillBody a) :=
  .bind .readVal fun _ => .bind .env fun _ => .bind .me fun _ => .bind .myCore fun _ => .ite .pure (.ite .trap (.modify fun _ h => h.endCtx))

/-! ### CONTEXT_DRAIN_END (R148, R189) -/

theorem Kept.clearSems (h : Kept r s) : Kept r (Machine.clearSems s c tenant) := by
  unfold Machine.clearSems
  exact .ite h h.modCore.modOrd

theorem Kept.freeCtx (h : Kept r s) : Kept r (Machine.freeCtx s c i) := by
  unfold Machine.freeCtx
  exact h.setCtx.clearSems

/-! ### The overflow rings (R196): dispatcher accesses under the tenant's tables (R217) -/

theorem Kept.sysWrite (h : Kept r s) : Opt (Kept r) (Machine.sysWrite s tenant p v) := by
  unfold Machine.sysWrite
  split
  · exact h.commit
  · exact trivial

theorem Kept.sysWrites {l : List Word} (h : Kept r s) : Opt (Kept r) (Machine.sysWrites tenant p l s) := by
  induction l generalizing p s with
  | nil => exact h
  | cons v l ih => exact h.sysWrite.bind fun _ h => ih h

theorem Kept.ringTail {base t : Word} (h : Kept r s) : Opt (Kept r) (Machine.ringTail s tenant base t f) := by
  unfold Machine.ringTail
  split
  · exact h.commit
  · exact trivial

theorem Kept.ringAppend {base cap : Word} {words : List Word} {word8 : Word} (h : Kept r s) : Opt (Kept r) (Machine.ringAppend s tenant base cap words word8 f) := by
  unfold Machine.ringAppend
  split
  · exact trivial
  · split
    · exact trivial
    · exact h.sysWrites.bind fun _ h => h.ringTail

theorem Kept.ringTake {base : Word} (h : Kept r s) : Opt (Kept r) (Machine.ringTake s tenant base) := by
  unfold Machine.ringTake
  split
  · exact h.commit
  · exact trivial

/-! ### Delivery (R162) -/

theorem Kept.enqueueRecord {sh : Shipment} (h : Kept r s) : Kept r (Machine.enqueueRecord s sh) := h.modCore

theorem Kept.deliverRecord {sh : Shipment} (h : Kept r s) : Opt (fun t => Kept r t.2) (Machine.deliverRecord s sh) := by
  unfold Machine.deliverRecord
  split
  · exact h.enqueueRecord
  · split
    · trivial
    · split
      · trivial
      · refine h.ringAppend.map fun t h => ?_
        dsimp only
        exact h.modDisp

theorem Kept.execRecordArrival (h : Kept r s) : Next r (Machine.execRecordArrival idx s) := by
  unfold Machine.execRecordArrival
  split
  · exact h
  · split
    · exact h
    · exact ((h.upd.deliverRecord.map fun _ h => h).getD h)

/-! ### Landing (R163, R164, R307) -/

theorem Sound.writeRegs {l : List TVal} (h : Sound k) : Sound (Machine.writeRegs x l n k) := by
  induction l generalizing n k with
  | nil => exact h
  | cons v l ih => exact ih h.writeReg

theorem Kept.land {sh : Shipment} (h : Kept r s) : Kept r (Machine.land s core n sh i) := by
  unfold Machine.land
  split
  · exact h.stall
  · next _ t ht => exact (h.takeGen.of_eq ht).fresh.gain.modCore.setCtx.modCore fun _ hk => hk.writeRegs.upd

theorem Kept.execLanding (h : Kept r s) : Next r (Machine.execLanding core s) := by
  unfold Machine.execLanding
  split
  · exact h.land
  · exact h

/-! ### go (R166, R393) -/

theorem Keeps.landingEnd : Keeps r (Machine.landingEnd) := .bind .waitDrained fun _ => .bind .raisePending fun _ => .waitPerformed

theorem Keeps.goGlobal : Keeps r (Machine.goGlobal p op) := by
  unfold Machine.goGlobal
  refine .bind .translate fun (pl, _) => ?_
  dsimp only
  split
  · exact .pure
  · exact .bind .draw fun _ => .pure

theorem Keeps.shipAndEnd {dest : Nat} {pc : Word} : Keeps r (Machine.shipAndEnd dest pc) :=
  .bind .env fun _ => .bind .me fun _ => .bind .myCore fun _ => .bind .state fun _ => .ite (.modify fun _ h => h.upd.endLanding) (.bind .modMe fun _ => .parkKeep)

theorem Keeps.goLanding : Keeps r (Machine.goLanding p) := by
  unfold Machine.goLanding
  refine .bind .env fun _ => .bind .state fun _ => .bind .me fun _ => .bind .landingEnd fun _ => ?_
  refine .ite ?_ ?_
  · split
    · exact .stopTrap
    · exact .bind .goGlobal fun _ => .shipAndEnd
  · split
    · exact .stopTrap
    · exact .shipAndEnd

theorem Keeps.handOn {w : List Word} {front : Front} : Keeps r (Machine.handOn w front) := by
  unfold Machine.handOn
  refine .bind .env fun _ => .bind .me fun _ => .withState fun _ hs => ?_
  dsimp only
  split
  · next t ht => exact .modify fun _ _ => (hs.deliverRecord.of_eq ht).modCtx
  · next _ t ht => exact .bind (.modify fun _ _ => (hs.deliverRecord.of_eq ht).modCtx) fun _ => .parkKeep
  · exact .bind .modMe fun _ => .parkKeep

theorem Keeps.takeRecord : Keeps r (Machine.takeRecord p) := by
  unfold Machine.takeRecord
  refine .bind .resolve fun _ => .bind .boardCheck fun _ => .bind .waitPerformed fun _ => .bind .env fun _ => .bind .me fun _ => .withState fun _ hs => ?_
  split
  · exact .stopTrap
  · exact .ite .trap (.ite .trap (.ite .trap (.ite .trap (.bind (.modify fun _ _ => hs.see.commit.gain) fun _ => .bind .countAccess fun _ => .handOn))))

theorem Keeps.goTake : Keeps r (Machine.goTake p) := by
  unfold Machine.goTake
  refine .bind .env fun _ => .bind .me fun _ => .bind .state fun _ => ?_
  split
  · exact .ite .takeRecord (.ite .parkKeep .modMe)
  · exact .ite .handOn (.bind (.modify fun _ h => h.upd) fun _ => .takeRecord)
  · exact .takeRecord

/-! ### ld.go (R168, R400) -/

theorem Kept.execLdGo {size : Size} {imm : BitVec 7} (h : Kept r s) : Next r (Machine.execLdGo d a size imm s) :=
  h.run (.bind .loadPtr fun _ => .bind .me fun _ => .bind .env fun _ => .ite .loadFrom (.bind .resolve fun _ => .ite .loadFrom (.bind .landingEnd fun _ =>
    .bind .goGlobal fun _ => .shipAndEnd)))

/-! ### susp (R446) -/

theorem Keeps.needLanding : Keeps r (Machine.needLanding) := .bind .me fun _ => .ite .pure .illegal

theorem Keeps.recordTarget : Keeps r (Machine.recordTarget l) := by
  unfold Machine.recordTarget
  refine .bind .state fun _ => .bind .me fun _ => ?_
  split
  · exact .ite .trap (.ite .trap .pure)
  · exact .pure

theorem Kept.writeRecord {w : List Word} (h : Kept r s) : Kept r (Machine.writeRecord s core x pl w) := h.foldl fun _ _ h => h.commit

theorem Keeps.journalRecord {w : List Word} {js : List Nat} : Keeps r (Machine.journalRecord l w js) := by
  induction js with
  | nil => exact .pure
  | cons j js ih => exact .bind .raiseCnt fun _ => .bind .journalStore fun _ => ih

theorem Kept.execSusp (h : Kept r s) : Next r (Machine.execSusp a s) :=
  h.run (.bind .needLanding fun _ => .bind .env fun _ => .bind .readVal fun _ => .bind .landingEnd fun _ => .bind .resolve fun _ =>
    .bind .recordTarget fun _ => .bind .boardCheck fun _ => .bind .myCore fun _ => .bind .me fun _ => .ite (.ite .park (.bind .journalRecord fun _ =>
    .bind .modMe fun _ => .parkKeep)) (.bind (.modify fun _ h => h.writeRecord) fun _ => .bind .countAccess fun _ => .modify fun _ h => h.endLanding))

/-! ### POSTED_STORE_ACCEPT (R244, R319, R446) -/

theorem Kept.suspEnds {e : JEntry} (h : Kept r s) : Kept r (Machine.suspEnds s core e) := .ite h.endLanding h

theorem Kept.suspFails {e : JEntry} (h : Kept r s) : Kept r (Machine.suspFails s core e) := .ite h.dropSusp.modCtx h

theorem Kept.execPostedStoreAccept {answer : Nat} (h : Kept r s) : Next r (Machine.execPostedStoreAccept core idx answer s) := by
  unfold Machine.execPostedStoreAccept
  split
  · exact h
  · split
    · exact h
    · dsimp only
      split
      · exact (Kept.commit (.ite h.modCore h.modCore.lowerS)).suspEnds
      · exact (Kept.suspFails (.ite h.modCore h.modCore.lowerS)).recordRefusal

/-! ### hold (R166, R167, R394) -/

theorem Kept.execHold (h : Kept r s) : Next r (Machine.execHold a s) := by
  unfold Machine.execHold
  refine h.run ?_
  refine .bind .needLanding fun _ => .bind .readVal fun _ => .bind .env fun _ => .bind .me fun _ => .bind .landingEnd fun _ => .bind .state fun _ => ?_
  split
  · exact .stopTrap
  · exact .trap
  · exact .trap
  · exact .trap
  · refine .bind .resolve fun _ => .bind .recordTarget fun _ => .bind .boardCheck fun _ => ?_
    split
    · exact .bind .state fun _ => .ite .trap (.ite .trap (.ite .park (.bind .myCore fun _ => .bind (.modify fun _ h => h.writeRecord.modCore) fun _ =>
        .bind .countAccess fun _ => .modify fun _ h => h.endLanding)))
    · exact .pure

theorem Kept.holdSend (h : Kept r s) : Kept r (Machine.holdSend s core idx) := by
  unfold Machine.holdSend
  dsimp only
  split
  · exact h
  · refine .ite h.modCore ?_
    split
    · exact h.modCore
    · next _ t ht => exact (h.draw.deliverRecord.of_eq ht).modCore fun _ hk => hk.setFe.upd.upd

/-! ### Retries (R162) -/

theorem Kept.goDone (h : Kept r s) : Kept r (Machine.goDone s c i) := h.modCtx.endWait

theorem Kept.execGoDeliveryRetry (h : Kept r s) : Next r (Machine.execGoDeliveryRetry core slot s) := by
  unfold Machine.execGoDeliveryRetry
  dsimp only
  split
  · exact h
  · exact h
  · split
    · exact .ite h.upd.endLanding h
    · split
      · next t ht => exact (h.deliverRecord.of_eq ht).goDone
      · next _ t ht => exact (h.deliverRecord.of_eq ht).modCtx
      · exact h

theorem Kept.ringLeft (h : Kept r s) : Kept r (Machine.ringLeft s tenant n) := by
  unfold Machine.ringLeft
  exact h.modDisp.foldl fun _ _ h => h.goDone

theorem Kept.execLandingRingRedelivery (h : Kept r s) : Next r (Machine.execLandingRingRedelivery tenant s) := by
  unfold Machine.execLandingRingRedelivery
  split
  · exact h
  · split
    · exact h
    · dsimp only
      split
      · exact h
      · split
        · exact h
        · next t ht => exact (h.ringTake.of_eq ht).enqueueRecord.ringLeft

/-! ### wait (R187, R450) -/

theorem Kept.waited {c m q : Bool} (h : Kept r s) : Kept r (Machine.waited u c m q s) := by
  unfold Machine.waited
  exact h.gain

theorem Keeps.waitBody {l s0 c m q : BitVec 5} : Keeps r (Machine.waitBody l s0 c m q) :=
  .bind .raisePending fun _ => .bind .me fun _ => .ite (.modify fun _ h => h.waited) .park

/-! ### bar, barw (R191, R358, R359) -/

theorem Kept.arrive (h : Kept r s) : Kept r (Machine.arrive s c i g n) := by
  unfold Machine.arrive
  dsimp only
  split
  · exact h
  · exact h.gain.joinChan.modCtx.modGang.completeBar

theorem Keeps.barBody : Keeps r (Machine.barBody n) := by
  unfold Machine.barBody
  refine .bind .me fun _ => .bind .env fun _ => .ite .trap ?_
  split
  · exact .modMe
  · exact .pure
  · exact .bind .state fun _ => .ite .park (.modify fun _ h => h.arrive)

theorem Keeps.barwBody : Keeps r (Machine.barwBody n) := by
  unfold Machine.barwBody
  refine .bind .me fun _ => .ite .trap ?_
  split
  · exact .bind .state fun _ => .ite .park (.bind (.modify fun _ h => h.gain) fun _ => .modMe)
  · exact .pure

/-! ### semp, semv (R189, R190, R432) -/

theorem Kept.semGain {key : Nat} (h : Kept r s) : Kept r (Machine.semGain core key uid s) := h.gain

theorem Keeps.sempBody : Keeps r (Machine.sempBody n) :=
  .bind .env fun _ => .bind .me fun _ => .bind .myCore fun _ => .ite .park (.bind (.modify fun _ h => h.semGain) fun _ => .modMyCore)

theorem Kept.grantSem {key : Nat} (h : Kept r s) : Kept r (Machine.grantSem s c i key) := h.modCtx.semGain.endWait

theorem Keeps.semvBody : Keeps r (Machine.semvBody n) := by
  unfold Machine.semvBody
  refine .bind .waitPerformed fun _ => .bind .env fun _ => .bind .me fun _ => .bind .myCore fun _ => .bind (.modify fun _ h => h.joinChan) fun _ => ?_
  split
  · exact .modify fun _ h => h.grantSem
  · exact .modMyCore

/-! ### pass (R171, R416) -/

theorem Keeps.passBody {m : Nat} : Keeps r (Machine.passBody m) :=
  .bind .me fun _ => .bind .env fun _ => .ite .trap (.bind .slotValues fun _ => .bind .state fun _ => .ite .trap (.bind .waitPerformed fun _ =>
    .modify fun _ h => h.publishBy))

/-! ### take, TAKE_ANSWER (R203, R204, R447) -/

theorem Keeps.bodyTake : Keeps r (Machine.bodyTake d) := .bind .env fun _ => .bind .me fun _ => .request

theorem Kept.execTakeAnswer (h : Kept r s) : Next r (Machine.execTakeAnswer idx s) := by
  unfold Machine.execTakeAnswer
  split
  · exact h
  · split
    · exact h
    · dsimp only
      split
      · exact h.upd.modRun
      · split
        · exact h.upd.failReply
        · split
          · next t ht => exact (h.upd.modRun.complete.of_eq ht)
          · exact h

end Sys2Proof.Machine
end

section
/-! PROOF. Runs, placement and generations keep the canonical form (O58). -/

namespace Sys2Proof.Machine

-- One proof at a time: side by side they would wait for each other, each on a thread of its own.
set_option Elab.async false

variable {r s t old : State} {k : Core} {c core i n tenant slot idx sq u g off queue uid page origin die link pair list object req size kind : Nat}
  {a d b : RegF} {p v value : Word} {x : Ctx} {pl : Place} {l : Loc} {own : BitVec 16} {op : Op} {e : Env} {f : Front}

/-! ### take, TAKE_ANSWER (R203, R204, R447) -/

theorem Kept.logEvent {detail : Word} (h : Kept r s) : Kept r (Machine.logEvent s kind tenant core slot detail) := by
  unfold Machine.logEvent
  exact h.modHost

theorem Kept.interrupt {t : TrapInfo} (h : Kept r s) : Kept r (Machine.interrupt s c i t) := by
  unfold Machine.interrupt
  dsimp only
  split
  · refine Kept.takeTrap ?_
    refine .ite ?_ ?_
    · refine Kept.unpark ?_
      split
      · exact h.modCtx
      · exact h
    · split
      · exact h.modCtx
      · exact h
  · refine Kept.takeTrap ?_
    refine .ite ?_ ?_
    · refine Kept.unpark ?_
      split
      · exact h.modCtx
      · exact h
    · split
      · exact h.modCtx
      · exact h

theorem Kept.deliverCause {t : TrapInfo} (h : Kept r s) : Kept r (Machine.deliverCause s c i tenant t) := by
  unfold Machine.deliverCause
  refine .ite h ?_
  split
  · exact h
  · exact h
  · exact h
  · exact h.modCtx
  · exact .ite h.modCtx h.interrupt
  · exact .ite h.modCtx h.interrupt

theorem Kept.deliverHeld (h : Kept r s) : Kept r (Machine.deliverHeld s c i) := by
  unfold Machine.deliverHeld
  dsimp only
  split
  · exact h
  · exact .ite h h.modCtx.takeTrap

theorem Kept.toSupervisor {t : TrapInfo} (h : Kept r s) : Kept r (Machine.toSupervisor s tenant t) := by
  unfold Machine.toSupervisor
  split
  · exact h.deliverCause
  · exact h

theorem Kept.abortGang (h : Kept r s) : Kept r (Machine.abortGang s g) := by
  have hm : Kept r ((s.modGang g (fun y => { y with aborted := true })).modDisp (fun d => { d with saved := d.saved.map (fun v => { v with
      cores := v.cores.map (fun (c, k) => (c, { k with ctxs := k.ctxs.filter (fun (_, x) => x.gang != some g) })) }) })) := by
    refine h.modGang.modDisp fun d hd => ?_
    rw [Disp.canonical, List.all_eq_true] at hd ⊢
    intro v hv
    obtain ⟨u, hu, rfl⟩ := List.mem_map.1 hv
    have hu := hd u hu
    rw [List.all_eq_true] at hu ⊢
    intro e he
    obtain ⟨i, hi, rfl⟩ := List.mem_map.1 he
    obtain ⟨hc, hk⟩ := Sound.parts ⟨hu i hi⟩
    exact (Core.canonical_iff _).2 ⟨SMap.filter_wf _ _ _ hc, hk⟩
  exact hm.foldl fun _ _ h => .ite h.freeCtx h.endCtx

theorem Kept.abortTenant (h : Kept r s) : Kept r (Machine.abortTenant s tenant) := h.foldl fun _ _ h => h.abortGang

/-! ### Dependence and completion words (R158) -/

theorem Kept.writeDone {r1 : Run} {o : Nat} (h : Kept r s) : Opt (Kept r) (Machine.writeDone s r1 o) := by
  unfold Machine.writeDone
  dsimp only
  split
  · exact h
  · split
    · split
      · exact h.commit
      · exact h.logEvent
    · split
      · exact h.logEvent
      · split
        · exact h.logEvent
        · split
          · exact trivial
          · exact h.record.modCore fun _ hk => hk.lsWriteFe

theorem Kept.finishRun {r1 : Run} {o : Nat} (h : Kept r s) : Kept r (Machine.finishRun s r1 o) := by
  unfold Machine.finishRun
  split
  · next t ht => exact (h.writeDone.of_eq ht).modDisp
  · exact h.modRun

theorem Kept.execDoneWordRetry {run : Nat} (h : Kept r s) : Next r (Machine.execDoneWordRetry run s) := by
  unfold Machine.execDoneWordRetry
  split
  · split
    · exact h.finishRun
    · exact h
  · exact h

/-! ### Stream write-back (R180) -/

theorem Kept.sysStores {l : List (Word × Nat × Nat)} (h : Kept r s) : Kept r (Machine.sysStores tenant l s).1 := by
  induction l generalizing s with
  | nil => exact h
  | cons a l ih =>
    unfold Machine.sysStores
    split
    · exact h
    · exact ih h.commit

theorem Kept.writeBack {r1 : Run} (h : Kept r s) : Kept r (Machine.writeBack s r1).1 := by
  unfold Machine.writeBack
  dsimp only
  split
  · split
    · exact h.logEvent
    · split
      · next ht => exact (h.sysStores.fst ht).logEvent
      · next ht =>
        split
        · exact (h.sysStores.fst ht).commit
        · exact (h.sysStores.fst ht).logEvent
  · exact h.logEvent
  · exact h.logEvent

theorem Kept.execRunComplete {run : Nat} (h : Kept r s) : Next r (Machine.execRunComplete run s) := by
  unfold Machine.execRunComplete
  split
  · exact h
  · split
    · exact h
    · split
      · exact h.finishRun
      · split
        · exact h.writeBack.finishRun
        · exact h.finishRun

/-! ### Launch queues and the pending-launch store (R194, R195) -/

theorem Kept.setSlot {q : Nat} {v : LaunchSlot} (h : Kept r s) : Kept r (s.setSlot q i v) := h.modDisp

theorem Kept.setLaunchSlot {q : Nat} {v : List Word × Bool} (h : Kept r s) : Kept r (s.setLaunchSlot q i v) := h.setSlot

theorem Kept.readSlot {l : LaunchSlot} (h : Kept r s) : Kept r (s.readSlot l).2.2 := by
  unfold State.readSlot
  refine List.foldlRecOn _ _ (motive := fun q : List Word × List (Nat × Word × Nat) × State => Kept r q.2.2) h fun _ h _ _ => ?_
  dsimp only
  split
  · exact h
  · split
    · exact h.draw
    · exact h.draw

theorem Kept.nextRunId {t : Nat} (h : Kept r s) : Kept r (Machine.nextRunId s t).2 := by
  unfold Machine.nextRunId
  dsimp only
  exact h.modDisp

theorem Kept.refuseRun {q : Nat} {p : List Word} (h : Kept r s) : Kept r (Machine.refuseRun s q p) := by
  unfold Machine.refuseRun
  exact h.fresh.modDisp.finishRun

theorem Kept.enterStore {q : Nat} {p : List Word} (h : Kept r s) : Kept r (Machine.enterStore s q p f) := by
  unfold Machine.enterStore
  split
  · exact h.refuseRun
  · exact h.fresh.nextRunId.setChan.modDisp

theorem Kept.enterRest {run : Nat} (h : Kept r s) : Kept r (Machine.enterRest s run) := by
  unfold Machine.enterRest
  exact h.fresh.modRun

theorem Kept.enterFrom {q : Nat} {p : List Word} (h : Kept r s) : Kept r (Machine.enterFrom s q p f) := by
  unfold Machine.enterFrom
  split
  · exact h.enterRest
  · exact h.enterStore

theorem Kept.setRest {u : Option Word} (h : Kept r s) : Kept r (Machine.setRest s tenant n u) := h.modDisp

theorem Kept.execLaunchSlotTake (h : Kept r s) : Next r (Machine.execLaunchSlotTake queue s) := by
  unfold Machine.execLaunchSlotTake
  dsimp only
  split
  · exact h
  · split
    · exact h
    · split
      · exact h.readSlot.enterFrom.setSlot.modDisp
      · split
        · next t ht => exact (h.readSlot.ringAppend.of_eq ht).setRest.setSlot.modDisp
        · split
          · exact h.readSlot
          · exact h.readSlot.toSupervisor.modDisp

theorem Kept.execLaunchRingReturn (h : Kept r s) : Next r (Machine.execLaunchRingReturn tenant s) := by
  unfold Machine.execLaunchRingReturn
  split
  · exact h
  · split
    · exact h
    · split
      · exact h
      · dsimp only
        split
        · next t ht => exact (h.setRest.enterFrom.ringTake.of_eq ht)
        · exact h

theorem Kept.execDepWordPoll {run : Nat} (h : Kept r s) : Next r (Machine.execDepWordPoll run s) := by
  unfold Machine.execDepWordPoll
  split
  · exact h.modHost
  · split
    · exact h
    · exact h.modRun

/-! ### spawn, spawn.try, spawn.w (R200 to R202, R438) -/

theorem Kept.startInline {q : Nat} {pc : Word} {p : List Word} (h : Kept r s) : Kept r (Machine.startInline s c i q pc p) := by
  unfold Machine.startInline
  exact h.fresh.nextRunId.modDisp.modCtx

theorem Keeps.packetAt : Keeps r (Machine.packetAt p) := by
  unfold Machine.packetAt
  refine .bind .me fun _ => ?_
  split
  · exact .bind .modMe fun _ => .pure
  · exact .loadBlock

theorem Kept.keepPacket {ws : List Word} (h : Kept r s) (ht : Kept r t) : Kept r (Machine.keepPacket c i ws s t) :=
  Kept.withOrd h.modCtx ht

theorem Keeps.parkSpawn {cond : WaitCond} {ws : List Word} : Keeps r (Machine.parkSpawn list cond ws) := fun _ _ h _ hs => hs.keepPacket h

theorem Keeps.launchPacket {kind : SpawnKind} {ws : List Word} : Keeps r (Machine.launchPacket kind d ws) := by
  unfold Machine.launchPacket
  refine .bind .me fun _ => .bind .env fun _ => .bind .state fun _ => ?_
  split
  · exact .bind (.modify fun _ h => h.refuseRun) fun _ => .writeInt
  · refine .ite (.bind (.modify fun _ h => h.enterStore) fun _ => .writeInt) ?_
    split
    · exact .bind (.modify fun _ h => h.setLaunchSlot.setChan) fun _ => .writeInt
    · exact .parkSpawn
    · exact .writeInt
    · split
      · exact .bind (.modify fun _ h => h.refuseRun) fun _ => .writeInt
      · exact .ite (.modify fun _ h => h.startInline) .parkSpawn

theorem Keeps.spawnBody {kind : SpawnKind} : Keeps r (Machine.spawnBody kind d a) := by
  unfold Machine.spawnBody
  refine .bind .me fun _ => .bind .env fun _ => ?_
  split
  · exact .bind .writeInt fun _ => .modMe
  · exact .bind .readVal fun _ => .bind .packetAt fun _ => .bind .myCore fun _ => .bind .me fun _ => .ite .parkSpawn .launchPacket

/-! ### exit (R148, R173, R202, R374) -/

theorem Kept.inlineReturn {n : Inline} {v : Nat} (h : Kept r s) : Kept r (Machine.inlineReturn s c i n v) := h.modCtx

theorem Kept.restToStore {r1 : Run} (h : Kept r s) : Opt (Kept r) (Machine.restToStore s r1) := by
  unfold Machine.restToStore
  split
  · trivial
  · split
    · exact h.enterRest
    · exact Opt.of_map fun _ => h.setLaunchSlot

theorem Kept.exitInline {n : Inline} (h : Kept r s) : Kept r (Machine.exitInline s c i n) := by
  unfold Machine.exitInline
  split
  · exact h.inlineReturn
  · refine .ite h.modRun.finishRun.inlineReturn ?_
    split
    · next t ht => exact (h.modRun.restToStore.of_eq ht).inlineReturn
    · exact h.modRun.modCtx

theorem Keeps.exitBody : Keeps r (Machine.exitBody) := by
  unfold Machine.exitBody
  refine .bind .me fun _ => .bind .env fun _ => .ite .park ?_
  split
  · exact .bind .waitDrained fun _ => .modify fun _ h => h.exitInline
  · exact .ite (.bind .waitDrained fun _ => .bind .raisePending fun _ => .modify fun _ h => h.endLanding) (.bind .state fun _ =>
      .ite (.bind .slotValues fun _ => .ite (.bind (.modify fun _ h => h.publishBy) fun _ => .bind (.modify fun _ h => h.joinChan) fun _ =>
      .modify fun _ h => h.endCtx) (.bind .waitPerformed fun _ => .bind (.modify fun _ h => h.publishBy) fun _ =>
      .bind (.modify fun _ h => h.joinChan) fun _ => .modify fun _ h => h.endCtx)) (.bind (.modify fun _ h => h.joinChan) fun _ => .modify fun _ h => h.endCtx))

/-! ### Partition descriptors (R193, R165) -/

theorem Kept.addKerbCtx {t : Nat} {p : Part} {at_ : Nat × Nat} (h : Kept r s) : Opt (Kept r) (Machine.addKerbCtx t p c s at_) := by
  unfold Machine.addKerbCtx
  split
  · exact trivial
  · next _ t ht => exact (h.takeGen.of_eq ht).fresh.placeCtx.modDisp

theorem Kept.addKerb {p : Part} (h : Kept r s) : Opt (Kept r) (Machine.addKerb n p s) := by
  unfold Machine.addKerb
  dsimp only
  split
  · split
    · exact h.commit
    · exact h
  · generalize kerbCores.map _ = plans
    refine Opt.foldl ?_ fun o a h => ?_
    · exact h
    · refine h.bind fun s h => Opt.foldl ?_ fun o b h => ?_
      · exact h
      · exact h.bind fun _ h => h.addKerbCtx

theorem Kept.stallFor {who : Stall} (h : Kept r s) : Kept r (Machine.stallFor n who s c) := .ite h.stall h

theorem Kept.createKerb {t : Nat} {p : Part} (h : Kept r s) : Kept r (Machine.createKerb t p s) := by
  unfold Machine.createKerb
  dsimp only
  split
  · next t ht => exact (h.addKerb.of_eq ht).modDisp
  · exact h.modDisp.foldl fun _ _ h => h.stallFor

theorem Kept.settleKerb (h : Kept r s) : Kept r (Machine.settleKerb s) := by
  unfold Machine.settleKerb
  refine h.foldl fun _ _ h => ?_
  split
  · exact .ite h.createKerb h
  · exact h

theorem Kept.bringIn {t : Nat} (h : Kept r s) : Kept r (Machine.bringIn s t) := by
  unfold Machine.bringIn
  split
  · exact h
  · exact .ite h h.modDisp.createKerb

theorem Kept.reread (h : Kept r s) : Kept r (Machine.reread s) := by
  unfold Machine.reread
  exact h.modDisp

theorem Kept.endKerb (h : Kept r s) : Kept r (Machine.endKerb s) := by
  unfold Machine.endKerb
  exact (h.foldl fun _ _ h => h.endCtx).modDisp

/-! ### Placement (R158 step 3, R64, R152, R210) -/

theorem Kept.addRegion {len : Nat} {trap : Bool} {gang run : Nat} (h : Kept r s) : Opt (Kept r) (Machine.addRegion s c off len trap gang tenant run) := by
  unfold Machine.addRegion
  split
  · exact trivial
  · next _ t ht => exact (h.takeGen.of_eq ht).modCore

theorem Kept.addCtxs {q : Run} {index col row : Nat} {l : List ((Nat × Pin × Bool) × Nat × Nat)} (h : Kept r s) :
    Opt (Kept r) (Machine.addCtxs q g index c col row l s) := by
  induction l generalizing s with
  | nil => exact h
  | cons a l ih =>
    unfold Machine.addCtxs
    split
    · trivial
    · next ht => exact ih (h.takeGen.of_eq ht).fresh.placeCtx.gain

theorem Kept.placeCore {q : Run} {index : Nat} {at_ : Nat × Nat × Nat} (h : Kept r s) : Opt (Kept r) (Machine.placeCore q g index s at_) := by
  unfold Machine.placeCore
  dsimp only
  split
  · trivial
  · refine Opt.map (Opt.bind (p := Kept r) ?_ fun _ h => h.addCtxs) fun _ h => ?_
    · split
      · exact h
      · exact h.addRegion
    · exact .ite h.modCore.modCore h

theorem Kept.placeGang {q : Run} (h : Kept r s) : Opt (Kept r) (Machine.placeGang s q origin) := by
  unfold Machine.placeGang
  dsimp only
  refine Opt.map (p := Kept r) (Opt.foldl ?_ fun _ _ h => h.bind fun _ h => h.placeCore) fun _ h => h.modRun
  rw [Opt.some_iff]
  exact h.fresh.modDisp

theorem Kept.stallPlace {r1 : Run} (h : Kept r s) : Kept r (Machine.stallPlace s r1 origin) := h.modDisp.foldl fun _ _ h => h.stallFor

/-! ### One dispatch decision (R197, R199) -/

theorem Kept.countFails {t : Nat} {placed : Option Nat} (h : Kept r s) : Kept r (Machine.countFails s t placed) := by
  unfold Machine.countFails
  exact h.modDisp

theorem Kept.placeOrStall {t : Nat} {r1 : Run} (h : Kept r s) : Kept r (Machine.placeOrStall s t r1 origin) := by
  unfold Machine.placeOrStall
  split
  · next t ht => exact (h.countFails.placeGang.of_eq ht).modDisp
  · exact h.countFails.stallPlace

theorem Kept.decide1 {t : Nat} (h : Kept r s) : Kept r (Machine.decide1 s t) := by
  unfold Machine.decide1
  dsimp only
  split
  · exact h.modDisp.placeOrStall
  · split
    · exact h.modDisp.modDisp.countFails
    · split
      · exact h.modDisp.modDisp.countFails
      · exact h.modDisp.modDisp.placeOrStall

theorem Kept.execRunBlock {run : Nat} (h : Kept r s) : Next r (Machine.execRunBlock run s) := by
  unfold Machine.execRunBlock
  split
  · exact .ite h.modRun h
  · exact h

/-! ### The end of a fill (R64, R66) -/

theorem Kept.endFill {m : Img} {fill : List (Nat × TVal)} {at_ : Nat × Nat × Ctx} (h : Kept r s) : Kept r (Machine.endFill m fill s at_) :=
  .ite h.modCtx.modCtx h.modCtx.ready.deliverHeld

theorem Kept.execGangFillEnd {gang : Nat} (h : Kept r s) : Next r (Machine.execGangFillEnd gang s) := by
  unfold Machine.execGangFillEnd
  split
  · exact h
  · split
    · exact h
    · dsimp only
      split
      · exact h.modGang.foldl fun _ _ h => h.endFill
      · exact h.modGang.abortGang

/-! ### Retirement (R153, R169, R394) -/

theorem Kept.dropRegions (h : Kept r s) : Kept r (Machine.dropRegions s c g) := h.modCore fun _ hk => hk.upd.upd

theorem Kept.dropPair (h : Kept r s) : Kept r (Machine.dropPair s c) := by
  unfold Machine.dropPair
  dsimp only
  split
  · exact h
  · exact .ite h h.modCore.modCore

theorem Kept.dropEmpty {f : Nat × Square → Option (Nat × Square)} (h : Kept r s) (hf : ∀ e e', f e = some e' → e'.1 = e.1 ∧ e'.2 ≠ Square.reset) :
    Kept r { s with squares := s.squares.filterMap f } := by
  refine ⟨fun hr => ?_, h.2⟩
  obtain ⟨h1, h2, h3, h4, h5⟩ := (State.canonical_iff s).1 (h.1 hr)
  exact (State.canonical_iff _).2 ⟨h1, h2, h3, SMap.filterMap_wf hf h4, h5⟩

theorem Kept.execGangRetire {gang : Nat} (h : Kept r s) : Next r (Machine.execGangRetire gang s) := by
  unfold Machine.execGangRetire
  split
  · exact h
  · split
    · exact h
    · exact Kept.dropEmpty (Kept.modDisp (Kept.modRun (Kept.foldl (Kept.foldl h fun _ _ h => h.freeCtx) fun _ _ h => h.dropRegions.dropPair)))
        fun _ _ => entry_of_ite

theorem Kept.execStreamEntryReread (h : Kept r s) : Next r (Machine.execStreamEntryReread core slot s) := by
  unfold Machine.execStreamEntryReread
  dsimp only
  split
  · exact .ite h.ready h
  · exact h

/-! ### The all-asleep trap (R205, R206) -/

theorem Kept.execAllAsleepSample (h : Kept r s) : Next r (Machine.execAllAsleepSample tenant s) := by
  unfold Machine.execAllAsleepSample
  split
  · exact h
  · split
    · exact h.modDisp
    · split
      · exact h.modDisp
      · split
        · exact h
        · exact h.bump.toSupervisor.modDisp

/-! ### gnew (R389) -/

theorem Keeps.gnewBody {trap : Bool} : Keeps r (Machine.gnewBody trap d a b) :=
  .bind .readVal fun _ => .bind .readVal fun _ => .bind .env fun _ => .bind .me fun _ => .bind .myCore fun _ =>
    .ite .writeInt (.ite .writeInt (.ite .writeInt (.bind .allocGen fun _ => .bind .modMyCore fun _ => .writeInt)))

/-! ### gfree (R390) -/

theorem Keeps.gfreeBody : Keeps r (Machine.gfreeBody a) := by
  unfold Machine.gfreeBody
  refine .bind .readVal fun _ => .bind .env fun _ => .bind .me fun _ => .bind .state fun _ => ?_
  dsimp only
  split
  · exact .pure
  · exact .ite .park (.ite .park (.ite .park .modMyCore))

/-! ### gchk (R391) -/

theorem Keeps.gchkBody : Keeps r (Machine.gchkBody d a) := by
  unfold Machine.gchkBody
  refine .bind .readVal fun _ => .bind .resolve fun _ => .bind .boardCheck fun _ => .bind .env fun _ => ?_
  split
  · exact .ite (.bind .mustFollow fun _ => .bind .myCore fun _ => .bind .me fun _ => .writeInt) (.bind .raiseCnt fun _ => .request)
  · exact .pure

/-! ### The scrub pass (R78): one register entry or granule each cycle -/

theorem Sound.scrubVisits {lo hi : Nat} (h : Sound k) : Sound (Machine.scrubVisits k lo hi) := by
  obtain ⟨hc, hr, hl, hf, hg, hb⟩ := h.parts
  exact .of hc (SMap.filter_wf _ _ _ hr) (SMap.filter_wf _ _ _ hl) (SMap.filter_wf _ _ _ hf) (SMap.filter_wf _ _ _ hg) hb

theorem Kept.passVisits (h : Kept r s) : Kept r (Machine.passVisits n s c) := by
  unfold Machine.passVisits
  exact .ite (h.forget.modCore fun _ hk => hk.scrubVisits) h

theorem Kept.execFoldEnd (h : Kept r s) : Next r (Machine.execFoldEnd core s) := by
  unfold Machine.execFoldEnd
  split
  · exact .ite h.modCore.bump h
  · exact h

theorem Kept.execGscrubEnd (h : Kept r s) : Next r (Machine.execGscrubEnd core s) := by
  unfold Machine.execGscrubEnd
  split
  · split
    · exact h
    · dsimp only
      split
      · exact h.modCore.bump.modCtx.endWait
      · exact h.modCore.bump
  · exact h

/-! ### cfgctx (R55, R368) -/

theorem Keeps.cfgctxBody : Keeps r (Machine.cfgctxBody d a) :=
  .bind .readVal fun _ => .bind .env fun _ => .bind .state fun _ => .ite .illegal (.ite .writeInt (.ite .writeInt (.bind .modMyCore fun _ => .writeInt)))

end Sys2Proof.Machine
end

section
/-! PROOF. The copy engine and the system instructions keep the canonical form (O58). -/

namespace Sys2Proof.Machine

-- One proof at a time: side by side they would wait for each other, each on a thread of its own.
set_option Elab.async false

variable {r s t old : State} {k : Core} {c core i n tenant slot idx sq u g off queue uid page origin die link pair list object req size kind : Nat}
  {a d b : RegF} {p v value : Word} {x : Ctx} {pl : Place} {l : Loc} {own : BitVec 16} {op : Op} {e : Env} {f : Front}

/-! ### Units -/

theorem Kept.enqueueFront {id : Nat} (h : Kept r s) : Kept r (Machine.enqueueFront uid id s) := h.setChan

theorem Kept.completeFront {id : Nat} {more : Front} (h : Kept r s) : Kept r (Machine.completeFront uid id queue more s) := by
  unfold Machine.completeFront
  exact h.setChan.joinChan

theorem Kept.cmdRead {seq id : Nat} (h : Kept r s) : Kept r (s.cmdRead uid seq id queue own pl n).2 := by
  unfold State.cmdRead
  exact .ite h.weakRead h.weakRead.joinChan

theorem Kept.readPieces {q : CopyCmd} {ps : List (Nat × Nat)} (h : Kept r s) : Kept r (Machine.readPieces x q pl ps s).2 := by
  induction ps generalizing s with
  | nil => exact h
  | cons a ps ih => exact ih h.cmdRead

theorem Kept.readUnit {q : CopyCmd} (h : Kept r s) : Kept r (Machine.readUnit s x q pl u).2 := h.readPieces

theorem Kept.writeUnit {k : Commit} {v : Nat} {g : BitVec 16} (h : Kept r s) : Kept r (Machine.writeUnit s core k pl u v g) := by
  refine h.foldl fun s a h => ?_
  dsimp only
  split
  · exact h.record.modCore fun _ hk => hk.lsWrite
  · exact h.commit

theorem Kept.peerRefuses {a : Place} (h : Kept r s) : Kept r (Machine.peerRefuses s a).2 := by
  unfold Machine.peerRefuses
  split
  · dsimp only
    exact h.draw
  · dsimp only
    exact h

theorem Kept.unitPlace {a : Agent} {bad : State → Place → Option Nat} (h : Kept r s) : Kept r (Machine.unitPlace a u op bad p s).2 := by
  unfold Machine.unitPlace
  dsimp only
  split
  · dsimp only
    exact h.engTouch
  · dsimp only
    exact h.engTouch.peerRefuses

theorem Kept.fetchUnit {a : Agent} (h : Kept r s) : Kept r (Machine.fetchUnit a own p u s).2 := h.unitPlace

theorem Kept.destPlaces {a : Agent} {ps : List Word} (h : Kept r s) : Kept r (Machine.destPlaces a u ps s).2 := by
  refine List.foldlRecOn _ _ (motive := fun q : Except (Nat × Word) (List (Word × Place)) × State => Kept r q.2) h fun q h _ _ => ?_
  split
  · exact Kept.unitPlace h
  · exact h

theorem Kept.writeDests {q : CopyCmd} {l : List (Word × Place)} {v : Nat} {gen : BitVec 16} (h : Kept r s) : Kept r (Machine.writeDests s core x q l v u gen) :=
  h.foldl fun _ _ h => h.writeUnit

theorem Kept.beginUnit {q : CopyCmd} (h : Kept r s) : Kept r (Machine.beginUnit s core x q).1 := by
  unfold Machine.beginUnit
  dsimp only
  split
  · next hf => exact h.fetchUnit.snd hf
  · next hf =>
    have h := h.fetchUnit.snd hf
    split
    · next hd => exact h.readUnit.destPlaces.snd hd
    · next hd => exact (h.readUnit.destPlaces.snd hd).draw

theorem Kept.endUnit {q : CopyCmd} (h : Kept r s) : Kept r (Machine.endUnit s core x q n).1 := by
  unfold Machine.endUnit
  split
  · dsimp only
    exact h
  · dsimp only
    split
    · dsimp only
      exact h
    · dsimp only
      exact h.writeDests

theorem Kept.stepUnit {q : CopyCmd} (h : Kept r s) : Kept r (Machine.stepUnit s core x q).1 := by
  unfold Machine.stepUnit
  dsimp only
  split
  · exact h.draw.beginUnit
  · exact h.draw.endUnit

theorem Kept.stepBkt {q : CopyCmd} (h : Kept r s) : Kept r (Machine.stepBkt s core x q).1 := by
  unfold Machine.stepBkt
  dsimp only
  split
  · split
    · next _ t ht =>
        dsimp only
        exact (h.fetchUnit.snd ht)
    · next _ t ht =>
        dsimp only
        exact (h.fetchUnit.snd ht).readUnit
  · split
    · next _ t ht =>
        dsimp only
        exact (h.destPlaces.snd ht)
    · next _ t ht =>
        dsimp only
        exact (h.destPlaces.snd ht).writeDests

theorem Kept.setCopyHead {q : CopyCmd} (h : Kept r s) : Kept r (Machine.setCopyHead s c i q) := h.modCtx

theorem Kept.copyUnit (h : Kept r s) : Kept r (Machine.copyUnit s core slot) := by
  unfold Machine.copyUnit
  dsimp only
  split
  · exact h
  · refine .ite h ?_
    refine .ite (.ite h.modCore h.modCore.draw.endUnit.setCopyHead) ?_
    split
    · exact h.modCore.setCopyHead.askWalk
    · refine Kept.setCopyHead ?_
      split
      · exact h.modCore.stepBkt
      · exact h.modCore.stepUnit

/-! ### Start and Complete (R239 to R241, R250, R251) -/

theorem Kept.execCopyCommandStart (h : Kept r s) : Next r (Machine.execCopyCommandStart core slot s) := by
  unfold Machine.execCopyCommandStart
  dsimp only
  split
  · exact h
  · split
    · exact h
    · exact h.setCopyHead

theorem Kept.completeCopy {q : CopyCmd} (h : Kept r s) : Kept r (Machine.completeCopy s core slot q) := by
  unfold Machine.completeCopy
  dsimp only
  split
  · exact h.completeFront.modCore.modCtx
  · exact h.completeFront.modCore.modCtx.modCtx.bump

theorem Kept.execCopyCommandComplete (h : Kept r s) : Next r (Machine.execCopyCommandComplete core slot s) := by
  unfold Machine.execCopyCommandComplete
  split
  · split
    · exact h.completeCopy
    · exact h
  · exact h

theorem Kept.execQfenComplete (h : Kept r s) : Next r (Machine.execQfenComplete core slot s) := by
  unfold Machine.execQfenComplete
  split
  · split
    · exact h.completeCopy
    · exact h
  · exact h

/-! ### Issue (R248, R254, R370) -/

theorem Keeps.enqueueCopy {q : CopyCmd} {rs : List (Nat × Nat × Bool)} : Keeps r (Machine.enqueueCopy q rs) :=
  .bind .me fun _ => .bind (.modify fun _ h => h.enqueueFront) fun _ => .bind .modMe fun _ => .modMyCore

theorem Keeps.copyBody {cmd set : Nat} : Keeps r (Machine.copyBody cmd a b set) :=
  .bind .readVal fun _ => .bind .readVal fun _ => .bind .raiseCnt fun _ => .bind .env fun _ => .bind .me fun _ => .bind .myCore fun _ =>
    .withState fun _ hs => .ite .park (.bind (.modify fun _ _ => hs.fresh) fun _ => .enqueueCopy)

theorem Keeps.qfenBody {scope : Scope} : Keeps r (Machine.qfenBody scope a) :=
  .bind .readVal fun _ => .bind .raiseCnt fun _ => .bind .env fun _ => .bind .me fun _ => .bind .myCore fun _ =>
    .withState fun _ hs => .bind (.modify fun _ _ => hs.fresh) fun _ => .enqueueCopy

/-! ### Writing control registers (R67, R373) -/

theorem Kept.csrWrite {op : CsrOp} (h : Kept r s) : Kept r (Machine.csrWrite core slot c op v s) := by
  unfold Machine.csrWrite
  refine .ite h.modCtx ?_
  refine .ite (.ite h.modCore h) ?_
  split
  · exact .ite h.modCtx h
  · exact h.modCtx
  · exact h.modCtx
  · exact h.modCtx
  · exact h.modCtx
  · exact h.modCtx
  · exact h.modCtx
  · exact h.modCtx
  · exact h.modCtx
  · exact h.modCtx
  · exact .ite h.modCtx h
  · exact .ite h.modCore h
  · exact .ite h.modCore h
  · exact h

theorem Keeps.waitReplays {p : Bool} : Keeps r (Machine.waitReplays p object) := .bind .me fun _ => .ite .park .pure

theorem Keeps.waitFlags : Keeps r (Machine.waitFlags c) := by
  unfold Machine.waitFlags
  refine .bind .me fun _ => ?_
  split
  · exact .park
  · exact .pure

theorem Keeps.waitUsed : Keeps r (Machine.waitUsed c) := .bind .me fun _ => .waitReplays

theorem Keeps.csrrBody : Keeps r (Machine.csrrBody c d) :=
  .bind .waitReplays fun _ => .bind .waitFlags fun _ => .bind .env fun _ => .ite (.bind .draw fun _ => .bind .state fun _ => .writeInt) (.bind .pure fun _ =>
    .bind .state fun _ => .writeInt)

theorem Keeps.csrwBody {op : CsrOp} : Keeps r (Machine.csrwBody op c a) :=
  .bind .waitReplays fun _ => .bind .waitFlags fun _ => .bind .waitUsed fun _ => .bind .readVal fun _ => .bind .env fun _ => .modify fun _ h => h.csrWrite

/-! ### Engine registers (R247, R252, R262, R266, R271, R273, R281, R298) -/

theorem Kept.engWrite {e : Engine} (h : Kept r s) : Kept r (Machine.engWrite core slot e n v s) := by
  unfold Machine.engWrite
  dsimp only
  split
  · exact .ite h.modCore (.ite h.modCtx h)
  · exact .ite h.modCtx h.modCtx
  · exact .ite h.modCtx h.modCtx
  · exact .ite (.ite h.modCtx h) (.ite h h.modCtx)
  · exact h.modCtx

theorem Keeps.waitGens {e : Engine} : Keeps r (Machine.waitGens e n) := .bind .me fun _ => .waitReplays

theorem Keeps.bodyErd {e : Engine} {n : BitVec 8} : Keeps r (Machine.bodyErd e n d) :=
  .bind .waitGens fun _ => .bind .env fun _ => .bind .state fun _ => .writeInt

theorem Kept.execEwr {e : Engine} {n : BitVec 8} (h : Kept r s) : Next r (Machine.execEwr e n a s) :=
  h.run (.bind .waitGens fun _ => .bind .readVal fun _ => .bind .env fun _ => .modify fun _ h => h.engWrite)

/-! ### sbind, sfree (R62, R63, R263, R428, R429) -/

theorem Keeps.bindWait : Keeps r (Machine.bindWait d) := .bind .waitReplays fun _ => .waitReg

/-! ### nop, trap, dbg, idle (R315, R376, R410, R449) -/

theorem Next.noteDbg {o : Host.Outcome State Fault Refusal} (h : Next r o) : Next r (Machine.noteDbg core slot n o) := by
  cases o with
  | next t => exact Kept.logEvent h
  | _ => exact h

theorem Kept.execDbg {n : BitVec 8} (h : Kept r s) : Next r (Machine.execDbg n s) := (h.run .stopTrap).noteDbg

theorem Kept.execIdle (h : Kept r s) : Next r (Machine.execIdle s) := h.run fun _ _ h _ _ => h

/-! ### eret (R313, R317, R322, R413) -/

theorem Kept.passMarked {sup : Bool} (h : Kept r s) : Kept r (Machine.passMarked s c i sup) := by
  unfold Machine.passMarked
  dsimp only
  split
  · exact h
  · exact h.modSquare.modCtx

theorem Kept.rearm (h : Kept r s) : Kept r (Machine.rearm s x c i) := .ite h.modCtx.modDisp h

theorem Kept.doEret (h : Kept r s) : Kept r (Machine.doEret s c i) := by
  unfold Machine.doEret
  refine .ite ?_ ?_
  · refine Kept.deliverHeld ?_
    split
    · exact h.modCtx.rearm.passMarked.takeTrap
    · exact h.modCtx.rearm.passMarked
  · split
    · exact h.modCtx.rearm.passMarked.takeTrap
    · exact h.modCtx.rearm.passMarked

/-! ### tlbi (R222, R448) -/

theorem Kept.execTlbi (h : Kept r s) : Next r (Machine.execTlbi a s) :=
  h.run (.bind .readVal fun _ => .bind .env fun _ => .ite .illegal (.withState fun _ hs => .bind (.modify fun _ _ => hs.fresh.upd) fun _ => .parkKeep))

theorem Kept.dropTlb (h : Kept r s) : Kept r (Machine.dropTlb v s) := by
  refine ⟨fun hr => ?_, h.2⟩
  obtain ⟨h1, h2, h3, h4, h5, h6⟩ := (State.canonical_iff s).1 (h.1 hr)
  refine (State.canonical_iff _).2 ⟨h1, h2, SMap.filterMap_wf ?_ h3, SMap.filterMap_wf ?_ h4, ?_, h6⟩
  · exact fun e e' => entry_of_ite
  · exact fun e e' => entry_of_ite
  · rw [List.all_eq_true] at h5 ⊢
    intro e' he'
    obtain ⟨e, he, hf⟩ := List.mem_filterMap.1 he'
    obtain rfl := value_of_ite hf
    obtain ⟨hc, hk⟩ := Sound.parts ⟨h5 e he⟩
    exact (Core.canonical_iff _).2 ⟨SMap.filterMap_wf (fun e e' => entry_of_ite) hc, hk⟩

theorem Kept.execTlbiRemovalComplete (h : Kept r s) : Next r (Machine.execTlbiRemovalComplete idx s) := by
  unfold Machine.execTlbiRemovalComplete
  split
  · exact h
  · exact .ite h.upd.dropTlb.modCtx.endWait h.upd.dropTlb

/-! ### The end of a walk (R220, R221) -/

theorem Kept.fillCore {w : Walk} {r1 : WalkEnd} (h : Kept r s) : Kept r (Machine.fillCore w r1 s c) := by
  unfold Machine.fillCore
  split
  · exact h.modCore
  · exact h

theorem Kept.endWalk {w : Walk} {r1 : WalkEnd} {req : Asker} (h : Kept r s) : Kept r (Machine.endWalk w r1 s req) := by
  unfold Machine.endWalk
  split
  · exact .ite h.fillCore.modCtx.wakeFor h.fillCore
  · exact h.fillCore.modCtx
  · exact h.modSquare

theorem Kept.fillSquares {w : Walk} {r1 : WalkEnd} (h : Kept r s) : Kept r (Machine.fillSquares w r1 s) := by
  unfold Machine.fillSquares
  split
  · exact h.foldl fun _ _ h => h.modSquare
  · exact h

theorem Kept.admitMisses {l : List (Asker × Nat × Nat)} (h : Kept r s) : Kept r (Machine.admitMisses s l) := by
  induction l generalizing s with
  | nil => exact h
  | cons a l ih => exact ih h.requestWalk

theorem Kept.execTranslationWalkEnd (h : Kept r s) : Next r (Machine.execTranslationWalkEnd idx s) := by
  unfold Machine.execTranslationWalkEnd
  split
  · exact h
  · split
    · exact h
    · exact (h.upd.fillSquares.foldl fun _ _ h => h.endWalk).upd.admitMisses

/-! ### Port words arrive (R58, R60) -/

theorem Kept.execPortWordArrival (h : Kept r s) : Next r (Machine.execPortWordArrival idx s) := by
  unfold Machine.execPortWordArrival
  split
  · exact h
  · split
    · exact h
    · dsimp only
      split
      · exact h.upd.bump
      · split
        · exact h
        · exact h.upd.modCtx

end Sys2Proof.Machine
end

section
/-! PROOF. Fetch, one. and rep keep the canonical form (O58). -/

namespace Sys2Proof.Machine

-- One proof at a time: side by side they would wait for each other, each on a thread of its own.
set_option Elab.async false

variable {r s t old : State} {k : Core} {c core i n tenant slot idx sq u g off queue uid page origin die link pair list object req size kind : Nat}
  {a d b : RegF} {p v value : Word} {x : Ctx} {pl : Place} {l : Loc} {own : BitVec 16} {op : Op} {e : Env} {f : Front}

/-! ### Fetch (R357, R209, R217) -/

theorem Keeps.fetchWord : Keeps r (Machine.fetchWord p) :=
  .ite .trap (.ite .trap (.bind .translate fun _ => .withState fun _ hs => .bind .me fun _ => .bind (.modify fun _ _ => hs.weakRead.see) fun _ => .pure))

/-! ### Steps of R105 on a word at issue -/

theorem Kept.execIssueRefusalHolder {w : IWord} (h : Kept r s) : Next r (Machine.execIssueRefusalHolder w s) := by
  unfold Machine.execIssueRefusalHolder
  dsimp only
  split
  · exact h.raise.rotate
  · exact h

/-! ### one. (R99, R411 to R414) -/

theorem Keeps.pairOf : Keeps r (Machine.pairOf) := by
  unfold Machine.pairOf
  refine .bind .env fun _ => .bind .fetchWord fun _ => ?_
  split
  · exact .stopTrap
  · refine .ite .stopTrap ?_
    refine .bind .me fun _ => ?_
    split
    · exact .stopTrap
    · exact .pure

theorem Kept.openRound {q rank : Nat} {k : BitVec 32} {elected : Nat} (h : Kept r s) : Kept r (Machine.openRound s q g rank k elected) := h.modSquare

theorem Keeps.ok {α : Type} {m : M α} {y : α} (hm : Keeps r m) (h : Kept r s) (hr : m e s = .ok (y, t)) : Kept r t := by
  have := hm e s h
  rwa [hr] at this

theorem Keeps.parked {α : Type} {m : M α} {w : Wait} {keep : State → State} (hm : Keeps r m) (h : Kept r s) (hr : m e s = .error (.park w keep))
    (ht : Kept r t) : Kept r (keep t) := by
  have := hm e s h
  rw [hr] at this
  exact this t ht

theorem Keeps.stopped {α β : Type} {m : M α} {y : Stop} (hm : Keeps r m) (h : Kept r s) (hr : m e s = .error y) :
    Answers r (.error y : Except Stop (β × State)) := by
  cases y with
  | trap | stall => trivial
  | park => exact fun _ ht => hm.parked h hr ht

/-- The action of a word that one or rep may carry. -/
theorem Opt.bodyOf {i : Instr} : Opt (Keeps r) (Machine.bodyOf i) := by
  cases i with
  | add | sub | mul | mulh | mulhn | div | divn | rem | remn | and | or | xor | shl | shr | sra | min | max | minn | maxn | slt | sltn | seq | perm =>
    exact Keeps.alu3
  | sel => exact Keeps.alu4
  | clz | ctz | pop | addi | andi | ori | xori | shli | shri | srai | slti | sltni | bfx => exact Keeps.alu2
  | lui => exact Keeps.writeInt
  | addpc => exact Keeps.bodyAddpc
  | bfi => exact Keeps.bodyBfi
  | ld => exact Keeps.bodyLd
  | amo => exact Keeps.bodyAmo
  | cas => exact Keeps.bodyCas
  | fadd | fsub | fmul | fdiv | fmin | fmax => exact Keeps.fp2
  | fma | fnma => exact Keeps.fp3
  | fsqrt | frcp | fex2 | flg2 => exact Keeps.fp1
  | fneg | fabs => exact Keeps.signOp
  | fcmp => exact Keeps.bodyFcmp
  | fcls => exact Keeps.bodyFcls
  | fcvt => exact Keeps.bodyFcvt
  | fcvi => exact Keeps.bodyFcvi
  | icvf => exact Keeps.bodyIcvf
  | sigr => exact Keeps.bodySigr
  | sigw => exact Keeps.bodySigw
  | qblkI8 | qblkI4 => exact Keeps.qblk
  | fscl => exact Keeps.bodyFscl
  | take => exact Keeps.bodyTake
  | erd => exact Keeps.bodyErd
  | _ => trivial

theorem Keeps.bodyOf {i : Instr} : Keeps r ((Machine.bodyOf i).getD (Pure.pure ())) := Opt.bodyOf.getD .pure

theorem Keeps.electedBody {w : IWord} {i : Instr} : Keeps r (Machine.electedBody w i) := by
  intro e s h
  unfold Machine.electedBody
  dsimp only
  split
  · next hr => exact fun _ hu => (Keeps.bodyOf.parked h.modCtx hr hu).modCtx
  · next x hx hr =>
    cases x with
    | park n keep => exact absurd rfl (hx n keep)
    | trap | stall => trivial
  · next hr =>
    have h2 := Keeps.bodyOf.ok h.modCtx hr
    split
    · exact h2.modCtx.electResult
    · exact h2.modCtx

theorem Keeps.receiverBody {w : IWord} {i : Instr} {k : BitVec 32} {result : Option (TVal × Word)} {front : Front} :
    Keeps r (Machine.receiverBody w i k result front) := by
  unfold Machine.receiverBody
  refine .bind .env fun _ => .bind .me fun _ => ?_
  split
  · exact .bind (.modify fun _ h => h.gain) fun _ => .bind .modMe fun _ => .writeReg
  · exact .request

theorem Kept.execOne (h : Kept r s) : Next r (Machine.execOne s) := by
  unfold Machine.execOne
  extract_lets e q
  split
  · next hr => exact h.finish (Keeps.pairOf.stopped h.advance hr)
  · next hr =>
    have h1 := Keeps.pairOf.ok h.advance hr
    extract_lets x
    split
    · exact h.finish (Keeps.electedBody _ _ h1)
    · extract_lets live known
      split
      · exact h.finish fun _ h => h
      · next elected opening s2 _ =>
        have ho {u : State} (hu : Kept r u) : Kept r (opening u) := .ite hu hu.openRound
        split
        · split
          · exact (ho h).markRound.raise.rotate
          · exact h.finish (Keeps.electedBody _ _ (ho h1).modCtx)
        · exact h.finish (Keeps.receiverBody _ _ (ho h1).modCtx)

theorem Kept.refuseResult {l : LoadReq} {k : BitVec 32} (h : Kept r s) : Kept r (Machine.refuseResult s c i l k) := h.modCtx.failReply

theorem Kept.execOneResultDelivery (h : Kept r s) : Next r (Machine.execOneResultDelivery idx s) := by
  unfold Machine.execOneResultDelivery
  split
  · exact h
  · dsimp only
    split
    · exact h.upd
    · split
      · exact h.upd.refuseResult
      · split
        · exact h
        · next t ht => exact (h.upd.gain.modCtx.complete.of_eq ht).closeRounds

theorem Kept.passedPair {j : Nat} {el : Election} {q : LoadReq} {w : IWord} {i : Instr} (h : Kept r s) :
    Opt (Kept r) (Machine.passedPair s c j el q w i) := by
  unfold Machine.passedPair
  dsimp only
  split
  · next hr =>
    have h2 := Keeps.electedBody.ok h.modCtx hr
    exact (Kept.ite h2.modCtx.endWait h2).modCtx
  · exact h.failReply
  · next hr =>
    split
    · exact (Keeps.electedBody.parked h.modCtx hr h).modCtx.modCtx
    · trivial
  · trivial

theorem Kept.runPassed (h : Kept r s) : Kept r (Machine.runPassed s sq idx) := by
  unfold Machine.runPassed
  split
  · exact h
  · split
    · exact h
    · split
      · exact h
      · dsimp only
        split
        · exact h
        · exact (h.passedPair.getD h)

/-! ### rep (R258, R259, R423) -/

theorem Keeps.bodyWord {w : IWord} : Keeps r (Machine.bodyWord p w) := by
  unfold Machine.bodyWord
  refine .bind .env fun _ => .bind .me fun _ => ?_
  split
  · exact .stopTrap
  · exact .bind .fetchWord fun _ => .stopTrap
  · dsimp only
    split
    · exact .stopTrap
    · exact .ite .pure .stopTrap

/-- The words that rep captures come with a state that keeps the form; so does what stops the capture. -/
def Captured (r : State) : Except (Word × Stop) (List IWord × State) → Prop
  | .ok (_, t) => Kept r t
  | .error (_, x) => Answers r (.error x : Except Stop (Unit × State))

theorem Kept.captureWords {p : Word} (h : Kept r s) : Captured r (Machine.captureWords e p n s) := by
  induction n generalizing p s with
  | zero => exact h
  | succ n ih =>
    have hw : Keeps r (Machine.fetchWord p >>= fun w => Machine.bodyWord p w >>= fun _ => pure w) :=
      .bind .fetchWord fun _ => .bind .bodyWord fun _ => .pure
    unfold Machine.captureWords
    split
    · next hr => exact hw.stopped h hr
    · next hr =>
      have hn := ih (p := p + 4) (hw.ok h hr)
      split
      · next hr =>
        rw [hr] at hn
        exact hn
      · next hr =>
        rw [hr] at hn
        exact hn

theorem Kept.execRep {nm1 : BitVec 4} {st lo : BitVec 7} {span : BitVec 6} (h : Kept r s) : Next r (Machine.execRep nm1 st lo span s) := by
  unfold Machine.execRep
  extract_lets e x n
  have hc := Kept.captureWords (e := e) (p := e.pc + 4) (n := n) (h.advance (c := e.core) (i := e.slot) (n := 4))
  split
  · exact h.raise.rotate
  · split
    · exact h.finish fun _ h => h
    · split
      · next hr =>
        rw [hr] at hc
        exact h.finish hc
      · next hr =>
        rw [hr] at hc
        exact h.finish (Kept.modCtx hc)

/-! ### Replays (R260, R261, R317) -/

theorem Kept.execReplayWordIssue (h : Kept r s) : Next r (Machine.execReplayWordIssue core slot s) := by
  unfold Machine.execReplayWordIssue
  dsimp only
  split
  · exact h
  · split
    · exact h
    · split
      · exact h.modCore
      · split
        · exact h.modCore.replayTrap
        · split
          · next hr => exact .ite (Keeps.bodyOf.ok h.modCore hr).clearFault (Keeps.bodyOf.ok h.modCore hr).clearFault.advanceBody
          · exact h.modCore.replayTrap
          · next hr => exact (Keeps.bodyOf.parked h.modCore hr h.modCore).parkBody
          · exact h.modCore

end Sys2Proof.Machine
end

section
/-! PROOF. The matrix engine keeps the canonical form (O58). -/

namespace Sys2Proof.Machine

-- One proof at a time: side by side they would wait for each other, each on a thread of its own.
set_option Elab.async false

variable {r s t old : State} {k : Core} {c core i n tenant slot idx sq u g off queue uid page origin die link pair list object req size kind : Nat}
  {a d b : RegF} {p v value : Word} {x : Ctx} {pl : Place} {l : Loc} {own : BitVec 16} {op : Op} {e : Env} {f : Front}

/-! ### Issue (R267, R405) -/

theorem Keeps.matBody {cmd : Nat} {srcs : Option (RegF × RegF)} : Keeps r (Machine.matBody cmd srcs) := by
  unfold Machine.matBody
  dsimp only
  cases srcs
  case' none => refine .bind .pure fun _ => .bind .pure fun _ => .bind .env fun _ => .bind .me fun _ => .bind .state fun _ => .ite .illegal ?_
  case' some => refine .bind .readVal fun _ => .bind .readVal fun _ => .bind .env fun _ => .bind .me fun _ => .bind .state fun _ => .ite .illegal ?_
  all_goals
    split
    · exact .stopTrap
    · split
      · exact .trap
      · exact .bind .raiseCnt fun _ => .bind (.modify fun _ h => h.upd) fun _ => .bind (.modify fun _ h => h.enqueueFront) fun _ => .modMe

/-! ### Local store as the engine reads and writes it (R267) -/

theorem Sound.matWriteByte {v : Nat} (h : Sound k) : Sound (Machine.matWriteByte own off v k) := h.lsWrite

theorem Sound.matWriteNum {v : Nat} (h : Sound k) : Sound (Machine.matWriteNum own off v n k) := by
  induction n generalizing off v k with
  | zero => exact h
  | succ n ih => exact ih h.matWriteByte

/-! ### mxa, mld (R272, R268) -/

theorem Sound.accPut {v : BitVec 32 × Nat} (h : Sound k) : Sound (Machine.accPut k i v) := h.upd

theorem Sound.mmulRows {geo : Word} {bank act astr ascl wscl row0 rows : Nat} (h : Sound k) :
    Sound (Machine.mmulRows own geo bank act astr ascl wscl row0 rows k).1 := by
  unfold Machine.mmulRows
  refine List.foldlRecOn _ _ (motive := fun q : Core × Nat => Sound q.1) h fun q h m _ => ?_
  exact List.foldlRecOn _ _ (motive := fun q : Core × Nat => Sound q.1) h fun q h n _ => h.accPut

theorem Sound.runGroup {q : MatCmd} {g : Nat × Word × Word} {p : GroupRun} (h : Sound p.core) : Sound (Machine.runGroup core own q p g).core := by
  unfold Machine.runGroup
  dsimp only
  split
  · exact h
  · split
    · exact h.mmulRows
    · exact h

theorem Sound.clearRows {row0 rows : Nat} (h : Sound k) : Sound (Machine.clearRows row0 rows k) := h.upd

theorem Sound.moutCore {q : MatCmd} (h : Sound k) : Sound (Machine.moutCore own q k).1 := by
  unfold Machine.moutCore
  extract_lets m e rows fl k1 words k2
  have h1 : Sound k1 := h.foldl fun _ _ h => h.foldl fun _ _ h => h.matWriteNum
  have h2 : Sound k2 := by
    refine .ite h1 (h1.foldl fun _ _ h => ?_)
    split
    · exact h.matWriteByte
    · exact h
  exact .ite h2.clearRows h2

theorem Sound.mxaCore {q : MatCmd} (h : Sound k) : Sound (Machine.mxaCore own q k) :=
  h.foldl fun _ _ h => .ite h.accPut (.ite h.matWriteNum h.matWriteNum.matWriteByte)

theorem Sound.mldCore {q : MatCmd} (h : Sound k) : Sound (Machine.mldCore own q k) := by
  obtain ⟨hc, hr, hl, hf, hg, hb⟩ := h.parts
  unfold Machine.mldCore
  generalize List.range 8192 = bytes
  exact .of hc hr hl hf hg (Memory.foldl_put_wf bytes hb)

/-! ### Start and Complete (R239 to R241, R249) -/

theorem Kept.matOld {q : MatCmd} (h : Kept r s) : Kept r (Machine.matOld s core x q).2 := by
  unfold Machine.matOld
  dsimp only
  split
  · dsimp only
    exact h.draw
  · dsimp only
    exact h

theorem Sound.matSeen {old : List (Nat × Byte)} (h : Sound k) : Sound (Machine.matSeen k old) := by
  obtain ⟨hc, hr, hl, hf, hg, hb⟩ := h.parts
  exact .ite h (.of hc hr (Memory.foldl_put_wf _ hl) hf hg hb)

theorem Kept.execMatrixCommandStart (h : Kept r s) : Next r (Machine.execMatrixCommandStart core s) := by
  unfold Machine.execMatrixCommandStart
  dsimp only
  split
  · exact h
  · split
    · exact h
    · refine Kept.modCore ?_
      refine Kept.modCtx ?_
      split
      · split
        · exact h.matOld
        · dsimp only
          exact h
      · dsimp only
        exact h

theorem Kept.matCommits {q : MatCmd} {k' : Core} (h : Kept r s) : Kept r (Machine.matCommits core x q k' s) := h.foldl fun _ _ h => h.commit

theorem Sound.matKeep {m : Core} {q : MatCmd} {old : List (Nat × Byte)} (h : Sound k) : Sound (Machine.matKeep m k q old) := by
  obtain ⟨hc, hr, hl, hf, hg, hb⟩ := h.parts
  exact .ite h (.of hc hr (Memory.foldl_put_wf _ hl) hf hg hb)

theorem Sound.matEffect {q : MatCmd} (h : Sound k) : Sound (Machine.matEffect core own q k).1 := by
  unfold Machine.matEffect
  split
  · exact h.mldCore
  · exact h.mmulRows
  · exact List.foldlRecOn _ _ (motive := fun p : GroupRun => Sound p.core) h fun _ h _ _ => h.runGroup
  · exact h.clearRows
  · exact h.moutCore
  · exact h.mxaCore

theorem Kept.execMatrixCommandComplete (h : Kept r s) : Next r (Machine.execMatrixCommandComplete core s) := by
  unfold Machine.execMatrixCommandComplete
  dsimp only
  split
  · exact h
  · split
    · exact h.modCore
    · exact (h.matOld.matCommits.completeFront.setCore fun hr => (h.core core hr).matSeen.matEffect.matKeep.upd).modCtx

end Sys2Proof.Machine
end

section
/-! PROOF. The rope engine keeps the canonical form (O58). -/

namespace Sys2Proof.Machine

-- One proof at a time: side by side they would wait for each other, each on a thread of its own.
set_option Elab.async false

variable {r s t old : State} {k : Core} {c core i n tenant slot idx sq u g off queue uid page origin die link pair list object req size kind : Nat}
  {a d b : RegF} {p v value : Word} {x : Ctx} {pl : Place} {l : Loc} {own : BitVec 16} {op : Op} {e : Env} {f : Front}

/-! ### What an engine command does, with everything it has to give back if it fails (R292, R293) -/

/-- An action of the rope engine ends in a state that keeps the form of r where it begins in one, however it ends. -/
def RKeeps {α : Type} (r : State) (m : RM α) : Prop := ∀ x : RopeSt, Kept r x.s → Kept r (m.run x).2.s

namespace RKeeps

variable {α β : Type} {m m' : RM α}

theorem pure {y : α} : RKeeps r (Pure.pure y : RM α) := fun _ h => h

theorem throw {y : RFail} : RKeeps r (MonadExcept.throw y : RM α) := fun _ h => h

theorem fail {n : Nat} : RKeeps r (RM.fail n p : RM α) := throw

theorem bind {g : α → RM β} (hm : RKeeps r m) (hg : ∀ y, RKeeps r (g y)) : RKeeps r (m >>= g) := by
  intro x h
  have hm := hm x h
  show Kept r (ExceptT.bindCont g (m.run x).1 (m.run x).2).2.s
  revert hm
  rcases m.run x with ⟨y | y, x'⟩ <;> intro hm
  · exact hm
  · exact hg y x' hm

theorem ite {q : Prop} [Decidable q] (hm : RKeeps r m) (hn : RKeeps r m') : RKeeps r (if q then m else m') := by
  split
  · exact hm
  · exact hn

theorem state : RKeeps r (get : RM RopeSt) := fun _ h => h

/-- What follows a look at the state may use that state. -/
theorem withState {g : RopeSt → RM β} (hg : ∀ x : RopeSt, Kept r x.s → RKeeps r (g x)) : RKeeps r (get >>= g) := fun x h => hg x h x h

theorem set {x : RopeSt} (hx : Kept r x.s) : RKeeps r (MonadStateOf.set x : RM Unit) := fun _ _ => hx

theorem update {g : RopeSt → RopeSt} (hg : ∀ x, Kept r x.s → Kept r (g x).s) : RKeeps r (modify g : RM Unit) := fun x h => hg x h

theorem mapM {g : α → RM β} {l : List α} (hg : ∀ y, RKeeps r (g y)) : RKeeps r (l.mapM g) := by
  induction l with
  | nil => exact pure
  | cons y l ih =>
    rw [List.mapM_cons]
    exact .bind (hg y) fun _ => .bind ih fun _ => .pure

theorem forIn {l : List α} {g : α → β → RM (ForInStep β)} {y : β} (hg : ∀ y z, RKeeps r (g y z)) : RKeeps r (ForIn.forIn l y g) := by
  induction l generalizing y with
  | nil => exact pure
  | cons z l ih =>
    rw [List.forIn_cons]
    refine .bind (hg z y) fun o => ?_
    cases o with
    | done => exact pure
    | yield => exact ih

end RKeeps

theorem RKeeps.setS (h : Kept r s) : RKeeps r (RM.setS s) := .update fun _ _ => h

theorem RKeeps.ropePlace {c : RopeCmd} : RKeeps r (Machine.ropePlace c p size op) := by
  unfold Machine.ropePlace
  refine .withState fun _ hs => ?_
  split
  · exact .throw
  · refine .bind (.setS hs.engTouch) fun _ => ?_
    split
    · exact .pure
    · exact .fail

theorem RKeeps.probe {m : RM Unit} : RKeeps r (RM.probe m) := fun _ h => h

theorem RKeeps.ropeGlobal {c : RopeCmd} : RKeeps r (Machine.ropeGlobal c p size op) := .ite .fail .ropePlace

theorem RKeeps.read {c : RopeCmd} : RKeeps r (RM.read c own pl n) := .withState fun _ hs => .bind (.setS hs.cmdRead) fun _ => .pure

theorem RKeeps.acquire {c : RopeCmd} {atom : Bool} : RKeeps r (RM.acquire c atom own pl n) :=
  .withState fun _ hs => .bind (.setS (.ite hs.weakRead hs.weakRead.joinChan)) fun _ => .pure

theorem RKeeps.readWords {c : RopeCmd} : RKeeps r (Machine.readWords c pl n) := by
  induction n generalizing pl with
  | zero => exact .pure
  | succ n ih => exact .bind .read fun _ => .bind ih fun _ => .pure

theorem Kept.putWords {k : Commit} {ws : List Word} (h : Kept r s) : Kept r (Machine.putWords k pl ws own s) := h.foldl fun _ _ h => h.commit

/-! ### The node cache (R280, R288) -/

theorem Kept.cachedWords {home : List Word} (h : Kept r s) : Kept r (Machine.cachedWords s sq tenant p home).2 := by
  unfold Machine.cachedWords
  dsimp only
  split
  · dsimp only
    exact h.modSquare
  · split
    · dsimp only
      exact h.modSquare
    · dsimp only
      exact h.draw.modSquare

theorem Kept.dropLine (h : Kept r s) : Kept r (Machine.dropLine tenant p s) := h.dropEmpty fun _ _ => entry_of_ite

theorem RKeeps.nodeWords {c : RopeCmd} : RKeeps r (Machine.nodeWords c p) :=
  .bind .ropeGlobal fun _ => .bind .readWords fun _ => .withState fun _ hs => .bind (.setS hs.cachedWords) fun _ => .pure

/-! ### Planned and existing nodes (R279, R280, R283) -/

theorem RKeeps.lenLimit {cl : RClass} : RKeeps r (Machine.lenLimit cl n) := .ite .fail .pure

theorem RKeeps.readNode {c : RopeCmd} {cl : RClass} : RKeeps r (Machine.readNode c cl p) :=
  .bind .nodeWords fun _ => .ite .fail (.bind .lenLimit fun _ => .pure)

theorem RKeeps.readRoot {c : RopeCmd} {cl : RClass} : RKeeps r (Machine.readRoot c cl p) := .ite .pure (.bind .readNode fun _ => .pure)

theorem RKeeps.kids {c : RopeCmd} {cl : RClass} {a : Rope} : RKeeps r (Machine.kids c cl a) := by
  unfold Machine.kids
  split
  · exact .pure
  · exact .fail
  · exact .ite .fail (.bind .readNode fun _ => .bind .readNode fun _ => .ite .fail .pure)

theorem RKeeps.fieldValues {c : RopeCmd} {cl : RClass} {x : Slot} {data : Word} : RKeeps r (Machine.fieldValues c cl x data off n) := by
  induction n generalizing off with
  | zero => exact .pure
  | succ n ih => exact .bind .ropeGlobal fun _ => .bind .read fun _ => .bind ih fun _ => .pure

theorem RKeeps.slotFold {c : RopeCmd} {cl : RClass} {x : Slot} {data : Word} : RKeeps r (Machine.slotFold c cl x data off n) :=
  .ite .pure (.bind .fieldValues fun _ => .pure)

theorem RKeeps.nextMk : RKeeps r Machine.nextMk := .withState fun _ hs => .bind (.set hs) fun _ => .pure

theorem RKeeps.newLeaf {c : RopeCmd} {cl : RClass} {data : Word} : RKeeps r (Machine.newLeaf c cl data off n) :=
  .bind .lenLimit fun _ => .bind (.mapM fun _ => .slotFold) fun _ => .bind .nextMk fun _ => .pure

theorem RKeeps.newNode {cl : RClass} {l r1 : Rope} : RKeeps r (Machine.newNode cl l r1) := .bind .lenLimit fun _ => .bind .nextMk fun _ => .pure

theorem RKeeps.balance {c : RopeCmd} {cl : RClass} {l r1 : Rope} : RKeeps r (Machine.balance c cl l r1) :=
  .ite (.bind .kids fun _ => .ite (.bind .newNode fun _ => .newNode) (.bind .kids fun _ => .bind .newNode fun _ => .bind .newNode fun _ => .newNode))
    (.ite (.bind .kids fun _ => .ite (.bind .newNode fun _ => .newNode) (.bind .kids fun _ => .bind .newNode fun _ => .bind .newNode fun _ => .newNode)) .newNode)

theorem RKeeps.joinRight {c : RopeCmd} {cl : RClass} {y z : Rope} : RKeeps r (Machine.joinRight c cl y z n) := by
  induction n generalizing y z with
  | zero => exact .fail
  | succ n ih => exact .ite .newNode (.bind .kids fun _ => .bind ih fun _ => .balance)

theorem RKeeps.joinLeft {c : RopeCmd} {cl : RClass} {y z : Rope} : RKeeps r (Machine.joinLeft c cl y z n) := by
  induction n generalizing y z with
  | zero => exact .fail
  | succ n ih => exact .ite .newNode (.bind .kids fun _ => .bind ih fun _ => .balance)

theorem RKeeps.join {c : RopeCmd} {cl : RClass} {y z : Option Rope} : RKeeps r (Machine.join c cl y z) := by
  unfold Machine.join
  split
  · exact .pure
  · exact .pure
  · exact .ite (.bind .joinRight fun _ => .pure) (.ite (.bind .joinLeft fun _ => .pure) (.bind .newNode fun _ => .pure))

theorem RKeeps.splitNode {c : RopeCmd} {cl : RClass} {y : Rope} {m : Nat} : RKeeps r (Machine.splitNode c cl y m n) := by
  induction n generalizing y m with
  | zero => exact .fail
  | succ n ih =>
    refine .ite .pure (.ite .pure ?_)
    split
    · exact .bind .newLeaf fun _ => .bind .newLeaf fun _ => .pure
    · exact .bind .kids fun _ => .ite (.bind ih fun _ => .bind .join fun _ => .pure) (.bind ih fun _ => .bind .join fun _ => .pure)

theorem RKeeps.split {c : RopeCmd} {cl : RClass} {n : Option Rope} {p : Nat} : RKeeps r (Machine.split c cl n p) := by
  unfold Machine.split
  split
  · exact .pure
  · exact .splitNode

theorem RKeeps.heightLimit {x : Option Rope} : RKeeps r (Machine.heightLimit x) := by
  unfold Machine.heightLimit
  split
  · exact .ite .fail .pure
  · exact .pure

/-! ### Counts (R285 to R287) -/

theorem RKeeps.nodeWord0 {c : RopeCmd} : RKeeps r (Machine.nodeWord0 c p) := .bind .ropeGlobal fun _ => .bind .acquire fun _ => .ite .fail .pure

theorem RKeeps.setCount {c : RopeCmd} {w : Word} : RKeeps r (Machine.setCount c p pl w n) := .update fun _ h => h.commit

theorem RKeeps.raiseCount {c : RopeCmd} : RKeeps r (Machine.raiseCount c p n) := .bind .nodeWord0 fun _ => .ite .fail (.ite .fail .setCount)

theorem RKeeps.lowerCount {c : RopeCmd} {m : Nat} : RKeeps r (Machine.lowerCount c p m n) := by
  induction n generalizing p m with
  | zero => exact .fail
  | succ n ih =>
    exact .bind .nodeWord0 fun _ => .ite .fail (.bind .setCount fun _ => .ite (.bind (.update fun _ h => h) fun _ => .ite (.bind .nodeWords fun _ =>
      .ite .fail (.bind .nodeWord0 fun _ => .bind .nodeWord0 fun _ => .ite .fail (.bind ih fun _ => ih))) .pure) .pure)

/-! ### The node pool (R282) -/

theorem RKeeps.takeNode {c : RopeCmd} : RKeeps r (Machine.takeNode c) := by
  unfold Machine.takeNode
  refine .bind .ropeGlobal fun _ => .bind .acquire fun _ => ?_
  dsimp only
  split
  · exact .bind .ropeGlobal fun _ => .bind .read fun _ => .bind (.update fun _ h => h.commit) fun _ => .bind .pure fun _ =>
      .bind (.update fun _ h => h) fun _ => .pure
  · exact .bind .acquire fun _ => .bind .read fun _ => .ite (.bind .fail fun _ => .bind (.update fun _ h => h) fun _ => .pure)
      (.bind .ropeGlobal fun _ => .bind (.update fun _ h => h.commit) fun _ => .bind .pure fun _ => .bind (.update fun _ h => h) fun _ => .pure)

theorem RKeeps.pushNode {c : RopeCmd} {node : Word} : RKeeps r (Machine.pushNode c node) :=
  .bind .ropeGlobal fun _ => .bind .ropeGlobal fun _ => .bind .acquire fun _ => .update fun _ h => h.commit.commit.dropLine.commit

theorem Kept.runRM {α : Type} {m : RM α} (h : Kept r s) (hm : RKeeps r m) : Kept r (Machine.runRM m s).2.s := hm _ h

theorem Kept.pushAll {c : RopeCmd} {l : List Word} (h : Kept r s) : Kept r (giveBack.pushAll c s l n) := by
  induction n generalizing s l with
  | zero => exact h
  | succ n ih =>
    unfold giveBack.pushAll
    split
    · exact h
    · exact ih (h.draw.runRM .pushNode)

theorem Kept.giveBack {c : RopeCmd} {x : RopeSt} (h : Kept r x.s) : Kept r (Machine.giveBack c x) := by
  unfold Machine.giveBack
  refine Kept.pushAll (h.foldl fun _ _ h => ?_)
  dsimp only
  split
  · exact h.engTouch.commit
  · exact h

/-! ### Issue (R289) -/

theorem Keeps.ropeBody {cmd : Nat} : Keeps r (Machine.ropeBody cmd a b) := by
  unfold Machine.ropeBody
  refine .bind .readVal fun _ => .bind .readVal fun _ => .bind .env fun _ => .bind .me fun _ => .bind .state fun _ => ?_
  split
  · exact .stopTrap
  · exact .stopTrap
  · exact .ite .trap (.ite .trap (.bind .boardCheck fun _ => .bind .readWordsAt fun _ => .bind .raiseCnt fun _ => .bind .me fun _ =>
      .bind (.modify fun _ h => h.upd) fun _ => .bind (.modify fun _ h => h.enqueueFront) fun _ => .modify fun _ h => h.modSquare))

/-! ### Arguments and handles (R276, R290, R292, R293) -/

theorem RKeeps.handlePlace {c : RopeCmd} : RKeeps r (Machine.handlePlace c p op) := by
  unfold Machine.handlePlace
  refine .bind .state fun _ => .ite .fail ?_
  split
  · exact .fail
  · exact .ite .ropePlace .fail

theorem RKeeps.readHandle {c : RopeCmd} : RKeeps r (Machine.readHandle c p) :=
  .bind .handlePlace fun _ => .bind .state fun _ => .ite .fail (.bind .acquire fun _ => .bind .acquire fun _ => .pure)

theorem RKeeps.startReads {c : RopeCmd} : RKeeps r (Machine.startReads c) := by
  unfold Machine.startReads
  refine .ite .fail ?_
  refine .ite .pure ?_
  refine .bind .readHandle fun _ => .ite .fail ?_
  dsimp only
  split
  · exact .pure
  · exact .bind .readHandle fun _ => .ite .fail .pure

/-! ### Start (R239, R240, R295) -/

theorem Kept.setRope {c : RopeCmd} (h : Kept r s) : Kept r (Machine.setRope s sq c) := h.modSquare

theorem Kept.execRopeCommandStart (h : Kept r s) : Next r (Machine.execRopeCommandStart sq s) := by
  unfold Machine.execRopeCommandStart
  split
  · exact h
  · next c _ =>
    have hm : Kept r (Machine.runRM (startReads c) s).2.s := h.runRM .startReads
    split
    · next hr =>
      rw [hr] at hm
      exact hm.setRope
    · next hr =>
      rw [hr] at hm
      split
      · exact h.setRope.askWalk
      · exact hm.setRope

/-! ### Kept nodes (R283, R285, R292) -/

theorem RKeeps.raiseOld {c : RopeCmd} {a : Rope} : RKeeps r (Machine.raiseOld c a) := by
  unfold Machine.raiseOld
  split
  · exact .raiseCount
  · exact .pure

theorem RKeeps.writeNode {c : RopeCmd} {m : List (Nat × Word)} {x : Rope} : RKeeps r (Machine.writeNode c m x) := by
  unfold Machine.writeNode
  refine .bind .takeNode fun _ => .bind .ropeGlobal fun _ => .bind (.update fun _ h => h.putWords.dropLine) fun _ => ?_
  dsimp only
  split
  · exact .bind .raiseOld fun _ => .bind .raiseOld fun _ => .pure
  · exact .pure

theorem RKeeps.writeAll {c : RopeCmd} {m : List (Nat × Word)} {l : List (Nat × Rope)} : RKeeps r (Machine.writeAll c m l) := by
  induction l generalizing m with
  | nil => exact .pure
  | cons y l ih => exact .bind .writeNode fun _ => ih

theorem RKeeps.buildRopes {c : RopeCmd} {l : List (Option Rope)} : RKeeps r (Machine.buildRopes c l) := by
  unfold Machine.buildRopes
  refine .bind .writeAll fun _ => .bind (.forIn fun o _ => ?_) fun _ => .pure
  split
  · exact .bind .raiseOld fun _ => .pure
  · exact .pure

theorem RKeeps.publishRoot {c : RopeCmd} {root : Word} : RKeeps r (Machine.publishRoot c root) :=
  .bind .handlePlace fun _ => .bind .state fun _ => .ite .fail (.bind .acquire fun _ => .ite .throw (.bind .probe fun _ =>
    .bind (.update fun _ h => h.commit) fun _ => .ite .pure .lowerCount))

theorem RKeeps.ropeEdit {c : RopeCmd} {cl : RClass} {x : Option Rope} : RKeeps r (Machine.ropeEdit c cl x) :=
  .bind .heightLimit fun _ => .bind .lenLimit fun _ => .bind .buildRopes fun _ => .ite (.bind .publishRoot fun _ => .pure) .pure

/-! ### The commands (R290, R291, R425, R426) -/

theorem RKeeps.rcatEffect {c : RopeCmd} {cl : RClass} : RKeeps r (Machine.rcatEffect c cl) :=
  .bind .readRoot fun _ => .ite (.bind .readRoot fun _ => .bind .join fun _ => .ropeEdit) (.ite (.bind .fail fun _ => .bind .join fun _ => .ropeEdit)
    (.bind .newLeaf fun _ => .bind .pure fun _ => .bind .join fun _ => .ropeEdit))

theorem RKeeps.rsplitEffect {c : RopeCmd} {cl : RClass} : RKeeps r (Machine.rsplitEffect c cl) := by
  unfold Machine.rsplitEffect
  refine .bind .readRoot fun a => .ite .fail ?_
  extract_lets results
  have hres (dst : Option Place) : RKeeps r (results dst) := by
    refine .bind .split fun (y, z) => .bind .heightLimit fun _ => .bind .heightLimit fun _ => .bind .buildRopes fun m => ?_
    extract_lets ret store
    have hst (u : Unit) : RKeeps r (store u) := by
      cases dst with
      | none => exact .pure
      | some pl => exact .bind (.update fun _ h => h.commit) fun _ => .pure
    exact .ite (.bind .publishRoot fun _ => hst ()) (hst ())
  exact .ite (.bind .pure fun _ => hres _) (.bind .handlePlace fun _ => .bind .pure fun _ => hres _)

theorem RKeeps.rspliceEffect {c : RopeCmd} {cl : RClass} : RKeeps r (Machine.rspliceEffect c cl) :=
  .bind .readRoot fun _ => .ite .fail (.bind .readRoot fun _ => .bind .split fun _ => .bind .split fun _ => .bind .join fun _ => .bind .join fun _ => .ropeEdit)

theorem RKeeps.findLeaf {c : RopeCmd} {cl : RClass} {y : Rope} {start pos : Nat} : RKeeps r (Machine.findLeaf c cl y start pos n) := by
  induction n generalizing y start with
  | zero => exact .fail
  | succ n ih =>
    unfold Machine.findLeaf
    split
    · exact .pure
    · exact .bind .kids fun _ => .ite ih ih

theorem RKeeps.rfindEffect {c : RopeCmd} {cl : RClass} : RKeeps r (Machine.rfindEffect c cl) := by
  unfold Machine.rfindEffect
  refine .bind .readRoot fun _ => ?_
  dsimp only
  split
  · exact .fail
  · exact .ite .fail (.bind .findLeaf fun _ => .pure)

theorem RKeeps.visit {c : RopeCmd} {cl : RClass} {fa : FoldArgs} {y : Rope} {start : Nat} : RKeeps r (Machine.visit c cl fa y start n) := by
  induction n generalizing y start with
  | zero => exact .fail
  | succ n ih =>
    unfold Machine.visit
    extract_lets lo hi below
    have hb (v : Nat) : RKeeps r (below v) :=
      .ite .pure (.ite .pure (.bind .kids fun _ => .bind ih fun _ => .bind ih fun _ => .pure))
    refine .ite .pure ?_
    split
    · exact .ite (.bind .slotFold fun _ => hb _) (.bind .pure fun _ => hb _)
    · exact .bind .pure fun _ => hb _

theorem RKeeps.writePieces {c : RopeCmd} {l : List Piece} : RKeeps r (Machine.writePieces c n l) := by
  induction l generalizing n with
  | nil => exact .pure
  | cons y l ih => exact .ite .fail (.bind .ropePlace fun _ => .bind (.update fun _ h => h.putWords) fun _ => ih)

theorem RKeeps.rfoldEffect {c : RopeCmd} {cl : RClass} : RKeeps r (Machine.rfoldEffect c cl) := by
  unfold Machine.rfoldEffect
  refine .bind .readRoot fun _ => .ite .fail <| .ite .fail ?_
  dsimp only
  split
  · exact .bind .pure fun _ => .bind .writePieces fun _ => .pure
  · exact .bind .visit fun _ => .bind .writePieces fun _ => .pure

theorem RKeeps.ropePage {c : RopeCmd} : RKeeps r (Machine.ropePage c p) := by
  unfold Machine.ropePage
  refine .bind .ropeGlobal fun _ => .bind .state fun _ => ?_
  split
  · exact .pure
  · exact .fail

theorem RKeeps.dataPages {c : RopeCmd} {hi m : Nat} {l : List (Bool × Nat)} : RKeeps r (Machine.dataPages c hi n m l) := by
  induction n generalizing m l with
  | zero => exact .pure
  | succ n ih => exact .ite .pure (.bind .ropePage fun _ => ih)

theorem RKeeps.pinNode {c : RopeCmd} {cl : RClass} {y : Rope} {l : List (Bool × Nat)} : RKeeps r (Machine.pinNode c cl y l n) := by
  induction n generalizing y l with
  | zero => exact .fail
  | succ n ih =>
    unfold Machine.pinNode
    extract_lets bytes below
    have hb (g : List (Bool × Nat)) : RKeeps r (below g) := by
      simp only [below]
      split
      · exact .dataPages
      · exact .bind .kids fun _ => .bind ih fun _ => ih
    split
    · exact .bind .ropePage fun _ => .bind .pure fun _ => hb _
    · exact .bind .pure fun _ => hb _

theorem RKeeps.rpinEffect {c : RopeCmd} {cl : RClass} : RKeeps r (Machine.rpinEffect c cl) :=
  .ite .pure (.bind .raiseCount fun _ => .bind .readNode fun _ => .bind .pinNode fun _ => .pure)

theorem RKeeps.ropeEffect {c : RopeCmd} : RKeeps r (Machine.ropeEffect c) := by
  unfold Machine.ropeEffect
  split
  · exact .fail
  · split
    · exact .bind .raiseCount fun _ => .pure
    · exact .bind .lowerCount fun _ => .pure
    · split
      · exact .fail
      · split
        · exact .rcatEffect
        · exact .rsplitEffect
        · exact .rspliceEffect
        · exact .rfindEffect
        · exact .rfoldEffect
        · exact .rpinEffect

/-! ### Complete (R287, R293, R294, R424) -/

theorem Kept.ropeRun {c : RopeCmd} {fin : RopeFin} (h : Kept r s) (hr : ropeRun c s = .ok (t, fin)) : Kept r t := by
  have hm := h.runRM (RKeeps.ropeEffect (c := c))
  unfold Machine.ropeRun at hr
  split at hr
  · next he =>
    rw [he] at hm
    obtain ⟨rfl, rfl⟩ := Prod.mk.inj (Except.ok.inj hr)
    exact hm
  · next he =>
    rw [he] at hm
    split at hr
    · exact nomatch hr
    · obtain ⟨rfl, rfl⟩ := Prod.mk.inj (Except.ok.inj hr)
      exact hm.giveBack

theorem Kept.ropePass {c : RopeCmd} (h : Kept r s) : Kept r (Machine.ropePass sq c s) := h.foldl fun _ _ h => h.joinChan

theorem Kept.ropeFinish {c : RopeCmd} {f : RopeFin} (h : Kept r s) : Kept r (Machine.ropeFinish s sq c f) := by
  unfold Machine.ropeFinish
  exact .ite h.putWords.completeFront.ropePass.modSquare.lowerCnt h.putWords.completeFront.ropePass.modSquare.lowerCnt.modCtx.bump

theorem Kept.enterLimbo {c : RopeCmd} {f : RopeFin} (h : Kept r s) : Kept r (ropeSettle.enterLimbo sq c f s p) := by
  unfold ropeSettle.enterLimbo
  exact h.fresh.modSquare

theorem Kept.ropeSettle {c : RopeCmd} {f : RopeFin} (h : Kept r s) : Kept r (Machine.ropeSettle s sq c f) := by
  unfold Machine.ropeSettle
  dsimp only
  split
  · exact (h.foldl fun _ _ h => h.enterLimbo).ropeFinish
  · exact (h.foldl fun _ _ h => h.enterLimbo).setRope

theorem Kept.execRopeCommandComplete (h : Kept r s) : Next r (Machine.execRopeCommandComplete sq idx s) := by
  unfold Machine.execRopeCommandComplete
  split
  · exact h
  · split
    · exact h
    · split
      · exact h.ropeSettle
      · split
        · next hr => exact (h.ropeRun hr).ropeSettle
        · exact h.setRope.askWalk

theorem Kept.execLimboRelease (h : Kept r s) : Next r (Machine.execLimboRelease sq idx s) := by
  unfold Machine.execLimboRelease
  split
  · exact h
  · next q _ =>
    split
    · exact h
    · split
      · next hr =>
        have hm := (h.joinChan (c := .cmd q.cmd.id) (f := ({} : Front).mark .device s.ord.commits)).runRM (RKeeps.pushNode (c := q.cmd) (node := q.node))
        rw [hr] at hm
        exact hm.modSquare
      · split
        · exact h.modSquare.askWalk
        · exact h

end Sys2Proof.Machine
end

section
/-! PROOF. Samples, switches and lockstep keep the canonical form (O58). -/

namespace Sys2Proof.Machine

-- One proof at a time: side by side they would wait for each other, each on a thread of its own.
set_option Elab.async false

variable {r s t old : State} {k : Core} {c core i n tenant slot idx sq u g off queue uid page origin die link pair list object req size kind : Nat}
  {a d b : RegF} {p v value : Word} {x : Ctx} {pl : Place} {l : Loc} {own : BitVec 16} {op : Op} {e : Env} {f : Front}

/-! ### `smp` (R299, R436) -/

theorem Kept.execSmp (h : Kept r s) : Next r (Machine.execSmp a b s) := by
  unfold Machine.execSmp
  refine h.run ?_
  refine .bind .readVal fun _ => .bind .readVal fun _ => .bind .env fun _ => .bind .me fun _ => .bind .state fun _ => ?_
  dsimp only
  split
  · exact .bind .raiseCnt fun _ => .modify fun _ h => h.upd
  · exact .trap

/-! ### The collector (R302, R303, R305, R437) -/

theorem Sound.openRound8 {m t : Nat} {j : BitVec 32} (h : Sound k) : Opt Sound (Machine.openRound8 k i m t j) := by
  unfold Machine.openRound8
  split
  · exact h
  · split
    · trivial
    · exact h.upd

theorem Kept.trySmpw {l : LoadReq} (h : Kept r s) : Kept r (Machine.trySmpw core slot s l) := by
  unfold Machine.trySmpw
  split
  · refine .ite h ?_
    split
    · exact h
    · next hk =>
      have h1 := h.setCore (c := core) fun hr => (h.core core hr).openRound8.of_eq hk
      dsimp only
      split
      · exact h1
      · exact .ite h1 (h1.modCore.modCtx.modCore fun _ hk => hk.writeReg)
  · exact h

theorem Kept.trySmpws (h : Kept r s) : Kept r (Machine.trySmpws core s) := h.foldl fun _ _ h => h.foldl fun _ _ h => h.trySmpw

theorem Kept.execSmpw (h : Kept r s) : Next r (Machine.execSmpw d s) :=
  h.run (.bind .env fun _ => .bind .me fun _ => .ite .illegal (.ite .trap (.ite .trap (.bind .readyDest fun _ => .bind .raiseCnt fun _ =>
    .bind .nextSeq fun _ => .bind .state fun _ => .bind (.modify fun _ h => h.upd) fun _ => .bind .modMe fun _ => .modify fun _ h => h.trySmpw))))

theorem Kept.smpDone {m : SmpMsg} (h : Kept r s) : Kept r (Machine.smpDone s m) := by
  unfold Machine.smpDone
  split
  · exact .ite h.lowerCnt h
  · exact h

theorem Kept.bumpBy {m : Nat} (h : Kept r s) : Kept r (Machine.bumpBy s c n m) := by
  induction m generalizing s with
  | zero => exact h
  | succ m ih => exact ih h.bump

theorem Kept.meeting {m : SmpMsg} (h : Kept r s) : Kept r (Machine.meeting s m).2 := by
  refine List.foldlRecOn _ _ (motive := fun q : List SmpMsg × State => Kept r q.2) h fun _ h _ _ => ?_
  dsimp only
  split
  · exact h.draw
  · exact h

theorem Kept.collect {m : SmpMsg} {ms : List SmpMsg} (h : Kept r s) : Opt (Kept r) (Machine.collect s m ms) := by
  unfold Machine.collect
  extract_lets total gone core x
  have hg {u : State} (hu : Kept r u) : Kept r (gone u) := (hu.upd.foldl fun _ _ h => h.smpDone).foldl fun _ _ h => h.trySmpws
  split
  · split
    · exact hg h
    · refine (hg h).foldl fun _ _ h => ?_
      split
      · exact h.bumpBy
      · exact h
  · split
    · exact (hg h).bumpBy
    · split
      · trivial
      · next hk => exact (hg (h.setCore fun hr => ((h.core _ hr).openRound8.of_eq hk).upd)).trySmpws

theorem Kept.execSampleInjectionArrival (h : Kept r s) : Next r (Machine.execSampleInjectionArrival idx s) := by
  unfold Machine.execSampleInjectionArrival
  split
  · exact h
  · split
    · exact h
    · dsimp only
      split
      · exact h
      · split
        · next t ht => exact (h.meeting.collect.of_eq ht)
        · exact h

/-! ### The switch record (R323) -/

theorem Kept.putSwitch {t : Nat} (h : Kept r s) : Kept r (Machine.putSwitch s t n v) := by
  unfold Machine.putSwitch
  split
  · exact h.commit
  · exact h

theorem Kept.switchDone {t area op status tick : Nat} (h : Kept r s) : Kept r (Machine.switchDone s t area op status tick core slot) := by
  unfold Machine.switchDone
  exact h.putSwitch.deliverCause

theorem Kept.pollSwitch {t : Nat} (h : Kept r s) : Kept r (Machine.pollSwitch s t) := by
  unfold Machine.pollSwitch
  refine .ite h ?_
  dsimp only
  split
  · exact h.putSwitch.modDisp
  · exact h.putSwitch.switchDone

/-! ### Switch out (R324, R325) -/

theorem Kept.setSwitch {w : Switch} (h : Kept r s) : Kept r (Machine.setSwitch s w) := h.modDisp

theorem Kept.dropSwitch {t : Nat} (h : Kept r s) : Kept r (Machine.dropSwitch s t) := h.modDisp

theorem Kept.execSwitchOutStop (h : Kept r s) : Next r (Machine.execSwitchOutStop tenant s) := by
  unfold Machine.execSwitchOutStop
  split
  · exact .ite h.setSwitch h
  · exact h

theorem Kept.spillKerb {q : Part} {y : Nat × Nat × Ctx} (h : Kept r s) : Kept r (Machine.spillKerb q s y) := by
  unfold Machine.spillKerb
  dsimp only
  split
  · next ht => exact ((Kept.ringAppend (.ite h.unpark h)).of_eq ht).endLanding
  · exact h

theorem Kept.execSwitchOutDrainEnd (h : Kept r s) : Next r (Machine.execSwitchOutDrainEnd tenant s) := by
  unfold Machine.execSwitchOutDrainEnd
  split
  · split
    · exact (h.foldl fun _ _ h => h.spillKerb).setSwitch
    · exact h
  · exact h

theorem Sound.vacate (h : Sound k) : Sound (Machine.vacate k) := by
  obtain ⟨-, hr, hl, hf, hg, hb⟩ := h.parts
  exact .of rfl hr hl hf hg hb

/-- The cores of a partition that is switched out. -/
def Saved.sound (v : Saved) : Prop := ∀ e ∈ v.cores, Sound e.2

theorem Disp.canonical_iff {d : Disp} : d.canonical = true ↔ ∀ v ∈ d.saved, v.sound := by
  simp only [Disp.canonical, List.all_eq_true, Saved.sound]
  exact forall₂_congr fun v _ => forall₂_congr fun e _ => ⟨fun h => ⟨h⟩, fun h => h.1⟩

theorem Kept.saved {w : Saved} (h : Kept r s) (hw : w ∈ s.disp.saved) (hr : r.canonical = true) : w.sound := by
  obtain ⟨-, -, -, -, -, hd, -⟩ := (State.canonical_iff s).1 (h.1 hr)
  exact Disp.canonical_iff.1 hd w hw

theorem Kept.saveOf {q : Part} {m : Nat} {z : Bool} (h : Kept r s) (hr : r.canonical = true) : (Machine.saveOf s q m v z).sound := by
  intro e he
  obtain ⟨c, -, rfl⟩ := List.mem_map.1 he
  exact h.core c hr

/-- One more partition that is switched out. -/
theorem Kept.addSaved {w : Saved} (h : Kept r s) (hw : r.canonical = true → w.sound) {ports smps ships walks missWait} :
    Kept r { s with ports := ports, smps := smps, ships := ships, walks := walks, missWait := missWait, disp := { s.disp with saved := s.disp.saved ++ [w] } } := by
  refine ⟨fun hr => ?_, h.2⟩
  obtain ⟨h1, h2, h3, h4, h5, h6, h7⟩ := (State.canonical_iff s).1 (h.1 hr)
  refine (State.canonical_iff _).2 ⟨h1, h2, h3, h4, h5, Disp.canonical_iff.2 fun u hu => ?_, h7⟩
  rcases List.mem_append.1 hu with hu | hu
  · exact Disp.canonical_iff.1 h6 u hu
  · rw [List.mem_singleton.1 hu]
    exact hw hr

theorem Kept.takeOut {q : Part} {w : Saved} (h : Kept r s) (hw : r.canonical = true → w.sound) : Kept r (Machine.takeOut s q w) := by
  have h1 : Kept r (q.cores.foldl (fun s c => s.modCore c Machine.vacate) (s.forget (fun pl => q.cores.any (fun c => pl.onCore c)))) :=
    h.forget.foldl fun _ _ h => h.modCore fun _ hk => hk.vacate
  exact Kept.addSaved (h1.foldl fun _ _ h => h.modSquare) hw

theorem Kept.countSwitch {p : Part} (h : Kept r s) : Kept r (Machine.countSwitch s p) := h.foldl fun _ _ h => h.bump

theorem Kept.writeArea {area m j l : Nat} (h : Kept r s) : Kept r (Machine.writeArea s area m n j l) := by
  induction l generalizing s j with
  | zero => exact h
  | succ l ih => exact ih h.writeAt

theorem Kept.execSwitchOutDone (h : Kept r s) : Next r (Machine.execSwitchOutDone tenant s) := by
  unfold Machine.execSwitchOutDone
  split
  · split
    · exact h
    · have ht {q : Part} {m : Nat} {v : Word} {z : Bool} : Kept r (Machine.countSwitch (Machine.takeOut (Machine.dropSwitch s tenant) q (Machine.saveOf s q m v z)) q) :=
        (h.dropSwitch.takeOut h.saveOf).countSwitch
      dsimp only
      split
      · exact ht
      · exact ht.forget.upd.writeArea.switchDone
  · exact h

/-! ### Switch in (R326) -/

theorem Kept.takeGens {w : Stall} (h : Kept r s) : Opt (fun t => Kept r t.2) (Machine.takeGens c w n s) := by
  induction n generalizing s with
  | zero => exact h
  | succ n ih => exact h.takeGen.bind fun _ h => (ih h).map fun _ h => h

theorem SMap.foldl_put_wf {α β : Type} [DecidableEq α] {d : α} {f : β → Nat} {g : β → α} (l : List β) {m : SMap α} (h : SMap.wf m d = true) :
    SMap.wf (l.foldl (fun m a => SMap.put m d (f a) (g a)) m) d = true := by
  induction l generalizing m with
  | nil => exact h
  | cons a l ih => exact ih (SMap.put_wf m d _ _ h)

theorem Sound.mergeGranule {z : Core} {m : List (BitVec 16 × BitVec 16)} {y : Nat × BitVec 16} (h : Sound k) : Sound (Machine.mergeGranule z m k y) := by
  obtain ⟨hc, hr, hl, hf, hg, hb⟩ := h.parts
  unfold Machine.mergeGranule
  split
  · exact h
  · exact .of hc hr (Memory.write_wf _ _ _ _ hl) (SMap.foldl_put_wf _ hf) (SMap.put_wf _ _ _ _ hg) hb

theorem mergeRegs_wf {m : List (BitVec 16 × BitVec 16)} {l : SMap RegEntry} (h : SMap.wf l RegEntry.reset = true) :
    SMap.wf (mergeRegs k m l x) RegEntry.reset = true := SMap.foldl_put_wf _ h

theorem Sound.mergeCore {now : Core} {m : List (BitVec 16 × BitVec 16)} (h : Sound now) (hk : Sound k) : Sound (Machine.mergeCore now k m) := by
  obtain ⟨hc, hr, -⟩ := h.parts
  obtain ⟨-, -, -, -, -, hb⟩ := hk.parts
  have hm : Sound (k.lsGen.foldl (Machine.mergeGranule k m) now) := h.foldl fun _ _ h => h.mergeGranule
  obtain ⟨-, -, hl, hf, hg, -⟩ := hm.parts
  exact .of (SMap.foldl_put_wf _ hc)
    (List.foldlRecOn _ _ (motive := fun l : SMap RegEntry => SMap.wf l RegEntry.reset = true) hr fun _ h _ _ => mergeRegs_wf h) hl hf hg hb

theorem Kept.resumeOne {e : Nat × Ctx} (h : Kept r s) : Kept r (Machine.resumeOne c s e) := by
  unfold Machine.resumeOne
  dsimp only
  split
  · exact h.modCtx.modCore
  · exact .ite h.modCtx.ready h.unpark
  · exact h

theorem Kept.restoreCore {n : Nat} {z : Core} (h : Kept r s) (hz : r.canonical = true → Sound z) : Opt (Kept r) (Machine.restoreCore s c n z) :=
  h.takeGens.map fun _ h => ((h.setCore fun hr => (h.core c hr).mergeCore (hz hr)).foldl fun _ _ h => h.resumeOne).modCore

theorem Kept.restoreCores {l : List (Nat × Core)} (h : Kept r s) (hl : r.canonical = true → ∀ e ∈ l, Sound e.2) :
    Opt (Kept r) (Machine.restoreCores n l s) := by
  induction l generalizing s with
  | nil => exact h
  | cons e l ih =>
    exact (h.restoreCore fun hr => hl hr e List.mem_cons_self).bind fun _ h => ih h fun hr e he => hl hr e (List.mem_cons_of_mem _ he)

/-- A partition is back, or waits for the generations that it lacks. -/
def Back (r : State) : Except State State → Prop
  | .ok t => Kept r t
  | .error t => Kept r t

theorem Kept.bringBack {w : Saved} (h : Kept r s) (hw : r.canonical = true → w.sound) : Back r (Machine.bringBack s w) := by
  have hc := (h.forget (p := fun pl => w.cores.any (fun c => pl.onCore c.1))).restoreCores (n := w.tenant) (l := w.cores) hw
  unfold Machine.bringBack
  split
  · exact h.foldl fun _ _ h => h.stallFor
  · next ht => exact (hc.of_eq ht).foldl fun _ _ h => h.modSquare

theorem Kept.keepFlits (h : Kept r s) : Kept r (Machine.keepFlits s n) := by
  refine h.modDisp fun d hd => Disp.canonical_iff.2 fun v hv => ?_
  obtain ⟨u, hu, rfl⟩ := List.mem_map.1 hv
  split
  · exact fun e he => nomatch he
  · exact Disp.canonical_iff.1 hd u hu

theorem Kept.execSwitchInRestoreEnd {ok : Bool} (h : Kept r s) : Next r (Machine.execSwitchInRestoreEnd tenant ok s) := by
  unfold Machine.execSwitchInRestoreEnd
  split
  · next w v _ hv =>
    have hb : Back r (Machine.bringBack s v) := h.bringBack (h.saved (List.mem_of_find?_eq_some hv))
    split
    · exact h
    · dsimp only
      split
      · exact h
      · split
        · split
          · next hr =>
            rw [hr] at hb
            exact Kept.setSwitch (Kept.keepFlits hb)
          · next hr =>
            rw [hr] at hb
            exact hb
        · exact h.dropSwitch.switchDone
  · exact h

theorem Kept.resumePart (h : Kept r s) : Kept r (Machine.resumePart s n) := by
  unfold Machine.resumePart
  split
  · exact h
  · exact h.upd.modDisp fun d hd => Disp.canonical_iff.2 fun v hv => Disp.canonical_iff.1 hd v (List.mem_of_mem_filter hv)

theorem Kept.execSwitchInResume (h : Kept r s) : Next r (Machine.execSwitchInResume tenant s) := by
  unfold Machine.execSwitchInResume
  split
  · split
    · exact h.dropSwitch.resumePart.countSwitch.switchDone
    · exact h
  · exact h

/-! ### Lockstep (R328, R329) -/

theorem Kept.execLockstepForcedCompare (h : Kept r s) : Next r (Machine.execLockstepForcedCompare core s) := by
  unfold Machine.execLockstepForcedCompare
  split
  · exact .ite h.modCore h
  · exact h

theorem Sound.bump (h : Sound k) : Sound (k.bump n) := h.upd

theorem Sound.backTo (h : Sound k) : Sound (Machine.backTo k i x) := .ite h (.ite h.setCtx.upd h.setCtx.upd)

theorem Kept.rollBack {q : LockPair} (h : Kept r s) : Kept r (Machine.rollBack s core q) := by
  refine h.modCore fun k hk => ?_
  obtain ⟨hc, hr, hm⟩ := hk.parts
  have hb {l : List (Nat × RegEntry)} : SMap.wf (l.foldr (fun (n, e) r => SMap.put r RegEntry.reset n e) k.regs) RegEntry.reset = true := by
    induction l with
    | nil => exact hr
    | cons e l ih => exact SMap.put_wf _ _ _ _ ih
  have h1 : Sound { k with regs := (q.log.filter (fun (n, _) => lockWindow q n)).foldr (fun (n, e) r => SMap.put r RegEntry.reset n e) k.regs } :=
    ⟨(Core.canonical_iff _).2 ⟨hc, hb, hm⟩⟩
  exact (Sound.bump (Sound.upd (h1.foldl fun _ _ h => h.backTo))).upd

theorem Kept.pairFails (h : Kept r s) : Kept r (Machine.pairFails s core) := by
  unfold Machine.pairFails
  exact h.foldl fun _ _ h => h.logEvent.abortGang

/-! ### Soft errors (R320) -/

theorem Kept.dropLineOf (h : Kept r s) : Kept r (Machine.dropLineOf s core) := by
  unfold Machine.dropLineOf
  exact .ite h.draw.draw.modCore (.ite h.draw.draw.modSquare h.draw.draw.modSquare)

theorem Kept.accessError {regFile : Bool} {addr : Word} (h : Kept r s) : Kept r (Machine.accessError s core slot regFile addr) := by
  unfold Machine.accessError
  dsimp only
  split
  · exact h.draw.bump.replayTrap.rotate
  · exact .ite h h.draw.bump.raise.rotate

theorem Kept.keepPoint (h : Kept r s) : Kept r (Machine.keepPoint s core) := h.modCore

theorem Kept.execSoftError {site : ErrSite} {correctable : Bool} (h : Kept r s) : Next r (Machine.execSoftError site correctable s) := by
  unfold Machine.execSoftError
  split
  · exact .ite h.bump h.accessError
  · exact .ite h.bump h.dropLineOf.bump
  · exact .ite h.bump h.bump.abortTenant.logEvent
  · split
    · exact h
    · exact .ite h.bump.keepPoint (.ite h.pairFails h.rollBack)

end Sys2Proof.Machine
end

section
/-! PROOF. The host's side keeps the canonical form (O58). -/

namespace Sys2Proof.Machine

-- One proof at a time: side by side they would wait for each other, each on a thread of its own.
set_option Elab.async false

variable {r s t old : State} {k : Core} {c core i n tenant slot idx sq u g off queue uid page origin die link pair list object req size kind : Nat}
  {a d b : RegF} {p v value : Word} {x : Ctx} {pl : Place} {l : Loc} {own : BitVec 16} {op : Op} {e : Env} {f : Front}

/-! ### Reset and boot (R49, R340) -/

/-- The host's side changes, but no checkpoint image. -/
theorem Kept.withHost {y : HostSide} (h : Kept r s) (hy : y.images = s.host.images) : Kept r { s with host := y } := by
  refine ⟨fun hr => ?_, h.2⟩
  obtain ⟨h1, h2, h3, h4, h5, h6, h7⟩ := (State.canonical_iff s).1 (h.1 hr)
  exact (State.canonical_iff _).2 ⟨h1, h2, h3, h4, h5, h6, by rw [← hy] at h7; exact h7⟩

theorem Kept.execDeviceReset (h : Kept r s) : Next r (Machine.execDeviceReset s) := by
  refine ⟨fun hr => ?_, fun _ => rfl⟩
  obtain ⟨-, h2, -, -, -, -, h7⟩ := (State.canonical_iff s).1 (h.1 hr)
  exact (State.canonical_iff _).2 ⟨rfl, h2, rfl, rfl, rfl, rfl, h7⟩

theorem Kept.execBoot {imageOk blobOk fieldsOk : Bool} {blob : Blob} (h : Kept r s) : Next r (Machine.execBoot imageOk blobOk fieldsOk blob s) := by
  unfold Machine.execBoot
  dsimp only
  split
  · exact (Kept.withHost (y := { s.host with phase := 1 }) h rfl).upd
  · split
    · exact Kept.withHost h ((apply_ite HostSide.images _ _ _).trans (ite_self _))
    · exact h

/-! ### Links and peers (R339, R304). An event of a link, die, tenant, queue, slot or BAR that the DL3 has not does nothing (Instr.wf) -/

theorem Kept.execPeerAccessArrival {acc : PeerAccess} (h : Kept r s) : Next r (Machine.execPeerAccessArrival link tenant acc s) := by
  unfold Machine.execPeerAccessArrival
  split
  · exact h
  · split
    · exact h
    · dsimp only
      split
      · split
        · exact h.draw.commit
        · exact h.draw
      · split
        · exact h.draw.weakRead.modHost
        · exact h.draw
      · exact h.upd

/-! ### Trusted interfaces (R338) -/

/-- Bytes of HBM are gone, and the host's side changes, but no checkpoint image. -/
theorem Kept.dropHbm {z : Nat × Byte → Bool} {y : HostSide} (h : Kept r s) (hy : y.images = s.host.images) :
    Kept r { s with hbm := s.hbm.filter z, host := y } := by
  refine ⟨fun hr => ?_, h.2⟩
  obtain ⟨h1, hm⟩ := (State.canonical_iff _).1 ((Kept.withHost h hy).1 hr)
  exact (State.canonical_iff _).2 ⟨SMap.filter_wf _ _ _ h1, hm⟩

theorem Kept.execTdispStateChange {new : TdispState} {pages : List Nat} (h : Kept r s) : Next r (Machine.execTdispStateChange tenant new pages s) := by
  unfold Machine.execTdispStateChange
  split
  · exact h
  · refine Kept.logEvent (Kept.modHost (Kept.ite (Kept.modHost (Kept.ite ?_ h)) (Kept.ite ?_ h)))
    all_goals exact Kept.dropHbm h.abortTenant.forget rfl

/-! ### Limits (R347) -/

theorem Kept.execPowerLimitHold {mW : BitVec 32} (h : Kept r s) : Next r (Machine.execPowerLimitHold mW s) := by
  unfold Machine.execPowerLimitHold
  exact .ite h.modHost.logEvent h.modHost

theorem Kept.tempHalt (h : Kept r s) : Kept r (Machine.tempHalt s) := by
  unfold Machine.tempHalt
  exact (h.foldl fun _ _ h => h.abortGang).modHost.logEvent

theorem Kept.setTemp {temp : BitVec 16} (h : Kept r s) : Kept r (Machine.setTemp s die temp) := by
  unfold Machine.setTemp
  exact .ite (Kept.tempHalt (.ite h.modHost.logEvent h.modHost)) (.ite h.modHost.logEvent h.modHost)

/-! ### Host accesses (R194, R335 to R337, R341) -/

theorem Kept.hostAccess {named : Bool} {z : State → State} (h : Kept r s) (hz : ∀ s, Kept r s → Kept r (z s)) :
    Kept r (Machine.hostAccess size off named z s) := .ite h.modHost (hz _ h.modHost)

theorem Kept.hostLocal {full : Bool} (h : Kept r s) : Kept r (Machine.hostLocal req core off value full s) := by
  unfold Machine.hostLocal
  split
  · exact h.bump
  · exact h.record.modCore fun _ hk => .ite hk.lsWriteFe hk.lsWrite

theorem Kept.sampleAge (h : Kept r s) : Kept r (Machine.sampleAge s) := by
  unfold Machine.sampleAge
  exact h.draw.draw.modHost

theorem Kept.readTelemetry (h : Kept r s) : Kept r (Machine.readTelemetry s n).2 := by
  unfold Machine.readTelemetry
  dsimp only
  exact .ite h.sampleAge h

theorem Kept.i3cRead {addr reg : Nat} (h : Kept r s) : Opt (fun t => Kept r t.2) (Machine.i3cRead s addr reg) := by
  unfold Machine.i3cRead
  split
  · exact h.readTelemetry
  · exact trivial

theorem Kept.i3cOwn (h : Kept r s) : Kept r (Machine.i3cOwn s) := by
  unfold Machine.i3cOwn
  dsimp only
  split
  · next _ t ht => exact (h.draw.i3cRead.of_eq ht).modHost
  · exact h.draw

theorem Kept.bar4 (h : Kept r s) : Opt (fun t => Kept r t.2) (Machine.bar4 s off) := by
  unfold Machine.bar4
  split
  · exact h.weakRead
  · split
    · exact trivial
    · dsimp only
      split
      · split
        · exact h
        · exact h.weakRead
      · exact trivial

theorem Kept.barRead {bar : Nat} (h : Kept r s) : Opt (fun t => Kept r t.2) (Machine.barRead s bar off) := by
  unfold Machine.barRead
  dsimp only
  split
  · split
    · exact .ite h.readTelemetry h
    · exact trivial
  · split
    · split
      · exact h
      · exact trivial
    · split
      · exact h.bar4
      · exact trivial

theorem Kept.execHostRead {bar : Nat} {y : HostAcc} (h : Kept r s) : Next r (Machine.execHostRead bar y s) := by
  have hb := h.barRead (bar := bar) (off := y.off)
  refine Kept.hostAccess h fun u hu => ?_
  split
  · next hv => exact (hb.of_eq hv).modHost
  · exact hu

theorem Kept.fillSlot (h : Kept r s) : Kept r (Machine.fillSlot req queue slot s) := by
  unfold Machine.fillSlot
  exact .ite h h.setSlot.setChan

theorem Kept.writeSlot (h : Kept r s) : Kept r (Machine.writeSlot req queue slot off value s) := by
  unfold Machine.writeSlot
  exact .ite h.fillSlot (.ite h h.setSlot)

theorem Kept.hostOwn (h : Kept r s) : Kept r (Machine.hostOwn s) := by
  unfold Machine.hostOwn
  exact h.draw.commit

/-! ### The mailbox (R342) -/

theorem Kept.writeRegister (h : Kept r s) : Kept r (Machine.writeRegister off value s) := by
  unfold Machine.writeRegister
  exact .ite h (.ite h.modHost (.ite h.modHost (.ite h.fresh.modHost h)))

theorem Kept.cmdDone {st : Nat} {r0 r1 : Word} (h : Kept r s) : Kept r (Machine.cmdDone s st r0 r1) := h.modHost

theorem Kept.cmdFail {st : Nat} (h : Kept r s) : Kept r (Machine.cmdFail s st) := h.cmdDone

theorem Kept.mailbox {z : State → State} (h : Kept r s) (hz : ∀ s, Kept r s → Kept r (z s)) : Next r (Machine.mailbox n z s) := by
  unfold Machine.mailbox
  split
  · exact h
  · split
    · exact h.cmdFail
    · exact hz s h

theorem Kept.execMailboxCommandEnd (h : Kept r s) : Next r (Machine.execMailboxCommandEnd s) := by
  unfold Machine.execMailboxCommandEnd
  dsimp only
  split
  · exact h.modHost
  · split
    · exact h
    · exact h.modHost
  · exact h

/-! ### Command 3: a supervisor gang -/

theorem Kept.placeSup {r1 : Run} (h : Kept r s) : Kept r (Machine.placeSup s r1 origin) := by
  unfold Machine.placeSup
  refine .ite h.cmdFail ?_
  refine .ite h.cmdFail ?_
  refine .ite h ?_
  dsimp only
  split
  · next t ht => exact (h.nextRunId.modDisp.placeGang.of_eq ht).cmdDone
  · exact h.foldl fun _ _ h => h.stallFor

theorem Kept.startSup (h : Kept r s) : Kept r (Machine.startSup s) := by
  unfold Machine.startSup
  dsimp only
  split
  · exact h.placeSup
  · refine .ite h.cmdFail ?_
    refine .ite h.cmdFail ?_
    split
    · exact h.cmdFail
    · exact h.modHost.placeSup

/-! ### Commands 4 to 7: debug sessions (R81, R344) -/

theorem Kept.execOpenDebugSession (h : Kept r s) : Next r (Machine.execOpenDebugSession s) := by
  unfold Machine.execOpenDebugSession
  refine h.mailbox fun _ h => ?_
  split
  · exact h.cmdFail
  · exact h.modHost.cmdDone

theorem Kept.execCloseDebugSession (h : Kept r s) : Next r (Machine.execCloseDebugSession s) := by
  unfold Machine.execCloseDebugSession
  refine h.mailbox fun _ h => ?_
  dsimp only
  split
  · exact h.cmdFail
  · exact h.modHost.cmdFail

theorem Kept.execDebugRead (h : Kept r s) : Next r (Machine.execDebugRead s) := by
  unfold Machine.execDebugRead
  refine h.mailbox fun _ h => ?_
  dsimp only
  split
  · exact h.cmdFail
  · exact .ite h.cmdFail h.cmdDone

theorem Sound.putReg {y : RegEntry} (h : Sound k) : Sound { k with regs := SMap.put k.regs RegEntry.reset n y } := by
  obtain ⟨hc, hr, hm⟩ := h.parts
  exact ⟨(Core.canonical_iff _).2 ⟨hc, SMap.put_wf _ _ _ _ hr, hm⟩⟩

theorem Kept.dbgWrite {y : DbgArg} {tags : Word} (h : Kept r s) : Kept r (Machine.dbgWrite s n y v tags) := by
  unfold Machine.dbgWrite
  dsimp only
  split
  · exact .ite (h.modCore fun _ hk => hk.putReg) h
  · exact .ite (h.record.modCore fun _ hk => hk.lsWriteFe) h
  · exact h

theorem Kept.execDebugWrite (h : Kept r s) : Next r (Machine.execDebugWrite s) := by
  unfold Machine.execDebugWrite
  refine h.mailbox fun _ h => ?_
  dsimp only
  split
  · exact h.cmdFail
  · exact .ite h.cmdFail h.dbgWrite.cmdFail

/-! ### Commands 8 to 10: checkpoint, restore, resume (R345, R346) -/

theorem Kept.ckptBegin (h : Kept r s) : Kept r (Machine.ckptBegin s) := by
  unfold Machine.ckptBegin
  exact h.modDisp.modHost

theorem Kept.writeImage {m : Image} (h : Kept r s) : Kept r (Machine.writeImage m s n) := by
  induction n with
  | zero => exact h
  | succ n ih => exact .ite h ih.writeAt

/-- The state's own image has its form. -/
theorem Kept.addImage {m : Image} {q : Option Ckpt} (h : Kept r s) (hm : r.canonical = true → m.canonical = true) :
    Kept r (s.modHost (fun y => { y with images := m :: y.images, ckpt := q })) := by
  refine ⟨fun hr => ?_, h.2⟩
  obtain ⟨h1, h2, h3, h4, h5, h6, h7⟩ := (State.canonical_iff s).1 (h.1 hr)
  exact (State.canonical_iff _).2 ⟨h1, h2, h3, h4, h5, h6, by simpa using ⟨hm hr, by simpa using h7⟩⟩

theorem Image.canonical_iff (m : Image) : m.canonical = true ↔ Memory.wf m.hbm = true ∧ SMap.wf m.cores Core.reset = true ∧
    SMap.wf m.squares Square.reset = true ∧ m.cores.all (fun e => e.2.canonical) = true ∧ m.disp.canonical = true := by
  simp only [Image.canonical, Bool.and_eq_true, and_assoc]

theorem Kept.ownImage {peer : Option Nat} {base : Word} {num len3 : Nat} {code : BitVec 2} {m : Nat} (h : Kept r s) (hr : r.canonical = true) :
    Image.canonical { peer := peer, base := base, num := num, len3 := len3, code := code, t := m, hbm := s.hbm, cores := s.cores, squares := s.squares,
                      disp := s.disp } = true := by
  obtain ⟨h1, -, h3, h4, h5, h6, -⟩ := (State.canonical_iff s).1 (h.1 hr)
  exact (Image.canonical_iff _).2 ⟨h1, h3, h4, h5, h6⟩

theorem Kept.ckptWrite {q : Ckpt} {path : Option Nat × Word} (h : Kept r s) : Kept r (Machine.ckptWrite s q path) :=
  (Kept.writeImage (.ite (h.draw.addImage h.ownImage) (h.draw.addImage h.ownImage).forget)).cmdDone

theorem Kept.execCheckpoint (h : Kept r s) : Next r (Machine.execCheckpoint s) := by
  unfold Machine.execCheckpoint
  refine h.mailbox fun _ h => ?_
  split
  · exact h.cmdFail
  · exact .ite h h.ckptBegin
  · exact .ite h.cmdFail (.ite h.ckptWrite h)

theorem Kept.restoreImage {m : Image} (h : Kept r s) (hm : r.canonical = true → m.canonical = true) : Kept r (Machine.restoreImage s m) := by
  refine ⟨fun hr => ?_, (h.forget (p := fun p => !p.isHost)).2⟩
  obtain ⟨-, h2, -, -, -, -, h7⟩ := (State.canonical_iff s).1 (h.1 hr)
  obtain ⟨h1, h3, h4, h5, h6⟩ := (Image.canonical_iff m).1 (hm hr)
  exact (State.canonical_iff _).2 ⟨SMap.filter_wf _ _ _ h1, h2, h3, h4, h5, h6, h7⟩

/-- An image from elsewhere has the form that its check asks for; its bytes of HBM are written one by one. -/
theorem foreignImage_canonical {z : Nat → Byte} : (foreignImage z).canonical = true := by
  unfold foreignImage
  generalize List.range hbmTop = bytes
  dsimp only
  have hm {o : Option Image} {m : Image} (hm : m.canonical = true) : ((o.filter Image.canonical).getD m).canonical = true := by
    cases ho : o.filter Image.canonical with
    | none => exact hm
    | some i => exact (Option.filter_eq_some_iff.1 ho).2
  obtain ⟨-, h3, h4, h5, h6⟩ := (Image.canonical_iff _).1 (hm (o := imageState (bytesOf z 0 (imageWord z 8)))
    (m := { peer := none, base := 0, num := 0, len3 := 0, code := 0, t := 0, hbm := [], cores := [], squares := [], disp := Disp.reset }) rfl)
  exact (Image.canonical_iff _).2 ⟨Memory.foldl_put_wf bytes rfl, h3, h4, h5, h6⟩

theorem Kept.imageAt {m : Nat} {ok : Bool} {path : Option Nat × Word} {im : Image} (h : Kept r s) (hm : imageAt s m ok path = some im)
    (hr : r.canonical = true) : im.canonical = true := by
  obtain ⟨-, -, -, -, -, -, h7⟩ := (State.canonical_iff s).1 (h.1 hr)
  rw [List.all_eq_true] at h7
  have hi {o : Option Image} {z : Nat → Byte} (ho : ∀ i ∈ o, i ∈ s.host.images) : (o.getD (foreignImage z)).canonical = true := by
    cases o with
    | none => exact foreignImage_canonical
    | some i => exact h7 i (ho i rfl)
  unfold Machine.imageAt at hm
  dsimp only at hm
  split at hm
  · split at hm
    · obtain rfl := Option.some.inj hm
      exact hi fun i hi => List.mem_of_find?_eq_some hi
    · exact nomatch hm
  · split at hm
    · obtain rfl := Option.some.inj hm
      exact hi fun i hi => List.mem_of_getElem? hi
    · exact nomatch hm

theorem Kept.execRestore {ok : Bool} (h : Kept r s) : Next r (Machine.execRestore ok s) := by
  refine h.mailbox fun s h => ?_
  split
  · exact h.cmdFail
  · refine .ite h.cmdFail ?_
    dsimp only
    split
    · next hi => exact (h.draw.restoreImage (h.draw.imageAt hi)).cmdDone
    · exact h.draw.logEvent.cmdFail

theorem Kept.execResume (h : Kept r s) : Next r (Machine.execResume s) := by
  unfold Machine.execResume
  refine h.mailbox fun _ h => ?_
  split
  · exact .ite h.modHost.cmdFail h.cmdFail
  · exact h.cmdFail

theorem Kept.resumeSaved (h : Kept r s) : Opt (Kept r) (Machine.resumeSaved s n) := by
  unfold Machine.resumeSaved
  split
  · exact h
  · next w hw =>
    have hb : Back r (Machine.bringBack s w) := h.bringBack (h.saved (List.mem_of_find?_eq_some hw))
    split
    · next hr =>
      rw [hr] at hb
      exact (Kept.resumePart hb).foldl fun _ _ h => h.bump
    · trivial

theorem Kept.resumeAll {l : List Nat} (h : Kept r s) : Opt (Kept r) (Machine.resumeAll l s) := by
  induction l generalizing s with
  | nil => exact h
  | cons a l ih => exact h.resumeSaved.bind fun _ h => ih h

theorem Kept.foldSaved {ts : List Nat} (h : Kept r s) : Kept r (Machine.foldSaved ts s) := h.foldl fun _ _ h => h.foldl fun _ _ h => h.stallFor

theorem Kept.execCheckpointResume (h : Kept r s) : Next r (Machine.execCheckpointResume s) := by
  unfold Machine.execCheckpointResume
  split
  · split
    · split
      · split
        · next t ht => exact (h.resumeAll.of_eq ht).modHost
        · exact h.foldSaved
      · exact h
    · exact h
  · exact h

/-! ### The event ring (R343) -/

theorem Kept.writeEvent {base cap first : Nat} {y : Event} (h : Kept r s) : Kept r (Machine.writeEvent s base cap first y) :=
  Kept.withHost h.commit.commit.commit.commit rfl

theorem Kept.flushEvents (h : Kept r s) : Kept r (Machine.flushEvents s) := by
  unfold Machine.flushEvents
  split
  · exact h
  · exact .ite h (h.modHost.foldl fun _ _ h => h.writeEvent)

end Sys2Proof.Machine
end

section
/-! PROOF. What follows a move keeps the canonical form (O58). -/

namespace Sys2Proof.Machine

-- One proof at a time: side by side they would wait for each other, each on a thread of its own.
set_option Elab.async false

variable {r s t old : State} {k : Core} {c core i n tenant slot idx sq u g off queue uid page origin die link pair list object req size kind : Nat}
  {a d b : RegF} {p v value : Word} {x : Ctx} {pl : Place} {l : Loc} {own : BitVec 16} {op : Op} {e : Env} {f : Front}

/-! ### Wake conditions (R185) -/

theorem Kept.tryWake {p : Parked} (h : Kept r s) : Kept r (Machine.tryWake s p) := by
  unfold Machine.tryWake
  dsimp only
  split
  · exact .ite h (.ite h.wakeBody (.ite h.endWait h.wake))
  · exact h

theorem Kept.wakeAll (h : Kept r s) : Kept r (Machine.wakeAll s) := h.foldl fun _ _ h => h.tryWake

/-! ### Fill (R64) -/

theorem Kept.fillReg (h : Kept r s) : Kept r (Machine.fillReg s c i) := by
  unfold Machine.fillReg
  dsimp only
  split
  · exact h
  · exact h.modCtx.modCore fun _ hk => hk.writeReg

/-! ### The moves that are possible -/

theorem Kept.nextTurn (h : Kept r s) : Kept r (Machine.nextTurn s).2.2 := by
  unfold Machine.nextTurn
  split
  · dsimp only
    exact h.upd
  · dsimp only
    exact h.upd
  · dsimp only
    split
    · dsimp only
      exact h.draw
    · split
      · split
        · dsimp only
          exact h.draw.upd
        · dsimp only
          exact h.draw
      · dsimp only
        exact h.draw

/-! ### What falls at fixed cycles (R7) -/

theorem Kept.tick (h : Kept r s) : Kept r (Machine.tick s) := by
  unfold Machine.tick
  exact (h.draw.foldl fun _ _ h => h.passVisits).upd

/-! ### After every move -/

theorem Kept.settleSkip {issued : Option Nat} (h : Kept r s) : Kept r (Machine.settleSkip c issued s) := h.foldl fun _ _ h => .ite h h.modCtx

theorem Kept.settleSkips {t : Option Turn} {slot : Option Nat} (h : Kept r s) : Kept r (Machine.settleSkips t slot s) :=
  h.foldl fun _ _ h => h.settleSkip

theorem Kept.settleFlags {issued : Option Nat} (h : Kept r s) : Kept r (Machine.settleFlags old issued s) := by
  unfold Machine.settleFlags
  exact h.modDisp

theorem Kept.settlePair {t : Option Turn} {at_ : Nat × Core} (h : Kept r s) : Kept r (Machine.settlePair old t s at_) :=
  .ite h (.ite h.modCore (.ite h.modCore h))

theorem Kept.settlePairs {t : Option Turn} (h : Kept r s) : Kept r (Machine.settlePairs old t s) := h.foldl fun _ _ h => h.settlePair

theorem Kept.settleRots {t : Option Turn} {slot : Option Nat} (h : Kept r s) : Kept r (Machine.settleRots old t slot s) := by
  unfold Machine.settleRots
  refine h.foldl fun _ _ h => ?_
  refine .ite h ?_
  dsimp only
  split
  · exact .ite h.modCore.modCtx h.modCore
  · exact h.modCore

theorem Kept.settleSamples (h : Kept r s) : Kept r (Machine.settleSamples s) := h.foldl fun _ _ h => .ite h.trySmpws h

theorem Kept.settleRounds (h : Kept r s) : Kept r (Machine.settleRounds s) := h.foldl fun _ _ h => h.closeRounds

theorem Kept.settle {m : Option Turn} {timed : Bool} (h : Kept r s) : Kept r (Machine.settle old m timed s) := by
  unfold Machine.settle
  extract_lets slot tenant s1 s2 s3
  have h1 : Kept r s1 := h.settleSamples.settleRounds.settleKerb.wakeAll.settleRots
  have h2 : Kept r s2 := h1.settleSkips.settleFlags
  have h3 : Kept r s3 := h2.settlePairs.flushEvents
  exact .ite h3.tick h3

end Sys2Proof.Machine
end

section
/-! PROOF. Every instruction and every event keeps the canonical form; so does a step (O58). -/

namespace Sys2Proof.Machine

-- One proof at a time: side by side they would wait for each other, each on a thread of its own.
set_option Elab.async false

variable {r s t : State}

/-! ### Instructions, events, and one move -/

/-- Every instruction and every event keeps the form, by what it is made of. -/
theorem Kept.exec {i : Instr} (h : Kept r s) : Next r (Machine.exec i s) := by
  cases i with
  | add | sub | mul | mulh | mulhn | div | divn | rem | remn | and | or | xor | shl | shr | sra | min | max | minn | maxn | slt | sltn | seq |
    perm =>
    exact h.run .alu3
  | sel => exact h.run .alu4
  | clz | ctz | pop | addi | andi | ori | xori | shli | shri | srai | slti | sltni | bfx => exact h.run .alu2
  | lui => exact h.run .writeInt
  | addpc => exact h.run .bodyAddpc
  | bfi => exact h.run .bodyBfi
  | beq | bne | blt | bge | bltn | bgen => exact h.run .condBranch
  | bsig => exact h.run (.bind .readReg fun _ => .ite .branchTo .pure)
  | b o => exact Kept.run (i := .b o) h .branchTo
  | bl o => exact Kept.run (i := .bl o) h (.bind .env fun _ => .bind .writeInt fun _ => .branchTo)
  | jr => exact h.execJr
  | ld => exact h.run .bodyLd
  | ldGo => exact h.execLdGo
  | st => exact h.run .storeBody
  | ldt => exact h.execLdt
  | stt => exact h.execStt
  | ldfe | ldff | stfe | sete => exact h.run .feBody
  | amo => exact h.run .bodyAmo
  | cas => exact h.run .bodyCas
  | fence => exact h.execFence
  | spc => exact h.execSpc
  | cvspLoc | cvspSq | cvspRem => exact h.run .convert
  | fadd | fsub | fmul | fdiv | fmin | fmax => exact h.run .fp2
  | fma | fnma => exact h.run .fp3
  | fsqrt | frcp | fex2 | flg2 => exact h.run .fp1
  | fneg | fabs => exact h.run .signOp
  | fcmp => exact h.run .bodyFcmp
  | fcls => exact h.run .bodyFcls
  | fcvt => exact h.run .bodyFcvt
  | fcvi => exact h.run .bodyFcvi
  | icvf => exact h.run .bodyIcvf
  | sigr => exact h.run .bodySigr
  | sigw => exact h.run .bodySigw
  | qblkI8 | qblkI4 => exact h.run .qblk
  | fscl => exact h.run .bodyFscl
  | exit => exact Kept.run (i := .exit) h .exitBody
  | yield => exact Kept.run (i := .yield) h (.bind .env fun _ => .bind .myCore fun _ => .modMe)
  | pass m => exact Kept.run (i := .pass m) h .passBody
  | take => exact h.run .bodyTake
  | go => exact h.run (.bind .readVal fun _ => .bind .me fun _ => .ite .goLanding .goTake)
  | susp => exact h.execSusp
  | spawn | spawnTry | spawnW => exact h.run .spawnBody
  | ctxnew => exact h.run .ctxnewBody
  | ctxkill => exact h.run .ctxkillBody
  | hold => exact h.execHold
  | wait l u c m q => exact Kept.run (i := .wait l u c m q) h .waitBody
  | bar n => exact Kept.run (i := .bar n) h .barBody
  | barw n => exact Kept.run (i := .barw n) h .barwBody
  | semp n => exact Kept.run (i := .semp n) h .sempBody
  | semv n => exact Kept.run (i := .semv n) h .semvBody
  | one => exact h.execOne
  | rep => exact h.execRep
  | sbind => exact h.run (.bind .readVal fun _ => .bind .me fun _ => .ite .illegal (.bind .bindWait fun _ => .modMe))
  | sfree => exact h.run (.bind .bindWait fun _ => .modMe)
  | gnewZero | gnewTrap => exact h.run .gnewBody
  | gfree => exact h.run .gfreeBody
  | gchk => exact h.run .gchkBody
  | cpy | cpym | deal | bkt => exact h.run .copyBody
  | qfen => exact h.run .qfenBody
  | mld | mmul | mgrp | mzero | mout | mxa => exact h.run .matBody
  | rcat | rsplit | rsplice | rfind | rfold | rpin | rref | rdrop => exact h.run .ropeBody
  | smp => exact h.execSmp
  | smpw => exact h.execSmpw
  | erd => exact h.run .bodyErd
  | ewr => exact h.execEwr
  | nop => exact Kept.run (i := .nop) (body := pure ()) h .pure
  | trap n => exact Kept.run (i := .trap n) h .stopTrap
  | eret => exact Kept.run (i := .eret) h (.bind .me fun _ => .bind .env fun _ => .ite .illegal (.modify fun _ h => h.doEret))
  | dbg => exact h.execDbg
  | idle => exact h.execIdle
  | csrr => exact h.run .csrrBody
  | csrw | csrs | csrc => exact h.run .csrwBody
  | cfgctx => exact h.run .cfgctxBody
  | tlbi => exact h.execTlbi
  | gscrub => exact h.run (.bind .env fun _ => .bind .me fun _ => .bind .modMyCore fun _ => .parkKeep)
  | replayWordIssue => exact h.execReplayWordIssue
  | oneResultDelivery => exact h.execOneResultDelivery
  | loadReply => exact h.execLoadReply
  | storeBufferCommit => exact h.execStoreBufferCommit
  | postedStoreAccept => exact h.execPostedStoreAccept
  | portWordArrival => exact h.execPortWordArrival
  | translationWalkEnd => exact h.execTranslationWalkEnd
  | tlbiRemovalComplete => exact h.execTlbiRemovalComplete
  | foldEnd => exact h.execFoldEnd
  | gscrubEnd => exact h.execGscrubEnd
  | copyCommandStart => exact h.execCopyCommandStart
  | copyCommandComplete => exact h.execCopyCommandComplete
  | qfenComplete => exact h.execQfenComplete
  | matrixCommandStart => exact h.execMatrixCommandStart
  | matrixCommandComplete => exact h.execMatrixCommandComplete
  | ropeCommandStart => exact h.execRopeCommandStart
  | ropeCommandComplete => exact h.execRopeCommandComplete
  | limboRelease => exact h.execLimboRelease
  | contextDrainEnd => exact .ite h.freeCtx h
  | recordArrival => exact h.execRecordArrival
  | landing => exact h.execLanding
  | holdRecordSend => exact .ite h h.holdSend
  | goDeliveryRetry => exact h.execGoDeliveryRetry
  | holdDeliveryRetry => exact .ite h.holdSend h
  | landingRingRedelivery => exact h.execLandingRingRedelivery
  | sampleInjectionArrival => exact h.execSampleInjectionArrival
  | partitionScan => exact (h.reread.foldl fun _ _ h => h.bringIn).endKerb
  | launchSlotTake => exact h.execLaunchSlotTake
  | launchRingReturn => exact h.execLaunchRingReturn
  | depWordPoll => exact h.execDepWordPoll
  | dispatchDecision => exact .ite h h.decide1
  | runBlock => exact h.execRunBlock
  | gangFillEnd => exact h.execGangFillEnd
  | gangRetire => exact h.execGangRetire
  | runComplete => exact h.execRunComplete
  | doneWordRetry => exact h.execDoneWordRetry
  | streamEntryReread => exact h.execStreamEntryReread
  | allAsleepSample => exact h.execAllAsleepSample
  | switchRecordPoll => exact h.foldl fun _ _ h => h.pollSwitch
  | switchOutStop => exact h.execSwitchOutStop
  | switchOutDrainEnd => exact h.execSwitchOutDrainEnd
  | switchOutDone => exact h.execSwitchOutDone
  | switchInResume => exact h.execSwitchInResume
  | lockstepForcedCompare => exact h.execLockstepForcedCompare
  | softError => exact h.execSoftError
  | deviceReset => exact h.execDeviceReset
  | boot => exact h.execBoot
  | linkDown | linkUp => exact .ite h.modHost.logEvent h
  | tdispStateChange => exact h.execTdispStateChange
  | powerLimitHold => exact h.execPowerLimitHold
  | temperatureHigh | temperatureHalt | temperatureHoldRelease => exact .ite h.setTemp h
  | peerAccessArrival => exact h.execPeerAccessArrival
  | hostLocalWrite | hostFillAliasWrite => exact Kept.hostAccess h fun _ h => h.hostLocal
  | hostHbmWrite => exact Kept.hostAccess h fun _ h => h.commit
  | registerWrite => exact Kept.hostAccess h fun _ h => h.writeRegister
  | hostRead => exact h.execHostRead
  | launchSlotWrite => exact .ite (h.hostAccess fun _ h => h.writeSlot) h
  | launchSlotFull => exact .ite (h.hostAccess fun _ h => h.fillSlot) h
  | setDescriptorTable | setEventRing => exact h.mailbox fun _ h => .ite h.cmdFail (.ite h.cmdFail h.modHost.cmdFail)
  | startSupervisorGang => exact h.mailbox fun _ h => h.startSup
  | openDebugSession => exact h.execOpenDebugSession
  | closeDebugSession => exact h.execCloseDebugSession
  | debugRead => exact h.execDebugRead
  | debugWrite => exact h.execDebugWrite
  | checkpoint => exact h.execCheckpoint
  | restore => exact h.execRestore
  | resume => exact h.execResume
  | checkpointResume => exact h.execCheckpointResume
  | issueRefusalHolder => exact h.execIssueRefusalHolder
  | takeAnswer => exact h.execTakeAnswer
  | mailboxCommandEnd => exact h.execMailboxCommandEnd
  | switchInRestoreEnd => exact h.execSwitchInRestoreEnd
  | powerLimitRelease => exact .ite h.modHost h

/-- The fetched instruction comes with a state that keeps the form; so does what stops the fetch. -/
def Fetched (r : State) : Except Stop (Instr × State) → Prop
  | .ok (_, t) => Kept r t
  | .error x => Answers r (.error x : Except Stop (Unit × State))

theorem Kept.fetch (h : Kept r s) : Fetched r (Machine.fetch s) := by
  unfold Machine.fetch
  dsimp only
  split
  · next hr => exact Keeps.fetchWord.stopped h hr
  · next hr =>
    split
    · exact Keeps.fetchWord.ok h hr
    · exact Keeps.fetchWord.ok h hr

theorem Kept.runTurn {m : Turn} (h : Kept r s) : Next r (Machine.runTurn m s) := by
  cases m with
  | event => exact .branch h.exec h
  | copyUnit => exact h.copyUnit
  | fillReg => exact h.fillReg
  | elected => exact h.runPassed
  | hostOwn => exact h.hostOwn
  | i3c => exact h.i3cOwn
  | issue c =>
    unfold Machine.runTurn
    dsimp only
    split
    · exact h
    · next i _ =>
      have h1 : Kept r { s with cur := (c, i) } := h.upd
      have hf := h1.fetch
      split
      · next hr =>
        rw [hr] at hf
        exact h1.finish hf
      · next hr =>
        rw [hr] at hf
        exact Kept.exec hf

theorem Next.after {f : State → State} {o : Host.Outcome State Fault Refusal} (h : Next r o) (hf : ∀ s, Kept r s → Kept r (f s)) :
    Next r (Machine.after f o) := by
  cases o with
  | next t => exact hf t h
  | fault | refused => trivial

theorem Kept.step (h : Kept r s) : Next r (Machine.step s) := by
  have hn := h.nextTurn
  unfold Machine.step
  split
  · next hr =>
    rw [hr] at hn
    exact Kept.settle hn
  · next hr =>
    rw [hr] at hn
    exact (Kept.runTurn hn).after fun _ h => h.settle

/-- Settles O58: a state has its own form, and every step keeps the form that a state has. -/
theorem canonicalKept : Obligations.CanonicalKept := by
  have hk {s t : State} (hst : Machine.step s = .next t) : Kept s t := by
    have := (Kept.refl s).step
    rwa [hst] at this
  exact ⟨fun _ _ h hst => (hk hst).canonical h, fun _ _ h hst => (hk hst).ordered h⟩

end Sys2Proof.Machine
end

section
/-! PROOF. What a frontier holds as it grows, and fences (R227, R236, R386). -/

namespace Sys2Proof.Machine

/-! ### What a frontier holds (R227) -/

theorem Front.has_iff {f : Front} {pl : Place} {w : Wr} :
    f.has pl w = true ↔ (∃ m ∈ f.marks, m.1.has w.by_ = true ∧ w.n ≤ m.2) ∨ (pl, w.n) ∈ f.seen ∨ ∃ b ∈ f.early, w.by_.key = some b := by
  unfold Front.has Writer.key
  generalize w.by_ = a
  cases a with
  | ctx u c t r q => cases r <;> simp [or_assoc]
  | disp | port a | link => simp

theorem Front.has_of_covers {f : Front} {p : Parties} {n : Nat} {pl : Place} {w : Wr} (h : f.covers p n) (hp : p.has w.by_ = true) (hn : w.n ≤ n) :
    f.has pl w = true := by
  obtain ⟨m, hm, rfl, hk⟩ := h
  exact Front.has_iff.mpr (.inl ⟨m, hm, hp, hn.trans hk⟩)

theorem mem_joinNew {α : Type} [BEq α] [LawfulBEq α] {a b : List α} {y : α} (h : y ∈ a ∨ y ∈ b) : y ∈ joinNew a b := by
  by_cases ha : y ∈ a
  · exact List.mem_append_left _ ha
  · exact List.mem_append_right _ (List.mem_filter.mpr ⟨h.resolve_left ha, by simpa using ha⟩)

/-- A frontier that joins another holds what either holds. -/
theorem Front.has_join {f g : Front} {pl : Place} {w : Wr} (h : f.has pl w = true ∨ g.has pl w = true) : (f.join g).has pl w = true := by
  rcases or_congr Front.has_iff Front.has_iff |>.mp h with (⟨m, hm, hp, hn⟩ | hs | ⟨b, hb, hk⟩) | (⟨m, hm, hp, hn⟩ | hs | ⟨b, hb, hk⟩)
  · exact Front.has_of_covers (Front.covers_join (.inl ⟨m, hm, rfl, le_rfl⟩)) hp hn
  · exact Front.has_iff.mpr (.inr (.inl (mem_joinNew (.inl hs))))
  · exact Front.has_iff.mpr (.inr (.inr ⟨b, mem_joinNew (.inl hb), hk⟩))
  · exact Front.has_of_covers (Front.covers_join (.inr ⟨m, hm, rfl, le_rfl⟩)) hp hn
  · exact Front.has_iff.mpr (.inr (.inl (mem_joinNew (.inr hs))))
  · exact Front.has_iff.mpr (.inr (.inr ⟨b, mem_joinNew (.inr hb), hk⟩))

@[simp] theorem Front.join_empty (f : Front) : f.join {} = f := by
  unfold Front.join joinNew
  simp

/-! ### What a context gains -/

theorem State.front_gain_same (s : State) (u : Nat) (f : Front) : (s.gain u f).front u = (s.front u).join f := by
  unfold State.gain
  split
  · next h => rw [h, Front.join_empty]
  · exact SMap.get_put_same ..

theorem State.front_gain_ne {u v : Nat} (h : v ≠ u) (s : State) (f : Front) : (s.gain u f).front v = s.front v := by
  unfold State.gain
  split
  · rfl
  · exact SMap.get_put_ne _ _ _ h.symm

@[simp] theorem State.rels_gain (s : State) (u v : Nat) (f : Front) : (s.gain u f).rels v = s.rels v := by
  unfold State.gain
  split <;> rfl

@[simp] theorem State.gain_commits (s : State) (u : Nat) (f : Front) : (s.gain u f).ord.commits = s.ord.commits := by
  unfold State.gain
  split <;> rfl

/-! ### The three parts of a fence -/

/-- A fence of kind full or acq sees what the scope's writers have committed. -/
def fenceSees (kind : FenceKind) (p : Parties) (u : Nat) (s : State) : State :=
  if kind = .rel then s else s.gain u (({} : Front).mark p s.ord.commits)

/-- One of kind full or rel leaves a snapshot for the later stores. -/
def fenceCarries (kind : FenceKind) (p : Parties) (u : Nat) (s : State) : State :=
  if kind = .acq then s else s.modOrd (fun o => { o with rels := SMap.put o.rels [] u ((s.rels u).filter (fun e => e.1 != p) ++ [(p, s.front u)]) })

/-- One of system scope ends the bound of R337. -/
def fenceEnds (p : Parties) (u : Nat) (s : State) : State :=
  if p = .system then s.modOrd (fun o => { o with sysDone := SMap.put o.sysDone 0 u o.commits }) else s

section
variable {kind : FenceKind} {p : Parties} {u : Nat} {s : State}

theorem fenced_eq (kind : FenceKind) (p : Parties) (u : Nat) (s : State) :
    fenced kind p u s = fenceEnds p u (fenceCarries kind p u (fenceSees kind p u s)) := rfl

/-- A fence concerns the order alone. -/
theorem fenced_state (kind : FenceKind) (p : Parties) (u : Nat) (s : State) : { fenced kind p u s with ord := s.ord } = s := by
  have hsees : { fenceSees kind p u s with ord := s.ord } = s := by
    unfold fenceSees
    split
    · rfl
    · rw [State.gain_eq]
  have hcarries : ∀ t, { fenceCarries kind p u t with ord := s.ord } = { t with ord := s.ord } := by
    intro t
    unfold fenceCarries
    split <;> rfl
  have hends : ∀ t, { fenceEnds p u t with ord := s.ord } = { t with ord := s.ord } := by
    intro t
    unfold fenceEnds
    split <;> rfl
  rw [fenced_eq, hends, hcarries, hsees]

theorem fenceEnds_keeps {β : Type} (g : Order → β) (hg : ∀ (o : Order) m, g { o with sysDone := m } = g o) :
    g (fenceEnds p u s).ord = g s.ord := by
  unfold fenceEnds
  split
  · exact hg ..
  · rfl

theorem fenceCarries_keeps {β : Type} (g : Order → β) (hg : ∀ (o : Order) m, g { o with rels := m } = g o) :
    g (fenceCarries kind p u s).ord = g s.ord := by
  unfold fenceCarries
  split
  · rfl
  · exact hg ..

theorem fenceSees_keeps {β : Type} (g : State → β) (hg : ∀ (s : State) u f, g (s.gain u f) = g s) : g (fenceSees kind p u s) = g s := by
  unfold fenceSees
  split
  · rfl
  · exact hg ..

theorem fenced_wsets : (fenced kind p u s).ord.wsets = s.ord.wsets :=
  (fenceEnds_keeps Order.wsets fun _ _ => rfl).trans <| (fenceCarries_keeps Order.wsets fun _ _ => rfl).trans <|
    fenceSees_keeps (fun s => s.ord.wsets) State.gain_wsets

theorem fenced_commits : (fenced kind p u s).ord.commits = s.ord.commits :=
  (fenceEnds_keeps Order.commits fun _ _ => rfl).trans <| (fenceCarries_keeps Order.commits fun _ _ => rfl).trans <|
    fenceSees_keeps (fun s => s.ord.commits) State.gain_commits

/-- What a context has seen after a fence it has seen by the first part. -/
theorem fenced_front (v : Nat) : (fenced kind p u s).front v = (fenceSees kind p u s).front v :=
  (fenceEnds_keeps (fun o => SMap.get o.fronts v {}) fun _ _ => rfl).trans (fenceCarries_keeps (fun o => SMap.get o.fronts v {}) fun _ _ => rfl)

theorem fenced_rels (v : Nat) : (fenced kind p u s).rels v = (fenceCarries kind p u (fenceSees kind p u s)).rels v :=
  fenceEnds_keeps (fun o => SMap.get o.rels v []) fun _ _ => rfl

theorem fenced_front_grows {q : Place} {w : Wr} (h : (s.front u).has q w = true) : ((fenced kind p u s).front u).has q w = true := by
  rw [fenced_front]
  unfold fenceSees
  split
  · exact h
  · rw [State.front_gain_same]
    exact Front.has_join (.inl h)

/-- A fence of kind full or acq has seen every write that a writer in the scope has committed. -/
theorem fenced_front_sees (hk : kind ≠ .rel) {q : Place} {w : Wr} (hp : p.has w.by_ = true) (hn : w.n ≤ s.ord.commits) :
    ((fenced kind p u s).front u).has q w = true := by
  rw [fenced_front, fenceSees, if_neg hk, State.front_gain_same]
  exact Front.has_join (.inr (Front.has_of_covers (Front.covers_mark_same ..) hp hn))

/-- After one of kind full or rel each later store carries what the context has then seen. -/
theorem fenced_rels_carry (hk : kind ≠ .acq) : (p, (fenced kind p u s).front u) ∈ (fenced kind p u s).rels u := by
  rw [fenced_front, fenced_rels, fenceCarries, if_neg hk]
  show _ ∈ SMap.get (SMap.put _ _ u _) u _
  rw [SMap.get_put_same]
  exact List.mem_append_right _ List.mem_cons_self

theorem fenced_rels_acq : (fenced .acq p u s).rels u = s.rels u := by
  rw [fenced_rels, fenceCarries, if_pos rfl]
  exact fenceSees_keeps (fun s => s.rels u) fun s w f => State.rels_gain s w u f

theorem fenced_others {v : Nat} (hv : v ≠ u) : (fenced kind p u s).front v = s.front v ∧ (fenced kind p u s).rels v = s.rels v := by
  rw [fenced_front, fenced_rels]
  constructor
  · unfold fenceSees
    split
    · rfl
    · exact State.front_gain_ne hv s _
  · calc (fenceCarries kind p u (fenceSees kind p u s)).rels v = (fenceSees kind p u s).rels v := by
          unfold fenceCarries
          split
          · rfl
          · exact SMap.get_put_ne _ _ _ hv.symm
      _ = s.rels v := fenceSees_keeps (fun s => s.rels v) fun s w f => State.rels_gain s w v f

end

/-! ### The issue slot of a fence (R386) -/

theorem exec_fence (k : FenceKind) (sc : Scope) (s : State) : exec (.fence k sc) s = execFence k sc s := rfl

/-- An instruction that starts and whose body stalls keeps its issue slot for its context. -/
theorem run_stalls {i : Instr} {body : M Unit} {s : State} (hs : starts i s = true) (hb : body (doer i s) (begun s) = .error .stall) :
    run i body s = .next (rotate s.cur.1 s.cur.2 s) := by
  rw [run_starts body hs, hb]; rfl

/-- A scope names the same parties at the start of the issue slot. -/
theorem scopeSet_begun (s : State) (sc : Scope) : scopeSet (begun s) sc ((begun s).ctx s.cur.1 s.cur.2) s.cur.1 = scopeSet s sc s.who s.cur.1 := by
  rw [begun_ctx_who]
  cases sc <;> rfl

section
variable {k : FenceKind} {sc : Scope} {s : State}

theorem fence_completes (hs : starts (.fence k sc) s = true) (hp : performed (doer (.fence k sc) s) (begun s) = true) :
    exec (.fence k sc) s = .next (ended s (fenced k (scopeSet s sc s.who s.cur.1) s.who.uid (begun s))) := by
  rw [← scopeSet_begun, exec_fence]
  refine run_completes hs ?_
  unfold performed at hp
  rw [M.bind_ok (M.env_run ..), M.bind_ok (M.me_run ..), M.bind_ok (M.myCore_run ..), M.if_pos_run hp, M.modify_run, doer_core, doer_slot, begun_ctx_who]

theorem fence_stalls (hs : starts (.fence k sc) s = true) (hp : performed (doer (.fence k sc) s) (begun s) = false) :
    exec (.fence k sc) s = .next (rotate s.cur.1 s.cur.2 s) := by
  refine run_stalls hs ?_
  unfold performed at hp
  rw [M.bind_ok (M.env_run ..), M.bind_ok (M.me_run ..), M.bind_ok (M.myCore_run ..), M.if_neg_run (Bool.eq_false_iff.mp hp)]
  rfl

end

/-- Settles O18: a completed fence is `fenced` of the state at the start of its issue slot, which concerns the order alone. -/
theorem fences : Obligations.Fences := by
  unfold Obligations.Fences
  intro k sc s hs
  refine ⟨fun hp => ⟨_, fence_completes hs hp, ?_⟩, fence_stalls hs⟩
  generalize scopeSet s sc s.who s.cur.1 = p
  refine ⟨fenced_wsets (s := begun s), fenced_commits (s := begun s), fenced_state k p s.who.uid (begun s),
    fun q w => fenced_front_grows (s := begun s), fun hk q w => fenced_front_sees (s := begun s) hk, fenced_rels_carry, ?_,
    fun v => fenced_others (s := begun s)⟩
  rintro rfl
  exact fenced_rels_acq (s := begun s)

end Sys2Proof.Machine
end

section
/-! PROOF. A store that leaves the buffer or the journal: what it writes, the fall of its class, and a refusal (R231 to R233, R244, R319, R441). -/

namespace Sys2Proof.Machine

/-! ### The fall of class S (R186) -/

theorem lowerS_falls {s : State} {c i u : Nat} (hu : (s.ctx c i).uid = u) (hf : (s.ctx c i).state ≠ .free) :
    ((lowerS s c i u).ctx c i).nS = (s.ctx c i).nS - 1 := by
  unfold lowerS
  rw [if_pos ⟨hu, hf⟩, State.ctx_modCtx_same]

theorem lowerS_core_keeps {β : Type} (p : Core → β) (hp : ∀ k i x, p (Core.setCtx k i x) = p k) (s : State) (c i u d : Nat) :
    p ((lowerS s c i u).core d) = p (s.core d) := by
  unfold lowerS
  split
  · exact State.core_modCtx_keeps p hp ..
  · rfl

theorem lowerS_keeps (s : State) (c i u : Nat) :
    (lowerS s c i u).ord = s.ord ∧ (lowerS s c i u).host = s.host ∧ (lowerS s c i u).free = s.free := by
  unfold lowerS
  split <;> exact ⟨rfl, rfl, rfl⟩

/-! ### A commit in memory (R232) -/

/-- What a commit leaves of a core beside the bytes and words of its store. -/
theorem State.core_commit_keeps {β : Type} (p : Core → β) (hp : ∀ k m f g, p { k with ls := m, fe := f, lsGen := g } = p k) (s : State) (k : Commit)
    (pl : Place) (n v : Nat) (own : BitVec 16) (d : Nat) : p ((s.commit k pl n v own).core d) = p (s.core d) := by
  have hw : ∀ (t : State) (w : Nat), p ((t.writeAt pl n w own).core d) = p (t.core d) := by
    intro t w
    cases pl with
    | ls c off => exact State.core_modCore_keeps p (Core.lsWrite_keeps p hp ..) d
    | hbm m => unfold State.writeAt; dsimp only; split <;> rfl
    | host m => rfl
    | peer j m => rfl
  unfold State.commit
  cases pl with
  | ls c off => exact hw _ _
  | hbm m =>
    dsimp only
    split
    · rfl
    · exact hw _ _
  | host m => exact hw _ _
  | peer j m => rfl

/-- What has overtaken a write depends on the write sets and on who wrote it. -/
theorem overtaken_congr {s t : State} {k l : Commit} (ho : t.ord.wsets = s.ord.wsets) (hk : l.by_ = k.by_) (q : Place) : t.overtaken l q = s.overtaken k q := by
  unfold State.overtaken State.wset Order.wset
  rw [ho, hk]

section
variable {s t : State} (hst : SameStores s t) (hh : t.host = s.host) (hf : t.free = s.free) (k : Commit) (pl : Place) (n v : Nat) (own : BitVec 16)
include hst hh hf

/-- A commit from a state with the same stores writes what it settles on. -/
theorem SameStores.commit_readsSame : ReadsSame (s.writeAt pl n (t.settled k pl v own n) own) (t.commit k pl n v own) := by
  have hw := hst.writeAt (congrArg HostSide.dead hh) pl n (t.settled k pl v own n) own
  exact ReadsSame.trans (hw.readsSame (by rw [writeAt_free, writeAt_free, hf])) (Machine.commit_readsSame t k pl n v own)

/-- Where no write is ordered after it already, memory then holds the whole of it. -/
theorem SameStores.commit_newest (ho : t.ord = s.ord) {l : Commit} (hk : k.by_ = l.by_) (h : ∀ j, j < n → s.overtaken l (pl.plus j) = false) :
    ReadsSame (s.writeAt pl n v own) (t.commit k pl n v own) := by
  have hc := hst.commit_readsSame hh hf k pl n v own
  rwa [writeAt_settled fun j hj => (overtaken_congr (congrArg Order.wsets ho) hk _).trans (h j hj)] at hc

theorem SameStores.commit_outside {q : Place} (hq : outsideStore s own pl n q) : (t.commit k pl n v own).readAt q 1 own = s.readAt q 1 own :=
  (hst.commit_readsSame hh hf k pl n v own q own).trans (readAt_writeAt_outside _ hq)

end

/-! ### A refusal (R319) -/

theorem recordRefusal_ctx (s : State) (c : Nat) (j : JEntry) (r d i : Nat) : (recordRefusal s c j r).ctx d i = s.ctx d i :=
  congrArg (fun m => SMap.get m i Ctx.reset) (recordRefusal_core_keeps Core.ctxs (fun _ _ => rfl) (fun _ _ => rfl) s c j r d)

/-- The first refusal is recorded for its context, if that still stands in its landing. -/
theorem recordRefusal_records {s : State} {c r : Nat} {j : JEntry} (hj : (s.core c).jrec = none) (hu : (s.ctx c j.slot).uid = j.uid)
    (hl : (s.ctx c j.slot).land = j.land) (hf : (s.ctx c j.slot).state ≠ .free) (hd : (s.ctx c j.slot).state ≠ .draining) :
    ((recordRefusal s c j r).core c).jrec =
      some { ent := j.ent, rsn := r, slot := j.slot, uid := j.uid, land := j.land, more := 0, ptr := j.ptr, sizeCode := sizeCode j.size, raised := false } := by
  have hx : (s.bump c 8).ctx c j.slot = s.ctx c j.slot := State.ctx_modCore rfl ..
  have hn : ((s.bump c 8).core c).jrec = none := (State.core_modCore_keeps Core.jrec (f := fun k => k.bump 8) rfl c).trans hj
  unfold recordRefusal
  dsimp only
  rw [State.core_modCore_same, hn, hx]
  dsimp only
  rw [if_pos ⟨hu, hl, hf, hd⟩]

/-! ### A store that leaves the journal (R244) -/

section
variable {s : State} {c : Nat} {j : JEntry}

theorem leftJournal_core_keeps {β : Type} (p : Core → β) (hp : ∀ k i x, p (Core.setCtx k i x) = p k) (hj : ∀ k l, p { k with journal := l } = p k)
    (d : Nat) :
    p ((leftJournal s c j).core d) = p (s.core d) := by
  unfold leftJournal
  dsimp only
  split
  · exact State.core_modCore_keeps p (hj _ _) d
  · exact (lowerS_core_keeps p hp ..).trans (State.core_modCore_keeps p (hj _ _) d)

theorem leftJournal_journal : ((leftJournal s c j).core c).journal = (s.core c).journal.filter (fun y => y.ent != j.ent) := by
  unfold leftJournal
  dsimp only
  split
  · exact congrArg Core.journal (State.core_modCore_same ..)
  · exact (lowerS_core_keeps Core.journal (fun _ _ _ => rfl) ..).trans (congrArg Core.journal (State.core_modCore_same ..))

/-- A store with no pair lowers class S. -/
theorem leftJournal_falls (hp : j.pair = 0) (hu : (s.ctx c j.slot).uid = j.uid) (hf : (s.ctx c j.slot).state ≠ .free) :
    ((leftJournal s c j).ctx c j.slot).nS = (s.ctx c j.slot).nS - 1 := by
  have hx : ∀ f : Core → Core, (f (s.core c)).ctxs = (s.core c).ctxs → (s.modCore c f).ctx c j.slot = s.ctx c j.slot := fun f h => State.ctx_modCore h ..
  unfold leftJournal
  dsimp only
  rw [if_neg fun h => h.1 hp, lowerS_falls, hx _ rfl]
  · rwa [hx _ rfl]
  · rwa [hx _ rfl]

end

/-- Settles O14: with no reason against it the store is committed from a state that differs in the journal and in class S; a refused one is only recorded. -/
theorem postedStoreAccepted : Obligations.PostedStoreAccepted := by
  unfold Obligations.PostedStoreAccepted
  intro c idx answer s j hj ha hs
  have hkeeps := fun {β : Type} (p : Ctx → β) hp => leftJournal_ctx_keeps p hp s c j c j.slot
  have hsusp : ¬((leftJournal s c j).ctx c j.slot).suspends j = true := by
    rw [hkeeps (fun x => x.suspends j) fun _ _ => rfl, hs]
    decide
  obtain ⟨hord, hhost, hfree⟩ := leftJournal_keeps s c j
  by_cases hr : refusal s j answer = 0
  · have hx := postedStoreAccept_accepted hj ha hr
    have hby : (if j.rel then s.byRelease c j.uid j.tenant j.seq .device else s.byCtx c j.uid j.tenant j.seq).by_ = (s.byCtx c j.uid j.tenant j.seq).by_ := by
      split <;> rfl
    rw [suspEnds, if_neg fun h => hsusp (by rw [State.ctx_commit] at h; exact (Bool.and_eq_true_iff.mp h).2)] at hx
    refine ⟨_, hx, ?_, fun hp hu hf => ?_, fun _ => ⟨fun ho q => ?_, fun q => ?_⟩, fun h => absurd hr h⟩
    · exact (State.core_commit_keeps Core.journal (fun _ _ _ _ => rfl) ..).trans leftJournal_journal
    · rw [State.ctx_commit]
      exact leftJournal_falls hp hu hf
    · exact (leftJournal_sameStores s c j).commit_newest hhost hfree _ _ _ _ _ hord hby ho q _
    · exact (leftJournal_sameStores s c j).commit_outside hhost hfree _ _ _ _ _
  · have hx := postedStoreAccept_refused hj ha hr
    rw [suspFails, if_neg hsusp] at hx
    refine ⟨_, hx, ?_, fun hp hu hf => ?_, fun h => absurd h hr, fun _ => ⟨?_, fun hn hu hl hf hd => ?_⟩⟩
    · exact (recordRefusal_core_keeps Core.journal (fun _ _ => rfl) (fun _ _ => rfl) ..).trans leftJournal_journal
    · rw [recordRefusal_ctx]
      exact leftJournal_falls hp hu hf
    · exact ((recordRefusal_sameStores ..).after (leftJournal_sameStores s c j)).sameMemory
    · refine ⟨_, recordRefusal_records ((leftJournal_core_keeps Core.jrec (fun _ _ _ => rfl) (fun _ _ => rfl) c).trans hn) ?_ ?_ ?_ ?_, rfl, rfl, rfl⟩
      · rwa [hkeeps Ctx.uid fun _ _ => rfl]
      · rwa [hkeeps Ctx.land fun _ _ => rfl]
      · rwa [hkeeps Ctx.state fun _ _ => rfl]
      · rwa [hkeeps Ctx.state fun _ _ => rfl]

/-! ### A store that leaves the buffer (R232) -/

section
variable {s : State} {c : Nat} {b : SbEntry}

theorem dropBuffered_sameStores (s : State) (c : Nat) (b : SbEntry) : SameStores s (dropBuffered s c b) := by
  unfold dropBuffered
  dsimp only
  split
  · exact .modCore rfl
  · exact (lowerS_sameStores ..).after (.modCore rfl)

theorem dropBuffered_ctx_keeps {β : Type} (p : Ctx → β) (hp : ∀ x n, p { x with nS := n } = p x) (s : State) (c : Nat) (b : SbEntry) (d i : Nat) :
    p ((dropBuffered s c b).ctx d i) = p (s.ctx d i) := by
  unfold dropBuffered
  dsimp only
  split
  · exact congrArg p (State.ctx_modCore rfl d i)
  · exact (lowerS_ctx_keeps p hp ..).trans (congrArg p (State.ctx_modCore rfl d i))

/-- Beside the cores it is as it was. -/
theorem dropBuffered_keeps (s : State) (c : Nat) (b : SbEntry) :
    (dropBuffered s c b).ord = s.ord ∧ (dropBuffered s c b).host = s.host ∧ (dropBuffered s c b).free = s.free := by
  unfold dropBuffered
  dsimp only
  split
  · exact ⟨rfl, rfl, rfl⟩
  · exact lowerS_keeps ..

theorem dropBuffered_core_keeps {β : Type} (p : Core → β) (hp : ∀ k i x, p (Core.setCtx k i x) = p k) (hb : ∀ k l, p { k with storeBuf := l } = p k)
    (d : Nat) :
    p ((dropBuffered s c b).core d) = p (s.core d) := by
  unfold dropBuffered
  dsimp only
  split
  · exact State.core_modCore_keeps p (hb _ _) d
  · exact (lowerS_core_keeps p hp ..).trans (State.core_modCore_keeps p (hb _ _) d)

theorem dropBuffered_storeBuf : ((dropBuffered s c b).core c).storeBuf = (s.core c).storeBuf.filter (fun y => y != b) := by
  unfold dropBuffered
  dsimp only
  split
  · exact congrArg Core.storeBuf (State.core_modCore_same ..)
  · exact (lowerS_core_keeps Core.storeBuf (fun _ _ _ => rfl) ..).trans (congrArg Core.storeBuf (State.core_modCore_same ..))

/-- A store with no pair lowers class S. -/
theorem dropBuffered_falls (hp : b.pair = 0) (hu : (s.ctx c b.slot).uid = b.uid) (hf : (s.ctx c b.slot).state ≠ .free) :
    ((dropBuffered s c b).ctx c b.slot).nS = (s.ctx c b.slot).nS - 1 := by
  have hx : ∀ f : Core → Core, (f (s.core c)).ctxs = (s.core c).ctxs → (s.modCore c f).ctx c b.slot = s.ctx c b.slot := fun f h => State.ctx_modCore h ..
  unfold dropBuffered
  dsimp only
  rw [if_neg, lowerS_falls, hx _ rfl]
  · rwa [hx _ rfl]
  · rwa [hx _ rfl]
  · simp [hp]

variable {idx : Nat} (hb : (s.core c).storeBuf[idx]? = some b) (hr : commitReady s c b = true)
include hb hr

theorem storeBufferCommit_commits (hs : otherStale s c b.place b.gen = false) :
    exec (.storeBufferCommit c idx) s =
      .next ((dropBuffered s c b).commit ((dropBuffered s c b).byCtx c b.uid b.tenant b.seq) b.place b.size b.value.toNat b.gen) := by
  show execStoreBufferCommit c idx s = _
  unfold execStoreBufferCommit
  rw [hb]
  dsimp only
  rw [if_neg (by rw [hr]; decide), if_neg (by rw [hs]; decide)]
  rfl

theorem storeBufferCommit_refuses (hs : otherStale s c b.place b.gen = true) :
    exec (.storeBufferCommit c idx) s = .next (refuseBuffered s c b) := by
  show execStoreBufferCommit c idx s = _
  unfold execStoreBufferCommit
  rw [hb]
  dsimp only
  rw [if_neg (by rw [hr]; decide), if_pos hs]

end

/-- Settles O13: the store is committed, or recorded as refused, from a state that differs in the buffer and in class S. -/
theorem storeCommits : Obligations.StoreCommits := by
  unfold Obligations.StoreCommits
  intro c idx s b hb hr
  cases hs : otherStale s c b.place b.gen with
  | false =>
    obtain ⟨hord, hhost, hfree⟩ := dropBuffered_keeps s c b
    have hby : ((dropBuffered s c b).byCtx c b.uid b.tenant b.seq).by_ = (s.byCtx c b.uid b.tenant b.seq).by_ := rfl
    refine ⟨_, storeBufferCommit_commits hb hr hs, ?_, fun hp hu hf => ?_, fun _ => ⟨fun ho q => ?_, fun q => ?_⟩, fun h => absurd h Bool.false_ne_true⟩
    · exact (State.core_commit_keeps Core.storeBuf (fun _ _ _ _ => rfl) ..).trans dropBuffered_storeBuf
    · rw [State.ctx_commit]
      exact dropBuffered_falls hp hu hf
    · exact (dropBuffered_sameStores s c b).commit_newest hhost hfree _ _ _ _ _ hord hby ho q _
    · exact (dropBuffered_sameStores s c b).commit_outside hhost hfree _ _ _ _ _
  | true =>
    have hkeeps := fun {β : Type} (p : Ctx → β) hp => dropBuffered_ctx_keeps p hp s.draw.2 c b c b.slot
    refine ⟨_, storeBufferCommit_refuses hb hr hs, ?_, fun hp hu hf => ?_, fun h => absurd h.symm Bool.false_ne_true,
      fun _ => ⟨?_, fun hn hu hf hd => ?_⟩⟩
    · exact (recordRefusal_core_keeps Core.storeBuf (fun _ _ => rfl) (fun _ _ => rfl) ..).trans (dropBuffered_storeBuf (s := s.draw.2))
    · unfold refuseBuffered
      rw [recordRefusal_ctx]
      exact dropBuffered_falls (s := s.draw.2) hp hu hf
    · have hdraw : SameStores s s.draw.2 := .of_cores rfl rfl rfl
      exact ((recordRefusal_sameStores ..).after ((dropBuffered_sameStores s.draw.2 c b).after hdraw)).sameMemory
    · refine ⟨_, recordRefusal_records ((dropBuffered_core_keeps Core.jrec (fun _ _ _ => rfl) (fun _ _ => rfl) c).trans hn) ?_ ?_ ?_ ?_, rfl, rfl, rfl⟩
      · exact (hkeeps Ctx.uid fun _ _ => rfl).trans hu
      · exact hkeeps Ctx.land fun _ _ => rfl
      · rw [hkeeps Ctx.state fun _ _ => rfl]
        exact hf
      · rw [hkeeps Ctx.state fun _ _ => rfl]
        exact hd

end Sys2Proof.Machine
end

section
/-! PROOF. The full/empty instructions (R238, R401, R443): the step at the word, the park, the refusal, and the issue slot about it. -/

namespace Sys2Proof.Machine

/-! ### The issuing context is listed once in its core

What a tenant holds on a kerb core is told from the list of the core's contexts (R165). From the start of its issue slot the issuing context has
one entry there at most, whatever else the list holds, and the reads of operands keep that. -/

/-- The list of the core's contexts is one that the issuing context has been put into. -/
def Listed (e : Env) (s : State) : Prop := ∃ m x, (s.core e.core).ctxs = SMap.put m Ctx.reset e.slot x

theorem Listed.of_ctxs {e : Env} {s t : State} (h : Listed e s) (hc : (t.core e.core).ctxs = (s.core e.core).ctxs) : Listed e t := by
  obtain ⟨m, x, hm⟩ := h
  exact ⟨m, x, hc.trans hm⟩

theorem Listed.modCtx (e : Env) (s : State) (f : Ctx → Ctx) : Listed e (s.modCtx e.core e.slot f) :=
  ⟨(s.core e.core).ctxs, f (s.ctx e.core e.slot), congrArg Core.ctxs (State.core_modCore_same ..)⟩

/-- m keeps the issuing context listed once, where it completes. -/
def Lists {α : Type} (m : M α) : Prop := ∀ e s v t, Listed e s → m e s = .ok (v, t) → Listed e t

namespace Lists

variable {α β : Type} {m n : M α}

theorem bind {f : α → M β} (hm : Lists m) (hf : ∀ a, Lists (f a)) : Lists (m >>= f) := by
  intro e s v t h hr
  rw [M.bind_run] at hr
  rcases ha : m e s with x | ⟨a, u⟩ <;> rw [ha] at hr
  · cases hr
  · exact hf a e u v t (hm e s a u h ha) hr

theorem ite {p : Prop} [Decidable p] (hm : Lists m) (hn : Lists n) : Lists (if p then m else n) := by
  split
  · exact hm
  · exact hn

theorem modify {f : State → State} (hf : ∀ e s, Listed e s → Listed e (f s)) : Lists (M.modify f) := by
  intro e s v t h hr
  cases hr
  exact hf e s h

/-- What follows a look at the state may put another in its place that lists the same contexts. -/
theorem withState {f : State → M β} (hf : ∀ e s v t, Listed e s → f s e s = .ok (v, t) → Listed e t) : Lists (M.state >>= f) := hf

theorem pure {a : α} : Lists (Pure.pure a) := fun _ _ _ _ h hr => by cases hr; exact h
theorem env : Lists M.env := fun _ _ _ _ h hr => by cases hr; exact h
theorem me : Lists M.me := fun _ _ _ _ h hr => by cases hr; exact h
theorem state : Lists M.state := fun _ _ _ _ h hr => by cases hr; exact h
theorem myCore : Lists M.myCore := fun _ _ _ _ h hr => by cases hr; exact h
theorem stop {x : Stop} : Lists (M.stop x : M α) := fun _ _ _ _ _ hr => nomatch hr
theorem modMe {f : Ctx → Ctx} : Lists (M.modMe f) := fun e s _ _ _ hr => by cases hr; exact Listed.modCtx e s f

theorem tlbLookup (s : State) (c tenant page d : Nat) : ((tlbLookup s c tenant page).2.core d).ctxs = (s.core d).ctxs := by
  have hb : ∀ n, ((s.bump c n).core d).ctxs = (s.core d).ctxs := fun n => State.core_modCore_keeps Core.ctxs (f := fun k => k.bump n) rfl d
  have hbb : ∀ n m, (((s.bump c n).bump c m).core d).ctxs = (s.core d).ctxs := fun n m =>
    (State.core_modCore_keeps Core.ctxs (f := fun k => k.bump m) rfl d).trans (hb n)
  unfold Machine.tlbLookup
  split
  · exact State.core_modCore_keeps Core.ctxs rfl d
  · dsimp only
    split
    · split
      · exact (State.core_modCore_keeps Core.ctxs rfl d).trans (hb 0)
      · exact hbb 0 1
    · exact hb 0

theorem resolve {p : Word} {size : Nat} {op : Op} {plainD : Bool} : Lists (resolve p size op plainD) := by
  have hgo : ∀ (x : Ctx) (page : Nat) (e : Env) (s t : State) (v : Place × Nat), Listed e s →
      translate.go p op x page e s = .ok (v, t) → Listed e t := by
    intro x page e s t v h hr
    unfold translate.go at hr
    split at hr
    · next ht =>
      split at hr
      · cases hr
        exact h.of_ctxs (by rw [← tlbLookup s e.core x.tenant page, ht])
      · cases hr
    · cases hr
  have htr : Lists (translate p op) := by
    intro e s v t h hr
    unfold translate at hr
    dsimp only at hr
    split at hr
    · split at hr
      · cases hr
      · exact hgo _ _ e s t v h hr
    · exact hgo _ _ e s t v h hr
  intro e s v t h hr
  unfold Machine.resolve at hr
  dsimp only at hr
  repeat' split at hr
  any_goals cases hr
  any_goals exact h
  exact htr e s _ _ h ‹_›

/-! Waits that end at once leave the state as it was. -/

theorem waitReplay {f : Nat} : Lists (waitReplay f) := .bind .env fun _ => .bind .me fun _ => .ite .stop .pure
theorem waitReg {f : Nat} : Lists (waitReg f) := .bind .me fun _ => .ite .stop <| .ite .stop <| .ite .stop .waitReplay
theorem waitBound {f : Nat} : Lists (waitBound f) := .bind .me fun _ => .bind .env fun _ => .ite .stop .pure
theorem mustFollow {l : Loc} : Lists (mustFollow l) := .bind .env fun _ => .bind .me fun _ => .bind .myCore fun _ => .ite .stop (.ite .stop .pure)
theorem classRoom {k : Class} : Lists (classRoom k) := .bind (.bind .me fun _ => .ite .stop .modMe) fun _ => .modMe

theorem boardCheck {l : Loc} {write : Bool} : Lists (boardCheck l write) := by
  unfold Machine.boardCheck
  refine .bind .env fun _ => .bind .me fun _ => .bind .state fun _ => .ite .stop ?_
  split
  · exact .ite .stop .pure
  · exact .pure

theorem readAs {acq : Option Parties} {l : Loc} : Lists (readAs acq l) := by
  refine .bind .mustFollow fun _ => .bind .env fun _ => .withState fun e s v t h hr => ?_
  rw [M.bind_ok (M.me_run e s)] at hr
  have hcores : ∀ (c : Nat) (x : Ctx), (s.ctxRead c x x.seq acq l.place l.size).2.cores = s.cores := by
    intro c x
    have hv : ∀ (v : View), (s.viewRead v l.place l.size).2.2.cores = s.cores := by
      intro v
      unfold State.viewRead
      dsimp only
      split <;> rfl
    unfold State.ctxRead
    dsimp only
    split
    · rw [State.gain_cores, State.see_cores, hv]
    · rw [State.gain_cores, State.gain_cores, State.see_cores, hv]
  split at hr
  · cases hr
  · cases hr
    exact h.of_ctxs (congrArg (fun m => (SMap.get m e.core Core.reset).ctxs) (hcores _ _))

theorem loadAs {acq : Option Parties} {p : Word} {size : Nat} : Lists (loadAs acq p size) := .bind .resolve fun _ => .bind .boardCheck fun _ => .readAs

theorem popStream {g : Nat} : Lists (popStream g) :=
  .bind .me fun _ => .ite (.bind .modMe fun _ => .pure) (.bind .loadAs fun _ => .bind .classRoom fun _ => .bind .modMe fun _ => .pure)

theorem popPort {n : Nat} : Lists (popPort n) := by
  refine .bind .waitReplay fun _ => .bind .me fun _ => ?_
  split
  · exact .stop
  · exact .bind .modMe fun _ => .pure

theorem streamRead {s t : State} {r : Run} {l : List TVal} {ws : List (Place × Wr)} (h : Machine.streamRead s r = some (l, ws, t)) (d : Nat) :
    (t.core d).ctxs = (s.core d).ctxs := by
  unfold Machine.streamRead at h
  dsimp only at h
  repeat' split at h
  all_goals cases h
  any_goals rfl
  exact State.core_commit_keeps Core.ctxs (fun _ _ _ _ => rfl) ..

theorem readCarry {f : Nat} : Lists (readCarry f) := by
  unfold Machine.readCarry
  refine .bind .waitReplay fun _ => .bind .me fun x => .withState fun e s v t h => ?_
  have hgain : ∀ (e : Env) (s : State) (u : Nat) (f : Front), Listed e s → Listed e (s.gain u f) := fun e s u f h => h.of_ctxs (by rw [State.core_gain])
  dsimp only
  cases s.run? x.run with
  | none => exact Lists.pure e s v t h
  | some r =>
    dsimp only
    by_cases hk : (f - 112) / 4 + 1 ≤ x.index
    · rw [M.if_pos_run hk]
      cases r.slot? (x.index - ((f - 112) / 4 + 1)) ((f - 112) % 4) with
      | some w => exact Lists.bind (.modify fun e s => hgain e s _ _) (fun _ => .pure) e s v t h
      | none => exact Lists.ite .stop .stop e s v t h
    · rw [M.if_neg_run hk]
      cases x.strm with
      | false => exact Lists.ite .pure (.bind .loadAs fun _ => .bind .loadAs fun _ => .pure) e s v t h
      | true =>
        cases hs : Machine.streamRead s r with
        | none => exact Lists.stop e s v t h
        | some a =>
          obtain ⟨l, ws, u⟩ := a
          intro hr
          cases hr
          exact hgain _ _ _ _ (hgain _ _ _ _ (h.of_ctxs (streamRead hs e.core)))

/-- A source operand that is read leaves the issuing context listed once. -/
theorem readReg {f : RegF} : Lists (readReg f) := by
  unfold Machine.readReg
  refine .bind .me fun _ => .ite .popPort <| .ite .readCarry ?_
  split
  · exact .bind .waitBound fun _ => .popStream
  · exact .bind .waitReg fun _ => .bind .myCore fun _ => .pure

end Lists

/-! ### What a tenant holds on a core -/

theorem SMap.any_insert {α : Type} (q : α → Bool) (m : SMap α) (k : Nat) (v : α) :
    (SMap.insert m k v).any (fun e => q e.2) = (q v || m.any (fun e => q e.2)) := by
  induction m with
  | nil => rfl
  | cons e m ih =>
    rw [SMap.insert_cons]
    split
    · rfl
    · simp only [List.any_cons, ih, Bool.or_left_comm]

theorem SMap.any_put {α : Type} [DecidableEq α] {q : α → Bool} {d : α} (hd : q d = false) (m : SMap α) (k : Nat) (v : α) :
    (SMap.put m d k v).any (fun e => q e.2) = (q v || (SMap.erase m k).any (fun e => q e.2)) := by
  unfold SMap.put
  split
  · next h => rw [h, hd, Bool.false_or]
  · exact SMap.any_insert ..

/-- An update of the issuing context that keeps its state and tenant changes nothing of what a tenant holds. -/
theorem inPart_modCtx {e : Env} {s : State} {f : Ctx → Ctx} (h : Listed e s) (hs : ∀ x, (f x).state = x.state) (ht : ∀ x, (f x).tenant = x.tenant)
    (t c : Nat) :
    (s.modCtx e.core e.slot f).inPart t c = s.inPart t c := by
  have hholds : (s.modCtx e.core e.slot f).kerbHolds c t = s.kerbHolds c t := by
    by_cases hc : e.core = c
    · subst hc
      obtain ⟨m, x, hm⟩ := h
      have hx : s.ctx e.core e.slot = x := (congrArg (fun m => SMap.get m e.slot Ctx.reset) hm).trans (SMap.get_put_same ..)
      have hctxs : ((s.modCtx e.core e.slot f).core e.core).ctxs = SMap.put m Ctx.reset e.slot (f x) := by
        refine (congrArg Core.ctxs (State.core_modCore_same ..)).trans ?_
        show SMap.put (s.core e.core).ctxs Ctx.reset e.slot (f (s.ctx e.core e.slot)) = _
        rw [hx, hm, SMap.put_put]
      have hany := fun y => SMap.any_put (q := fun y : Ctx => y.state != .free && y.tenant == t) (d := Ctx.reset) rfl m e.slot y
      unfold State.kerbHolds
      rw [hctxs, hm]
      refine (hany (f x)).trans (Eq.trans ?_ (hany x).symm)
      rw [hs, ht]
    · have hk : (s.modCtx e.core e.slot f).core c = s.core c := State.core_modCore_ne s _ hc
      unfold State.kerbHolds
      rw [hk]
  unfold State.inPart
  rw [hholds]
  rfl

/-! ### Earlier claims to a word (R185) -/

/-- What a context does to itself makes no claim of another one. -/
theorem claimed_modCtx {s : State} {c i d off : Nat} {b : Bool} (f : Ctx → Ctx) (h : claimed s c i d off b = false) :
    claimed (s.modCtx c i f) c i d off b = false := by
  unfold claimed at h ⊢
  rw [List.any_eq_false] at h ⊢
  intro a ha
  rcases of_mem_allCtxs_modCtx ha with rfl | ⟨ha, -⟩
  · simp
  · exact h a ha

/-! ### The Atomic step at the word (R238) -/

/-- What the step of context `x` on a core does to the word at off of core c under generation g, and to what the context has seen. -/
def feEffect (op : FeOp) (core : Nat) (x : Ctx) (c off : Nat) (g : BitVec 16) (v : Word) (s : State) : State :=
  let u := s.see x.uid (s.newest g (.ls c off) 8)
  let got := s.acquired (.ctx x.uid core x.tenant 0 0) .device (s.newest g (.ls c off) 8)
  match op with
  | .ldfe => ((u.record (u.byCtx core x.uid x.tenant x.seq) (.ls c off) 0 0 g).gain x.uid got).modCore c (fun k => k.setFe g off false)
  | .ldff => u.gain x.uid got
  | .stfe => (u.record (u.byRelease core x.uid x.tenant x.seq .device) (.ls c off) 8 v.toNat g).modCore c (fun k => k.lsWriteFe g off v.toNat true)
  | .sete => (s.record (s.byCtx core x.uid x.tenant x.seq) (.ls c off) 0 0 g).modCore c (fun k => k.setFe g off false)

/-- The operation awaits a full word. -/
def FeOp.wants (op : FeOp) : Bool := op == .ldfe || op == .ldff

/-- The operation takes an order number. -/
def feNumbered (op : FeOp) (e : Env) (s : State) : State := if op = .ldff then s else numbered e s

section
variable {op : FeOp} {l : Loc} {c off : Nat} {v : Word} {e : Env} {s : State} {x : Ctx} {g : BitVec 16} {f : Ctx → Ctx}
  (hg : ((s.core c).gov x.gen off).1 = g) (hf : (f (s.ctx e.core e.slot)).gen = x.gen)

include hg hf

/-- In the state that it needs, with no earlier claim, the operation performs and answers the word's value. -/
theorem feStep_performs (hu : (f (s.ctx e.core e.slot)).uid = x.uid) (ht : (f (s.ctx e.core e.slot)).tenant = x.tenant)
    (hq : (f (s.ctx e.core e.slot)).seq = x.seq) (hok : op ≠ .sete → (((s.core c).gov x.gen off).2 && (s.core c).stamp off != g) = false ∧
      (s.core c).seenFull g off = op.wants ∧ claimed s e.core e.slot c off op.wants = false) :
    feStep op l c off v e (s.modCtx e.core e.slot f) =
      .ok (w64 ((s.core c).lsRead g off 8), feNumbered op e (feEffect op e.core x c off g v (s.modCtx e.core e.slot f))) := by
  have htrap : ¬(((s.core c).gov x.gen off).2 && (s.core c).stamp off != g && op != .sete) = true := by
    by_cases ho : op = .sete
    · simp [ho]
    · simp [(hok ho).1]
  have hgo : ¬(op != .sete &&
      ((s.core c).seenFull g off != op.wants || (op != .sete && claimed (s.modCtx e.core e.slot f) e.core e.slot c off op.wants))) = true := by
    by_cases ho : op = .sete
    · simp [ho]
    · obtain ⟨-, hfull, hcl⟩ := hok ho
      simp [hfull, claimed_modCtx f hcl]
  have hwants : (op == .ldfe || op == .ldff) = op.wants := rfl
  unfold feStep
  rw [M.bind_ok (M.env_run ..), M.bind_ok (M.me_run ..), M.bind_ok (M.state_run ..), State.ctx_modCtx_same]
  dsimp only
  rw [hwants]
  rw [hf, hu, ht, hq, State.core_modCtx_keeps (fun k => k.gov x.gen off) fun _ _ _ => rfl,
    State.core_modCtx_keeps (fun k => k.stamp off) fun _ _ _ => rfl, hg, M.if_neg_run htrap,
    State.core_modCtx_keeps (fun k => k.seenFull g off) fun _ _ _ => rfl, State.core_modCtx_keeps (fun k => k.lsRead g off 8) fun _ _ _ => rfl,
    M.if_neg_run hgo,
    M.bind_ok (M.modify_run ..)]
  cases op <;> rfl

/-- In the other state the context parks on list 2. -/
theorem feStep_parks (ho : op ≠ .sete) (ht : (((s.core c).gov x.gen off).2 && (s.core c).stamp off != g) = false)
    (hw : (s.core c).seenFull g off = !op.wants) :
    feStep op l c off v e (s.modCtx e.core e.slot f) = M.park 2 (bits l.ptr 47 0) (.fe c off op.wants) e (s.modCtx e.core e.slot f) := by
  have hgo : (op != .sete &&
      ((s.core c).seenFull g off != op.wants || (op != .sete && claimed (s.modCtx e.core e.slot f) e.core e.slot c off op.wants))) = true := by
    simp [ho, hw]
  have hwants : (op == .ldfe || op == .ldff) = op.wants := rfl
  unfold feStep
  rw [M.bind_ok (M.env_run ..), M.bind_ok (M.me_run ..), M.bind_ok (M.state_run ..), State.ctx_modCtx_same]
  dsimp only
  rw [hwants]
  rw [hf, State.core_modCtx_keeps (fun k => k.gov x.gen off) fun _ _ _ => rfl,
    State.core_modCtx_keeps (fun k => k.stamp off) fun _ _ _ => rfl, hg,
    M.if_neg_run (by rw [ht, Bool.false_and]; exact Bool.false_ne_true),
    State.core_modCtx_keeps (fun k => k.seenFull g off) fun _ _ _ => rfl]
  exact M.if_pos_run hgo ..

end

/-! ### The issue slot about the step -/

/-- Two branches that go on alike. -/
theorem M.ite_bind_ok {α β : Type} {p : Prop} [Decidable p] {m n : M α} {e : Env} {s t : State} {v : α} (h : (if p then m else n) e s = .ok (v, t))
    (k : α → M β) : (if p then m >>= k else n >>= k) e s = k v e t := by
  split at h
  · next hp => rw [if_pos hp]; exact M.bind_ok h k
  · next hp => rw [if_neg hp]; exact M.bind_ok h k

/-- A load of the word in its issue slot. -/
def feInSlot (op : FeOp) (d : RegF) (l : Loc) (c off : Nat) (v : Word) : M Unit := do
  classRoom .L
  let r ← feStep op l c off v
  writeInt d r

/-- A load of another core's word, with its value on its way. -/
def feRequests (op : FeOp) (d : RegF) (l : Loc) (c off : Nat) (v : Word) : M Unit := do
  raiseCnt .L
  waitReg d.toNat
  let r ← feStep op l c off v
  request d (.taken r) l false

/-- The word at off of core c is one that a store of the tenant through window w may change (R441, R443). -/
def feStored (s : State) (tenant c off : Nat) (w : Win) : Prop := w ≠ .rem ∨ (s.inPart tenant c = true ∧ ((s.core c).regionAt off).isSome = true)

/-- A store to the word, done or refused. -/
def feStores (op : FeOp) (l : Loc) (c off : Nat) (v : Word) : M Unit := do
  raiseCnt .S
  let s ← M.state
  let x ← M.me
  if l.win = .rem ∧ (!s.inPart x.tenant c || ((s.core c).regionAt off).isNone) = true then refuseStore l v 1
  else
    let _ ← feStep op l c off v
    pure ()
  M.modMe (fun x => { x with nS := x.nS - 1 })

section
variable {op : FeOp} {d a : RegF} {imm : BitVec 7} {e : Env} {s s1 s2 s3 : State} {base : TVal} {v : Word} {l : Loc} {c off : Nat}

/-- Whether the destination refuses the store is not for the issuing context's counters to say. -/
theorem feRefuses_iff {w : Win} (h : Listed e s) : (w = .rem ∧ (!(counted e .S s).inPart ((counted e .S s).ctx e.core e.slot).tenant c ||
    (((counted e .S s).core c).regionAt off).isNone) = true) ↔ ¬feStored s (s.ctx e.core e.slot).tenant c off w := by
  have hreg : ((counted e .S s).core c).regionAt off = (s.core c).regionAt off := State.core_modCtx_keeps (fun k => k.regionAt off) (fun _ _ _ => rfl) ..
  have hten : ((counted e .S s).ctx e.core e.slot).tenant = (s.ctx e.core e.slot).tenant := State.ctx_modCtx_keeps Ctx.tenant rfl ..
  have hin : ∀ t, (counted e .S s).inPart t c = s.inPart t c := fun t =>
    inPart_modCtx (f := fun x => x.setCnt .S (x.cnt .S + 1)) h (fun _ => rfl) (fun _ => rfl) t c
  rw [hreg, hten, hin, feStored]
  cases s.inPart (s.ctx e.core e.slot).tenant c <;> cases (s.core c).regionAt off <;> simp

theorem waitSame_idle (hm : mayPerform e l s = true) (hb : (ownBuf e s).all (fun b => !b.place.overlaps b.size l.place l.size) = true) :
    waitSame l e s = .ok ((), s) := by
  unfold waitSame
  rw [M.bind_ok (mustFollow_may hm), M.bind_ok (M.me_run ..), M.bind_ok (M.myCore_run ..), M.if_neg_run]
  · rfl
  · intro h
    obtain ⟨b, hmem, hmeets⟩ := List.any_eq_true.mp h
    obtain ⟨hu, ho⟩ := Bool.and_eq_true_iff.mp hmeets
    have hno := List.all_eq_true.mp hb b (List.mem_filter.mpr ⟨hmem, hu⟩)
    rw [ho] at hno
    exact absurd hno (by decide)

section
variable (ha : Reads e a s base s1) (hv : (if op = .stfe then readVal d else pure 0 : M Word) e s1 = .ok (v, s2))
  (hf : Finds e (operandPtr base.val imm 8) 8 .fe false s2 l s3) (hl : l.place = .ls c off) (hb : clear e l (op != .ldff) s3 = true)
  (hw : (if op = .stfe then waitPerformed else waitSame l : M Unit) e s3 = .ok ((), s3))
include ha hv hf hl hb hw

/-- With its operands read, the word found and the accesses before it performed, a full/empty instruction is one of three forms. -/
theorem feBody_reaches : feBody op d a imm e s =
    (if op.wants = true then
      if c = e.core ∨ (s3.ctx e.core e.slot).isPort d.toNat = true ∨ ((s3.ctx e.core e.slot).bound? d.toNat).isSome = true
      then feInSlot op d l c off v else feRequests op d l c off v
    else feStores op l c off v : M Unit) e s3 := by
  have hp : base.val + sxImm 7 imm * 8 = operandPtr base.val imm 8 := congrArg (base.val + ·) (sxImm_mul imm 8)
  unfold feBody
  rw [M.bind_ok (readVal_of ha)]
  refine (M.ite_bind_ok (n := pure 0) hv _).trans ?_
  dsimp only
  rw [hp, M.bind_ok hf]
  dsimp only
  rw [M.bind_ok (boardCheck_clear hb)]
  refine (M.ite_bind_ok hw _).trans ?_
  rw [hl]
  cases op <;> rfl

end

/-- Counting up and down is one update of the issuing context. -/
theorem tested_modCtx (e : Env) (s : State) : tested e .L s =
    s.modCtx e.core e.slot (fun x => (x.setCnt .L (x.cnt .L + 1)).setCnt .L ((x.setCnt .L (x.cnt .L + 1)).cnt .L - 1)) := State.modCtx_modCtx ..

section
variable {x : Ctx} {g : BitVec 16} (hx : s.ctx e.core e.slot = x) (hg : ((s.core c).gov x.gen off).1 = g)
include hx hg

theorem feInSlot_performs {t : State} (hn : x.nL < 63) (ht : (((s.core c).gov x.gen off).2 && (s.core c).stamp off != g) = false)
    (hfull : (s.core c).seenFull g off = op.wants) (hcl : claimed s e.core e.slot c off op.wants = false)
    (hd : Writes e d { val := w64 ((s.core c).lsRead g off 8), cnt := 127, inx := false }
      (feNumbered op e (feEffect op e.core x c off g v (tested e .L s))) t) :
    feInSlot op d l c off v e s = .ok ((), t) := by
  subst hx
  unfold feInSlot
  rw [M.bind_ok (classRoom_run (k := .L) hn)]
  rw [tested_modCtx] at hd ⊢
  rw [M.bind_ok (feStep_performs hg rfl rfl rfl rfl fun _ => ⟨ht, hfull, hcl⟩)]
  exact hd

theorem feInSlot_parks (ho : op ≠ .sete) (hn : x.nL < 63) (ht : (((s.core c).gov x.gen off).2 && (s.core c).stamp off != g) = false)
    (hfull : (s.core c).seenFull g off = !op.wants) :
    feInSlot op d l c off v e s = .error (.park { list := 2, object := BitVec.ofNat 48 (bits l.ptr 47 0), cond := .fe c off op.wants } id) := by
  subst hx
  unfold feInSlot
  rw [M.bind_ok (classRoom_run (k := .L) hn), tested_modCtx, M.bind_error]
  exact feStep_parks hg rfl ho ht hfull

theorem feRequests_performs (hn : x.nL < 63) (ht : (((s.core c).gov x.gen off).2 && (s.core c).stamp off != g) = false)
    (hfull : (s.core c).seenFull g off = op.wants) (hcl : claimed s e.core e.slot c off op.wants = false)
    (hr : waitReg d.toNat e (counted e .L s) = .ok ((), counted e .L s)) :
    feRequests op d l c off v e s = request d (.taken (w64 ((s.core c).lsRead g off 8))) l false e
      (feNumbered op e (feEffect op e.core x c off g v (counted e .L s))) := by
  subst hx
  unfold feRequests
  rw [M.bind_ok (raiseCnt_room (k := .L) hn), M.bind_ok hr]
  exact M.bind_ok (feStep_performs (f := fun x => x.setCnt .L (x.cnt .L + 1)) hg rfl rfl rfl rfl fun _ => ⟨ht, hfull, hcl⟩) _

theorem feStores_performs (hi : Listed e s) (hn : x.nS < 63) (hs : feStored s x.tenant c off l.win)
    (hok : op ≠ .sete → (((s.core c).gov x.gen off).2 && (s.core c).stamp off != g) = false ∧
      (s.core c).seenFull g off = op.wants ∧ claimed s e.core e.slot c off op.wants = false) :
    feStores op l c off v e s = .ok ((), (feNumbered op e (feEffect op e.core x c off g v (counted e .S s))).modCtx e.core e.slot
      (fun y => { y with nS := y.nS - 1 })) := by
  subst hx
  have hstep : feStep op l c off v e (counted e .S s) = _ := feStep_performs hg rfl rfl rfl rfl hok
  unfold feStores
  rw [M.bind_ok (raiseCnt_room (k := .S) hn), M.bind_ok (M.state_run ..), M.bind_ok (M.me_run ..)]
  refine (M.if_neg_run ?_ ..).trans ((M.bind_ok hstep _).trans rfl)
  rw [feRefuses_iff hi]
  exact not_not.mpr hs

theorem feStores_parks (hi : Listed e s) (ho : op ≠ .sete) (hn : x.nS < 63) (hs : feStored s x.tenant c off l.win)
    (ht : (((s.core c).gov x.gen off).2 && (s.core c).stamp off != g) = false) (hfull : (s.core c).seenFull g off = !op.wants) :
    feStores op l c off v e s = .error (.park { list := 2, object := BitVec.ofNat 48 (bits l.ptr 47 0), cond := .fe c off op.wants } id) := by
  subst hx
  have hstep : feStep op l c off v e (counted e .S s) = _ := feStep_parks hg rfl ho ht hfull
  unfold feStores
  rw [M.bind_ok (raiseCnt_room (k := .S) hn), M.bind_ok (M.state_run ..), M.bind_ok (M.me_run ..)]
  refine (M.if_neg_run ?_ ..).trans (M.bind_error hstep _)
  rw [feRefuses_iff hi]
  exact not_not.mpr hs

theorem feStores_refuses (hi : Listed e s) (hn : x.nS < 63) (hs : ¬feStored s x.tenant c off l.win) :
    feStores op l c off v e s = (do refuseStore l v 1; M.modMe (fun x => { x with nS := x.nS - 1 }) : M Unit) e (counted e .S s) := by
  subst hx
  unfold feStores
  rw [M.bind_ok (raiseCnt_room (k := .S) hn), M.bind_ok (M.state_run ..), M.bind_ok (M.me_run ..)]
  exact M.if_pos_run ((feRefuses_iff hi).mpr hs) ..

end

end

/-! ### A refused store to a word (R319, R443) -/

/-- The store as its record names it. -/
def refusedEntry (e : Env) (l : Loc) (v : Word) (s : State) : JEntry :=
  let x := s.ctx e.core e.slot
  { ent := Config.freePick s.draw.1 % 64, slot := e.slot, uid := x.uid, land := x.land, tenant := x.tenant, seq := x.seq, pair := 0, place := l.place,
    ptr := l.ptr, size := l.size, value := v, rel := false, gen := x.gen }

/-- What a refused store leaves at the end of its counting. -/
def feRefused (e : Env) (l : Loc) (v : Word) (s : State) : State :=
  (recordRefusal (counted e .S s).draw.2 e.core (refusedEntry e l v (counted e .S s)) 1).modCtx e.core e.slot (fun x => { x with nS := x.nS - 1 })

section
variable {e : Env} {l : Loc} {v : Word} {s : State}

theorem refuseStore_run (rsn : Nat) : refuseStore l v rsn e s = .ok ((), recordRefusal s.draw.2 e.core (refusedEntry e l v s) rsn) := rfl

/-- Counting and a free value leave what else there is of a core. -/
theorem counted_core_keeps {β : Type} (p : Core → β) (hp : ∀ k i x, p (Core.setCtx k i x) = p k) (k : Class) (c : Nat) :
    p ((counted e k s).draw.2.core c) = p (s.core c) := State.core_modCtx_keeps p hp s e.core e.slot (fun x => x.setCnt k (x.cnt k + 1)) c

theorem feRefused_sameMemory : sameMemory s (feRefused e l v s) := by
  have hdraw : SameStores (counted e .S s) (counted e .S s).draw.2 := .of_cores rfl rfl rfl
  exact ((SameStores.modCtx ..).after ((recordRefusal_sameStores ..).after (hdraw.after (.modCtx ..)))).sameMemory

theorem feRefused_fe (c : Nat) : ((feRefused e l v s).core c).fe = (s.core c).fe :=
  (State.core_modCtx_keeps Core.fe (fun _ _ _ => rfl) ..).trans <|
    (recordRefusal_core_keeps Core.fe (fun _ _ => rfl) (fun _ _ => rfl) ..).trans (counted_core_keeps Core.fe (fun _ _ _ => rfl) .S c)

theorem feRefused_nS : ((feRefused e l v s).ctx e.core e.slot).nS = (s.ctx e.core e.slot).nS := by
  unfold feRefused
  rw [State.ctx_modCtx_same, recordRefusal_ctx]
  show ((counted e .S s).ctx e.core e.slot).nS - 1 = _
  rw [counted_ctx]
  rfl

theorem feRefused_records (hj : (s.core e.core).jrec = none) (hf : (s.ctx e.core e.slot).state ≠ .free) (hd : (s.ctx e.core e.slot).state ≠ .draining) :
    ∃ r, ((feRefused e l v s).core e.core).jrec = some r ∧ r.rsn = 1 ∧ r.ptr = l.ptr ∧ r.slot = e.slot := by
  have hjrec : ((counted e .S s).draw.2.core e.core).jrec = none := (counted_core_keeps Core.jrec (fun _ _ _ => rfl) .S e.core).trans hj
  have hstate : ((counted e .S s).ctx e.core e.slot).state = (s.ctx e.core e.slot).state := by
    rw [counted_ctx]
    rfl
  refine ⟨_, (State.core_modCtx_keeps Core.jrec (fun _ _ _ => rfl) ..).trans (recordRefusal_records hjrec rfl rfl ?_ ?_), rfl, rfl, rfl⟩
  · exact fun h => hf (hstate.symm.trans h)
  · exact fun h => hd (hstate.symm.trans h)

end

/-! ### The whole issue slot -/

section
variable {i : Instr} {op : FeOp} {d a : RegF} {imm : BitVec 7} {s s1 s2 s3 : State} {base : TVal} {v : Word} {l : Loc} {c off : Nat}
  (hx : exec i s = run i (feBody op d a imm) s) (hs : starts i s = true) (ha : Reads (doer i s) a (begun s) base s1)
  (hv : (if op = .stfe then readVal d else pure 0 : M Word) (doer i s) s1 = .ok (v, s2))
  (hf : Finds (doer i s) (operandPtr base.val imm 8) 8 .fe false s2 l s3)

include ha hv hf in
/-- The reads of the operands and the checks of the pointer leave the issuing context listed once. -/
theorem feListed : Listed (doer i s) s3 := by
  have h1 : Listed (doer i s) s1 := Lists.readReg (doer i s) (begun s) base s1 (Listed.modCtx (doer i s) s _) ha
  have hread : Lists (if op = .stfe then readVal d else pure 0 : M Word) := .ite (.bind .readReg fun _ => .pure) .pure
  exact Lists.resolve (doer i s) s2 _ s3 (hread (doer i s) s1 v s2 h1 hv) hf

variable (hl : l.place = .ls c off) (hb : clear (doer i s) l (op != .ldff) s3 = true)
  (hw : (if op = .stfe then waitPerformed else waitSame l : M Unit) (doer i s) s3 = .ok ((), s3))
include hx hs ha hv hf hl hb hw

theorem fe_inSlot {s4 : State} {x : Ctx} {g : BitVec 16} (hc : s3.ctx s.cur.1 s.cur.2 = x) (hg : ((s3.core c).gov x.gen off).1 = g) (hop : op.wants = true)
    (hin : c = s.cur.1 ∨ x.isPort d.toNat = true ∨ (x.bound? d.toNat).isSome = true) (hn : x.nL < 63)
    (ht : (((s3.core c).gov x.gen off).2 && (s3.core c).stamp off != g) = false) (hfull : (s3.core c).seenFull g off = true)
    (hcl : claimed s3 s.cur.1 s.cur.2 c off true = false)
    (hd : Writes (doer i s) d { val := w64 ((s3.core c).lsRead g off 8), cnt := 127, inx := false }
      (feNumbered op (doer i s) (feEffect op s.cur.1 x c off g v (tested (doer i s) .L s3))) s4) : exec i s = .next (ended s s4) := by
  rw [← hop] at hfull hcl
  refine hx.trans (run_completes hs ((feBody_reaches ha hv hf hl hb hw).trans ?_))
  rw [M.if_pos_run hop, M.if_pos_run (by rw [← hc] at hin; exact hin)]
  exact feInSlot_performs (e := doer i s) hc hg hn ht hfull hcl hd

theorem fe_requests {s4 : State} {x : Ctx} {g : BitVec 16} (hc : s3.ctx s.cur.1 s.cur.2 = x) (hg : ((s3.core c).gov x.gen off).1 = g) (hop : op.wants = true)
    (hin : ¬(c = s.cur.1 ∨ x.isPort d.toNat = true ∨ (x.bound? d.toNat).isSome = true)) (hn : x.nL < 63)
    (ht : (((s3.core c).gov x.gen off).2 && (s3.core c).stamp off != g) = false) (hfull : (s3.core c).seenFull g off = true)
    (hcl : claimed s3 s.cur.1 s.cur.2 c off true = false)
    (hwr : waitReg d.toNat (doer i s) (counted (doer i s) .L s3) = .ok ((), counted (doer i s) .L s3))
    (hd : Ready (doer i s) d (feNumbered op (doer i s) (feEffect op s.cur.1 x c off g v (counted (doer i s) .L s3))) none s4) :
    exec i s = .next (requested (doer i s) d (.taken (w64 ((s3.core c).lsRead g off 8))) l none false s s4) := by
  rw [← hop] at hfull hcl
  refine hx.trans ((run_starts _ hs).trans ?_)
  rw [feBody_reaches ha hv hf hl hb hw, M.if_pos_run hop, M.if_neg_run (by rw [← hc] at hin; exact hin),
    feRequests_performs (e := doer i s) hc hg hn ht hfull hcl hwr]
  exact finish_request (pc := s.who.pc) hd (fun r h => nomatch h)

theorem fe_loadParks {x : Ctx} {g : BitVec 16} (hc : s3.ctx s.cur.1 s.cur.2 = x) (hg : ((s3.core c).gov x.gen off).1 = g) (hop : op.wants = true)
    (hin : c = s.cur.1) (hn : x.nL < 63) (ht : (((s3.core c).gov x.gen off).2 && (s3.core c).stamp off != g) = false)
    (hfull : (s3.core c).seenFull g off = false) :
    exec i s = .next (s.parkOn s.cur.1 s.cur.2 { list := 2, object := BitVec.ofNat 48 (bits l.ptr 47 0), cond := .fe c off true }) := by
  have hsete : op ≠ .sete := fun h => by rw [h] at hop; exact absurd hop (by decide)
  refine hx.trans ((run_parks (keep := id) hs ((feBody_reaches ha hv hf hl hb hw).trans ?_)))
  rw [M.if_pos_run hop, M.if_pos_run (.inl hin), ← hop]
  exact feInSlot_parks (e := doer i s) hc hg hsete hn ht (by rw [hop]; exact hfull)

theorem fe_stores {x : Ctx} {g : BitVec 16} (hc : s3.ctx s.cur.1 s.cur.2 = x) (hg : ((s3.core c).gov x.gen off).1 = g) (hop : op.wants = false)
    (hn : x.nS < 63) (hst : feStored s3 x.tenant c off l.win)
    (hok : op ≠ .sete → (((s3.core c).gov x.gen off).2 && (s3.core c).stamp off != g) = false ∧
      (s3.core c).seenFull g off = op.wants ∧ claimed s3 s.cur.1 s.cur.2 c off op.wants = false) :
    exec i s = .next (ended s ((feNumbered op (doer i s) (feEffect op s.cur.1 x c off g v (counted (doer i s) .S s3))).modCtx s.cur.1 s.cur.2
      (fun y => { y with nS := y.nS - 1 }))) := by
  refine hx.trans (run_completes hs ((feBody_reaches ha hv hf hl hb hw).trans ?_))
  rw [M.if_neg_run (ne_true_of_eq_false hop)]
  exact feStores_performs (e := doer i s) hc hg (feListed ha hv hf) hn hst hok

theorem fe_refused {x : Ctx} (hc : s3.ctx s.cur.1 s.cur.2 = x) (hop : op.wants = false) (hn : x.nS < 63) (hst : ¬feStored s3 x.tenant c off l.win) :
    exec i s = .next (ended s (feRefused (doer i s) l v s3)) := by
  refine hx.trans (run_completes hs ((feBody_reaches ha hv hf hl hb hw).trans ?_))
  rw [M.if_neg_run (ne_true_of_eq_false hop), feStores_refuses (e := doer i s) hc rfl (feListed ha hv hf) hn hst, M.bind_ok (refuseStore_run 1)]
  rfl

theorem fe_storeParks {x : Ctx} {g : BitVec 16} (hc : s3.ctx s.cur.1 s.cur.2 = x) (hg : ((s3.core c).gov x.gen off).1 = g) (hop : op = .stfe)
    (hn : x.nS < 63) (hst : feStored s3 x.tenant c off l.win) (ht : (((s3.core c).gov x.gen off).2 && (s3.core c).stamp off != g) = false)
    (hfull : (s3.core c).seenFull g off = true) :
    exec i s = .next (s.parkOn s.cur.1 s.cur.2 { list := 2, object := BitVec.ofNat 48 (bits l.ptr 47 0), cond := .fe c off false }) := by
  subst hop
  refine hx.trans ((run_parks (keep := id) hs ((feBody_reaches ha hv hf hl hb hw).trans ?_)))
  rw [M.if_neg_run (by decide)]
  exact feStores_parks (e := doer i s) hc hg (feListed ha hv hf) (by decide) hn hst ht hfull

end

/-- Settles O16: each operation in the state it needs, refused, and parked in the other state. -/
theorem fullEmptyWords : Obligations.FullEmptyWords := by
  unfold Obligations.FullEmptyWords
  refine ⟨?_, ?_, ?_⟩
  · intro d a imm s s1 s2 s3 s4 base v l c off core x g trap old p last got next stored by_ idle empty keep out inSlot hl
    refine ⟨?_, ?_, ?_, ?_⟩
    · intro row hrow i e hs ha hf hb hidle hn ht hfull hcl
      obtain ⟨hm, hbuf⟩ := Bool.and_eq_true_iff.mp hidle
      have hw := waitSame_idle hm hbuf
      rcases List.mem_pair.mp hrow with rfl | rfl
      · exact ⟨fun hin hd => fe_inSlot (op := .ldfe) rfl hs ha rfl hf hl hb hw rfl rfl rfl hin hn ht hfull hcl hd,
          fun hin hwr hd => fe_requests (op := .ldfe) rfl hs ha rfl hf hl hb hw rfl rfl rfl hin hn ht hfull hcl hwr hd⟩
      · exact ⟨fun hin hd => fe_inSlot (op := .ldff) rfl hs ha rfl hf hl hb hw rfl rfl rfl hin hn ht hfull hcl hd,
          fun hin hwr hd => fe_requests (op := .ldff) rfl hs ha rfl hf hl hb hw rfl rfl rfl hin hn ht hfull hcl hwr hd⟩
    · intro hs ha hv hf hb hp hn hst ht hfull hcl u
      exact fe_stores (op := .stfe) rfl hs ha (readVal_of hv) hf hl hb (waitPerformed_done hp) rfl rfl rfl hn hst fun _ => ⟨ht, hfull, hcl⟩
    · intro hs ha hf hb hidle hn hst u
      obtain ⟨hm, hbuf⟩ := Bool.and_eq_true_iff.mp hidle
      exact fe_stores (op := .sete) (d := 0) rfl hs ha rfl hf hl hb (waitSame_idle hm hbuf) rfl rfl rfl hn hst fun h => absurd rfl h
    · intro row hrow i e hs ha hv hsete hf hb hready hn hst
      refine ⟨feRefused e l (if i = .sete a imm then 0 else v.val) s3, ?_, feRefused_sameMemory, feRefused_fe c, feRefused_nS (e := e),
        feRefused_records (e := e)⟩
      rcases List.mem_pair.mp hrow with rfl | rfl
      · exact fe_refused (op := .stfe) rfl hs ha (readVal_of (hv rfl)) hf hl hb (waitPerformed_done hready) rfl rfl hn hst
      · obtain ⟨hm, hbuf⟩ := Bool.and_eq_true_iff.mp hready
        have h21 := hsete rfl
        subst h21
        rw [if_pos rfl]
        exact fe_refused (op := .sete) (d := 0) rfl hs ha rfl hf hl hb (waitSame_idle hm hbuf) rfl rfl hn hst
  · intro row hrow d a imm s s2 s3 base l off i e g hl hs ha hf hb hm hbuf hn ht hfull
    have hw := waitSame_idle hm hbuf
    rcases List.mem_pair.mp hrow with rfl | rfl
    · exact fe_loadParks (op := .ldfe) rfl hs ha rfl hf hl hb hw rfl rfl rfl rfl hn ht hfull
    · exact fe_loadParks (op := .ldff) rfl hs ha rfl hf hl hb hw rfl rfl rfl rfl hn ht hfull
  · intro x a imm s s1 s2 s3 base v l c off i e g hl hs ha hv hf hb hp hn ht hfull hst
    exact fe_storeParks (op := .stfe) rfl hs ha (readVal_of hv) hf hl hb (waitPerformed_done hp) rfl rfl rfl hn
      (or_iff_not_imp_left.mpr fun h => hst (not_not.mp h)) ht hfull

end Sys2Proof.Machine
end

section
/-! PROOF. Memory ordering: what a Read takes, what a context has then seen, and what a Commit leaves (R225, R227 to R232, R235). -/

namespace Sys2Proof.Machine

/-! ### The bytes of a read (R226) -/

theorem State.readAt_one_lt (s : State) (q : Place) (own : BitVec 16) : s.readAt q 1 own < 256 := by
  cases q with
  | ls c off =>
    show (s.core c).lsRead ((s.core c).gov own off).1 off 1 < 256
    rw [Core.lsRead_one]
    split
    · exact BitVec.isLt _
    · decide
  | hbm m => simpa [State.readAt, Memory.read] using BitVec.isLt (Memory.byte s.hbm m)
  | host m => simpa [State.readAt, Memory.read] using BitVec.isLt (Memory.byte s.hostMem m)
  | peer k m => exact Nat.mod_lt _ (by decide)

/-- A read gives a byte as the write that it took has it, or as memory has it where that is the newest. -/
theorem State.byteOf_some (s : State) (own : BitVec 16) (q : Place) (w : Wr) :
    s.byteOf own q (some w) = w.val.toNat ∨ (s.byteOf own q (some w) = s.readAt q 1 own ∧ (s.wset q).head?.map (fun y => y.n) = some w.n) := by
  unfold State.byteOf
  cases s.wset q with
  | nil => exact .inl rfl
  | cons y l =>
    dsimp only
    split
    · next h => exact .inr ⟨rfl, congrArg some h.symm⟩
    · exact .inl rfl

theorem State.byteOf_none (s : State) (own : BitVec 16) (q : Place) : s.byteOf own q none = s.readAt q 1 own := by
  unfold State.byteOf
  cases s.wset q <;> rfl

theorem State.byteOf_lt (s : State) (own : BitVec 16) (q : Place) (o : Option Wr) : s.byteOf own q o < 256 := by
  cases o with
  | none => rw [State.byteOf_none]; exact s.readAt_one_lt q own
  | some w =>
    rcases s.byteOf_some own q w with h | ⟨h, -⟩ <;> rw [h]
    · exact BitVec.isLt _
    · exact s.readAt_one_lt q own

/-- Byte j of a read of n bytes. -/
theorem State.bytesOf_byte (s : State) (own : BitVec 16) (f : Place → Option Wr) : ∀ (n j : Nat) (pl : Place), j < n →
    s.bytesOf own f pl n / 256 ^ j % 256 = s.byteOf own (pl.plus j) (f (pl.plus j))
  | n + 1, 0, pl, _ => by
    have h := s.byteOf_lt own pl (f pl)
    rw [Place.plus_zero, State.bytesOf, pow_zero, Nat.div_one]
    omega
  | n + 1, j + 1, pl, hj => by
    have h := s.byteOf_lt own pl (f pl)
    have hdiv : (s.byteOf own pl (f pl) + 256 * s.bytesOf own f (pl.plus 1) n) / 256 = s.bytesOf own f (pl.plus 1) n := by omega
    rw [State.bytesOf, pow_succ', ← Nat.div_div_eq_div_mul, hdiv, State.bytesOf_byte s own f n j (pl.plus 1) (Nat.lt_of_succ_lt_succ hj), Place.plus_plus,
      Nat.add_comm 1 j]

/-! ### The writes that a read takes (R230, R231) -/

section
variable {v : View} {s : State} {q pl : Place} {w : Wr} {n d : Nat}

/-- What a read may take for a byte: a write among which it chooses and that may be returned, or else memory as it is, where that
may be or where no write may. -/
def View.takes (v : View) (s : State) (q : Place) : Option Wr → Prop
  | some w => w ∈ v.cands s q ∧ v.allows s q (some w) = true
  | none => v.allows s q none = true ∨ ∀ w ∈ v.cands s q, v.allows s q (some w) = false

theorem View.top_takes : v.takes s q (v.top s q) := by
  unfold View.top
  cases h : (v.cands s q).find? (fun w => v.allows s q (some w)) with
  | none => exact .inr fun w hw => Bool.eq_false_iff.mpr (List.find?_eq_none.mp h w hw)
  | some w => exact ⟨List.mem_of_find?_eq_some h, List.find?_some (p := fun w => v.allows s q (some w)) h⟩

/-- What is chosen among a byte's writes and may be returned may be taken. -/
theorem View.takes_of_allows {o : Option Wr} (ho : ∀ w, o = some w → w ∈ v.cands s q) (ha : v.allows s q o = true) : v.takes s q o := by
  cases o with
  | none => exact .inl ha
  | some w => exact ⟨ho w rfl, ha⟩

theorem View.mem_of_glimpse (h : v.glimpse s d q = some w) : w ∈ v.cands s q := List.mem_of_find?_eq_some h

theorem View.mem_of_prefer {u : Wr} (h : v.prefer s u q = some w) : w ∈ v.cands s q := by
  unfold View.prefer at h
  split at h
  · next hu =>
    cases h
    exact List.mem_of_find?_eq_some hu
  · exact List.mem_of_find?_eq_some h

/-- A read of n bytes takes for each of them what it may. -/
theorem View.pick_takes {j : Nat} (hj : j < n) : v.takes s (pl.plus j) (v.pick s d pl n (pl.plus j)) := by
  have hfits : ∀ f : Place → Option Wr, (List.range n).all (fun j => v.allows s (pl.plus j) (f (pl.plus j))) = true →
      v.allows s (pl.plus j) (f (pl.plus j)) = true := fun f h => List.all_eq_true.mp h j (List.mem_range.mpr hj)
  unfold View.pick
  dsimp only
  split
  · next h => exact View.takes_of_allows (fun w => View.mem_of_glimpse) (hfits _ h)
  · generalize hu : List.find? _ _ = o
    cases o with
    | none => exact View.top_takes
    | some u =>
      exact View.takes_of_allows (fun w => View.mem_of_prefer)
        (hfits _ (List.find?_some (p := fun w => (List.range n).all (fun j => v.allows s (pl.plus j) (v.prefer s w (pl.plus j)))) hu))

/-- A write that may be returned is ordered before none that the reader has seen or whose bound has passed, and gives way to the reader's own newest
buffered store alone. -/
theorem View.allows_some (h : v.allows s q (some w) = true) : v.also q w = true ∧
    (∀ u ∈ v.cands s q, v.r.knows q u = true ∨ s.overdue q u = true → u.isAfter w = false) ∧
    ∀ b, v.mine q = some b → w.n = b.n ∨ w.isAfter b = true := by
  unfold View.allows at h
  simp only [Bool.and_eq_true] at h
  obtain ⟨⟨⟨-, halso⟩, hall⟩, hmine⟩ := h
  refine ⟨halso, fun u hu hk => ?_, fun b hb => ?_⟩
  · have hno := List.all_eq_true.mp hall u hu
    rw [Bool.not_eq_true', Bool.and_eq_false_iff] at hno
    exact hno.resolve_right fun hf => Bool.false_ne_true (hf.symm.trans (Bool.or_eq_true_iff.mpr hk))
  · rw [hb] at hmine
    simpa using hmine

theorem View.allows_none (h : v.allows s q none = true) : v.mine q = none ∧ (s.stale v.own q = true ∨ s.wset q = []) := by
  unfold View.allows at h
  simpa [and_comm] using h

/-- Some byte has a write other than the newest that may be read, or a buffered store that may be. -/
def View.chooses (v : View) (s : State) (pl : Place) (n : Nat) : Bool :=
  s.hasOlder v.r v.own v.also pl n || (List.range n).any (fun j => !(v.bufs (pl.plus j)).isEmpty)

theorem viewRead_chosen (h : v.chooses s pl n = true) : s.viewRead v pl n =
    (s.bytesOf v.own (v.pick s s.draw.1 pl n) pl n, wrsOf (v.pick s s.draw.1 pl n) pl n, s.draw.2) := if_pos h

theorem viewRead_settled (h : v.chooses s pl n = false) :
    s.viewRead v pl n = (s.readAt pl n v.own, wrsOf (fun q => if s.stale v.own q then none else (s.wset q).head?) pl n, s) :=
  if_neg (ne_true_of_eq_false h)

/-- Reading draws a free value at most. -/
theorem viewRead_ord : (s.viewRead v pl n).2.2.ord = s.ord := by
  unfold State.viewRead
  dsimp only
  split <;> rfl

/-- Byte j of a read that chooses. -/
theorem viewRead_byte (h : v.chooses s pl n = true) {j : Nat} (hj : j < n) : ∃ o, v.takes s (pl.plus j) o ∧
    (s.viewRead v pl n).1 / 256 ^ j % 256 = s.byteOf v.own (pl.plus j) o := by
  rw [viewRead_chosen h]
  exact ⟨_, View.pick_takes hj, s.bytesOf_byte v.own _ n j pl hj⟩

/-- A read that chooses takes a write that may be returned, or memory as it is. -/
theorem viewRead_chooses (h : v.chooses s pl n = true) {j : Nat} (hj : j < n) :
    let q := pl.plus j
    let got := (s.viewRead v pl n).1 / 256 ^ j % 256
    (∃ w ∈ v.cands s q, v.allows s q (some w) = true ∧
      (got = w.val.toNat ∨ (got = s.readAt q 1 v.own ∧ (s.wset q).head?.map (fun y => y.n) = some w.n))) ∨
    (got = s.readAt q 1 v.own ∧ (v.allows s q none = true ∨ ∀ w ∈ v.cands s q, v.allows s q (some w) = false)) := by
  intro q got
  obtain ⟨o, ho, hgot⟩ := viewRead_byte h hj
  have hgot : got = s.byteOf v.own q o := hgot
  rw [hgot]
  cases o with
  | none => exact .inr ⟨s.byteOf_none v.own q, ho⟩
  | some w => exact .inl ⟨w, ho.1, ho.2, s.byteOf_some v.own q w⟩

end

/-! ### A Read that no buffered store serves -/

section
variable {s : State} {r : Reader} {own : BitVec 16} {also : Place → Wr → Bool} {pl : Place} {n : Nat}

theorem View.chooses_memory : (View.chooses { r := r, own := own, also := also } s pl n) = s.hasOlder r own also pl n := by
  unfold View.chooses
  simp

/-- Where no older write may be returned, a Read takes what memory holds, and draws nothing. -/
theorem weakRead_settled (h : s.hasOlder r own also pl n = false) :
    (s.weakRead r own also pl n).1 = s.readAt pl n own ∧ (s.weakRead r own also pl n).2.2 = s := by
  unfold State.weakRead
  rw [viewRead_settled (View.chooses_memory.trans h)]
  exact ⟨rfl, rfl⟩

/-- Else it takes of each byte what memory holds or a write that may be returned. -/
theorem weakRead_chooses (h : s.hasOlder r own also pl n = true) : (s.weakRead r own also pl n).2.2 = s.draw.2 ∧ ∀ j, j < n →
    (s.weakRead r own also pl n).1 / 256 ^ j % 256 = s.readAt (pl.plus j) 1 own ∨
    ∃ w ∈ s.wset (pl.plus j), (s.weakRead r own also pl n).1 / 256 ^ j % 256 = w.val.toNat ∧ also (pl.plus j) w = true ∧
      ∀ u ∈ s.wset (pl.plus j), r.knows (pl.plus j) u = true ∨ s.overdue (pl.plus j) u = true → u.isAfter w = false := by
  have ho := View.chooses_memory.trans h
  refine ⟨congrArg (fun a => a.2.2) (viewRead_chosen ho), fun j hj => ?_⟩
  rcases viewRead_chooses ho hj with ⟨w, hw, ha, hval | ⟨hval, -⟩⟩ | ⟨hval, -⟩
  · obtain ⟨halso, hmax, -⟩ := View.allows_some ha
    have hcands : View.cands { r := r, own := own, also := also } s (pl.plus j) = s.wset (pl.plus j) := by
      refine if_neg fun hs => ?_
      unfold View.cands at hw
      rw [if_pos hs] at hw
      exact List.not_mem_nil hw
    rw [hcands] at hw hmax
    exact .inr ⟨w, hw, hval, halso, hmax⟩
  · exact .inl hval
  · exact .inl hval

end

/-! ### What a read of a context returns (R230, R231) -/

section
variable {s : State} {c : Nat} {x : Ctx} {before : Nat} {acq : Option Parties} {pl : Place} {n : Nat}

/-- With nothing to choose, the read takes what memory holds, and no buffered store reaches it. -/
theorem ctxRead_settled (h : (s.ctxView c x before).chooses s pl n = false) :
    (s.ctxRead c x before acq pl n).1 = s.readAt pl n x.gen ∧ ∀ j, j < n → (s.ctxView c x before).bufs (pl.plus j) = [] := by
  refine ⟨(congrArg Prod.fst (viewRead_settled h) :), fun j hj => ?_⟩
  have hno := List.any_eq_false.mp (Bool.or_eq_false_iff.mp h).2 j (List.mem_range.mpr hj)
  simpa using hno

/-! ### Frontiers that grow -/

theorem Front.has_mark {f : Front} {q : Place} {w : Wr} (h : f.has q w = true) (p : Parties) (k : Nat) : (f.mark p k).has q w = true := by
  rcases Front.has_iff.mp h with ⟨m, hm, hp, hn⟩ | hs | he
  · exact Front.has_of_covers (Front.covers.mark ⟨m, hm, rfl, le_rfl⟩ p k) hp hn
  · exact Front.has_iff.mpr (.inr (.inl hs))
  · exact Front.has_iff.mpr (.inr (.inr he))

section
variable {u : Nat} {f : Front} {q : Place} {w : Wr}

theorem front_gain_has (h : (s.front u).has q w = true ∨ f.has q w = true) : ((s.gain u f).front u).has q w = true := by
  rw [State.front_gain_same]
  exact Front.has_join h

theorem front_gain_early {b : Nat × Nat} (h : b ∈ (s.front u).early ∨ b ∈ f.early) : b ∈ ((s.gain u f).front u).early := by
  rw [State.front_gain_same]
  exact mem_joinNew h

/-- What a context knows of it knows once it has gained more. -/
theorem knows_gain (h : (s.reader u).knows q w = true) : ((s.gain u f).reader u).knows q w = true := by
  unfold Reader.knows at h ⊢
  rw [Bool.or_eq_true] at h ⊢
  exact h.imp id fun h => front_gain_has (.inl h)

/-- A context knows of the committed writes that it has read. -/
theorem knows_see {l : List (Place × Wr)} (h : (q, w) ∈ l) (hn : w.n ≠ 0) : ((s.see u l).reader u).knows q w = true := by
  by_cases hk : (s.reader u).knows q w = true
  · exact knows_gain hk
  · have hseen : (q, w.n) ∈ (l.filter (fun e => e.2.n != 0 && !(s.reader u).knows e.1 e.2)).map (fun e => (e.1, e.2.n)) :=
      List.mem_map.mpr ⟨(q, w), List.mem_filter.mpr ⟨h, by simp [hn, hk]⟩, rfl⟩
    unfold Reader.knows
    exact Bool.or_eq_true_iff.mpr (.inr (front_gain_has (.inr (Front.has_iff.mpr (.inr (.inl hseen))))))

end

/-! ### What an acquire gains (R235) -/

theorem Parties.has_system (w : Writer) : Parties.system.has w = true := by cases w <;> rfl

/-- The acquire holds what it gains from each write that it reads. -/
theorem acquired_has {me : Writer} {p : Parties} {l : List (Place × Wr)} {e : Place × Wr} (he : e ∈ l) {q : Place} {w : Wr}
    (h : (e.2.acquired me p s.ord.commits).has q w = true) : (s.acquired me p l).has q w = true := by
  have hfold : ∀ (l : List (Place × Wr)) (f : Front), (f.has q w = true ∨ ∃ e ∈ l, (e.2.acquired me p s.ord.commits).has q w = true) →
      (l.foldl (fun (f : Front) e => f.join (e.2.acquired me p s.ord.commits)) f).has q w = true := by
    intro l
    induction l with
    | nil => exact fun f h => h.resolve_right fun ⟨_, hm, _⟩ => List.not_mem_nil hm
    | cons a l ih =>
      rintro f (h | ⟨e, hm, h⟩)
      · exact ih _ (.inl (Front.has_join (.inl h)))
      · rcases List.mem_cons.mp hm with rfl | hm
        · exact ih _ (.inl (Front.has_join (.inr h)))
        · exact ih _ (.inr ⟨e, hm, h⟩)
  exact hfold l {} (.inr ⟨e, he, h⟩)

/-- From a committed write an acquire gains its snapshot and the writes of the scope up to it, from a buffered store also all that is committed. -/
theorem Wr.acquired_has {w y : Wr} {me : Writer} {p : Parties} {now : Nat} {f : Front} {q : Place} (hn : w.n ≠ 0) (hp : p.has w.by_ = true)
    (hf : w.snapshot me = some f) (h : f.has q y = true ∨ (w.n ≤ now ∧ p.has y.by_ = true ∧ y.n ≤ w.n) ∨ (now < w.n ∧ y.n ≤ now)) :
    (w.acquired me p now).has q y = true := by
  unfold Wr.acquired
  rw [if_pos ⟨hn, hp⟩, hf]
  dsimp only
  split
  · next hle =>
    rcases h with h | ⟨-, hy, hyn⟩ | ⟨hlt, -⟩
    · exact Front.has_mark h _ _
    · exact Front.has_of_covers (Front.covers_mark_same ..) hy hyn
    · omega
  · next hlt =>
    rcases h with h | ⟨hle, -⟩ | ⟨-, hyn⟩
    · exact Front.has_mark h _ _
    · omega
    · exact Front.has_of_covers (Front.covers_mark_same ..) (Parties.has_system y.by_) hyn

/-! ### What a context has seen after a read (R230, R231, R235) -/

/-- A write that the read took, but for a buffered store of the context's own. -/
def ctxTook (s : State) (c : Nat) (x : Ctx) (before : Nat) (pl : Place) (n : Nat) (e : Place × Wr) : Prop :=
  e ∈ (s.viewRead (s.ctxView c x before) pl n).2.1 ∧ ∀ b, s.early e = some b → b.1 ≠ x.uid

/-- The state of a read before an acquire merges. -/
def ctxSeen (s : State) (c : Nat) (x : Ctx) (before : Nat) (pl : Place) (n : Nat) : State :=
  let r := s.viewRead (s.ctxView c x before) pl n
  let other := r.2.1.filter (fun e => match s.early e with | some b => b.1 != x.uid | none => true)
  (r.2.2.see x.uid (other.filter (fun e => (s.early e).isNone))).gain x.uid { early := (other.filterMap s.early).eraseDups }

theorem mem_ctxOther {e : Place × Wr} (h : ctxTook s c x before pl n e) :
    e ∈ (s.viewRead (s.ctxView c x before) pl n).2.1.filter (fun e => match s.early e with | some b => b.1 != x.uid | none => true) := by
  obtain ⟨hm, hb⟩ := h
  refine List.mem_filter.mpr ⟨hm, ?_⟩
  cases he : s.early e with
  | none => rfl
  | some b => exact bne_iff_ne.mpr (hb b he)

theorem ctxRead_acquires (p : Parties) : (s.ctxRead c x before (some p) pl n).2 = (ctxSeen s c x before pl n).gain x.uid
    (s.acquired (.ctx x.uid c x.tenant 0 0) p
      ((s.viewRead (s.ctxView c x before) pl n).2.1.filter (fun e => match s.early e with | some b => b.1 != x.uid | none => true))) := rfl

theorem ctxRead_knows {q : Place} {w : Wr} (h : ctxTook s c x before pl n (q, w)) (hn : w.n ≠ 0) (hc : w.n ≤ s.ord.commits) :
    ((s.ctxRead c x before acq pl n).2.reader x.uid).knows q w = true := by
  have hearly : s.early (q, w) = none := if_neg (Nat.not_lt.mpr hc)
  have hseen : ((ctxSeen s c x before pl n).reader x.uid).knows q w = true :=
    knows_gain (knows_see (List.mem_filter.mpr ⟨mem_ctxOther h, by rw [hearly]; rfl⟩) hn)
  cases acq with
  | none => exact hseen
  | some p => exact knows_gain hseen

theorem ctxRead_early {e : Place × Wr} {b : Nat × Nat} (h : ctxTook s c x before pl n e) (he : s.early e = some b) :
    b ∈ ((s.ctxRead c x before acq pl n).2.front x.uid).early := by
  have hseen : b ∈ ((ctxSeen s c x before pl n).front x.uid).early :=
    front_gain_early (.inr (List.mem_eraseDups.mpr (List.mem_filterMap.mpr ⟨e, mem_ctxOther h, he⟩)))
  cases acq with
  | none => exact hseen
  | some p => exact front_gain_early (.inl hseen)

theorem ctxRead_acquired {q a : Place} {w u : Wr} {p : Parties} {f : Front} (h : ctxTook s c x before pl n (q, w)) (hn : w.n ≠ 0) (hacq : acq = some p)
    (hp : p.has w.by_ = true) (hf : w.snapshot (.ctx x.uid c x.tenant 0 0) = some f)
    (hu : f.has a u = true ∨ (w.n ≤ s.ord.commits ∧ p.has u.by_ = true ∧ u.n ≤ w.n) ∨ (s.ord.commits < w.n ∧ u.n ≤ s.ord.commits)) :
    ((s.ctxRead c x before acq pl n).2.front x.uid).has a u = true := by
  subst hacq
  rw [ctxRead_acquires]
  exact front_gain_has (.inr (acquired_has (mem_ctxOther h) (Wr.acquired_has hn hp hf hu)))

end

/-! ### A write joins the write sets of its bytes (R229, R232) -/

/-- The write set that a write of a byte joins: what memory held before where none is recorded. -/
def State.writesBefore (s : State) (q : Place) : List Wr → List Wr
  | [] => [s.initial q]
  | l => l

/-- The writes of a byte that the writer has seen or made, but for those that are ordered after the new one already. -/
def priorWrs (k : Commit) (q : Place) (ws : List Wr) : List Wr :=
  ws.filter (fun v => (v.n == 0 || k.r.knows q v || v.by_.same k.by_) && !v.afterKey k.by_.key)

/-- The write of one byte under commit count n, joining the write set ws. -/
def State.joinedWr (s : State) (k : Commit) (g : BitVec 16) (n : Nat) (ws : List Wr) (b : Place × Byte) : Wr :=
  { n := n, time := s.cycle, val := b.2, gen := g, by_ := k.by_, rel := k.rel
    after := ((priorWrs k b.1 ws).flatMap (fun v => v.n :: v.after)).eraseDups
    afterB := (k.r.front.early ++ (priorWrs k b.1 ws).flatMap (fun v => v.afterB)).eraseDups }

/-- The write set after the write of a byte has joined ws. -/
def State.joinWr (s : State) (k : Commit) (g : BitVec 16) (n : Nat) (ws : List Wr) (b : Place × Byte) : List Wr :=
  insertWr (s.joinedWr k g n ws b) (ws.map (s.joinedWr k g n ws b).follow)

section
variable {s : State} {k : Commit} {g : BitVec 16} {o : Order} {b : Place × Byte} {q : Place}

theorem addWr_eq (s : State) (k : Commit) (g : BitVec 16) (o : Order) (b : Place × Byte) : s.addWr k g o b =
    { o with wsets := o.wsets.filter (fun e => e.1 != b.1) ++ [(b.1, s.joinWr k g o.commits (s.writesBefore b.1 (o.wset b.1)) b)] } := by
  unfold State.addWr State.writesBefore
  cases o.wset b.1 <;> rfl

theorem addWr_wset_same : (s.addWr k g o b).wset b.1 = s.joinWr k g o.commits (s.writesBefore b.1 (o.wset b.1)) b := by
  have hnone : (o.wsets.filter (fun e => e.1 != b.1)).find? (fun e => e.1 == b.1) = none := by
    refine List.find?_eq_none.mpr fun e he => ?_
    simpa using (List.mem_filter.mp he).2
  rw [addWr_eq]
  generalize s.joinWr k g o.commits (s.writesBefore b.1 (o.wset b.1)) b = l
  unfold Order.wset
  dsimp only
  rw [List.find?_append, hnone, Option.none_or, List.find?_cons_of_pos (by exact beq_self_eq_true _)]

theorem addWr_wset_ne (h : q ≠ b.1) : (s.addWr k g o b).wset q = o.wset q := by
  have hf : ∀ l : List (Place × List Wr), (l.filter (fun e => e.1 != b.1)).find? (fun e => e.1 == q) = l.find? (fun e => e.1 == q) := by
    intro l
    rw [List.find?_filter]
    refine congrArg (fun p => List.find? p l) (funext fun e => ?_)
    by_cases he : e.1 = q
    · simp [he, h]
    · simp [he]
  rw [addWr_eq]
  generalize s.joinWr k g o.commits (s.writesBefore b.1 (o.wset b.1)) b = l
  unfold Order.wset
  dsimp only
  rw [List.find?_append, hf, List.find?_cons_of_neg (by simpa using h.symm), List.find?_nil, Option.or_none]

/-- Of the bytes of one write each joins the write set that it had before. -/
theorem foldl_addWr_wset : ∀ (l : List (Place × Byte)) (o : Order), (l.map Prod.fst).Nodup → b ∈ l →
    (l.foldl (s.addWr k g) o).wset b.1 = s.joinWr k g o.commits (s.writesBefore b.1 (o.wset b.1)) b := by
  have hother : ∀ (l : List (Place × Byte)) (o : Order), b.1 ∉ l.map Prod.fst → (l.foldl (s.addWr k g) o).wset b.1 = o.wset b.1 := by
    intro l
    induction l with
    | nil => exact fun o _ => rfl
    | cons a l ih =>
      intro o h
      obtain ⟨ha, hl⟩ := not_or.mp (fun h' => h (List.mem_cons.mpr h'))
      exact (ih _ hl).trans (addWr_wset_ne ha)
  intro l
  induction l with
  | nil => exact fun _ _ h => absurd h List.not_mem_nil
  | cons a l ih =>
    intro o hd hb
    obtain ⟨ha, hd⟩ := List.nodup_cons.mp hd
    rcases List.mem_cons.mp hb with rfl | hb
    · exact (hother l _ ha).trans addWr_wset_same
    · have hne : b.1 ≠ a.1 := fun h => ha (h ▸ List.mem_map_of_mem hb)
      refine (ih (s.addWr k g o a) hd hb).trans ?_
      rw [addWr_wset_ne hne]
      rfl

theorem foldl_addWr_commits (l : List (Place × Byte)) (o : Order) : (l.foldl (s.addWr k g) o).commits = o.commits := by
  induction l generalizing o with
  | nil => rfl
  | cons a l ih => exact ih _

/-! ### The bytes of a write -/

/-- The bytes of the write lie in one granule, where they lie in a local store. -/
def inGranule : Place → Nat → Prop
  | .ls _ a, n => a / 32 = (a + n - 1) / 32
  | _, _ => True

theorem Place.plus_inj {pl : Place} {i j : Nat} (h : pl.plus i = pl.plus j) : i = j := by
  cases pl <;> simpa [Place.plus] using h

theorem mem_storedBytes {pl : Place} {n v j : Nat} (hg : inGranule pl n) (hj : j < n) :
    (pl.plus j, BitVec.ofNat 8 (v / 256 ^ j)) ∈ s.storedBytes pl n v g := by
  have hown : (pl.plus j, BitVec.ofNat 8 (v / 256 ^ j)) ∈ (List.range n).map (fun j => (pl.plus j, BitVec.ofNat 8 (v / 256 ^ j))) :=
    List.mem_map.mpr ⟨j, List.mem_range.mpr hj, rfl⟩
  unfold State.storedBytes
  cases pl with
  | ls c off =>
    dsimp only
    split
    · exact hown
    · have hg : off / 32 = (off + n - 1) / 32 := hg
      refine List.mem_map.mpr ⟨off + j, List.mem_map.mpr ⟨off % 32 + j, List.mem_range.mpr (by omega), by omega⟩, ?_⟩
      rw [if_pos (by omega), Nat.add_sub_cancel_left]
      rfl
  | hbm m => exact hown
  | host m => exact hown
  | peer i m => exact hown

theorem storedBytes_nodup (s : State) (pl : Place) (n v : Nat) (g : BitVec 16) : ((s.storedBytes pl n v g).map Prod.fst).Nodup := by
  have hown : (((List.range n).map (fun j => (pl.plus j, BitVec.ofNat 8 (v / 256 ^ j)))).map Prod.fst).Nodup := by
    rw [List.map_map]
    exact List.nodup_range.map fun i j h => Place.plus_inj h
  unfold State.storedBytes
  cases pl with
  | ls c off =>
    dsimp only
    split
    · exact hown
    · rw [List.map_map, List.map_map]
      refine List.nodup_range.map fun i j h => ?_
      have h : Place.ls c (off / 32 * 32 + i) = Place.ls c (off / 32 * 32 + j) := h
      simpa using h
  | hbm m => exact hown
  | host m => exact hown
  | peer i m => exact hown

/-- The write set of a byte once a write of it is recorded. -/
theorem record_wset {pl : Place} {n v j : Nat} (hg : inGranule pl n) (hj : j < n) : (s.record k pl n v g).wset (pl.plus j) =
    s.joinWr k g (s.ord.commits + 1) (s.writesBefore (pl.plus j) (s.wset (pl.plus j))) (pl.plus j, BitVec.ofNat 8 (v / 256 ^ j)) :=
  foldl_addWr_wset (b := (pl.plus j, BitVec.ofNat 8 (v / 256 ^ j))) _ _ (storedBytes_nodup s pl n v g) (mem_storedBytes hg hj)

end

/-! ### What the new write is ordered after, and what after it (R229, R231) -/

section
variable {s : State} {k : Commit} {g : BitVec 16} {n : Nat} {ws : List Wr} {b : Place × Byte} {u : Wr}

theorem mem_writesBefore {q : Place} {l : List Wr} (h : u ∈ l) : u ∈ s.writesBefore q l := by
  cases l with
  | nil => exact absurd h List.not_mem_nil
  | cons v l => exact h

theorem joinedWr_mem : s.joinedWr k g n ws b ∈ s.joinWr k g n ws b := mem_insertWr.mpr (.inl rfl)

/-- The new write is ordered after each write that its writer has seen or made, and after what that is ordered after. -/
theorem joinedWr_after (hu : u ∈ ws) (hk : k.r.knows b.1 u = true ∨ u.by_.same k.by_ = true) (hl : u.afterKey k.by_.key = false) :
    u.n ∈ (s.joinedWr k g n ws b).after ∧ (∀ m ∈ u.after, m ∈ (s.joinedWr k g n ws b).after) ∧
    ∀ e ∈ u.afterB, e ∈ (s.joinedWr k g n ws b).afterB := by
  have hprior : u ∈ priorWrs k b.1 ws := by
    refine List.mem_filter.mpr ⟨hu, ?_⟩
    rw [hl, Bool.not_false, Bool.and_true, Bool.or_assoc, Bool.or_eq_true, Bool.or_eq_true]
    exact .inr hk
  have hafter : ∀ m ∈ u.n :: u.after, m ∈ (s.joinedWr k g n ws b).after := fun m hm => List.mem_eraseDups.mpr (List.mem_flatMap.mpr ⟨u, hprior, hm⟩)
  exact ⟨hafter _ List.mem_cons_self, fun m hm => hafter m (List.mem_cons_of_mem _ hm),
    fun e he => List.mem_eraseDups.mpr (List.mem_append_right _ (List.mem_flatMap.mpr ⟨u, hprior, he⟩))⟩

theorem joinedWr_early {e : Nat × Nat} (he : e ∈ k.r.front.early) : e ∈ (s.joinedWr k g n ws b).afterB :=
  List.mem_eraseDups.mpr (List.mem_append_left _ he)

/-- A write that is ordered after the new one already is then ordered after all that the new one is. -/
theorem joinWr_follows (hu : u ∈ ws) (hl : u.afterKey k.by_.key = true) : ∃ y ∈ s.joinWr k g n ws b, y.n = u.n ∧ n ∈ y.after ∧
    ∀ m ∈ (s.joinedWr k g n ws b).after, m ∈ y.after := by
  have hy : (s.joinedWr k g n ws b).follow u =
      { u with after := (u.after ++ n :: (s.joinedWr k g n ws b).after).eraseDups, afterB := (u.afterB ++ (s.joinedWr k g n ws b).afterB).eraseDups } :=
    if_pos hl
  refine ⟨_, mem_insertWr.mpr (.inr (List.mem_map.mpr ⟨u, hu, rfl⟩)), ?_⟩
  rw [hy]
  have hafter : ∀ m ∈ n :: (s.joinedWr k g n ws b).after, m ∈ (u.after ++ n :: (s.joinedWr k g n ws b).after).eraseDups := fun m hm =>
    List.mem_eraseDups.mpr (List.mem_append_right _ hm)
  exact ⟨rfl, hafter n List.mem_cons_self, fun m hm => hafter m (List.mem_cons_of_mem _ hm)⟩

/-- Where none is ordered after it, the new write is the newest. -/
theorem joinWr_newest (h : ∀ u ∈ ws, u.afterKey k.by_.key = false ∧ n ∉ u.after) : (s.joinWr k g n ws b).head? = some (s.joinedWr k g n ws b) := by
  have hsame : ws.map (s.joinedWr k g n ws b).follow = ws :=
    (List.map_congr_left (g := id) fun u hu => if_neg (ne_true_of_eq_false (h u hu).1)).trans (List.map_id ws)
  have hnone : ws.any (fun u => u.isAfter (s.joinedWr k g n ws b)) = false := by
    refine List.any_eq_false.mpr fun u hu => ?_
    obtain ⟨hl, hn⟩ := h u hu
    have hl : u.afterKey (s.joinedWr k g n ws b).by_.key = false := hl
    have hn : u.after.contains (s.joinedWr k g n ws b).n = false := Bool.eq_false_iff.mpr fun h => hn (List.contains_iff_mem.mp h)
    unfold Wr.isAfter
    rw [hl, hn]
    decide
  unfold State.joinWr
  rw [hsame]
  generalize s.joinedWr k g n ws b = w at hnone ⊢
  cases ws with
  | nil => rfl
  | cons v l =>
    unfold insertWr
    rw [hnone]
    rfl

end

/-! ### A Commit (R232) -/

section
variable {s : State} {k : Commit} {pl : Place} {n v : Nat} {own : BitVec 16}

/-- Bytes that are written concern the order no more. -/
theorem writeAt_ord (s : State) (pl : Place) (n v : Nat) (own : BitVec 16) : (s.writeAt pl n v own).ord = s.ord := by
  unfold State.writeAt
  cases pl with
  | hbm m => dsimp only; split <;> rfl
  | ls c off => rfl
  | host a => rfl
  | peer j a => rfl

/-- A place that a commit writes: in a local store the bytes lie in one granule, in HBM under a key that stands. -/
def commitWrites (s : State) (n : Nat) : Place → Prop
  | .ls _ a => a / 32 = (a + n - 1) / 32
  | .hbm a => s.host.dead.contains (a / 65536) = false
  | .host _ => True
  | .peer _ _ => False

theorem commit_ord (h : commitWrites s n pl) : inGranule pl n ∧ ∃ g, (s.commit k pl n v own).ord = (s.record k pl n v g).ord := by
  unfold State.commit
  cases pl with
  | ls c off => exact ⟨h, _, writeAt_ord ..⟩
  | hbm m =>
    dsimp only
    rw [if_neg (ne_true_of_eq_false h)]
    exact ⟨trivial, _, writeAt_ord ..⟩
  | host m => exact ⟨trivial, _, writeAt_ord ..⟩
  | peer j m => exact h.elim

theorem commit_commits (h : commitWrites s n pl) : (s.commit k pl n v own).ord.commits = s.ord.commits + 1 := by
  obtain ⟨-, g, ho⟩ := commit_ord (k := k) (v := v) (own := own) h
  rw [ho]
  exact foldl_addWr_commits ..

/-- Each byte of a commit joins its write set. -/
theorem commit_wset (h : commitWrites s n pl) {j : Nat} (hj : j < n) : ∃ g, (s.commit k pl n v own).wset (pl.plus j) =
    s.joinWr k g (s.ord.commits + 1) (s.writesBefore (pl.plus j) (s.wset (pl.plus j))) (pl.plus j, BitVec.ofNat 8 (v / 256 ^ j)) := by
  obtain ⟨hg, g, ho⟩ := commit_ord (k := k) (v := v) (own := own) h
  refine ⟨g, ?_⟩
  rw [← record_wset hg hj]
  exact congrArg (fun o => Order.wset o (pl.plus j)) ho

/-- Where nothing is ordered after it the commit is what memory then holds. -/
theorem commit_newest (h : ∀ j, j < n → s.overtaken k (pl.plus j) = false) (q : Place) (g : BitVec 16) :
    (s.commit k pl n v own).readAt q 1 g = (s.writeAt pl n v own).readAt q 1 g := by
  have hc := commit_readsSame s k pl n v own q g
  rwa [writeAt_settled h] at hc

/-- No write that may stand in the byte's write set is ordered after one that is not overtaken. -/
theorem writesBefore_unordered {q : Place} (ho : s.overtaken k q = false) (hn : ∀ u ∈ s.wset q, (s.ord.commits + 1) ∉ u.after) :
    ∀ u ∈ s.writesBefore q (s.wset q), u.afterKey k.by_.key = false ∧ (s.ord.commits + 1) ∉ u.after := by
  unfold State.overtaken at ho
  intro u hu
  cases hw : s.wset q with
  | nil =>
    rw [hw] at hu
    rw [List.mem_singleton.mp hu]
    refine ⟨?_, List.not_mem_nil⟩
    cases k.by_.key <;> rfl
  | cons y l =>
    rw [hw] at hu
    have hu : u ∈ s.wset q := hw ▸ hu
    exact ⟨Bool.eq_false_iff.mpr (List.any_eq_false.mp ho u hu), hn u hu⟩

end

/-- Settles O10: what each byte of a read is taken from, what its context has then seen, and what the write set of each byte of a commit becomes. -/
theorem memoryOrder : Obligations.MemoryOrder := by
  unfold Obligations.MemoryOrder
  refine ⟨fun s r own also pl n => ⟨weakRead_settled, weakRead_chooses⟩, ?_, ?_⟩
  · intro s c x before acq pl n view v r took may
    refine ⟨rfl, ?_, fun q w => ctxRead_knows, fun e b => ctxRead_early, fun q a w u p f => ctxRead_acquired⟩
    cases ho : view.chooses s pl n with
    | false => exact .inl (ctxRead_settled ho)
    | true =>
      refine .inr fun j hj => ?_
      rcases viewRead_chooses ho hj with ⟨w, hw, ha, hgot⟩ | ⟨hgot, hnone⟩
      · obtain ⟨-, hmax, hmine⟩ := View.allows_some ha
        exact .inl ⟨w, hw, ⟨hmax, hmine⟩, hgot⟩
      · exact .inr ⟨hgot, hnone.imp View.allows_none id⟩
  · intro s k pl n v own _ hpl t
    have hc : commitWrites s n pl := by cases pl <;> exact hpl
    refine ⟨commit_commits hc, commit_newest, fun j hj => ?_⟩
    obtain ⟨g, hw⟩ := commit_wset (k := k) (v := v) (own := own) hc hj
    have hw : t.wset (pl.plus j) = _ := hw
    rw [hw]
    exact ⟨_, joinedWr_mem, rfl, rfl, rfl, rfl, fun ho hn => joinWr_newest (writesBefore_unordered ho hn),
      fun u hu hk hl => joinedWr_after (mem_writesBefore hu) hk hl,
      fun e => joinedWr_early, fun u hu => joinWr_follows (mem_writesBefore hu)⟩

end Sys2Proof.Machine
end
